-- ==== Sys2Proof/Word.lean ====
section
/-! DEFINITION. The word and byte types of the device (R3, R4: registers are 32-bit words, memory is bytes, multi-byte
values are little-endian) and their plainest arithmetic. -/
namespace Sys2Proof

/-- A 32-bit register or memory word (R4). -/
abbrev Word := BitVec 32

/-- One byte of memory. -/
abbrev Byte := BitVec 8

/-- A 64-bit value: a device address, a Meridian tick or a value under R4. -/
abbrev DWord := BitVec 64

/-- The word that holds a number modulo 2^32. -/
def word (n : Nat) : Word := BitVec.ofNat 32 n

/-- The signed reading of the low n bits of a number. -/
def signedOf (n v : Nat) : Int := (BitVec.ofNat n v).toInt

/-- The n-bit two's complement pattern of an integer. -/
def unsignedOf (n : Nat) (v : Int) : Nat := (BitVec.ofInt n v).toNat

/-- A count that saturates at the largest n-bit value. -/
def satAdd (n a b : Nat) : Nat := min (a + b) (2 ^ n - 1)

/-- An integer clamped to lo .. hi. -/
def clampInt (lo hi v : Int) : Int := max lo (min hi v)

/-- A number clamped to lo .. hi. -/
def clampNat (lo hi v : Nat) : Nat := max lo (min hi v)

/-- Bit i of a number. -/
def bitOf (v i : Nat) : Bool := v.testBit i

/-- Bits [lo + len - 1 : lo] of a number. -/
def bitsOf (v lo len : Nat) : Nat := (v >>> lo) % 2 ^ len

/-- One for true, zero for false. -/
def ofBool (b : Bool) : Nat := if b then 1 else 0

/-- Division rounded up. -/
def ceilDiv (a b : Nat) : Nat := (a + b - 1) / b

/-- The number a list of little-endian bytes stands for. -/
def leNat : List Byte → Nat
  | [] => 0
  | b :: bs => b.toNat + 256 * leNat bs

/-- The number a list of big-endian bytes stands for. -/
def beNat (bs : List Byte) : Nat := leNat bs.reverse

/-- The n little-endian bytes of a number. -/
def leBytes : Nat → Nat → List Byte
  | 0, _ => []
  | n + 1, v => BitVec.ofNat 8 v :: leBytes n (v / 256)

/-- The n big-endian bytes of a number. -/
def beBytes (n v : Nat) : List Byte := (leBytes n v).reverse

end Sys2Proof
end

