-- ==== Sys2Proof/Machine/Sparse.lean ====
section
/-! DEFINITION. Sparse tables: the plain-data form of every memory, register file and indexed group of units. A table is a
list of (key, value) pairs in ONE canonical form: keys strictly rising, and no entry equal to what an unlisted key reads
as; so equal tables are equal data. The value of an unlisted key is an argument, `d`. -/
namespace Sys2Proof.Machine

/-- A table from numbers to values, as a list of pairs. -/
abbrev Sparse (α : Type) := List (Nat × α)

/-- The value of a key: the listed one, or `d k`. -/
def Sparse.get {α : Type} (d : Nat → α) : Sparse α → Nat → α
  | [], k => d k
  | (k', v) :: t, k => if k = k' then v else if k < k' then d k else Sparse.get d t k

/-- The table with one key given a value, in canonical form: an entry that comes to equal the value of an unlisted key goes, with whatever a table
that is not in canonical form holds at or below it. -/
def Sparse.set {α : Type} [DecidableEq α] (d : Nat → α) : Sparse α → Nat → α → Sparse α
  | [], k, v => if v = d k then [] else [(k, v)]
  | (k', v') :: t, k, v =>
    if k < k' then (if v = d k then (k', v') :: t else (k, v) :: (k', v') :: t)
    else if k = k' then (if v = d k then t.filter (fun e => decide (k < e.1)) else (k, v) :: t)
    else (k', v') :: Sparse.set d t k v

/-- The canonical form: every key at least `lo`, keys strictly rising, no entry equal to the value of an unlisted key. -/
def Sparse.wfFrom {α : Type} [DecidableEq α] (d : Nat → α) : Nat → Sparse α → Bool
  | _, [] => true
  | lo, (k, v) :: t => decide (lo ≤ k) && decide (v ≠ d k) && Sparse.wfFrom d (k + 1) t

/-- The table is in canonical form. -/
def Sparse.wf {α : Type} [DecidableEq α] (d : Nat → α) (m : Sparse α) : Bool := Sparse.wfFrom d 0 m

/-- The table with every key from `lo` to `lo + n - 1` back at the value of an unlisted key. -/
def Sparse.eraseRange {α : Type} (lo n : Nat) (m : Sparse α) : Sparse α :=
  m.filter (fun e => !(decide (lo ≤ e.1) && decide (e.1 < lo + n)))

/-- The entries of `lo .. lo + n - 1` moved to start at `dst`, over what stood there (a bank copy, R416). -/
def Sparse.copyRange {α : Type} (lo dst n : Nat) (m : Sparse α) : Sparse α :=
  let part := (m.filter (fun e => decide (lo ≤ e.1) && decide (e.1 < lo + n))).map (fun e => (e.1 - lo + dst, e.2))
  let rest := m.filter (fun e => !(decide (dst ≤ e.1) && decide (e.1 < dst + n)))
  rest.filter (fun e => decide (e.1 < dst)) ++ part ++ rest.filter (fun e => decide (dst ≤ e.1))

/-- The table with a list of keys given values in order. -/
def Sparse.setMany {α : Type} [DecidableEq α] (d : Nat → α) (m : Sparse α) (k : Nat) : List α → Sparse α
  | [] => m
  | v :: vs => Sparse.setMany d (Sparse.set d m k v) (k + 1) vs

/-- `n` values from key `k` on. -/
def Sparse.getMany {α : Type} (d : Nat → α) (m : Sparse α) (k : Nat) : Nat → List α
  | 0 => []
  | n + 1 => Sparse.get d m k :: Sparse.getMany d m (k + 1) n

/-- A count advanced at each of a list of keys. -/
def countKeys (ks : List Nat) (m : Sparse Nat) : Sparse Nat :=
  ks.foldl (fun m k => Sparse.set (fun _ => 0) m k (Sparse.get (fun _ => 0) m k + 1)) m

end Sys2Proof.Machine
end

