-- ==== Sys2Proof/Machine/PinTypes.lean ====
section
/-! DEFINITION. The state of one pin: its drive side (R76 to R79), strobes (R80, R81), clock mode (R84), protection
(R104 to R106), level queue (R107 to R112), stamp unit, trigger units and averaging (R245 to R260), and single-interval
measurement (R275 to R282). Times are timebase times in 0.25 ps. -/
namespace Sys2Proof.Machine

/-- The data state of a driver (R76). -/
inductive DataLevel where
  | low | high | vtt
  deriving DecidableEq, Repr

/-- The drive-side state of a pin (R76). -/
structure Drive where
  enable : Bool
  data : DataLevel
  deriving DecidableEq, Repr

/-- A drive action of R75; `none` and the reserved codes are no action. -/
inductive DriveAct where
  | drive (d : DataLevel)
  | release
  | on
  | off
  deriving DecidableEq, Repr

/-- A placed drive-side edge: position, the vector that issued it, and its number (0 to 3 for D0 to D3, 4 for E0, 5 for
E1; R69, R77). -/
structure DriveEdge where
  pos : Nat
  vec : Nat
  num : Nat
  act : DriveAct
  deriving DecidableEq, Repr

/-- An open cluster of R79: where it started, the state before it and the state it has reached; the codes at its start that low, high
and VTT data and a release put on the pin, and the change before it that counts for R100. -/
structure Cluster where
  start : Nat
  before : Drive
  state : Drive
  codes : List (Option Nat)
  last : Option (Nat × Nat)
  deriving DecidableEq, Repr

/-- An expect code of R75 that compares. -/
inductive Expect where
  | low | high | mid | valid
  deriving DecidableEq, Repr

/-- Where a sampled bit goes: the transaction, as its captured bit of a number, and in the capture buffer at a position unless it is not stored; or the
WAITHI step of a number. -/
inductive CapTo where
  | store (seq : Nat) (pos : Option Nat)
  | wait (no : Nat)
  deriving DecidableEq, Repr

/-- What a placed strobe is: an edge strobe, one end of a window (R81), or a sample for the transaction engine (R318), with
its transaction. -/
inductive StrobeKind where
  | edge | windowOpen | windowClose
  | capture (num : Nat) (use : CapTo)
  deriving DecidableEq, Repr

/-- A placed strobe: position, vector, number (0 for S0, 1 for S1), expect code and kind. -/
structure Strobe where
  pos : Nat
  vec : Nat
  num : Nat
  expect : Expect
  kind : StrobeKind
  deriving DecidableEq, Repr

/-- An open compare window (R81). -/
structure OpenWindow where
  vec : Nat
  expect : Expect
  failed : Bool
  deriving DecidableEq, Repr

/-- Clock mode during a burst (R48, R84): the position A + phase, the next toggle number, the period, the level driven, the period
changes that wait for the toggles before them, oldest first, and the data state before it, which toggles do not change (R76). -/
structure ClockRun where
  base : Nat
  next : Int
  period : Nat
  high : Bool
  changes : List (Nat × Nat)
  data : DataLevel
  deriving DecidableEq, Repr

/-- A violation that trips the pin at the next sample instant (R105): over-voltage with its data, or over-current. -/
inductive TripDue where
  | none | ov (below : Bool) | oc | both (below : Bool)
  deriving DecidableEq, Repr

/-- An entry of the level queue (R108): the level set, its five codes, the instant it was made, and whether a command made it, which
an LVL of the same instant precedes (R109). -/
structure LevelEntry where
  set : Nat
  codes : List Nat
  made : Nat
  cmd : Bool
  deriving DecidableEq, Repr

/-- The level queue and slew limiter of a pin (R109, R112). -/
structure LevelState where
  queue : List LevelEntry
  busy : Bool
  target : List Nat
  div : Nat
  burstEvent : Bool
  deriving DecidableEq, Repr

/-- One crossing of a flag (R245): `high` names the high flag, `rising` the direction of the pin voltage. -/
structure CrossKind where
  high : Bool
  rising : Bool
  deriving DecidableEq, Repr

/-- An edge event at the stamp unit (R246): its first crossing with the flags after it, its pair crossing likewise, why it is missed
(0 dead time, 1 queue, 2 provisional store; R261), the vector that its first crossing belongs to, and the reference flag of R282 of that crossing; those
of the pair crossing stand last in `pair`. A crossing of an overrun vector, or from before the first vector, belongs to none (R249). Times are at the
reference plane (R247). -/
structure EdgeEvent where
  first : CrossKind
  firstAt : Nat
  firstLf : Bool
  firstHf : Bool
  pair : Option (Nat × Bool × Bool × Bool × Option Nat)
  missed : Option Nat
  vec : Option Nat
  ref : Bool
  deriving DecidableEq, Repr

/-- An acquisition result of a pin (R249, R250): a stamped crossing with the flags after it, whether it is the pair crossing,
the reference flag of R282 and the time of the first crossing of its event where that one counts; a crossing of a missed event, with the reason on the
first; the timeout of a trigger unit; or a marker (R251). -/
inductive AcqKind where
  | stamp (k : CrossKind) (lf hf pair ref : Bool) (prev : Option Nat)
  | missed (k : CrossKind) (why : Option Nat)
  | timeout (unit : Nat)
  | mark (value : Nat)
  deriving DecidableEq, Repr

/-- An acquisition result that waits for its vector to commit: the vector, its time and its kind. -/
structure AcqItem where
  vec : Nat
  time : Nat
  kind : AcqKind
  deriving DecidableEq, Repr

/-- A trigger unit's committed state (R254, R255): whether it is armed, the time from which crossings count (none
while it waits for its marker), the start of its
timeout (none where it is the time of a missed crossing, which the device does not know), the opening crossing of a pulse or runt, and whether event
0x5001 was raised. -/
structure TrigUnit where
  armed : Bool
  from_ : Option Nat
  t0 : Option Nat
  openAt : Option Nat
  evented : Bool
  deriving DecidableEq, Repr

/-- The acquisition state of a pin beyond its registers: the stamp unit, the results that wait, a GAP owed, the trigger
sample, the post-trigger records written, and the trigger units. -/
structure AcqState where
  open_ : Option EdgeEvent
  stamping : List EdgeEvent
  lastStamped : Option Nat
  items : List AcqItem
  gap : Bool
  trigTag : Option Nat
  post : Nat
  evented : Bool
  units : List TrigUnit
  deriving DecidableEq, Repr

/-- A single-interval measurement (R275 to R279): the configuration word and timeout latched at the arm, the arm instant, start
and stop with their reference flags once taken, the measurements left after this one, whether the pin waits to re-arm in a
series, whether a reference switch fell between start and stop (R282), the pin a LENT pin is lent to, and the measurements of the series that
are taken and whose results are not readable yet (R277, R279): start, stop and whether a switch fell between them. -/
structure TdcState where
  cfg : Nat
  timeout : Nat
  armAt : Nat
  start : Option (Nat × Bool)
  stop : Option (Nat × Bool)
  left : Nat
  waiting : Bool
  switched : Bool
  lentTo : Option Nat
  ready : List ((Nat × Bool) × (Nat × Bool) × Bool)
  deriving DecidableEq, Repr

/-- One pin. `lastLevel` is the last driven change that counts for R100, with the code it drove; `undefVecs` lists the vectors
whose compare results, and for R86 waveform, the spec leaves undefined on this pin; `rearm` is the time of a re-arm that
waits for a sample instant (R106); `operands` is the queue of R283: accumulator, operand and REF flag. `windows` are the compare
windows open now, of at most two vectors (R71, R81). `volt` is the voltage at the input in µV, as last reported (R101). `clampIn` is the
PIN_CLAMP word in force, at the lowest pin of a group, and `clampAt` the writes that wait for a sample instant (R103). `lvlCfg` is the
last write of PIN_LVL_CFG, with the word before it (R113), and `corrOld` the correction words still in force after a commit (R98). -/
structure Pin where
  idle : Bool
  drv : Drive
  lastDriven : Option Nat
  lastLevel : Option (Nat × Nat)
  edges : List DriveEdge
  cluster : Option Cluster
  strobes : List Strobe
  windows : List OpenWindow
  lastStrobe : Option (Nat × Nat)
  undefVecs : List Nat
  lowFlag : Bool
  highFlag : Bool
  volt : Int
  clock : Option ClockRun
  rearm : Option Nat
  ovCount : Nat
  ocCount : Nat
  tripDue : TripDue
  clampIn : BitVec 32
  clampAt : List (Nat × BitVec 32)
  lvlCfg : Option (Nat × BitVec 32)
  corrOld : Option (Nat × List Nat)
  lvl : LevelState
  acq : AcqState
  tdc : TdcState
  operands : List (Nat × Int × Bool)
  deriving DecidableEq, Repr

/-- The level queue after reset: empty (R115). -/
def LevelState.reset : LevelState := ⟨[], false, [], 0, false⟩

/-- A trigger unit before any burst. -/
def TrigUnit.reset : TrigUnit := ⟨false, none, some 0, none, false⟩

/-- Acquisition before any burst. -/
def AcqState.reset : AcqState := ⟨none, [], none, [], false, none, 0, false, List.replicate 4 TrigUnit.reset⟩

/-- No measurement. -/
def TdcState.reset : TdcState := ⟨0, 0, 0, none, none, 0, false, false, none, []⟩

/-- The PIN_CLAMP word after reset (R118). -/
def clampReset : BitVec 32 := 0x3FFF0000

/-- A pin after reset: enable off, data low (R76), idle, and its input at 0 V (log 6), which is below the reset thresholds: the low flag
is true (R101). -/
def Pin.reset : Pin :=
  { idle := true, drv := ⟨false, .low⟩, lastDriven := none, lastLevel := none, edges := [], cluster := none,
    strobes := [], windows := [], lastStrobe := none, undefVecs := [], lowFlag := true, highFlag := false, volt := 0, clock := none,
    rearm := none, ovCount := 0, ocCount := 0, tripDue := .none, clampIn := clampReset, clampAt := [], lvlCfg := none, corrOld := none,
    lvl := LevelState.reset, acq := AcqState.reset, tdc := TdcState.reset, operands := [] }

end Sys2Proof.Machine
end

