-- ==== Sys2Proof/Machine/SiteTypes.lean ====
section
/-! DEFINITION. The state of one site beyond its registers: segments (R126 to R131), the sequencer (R133 to R147), decisions
and the Transit window (R167 to R184), the lane (R14, R168), streaming (R199 to R208), the burst in progress (R148 to R154)
and fail capture (R222 to R233). -/
namespace Sys2Proof.Machine

/-- A decoded block header (R134). -/
structure Header where
  opc : Nat
  pause : Bool
  fence : Bool
  hint : Bool
  ts : Nat
  len : Nat
  cond : Nat
  inv : Bool
  csel : Nat
  opnd : Nat
  deriving DecidableEq, Repr

/-- A segment table entry (R127). -/
structure SegEntry where
  loc : Bool
  mirrorEn : Bool
  retire : Bool
  stripe : Nat
  bank : Nat
  length : Nat
  gmask : Nat
  addr : Nat
  mirror : Nat
  word0 : Word
  tabAddr : Nat
  deriving DecidableEq, Repr

/-- The state of a segment (R129). -/
inductive SegState where
  | inactive | queued | active
  deriving DecidableEq, Repr

/-- A segment: its state, and its entry as latched at the publish (R130). -/
structure Segment where
  state : SegState
  entry : SegEntry
  deriving DecidableEq, Repr

/-- A block position: segment id and offset in 8-byte units. -/
structure Pos where
  seg : Nat
  off : Nat
  deriving DecidableEq, Repr

/-- An open counted loop (R140): its LBEG position, and the iterations left after the current one. -/
structure LoopRec where
  pos : Pos
  left : Nat
  deriving DecidableEq, Repr

/-- A return position on the call stack, with the loops open at the CALL (R142). -/
structure CallRec where
  ret : Pos
  loops : Nat
  deriving DecidableEq, Repr

/-- A block being issued: its header, position, next vector, plays done before this one, period and group mask, whether its
LBEG may not act again (R140), the first vector issued, and its open decision. -/
structure Block where
  hdr : Header
  pos : Pos
  vix : Nat
  plays : Nat
  period : Nat
  reentry : Bool
  firstVec : Option Nat
  dec : Option Nat
  deriving DecidableEq, Repr

/-- The sequencer state that a decision restores (R138): position, call stack, loop stack, the block in progress, each
group's last symbols (none: the initial ones), a named segment whose publication is awaited with P of its block (R143), and the last block issued. -/
structure SeqState where
  pos : Pos
  calls : List CallRec
  loops : List LoopRec
  blk : Option Block
  reentry : Bool
  last : Sparse (Option Word)
  waitSeg : Option (Nat × Bool × Bool)
  lastPos : Option Pos
  deriving DecidableEq, Repr

/-- End reasons (R152). -/
inductive EndReason where
  | stop | halt | underrun | refillLate | maskStop | abort
  deriving DecidableEq, Repr

/-- An end reason with its detail code (R153). -/
structure EndRec where
  reason : EndReason
  detail : Nat
  deriving DecidableEq, Repr

/-- A group word as it reaches the timing stage: the group, its symbols (none where it repeats the initial last symbols, R133), and the on-chip offset it was read from where it
was found uncorrectable (R17): `some none` for a word that the DRAM controller or an unserved bank marked. -/
structure GroupWord where
  group : Nat
  syms : Option Word
  bad : Option (Option Nat)
  deriving DecidableEq, Repr

/-- An issued vector. `id` orders the issued vectors of a burst: 2^25 times its number, plus the number of the pad for a pad
vector (R51). It carries its block, its place in the block, timeset, the period its timeset had at decode (R146), words,
marker, the decision whose condition it feeds, and for a vector of the transaction engine the bits to sample: pin, transaction and
place (R318). -/
structure Vec where
  id : Nat
  pos : Pos
  vidx : Nat
  ts : Nat
  period : Nat
  words : List GroupWord
  mark : Option Nat
  mloop : Bool
  dec : Option Nat
  caps : List (Nat × Nat × CapTo)
  deriving DecidableEq, Repr

/-- What waits in the lane FIFOs for the pins, in issue order: a vector; a level set to apply (R109); a new period (R46);
counted hold vectors, or holds until RESUME, and whether the pins hold there already (R144); the pause-safe point of a flow-control hold
(R203, R204); waits for an epoch and an FSYNC edge, with the start of the wait and the instant found (R44, R53); a pad
region with its pads played, T0 and the instant e + OFFSET (R51). -/
inductive LaneItem where
  | vec (v : Vec)
  | lvl (set : Nat)
  | retime (ts period : Nat)
  | hold (left : Option Nat) (begun : Bool)
  | holdResume
  | sync (since ready : Option Nat)
  | waitf (input : Nat) (since ready : Option Nat)
  | frame (input nominal : Nat) (v : Vec) (played : Nat) (t0 edge : Option Nat)
  deriving DecidableEq, Repr

/-- Why issue has stopped, so that the pins play the hold vector when the lane is empty (R143, R171, R177, R178, R182, R203, R319).
`free` is no reason. -/
inductive HoldWhy where
  | free | fence | stall | restart | flow | pendingEnd | publication | handOver
  deriving DecidableEq, Repr

/-- One strobe result on its way back to the sequencer (R169, R219), with the high flag at its position. -/
structure StrobeResult where
  pin : Nat
  vec : Nat
  num : Nat
  pos : Nat
  fail : Bool
  high : Bool
  trip : Bool
  deriving DecidableEq, Repr

/-- What the end of an MLOOP leaves with its last vector, to hold once that vector commits: the iteration, whether the
limit was reached without a match, CONT (R141), and MLOOP_OVR (R184). -/
structure LoopEnd where
  iter : Nat
  noMatch : Bool
  cont : Bool
  ovr : Nat
  deriving DecidableEq, Repr

/-- An entry of the Transit window (R178, R179): the vector, its cycle start and period once played, the results placed and
not yet returned, the failing strobes (pin, strobe number), whether a word of it was uncorrectable, whether strobes failed for that (R17) or for a
tripped pin (R105), and the instant before which its acquisition results cannot be complete. -/
structure WinEntry where
  vec : Vec
  started : Option (Nat × Nat)
  pending : Nat
  fails : List (Nat × Nat)
  ecc : Bool
  forced : Bool
  trip : Bool
  readyAt : Nat
  loopEnd : Option LoopEnd
  deriving DecidableEq, Repr

/-- The path not predicted (R174, R175): a sequencer state to continue in, or an end reason. -/
inductive AltPath where
  | go (s : SeqState)
  | stop (s : SeqState) (e : EndRec)
  deriving DecidableEq, Repr

/-- A decision (R167): its condition, its vectors, what was predicted, the path not predicted, and what has returned. For
an MLOOP iteration: its number, and whether it is the last the limit allows. `latest` is the latest position of an active strobe of its vectors, and
`strobed` holds where the vector that started last has one (R169). -/
structure Decision where
  id : Nat
  cond : Nat
  inv : Bool
  csel : Nat
  firstVec : Nat
  lastVec : Option Nat
  mloop : Bool
  cont : Bool
  limit : Bool
  iter : Nat
  fenced : Bool
  pause : Bool
  predTaken : Bool
  alt : Option AltPath
  placed : Nat
  returned : Nat
  fails : Nat
  pinHigh : Bool
  pinAt : Option Nat
  latest : Nat
  strobed : Bool
  cStart : Option Nat
  played : Option (Nat × Nat)
  event : Option Bool
  fsync : Bool
  deriving DecidableEq, Repr

/-- The end of a decision's last cycle, once it has started: `played` is the latest vector that has started, with its end (R139, R169). -/
def Decision.cEnd (d : Decision) : Option Nat :=
  match d.played with
  | none => none
  | some (v, e) => if d.lastVec = some v then some e else none

/-- A fail-log record waiting for the writer (R232): its bytes but for GAP, whether records were dropped before it, and its vector and block. -/
structure LogRec where
  bytes : List Byte
  gap : Bool
  vec : Nat
  pos : Pos
  deriving DecidableEq, Repr

/-- Transit and speculation state of a site. `leaves` lists segments left on a path that depends on an unresolved decision,
with the last vector issued before (R129). `restart` is why issue had stopped, from the resolution, event or hand-over that frees it to the
first vector issued after it (R171, R177, R319); `counted` lists the resolved decisions whose last vector has not committed, with that vector and
whether they went against their prediction (R184, R226); `restartPause` is P of a decision that went against its prediction, for as long. -/
structure SpecState where
  window : List WinEntry
  decisions : List Decision
  nextVec : Nat
  nextDec : Nat
  ovrTotal : Nat
  mloopOvr : Nat
  matchIter : Nat
  noMatch : Bool
  mispredEvt : Bool
  stallEvt : Bool
  restart : HoldWhy
  restartPause : Option Bool
  returns : List StrobeResult
  leaves : List (Nat × Nat)
  counted : List (Nat × Bool)
  deriving DecidableEq, Repr

/-- The loop cache (R202): the LBEG of the captured loop, the loops open in the engine at it, whether the matching LEND has
been read, the blocks captured with their bytes, and whether the capture was abandoned. -/
structure LoopCache where
  head : Option Pos
  depth : Nat
  cached : Bool
  blocks : List (Pos × Nat)
  used : Nat
  deriving DecidableEq, Repr

/-- A read request of the stream engine (R199): the segment and the byte range it serves, whether it is an
alternate-path prefetch of a decision (R201), and otherwise the stretch of the path that it belongs to. -/
structure StreamReq where
  seg : Nat
  off : Nat
  len : Nat
  alt : Option Nat
  run : Nat
  deriving DecidableEq, Repr

/-- A byte range of a segment that stands in the stream buffer; `alt` and `run` as in `StreamReq`. -/
structure Chunk where
  seg : Nat
  off : Nat
  len : Nat
  alt : Option Nat
  run : Nat
  deriving DecidableEq, Repr

/-- The read-ahead path of the stream engine (R199): the next byte to request, the block to decode next, its own call and
loop stacks, whether it waits for a segment's publication or for the sequencer, and the number of the stretch that it reads: the bytes
from one turn of the path to the next. -/
structure EnginePath where
  seg : Nat
  req : Nat
  decode : Nat
  calls : List Pos
  loops : List LoopRec
  stopped : Bool
  resident : Bool
  waits : Option Nat
  run : Nat
  deriving DecidableEq, Repr

/-- The stream engine and flow control of a site (R196 to R208). `marks` lists the 8-byte units found uncorrectable, and
whether the mirror served them (R132). `fill` counts the bytes put into the buffer in the burst (R404). `readDram` holds once the burst has read DRAM (R444); `paced` holds once a pace window has given a value in the burst (R218). -/
structure StreamState where
  path : EnginePath
  inflight : List StreamReq
  chunks : List Chunk
  marks : List (Nat × Nat × Bool)
  low : Nat
  high : Nat
  cache : LoopCache
  windowBytes : Nat
  granted : Nat
  holdEvt : Bool
  exceedEvt : Bool
  restreamEvt : Bool
  altEvt : Bool
  paceEvt : Bool
  paced : Bool
  readDram : Bool
  fill : Nat
  deriving DecidableEq, Repr

/-- The burst in progress (R148 to R153): its number, burst epoch, the trigger instant once it has come, the end of the last
cycle scheduled, the period in force, the cycles last started as (start, vector, overrun), the counts of R151 (`holdTime` in 0.25 ps), its end, an end
reason on a path that a decision may reject (R182), an ABORT that waits for the cycle boundary (R150), taints, events raised
once per burst, whether it is a list burst (R311), whether its arm is held by STANDBY (R547), the logical
banks its port A accesses have reached (R411), when it became ARMED (R148), and the pad region that closed last with no edge, which an edge
accepted later may still lie in (R50, R52): its input, its start and its end. -/
structure BurstState where
  seqNo : Nat
  epoch : Nat
  started : Bool
  cycleEnd : Nat
  period : Nat
  recent : List (Nat × Nat × Bool)
  vectors : Nat
  holds : Nat
  holdTime : Nat
  end_ : Option EndRec
  endPending : Option EndRec
  abort : Option EndRec
  taint : Nat
  fePending : Bool
  mismatchEvt : Bool
  parityEvt : Bool
  listBurst : Option Nat
  flowHeld : Bool
  undef : Bool
  held : Bool
  portA : List Nat
  armedAt : Nat
  padClosed : Option (Nat × Nat × Nat)
  deriving DecidableEq, Repr

/-- Fail capture of a burst (R222 to R236): the log queue, whether the ring passed the check at arm, whether records are
dropped until the next arm, whether a record has been dropped since the last one queued, whether the next record written carries GAP in any case, and
the events raised. -/
structure CaptureState where
  queue : List LogRec
  ok : Bool
  closed : Bool
  gap : Bool
  owed : Bool
  evented : List Nat
  deriving DecidableEq, Repr

/-- A driver fire of a trigger line in AND mode that no line fire has consumed (R257): the line, unit number and tag. -/
structure LineFire where
  line : Nat
  unit : Nat
  tag : Nat
  deriving DecidableEq, Repr

/-- The trigger lines of a site (R257): driver fires not consumed, what has raised its event in this burst (0 to 7 for a
line, 8 for event 0x5005). -/
structure LineState where
  fires : List LineFire
  evented : List Nat
  deriving DecidableEq, Repr

/-- One site. `shadow` holds the configuration words of the site and its pins as latched at the arm (R188, R211, R237, R261,
R270), in the form of `State.regs`. -/
structure Site where
  segs : Sparse Segment
  seq : SeqState
  lane : List LaneItem
  spec : SpecState
  str : StreamState
  burst : BurstState
  cap : CaptureState
  lines : LineState
  bursts : Nat
  shadow : Sparse Word
  unsure : Bool
  deriving DecidableEq, Repr

/-- An entry with every field 0. -/
def SegEntry.zero : SegEntry := ⟨false, false, false, 0, 0, 0, 0, 0, 0, 0, 0⟩

/-- The state of a segment nothing has published (R129: after reset every segment is INACTIVE). -/
def Segment.reset : Segment := ⟨.inactive, SegEntry.zero⟩

/-- The sequencer before any burst. -/
def SeqState.reset : SeqState := ⟨⟨0, 0⟩, [], [], none, false, [], none, none⟩

/-- The Transit window before any burst. -/
def SpecState.reset : SpecState := ⟨[], [], 0, 0, 0, 0, 0, false, false, false, .free, none, [], [], []⟩

/-- An empty loop cache. -/
def LoopCache.reset : LoopCache := ⟨none, 0, false, [], 0⟩

/-- A read-ahead path with nothing to read. -/
def EnginePath.reset : EnginePath := ⟨0, 0, 0, [], [], true, false, none, 0⟩

/-- The stream engine before any burst. -/
def StreamState.reset : StreamState :=
  ⟨EnginePath.reset, [], [], [], 0, 0, LoopCache.reset, 0, 0, false, false, false, false, false, false, false, 0⟩

/-- No burst. -/
def BurstState.reset : BurstState :=
  { seqNo := 0, epoch := 0, started := false, cycleEnd := 0, period := 2500, recent := [], vectors := 0, holds := 0,
    holdTime := 0, end_ := none, endPending := none, abort := none, taint := 0, fePending := false, mismatchEvt := false,
    parityEvt := false, listBurst := none, flowHeld := false, undef := false, held := false, portA := [], armedAt := 0, padClosed := none }

/-- Fail capture before any burst. -/
def CaptureState.reset : CaptureState := ⟨[], false, false, false, false, []⟩

/-- Trigger lines before any burst. -/
def LineState.reset : LineState := ⟨[], []⟩

/-- A site after reset. -/
def Site.reset : Site :=
  { segs := [], seq := SeqState.reset, lane := [], spec := SpecState.reset, str := StreamState.reset,
    burst := BurstState.reset, cap := CaptureState.reset, lines := LineState.reset, bursts := 0, shadow := [], unsure := false }

end Sys2Proof.Machine
end

