-- ==== Sys2Proof/Machine/Base.lean ====
section
/-! DEFINITION. The shared vocabulary of the block: origins (R534), event records (R482), what leaves the device, and
on-chip memory errors. -/
namespace Sys2Proof.Machine

/-- The origins of R6 and R534. A flow names its site (R10, R334). -/
inductive Origin where
  | img | amd | host | flow (site : Nat) | peer | cal | dbg | hw
  deriving DecidableEq, Repr

/-- The origin code of R534. -/
def Origin.code : Origin → Nat
  | .img => 1
  | .amd => 2
  | .host => 3
  | .flow _ => 4
  | .peer => 5
  | .cal => 6
  | .dbg => 7
  | .hw => 8

/-- An event record (R482): code, source, data and Meridian tick. -/
structure EventRec where
  code : Nat
  source : Nat
  data : Nat
  tick : Nat
  deriving DecidableEq, Repr

/-- What an ECC check finds in the words a command reads (R407, R430): nothing, a single-bit error, or an uncorrectable
word. -/
inductive Ecc where
  | ok | single | double
  deriving DecidableEq, Repr

/-- What leaves the device: read data, completions, messages, frames, writes to host memory, flash writes, AVSBus
commands, pin drives and TDR launches. The list is a record of outputs; nothing reads it back. -/
inductive Out where
  | read (o : Origin) (addr : Nat) (value : Word)
  | data (o : Origin) (addr : Nat) (bytes : List Byte) (poisoned : Bool)
  | completion (status : Nat)
  | config (off : Nat) (value : Word)
  | msix (vector : Nat)
  | hostWrite (addr : Nat) (bytes : List Byte)
  | frame (port : Nat) (words : List Nat)
  | avs (rail mv : Nat)
  | flash (offset : Nat) (bytes : List Byte)
  | drive (pin pos : Nat) (state : Drive)
  | disconnect (pin : Nat)
  | launch (pin swing count vol : Nat) (voh : Option Nat)
  | stalled (o : Origin) (addr : Nat)
  deriving DecidableEq, Repr

/-- A register value a low-word read has latched, or a low word a write has left held (R4), for one origin. -/
structure Held where
  origin : Nat
  addr : Nat
  value : Word
  deriving DecidableEq, Repr

end Sys2Proof.Machine
end

