-- ==== Sys2Proof/Machine/UnitTypes.lean ====
section
/-! DEFINITION. The state of the device's units beyond their registers: timebase, memory, DRAM, audit log and key store,
and the units of the later chapters. Times are timebase times in 0.25 ps unless a field says otherwise. -/
namespace Sys2Proof.Machine

/-- One reference input (R32, R33): whether it is qualified, and since when it has been present and inside its window. -/
structure RefInput where
  qualified : Bool
  okSince : Option Nat
  lastPpb : Option Int
  deriving DecidableEq, Repr

/-- The source of an epoch (R39). -/
inductive EpochSource where
  | input | link | soft
  deriving DecidableEq, Repr

/-- An epoch that is fixed and has not acted (R42): its instant, the instant at which its pulse qualifies, and the ESTABLISH, COMMIT
and TAG it carries on an Iatipin link, with the TB_EPOCH_NEXT value that it loads (R366). -/
structure EpochPend where
  source : EpochSource
  instant : Nat
  qualify : Nat
  establish : Bool
  commit : Bool
  tag : Nat
  next : Option Nat
  deriving DecidableEq, Repr

/-- The timebase (R31 to R44). `zero` is the timebase time at which Meridian time reads 0, none before the first lock;
`edge` is the time of one rising edge of the reference in use and `period` the ticks between its edges, from which the continued edges of a
holdover are counted on (R42); `holdover` its start; `pullUntil` the end of the pull-in after it (R35, R282); `switches` the times of the
switches of the reference (R282); `timedOut` the timed-out value of TB_EPOCH_NEXT whose late marker may still act, with the tick before
which it does (R43); `fsync` the filtered level of each FSYNC input; `lastSample` the last sample
instant served (R109). -/
structure TbState where
  zero : Option Nat
  edge : Nat
  period : Nat
  refA : RefInput
  refB : RefInput
  lastRef : Bool
  holdover : Option Nat
  keepActive : Bool
  pullUntil : Nat
  switches : List Nat
  deferred : Option (Origin × Word)
  epochs : List EpochPend
  timedOut : Option (Nat × Nat)
  fsync : List Bool
  lastSample : Option Nat
  deriving DecidableEq, Repr

/-- The power state of a logical bank (R410 to R413). -/
inductive BankPower where
  | on | retain | off | waking | clearing
  deriving DecidableEq, Repr

/-- A logical bank: its power state, a Retain or Off request that waits, and a request held while it wakes or clears. -/
structure BankState where
  power : BankPower
  wants : Option BankPower
  held : Option BankPower
  deriving DecidableEq, Repr

/-- A test or repair of a bank in progress (R416, R417): the logical bank, the spare, and whether it is a repair. -/
structure BankCopy where
  bank : Nat
  spare : Nat
  repair : Bool
  deriving DecidableEq, Repr

/-- On-chip memory beyond its contents. `testing` is the logical bank under test and the released physical bank under march; `repairs` are
repairs that wait for a spare; `wait` the start and the bank of a wait for a spare, `waitEvt` whether it has been reported (R417);
`bistNext` and `bistAt` the bank to be tested next and the earliest time; `scrubAt` the physical word the scrubber reads next;
`late` the writes of the device itself that wait for memory that wakes or clears, as address and bytes (R413). -/
structure MemState where
  banks : Sparse BankState
  copies : List BankCopy
  testing : Option (Nat × Nat)
  repairs : List Nat
  wait : Option (Nat × Nat)
  waitEvt : Bool
  bistNext : Nat
  bistAt : Nat
  scrubAt : Nat
  late : List (Nat × List Byte)
  deriving DecidableEq, Repr

/-- An audit record that is produced and not yet in the ring (R534, R537). -/
structure AudRec where
  kind : Nat
  origin : Nat
  source : Nat
  tick : Nat
  addr : Nat
  old : Nat
  new : Nat
  data : Nat
  deriving DecidableEq, Repr

/-- A checkpoint whose signature is being made (R539): its ring and its place in it, the identity key that signs, and the bytes signed. -/
structure AudSigning where
  base : Nat
  size : Nat
  offset : Nat
  key : Option Nat
  bytes : List Byte
  deriving DecidableEq, Repr

/-- The audit log (R533 to R539). `wpos` is the ring offset at which the next record is written; AUD_HEAD follows it up
to the first unsigned checkpoint. -/
structure AudState where
  hold : List AudRec
  lossOwed : Nat
  chain : List Byte
  wpos : Nat
  used : Nat
  ckptFrom : Nat
  ckptCount : Nat
  signing : List AudSigning
  deriving DecidableEq, Repr

/-- Life-cycle states (R524). -/
inductive LifeCycle where
  | blank | provisioned | owned | decommissioned
  deriving DecidableEq, Repr

/-- The non-volatile key store (R521, R524): it survives every reset. The identity key pair is named by the number of its
creation; its public half is opaque. -/
structure KeyStore where
  lc : LifeCycle
  identity : Option Nat
  ownerKey : Option (Nat × Nat)
  cert : List Byte
  serial : List Byte
  tamperCount : Nat
  bootCount : Nat
  keysMade : Nat
  deriving DecidableEq, Repr

/-- An accepted token that waits for the sites (R528). -/
structure TokenWait where
  kind : Nat
  payload : List Byte
  origin : Origin
  deriving DecidableEq, Repr

/-- A token being checked (R527): the nonce it must name, its address, its bytes as submitted, and its submitter. -/
structure TokenCheck where
  nonce : Nat
  base : Nat
  bytes : List Byte
  origin : Origin
  deriving DecidableEq, Repr

/-- The security unit (R521 to R532): whether SEC_NONCE has been used, a key creation, a token being checked, an accepted token, whether a DEBUG_UNLOCK is in force, and whether TAMPER_N has been low since its event. -/
structure SecState where
  nonceUsed : Bool
  keygen : Bool
  checking : Option TokenCheck
  waiting : Option TokenWait
  debugOpen : Bool
  tamperLow : Bool
  deriving DecidableEq, Repr

/-- Bank On, nothing requested. -/
def BankState.reset : BankState := ⟨.on, none, none⟩

/-- An input that is not qualified (R33). -/
def RefInput.reset : RefInput := ⟨false, none, none⟩

/-- The timebase before the first lock (R39). -/
def TbState.reset : TbState :=
  ⟨none, 0, 32, RefInput.reset, RefInput.reset, false, none, false, 0, [], none, [], none, [false, false, false, false], none⟩

/-- On-chip memory after reset: every bank On (R410). -/
def MemState.reset : MemState := ⟨[], [], none, [], none, false, 0, 0, 0, []⟩

/-- The audit log after reset: H all zeros, nothing written (R538). -/
def AudState.reset : AudState := ⟨[], 0, List.replicate 48 0, 0, 0, 0, 0, []⟩

/-- The key store as made: BLANK, no key, no certificate (log 2). -/
def KeyStore.reset : KeyStore := ⟨.blank, none, none, [], List.replicate 16 0, 0, 0, 0⟩

/-- The security unit after reset. -/
def SecState.reset : SecState := ⟨true, false, none, none, false, false⟩

/-- The power state of an octant (R548, R549, R558). -/
inductive OctPower where
  | on | pendingOff | off | waking | fault
  deriving DecidableEq, Repr

/-- Standby (R547): not requested; waiting for the sites; waiting for the domains; in STANDBY; waking. -/
inductive Standby where
  | none | waitSites | waitDomains | entered | waking
  deriving DecidableEq, Repr

/-- Twilight in progress (R552): its start, the supply that caused it, since when every sample was good, and PWR_TWI_TIME at its start. -/
structure Twilight where
  since : Nat
  cause : Nat
  goodSince : Option Nat
  base : Nat
  deriving DecidableEq, Repr

/-- Supplies, temperature and domains (R546 to R558). The counts are consecutive samples below a threshold, per supply;
`warm` and `hot` list the sensors whose WARN or HOT condition stands, `sampled` those sampled since reset; `extest` and `tooHot` hold the
device in reset (R582, R556), and `removed` is OFF (R546); `avsWait` holds the times of voltage writes whose read-back is to come;
`windows` counts the pace windows since reset, and `fed` and `drawn` the entries that the lane FIFO of each group has taken in and given in the
present one (R12). -/
structure PwrState where
  octants : Sparse OctPower
  standby : Standby
  twilight : Option Twilight
  belowWarn : Sparse Nat
  belowReset : Sparse Nat
  warm : List Nat
  hot : List Nat
  sampled : List Nat
  extest : Bool
  tooHot : Bool
  removed : Bool
  avsWait : List Nat
  windows : Nat
  fed : Sparse Nat
  drawn : Sparse Nat
  deriving DecidableEq, Repr

/-- Power after reset: every octant On, no Twilight. -/
def PwrState.reset : PwrState := ⟨[], .none, none, [], [], [], [], [], false, false, false, [], 0, [], []⟩

/-- A frame of an Iatipin link without its CRC (R357). -/
structure Frame where
  type : Nat
  seq : Nat
  src : Nat
  dest : Nat
  ack : Nat
  data : List Nat
  deriving DecidableEq, Repr

/-- What the receiver's checks find in a frame (R358, R359): nothing; a CRC error; or a TYPE that is not listed. -/
inductive FrameCheck where
  | ok | crc | badType
  deriving DecidableEq, Repr

/-- The start word of a received frame beside its TYPE (R357), and what the checks find. -/
structure Rx where
  check : FrameCheck
  seq : BitVec 12
  src : BitVec 14
  dest : BitVec 14
  ack : BitVec 12
  deriving DecidableEq, Repr

/-- What the last HELLO of a peer announced (R358, R360). -/
structure Hello where
  addr : Nat
  root : Nat
  depth : Nat
  use : Nat
  first : Nat
  last : Nat
  deriving DecidableEq, Repr

/-- A sequenced frame that is not acknowledged (R359): when it was last sent, and its replays. -/
structure Sent where
  frame : Frame
  at_ : Nat
  replays : Nat
  deriving DecidableEq, Repr

/-- One Iatipin port (R356 to R364): the next SEQ to send, the sequenced frames not acknowledged, oldest first, the SEQ expected next,
since when the port is UP without a CRC error, the last send and receipt, the last HELLO received and the last one sent, probes under way
with t1, the next probe id, and 2 * (L - ASYM) of the last valid probes. -/
structure LinkPort where
  nextSeq : Nat
  unacked : List Sent
  expect : Nat
  cleanSince : Nat
  lastSend : Nat
  lastRecv : Nat
  hello : Option Hello
  helloSent : Option Nat
  probes : List (Nat × Nat)
  nextProbe : Nat
  lats : List Int
  deriving DecidableEq, Repr

/-- An EVENT frame that waits for its APPLY tick (R369). -/
structure EvtApply where
  apply : Nat
  set : Nat
  clear : Nat
  deriving DecidableEq, Repr

/-- What the latest EVENT frames did that acted at one instant (R369): when, their APPLY tick (0 on arrival), the event vector before them,
and all their CLEAR and SET bits. -/
structure EvtMoment where
  at_ : Nat
  apply : Nat
  base : Nat
  clear : Nat
  set : Nat
  deriving DecidableEq, Repr

/-- An epoch that a device has forwarded or will forward (R363, R366): its instant, and w1, FINE, ESTABLISH, COMMIT, TAG and
EPOCH_SEQ of its frame. -/
structure EpochFwd where
  instant : Nat
  tick : Nat
  fine : Nat
  establish : Bool
  commit : Bool
  tag : Nat
  seq : Nat
  deriving DecidableEq, Repr

/-- The Constellation unit (R356 to R378): its ports, EVENT frames that wait for APPLY, EPOCH frames forwarded or sent, EPOCH_SEQ, the
message outstanding (its destination, whether it reads, and the time of GO), a message of this device to itself, whether software has
written TB_EPOCH_NEXT since the previous marker (R366), and the EVENT frames of the latest instant (R369). -/
structure IatState where
  ports : Sparse LinkPort
  applies : List EvtApply
  forwarded : List EpochFwd
  epochSeq : Nat
  msgDest : Nat
  msgRd : Bool
  msgAt : Nat
  loop : Option Frame
  nextWritten : Bool
  together : Option EvtMoment
  deriving DecidableEq, Repr

/-- A port before it has trained. -/
def LinkPort.reset : LinkPort := ⟨0, [], 0, 0, 0, 0, none, none, [], 0, []⟩

/-- The Constellation unit after reset. -/
def IatState.reset : IatState := ⟨[], [], [], 0, 0, false, 0, none, false, none⟩

/-- The kinds of calibration step (R380). -/
inductive CalKind where
  | level | timing | tdr
  deriving DecidableEq, Repr

/-- What a LEVEL step measures of one DAC, in µV (R385): its outputs without correction at codes 1,000 and 15,000, then with the correction
fitted at codes 1,000, 8,192 and 15,000. -/
structure DacMeasure where
  low : Int
  high : Int
  at1000 : Int
  at8192 : Int
  at15000 : Int
  deriving DecidableEq, Repr

/-- A crossing of the pin's ball that a TDR step stamps (R387): of VOH or else VOL, rising or else falling, and its time from the launch
in 0.25 ps. -/
structure TdrCross where
  voh : Bool
  rising : Bool
  time : Nat
  deriving DecidableEq, Repr

/-- What a calibration step measures (R385, R387): the outputs of the pin's five DACs and of the clamps of its group; the loopback
measurements of TX_INT and RX_INT in 0.25 ps; or the crossings of each launch, in order of time. -/
inductive CalMeasure where
  | level (vih vil voh vol vtt clh cll : DacMeasure)
  | timing (tx rx : List Int)
  | tdr (launches : List (List TdrCross))
  deriving DecidableEq, Repr

/-- A register write that waits for the end of a calibration step (R382): its origin, whether it is a broadcast's, pin, offset and value. -/
structure HeldWrite where
  origin : Origin
  quiet : Bool
  pin : Nat
  off : Nat
  value : Word
  deriving DecidableEq, Repr

/-- A calibration step in progress (R381 to R384): its pin and kind, the discarded attempts so far, whether its results are to be
discarded, the octant's temperature at its start, and the register writes to the pin that wait for its end (R382). `idle` says that a
discarded step waits to be repeated. -/
structure CalStep where
  pin : Nat
  kind : CalKind
  repeats : Nat
  spoiled : Bool
  temp : Int
  held : List HeldWrite
  idle : Bool
  deriving DecidableEq, Repr

/-- The calibration unit beyond its registers, whose CAL_WS windows hold the working set: the steps in progress and to come, the
run's cancel, its steps and pins that ended otherwise than OK, whether event 0xA002 was raised in it, the sites started during its
steps (R383), the committed and the pending set as words by CAL offset, the pending tag, the octant temperatures at the last step
in the working, pending and committed set, the octants whose drift has been reported, a save under way: slot, SEQ and image, the tag of
the armed epoch commit (R389), CAL_RUN_CFG as it stood when the run started (R397), the largest TIMING and LEVEL residuals of the run
(R400), a save that waits for an amendment's flash write, with what the two slots hold (R394), and the tag of the committed set (R392). -/
structure CalState where
  steps : List CalStep
  todo : List (Nat × CalKind)
  cancelled : Bool
  nonOk : Nat
  pins : List Nat
  failed : List Nat
  failEvt : Bool
  busySites : List Nat
  committed : Sparse Word
  pending : Sparse Word
  pendTag : Nat
  temps : Sparse (Option Int)
  pendTemps : Sparse (Option Int)
  commTemps : Sparse (Option Int)
  drifted : List Nat
  save : Option (Nat × Nat × List Byte)
  armTag : Nat
  cfg : Word
  worst : Nat × Nat
  saveWait : Option (List Byte × List Byte)
  setTag : Nat
  deriving DecidableEq, Repr

/-- The calibration unit after reset. -/
def CalState.reset : CalState := ⟨[], [], false, 0, [], [], false, [], [], [], 0, [], [], [], [], none, 0, 0, (0, 0), none, 0⟩

/-- The exact sums of a set of operands (R285): count, sum, sum of squares, minimum, maximum, and whether one was
reference-flagged (R282). -/
structure Sums where
  n : Nat
  s : Int
  q : Nat
  mn : Int
  mx : Int
  ref : Bool
  deriving DecidableEq, Repr

/-- A reduction accumulator (R285, R287): all operands since the clear, the current interval and its number, DROPPED, FULL, and
whether event 0x6004 was raised. -/
structure Accum where
  total : Sums
  ivl : Sums
  index : Nat
  dropped : Nat
  full : Bool
  evented : Bool
  deriving DecidableEq, Repr

/-- The reduction engine beyond its registers (R283 to R290): the pin served last, a snapshot and a dump under way with what
they hold, and whether the interval ring is full. -/
structure RedState where
  accs : Sparse Accum
  served : Nat
  snap : Option (Nat × Accum)
  dump : Option (Nat × Nat × List Accum)
  ivlFull : Bool
  deriving DecidableEq, Repr

/-- No operand. -/
def Sums.reset : Sums := ⟨0, 0, 0, 0, 0, false⟩

/-- A cleared accumulator. -/
def Accum.reset : Accum := ⟨Sums.reset, Sums.reset, 0, 0, false, false⟩

/-- The reduction engine after reset; the rotation starts at pin 0 (log 14). -/
def RedState.reset : RedState := ⟨[], 511, none, none, false⟩

/-- A transaction entry of a list (R309). -/
structure XeTxn where
  port : Nat
  tpl : Nat
  bits : Nat
  addr : Nat
  dout : Nat
  exp : Nat
  tag : Nat
  flag : Option Nat
  dir : Bool
  holdCs : Bool
  deriving DecidableEq, Repr

/-- A template step (R313). `keep` is false for a ROM capture that is only branched on. -/
structure XeStep where
  op : Nat
  pause : Bool
  cap : Bool
  crole : Nat
  drole : Nat
  ts : Nat
  sym0 : Nat
  sym1 : Nat
  msbf : Bool
  wid : Nat
  lastSel : Bool
  pts : Bool
  syms : Nat
  arg : Nat
  keep : Bool
  deriving DecidableEq, Repr

/-- A vector of a port's step: the transaction it belongs to, the eight role symbols, its timeset, P, and the roles to sample. -/
structure XeVec where
  num : Nat
  syms : List Nat
  ts : Nat
  pause : Bool
  caps : List (Nat × CapTo)
  deriving DecidableEq, Repr

/-- A transaction that has started (R310, R315): its step and the vectors of it produced, loop counters and the levels of the open loops, the one opened
last first, data cursor, the end of what is stored of the capture buffer, the bits sampled, as a number and as it was when the present step began, those not
yet returned, those returned that a BRANCH may ask for, the bits stored, whether a bit lay past the buffer, WAITHI progress, vectors produced and not
issued, its first and last vector, the cycle index of the first, and its status once it has ended. -/
structure XeRun where
  num : Nat
  site : Nat
  txn : XeTxn
  pc : Nat
  at_ : Nat
  ctr : List (Option Nat)
  loops : List Nat
  cursor : Nat
  ncap : Nat
  asked : Nat
  mark : Nat
  outstanding : Nat
  got : List (Nat × Bool)
  bits : List (Nat × Bool)
  past : Bool
  waitNo : Nat
  waitSent : Nat
  waitGot : Nat
  unsent : Nat
  first : Option Nat
  last : Nat
  cycle : Option Nat
  ended : Option Nat
  deriving DecidableEq, Repr

/-- A protocol port (R304, R310, R320): its queue, the transaction in progress, the vectors its steps have produced, whether
HOLD_CS is in effect (R327), and whether it is usable (R305). -/
structure XePort where
  queue : List XeTxn
  cur : Option Nat
  buf : List XeVec
  holdCs : Bool
  usable : Bool
  deriving DecidableEq, Repr

/-- The list a site runs (R308, R310): its entries' address, count and ERR_MODE, the next entry, whether nothing further is
dispatched, whether a status other than OK has committed, whether the result ring passed its check and is full, and the events
raised in the burst. -/
structure XeSite where
  addr : Nat
  count : Nat
  errMode : Nat
  next : Nat
  stop : Bool
  err : Bool
  resOk : Bool
  full : Bool
  evented : List Nat
  deriving DecidableEq, Repr

/-- The transaction engine (R304 to R326): `returns` holds sampled bits on their way back, `visit` the port visited last, `steps`
the steps processed in the pace window. -/
structure XeState where
  ports : Sparse XePort
  sites : Sparse XeSite
  runs : List XeRun
  returns : List (Nat × CapTo × Bool)
  nextNum : Nat
  visit : Nat
  steps : Nat
  deriving DecidableEq, Repr

/-- A port with nothing to do. -/
def XePort.reset : XePort := ⟨[], none, [], false, true⟩

/-- A site that runs no list. -/
def XeSite.reset : XeSite := ⟨0, 0, 0, 0, false, false, false, false, []⟩

/-- The transaction engine after reset. -/
def XeState.reset : XeState := ⟨[], [], [], [], 0, 127, 0⟩

/-! Flows (R332 to R349). -/

/-- A taken match of the handler table (R344): the event, and the first step and ABORT of the entry. -/
structure FlowMatch where
  code : Nat
  source : Nat
  data : Nat
  step : Nat
  abort : Bool
  deriving DecidableEq, Repr

/-- What a flow's present step waits for (R338): nothing; the result of its burst or list burst, with word 0 and the TEST id of the
step and TAINT_FAIL; or a WAIT step with
WHAT, its input or event bit, its start, its end for a time, its timeout, and the instant at which what it waits for came; or an access of the
step that stalls. -/
inductive FlowWait where
  | none
  | burst (w0 test : Nat) (xlist taintFail : Bool)
  | wait (what sel from_ : Nat) (until_ timeout ready : Option Nat)
  | access
  deriving DecidableEq, Repr

/-- A datalog record without its run and tick (R347). -/
structure DlogRec where
  kind : Nat
  pass : Bool
  valid : Bool
  loFail : Bool
  hiFail : Bool
  test : Nat
  a : Nat
  b : Nat
  deriving DecidableEq, Repr

/-- What a flow does once its record is written: goes on at a step, ends its run (and starts a new one), or enters FAULT. -/
inductive FlowThen where
  | go (step : Nat)
  | done (again : Bool)
  | fault
  deriving DecidableEq, Repr

/-- One flow engine beyond its registers (R333 to R345): the SVC registers as they stood at run start (CFG, FLOW_BASE, FLOW_COUNT,
HTAB_BASE, HTAB_COUNT, DLOG_CFG), the index of the present step, what it waits for, the step after a handler while one runs, the run's bin, pending matches, a STOP
that waits for the step boundary, whether a handler with ABORT ended the step, the events raised in the run, and a record that waits for
room. -/
structure FlowState where
  cfg : List Word
  step : Nat
  wait : FlowWait
  ret : Option Nat
  bin : Option Nat
  queue : List FlowMatch
  stop : Bool
  aborted : Bool
  evented : List Nat
  stall : Option (DlogRec × FlowThen)
  deriving DecidableEq, Repr

/-- The datalog of a site beyond its registers (R346 to R348): where the next byte goes and whether the ring is full up to TAIL, the
header offset and records of the open batch with the ticks of its first and last one and GAP, SEQ of the next batch, the hash of the
last header, and whether BASE or SIZE has been written during the run in progress (R333, R354). -/
structure DlogState where
  wpos : Nat
  full : Bool
  header : Option Nat
  recs : List Byte
  first : Nat
  last : Nat
  gap : Bool
  seq : Nat
  prev : List Byte
  moved : Bool
  deriving DecidableEq, Repr

/-- A closed batch that waits for its signature (R348): its site, header offset, the offset after it, SEQ, header bytes 0x00 to 0x37 and
REC_HASH, and the identity key that is to sign it. -/
structure BatchJob where
  site : Nat
  key : Option Nat
  header : Nat
  end_ : Nat
  seq : Nat
  head : List Byte
  hash : List Byte
  deriving DecidableEq, Repr

/-- The service level: flows, datalogs, and the batches that wait for the signing unit. -/
structure SvcState where
  flows : Sparse FlowState
  dlogs : Sparse DlogState
  jobs : List BatchJob
  deriving DecidableEq, Repr

/-- A flow that has never run. -/
def FlowState.reset : FlowState := ⟨[], 0, .none, none, none, [], false, false, [], none⟩

/-- An empty datalog. -/
def DlogState.reset : DlogState := ⟨0, false, none, [], 0, 0, false, 0, List.replicate 48 0, false⟩

/-- The service level after reset. -/
def SvcState.reset : SvcState := ⟨[], [], []⟩

/-! The DRAM controller (R427 to R456). -/

/-- Whose line requests come to the controller (R196, R434): a stream engine's, capture writes (R233, R346), and DMA's. -/
inductive DrcKind where
  | stream | capture | other
  deriving DecidableEq, Repr

/-- A line request (R433): whose it is, its channel, rank-bank and row; for a stream fetch its site, and the segment and byte offset it serves, and
otherwise 0, 0 and the line's usable offset. -/
structure DrcReq where
  kind : DrcKind
  site : Nat
  seg : Nat
  off : Nat
  chan : Nat
  bank : Nat
  row : Nat
  deriving DecidableEq, Repr

/-- What follows a training (R440 to R442, R447). -/
inductive TrainFor where
  | bringUp | change (sp : Nat) | retrain | retained
  deriving DecidableEq, Repr

/-- The training of one channel: its byte lane (0 or 1, 2 when both are done), the step, and the retries of the lane (R441). -/
structure TrainPos where
  lane : Nat
  step : Nat
  tries : Nat
  deriving DecidableEq, Repr

/-- A training in progress (R441): the set points to train, the first one now, what follows, the place of each channel, and whether a lane
of the present set point has failed. -/
structure Train where
  sps : List Nat
  then_ : TrainFor
  pos : Sparse TrainPos
  failed : Bool
  deriving DecidableEq, Repr

/-- The DRAM controller beyond its registers: DRC_CFG as of the last bring-up (R449), requests at its input and in its queues in arrival
order, the rank-bank each channel picked last (R434), the end of the last refresh stall and whether one has ended since the GO that waits
(R437, R440), the set point of that GO and of a change that runs, training, the eyes of every set point's lanes, reads without a
doubled rate (R438), the segments being cleared (R447), the power request that waits (1: Retain, 2: Off) and
the request of standby (R547), the next line to scrub, and the bytes of capture writes granted in the interval (R196). -/
structure DrcState where
  cfg : Word
  input : List DrcReq
  queue : List DrcReq
  last : Sparse Nat
  stallEnd : Nat
  refreshed : Bool
  fspGo : Option Nat
  fspNow : Option Nat
  train : Option Train
  eyes : Sparse (Word × Word)
  calm : Nat
  clearing : Nat
  retained : Nat
  want : Option Nat
  stby : Bool
  scrub : Nat
  captured : Nat
  deriving DecidableEq, Repr

/-- The DRAM controller after reset. The rotation of R434 starts at rank-bank 0 (log 14). -/
def DrcState.reset : DrcState :=
  { cfg := 0, input := [], queue := [], last := [], stallEnd := 0, refreshed := false, fspGo := none, fspNow := none, train := none,
    eyes := [], calm := 0, clearing := 0, retained := 0, want := none, stby := false, scrub := 0, captured := 0 }

/-! The DMA engine (R457 to R471). -/

/-- A descriptor in progress (R458): its position and address, words 0 and 6, length, SRC, DST and pattern, whether its checks have passed, the bytes done, its
status once it has one, and the mover that runs it. -/
structure DmaDesc where
  pos : Nat
  addr : Nat
  w0 : Nat
  w6 : Nat
  length : Nat
  src : Nat
  dst : Nat
  pattern : Nat
  checked : Bool
  done : Nat
  status : Option Nat
  mover : Nat
  deriving DecidableEq, Repr

/-- A channel beyond its registers: the origin of its enable (R460), RUNG (R459), and its descriptor in progress. -/
structure DmaChan where
  origin : Origin
  rung : Bool
  cur : Option DmaDesc
  deriving DecidableEq, Repr

/-- The DMA engine: its channels, the channel each mover served last (R467), and publish commands held for a claimed segment (R461). -/
structure DmaState where
  chans : Sparse DmaChan
  served : Sparse Nat
  publishes : List (Nat × Nat)
  deriving DecidableEq, Repr

/-- A channel after reset. -/
def DmaChan.reset : DmaChan := ⟨.hw, false, none⟩

/-- The DMA engine after reset; the rotation starts at channel 0 (log 14). -/
def DmaState.reset : DmaState := ⟨[], [], []⟩

/-- The counts of one lane in a pace window (R12): its group, P, T_busy in ticks, and C. -/
structure LanePace where
  group : Nat
  delivered : Nat
  busy : Nat
  consumed : Nat
  deriving DecidableEq, Repr

/-! The host port (R472 to R487). -/

/-- What resets the host port (R474). -/
inductive HostReset where
  | perst | hot | linkDown | flr
  deriving DecidableEq, Repr

/-- A configuration request (R473): a read of a word or of the device serial number; a write of the MSI-X control bits (MSI-X Enable,
Function Mask) or of the power state; any other write. -/
inductive CfgReq where
  | read (off : Nat)
  | serial (high : Bool)
  | msix (enable mask : Bool)
  | d3hot (on : Bool)
  | write (off : Nat) (v : Word)
  deriving DecidableEq, Repr

/-- A BAR request (R475, R476): the BAR (0, 2 or 4), the offset, and a length, or bytes with their enables. -/
inductive HostReq where
  | read (bar off len : Nat)
  | write (bar off : Nat) (data : List (Option Byte))
  deriving DecidableEq, Repr

/-- An access of the bus (R20): a 32-bit register or memory word; bytes, as the host accesses memory; a message of a Constellation peer;
an access that the debug port makes. -/
inductive BusOp where
  | read (addr : Nat)
  | write (addr : Nat) (v : Word)
  | get (addr len : Nat)
  | put (addr : Nat) (data : List (Option Byte))
  | peer (src addr : Nat) (data : Option Word)
  deriving DecidableEq, Repr

/-- The access of a flow's MEAS or WRITE step (R338, R339): a read with its variable and whether it is signed, or a write. -/
inductive FlowOp where
  | read (addr vd : Nat) (signed : Bool)
  | write (addr : Nat) (v : Word)
  deriving DecidableEq, Repr

/-- What waits while it stalls: an access from outside, the access of the present step of a flow, or a part of a DMA descriptor of `asked` bytes
with what host memory delivers for it. -/
inductive WaitOp where
  | bus (op : BusOp)
  | flow (i : Nat) (op : FlowOp)
  | dma (n asked : Nat) (host : List Byte)
  deriving DecidableEq, Repr

/-- An access that stalls, since a time (R413, R445, R478, R549). -/
structure Waiting where
  origin : Origin
  op : WaitOp
  since : Nat
  deriving DecidableEq, Repr

/-- The host port and the event queue beyond their registers: Vendor ID, Subsystem Vendor ID and Subsystem ID once the host record is
read (R473), MSI-X Enable, Function Mask and D3hot, whether the event ring passed its check (R483), the vectors that are owed (R485),
and the accesses of any origin that stall, oldest first. -/
structure HostState where
  ids : Option (Nat × Nat × Nat)
  msixEn : Bool
  msixMask : Bool
  d3hot : Bool
  evtOk : Bool
  owed : List Nat
  waiting : List Waiting
  deriving DecidableEq, Repr

/-- The host port after reset. -/
def HostState.reset : HostState := ⟨none, false, false, false, false, [], []⟩

/-! Start-up and amendments (R497 to R520). -/

/-- A record of an image or an amendment (R502). -/
inductive ImgRecord where
  | host (ids sub : Word)
  | dram (words : List Word)
  | reg (pairs : List (Nat × Word))
  | mem (addr : Nat) (data : List Byte)
  | fill (addr len : Nat) (pattern : Word)
  | lock (offs : List Nat)
  | end_
  deriving DecidableEq, Repr

/-- How a record's CRC reads (R499, R502): right, right once reread in quad mode, or wrong. -/
inductive RecordCrc where
  | ok | reread | bad
  deriving DecidableEq, Repr

/-- What ends the reading of a copy beside what its records show (R504): nothing; a flash read that does not complete; a record of a kind
that no other command has, or that is cut off. -/
inductive CopyEnd where
  | ok | readErr | badRecord
  deriving DecidableEq, Repr

/-- Where an amendment stands (R511 to R513). -/
inductive AmdPhase where
  | checking | waiting | storing
  deriving DecidableEq, Repr

/-- An amendment submitted (R511): its address, its bytes as submitted, where it stands, and whether an Almanac save was under way before
its own flash write (R394). -/
structure Amendment where
  base : Nat
  bytes : List Byte
  phase : AmdPhase
  afterSave : Bool
  deriving DecidableEq, Repr

/-- The boot and amendment unit (R498 to R514): when the reset ended, the headers of the two copies as the flash holds them, the bytes of the
records read from the copy in progress, their number, the staged records with the bytes they take, whether END has come, the first failed
check with its record, the banks and whether the DRAM was written by its records, the DRAM record in force, and the amendment submitted. -/
structure BootState where
  start : Nat
  headers : List Byte × List Byte
  bytes : List Byte
  count : Nat
  staged : List ImgRecord
  stagedLen : Nat
  ended : Bool
  bad : Option (Nat × Nat)
  wrote : List Nat
  wroteDram : Bool
  dram : Option (List Word)
  amd : Option Amendment
  deriving DecidableEq, Repr

/-- Nothing read. -/
def BootState.reset : BootState := ⟨0, ([], []), [], 0, [], 0, false, none, [], false, none, none⟩

/-- Words that port A writes in the bank operations of a port B write, by word number (R406). -/
abbrev PortAOps := List (Fin 0x1000000 × Word)

/-- What a write through an alias brings (R409): its bytes, and what port A writes in the same bank operations. -/
structure AliasData where
  bytes : List (Option Byte)
  portA : PortAOps
  deriving DecidableEq, Repr

/-- What the data of a descriptor meet (R406, R462): what host memory delivers, none where a host request fails, and what port A writes in
the same bank operations. -/
structure DmaMeets where
  host : Option (List Byte)
  portA : PortAOps
  deriving DecidableEq, Repr

/-- What an input that passes a threshold comes to (R101, R246): whether it may change the high flag or else the low one, and its
voltage in µV. -/
structure CrossTo where
  high : Bool
  volt : Int
  deriving DecidableEq, Repr

end Sys2Proof.Machine
end

