-- ==== Sys2Proof/Syntax.lean ====
section
/-! DEFINITION. The commands the block takes from outside: one constructor per row of spec/opcode_table.json, with the row's operands. A
command is a write or a read of a register, an event on a pin, a bus or a protocol, or the end of something the hardware does by itself
(spec/95_what_each_step_holds.md). What cannot be computed, because it is measured or comes from outside, is an operand. -/
namespace Sys2Proof

open Sys2Proof.Machine in
/-- A command. -/
inductive Instr where
  /-- REGISTER_WRITE (R4). A 32-bit write to a register that has no behaviour of its own updates its fields under the field types of R5. -/
  | registerWrite (o : Origin) (a : Fin 0x4000000) (v : Word)
  /-- LOW_WORD_READ (R4). A read of the low word of a 64-bit value returns it and latches the high word for the reading origin. -/
  | lowWordRead (o : Origin) (a : Fin 0x4000000)
  /-- HIGH_WORD_READ (R4). A read of the high word returns the value latched for the origin, or the present value if none is latched. -/
  | highWordRead (o : Origin) (a : Fin 0x4000000)
  /-- LOW_WORD_WRITE (R4). A write of the low word of a 64-bit value is held for the writing origin and does not take effect alone. -/
  | lowWordWrite (o : Origin) (a : Fin 0x4000000) (v : Word)
  /-- HIGH_WORD_WRITE (R4). A write of the high word makes the 64-bit value take effect as a whole with the held or present low word. -/
  | highWordWrite (o : Origin) (a : Fin 0x4000000) (v : Word)
  /-- BAD_WIDTH_ACCESS (R479). A register access of a width other than 32 bits is not performed, reads zero and is counted in SYS_BAD_WIDTH. -/
  | badWidthAccess (o : Origin) (a : Fin 0x10000000) (n : Fin 4097) (data : Option (List (Option Byte)))
  /-- BROADCAST_WRITE (R23). A write to a group or all-pin broadcast block is performed on every target PIN block with one audit record. -/
  | broadcastWrite (o : Origin) (g : Option (Fin 64)) (off : Fin 0x4000) (v : Word)
  /-- GROUP_MAP_WRITE (R25). A write to SYS_GROUP_SITE or SYS_GROUP_OWNED changes ownership only of groups whose old and new owners are idle. -/
  | groupMapWrite (o : Origin) (a : Nat) (v : Word)
  /-- SITE_LEVEL_WRITE (R25). A write to SYS_SITE_LEVEL changes the operating level only of idle sites. -/
  | siteLevelWrite (o : Origin) (v : Word)
  /-- PACE_WINDOW_END (R12). At the end of each 65,536-tick window the device computes pace margin per lane and site; `busy` gives T_busy of
  lanes, in ticks, by group. -/
  | paceWindowEnd (busy : List (Fin 64 × Nat))
  /-- BLOCK_DECODE (R137). The sequencer checks and decodes a block header and carries out its opcode after the block's vectors. -/
  | blockDecode (i : Fin 16) (ecc : Ecc)
  /-- VEC (R135). A VEC block plays its vectors and continues at the following block. -/
  | vec (i : Fin 16)
  /-- RPT (R137). An RPT block plays its vectors the given number of times and continues. -/
  | rpt (i : Fin 16)
  /-- LBEG (R140). An LBEG block opens a counted loop on the loop stack. -/
  | lbeg (i : Fin 16)
  /-- LEND (R140). An LEND repeats the innermost loop body or closes the loop. -/
  | lend (i : Fin 16)
  /-- MLOOP (R141). An MLOOP block repeats until its condition matches or its limit is reached. -/
  | mloop (i : Fin 16)
  /-- JMP (R137). A JMP block continues at its target offset in the current segment. -/
  | jmp (i : Fin 16)
  /-- JC (R137). A JC block is predicted and continues at its target or the following block when its condition resolves. -/
  | jc (i : Fin 16)
  /-- CALL (R142). A CALL pushes the return position and continues at offset 0 of the named segment. -/
  | call (i : Fin 16)
  /-- RET (R142). A RET pops the call stack and continues at the popped position. -/
  | ret (i : Fin 16)
  /-- HOLD (R144). A HOLD block plays its vectors and then hold vectors for its count or until RESUME. -/
  | hold (i : Fin 16)
  /-- HOLD_COUNT_END (R144). The last of a HOLD block's counted hold vectors ends and the site continues. -/
  | holdCountEnd (i : Fin 16)
  /-- NEXT (R143). A NEXT continues at offset 0 of the named segment once it is QUEUED. -/
  | next (i : Fin 16)
  /-- LVL (R108). An LVL block applies a level set to every participating pin of the site at issue. -/
  | lvl (i : Fin 16)
  /-- RETIME (R46). A RETIME block, always fenced, changes the period in force at the next grid point of the new period. -/
  | retime (i : Fin 16)
  /-- FRAME (R51). A FRAME block opens a pad region on an FSYNC input with a nominal pad length. -/
  | frame (i : Fin 16)
  /-- MARK (R145). A MARK block attaches its marker value to its first vector. -/
  | mark (i : Fin 16)
  /-- SYNC (R44). A SYNC block makes the site hold until the next epoch acts. -/
  | sync (i : Fin 16)
  /-- WAITF (R53). A WAITF block makes the site hold until an accepted FSYNC edge plus offset. -/
  | waitf (i : Fin 16)
  /-- XACT (R145). An XACT block, after its fence, hands the site to the transaction engine with a list or halts at pin level. -/
  | xact (i : Fin 16)
  /-- STOP (R145). A STOP block ends the burst with end reason STOP. -/
  | stop (i : Fin 16)
  /-- HALT (R145). A HALT block ends the burst with end reason HALT (PROGRAM). -/
  | halt (i : Fin 16)
  /-- VECTOR_ISSUE (R168). The sequencer passes a vector to the group lanes while the lead, window and slot limits allow. -/
  | vectorIssue (i : Fin 16) (ecc : Ecc)
  /-- VECTOR_CYCLE (R69). A vector's cycle starts at the pins and the timing stage takes its group word from the lane FIFO. -/
  | vectorCycle (i : Fin 16)
  /-- DRIVE_EDGE (R79). A drive-side edge reaches its position and drives one state change at the start of its cluster. -/
  | driveEdge (p : Fin 512)
  /-- STROBE_SAMPLE (R81). A strobe samples the comparator flags and yields a pass or fail against its expect code. -/
  | strobeSample (p : Fin 512)
  /-- CLOCK_TOGGLE (R48). A clock-mode pin reaches a toggle position and drives it unless it is redundant or a runt. -/
  | clockToggle (p : Fin 512)
  /-- RESULT_RETURN (R169). A compare result returns from the front-end die to the sequencer. -/
  | resultReturn (i : Fin 16) (parity : Bool)
  /-- DECISION_RESOLVE (R174). A decision's outcome becomes known and its dependent results commit or are discarded. -/
  | decisionResolve (i : Fin 16)
  /-- FAIL_LOG_WRITE (R231). The fail-log writer writes a queued record to the ring and advances HEAD. -/
  | failLogWrite (i : Fin 16)
  /-- DRAIN_COMPLETE (R150). A DRAINING site finishes, writes its burst result, raises 0x2002 and becomes IDLE. -/
  | drainComplete (i : Fin 16)
  /-- IDLE_APPLY (R83). At burst end each pin applies its idle state at the later of cycle end and 150 ps after its last change. -/
  | idleApply (i : Fin 16) (p : Fin 512)
  /-- SEQ_START (R148). SITE_SEQ_CMD.START arms the site or is refused, ignored or discarded. -/
  | seqStart (o : Origin) (i : Fin 16)
  /-- SITE_ARMED (R148). The start segment is active and the lane FIFOs are filled, so the site becomes ARMED. -/
  | siteArmed (i : Fin 16)
  /-- SEQ_ABORT (R150). SITE_SEQ_CMD.ABORT ends a burst with ABORT (HOST_ABORT) or disarms an ARMED site. -/
  | seqAbort (i : Fin 16)
  /-- SEQ_RESUME (R144). SITE_SEQ_CMD.RESUME ends a HOLD with OPND = 0 at the next cycle boundary. -/
  | seqResume (i : Fin 16)
  /-- SEG_PUBLISH (R130). A publish command checks the id, state and entry and makes the segment QUEUED. -/
  | segPublish (i : Fin 16) (id : Fin 65536) (e : Ecc)
  /-- SEG_UNPUBLISH (R130). An unpublish command returns a QUEUED segment to INACTIVE or is refused. -/
  | segUnpublish (i : Fin 16) (id : Fin 65536)
  /-- SEGTAB_WRITE (R160). A write to SITE_SEGTAB_BASE or RANGE takes effect only while the site is IDLE, else sets TAB_BUSY. -/
  | segtabWrite (o : Origin) (i : Fin 16) (range : Bool) (v : Word)
  /-- FLAG_SET (R147). A write of 1 to SITE_FLAG_SET sets site flags as committed values. -/
  | flagSet (i : Fin 16) (v : Word)
  /-- FLAG_CLEAR (R147). A write of 1 to SITE_FLAGS clears site flags. -/
  | flagClear (i : Fin 16) (v : Word)
  /-- RESULT_RING_WRITE (R164). A write to SITE_RESULT_RING.SIZE resets WRITE_INDEX to 0. -/
  | resultRingWrite (o : Origin) (i : Fin 16) (v : Word)
  /-- RESULT_0_READ (R165). A read of SITE_RESULT_0 latches words 1 to 15 of the burst result for the origin. -/
  | result0Read (o : Origin) (i : Fin 16)
  /-- REF_MISSING_EDGE (R32). An input showing no rising edge for three periods is lost. -/
  | refMissingEdge (n : Fin 2)
  /-- FREQ_WINDOW_CHECK (R32). Every 100 µs each input is measured against the internal oscillator and checked against its window. -/
  | freqWindowCheck (a b : Option Int)
  /-- REF_QUALIFY_TIMER (R33). A lost input present and in its window for 10 ms becomes qualified again. -/
  | refQualifyTimer (n : Fin 2)
  /-- HOLDOVER_SWITCH (R34). After 1 µs of holdover the timebase switches to the other qualified input and raises 0x1003. -/
  | holdoverSwitch
  /-- REF_CFG_WRITE (R38). A write to TB_REF_CFG that changes a frequency or SELECT requalifies both inputs or waits for a calibration step. -/
  | refCfgWrite (o : Origin) (v : Word)
  /-- REF_CFG_DEFERRED_APPLY (R38). A TB_REF_CFG write deferred by a calibration step takes effect when the step ends. -/
  | refCfgDeferredApply
  /-- TIMEBASE_LOCK (R39). The timebase first locks after reset and Meridian time starts counting. -/
  | timebaseLock (fa fb : Option (Fin 4))
  /-- MERIDIAN_LO_READ (R39). A read of TB_MERIDIAN_LO latches TB_MERIDIAN_HI and FINE for the origin. -/
  | meridianLoRead (o : Origin)
  /-- ARM_ESTABLISH (R40). TB_EPOCH_CMD.ARM_ESTABLISH makes the next epoch establishing. -/
  | armEstablish
  /-- SOFT_EPOCH (R39). TB_EPOCH_CMD.SOFT_EPOCH makes an epoch at the next active reference edge. -/
  | softEpoch
  /-- EPOCH_IN_QUALIFY (R42). An EPOCH_IN pulse sampled high on three edges qualifies and fixes its epoch instant. -/
  | epochInQualify
  /-- EPOCH_IN_GLITCH (R42). An EPOCH_IN pulse too short to qualify is ignored and sets GLITCH. -/
  | epochInGlitch
  /-- EPOCH_ACT (R42). An epoch acts at the later of its epoch instant and qualification, establishing or checking Meridian time. -/
  | epochAct
  /-- EPOCH_NEXT_WRITE (R43). A write to TB_EPOCH_NEXT replaces the awaited value and arms the marker timeout. -/
  | epochNextWrite (o : Origin) (v : DWord)
  /-- EPOCH_TIMEOUT (R43). No marker by TB_EPOCH_NEXT plus TIMEOUT halts SYNC sites, raises 0x1012 and advances or disarms. -/
  | epochTimeout
  /-- FSYNC_EDGE (R50). A filtered edge on an enabled FSYNC input is accepted and used by any waiter or else stray. -/
  | fsyncEdge (n : Fin 4) (rising : Bool)
  /-- FSYNC_LATE (R51). A pad region with no usable edge by N + 255 vectors starts the frame, sets LATE and raises 0x1021. -/
  | fsyncLate (i : Fin 16)
  /-- GRID_WRITE (R55). A write to TB_GRID_MODE or TB_GRID_ANCHOR takes effect only for idle sites, else sets GRID_BUSY. -/
  | gridWrite (o : Origin) (off : Nat) (v : Word)
  /-- PIN_IDLE_WRITE (R82). A write to PIN_IDLE takes effect at once while the pin is idle, else at the next idle entry. -/
  | pinIdleWrite (o : Origin) (p : Fin 512) (v : Word)
  /-- CLOCK_CFG_WRITE (R84). A write to PIN_CLK_CFG or PHASE takes effect only while the site is idle, else sets CLK_BUSY. -/
  | clockCfgWrite (o : Origin) (p : Fin 512) (phase : Bool) (v : Word)
  /-- TIMING_TABLE_WRITE (R86). A write of a timeset or waveset applies to vectors reaching the timing stage afterwards. -/
  | timingTableWrite (o : Origin) (p : Fin 512) (off : Nat) (v : Word)
  /-- LEVEL_SAMPLE (R112). At every 100 ns sample instant each pin runs its level queue and slew limiter step. -/
  | levelSample (volts : List (Fin 512 × Int)) (amps : List (Fin 512 × Nat))
  /-- LEVEL_APPLY_CMD (R108). PIN_LVL_CMD with APPLY = 1 enters a level set into the pin's level queue. -/
  | levelApplyCmd (o : Origin) (p : Fin 512) (v : Word)
  /-- CLAMP_WRITE (R102). A write to PIN_CLAMP sets the group's clamp codes for the next sample instant. -/
  | clampWrite (o : Origin) (p : Fin 512) (v : Word)
  /-- TRIP_REARM (R106). A write of 1 to PIN_FESTAT.TRIP re-arms an idle pin or sets REARM_BUSY. -/
  | tripRearm (o : Origin) (p : Fin 512)
  /-- TWILIGHT_LEVEL_CHECK (R114). Every 10 µs in Twilight each DAC output is compared with its code. -/
  | twilightLevelCheck (dev : List (Fin 512 × Fin 7))
  /-- STREAM_REQUEST (R199). The stream engine issues a 2 KiB read request when the buffer has room below HIGH. -/
  | streamRequest (i : Fin 16)
  /-- STREAM_DATA_ARRIVE (R199). Stream data land in the buffer and the engine decodes the arriving block headers. -/
  | streamDataArrive (i : Fin 16) (e : Ecc)
  /-- GRANT_INTERVAL (R196). Each 1 µs interval renews every class grant of the DRAM controller. -/
  | grantInterval
  /-- CROSSING (R246). A comparator flag changes and opens or pairs an edge event for stamping. -/
  | crossing (p : Fin 512) (t : Nat) (x : CrossTo)
  /-- EVENT_CLOSE_TIMEOUT (R246). An open edge event with no pair crossing closes after 4.0 ns. -/
  | eventCloseTimeout (p : Fin 512)
  /-- STAMP_DONE (R246). A converter finishes stamping an event and its stamps leave through the stamp queue. -/
  | stampDone (p : Fin 512)
  /-- TRIGGER_TIMEOUT (R254). A TIMEOUT trigger unit fires when no matching crossing occurs within W1 ns. -/
  | triggerTimeout (p : Fin 512) (u : Fin 4) (t : Nat)
  /-- TDC_ARM (R275). PIN_TDC_CMD.ARM arms a single-interval measurement or is refused with BUSY. -/
  | tdcArm (p : Fin 512)
  /-- TDC_CANCEL (R280). PIN_TDC_CMD.CANCEL ends the measurement or series and raises 0x6003. -/
  | tdcCancel (p : Fin 512)
  /-- TDC_ARM_INSTANT (R276). The scheduled Meridian arm instant arrives and the measurement begins taking start and stop. -/
  | tdcArmInstant (p : Fin 512)
  /-- TDC_RESULT (R277). A single-interval result and its flags become readable and pass to the accumulator. -/
  | tdcResult (p : Fin 512)
  /-- TDC_TIMEOUT (R278). No start or stop by the timeout ends the measurement without result and raises 0x6002. -/
  | tdcTimeout (p : Fin 512)
  /-- TDC_REPEAT_ARM (R279). The next measurement of a series arms 8.0 ns after the previous later stamp. -/
  | tdcRepeatArm (p : Fin 512)
  /-- RED_OPERAND (R284). The reduction engine takes one operand from the next non-empty pin queue into its accumulator. -/
  | redOperand
  /-- RED_SNAP (R289). RED_SNAP_CMD.SNAP starts a snapshot of an accumulator or sets CMD_BUSY. -/
  | redSnap (a : Fin 1024) (snap : Bool)
  /-- RED_SNAP_DONE (R289). The snapshot registers are filled, BUSY clears and VALID sets. -/
  | redSnapDone
  /-- RED_DUMP (R289). RED_DUMP_CMD.GO starts a dump of accumulators to memory or sets DUMP_BAD or CMD_BUSY. -/
  | redDump (first last : Fin 1024) (go : Bool)
  /-- RED_DUMP_DONE (R289). All dump records are in memory and DUMP_DONE is set. -/
  | redDumpDone
  /-- RED_CLEAR (R285). RED_CLR_CMD.CLR clears a range of accumulators. -/
  | redClear (first last : Fin 1024) (clr : Bool)
  /-- IVL_RING_WRITE (R302). A write to RED_IVL_BASE or SIZE sets HEAD and TAIL to 0. -/
  | ivlRingWrite (o : Origin) (k : Fin 3) (v : Word)
  /-- PORT_WRITE (R306). A write to an XE_PORTn register takes effect only while the port's site is not in XACT, else sets PORT_BUSY. -/
  | portWrite (o : Origin) (n : Fin 128) (k : Fin 6) (v : Word)
  /-- LIST_BURST_RUN (R311). XE_SITEs_CMD.RUN starts a list burst of the named list. -/
  | listBurstRun (o : Origin) (i : Fin 16) (l : Fin 65536)
  /-- XACT_DISPATCH (R310). The engine dispatches the next list entry into its port queue when the queue has room. -/
  | xactDispatch (i : Fin 16)
  /-- XACT_ENGINE_VISIT (R320). The engine visits a port with room and processes up to SLICE steps. -/
  | xactEngineVisit
  /-- TPL_EMIT (R314). An EMIT step plays ARG vectors of role symbols. -/
  | tplEmit (n : Fin 128)
  /-- TPL_SHIFT (R314). A SHIFT step sends n data bits on the data roles and captures response bits. -/
  | tplShift (n : Fin 128)
  /-- TPL_LOOP (R314). A LOOP step loads or decrements its counter and jumps to the target while non-zero. -/
  | tplLoop (n : Fin 128)
  /-- TPL_BRANCH (R314). A BRANCH step waits for the last captured bit and jumps if it matches. -/
  | tplBranch (n : Fin 128)
  /-- TPL_WAITHI (R314). A WAITHI step plays vectors until a sampled high returns or its limit gives TIMEOUT. -/
  | tplWaithi (n : Fin 128)
  /-- TPL_FAIL (R314). A FAIL step ends the transaction with its status. -/
  | tplFail (n : Fin 128)
  /-- TPL_END (R314). An END step ends the transaction with OK or MISMATCH. -/
  | tplEnd (n : Fin 128)
  /-- CAPTURE_BIT_RETURN (R316). A captured bit returns to the engine and releases a waiting BRANCH or WAITHI. -/
  | captureBitReturn
  /-- FLOW_RUN (R333). SVC_CMD.RUN starts a flow run from ENTRY or sets RUN_BUSY. -/
  | flowRun (i : Fin 16)
  /-- FLOW_STOP_CMD (R335). SVC_CMD.STOP ends the run at the next step boundary, with ABORT also ending a burst or wait. -/
  | flowStopCmd (i : Fin 16) (abort : Bool)
  /-- CLR_BINS (R342). SVC_CMD.CLR_BINS sets all 256 bin counters to 0. -/
  | clrBins (i : Fin 16)
  /-- DLOG_FLUSH (R348). SVC_CMD.FLUSH closes the open batch if it holds a record. -/
  | dlogFlush (i : Fin 16)
  /-- FLOW_END (R342). An END step assigns the bin, counts it, writes the BIN record and may start a new run. -/
  | flowEnd (i : Fin 16)
  /-- FLOW_BURST (R338). A BURST step starts a burst of the named segment and waits for its result. -/
  | flowBurst (i : Fin 16)
  /-- FLOW_XLIST (R338). An XLIST step starts a list burst and waits for its end. -/
  | flowXlist (i : Fin 16)
  /-- FLOW_MEAS (R339). A MEAS step reads one value from a source into a variable. -/
  | flowMeas (i : Fin 16)
  /-- FLOW_CALC (R338). A CALC step computes a saturated s64 result into a variable. -/
  | flowCalc (i : Fin 16)
  /-- FLOW_LIMIT (R340). A LIMIT step evaluates a variable against its bounds and may set a fail bin. -/
  | flowLimit (i : Fin 16)
  /-- FLOW_BIN (R341). A BIN step sets the run's bin if unset or when forced. -/
  | flowBin (i : Fin 16)
  /-- FLOW_JUMP (R338). A JUMP step jumps when its condition holds. -/
  | flowJump (i : Fin 16)
  /-- FLOW_WAIT (R338). A WAIT step waits for a time, an epoch, an FSYNC edge or an event bit. -/
  | flowWait (i : Fin 16)
  /-- FLOW_WAIT_DONE (R338). The awaited time, epoch, edge, event bit or timeout ends a WAIT step and sets C. -/
  | flowWaitDone (i : Fin 16)
  /-- FLOW_WRITE (R338). A WRITE step writes a value to a device address with origin FLOW. -/
  | flowWrite (i : Fin 16)
  /-- FLOW_LOG (R338). A LOG step writes a VALUE datalog record. -/
  | flowLog (i : Fin 16)
  /-- FLOW_HRET (R345). An HRET step ends a handler and resumes the interrupted run. -/
  | flowHret (i : Fin 16)
  /-- HANDLER_START (R345). A pending handler match starts at the next step boundary, setting V14 and V15. -/
  | handlerStart (i : Fin 16)
  /-- BATCH_SIGNED (R348). The signing unit completes a batch signature and HEAD advances past the batch. -/
  | batchSigned
  /-- DLOG_TAIL_WRITE (R349). A write of SVC_DLOG_TAIL frees room and resumes a STALLED flow. -/
  | dlogTailWrite (o : Origin) (i : Fin 16) (v : Word)
  /-- DLOG_RING_WRITE (R354). A write to SVC_DLOG_BASE or SIZE sets HEAD, TAIL and batch SEQ to 0. -/
  | dlogRingWrite (o : Origin) (i : Fin 16) (k : Fin 3) (v : Word)
  /-- EPOCH (R366). An EPOCH frame from the active parent fixes the epoch instant and is forwarded to children. -/
  | epoch (p : Fin 6) (x : Rx) (w1 w2 w3 : DWord)
  /-- EVENT (R369). An EVENT frame is flooded on and applied at APPLY or on arrival. -/
  | event (p : Fin 6) (x : Rx) (w1 w2 : DWord)
  /-- EVT_STATE (R363). An EVT_STATE frame replaces the event vector. -/
  | evtState (p : Fin 6) (x : Rx) (vector : Word)
  /-- PROBE (R364). A PROBE frame is answered with a PROBE_REPLY carrying TURN. -/
  | probe (p : Fin 6) (x : Rx) (id : BitVec 12) (turn : Word)
  /-- PROBE_REPLY (R364). A PROBE_REPLY updates the port's receive latency L. -/
  | probeReply (p : Fin 6) (x : Rx) (id : BitVec 12) (turn : Word)
  /-- NAK (R359). A NAK makes the sender replay from the frame after ACK. -/
  | nak (p : Fin 6) (x : Rx)
  /-- HELLO (R360). A HELLO frame updates the peer's root, depth, use and subtree, and parent selection. -/
  | hello (p : Fin 6) (x : Rx) (w : DWord)
  /-- MSG_RD (R362). An MSG_RD frame is routed or performed as a read with origin PEER and answered. -/
  | msgRd (p : Fin 7) (x : Rx) (addr : DWord)
  /-- MSG_WR (R362). An MSG_WR frame is routed or performed as a write with origin PEER and answered. -/
  | msgWr (p : Fin 7) (x : Rx) (addr : DWord) (v : Word)
  /-- MSG_RSP (R362). An MSG_RSP completes the outstanding message with its data and result. -/
  | msgRsp (p : Fin 6) (x : Rx) (w : DWord)
  /-- IDLE (R356). An IDLE frame keeps the link from silence. -/
  | idle (p : Fin 6) (x : Rx)
  /-- LINK_SILENCE (R356). No frame for 1 µs takes the port DOWN. -/
  | linkSilence (p : Fin 6)
  /-- BLOCK_LOCK_LOST (R356). Loss of block lock on a lane takes the port DOWN. -/
  | blockLockLost (p : Fin 6)
  /-- REPLAY_TIMEOUT (R359). A frame unacknowledged for 2 µs is replayed, and after four replays the port goes DOWN. -/
  | replayTimeout (p : Fin 6)
  /-- LINK_UP (R359). A port completes training and comes UP, raising 0x9001. -/
  | linkUp (p : Fin 6)
  /-- LINK_QUALIFIED (R359). A port UP for 1 ms without a CRC error becomes qualified. -/
  | linkQualified (p : Fin 6)
  /-- HELLO_TIMER (R360). Every 10 µs a HELLO is sent on each port. -/
  | helloTimer
  /-- PROBE_TIMER (R364). Every 1 µs each UP port sends a PROBE. -/
  | probeTimer
  /-- PROBE_TIMEOUT (R364). A probe reply not received within 1 µs is not counted. -/
  | probeTimeout (p : Fin 6)
  /-- IDLE_TIMER (R356). A port with nothing to send for 256 ns sends an IDLE frame. -/
  | idleTimer (p : Fin 6)
  /-- MSG_GO (R362). IAT_MSG_CMD.GO sends one read or write message to a destination device. -/
  | msgGo (v : Word)
  /-- MSG_TIMEOUT (R362). No response 100 µs after GO sets RESULT TIMEOUT and raises 0x9009. -/
  | msgTimeout
  /-- ROOT_EPOCH (R365). IAT_CMD.ROOT_EPOCH makes the root take a source instant and send an EPOCH frame. -/
  | rootEpoch (o : Origin) (tag : BitVec 16)
  /-- COMMIT_NEXT (R365). IAT_CMD.COMMIT_NEXT makes the root's next EPOCH carry COMMIT and TAG. -/
  | commitNext (o : Origin) (tag : BitVec 16)
  /-- EVT_SET (R368). A non-zero write of IAT_EVT_SET originates an EVENT frame setting those bits. -/
  | evtSet (v : Word)
  /-- EVT_CLEAR (R368). A non-zero write of IAT_EVT_CLEAR originates an EVENT frame clearing those bits. -/
  | evtClear (v : Word)
  /-- EVENT_APPLY (R369). At its APPLY tick an EVENT frame's clear and set bits act on the event vector. -/
  | eventApply
  /-- CAL_RUN (R380). CAL_CMD.RUN starts a calibration run over a pin range. -/
  | calRun (o : Origin) (tag : BitVec 16)
  /-- CAL_CANCEL (R398). CAL_CMD.CANCEL ends the run after the steps in progress. -/
  | calCancel (o : Origin) (tag : BitVec 16)
  /-- CAL_COMMIT (R388). CAL_CMD.COMMIT copies the working set into the pending set and changes idle sites at once. -/
  | calCommit (o : Origin) (tag : BitVec 16)
  /-- CAL_COMMIT_EPOCH (R389). CAL_CMD.COMMIT_EPOCH arms an epoch commit with a tag. -/
  | calCommitEpoch (o : Origin) (tag : BitVec 16)
  /-- CAL_DISARM (R389). CAL_CMD.DISARM cancels an armed epoch commit. -/
  | calDisarm (o : Origin) (tag : BitVec 16)
  /-- CAL_COPY (R390). CAL_CMD.COPY copies the committed set into the working set. -/
  | calCopy (o : Origin) (tag : BitVec 16)
  /-- CAL_STEP_START (R381). A calibration step on a pin begins if its conditions hold, else gets SKIPPED. -/
  | calStepStart (k : Fin 8)
  /-- CAL_STEP_DONE (R385). A step ends and writes its results to the working set if within limits. -/
  | calStepDone (k : Fin 8) (m : CalMeasure)
  /-- ALMANAC_SAVE (R394). CAL_ALM_CMD.SAVE writes the committed set to the older slot. -/
  | almanacSave (slot0 slot1 : List Byte)
  /-- ALMANAC_SAVE_DONE (R394). A save finishes its read-back check and reports OK or failure. -/
  | almanacSaveDone (back : Option (List Byte))
  /-- PORT_B_ACCESS (R404). A port B read or write is served at its bank with ECC check or read-modify-write. -/
  | portBAccess (o : Origin) (x : Fin 0x4000000) (n : Fin 4097) (data : Option (List (Option Byte))) (e : Ecc) (a : PortAOps)
  /-- ALIAS_SET_WRITE (R409). A write to the bit-set alias ORs data into the word atomically. -/
  | aliasSetWrite (o : Origin) (x : Fin 0x4000000) (data : AliasData)
  /-- ALIAS_CLEAR_WRITE (R409). A write to the bit-clear alias clears data bits in the word atomically. -/
  | aliasClearWrite (o : Origin) (x : Fin 0x4000000) (data : AliasData)
  /-- SCRUB_READ (R408). The scrubber reads and corrects the next word of an On bank. -/
  | scrubRead (e : Ecc)
  /-- BANK_POWER_REQUEST (R410). A write to MEM_BANK_CTRL requests On, Retain or Off for a bank. -/
  | bankPowerRequest (o : Origin) (n : Fin 4) (v : Word)
  /-- BANK_POWER_CHANGE (R411). A pending Retain or Off request takes effect once no DMA or running site uses the bank. -/
  | bankPowerChange (b : Fin 64)
  /-- BANK_WAKE_DONE (R413). A bank returning from Retain becomes On and stalled accesses proceed. -/
  | bankWakeDone (b : Fin 64)
  /-- BANK_CLEARED (R413). A bank returning from Off finishes clearing and raises 0xB004. -/
  | bankCleared (b : Fin 64)
  /-- SECURE_WIPED (R415). A wipe of the secure region completes and raises 0xB007. -/
  | secureWiped
  /-- BIST_BANK_START (R416). After INTERVAL the background test borrows a spare and starts copying the next bank. -/
  | bistBankStart
  /-- BIST_COPY_DONE (R416). A bank copy completes and the map is swapped to the spare. -/
  | bistCopyDone (b : Fin 64)
  /-- BIST_MARCH_DONE (R416). The march test of the released bank ends and it becomes a spare or is retired. -/
  | bistMarchDone (pass : Bool)
  /-- MEM_REPAIR (R417). MEM_CMD.REPAIR replaces a logical bank by copy, swap and retirement. -/
  | memRepair (b : Fin 64)
  /-- SPARE_EXHAUSTED (R417). A test or repair waiting 1 s for a spare raises 0xB008. -/
  | spareExhausted
  /-- MEM_CLR_COUNTS (R423). MEM_CMD.CLR_COUNTS sets the three memory error counters to 0. -/
  | memClrCounts
  /-- DRAM_PICK (R434). A channel picks the next eligible request by class and rotation and serves its row. -/
  | dramPick (ch : Fin 16)
  /-- DRAM_REFRESH (R437). At each refresh tick all channels stop picking and refresh all banks. -/
  | dramRefresh
  /-- DRAM_SCRUB (R431). The DRAM scrubber reads and corrects the next data line. -/
  | dramScrub (e : Ecc)
  /-- DRAM_TEMP_READ (R438). Every 32 µs the controller reads each rank's refresh-rate field. -/
  | dramTempRead (need hot : List (Fin 16))
  /-- FSP_GO (R440). DRC_FSP_CMD.GO requests a change to a set point or sets FSP_BAD. -/
  | fspGo (k : Fin 4)
  /-- FSP_CHANGE_BEGIN (R440). The set-point change begins at the end of the next refresh stall once its waits are over. -/
  | fspChangeBegin
  /-- DRAM_TRAIN_GO (R441). DRC_TRAIN_CMD.GO retrains the set point in force. -/
  | dramTrainGo
  /-- TRAIN_STEP_DONE (R441). A lane training step ends and the lane passes, retrains or fails. -/
  | trainStepDone (ch : Fin 16) (rdW rdH wrW wrH : Fin 65536)
  /-- LANE_CHECK (R442). Every 1 ms each lane's delays are checked and adjusted within refresh stalls. -/
  | laneCheck (eyes : List (Fin 32 × Fin 65536 × Fin 65536 × Fin 65536 × Fin 65536))
  /-- DRAM_POWER_REQUEST (R443). A write of DRC_PWR_CTRL.REQ requests On, Retain or Off for the DRAM domain. -/
  | dramPowerRequest (o : Origin) (v : Word)
  /-- DRAM_POWER_CHANGE (R444). A pending Retain or Off takes effect once no DMA or site uses DRAM. -/
  | dramPowerChange
  /-- SELF_REFRESH_EXIT (R447). On return to On the DRAM exits self-refresh, retrains if needed and starts clearing. -/
  | selfRefreshExit (lost : Bool)
  /-- DRAM_SEGMENT_CLEARED (R447). A DRAM segment finishes clearing and is served at once. -/
  | dramSegmentCleared
  /-- DRC_CLR_COUNTS (R455). DRC_CMD.CLR_COUNTS sets both DRAM error counters to 0. -/
  | drcClrCounts
  /-- DMA_ENABLE (R457). DMA_CHn_CTRL.EN changing to 1 checks the ring and starts the channel. -/
  | dmaEnable (o : Origin) (n : Fin 16) (halt : Bool) (prio : Fin 4)
  /-- DMA_DISABLE (R465). Writing EN = 0 aborts the descriptor in progress and disables the channel. -/
  | dmaDisable (o : Origin) (n : Fin 16) (halt : Bool) (prio : Fin 4)
  /-- DMA_STOP (R465). DMA_CHn_CTRL.STOP ends the channel after the descriptor in progress. -/
  | dmaStop (o : Origin) (n : Fin 16) (halt : Bool) (prio : Fin 4)
  /-- DMA_DOORBELL (R459). A doorbell write sets the channel's RUNG bit and wakes an IDLE channel. -/
  | dmaDoorbell (n : Fin 16)
  /-- DMA_DESC_READ (R459). The engine reads word 0 at the channel position and runs an owned descriptor or goes IDLE. -/
  | dmaDescRead (n : Fin 16) (e : Ecc)
  /-- DMA_COPY (R460). A COPY descriptor is checked and copies LENGTH bytes from SRC to DST. -/
  | dmaCopy (n : Fin 16) (bytes : Word) (meets : DmaMeets)
  /-- DMA_FILL (R460). A FILL descriptor is checked and fills DST with its pattern word. -/
  | dmaFill (n : Fin 16) (bytes : Word) (meets : DmaMeets)
  /-- DMA_DESC_DONE (R458). A descriptor completes and is written back with DONE_LEN and STATUS. -/
  | dmaDescDone (n : Fin 16) (host : List Byte)
  /-- DMA_RING_WRITE (R466). A write to POS, RING_BASE or RING_SIZE of a disabled channel is taken, BASE or SIZE resetting POS. -/
  | dmaRingWrite (o : Origin) (n : Fin 16) (k : Fin 3) (v : Word)
  /-- HOST_PORT_RESET (R474). PERST_N, hot reset, link-down or FLR resets only the host port. -/
  | hostPortReset (r : HostReset)
  /-- CONFIG_REQUEST (R473). A configuration request completes with retry status before READY or FAULT, else normally. -/
  | configRequest (q : CfgReq)
  /-- HOST_REQUEST (R480). A host BAR request is performed in order with origin HOST. -/
  | hostRequest (q : HostReq)
  /-- HOST_STALL_TIMEOUT (R478). A stalled host request not performed within STALL_LIMIT completes with Completer Abort or is discarded. -/
  | hostStallTimeout
  /-- EVENT_ENTER (R483). An event record enters the queue and is stored, dropped, routed and matched. -/
  | eventEnter
  /-- EVT_ENABLE (R483). EVT_CFG.EN changing to 1 resets HEAD and TAIL and checks the ring. -/
  | evtEnable (o : Origin) (v : Word)
  /-- EVT_TAIL_WRITE (R483). A write of EVT_Q_TAIL below SIZE advances TAIL, else is discarded. -/
  | evtTailWrite (v : Word)
  /-- VECTOR_ARM (R485). A write of 1 to EVT_ARM re-arms a vector and sends one message if it was owed. -/
  | vectorArm (n : Fin 2) (v : Word)
  /-- H2D_POST (R487). EVT_MBOX_CMD.H2D_POST sets H2D_PENDING or H2D_OVERRUN. -/
  | h2dPost
  /-- D2H_POST (R487). EVT_MBOX_CMD.D2H_POST sets D2H_PENDING and acts on its vector. -/
  | d2hPost
  /-- POR_N_LOW (R497). A low pulse on POR_N of at least 1 µs performs a full reset. -/
  | porNLow (lowNs : Nat)
  /-- NVM_RESET (R517). NVM_RESET.GO with the key performs a full reset. -/
  | nvmReset (v : Word)
  /-- BOOT_MARCH_DONE (R418). The boot march test of all physical banks ends and the bank map is set. -/
  | bootMarchDone (bad : List (Fin 68))
  /-- FLASH_ID_DONE (R499). The flash SFDP is read and the read mode chosen, or the boot faults. -/
  | flashIdDone (sfdp : Option (Bool × Fin 65536)) (primary mirror : List Byte)
  /-- HOST_RECORD (R502). A HOST record is staged and later sets the configuration-space identity and starts link training. -/
  | hostRecord (w0 w1 : Word) (crc : RecordCrc)
  /-- DRAM_RECORD (R503). A DRAM record writes the DRC registers and brings the DRAM up at once. -/
  | dramRecord (ws : List Word) (crc : RecordCrc)
  /-- REG_RECORD (R506). A REG record is staged and its pairs are written with origin IMG in APPLY. -/
  | regRecord (pairs : List (Word × Word)) (crc : RecordCrc)
  /-- MEM_RECORD (R503). A MEM record writes its data to its destination at once. -/
  | memRecord (addr : DWord) (data : List Word) (crc : RecordCrc)
  /-- FILL_RECORD (R503). A FILL record fills its destination with its pattern at once. -/
  | fillRecord (addr : DWord) (len pattern : Word) (crc : RecordCrc)
  /-- LOCK_RECORD (R506). A LOCK record is staged and locks the named RWL fields in APPLY. -/
  | lockRecord (offs : List Word) (crc : RecordCrc)
  /-- END_RECORD (R502). The END record closes the copy's records. -/
  | endRecord (crc : RecordCrc)
  /-- IMAGE_COPY_CHECKED (R504). The copy's hash and signature check completes, making it valid or moving to the mirror. -/
  | imageCopyChecked (e : CopyEnd)
  /-- APPLY_DONE (R506). The staged records have been applied and the staging area is cleared. -/
  | applyDone
  /-- AMEND_ENTRY (R514). At boot each stored amendment entry is checked and applied or skipped. -/
  | amendEntry (entry : List Byte)
  /-- ALMANAC_LOAD (R395). The valid Almanac slot with the higher SEQ is loaded into the calibration sets. -/
  | almanacLoad (slot0 slot1 : List Byte)
  /-- SELFTEST_DONE (R508). The stamp-unit self-test ends and failing pins are reported. -/
  | selftestDone (fails : List (Fin 512 × Fin 4))
  /-- AMD_SUBMIT (R511). NVM_AMD_CMD.SUBMIT reads and checks an amendment from on-chip memory. -/
  | amdSubmit
  /-- AMD_CHECK_DONE (R511). The amendment check completes as valid or refused with 0xF084. -/
  | amdCheckDone
  /-- AMD_APPLY (R512). Once the named sites are IDLE the amendment is applied with origin AMD and 0xF083 raised. -/
  | amdApply
  /-- AMD_PERSIST_DONE (R513). A persisted amendment finishes its flash write and read-back. -/
  | amdPersistDone (area : List Byte) (back : Option (List Byte))
  /-- SEC_KEYGEN (R521). SEC_CMD.KEYGEN creates the identity key pair in BLANK, or is ignored. -/
  | secKeygen (o : Origin)
  /-- KEYGEN_DONE (R521). Key creation completes and the public key becomes readable. -/
  | keygenDone
  /-- SEC_NONCE (R527). SEC_CMD.NONCE loads a fresh random nonce. -/
  | secNonce (o : Origin)
  /-- TOKEN_SUBMIT (R527). SEC_CMD.SUBMIT reads and checks a life-cycle token, consuming the nonce. -/
  | tokenSubmit (o : Origin)
  /-- TOKEN_CHECK_DONE (R527). The token check completes as accepted or refused with 0xF002. -/
  | tokenCheckDone
  /-- LIFECYCLE_COMMIT (R528). Once all sites are IDLE the device wipes, commits the new state, logs and raises 0xF001. -/
  | lifecycleCommit
  /-- TAMPER_EVENT (R530). A filtered low on TAMPER_N wipes the secure region, drops ownership and raises 0xF003. -/
  | tamperEvent
  /-- AUD_CKPT (R539). AUD_CMD.CKPT reserves and triggers an audit checkpoint. -/
  | audCkpt (o : Origin)
  /-- CHECKPOINT_SIGNED (R539). A checkpoint signature completes and HEAD advances past it. -/
  | checkpointSigned
  /-- AUD_RING_MOVE (R533). A write changing AUD_RING_BASE or SIZE moves later records to the new ring. -/
  | audRingMove (o : Origin) (size : Bool) (v : DWord)
  /-- AUD_TAIL_WRITE (R537). A write of AUD_RING TAIL frees room and releases held records. -/
  | audTailWrite (o : Origin) (v : Word)
  /-- DEBUG_ACCESS (R532). A test access port debug instruction performs an access with origin DBG if debug is open. -/
  | debugAccess (op : BusOp)
  /-- TAP_RESET (R497). A test access port reset instruction performs a full reset with cause 0x5. -/
  | tapReset
  /-- EXTEST_LOAD (R582). Loading EXTEST holds the device in full reset until another instruction or Test-Logic-Reset. -/
  | extestLoad
  /-- STANDBY (R547). PWR_CMD.STANDBY starts entry into STANDBY or sets STBY_BUSY. -/
  | standby
  /-- STANDBY_ENTER (R547). Once sites are idle and domain requests have taken effect the device enters STANDBY and raises 0xE021. -/
  | standbyEnter
  /-- WAKE (R547). PWR_CMD.WAKE returns every domain to its register-named state. -/
  | wake
  /-- STANDBY_EXIT (R547). Every domain has reached its state, the device enters READY and raises 0xE022. -/
  | standbyExit
  /-- DOMAIN_REQUEST (R549). A write to PWR_DOM_CTRL requests On or Off for octants, HOST or LINK. -/
  | domainRequest (o : Origin) (v : Word)
  /-- OCTANT_OFF_DONE (R549). An octant off request no longer held removes the die's supplies and the octant is Off. -/
  | octantOffDone (k : Fin 8)
  /-- OCTANT_ON_DONE (R549). A powered octant finishes reset and calibration load and stalled PIN accesses proceed. -/
  | octantOnDone (k : Fin 8) (pins : List (Fin 64)) (volts : List Int)
  /-- SUPPLY_SAMPLE (R552). Every 100 ns each supply monitor samples against its warning and reset thresholds. -/
  | supplySample (mv : Vector (BitVec 13) 9)
  /-- TWILIGHT_EXIT (R552). Supplies above warning for 10 µs end Twilight, raise 0xE002 and audit it. -/
  | twilightExit
  /-- AVS_RESPONSE_TIMEOUT (R554). An AVSBus write or read without a valid response in 100 µs sets AVS_ERR and raises 0xE030. -/
  | avsResponseTimeout (read : Bool)
  /-- AVS_READBACK (R554). 1 ms after a write the rail voltage is read back and checked within 25 mV. -/
  | avsReadback (mv : Fin 1024)
  /-- TEMP_SAMPLE (R556). Every 10 µs each junction sensor is sampled and compared with WARN, HOT and 115 °C. -/
  | tempSample (temp : Vector (BitVec 8) 9)
  /-- HEARTBEAT_TIMEOUT (R558). No heartbeat from a front-end die for 4 µs puts its octant in FAULT and ends its sites' bursts. -/
  | heartbeatTimeout (k : Fin 8)
  /-- EXTEST_RELEASE (R582). Loading another instruction or passing through Test-Logic-Reset ends the EXTEST hold, and the device leaves reset and
  boots. -/
  | extestRelease
  /-- PCIE_LINK_UP (R490). The PCI Express link completes training and comes up, setting SYS_HOST_STATUS.LINK_UP with its speed and width. -/
  | pcieLinkUp (speed : Fin 5) (w : Fin 4)
  /-- TAMPER_N_RELEASE (R529). TAMPER_N returns high after a tamper event, so a later low can form a new tamper event. -/
  | tamperNRelease
  /-- POWER_REMOVED (R546). All supplies are removed and the device enters OFF. -/
  | powerRemoved
  /-- FSP_CHANGE_DONE (R440). A set-point change ends after at most 3.0 µs: requests are served again, the admission check repeats and 0xC005 is raised.
  -/
  | fspChangeDone
  deriving DecidableEq, Repr

end Sys2Proof
end

