-- ==== Sys2Proof/Config.lean ====
section
/-! DEFINITION. What an implementation fixes and the spec leaves open: free values, as constants without a body. A
statement about one holds for every value of it. Each is applied to the model's counter `fresh`, or to the operands named. -/
namespace Sys2Proof

/-- A free 32-bit value: an undefined result (R563). -/
opaque Config.freeWord : Nat → Word

/-- A free bit: an undefined compare result (R80, R86) or choice. -/
opaque Config.freeBit : Nat → Bool

/-- A free byte of memory (R460, R465). -/
opaque Config.freeByte : Nat → Byte

/-- The random 64-bit value of SEC_CMD.NONCE (R527). -/
opaque Config.nonce : Nat → DWord

/-- The public key of the n-th identity key pair made (R521). -/
opaque Config.identityKey : Nat → Nat × Nat

/-- The ECDSA signature (r, s) that the n-th identity key makes of a message (R523). -/
opaque Config.sign : Nat → List Byte → Nat × Nat

/-- The vendor public key, whose hash is fixed in ROM (R524). -/
opaque Config.vendorKey : Nat × Nat

/-- The ROOT that an orphan announces in HELLO (R358, R360), by its address. -/
opaque Config.orphanRoot : Nat → Nat

/-- The reading of an X.509 certificate (R522): its serial number and subject public key, none where it does not parse. -/
opaque Config.parseCert : List Byte → Option (Nat × (Nat × Nat))

end Sys2Proof
end

