-- ==== Sys2Proof/Machine/Crypto.lean ====
section
/-! DEFINITION. The standard functions the spec names: SHA-384 (FIPS 180-4), CRC-32C (RFC 3720) and the verification of an
ECDSA P-384 signature (FIPS 186-5). The signing side uses keys no origin can read (R521): it is opaque, in Config. -/
namespace Sys2Proof.Machine

/-- Round constants 0 to 7 of FIPS 180-4, the first in the highest bits. -/
def shaK0 : Nat :=
  0x428a2f98d728ae227137449123ef65cdb5c0fbcfec4d3b2fe9b5dba58189dbbc3956c25bf348b53859f111f1b605d019923f82a4af194f9bab1c5ed5da6d8118

/-- Round constants 8 to 15 of FIPS 180-4, the first in the highest bits. -/
def shaK1 : Nat :=
  0xd807aa98a303024212835b0145706fbe243185be4ee4b28c550c7dc3d5ffb4e272be5d74f27b896f80deb1fe3b1696b19bdc06a725c71235c19bf174cf692694

/-- Round constants 16 to 23 of FIPS 180-4, the first in the highest bits. -/
def shaK2 : Nat :=
  0xe49b69c19ef14ad2efbe4786384f25e30fc19dc68b8cd5b5240ca1cc77ac9c652de92c6f592b02754a7484aa6ea6e4835cb0a9dcbd41fbd476f988da831153b5

/-- Round constants 24 to 31 of FIPS 180-4, the first in the highest bits. -/
def shaK3 : Nat :=
  0x983e5152ee66dfaba831c66d2db43210b00327c898fb213fbf597fc7beef0ee4c6e00bf33da88fc2d5a79147930aa72506ca6351e003826f142929670a0e6e70

/-- Round constants 32 to 39 of FIPS 180-4, the first in the highest bits. -/
def shaK4 : Nat :=
  0x27b70a8546d22ffc2e1b21385c26c9264d2c6dfc5ac42aed53380d139d95b3df650a73548baf63de766a0abb3c77b2a881c2c92e47edaee692722c851482353b

/-- Round constants 40 to 47 of FIPS 180-4, the first in the highest bits. -/
def shaK5 : Nat :=
  0xa2bfe8a14cf10364a81a664bbc423001c24b8b70d0f89791c76c51a30654be30d192e819d6ef5218d69906245565a910f40e35855771202a106aa07032bbd1b8

/-- Round constants 48 to 55 of FIPS 180-4, the first in the highest bits. -/
def shaK6 : Nat :=
  0x19a4c116b8d2d0c81e376c085141ab532748774cdf8eeb9934b0bcb5e19b48a8391c0cb3c5c95a634ed8aa4ae3418acb5b9cca4f7763e373682e6ff3d6b2b8a3

/-- Round constants 56 to 63 of FIPS 180-4, the first in the highest bits. -/
def shaK7 : Nat :=
  0x748f82ee5defb2fc78a5636f43172f6084c87814a1f0ab728cc702081a6439ec90befffa23631e28a4506cebde82bde9bef9a3f7b2c67915c67178f2e372532b

/-- Round constants 64 to 71 of FIPS 180-4, the first in the highest bits. -/
def shaK8 : Nat :=
  0xca273eceea26619cd186b8c721c0c207eada7dd6cde0eb1ef57d4f7fee6ed17806f067aa72176fba0a637dc5a2c898a6113f9804bef90dae1b710b35131c471b

/-- Round constants 72 to 79 of FIPS 180-4, the first in the highest bits. -/
def shaK9 : Nat :=
  0x28db77f523047d8432caab7b40c724933c9ebe0a15c9bebc431d67c49c100d4c4cc5d4becb3e42b6597f299cfc657e2a5fcb6fab3ad6faec6c44198c4a475817

/-- The words of a number below 2^512, from its highest bits. -/
def eightWords (n : Nat) : List DWord := (List.range 8).map (fun k => BitVec.ofNat 64 (n / 2 ^ (64 * (7 - k))))

/-- The 80 round constants. -/
def shaK : List DWord := [shaK0, shaK1, shaK2, shaK3, shaK4, shaK5, shaK6, shaK7, shaK8, shaK9].flatMap eightWords

/-- The initial hash value of SHA-384. -/
def shaStart : Nat :=
  0xcbbb9d5dc1059ed8629a292a367cd5079159015a3070dd17152fecd8f70e593967332667ffc00b318eb44a8768581511db0c2e0d64f98fa747b5481dbefa4fa4

/-- A word rotated right by each of a list of amounts, combined by exclusive or. -/
def turned (w : DWord) (l : List Nat) : DWord := l.foldl (fun x n => x ^^^ w.rotateRight n) 0

/-- The bytes that end a message of `n` bytes, so that whole blocks of 128 result: a one bit, zeros and the length in bits. -/
def shaTail (n : Nat) : List Byte :=
  let zeros := (128 * 2 - 17 - n % 128) % 128
  0x80 :: beBytes (zeros + 16) (8 * n)

/-- The word of the schedule that follows a window of sixteen, oldest first. -/
def shaNext (w : List DWord) : DWord :=
  let at_ (k : Nat) : DWord := (w[k]?).getD 0
  let low := turned (at_ 1) [1, 8] ^^^ at_ 1 >>> 7
  let high := turned (at_ 14) [19, 61] ^^^ at_ 14 >>> 6
  at_ 0 + low + at_ 9 + high

/-- A round of the compression function, on the eight working variables. -/
def shaRound (v : List DWord) (kw : DWord) : List DWord :=
  match v with
  | [a, b, c, d, e, f, g, h] =>
    let t := h + kw + turned e [14, 18, 41] + (g ^^^ e &&& (f ^^^ g))
    [t + turned a [28, 34, 39] + (a &&& (b ||| c) ||| b &&& c), a, b, c, d + t, e, f, g]
  | _ => v

/-- The rounds that the constants name, over a window of the schedule: the working variables after them. -/
def shaRun : List DWord → List DWord → List DWord → List DWord
  | [], _, v => v
  | k :: ks, w, v => shaRun ks (w.drop 1 ++ [shaNext w]) (shaRound v (k + (w[0]?).getD 0))

/-- A block, as a number, taken into the hash value. -/
def shaTake (hash : List DWord) (block : Nat) : List DWord :=
  let w := eightWords (block / 2 ^ 512) ++ eightWords block
  List.zipWith (fun x y => x + y) hash (shaRun shaK w hash)

/-- `n` blocks taken into the hash value. -/
def shaFold : Nat → List Byte → List DWord → List DWord
  | 0, _, hash => hash
  | n + 1, bs, hash => shaFold n (bs.drop 128) (shaTake hash (beNat (bs.take 128)))

/-- SHA-384 of a message (FIPS 180-4): 48 bytes, the first six words of the hash value. -/
def sha384 (msg : List Byte) : List Byte :=
  let all := msg ++ shaTail msg.length
  ((shaFold (all.length / 128) all (eightWords shaStart)).take 6).flatMap (fun w => beBytes 8 w.toNat)

/-- One bit of the reflected CRC-32C register. -/
def crcBit (c : Word) : Word := if c.getLsbD 0 then (c >>> 1) ^^^ 0x82F63B78 else c >>> 1

/-- One byte into the CRC-32C register. -/
def crcByte (c : Word) (b : Byte) : Word :=
  let x := c ^^^ BitVec.setWidth 32 b
  crcBit (crcBit (crcBit (crcBit (crcBit (crcBit (crcBit (crcBit x)))))))

/-- CRC-32C of a byte string, as in RFC 3720. -/
def crc32c (bs : List Byte) : Word := ~~~(bs.foldl crcByte 0xFFFFFFFF)

/-! P-384. -/

/-- The field prime of P-384. -/
def p384P : Nat := 2 ^ 384 - 2 ^ 128 - 2 ^ 96 + 2 ^ 32 - 1

/-- The order of the base point. -/
def p384N : Nat :=
  0xffffffffffffffffffffffffffffffffffffffffffffffffc7634d81f4372ddf581a0db248b0a77aecec196accc52973

/-- The coefficient b of the curve. -/
def p384B : Nat :=
  0xb3312fa7e23ee7e4988e056be3f82d19181d9c6efe8141120314088f5013875ac656398d8a2ed19d2a85c8edd3ec2aef

/-- The base point. -/
def p384G : Nat × Nat :=
  (0xaa87ca22be8b05378eb1c71ef320ad746e1d3b628ba79b9859f741e082542a385502f25dbf55296c3a545e3872760ab7,
   0x3617de4a96262c6f5d9e98bf9292dc29f8f41dbd289a147ce9da3113b5f0b8c00a60b1ce1d7e819d7a431d7c90ea0e5f)

/-- b^e mod m, over `fuel` bytes of e. -/
def powMod (m : Nat) : Nat → Nat → Nat → Nat
  | 0, _, _ => 1 % m
  | fuel + 1, b, e => Nat.pow b (e % 256) * powMod m fuel (Nat.pow b 256 % m) (e / 256) % m

/-- The inverse modulo a prime below 2^384. -/
def invMod (m a : Nat) : Nat := powMod m 48 (a % m) (m - 2)

/-- The difference modulo p. -/
def subP (a b : Nat) : Nat := (a + p384P - b % p384P) % p384P

/-- Point addition on P-384; `none` is the point at infinity. -/
def ecAdd : Option (Nat × Nat) → Option (Nat × Nat) → Option (Nat × Nat)
  | none, q => q
  | p, none => p
  | some (x1, y1), some (x2, y2) =>
    if x1 = x2 ∧ (y1 + y2) % p384P = 0 then none
    else
      let l :=
        if x1 = x2 then subP (3 * x1 * x1) 3 * invMod p384P (2 * y1) % p384P
        else subP y2 y1 * invMod p384P (subP x2 x1) % p384P
      let x3 := subP (subP (l * l) x1) x2
      some (x3, subP (l * subP x1 x3) y1)

/-- Scalar multiplication, over `fuel` bits of the scalar. -/
def ecMul : Nat → Nat → Option (Nat × Nat) → Option (Nat × Nat)
  | 0, _, _ => none
  | fuel + 1, k, p =>
    let r := ecMul fuel (k / 2) (ecAdd p p)
    if k % 2 = 1 then ecAdd p r else r

/-- Whether a pair of coordinates is a point of the curve. -/
def onCurve (q : Nat × Nat) : Bool :=
  decide (q.1 < p384P) && decide (q.2 < p384P) &&
    decide (q.2 * q.2 % p384P = (q.1 * q.1 * q.1 + (p384P - 3) * q.1 + p384B) % p384P)

/-- ECDSA P-384 verification with SHA-384 (FIPS 186-5). -/
def ecdsaVerify (key : Nat × Nat) (msg : List Byte) (r t : Nat) : Bool :=
  let e := beNat (sha384 msg)
  let w := invMod p384N t
  let pt := ecAdd (ecMul 384 (e * w % p384N) (some p384G)) (ecMul 384 (r * w % p384N) (some key))
  decide (0 < r) && decide (r < p384N) && decide (0 < t) && decide (t < p384N) && onCurve key &&
    (match pt with
     | none => false
     | some (x, _) => decide (x % p384N = r))

/-- The coordinates of an uncompressed SEC1 point of 97 bytes (R521). -/
def sec1Point (bs : List Byte) : Nat × Nat := (beNat ((bs.drop 1).take 48), beNat ((bs.drop 49).take 48))

/-- The 97-byte uncompressed SEC1 form of a point (R521). -/
def sec1Bytes (q : Nat × Nat) : List Byte := 0x04 :: (beBytes 48 q.1 ++ beBytes 48 q.2)

/-- The DER SubjectPublicKeyInfo of a P-384 point: algorithm id-ecPublicKey with the named curve secp384r1 (RFC 5480). -/
def spkiDer (q : Nat × Nat) : List Byte :=
  [0x30, 0x76, 0x30, 0x10, 0x06, 0x07, 0x2A, 0x86, 0x48, 0xCE, 0x3D, 0x02, 0x01, 0x06, 0x05, 0x2B, 0x81, 0x04, 0x00, 0x22,
   0x03, 0x62, 0x00] ++ sec1Bytes q

end Sys2Proof.Machine
end

