-- ==== Sys2Proof/Machine/Bits.lean ====
section
/-! DEFINITION. Register fields: where a field lies in its register, how it is read and replaced, and how the tables of
spec/ describe a register (R4, R5, R6). -/
namespace Sys2Proof.Machine

/-- A register field: the BAR0 offset of its register, its lowest bit and its length. -/
structure Fld where
  addr : Nat
  lo : Nat
  len : Nat
  deriving DecidableEq, Repr

/-- Field types of R5. -/
inductive Acc where
  | rw | ro | wo | w1c | w1s | rwl
  deriving DecidableEq, Repr

/-- Log classes of R6. -/
inductive LogClass where
  | cfg | ops | stat
  deriving DecidableEq, Repr

/-- What a written value outside the field's range stores: the value itself, the field unchanged for a code from lo to
hi, or the nearer limit of lo .. hi. -/
inductive Adj where
  | plain
  | keep (lo hi : Nat)
  | clamp (lo hi : Nat)
  deriving DecidableEq, Repr

/-- One row of a register table. -/
structure FieldDesc where
  lo : Nat
  len : Nat
  acc : Acc
  log : LogClass
  rst : Nat
  adj : Adj
  deriving DecidableEq, Repr

/-- Whether a register is a word of its own, or the low or high word of a 64-bit value under R4. -/
inductive Pair where
  | single | low | high
  deriving DecidableEq, Repr

/-- A register, or an array of registers: `off + s1 * i + s2 * j` for `i < n1` and `j < n2`. -/
structure RegDesc where
  name : String
  off : Nat
  n1 : Nat
  s1 : Nat
  n2 : Nat
  s2 : Nat
  pair : Pair
  fields : List FieldDesc
  deriving DecidableEq, Repr

/-- Whether a block offset is one of the registers of the description. -/
def RegDesc.covers (d : RegDesc) (o : Nat) : Bool :=
  let r := o - d.off
  decide (d.off ≤ o) && decide (r / d.s1 < d.n1) && decide (r % d.s1 % d.s2 = 0) && decide (r % d.s1 / d.s2 < d.n2)

/-- A mask of `len` ones from bit `lo`. -/
def maskAt (lo len : Nat) : Word := BitVec.ofNat 32 (2 ^ len - 1) <<< lo

/-- The bits of a word that a field holds, as a number. -/
def fieldGet (lo len : Nat) (w : Word) : Nat := ((w >>> lo) &&& BitVec.ofNat 32 (2 ^ len - 1)).toNat

/-- A word with the bits of a field replaced. -/
def fieldPut (lo len : Nat) (w : Word) (v : Nat) : Word :=
  (w &&& ~~~(maskAt lo len)) ||| ((BitVec.ofNat 32 v <<< lo) &&& maskAt lo len)

/-- The reset word of a register description. -/
def RegDesc.resetWord (d : RegDesc) : Word := d.fields.foldl (fun w f => fieldPut f.lo f.len w f.rst) 0

/-- The value a field stores for a written value (R5 and the Description cells of the tables). -/
def adjust (a : Adj) (old v : Nat) : Nat :=
  match a with
  | .plain => v
  | .keep lo hi => if lo ≤ v ∧ v ≤ hi then old else v
  | .clamp lo hi => clampNat lo hi v

/-- What a field holds after a write, by its type (R5); `locked` holds for a RWL field the image has locked. -/
def fieldAfter (f : FieldDesc) (locked : Bool) (old written : Nat) : Nat :=
  match f.acc with
  | .rw => adjust f.adj old written
  | .rwl => if locked then old else adjust f.adj old written
  | .ro => old
  | .wo => 0
  | .w1c => (BitVec.ofNat 32 old &&& ~~~(BitVec.ofNat 32 written)).toNat
  | .w1s => (BitVec.ofNat 32 old ||| BitVec.ofNat 32 written).toNat

/-- Whether a field is locked under a mask of locked bits. -/
def fieldLocked (f : FieldDesc) (locks : Word) : Bool :=
  decide (f.acc = .rwl) && decide (fieldGet f.lo f.len locks ≠ 0)

/-- The register word after a write, field by field (R5). -/
def RegDesc.store (d : RegDesc) (locks old written : Word) : Word :=
  d.fields.foldl
    (fun w f =>
      fieldPut f.lo f.len w
        (fieldAfter f (fieldLocked f locks) (fieldGet f.lo f.len old) (fieldGet f.lo f.len written)))
    old

/-- The bits of a register whose log class is CFG (R6). -/
def RegDesc.cfgMask (d : RegDesc) : Word :=
  d.fields.foldl (fun w f => if f.log = .cfg then w ||| maskAt f.lo f.len else w) 0

/-- The bits of a register that read back (a WO field reads 0, R5). -/
def RegDesc.readMask (d : RegDesc) : Word :=
  d.fields.foldl (fun w f => if f.acc = .wo then w else w ||| maskAt f.lo f.len) 0

end Sys2Proof.Machine
end

