-- ==== Sys2Proof/Machine/Fields.lean ====
section
/-! DEFINITION. One name for every register field of the register tables of spec/, as REGISTER_FIELD: the BAR0 offset of
its register, its lowest bit and its length. Site s, pin p and the index of a repeated register or field are arguments, in
that order; the register of R n is found by its name in the tables of the chapter that owns the block (R22, R488). -/
namespace Sys2Proof.Machine

/-! Fields of the SYS block (R26 to R30, R489 to R491). -/
def SYS_ID_PART : Fld := ⟨0x0, 0, 16⟩
def SYS_ID_STEP : Fld := ⟨0x0, 16, 8⟩
def SYS_HOST_CFG_STALL_LIMIT : Fld := ⟨0x4, 0, 16⟩
def SYS_HOST_STATUS_LINK_UP : Fld := ⟨0x8, 0, 1⟩
def SYS_HOST_STATUS_SPEED : Fld := ⟨0x8, 1, 3⟩
def SYS_HOST_STATUS_WIDTH : Fld := ⟨0x8, 4, 4⟩
def SYS_HOST_STATUS_BAD_WIDTH : Fld := ⟨0x8, 8, 1⟩
def SYS_HOST_STATUS_POISONED : Fld := ⟨0x8, 9, 1⟩
def SYS_HOST_STATUS_STALL_ABORT : Fld := ⟨0x8, 10, 1⟩
def SYS_HOST_STATUS_FLR : Fld := ⟨0x8, 11, 1⟩
def SYS_BAD_WIDTH_COUNT : Fld := ⟨0xC, 0, 32⟩
def SYS_HOST_STALL_COUNT : Fld := ⟨0x10, 0, 32⟩
def SYS_GROUP_SITE_SITE_G (i k : Nat) : Fld := ⟨0x100 + 4 * i, 0 + 4 * k, 4⟩
def SYS_GROUP_OWNED (i : Nat) : Fld := ⟨0x120 + 4 * i, 0, 32⟩
def SYS_SITE_LEVEL_LEVEL_S (k : Nat) : Fld := ⟨0x128, 0 + 2 * k, 2⟩
def SYS_ARCH_STATUS_MAP_BUSY : Fld := ⟨0x12C, 0, 1⟩
def SYS_ARCH_STATUS_LEVEL_BUSY : Fld := ⟨0x12C, 1, 1⟩
def SYS_ARCH_STATUS_UNMAPPED : Fld := ⟨0x12C, 2, 1⟩
def SYS_UNMAPPED_ADDR_LO_ADDR : Fld := ⟨0x130, 0, 32⟩
def SYS_UNMAPPED_ADDR_HI_ADDR : Fld := ⟨0x134, 0, 32⟩
def SYS_MSIX_ADDR_LO_ADDR (i : Nat) : Fld := ⟨0x8000 + 16 * i, 0, 32⟩
def SYS_MSIX_ADDR_HI_ADDR (i : Nat) : Fld := ⟨0x8004 + 16 * i, 0, 32⟩
def SYS_MSIX_DATA (i : Nat) : Fld := ⟨0x8008 + 16 * i, 0, 32⟩
def SYS_MSIX_CTRL_MASK (i : Nat) : Fld := ⟨0x800C + 16 * i, 0, 1⟩
def SYS_MSIX_PBA_PENDING (i : Nat) : Fld := ⟨0x9000 + 4 * i, 0, 32⟩

/-! Fields of the EVT block (R492 to R496). -/
def EVT_CFG_EN : Fld := ⟨0x10000, 0, 1⟩
def EVT_CFG_MODE : Fld := ⟨0x10000, 1, 1⟩
def EVT_CFG_PIN_EN : Fld := ⟨0x10000, 2, 1⟩
def EVT_Q_BASE : Fld := ⟨0x10004, 0, 32⟩
def EVT_Q_SIZE : Fld := ⟨0x10008, 0, 17⟩
def EVT_Q_HEAD : Fld := ⟨0x1000C, 0, 16⟩
def EVT_Q_TAIL : Fld := ⟨0x10010, 0, 16⟩
def EVT_STATUS_OVERFLOW : Fld := ⟨0x10014, 0, 1⟩
def EVT_STATUS_BAD_RING : Fld := ⟨0x10014, 1, 1⟩
def EVT_STATUS_WRAPPED : Fld := ⟨0x10014, 2, 1⟩
def EVT_STATUS_NONEMPTY : Fld := ⟨0x10014, 3, 1⟩
def EVT_DROPPED_COUNT : Fld := ⟨0x10018, 0, 32⟩
def EVT_SEQ : Fld := ⟨0x1001C, 0, 32⟩
def EVT_PIN_MASK_CLASS : Fld := ⟨0x10020, 1, 15⟩
def EVT_ROUTE_VEC (i : Nat) : Fld := ⟨0x10044 + 4 * (i - 1), 0, 6⟩
def EVT_ROUTE_EN (i : Nat) : Fld := ⟨0x10044 + 4 * (i - 1), 6, 1⟩
def EVT_ROUTE_SPLIT (i : Nat) : Fld := ⟨0x10044 + 4 * (i - 1), 7, 1⟩
def EVT_ARM (i : Nat) : Fld := ⟨0x10080 + 4 * i, 0, 32⟩
def EVT_MBOX_BASE : Fld := ⟨0x100A0, 0, 32⟩
def EVT_MBOX_CMD_H2D_POST : Fld := ⟨0x100A4, 0, 1⟩
def EVT_MBOX_CMD_D2H_POST : Fld := ⟨0x100A4, 1, 1⟩
def EVT_MBOX_STAT_H2D_PENDING : Fld := ⟨0x100A8, 0, 1⟩
def EVT_MBOX_STAT_D2H_PENDING : Fld := ⟨0x100A8, 1, 1⟩
def EVT_MBOX_STAT_H2D_OVERRUN : Fld := ⟨0x100A8, 2, 1⟩
def EVT_MBOX_STAT_D2H_OVERRUN : Fld := ⟨0x100A8, 3, 1⟩
def EVT_MBOX_VEC : Fld := ⟨0x100AC, 0, 6⟩
def EVT_MBOX_VEC_EN : Fld := ⟨0x100AC, 6, 1⟩

/-! Fields of the SEC block (R542 to R544). -/
def SEC_STATE_LC : Fld := ⟨0x20000, 0, 2⟩
def SEC_STATE_KEY : Fld := ⟨0x20000, 2, 1⟩
def SEC_STATE_DBG_OPEN : Fld := ⟨0x20000, 3, 1⟩
def SEC_CFG_TAMPER_EN : Fld := ⟨0x20004, 0, 1⟩
def SEC_CFG_TAMPER_FILT : Fld := ⟨0x20004, 4, 4⟩
def SEC_CMD_NONCE : Fld := ⟨0x20008, 0, 1⟩
def SEC_CMD_SUBMIT : Fld := ⟨0x20008, 1, 1⟩
def SEC_CMD_KEYGEN : Fld := ⟨0x20008, 2, 1⟩
def SEC_STATUS_STATE : Fld := ⟨0x2000C, 0, 2⟩
def SEC_STATUS_RESULT : Fld := ⟨0x2000C, 4, 4⟩
def SEC_STATUS_TAMPER : Fld := ⟨0x2000C, 8, 1⟩
def SEC_STATUS_DENY : Fld := ⟨0x2000C, 9, 1⟩
def SEC_TOKEN_BASE : Fld := ⟨0x20010, 0, 32⟩
def SEC_NONCE_LO_NONCE : Fld := ⟨0x20018, 0, 32⟩
def SEC_NONCE_HI_NONCE : Fld := ⟨0x2001C, 0, 32⟩
def SEC_TAMPER_COUNT : Fld := ⟨0x20020, 0, 32⟩
def SEC_BOOT_COUNT : Fld := ⟨0x20024, 0, 32⟩
def SEC_SERIAL_WORD (i : Nat) : Fld := ⟨0x20030 + 4 * i, 0, 32⟩
def SEC_OWNER_HASH_WORD (i : Nat) : Fld := ⟨0x20040 + 4 * i, 0, 32⟩
def SEC_VENDOR_HASH_WORD (i : Nat) : Fld := ⟨0x20070 + 4 * i, 0, 32⟩
def SEC_PUBKEY_WORD (i : Nat) : Fld := ⟨0x20100 + 4 * i, 0, 32⟩
def SEC_CERT_LEN : Fld := ⟨0x20200, 0, 12⟩
def SEC_CERT_WORD (i : Nat) : Fld := ⟨0x21000 + 4 * i, 0, 32⟩

/-! Fields of the AUD block (R545). -/
def AUD_CFG_MODE : Fld := ⟨0x30000, 0, 1⟩
def AUD_RING_BASE_LO_BASE : Fld := ⟨0x30004, 0, 32⟩
def AUD_RING_BASE_HI_BASE : Fld := ⟨0x30008, 0, 32⟩
def AUD_RING_SIZE : Fld := ⟨0x3000C, 0, 32⟩
def AUD_RING_HEAD : Fld := ⟨0x30010, 0, 32⟩
def AUD_RING_TAIL : Fld := ⟨0x30014, 0, 32⟩
def AUD_CKPT_N : Fld := ⟨0x30018, 0, 16⟩
def AUD_CMD_CKPT : Fld := ⟨0x3001C, 0, 1⟩
def AUD_STATUS_LOSS : Fld := ⟨0x30020, 0, 1⟩
def AUD_STATUS_BAD_RING : Fld := ⟨0x30020, 1, 1⟩
def AUD_STATUS_WRAPPED : Fld := ⟨0x30020, 2, 1⟩
def AUD_STATUS_SIGNING : Fld := ⟨0x30020, 3, 1⟩
def AUD_SEQ : Fld := ⟨0x30024, 0, 32⟩
def AUD_LOST : Fld := ⟨0x30028, 0, 32⟩
def AUD_CHAIN (i : Nat) : Fld := ⟨0x30030 + 4 * i, 0, 32⟩

/-! Fields of the PWR block (R565 to R571). -/
def PWR_STATUS_DEV_STATE : Fld := ⟨0x40000, 0, 3⟩
def PWR_STATUS_TWILIGHT : Fld := ⟨0x40000, 3, 1⟩
def PWR_STATUS_THERM_WARN : Fld := ⟨0x40000, 4, 1⟩
def PWR_STATUS_THERM_HOT : Fld := ⟨0x40000, 5, 1⟩
def PWR_STATUS_AVS_ERR : Fld := ⟨0x40000, 6, 1⟩
def PWR_STATUS_OFF_ACCESS : Fld := ⟨0x40000, 7, 1⟩
def PWR_STATUS_STBY_BUSY : Fld := ⟨0x40000, 8, 1⟩
def PWR_CMD_STANDBY : Fld := ⟨0x40004, 0, 1⟩
def PWR_CMD_WAKE : Fld := ⟨0x40004, 1, 1⟩
def PWR_DOM_CTRL_OCT (k : Nat) : Fld := ⟨0x40008, 0 + k, 1⟩
def PWR_DOM_CTRL_HOST : Fld := ⟨0x40008, 8, 1⟩
def PWR_DOM_CTRL_LINK : Fld := ⟨0x40008, 9, 1⟩
def PWR_DOM_STATE_OCT (k : Nat) : Fld := ⟨0x4000C, 0 + 2 * k, 2⟩
def PWR_DOM_STATE_HOST : Fld := ⟨0x4000C, 16, 2⟩
def PWR_DOM_STATE_LINK : Fld := ⟨0x4000C, 18, 2⟩
def PWR_STBY_CFG_OCT_OFF : Fld := ⟨0x40010, 0, 8⟩
def PWR_STBY_CFG_DRAM_RETAIN : Fld := ⟨0x40010, 8, 1⟩
def PWR_STBY_CFG_HOST_OFF : Fld := ⟨0x40010, 9, 1⟩
def PWR_STBY_CFG_LINK_OFF : Fld := ⟨0x40010, 10, 1⟩
def PWR_STBY_BANKS (i : Nat) : Fld := ⟨0x40014 + 4 * i, 0, 32⟩
def PWR_AVS_CFG_BASE : Fld := ⟨0x40020, 0, 10⟩
def PWR_AVS_CFG_RAIL : Fld := ⟨0x40020, 10, 3⟩
def PWR_AVS_CFG_EN : Fld := ⟨0x40020, 16, 1⟩
def PWR_AVS_STAT_REQ : Fld := ⟨0x40024, 0, 10⟩
def PWR_AVS_STAT_READ : Fld := ⟨0x40024, 16, 10⟩
def PWR_SUP_CFG_WARN (i : Nat) : Fld := ⟨0x40040 + 4 * i, 0, 13⟩
def PWR_SUP_CFG_RESET (i : Nat) : Fld := ⟨0x40040 + 4 * i, 16, 13⟩
def PWR_SUP_STAT_BELOW : Fld := ⟨0x40080, 0, 9⟩
def PWR_SUP_STAT_CAUSED : Fld := ⟨0x40080, 16, 9⟩
def PWR_SUP_MV (i : Nat) : Fld := ⟨0x40090 + 4 * i, 0, 13⟩
def PWR_TWI_COUNT : Fld := ⟨0x400C0, 0, 32⟩
def PWR_TWI_TIME : Fld := ⟨0x400C4, 0, 32⟩
def PWR_THERM_CFG_WARN : Fld := ⟨0x40100, 0, 8⟩
def PWR_THERM_CFG_HOT : Fld := ⟨0x40100, 8, 8⟩
def PWR_THERM_CFG_HYST : Fld := ⟨0x40100, 16, 4⟩
def PWR_THERM_CFG_DRAM_STOP : Fld := ⟨0x40100, 24, 1⟩
def PWR_TEMP_NOW (i : Nat) : Fld := ⟨0x40110 + 4 * i, 0, 8⟩
def PWR_TEMP_MAX (i : Nat) : Fld := ⟨0x40110 + 4 * i, 8, 8⟩

/-! Fields of the TB block (R56 to R67). -/
def TB_REF_CFG_FREQ_A : Fld := ⟨0x50000, 0, 2⟩
def TB_REF_CFG_FREQ_B : Fld := ⟨0x50000, 2, 2⟩
def TB_REF_CFG_SELECT : Fld := ⟨0x50000, 4, 2⟩
def TB_REF_CFG_REVERT : Fld := ⟨0x50000, 6, 1⟩
def TB_REF_STATUS_A_OK : Fld := ⟨0x50004, 0, 1⟩
def TB_REF_STATUS_B_OK : Fld := ⟨0x50004, 1, 1⟩
def TB_REF_STATUS_ACTIVE : Fld := ⟨0x50004, 2, 1⟩
def TB_REF_STATUS_HOLDOVER : Fld := ⟨0x50004, 3, 1⟩
def TB_REF_STATUS_LOCKED : Fld := ⟨0x50004, 4, 1⟩
def TB_REF_STATUS_DISAGREE : Fld := ⟨0x50004, 5, 1⟩
def TB_REF_STATUS_A_LOST : Fld := ⟨0x50004, 8, 1⟩
def TB_REF_STATUS_B_LOST : Fld := ⟨0x50004, 9, 1⟩
def TB_REF_STATUS_SWITCHED : Fld := ⟨0x50004, 10, 1⟩
def TB_REF_STATUS_DEFERRED : Fld := ⟨0x50004, 11, 1⟩
def TB_REF_STATUS_HOLDOVER_MS : Fld := ⟨0x50004, 16, 16⟩
def TB_MERIDIAN_LO_TICK_LO : Fld := ⟨0x50010, 0, 32⟩
def TB_MERIDIAN_HI_TICK_HI : Fld := ⟨0x50014, 0, 32⟩
def TB_MERIDIAN_FINE : Fld := ⟨0x50018, 0, 11⟩
def TB_EPOCH_CFG_SOURCE : Fld := ⟨0x50020, 0, 2⟩
def TB_EPOCH_CFG_TOL : Fld := ⟨0x50020, 8, 8⟩
def TB_EPOCH_CFG_TIMEOUT : Fld := ⟨0x50020, 16, 16⟩
def TB_EPOCH_CMD_ARM_ESTABLISH : Fld := ⟨0x50024, 0, 1⟩
def TB_EPOCH_CMD_SOFT_EPOCH : Fld := ⟨0x50024, 1, 1⟩
def TB_EPOCH_NEXT_LO_NEXT : Fld := ⟨0x50028, 0, 32⟩
def TB_EPOCH_NEXT_HI_NEXT : Fld := ⟨0x5002C, 0, 32⟩
def TB_EPOCH_INTERVAL : Fld := ⟨0x50030, 0, 32⟩
def TB_EPOCH_OFFSET : Fld := ⟨0x50034, 0, 32⟩
def TB_EPOCH_DEV : Fld := ⟨0x50038, 0, 32⟩
def TB_EPOCH_STATUS_ESTABLISHED : Fld := ⟨0x5003C, 0, 1⟩
def TB_EPOCH_STATUS_REFUSED : Fld := ⟨0x5003C, 1, 1⟩
def TB_EPOCH_STATUS_MISMATCH : Fld := ⟨0x5003C, 2, 1⟩
def TB_EPOCH_STATUS_TIMEOUT : Fld := ⟨0x5003C, 3, 1⟩
def TB_EPOCH_STATUS_GLITCH : Fld := ⟨0x5003C, 4, 1⟩
def TB_EPOCH_STATUS_GRID_BUSY : Fld := ⟨0x5003C, 5, 1⟩
def TB_EPOCH_STATUS_NEXT_ARMED : Fld := ⟨0x5003C, 6, 1⟩
def TB_FSYNC_CFG_FILTER (i : Nat) : Fld := ⟨0x50040 + 4 * i, 0, 4⟩
def TB_FSYNC_CFG_EDGE (i : Nat) : Fld := ⟨0x50040 + 4 * i, 4, 1⟩
def TB_FSYNC_CFG_ENABLE (i : Nat) : Fld := ⟨0x50040 + 4 * i, 5, 1⟩
def TB_FSYNC_CFG_OFFSET (i : Nat) : Fld := ⟨0x50040 + 4 * i, 8, 16⟩
def TB_FSYNC_STATUS_EARLY (k : Nat) : Fld := ⟨0x50050, 0 + k, 1⟩
def TB_FSYNC_STATUS_LATE (k : Nat) : Fld := ⟨0x50050, 4 + k, 1⟩
def TB_FSYNC_STATUS_STRAY (k : Nat) : Fld := ⟨0x50050, 8 + k, 1⟩
def TB_FSYNC_DELTA_APPLIED (i : Nat) : Fld := ⟨0x50060 + 4 * i, 0, 16⟩
def TB_FSYNC_DELTA_REQUESTED (i : Nat) : Fld := ⟨0x50060 + 4 * i, 16, 16⟩
def TB_GRID_MODE_COHERENT_S (k : Nat) : Fld := ⟨0x50070, 0 + k, 1⟩
def TB_GRID_ANCHOR (i : Nat) : Fld := ⟨0x50080 + 4 * i, 0, 32⟩

/-! Fields of the MEM block (R421 to R426). -/
def MEM_CFG_SCRUB_EN : Fld := ⟨0x60000, 0, 1⟩
def MEM_CFG_AUTO_REPAIR : Fld := ⟨0x60000, 1, 1⟩
def MEM_SCRUB_PERIOD : Fld := ⟨0x60004, 0, 16⟩
def MEM_STATUS_CE : Fld := ⟨0x60008, 0, 1⟩
def MEM_STATUS_UE : Fld := ⟨0x60008, 1, 1⟩
def MEM_STATUS_COLLISION : Fld := ⟨0x60008, 2, 1⟩
def MEM_STATUS_OFF_ACCESS : Fld := ⟨0x60008, 3, 1⟩
def MEM_STATUS_SECURE_DENY : Fld := ⟨0x60008, 4, 1⟩
def MEM_STATUS_NO_SPARE : Fld := ⟨0x60008, 5, 1⟩
def MEM_STATUS_REQ_WAIT : Fld := ⟨0x60008, 6, 1⟩
def MEM_STATUS_WIPING : Fld := ⟨0x60008, 7, 1⟩
def MEM_STATUS_RMW_UE : Fld := ⟨0x60008, 8, 1⟩
def MEM_STATUS_SPARES_FREE : Fld := ⟨0x60008, 16, 3⟩
def MEM_CE_COUNT : Fld := ⟨0x60010, 0, 32⟩
def MEM_UE_COUNT : Fld := ⟨0x60014, 0, 32⟩
def MEM_COLL_COUNT : Fld := ⟨0x60018, 0, 32⟩
def MEM_UE_ADDR : Fld := ⟨0x60020, 0, 32⟩
def MEM_COLL_ADDR : Fld := ⟨0x60024, 0, 32⟩
def MEM_CMD_BANK : Fld := ⟨0x60028, 0, 6⟩
def MEM_CMD_REPAIR : Fld := ⟨0x60028, 8, 1⟩
def MEM_CMD_CLR_COUNTS : Fld := ⟨0x60028, 9, 1⟩
def MEM_BANK_CTRL_REQ_B (i k : Nat) : Fld := ⟨0x60040 + 4 * i, 0 + 2 * k, 2⟩
def MEM_BANK_STATE_STATE_B (i k : Nat) : Fld := ⟨0x60050 + 4 * i, 0 + 2 * k, 2⟩
def MEM_BIST_CFG_EN : Fld := ⟨0x60060, 0, 1⟩
def MEM_BIST_CFG_INTERVAL : Fld := ⟨0x60060, 16, 16⟩
def MEM_BIST_STAT_STATE : Fld := ⟨0x60064, 0, 2⟩
def MEM_BIST_STAT_BANK : Fld := ⟨0x60064, 2, 6⟩
def MEM_BIST_STAT_PHYS : Fld := ⟨0x60064, 8, 7⟩
def MEM_BIST_STAT_PASSES : Fld := ⟨0x60064, 16, 16⟩
def MEM_RETIRED (i : Nat) : Fld := ⟨0x60070 + 4 * i, 0, 32⟩
def MEM_MAP_PHYS (i : Nat) : Fld := ⟨0x60100 + 4 * i, 0, 7⟩

/-! Fields of the DRC block (R449 to R456). -/
def DRC_CFG_ORDER : Fld := ⟨0x70000, 0, 2⟩
def DRC_CFG_CHANNELS : Fld := ⟨0x70000, 2, 2⟩
def DRC_CFG_RANKS : Fld := ⟨0x70000, 4, 1⟩
def DRC_CFG_DENSITY : Fld := ⟨0x70000, 5, 2⟩
def DRC_CFG_BOOT_SP : Fld := ⟨0x70000, 7, 2⟩
def DRC_CFG_SCRUB_EN : Fld := ⟨0x70000, 9, 1⟩
def DRC_CFG_IDLE_ONLY : Fld := ⟨0x70000, 10, 1⟩
def DRC_STATUS_STATE : Fld := ⟨0x70004, 0, 3⟩
def DRC_STATUS_SP : Fld := ⟨0x70004, 3, 2⟩
def DRC_STATUS_REF_2X : Fld := ⟨0x70004, 5, 1⟩
def DRC_STATUS_CE : Fld := ⟨0x70004, 6, 1⟩
def DRC_STATUS_UE : Fld := ⟨0x70004, 7, 1⟩
def DRC_STATUS_RMW_UE : Fld := ⟨0x70004, 8, 1⟩
def DRC_STATUS_OFF_ACCESS : Fld := ⟨0x70004, 9, 1⟩
def DRC_STATUS_CFG_BAD : Fld := ⟨0x70004, 10, 1⟩
def DRC_STATUS_TRAIN_FAIL : Fld := ⟨0x70004, 11, 1⟩
def DRC_STATUS_OVERTEMP : Fld := ⟨0x70004, 12, 1⟩
def DRC_STATUS_FSP_DEFERRED : Fld := ⟨0x70004, 13, 1⟩
def DRC_STATUS_FSP_BAD : Fld := ⟨0x70004, 14, 1⟩
def DRC_STATUS_CLEAR_SEG : Fld := ⟨0x70004, 16, 8⟩
def DRC_USABLE_LO_USABLE : Fld := ⟨0x70008, 0, 32⟩
def DRC_USABLE_HI_USABLE : Fld := ⟨0x7000C, 0, 32⟩
def DRC_SP_RATE (i : Nat) : Fld := ⟨0x70010 + 4 * i, 0, 3⟩
def DRC_SP_EN (i : Nat) : Fld := ⟨0x70010 + 4 * i, 3, 1⟩
def DRC_SP_TRAINED (i : Nat) : Fld := ⟨0x70010 + 4 * i, 4, 1⟩
def DRC_SP_FAILED (i : Nat) : Fld := ⟨0x70010 + 4 * i, 5, 1⟩
def DRC_FSP_CMD_TARGET : Fld := ⟨0x70020, 0, 2⟩
def DRC_FSP_CMD_GO : Fld := ⟨0x70020, 8, 1⟩
def DRC_TRAIN_CMD_GO : Fld := ⟨0x70024, 0, 1⟩
def DRC_TRAIN_LIMIT_MIN_W : Fld := ⟨0x70028, 0, 8⟩
def DRC_TRAIN_LIMIT_MIN_H : Fld := ⟨0x70028, 16, 8⟩
def DRC_REF_CFG_PHASE : Fld := ⟨0x7002C, 0, 14⟩
def DRC_PWR_CTRL_REQ : Fld := ⟨0x70030, 0, 2⟩
def DRC_PWR_CTRL_PASR : Fld := ⟨0x70030, 8, 7⟩
def DRC_SCRUB_PERIOD : Fld := ⟨0x70034, 0, 16⟩
def DRC_CE_COUNT : Fld := ⟨0x70040, 0, 32⟩
def DRC_UE_COUNT : Fld := ⟨0x70044, 0, 32⟩
def DRC_UE_ADDR_LO_ADDR : Fld := ⟨0x70048, 0, 32⟩
def DRC_UE_ADDR_HI_ADDR : Fld := ⟨0x7004C, 0, 32⟩
def DRC_CMD_CLR_COUNTS : Fld := ⟨0x70050, 0, 1⟩
def DRC_EYE_RD_RD_W (i : Nat) : Fld := ⟨0x70100 + 8 * i, 0, 16⟩
def DRC_EYE_RD_RD_H (i : Nat) : Fld := ⟨0x70100 + 8 * i, 16, 16⟩
def DRC_EYE_WR_WR_W (i : Nat) : Fld := ⟨0x70104 + 8 * i, 0, 16⟩
def DRC_EYE_WR_WR_H (i : Nat) : Fld := ⟨0x70104 + 8 * i, 16, 16⟩

/-! Fields of the DMA block (R470, R471). -/
def DMA_STATUS_ACTIVE : Fld := ⟨0x80004, 0, 16⟩
def DMA_STATUS_ERR : Fld := ⟨0x80004, 16, 16⟩
def DMA_CH_CTRL_EN (i : Nat) : Fld := ⟨0x80100 + 64 * i, 0, 1⟩
def DMA_CH_CTRL_STOP (i : Nat) : Fld := ⟨0x80100 + 64 * i, 1, 1⟩
def DMA_CH_CTRL_HALT_ON_ERR (i : Nat) : Fld := ⟨0x80100 + 64 * i, 2, 1⟩
def DMA_CH_CTRL_PRIO (i : Nat) : Fld := ⟨0x80100 + 64 * i, 4, 2⟩
def DMA_CH_RING_BASE (i : Nat) : Fld := ⟨0x80104 + 64 * i, 0, 32⟩
def DMA_CH_RING_SIZE (i : Nat) : Fld := ⟨0x80108 + 64 * i, 0, 17⟩
def DMA_CH_DOORBELL (i : Nat) : Fld := ⟨0x8010C + 64 * i, 0, 1⟩
def DMA_CH_POS (i : Nat) : Fld := ⟨0x80110 + 64 * i, 0, 16⟩
def DMA_CH_STATUS_STATE (i : Nat) : Fld := ⟨0x80114 + 64 * i, 0, 3⟩
def DMA_CH_STATUS_RING_BAD (i : Nat) : Fld := ⟨0x80114 + 64 * i, 3, 1⟩
def DMA_CH_STATUS_LAST_STATUS (i : Nat) : Fld := ⟨0x80114 + 64 * i, 8, 8⟩
def DMA_CH_DONE_CNT_COUNT (i : Nat) : Fld := ⟨0x80118 + 64 * i, 0, 32⟩
def DMA_CH_ERR_CNT_COUNT (i : Nat) : Fld := ⟨0x8011C + 64 * i, 0, 32⟩
def DMA_CH_CUR_DONE_BYTES (i : Nat) : Fld := ⟨0x80120 + 64 * i, 0, 32⟩

/-! Fields of the XE block (R329 to R331). -/
def XE_STATUS_PORT_BUSY : Fld := ⟨0x90000, 0, 1⟩
def XE_STATUS_TS_CONFLICT : Fld := ⟨0x90000, 1, 1⟩
def XE_STATUS_PORT_BAD : Fld := ⟨0x90000, 2, 1⟩
def XE_TPL_BASE : Fld := ⟨0x90004, 0, 32⟩
def XE_TPL_COUNT : Fld := ⟨0x90008, 0, 8⟩
def XE_RATE_LAST : Fld := ⟨0x9000C, 0, 16⟩
def XE_SITE_TS_PARK_TS (i : Nat) : Fld := ⟨0x90100 + 64 * i, 0, 6⟩
def XE_SITE_LIST_BASE (i : Nat) : Fld := ⟨0x90104 + 64 * i, 0, 32⟩
def XE_SITE_LIST_COUNT (i : Nat) : Fld := ⟨0x90108 + 64 * i, 0, 16⟩
def XE_SITE_RES_BASE_LO_BASE (i : Nat) : Fld := ⟨0x9010C + 64 * i, 0, 32⟩
def XE_SITE_RES_BASE_HI_BASE (i : Nat) : Fld := ⟨0x90110 + 64 * i, 0, 32⟩
def XE_SITE_RES_SIZE (i : Nat) : Fld := ⟨0x90114 + 64 * i, 0, 32⟩
def XE_SITE_RES_HEAD (i : Nat) : Fld := ⟨0x90118 + 64 * i, 0, 32⟩
def XE_SITE_RES_TAIL (i : Nat) : Fld := ⟨0x9011C + 64 * i, 0, 32⟩
def XE_SITE_RES_DROPPED_COUNT (i : Nat) : Fld := ⟨0x90120 + 64 * i, 0, 32⟩
def XE_SITE_OK_COUNT (i : Nat) : Fld := ⟨0x90124 + 64 * i, 0, 32⟩
def XE_SITE_ERR_COUNT (i : Nat) : Fld := ⟨0x90128 + 64 * i, 0, 32⟩
def XE_SITE_CMD_LIST (i : Nat) : Fld := ⟨0x9012C + 64 * i, 0, 16⟩
def XE_SITE_CMD_RUN (i : Nat) : Fld := ⟨0x9012C + 64 * i, 16, 1⟩
def XE_SITE_STAT_ACTIVE (i : Nat) : Fld := ⟨0x90130 + 64 * i, 0, 1⟩
def XE_SITE_STAT_RES_BAD (i : Nat) : Fld := ⟨0x90130 + 64 * i, 1, 1⟩
def XE_SITE_STAT_TRUNCATED (i : Nat) : Fld := ⟨0x90130 + 64 * i, 2, 1⟩
def XE_SITE_STAT_BAD_LIST (i : Nat) : Fld := ⟨0x90130 + 64 * i, 3, 1⟩
def XE_SITE_STAT_CUR_LIST (i : Nat) : Fld := ⟨0x90130 + 64 * i, 16, 16⟩
def XE_PORT_CFG_EN (i : Nat) : Fld := ⟨0x91000 + 32 * i, 0, 1⟩
def XE_PORT_CFG_SITE (i : Nat) : Fld := ⟨0x91000 + 32 * i, 1, 4⟩
def XE_PORT_CFG_ROLE_EN (i : Nat) : Fld := ⟨0x91000 + 32 * i, 5, 8⟩
def XE_PORT_CFG_SLICE (i : Nat) : Fld := ⟨0x91000 + 32 * i, 13, 4⟩
def XE_PORT_CFG_TS (i : Nat) : Fld := ⟨0x91000 + 32 * i, 17, 6⟩
def XE_PORT_PARK (i k : Nat) : Fld := ⟨0x91004 + 32 * i, 0 + 4 * k, 4⟩
def XE_PORT_ROLE_PIN (i j k : Nat) : Fld := ⟨0x91008 + 32 * i + 4 * j, 0 + 16 * k, 9⟩
def XE_PORT_STAT_BUSY (i : Nat) : Fld := ⟨0x91018 + 32 * i, 0, 1⟩
def XE_PORT_STAT_BAD (i : Nat) : Fld := ⟨0x91018 + 32 * i, 1, 1⟩
def XE_PORT_STAT_QUEUE (i : Nat) : Fld := ⟨0x91018 + 32 * i, 2, 5⟩
def XE_PORT_STAT_LAST_STATUS (i : Nat) : Fld := ⟨0x91018 + 32 * i, 8, 8⟩
def XE_PORT_STEPS_COUNT (i : Nat) : Fld := ⟨0x9101C + 32 * i, 0, 32⟩

/-! Fields of the RED block (R298 to R303). -/
def RED_STATUS_DUMP_DONE : Fld := ⟨0xA0004, 0, 1⟩
def RED_STATUS_DUMP_BAD : Fld := ⟨0xA0004, 1, 1⟩
def RED_STATUS_CMD_BUSY : Fld := ⟨0xA0004, 2, 1⟩
def RED_STATUS_IVL_BAD : Fld := ⟨0xA0004, 3, 1⟩
def RED_STATUS_IVL_FULL : Fld := ⟨0xA0004, 4, 1⟩
def RED_STATUS_DUMP_RUN : Fld := ⟨0xA0004, 5, 1⟩
def RED_SNAP_CMD_ACC : Fld := ⟨0xA0010, 0, 10⟩
def RED_SNAP_CMD_SNAP : Fld := ⟨0xA0010, 16, 1⟩
def RED_SNAP_STAT_BUSY : Fld := ⟨0xA0014, 0, 1⟩
def RED_SNAP_STAT_VALID : Fld := ⟨0xA0014, 1, 1⟩
def RED_SNAP_STAT_ACC : Fld := ⟨0xA0014, 16, 10⟩
def RED_SNAP_COUNT_LO_COUNT : Fld := ⟨0xA0020, 0, 32⟩
def RED_SNAP_COUNT_HI_COUNT : Fld := ⟨0xA0024, 0, 32⟩
def RED_SNAP_MEAN_LO_MEAN : Fld := ⟨0xA0028, 0, 32⟩
def RED_SNAP_MEAN_HI_MEAN : Fld := ⟨0xA002C, 0, 32⟩
def RED_SNAP_SD_LO_SD : Fld := ⟨0xA0030, 0, 32⟩
def RED_SNAP_SD_HI_SD : Fld := ⟨0xA0034, 0, 32⟩
def RED_SNAP_MIN_LO_MIN : Fld := ⟨0xA0038, 0, 32⟩
def RED_SNAP_MIN_HI_MIN : Fld := ⟨0xA003C, 0, 32⟩
def RED_SNAP_MAX_LO_MAX : Fld := ⟨0xA0040, 0, 32⟩
def RED_SNAP_MAX_HI_MAX : Fld := ⟨0xA0044, 0, 32⟩
def RED_SNAP_DROPPED_LO_DROPPED : Fld := ⟨0xA0048, 0, 32⟩
def RED_SNAP_DROPPED_HI_DROPPED : Fld := ⟨0xA004C, 0, 32⟩
def RED_SNAP_FLAGS_REF : Fld := ⟨0xA0050, 0, 1⟩
def RED_SNAP_FLAGS_FULL : Fld := ⟨0xA0050, 1, 1⟩
def RED_SNAP_FLAGS_EMPTY : Fld := ⟨0xA0050, 2, 1⟩
def RED_CLR_CMD_FIRST : Fld := ⟨0xA0060, 0, 10⟩
def RED_CLR_CMD_LAST : Fld := ⟨0xA0060, 16, 10⟩
def RED_CLR_CMD_CLR : Fld := ⟨0xA0060, 31, 1⟩
def RED_DUMP_ADDR_LO_ADDR : Fld := ⟨0xA0068, 0, 32⟩
def RED_DUMP_ADDR_HI_ADDR : Fld := ⟨0xA006C, 0, 32⟩
def RED_DUMP_CMD_FIRST : Fld := ⟨0xA0070, 0, 10⟩
def RED_DUMP_CMD_LAST : Fld := ⟨0xA0070, 16, 10⟩
def RED_DUMP_CMD_GO : Fld := ⟨0xA0070, 31, 1⟩
def RED_IVL_BASE_LO_BASE : Fld := ⟨0xA0080, 0, 32⟩
def RED_IVL_BASE_HI_BASE : Fld := ⟨0xA0084, 0, 32⟩
def RED_IVL_SIZE : Fld := ⟨0xA0088, 0, 32⟩
def RED_IVL_HEAD : Fld := ⟨0xA008C, 0, 32⟩
def RED_IVL_TAIL : Fld := ⟨0xA0090, 0, 32⟩
def RED_IVL_DROPPED_COUNT : Fld := ⟨0xA0094, 0, 32⟩
def RED_ACC_CFG_NBLK (i : Nat) : Fld := ⟨0xA1000 + 4 * i, 0, 16⟩
def RED_ACC_CFG_SITE (i : Nat) : Fld := ⟨0xA1000 + 4 * i, 16, 4⟩
def RED_ACC_CFG_CLR_ARM (i : Nat) : Fld := ⟨0xA1000 + 4 * i, 20, 1⟩

/-! Fields of the SVC block (R352 to R355). -/
def SVC_CFG_ENTRY (i : Nat) : Fld := ⟨0xB1000 + 256 * i, 0, 10⟩
def SVC_CFG_AUTO (i : Nat) : Fld := ⟨0xB1000 + 256 * i, 10, 1⟩
def SVC_CFG_DEFAULT_BIN (i : Nat) : Fld := ⟨0xB1000 + 256 * i, 11, 8⟩
def SVC_FLOW_BASE (i : Nat) : Fld := ⟨0xB1004 + 256 * i, 0, 32⟩
def SVC_FLOW_COUNT (i : Nat) : Fld := ⟨0xB1008 + 256 * i, 0, 11⟩
def SVC_HTAB_BASE (i : Nat) : Fld := ⟨0xB100C + 256 * i, 0, 32⟩
def SVC_HTAB_COUNT (i : Nat) : Fld := ⟨0xB1010 + 256 * i, 0, 7⟩
def SVC_CMD_RUN (i : Nat) : Fld := ⟨0xB1014 + 256 * i, 0, 1⟩
def SVC_CMD_STOP (i : Nat) : Fld := ⟨0xB1014 + 256 * i, 1, 1⟩
def SVC_CMD_ABORT (i : Nat) : Fld := ⟨0xB1014 + 256 * i, 2, 1⟩
def SVC_CMD_CLR_BINS (i : Nat) : Fld := ⟨0xB1014 + 256 * i, 3, 1⟩
def SVC_CMD_FLUSH (i : Nat) : Fld := ⟨0xB1014 + 256 * i, 4, 1⟩
def SVC_STAT_STATE (i : Nat) : Fld := ⟨0xB1018 + 256 * i, 0, 3⟩
def SVC_STAT_C (i : Nat) : Fld := ⟨0xB1018 + 256 * i, 3, 1⟩
def SVC_STAT_RUN_BUSY (i : Nat) : Fld := ⟨0xB1018 + 256 * i, 4, 1⟩
def SVC_STAT_H_DROPPED (i : Nat) : Fld := ⟨0xB1018 + 256 * i, 5, 1⟩
def SVC_STAT_STEP (i : Nat) : Fld := ⟨0xB1018 + 256 * i, 6, 10⟩
def SVC_STAT_START_DISCARD (i : Nat) : Fld := ⟨0xB1018 + 256 * i, 16, 8⟩
def SVC_RUN (i : Nat) : Fld := ⟨0xB101C + 256 * i, 0, 32⟩
def SVC_LASTBIN (i : Nat) : Fld := ⟨0xB1020 + 256 * i, 0, 8⟩
def SVC_DLOG_BASE_LO_BASE (i : Nat) : Fld := ⟨0xB1024 + 256 * i, 0, 32⟩
def SVC_DLOG_BASE_HI_BASE (i : Nat) : Fld := ⟨0xB1028 + 256 * i, 0, 32⟩
def SVC_DLOG_SIZE (i : Nat) : Fld := ⟨0xB102C + 256 * i, 0, 32⟩
def SVC_DLOG_HEAD (i : Nat) : Fld := ⟨0xB1030 + 256 * i, 0, 32⟩
def SVC_DLOG_TAIL (i : Nat) : Fld := ⟨0xB1034 + 256 * i, 0, 32⟩
def SVC_DLOG_CFG_BATCH (i : Nat) : Fld := ⟨0xB1038 + 256 * i, 0, 11⟩
def SVC_DLOG_CFG_CLOSE_END (i : Nat) : Fld := ⟨0xB1038 + 256 * i, 11, 1⟩
def SVC_DLOG_CFG_FULL (i : Nat) : Fld := ⟨0xB1038 + 256 * i, 12, 1⟩
def SVC_DLOG_CFG_SIGN_EVT (i : Nat) : Fld := ⟨0xB1038 + 256 * i, 13, 1⟩
def SVC_DLOG_DROPPED_COUNT (i : Nat) : Fld := ⟨0xB103C + 256 * i, 0, 32⟩
def SVC_DLOG_STAT_FULL (i : Nat) : Fld := ⟨0xB1040 + 256 * i, 0, 1⟩
def SVC_DLOG_STAT_BAD_RING (i : Nat) : Fld := ⟨0xB1040 + 256 * i, 1, 1⟩
def SVC_DLOG_STAT_UNSIGNED (i : Nat) : Fld := ⟨0xB1040 + 256 * i, 2, 1⟩
def SVC_DLOG_STAT_SIGNING (i : Nat) : Fld := ⟨0xB1040 + 256 * i, 3, 1⟩
def SVC_VALID (i k : Nat) : Fld := ⟨0xB1044 + 256 * i, 0 + k, 1⟩
def SVC_V_LO_VALUE (i j : Nat) : Fld := ⟨0xB1080 + 256 * i + 8 * j, 0, 32⟩
def SVC_V_HI_VALUE (i j : Nat) : Fld := ⟨0xB1084 + 256 * i + 8 * j, 0, 32⟩
def SVC_BINCNT_COUNT (i j : Nat) : Fld := ⟨0xB8000 + 1024 * i + 4 * j, 0, 32⟩

/-! Fields of the IAT block (R373 to R378). -/
def IAT_CFG_ADDR : Fld := ⟨0xC0000, 0, 14⟩
def IAT_CFG_ROOT_SRC : Fld := ⟨0xC0000, 14, 1⟩
def IAT_CFG_PEER_WR : Fld := ⟨0xC0000, 15, 1⟩
def IAT_CFG_EVT_ALIGN : Fld := ⟨0xC0000, 16, 1⟩
def IAT_SUBTREE_FIRST : Fld := ⟨0xC0004, 0, 14⟩
def IAT_SUBTREE_LAST : Fld := ⟨0xC0004, 16, 14⟩
def IAT_TIMING_EPOCH_LEAD : Fld := ⟨0xC0008, 0, 16⟩
def IAT_TIMING_EVT_DELAY : Fld := ⟨0xC0008, 16, 16⟩
def IAT_PROBE_CFG_AVG : Fld := ⟨0xC000C, 0, 4⟩
def IAT_STATUS_ROOT : Fld := ⟨0xC0010, 0, 1⟩
def IAT_STATUS_DEPTH : Fld := ⟨0xC0010, 1, 4⟩
def IAT_STATUS_PARENT : Fld := ⟨0xC0010, 5, 3⟩
def IAT_STATUS_PARENT_SWITCH : Fld := ⟨0xC0010, 8, 1⟩
def IAT_STATUS_EPOCH_LATE : Fld := ⟨0xC0010, 9, 1⟩
def IAT_STATUS_EVT_LATE : Fld := ⟨0xC0010, 10, 1⟩
def IAT_STATUS_UNROUTABLE : Fld := ⟨0xC0010, 11, 1⟩
def IAT_STATUS_DEPTH_REFUSED : Fld := ⟨0xC0010, 12, 1⟩
def IAT_STATUS_ORPHAN : Fld := ⟨0xC0010, 13, 1⟩
def IAT_EVT_STATE : Fld := ⟨0xC0014, 0, 32⟩
def IAT_EVT_SET : Fld := ⟨0xC0018, 0, 32⟩
def IAT_EVT_CLEAR : Fld := ⟨0xC001C, 0, 32⟩
def IAT_STOP_SITES : Fld := ⟨0xC0020, 0, 16⟩
def IAT_CMD_ROOT_EPOCH : Fld := ⟨0xC0024, 0, 1⟩
def IAT_CMD_COMMIT_NEXT : Fld := ⟨0xC0024, 1, 1⟩
def IAT_CMD_TAG : Fld := ⟨0xC0024, 16, 16⟩
def IAT_MSG_ADDR_LO_ADDR : Fld := ⟨0xC0030, 0, 32⟩
def IAT_MSG_ADDR_HI_ADDR : Fld := ⟨0xC0034, 0, 32⟩
def IAT_MSG_DATA : Fld := ⟨0xC0038, 0, 32⟩
def IAT_MSG_CMD_DEST : Fld := ⟨0xC003C, 0, 14⟩
def IAT_MSG_CMD_OP : Fld := ⟨0xC003C, 16, 1⟩
def IAT_MSG_CMD_GO : Fld := ⟨0xC003C, 17, 1⟩
def IAT_MSG_STAT_STATE : Fld := ⟨0xC0040, 0, 2⟩
def IAT_MSG_STAT_RESULT : Fld := ⟨0xC0040, 2, 3⟩
def IAT_PORT_CFG_ROLE (i : Nat) : Fld := ⟨0xC0100 + 32 * i, 0, 2⟩
def IAT_PORT_CFG_ASYM (i : Nat) : Fld := ⟨0xC0100 + 32 * i, 16, 16⟩
def IAT_PORT_STAT_STATE (i : Nat) : Fld := ⟨0xC0104 + 32 * i, 0, 3⟩
def IAT_PORT_STAT_QUALIFIED (i : Nat) : Fld := ⟨0xC0104 + 32 * i, 3, 1⟩
def IAT_PORT_STAT_PEER (i : Nat) : Fld := ⟨0xC0104 + 32 * i, 16, 14⟩
def IAT_PORT_LAT (i : Nat) : Fld := ⟨0xC0108 + 32 * i, 0, 32⟩
def IAT_PORT_CRC_ERR_COUNT (i : Nat) : Fld := ⟨0xC010C + 32 * i, 0, 32⟩
def IAT_PORT_REPLAYS_COUNT (i : Nat) : Fld := ⟨0xC0110 + 32 * i, 0, 32⟩
def IAT_EVT_MAP_FLAG (i : Nat) : Fld := ⟨0xC0200 + 4 * i, 0, 4⟩
def IAT_EVT_MAP_BIT (i : Nat) : Fld := ⟨0xC0200 + 4 * i, 4, 5⟩
def IAT_EVT_MAP_EN (i : Nat) : Fld := ⟨0xC0200 + 4 * i, 9, 1⟩

/-! Fields of the CAL block (R397 to R402). -/
def CAL_RUN_PINS_FIRST : Fld := ⟨0xD0000, 0, 9⟩
def CAL_RUN_PINS_LAST : Fld := ⟨0xD0000, 16, 9⟩
def CAL_RUN_CFG_KINDS : Fld := ⟨0xD0004, 0, 3⟩
def CAL_RUN_CFG_TDR_END : Fld := ⟨0xD0004, 3, 1⟩
def CAL_RUN_CFG_TDR_AVG : Fld := ⟨0xD0004, 4, 4⟩
def CAL_RUN_CFG_SWING : Fld := ⟨0xD0004, 8, 12⟩
def CAL_RUN_CFG_EVT : Fld := ⟨0xD0004, 20, 1⟩
def CAL_CMD_RUN : Fld := ⟨0xD0008, 0, 1⟩
def CAL_CMD_CANCEL : Fld := ⟨0xD0008, 1, 1⟩
def CAL_CMD_COMMIT : Fld := ⟨0xD0008, 2, 1⟩
def CAL_CMD_COMMIT_EPOCH : Fld := ⟨0xD0008, 3, 1⟩
def CAL_CMD_DISARM : Fld := ⟨0xD0008, 4, 1⟩
def CAL_CMD_COPY : Fld := ⟨0xD0008, 5, 1⟩
def CAL_CMD_TAG : Fld := ⟨0xD0008, 16, 16⟩
def CAL_STATUS_RUN_STATE : Fld := ⟨0xD000C, 0, 2⟩
def CAL_STATUS_EPOCH_ARMED : Fld := ⟨0xD000C, 2, 1⟩
def CAL_STATUS_UNCAL : Fld := ⟨0xD000C, 3, 1⟩
def CAL_STATUS_TAG_MISMATCH : Fld := ⟨0xD000C, 4, 1⟩
def CAL_STATUS_TEMP_DRIFT : Fld := ⟨0xD000C, 5, 1⟩
def CAL_STATUS_ANY_FAIL : Fld := ⟨0xD000C, 6, 1⟩
def CAL_STATUS_PENDING_SITES : Fld := ⟨0xD000C, 16, 16⟩
def CAL_RUN_COUNT_DONE : Fld := ⟨0xD0010, 0, 11⟩
def CAL_RUN_COUNT_FAILED : Fld := ⟨0xD0010, 16, 11⟩
def CAL_LIMITS_T_LIM : Fld := ⟨0xD0014, 0, 16⟩
def CAL_LIMITS_L_LIM : Fld := ⟨0xD0014, 16, 16⟩
def CAL_QWORST_T_WORST : Fld := ⟨0xD0018, 0, 16⟩
def CAL_QWORST_L_WORST : Fld := ⟨0xD0018, 16, 16⟩
def CAL_CFG_VIEW : Fld := ⟨0xD001C, 0, 1⟩
def CAL_CFG_TEMP_TOL : Fld := ⟨0xD001C, 1, 7⟩
def CAL_COMMITTED_TAG : Fld := ⟨0xD0020, 0, 16⟩
def CAL_ALM_SLOT_OFFSET (i : Nat) : Fld := ⟨0xD0040 + 4 * i, 0, 32⟩
def CAL_ALM_CMD_SAVE : Fld := ⟨0xD0048, 0, 1⟩
def CAL_ALM_STAT_BUSY : Fld := ⟨0xD004C, 0, 1⟩
def CAL_ALM_STAT_RESULT : Fld := ⟨0xD004C, 1, 3⟩
def CAL_ALM_STAT_SLOT : Fld := ⟨0xD004C, 4, 1⟩
def CAL_ALM_STAT_FALLBACK : Fld := ⟨0xD004C, 5, 1⟩
def CAL_ALM_STAT_NONE : Fld := ⟨0xD004C, 6, 1⟩
def CAL_ALM_SEQ : Fld := ⟨0xD0050, 0, 32⟩
def CAL_WSG_CLH (i : Nat) : Fld := ⟨0xD4000 + 8 * i, 0, 32⟩
def CAL_WSG_CLL (i : Nat) : Fld := ⟨0xD4004 + 8 * i, 0, 32⟩
def CAL_WS_TX_TX_INT (i : Nat) : Fld := ⟨0xD8000 + 64 * i, 0, 32⟩
def CAL_WS_RX_RX_INT (i : Nat) : Fld := ⟨0xD8004 + 64 * i, 0, 32⟩
def CAL_WS_FIX (i : Nat) : Fld := ⟨0xD8008 + 64 * i, 0, 32⟩
def CAL_WS_LVL (i j : Nat) : Fld := ⟨0xD8010 + 64 * i + 4 * j, 0, 32⟩
def CAL_WS_QUAL_T_T_RES (i : Nat) : Fld := ⟨0xD8024 + 64 * i, 0, 16⟩
def CAL_WS_QUAL_T_TDR_SD (i : Nat) : Fld := ⟨0xD8024 + 64 * i, 16, 16⟩
def CAL_WS_QUAL_L_L_RES (i : Nat) : Fld := ⟨0xD8028 + 64 * i, 0, 16⟩
def CAL_WS_STATUS_LEVEL (i : Nat) : Fld := ⟨0xD802C + 64 * i, 0, 8⟩
def CAL_WS_STATUS_TIMING (i : Nat) : Fld := ⟨0xD802C + 64 * i, 8, 8⟩
def CAL_WS_STATUS_TDR (i : Nat) : Fld := ⟨0xD802C + 64 * i, 16, 8⟩

/-! Fields of the NVM block (R516 to R520). -/
def NVM_STATUS_STAGE : Fld := ⟨0xE0000, 0, 4⟩
def NVM_STATUS_SOURCE : Fld := ⟨0xE0000, 4, 2⟩
def NVM_STATUS_MODE : Fld := ⟨0xE0000, 6, 2⟩
def NVM_BOOT_STAT_PRIMARY : Fld := ⟨0xE0004, 0, 4⟩
def NVM_BOOT_STAT_MIRROR : Fld := ⟨0xE0004, 4, 4⟩
def NVM_BOOT_STAT_DRAM_DEGRADED : Fld := ⟨0xE0004, 8, 1⟩
def NVM_BOOT_STAT_AMD_SKIP : Fld := ⟨0xE0004, 16, 8⟩
def NVM_BOOT_STAT_REG_UNMAPPED : Fld := ⟨0xE0004, 24, 8⟩
def NVM_RECORD_ERR_INDEX : Fld := ⟨0xE0008, 0, 32⟩
def NVM_RESET_CAUSE : Fld := ⟨0xE000C, 0, 4⟩
def NVM_RESET_GO : Fld := ⟨0xE0010, 0, 1⟩
def NVM_RESET_KEY : Fld := ⟨0xE0010, 16, 16⟩
def NVM_FLASH_INFO_SIZE : Fld := ⟨0xE0014, 0, 16⟩
def NVM_BOOT_TIME : Fld := ⟨0xE0018, 0, 32⟩
def NVM_DRAM_SKIP_COUNT : Fld := ⟨0xE001C, 0, 32⟩
def NVM_IMG_SEQ : Fld := ⟨0xE0020, 0, 32⟩
def NVM_IMG_BUILD_LO_BUILD : Fld := ⟨0xE0024, 0, 32⟩
def NVM_IMG_BUILD_HI_BUILD : Fld := ⟨0xE0028, 0, 32⟩
def NVM_AMD_BASE : Fld := ⟨0xE0030, 0, 32⟩
def NVM_AMD_CMD_SUBMIT : Fld := ⟨0xE0034, 0, 1⟩
def NVM_AMD_STAT_STATE : Fld := ⟨0xE0038, 0, 2⟩
def NVM_AMD_STAT_RESULT : Fld := ⟨0xE0038, 4, 4⟩
def NVM_AMD_SEQ : Fld := ⟨0xE003C, 0, 32⟩
def NVM_AMD_AREA : Fld := ⟨0xE0040, 0, 32⟩
def NVM_AMD_SIZE : Fld := ⟨0xE0044, 0, 32⟩
def NVM_STFAIL_FAIL (i : Nat) : Fld := ⟨0xE0080 + 4 * i, 0, 32⟩

/-! Fields of the SITE block (R156 to R166, R188 to R193, R212 to R218, R237 to R244, R270 to R272). -/
def SITE_SEQ_CMD_START (s : Nat) : Fld := ⟨0x1000000 + 0x100000 * s, 0, 1⟩
def SITE_SEQ_CMD_ABORT (s : Nat) : Fld := ⟨0x1000000 + 0x100000 * s, 1, 1⟩
def SITE_SEQ_CMD_RESUME (s : Nat) : Fld := ⟨0x1000000 + 0x100000 * s, 2, 1⟩
def SITE_SEQ_STATUS_STATE (s : Nat) : Fld := ⟨0x1000004 + 0x100000 * s, 0, 3⟩
def SITE_SEQ_STATUS_REFILL_WAIT (s : Nat) : Fld := ⟨0x1000004 + 0x100000 * s, 3, 1⟩
def SITE_SEQ_STATUS_CALL_DEPTH (s : Nat) : Fld := ⟨0x1000004 + 0x100000 * s, 4, 4⟩
def SITE_SEQ_STATUS_LOOP_DEPTH (s : Nat) : Fld := ⟨0x1000004 + 0x100000 * s, 8, 4⟩
def SITE_SEQ_STATUS_START_BUSY (s : Nat) : Fld := ⟨0x1000004 + 0x100000 * s, 16, 1⟩
def SITE_SEQ_STATUS_REFUSED (s : Nat) : Fld := ⟨0x1000004 + 0x100000 * s, 17, 1⟩
def SITE_SEQ_STATUS_TAB_BUSY (s : Nat) : Fld := ⟨0x1000004 + 0x100000 * s, 18, 1⟩
def SITE_START_CFG_SOURCE (s : Nat) : Fld := ⟨0x1000008 + 0x100000 * s, 0, 2⟩
def SITE_START_CFG_FSYNC (s : Nat) : Fld := ⟨0x1000008 + 0x100000 * s, 2, 2⟩
def SITE_START_CFG_EVENT (s : Nat) : Fld := ⟨0x1000008 + 0x100000 * s, 4, 5⟩
def SITE_START_CFG_START_SEG (s : Nat) : Fld := ⟨0x1000008 + 0x100000 * s, 16, 16⟩
def SITE_HOLD_CFG_SYMBOL (s : Nat) : Fld := ⟨0x100000C + 0x100000 * s, 0, 4⟩
def SITE_HOLD_CFG_TS (s : Nat) : Fld := ⟨0x100000C + 0x100000 * s, 8, 6⟩
def SITE_SEGTAB_BASE (s : Nat) : Fld := ⟨0x1000010 + 0x100000 * s, 0, 32⟩
def SITE_SEGTAB_RANGE_FIRST (s : Nat) : Fld := ⟨0x1000014 + 0x100000 * s, 0, 16⟩
def SITE_SEGTAB_RANGE_LAST (s : Nat) : Fld := ⟨0x1000014 + 0x100000 * s, 16, 16⟩
def SITE_SEG_CMD_ID (s : Nat) : Fld := ⟨0x1000018 + 0x100000 * s, 0, 16⟩
def SITE_SEG_CMD_OP (s : Nat) : Fld := ⟨0x1000018 + 0x100000 * s, 16, 2⟩
def SITE_SEG_STATUS_RESULT (s : Nat) : Fld := ⟨0x100001C + 0x100000 * s, 0, 3⟩
def SITE_SEG_STATUS_ID (s : Nat) : Fld := ⟨0x100001C + 0x100000 * s, 16, 16⟩
def SITE_FLAGS_FLAG (s : Nat) : Fld := ⟨0x1000020 + 0x100000 * s, 0, 16⟩
def SITE_FLAG_SET (s : Nat) : Fld := ⟨0x1000024 + 0x100000 * s, 0, 16⟩
def SITE_POS_SEG (s : Nat) : Fld := ⟨0x100002C + 0x100000 * s, 0, 16⟩
def SITE_POS_OFF_OFFSET (s : Nat) : Fld := ⟨0x1000030 + 0x100000 * s, 0, 30⟩
def SITE_RESULT_BASE (s : Nat) : Fld := ⟨0x1000034 + 0x100000 * s, 0, 32⟩
def SITE_RESULT_RING_SIZE (s : Nat) : Fld := ⟨0x1000038 + 0x100000 * s, 0, 16⟩
def SITE_RESULT_RING_WRITE_INDEX (s : Nat) : Fld := ⟨0x1000038 + 0x100000 * s, 16, 16⟩
def SITE_RESULT_WORD (s i : Nat) : Fld := ⟨0x1000040 + 0x100000 * s + 4 * i, 0, 32⟩
def SITE_TSP_PERIOD (s i : Nat) : Fld := ⟨0x1001000 + 0x100000 * s + 4 * i, 0, 32⟩
def SITE_SPEC_CFG_LEAD (s : Nat) : Fld := ⟨0x1001100 + 0x100000 * s, 0, 9⟩
def SITE_SPEC_CFG_FENCE_ALL (s : Nat) : Fld := ⟨0x1001100 + 0x100000 * s, 9, 1⟩
def SITE_SPEC_CFG_MISPRED_EVT (s : Nat) : Fld := ⟨0x1001100 + 0x100000 * s, 10, 1⟩
def SITE_SPEC_DL_LAST (s : Nat) : Fld := ⟨0x1001104 + 0x100000 * s, 0, 12⟩
def SITE_SPEC_DL_MAX (s : Nat) : Fld := ⟨0x1001104 + 0x100000 * s, 16, 12⟩
def SITE_SPEC_EST (s : Nat) : Fld := ⟨0x1001108 + 0x100000 * s, 0, 12⟩
def SITE_SPEC_STAT_OCCUPANCY (s : Nat) : Fld := ⟨0x100110C + 0x100000 * s, 0, 12⟩
def SITE_SPEC_STAT_SLOTS (s : Nat) : Fld := ⟨0x100110C + 0x100000 * s, 16, 7⟩
def SITE_SPEC_DECISIONS_COUNT (s : Nat) : Fld := ⟨0x1001110 + 0x100000 * s, 0, 32⟩
def SITE_SPEC_MISPRED_COUNT (s : Nat) : Fld := ⟨0x1001114 + 0x100000 * s, 0, 32⟩
def SITE_SPEC_FENCE_COUNT (s : Nat) : Fld := ⟨0x1001118 + 0x100000 * s, 0, 32⟩
def SITE_SPEC_STALL_COUNT (s : Nat) : Fld := ⟨0x100111C + 0x100000 * s, 0, 32⟩
def SITE_STR_CFG_RES (s : Nat) : Fld := ⟨0x1001200 + 0x100000 * s, 0, 16⟩
def SITE_STR_CFG_ALT_PF (s : Nat) : Fld := ⟨0x1001200 + 0x100000 * s, 16, 5⟩
def SITE_STR_CFG_HOLD_IS_FAIL (s : Nat) : Fld := ⟨0x1001200 + 0x100000 * s, 24, 1⟩
def SITE_STR_BUF_BASE (s : Nat) : Fld := ⟨0x1001204 + 0x100000 * s, 0, 32⟩
def SITE_STR_BUF_SIZE (s : Nat) : Fld := ⟨0x1001208 + 0x100000 * s, 0, 15⟩
def SITE_STR_WM_LOW (s : Nat) : Fld := ⟨0x100120C + 0x100000 * s, 0, 16⟩
def SITE_STR_WM_HIGH (s : Nat) : Fld := ⟨0x100120C + 0x100000 * s, 16, 16⟩
def SITE_LC_BASE (s : Nat) : Fld := ⟨0x1001210 + 0x100000 * s, 0, 32⟩
def SITE_LC_SIZE (s : Nat) : Fld := ⟨0x1001214 + 0x100000 * s, 0, 9⟩
def SITE_STR_STATUS_STATE (s : Nat) : Fld := ⟨0x1001218 + 0x100000 * s, 0, 2⟩
def SITE_STR_STATUS_OVERBOOKED (s : Nat) : Fld := ⟨0x1001218 + 0x100000 * s, 2, 1⟩
def SITE_STR_STATUS_EXCEEDED (s : Nat) : Fld := ⟨0x1001218 + 0x100000 * s, 3, 1⟩
def SITE_STR_STATUS_HOLD_FAIL (s : Nat) : Fld := ⟨0x1001218 + 0x100000 * s, 4, 1⟩
def SITE_STR_STATUS_RESTREAM (s : Nat) : Fld := ⟨0x1001218 + 0x100000 * s, 5, 1⟩
def SITE_STR_STATUS_ALT_MISS (s : Nat) : Fld := ⟨0x1001218 + 0x100000 * s, 6, 1⟩
def SITE_STR_STATUS_CFG_BAD (s : Nat) : Fld := ⟨0x1001218 + 0x100000 * s, 7, 1⟩
def SITE_STR_LEVEL (s : Nat) : Fld := ⟨0x100121C + 0x100000 * s, 0, 16⟩
def SITE_STR_LEVEL_MIN (s : Nat) : Fld := ⟨0x100121C + 0x100000 * s, 16, 16⟩
def SITE_STR_RATE_LAST (s : Nat) : Fld := ⟨0x1001220 + 0x100000 * s, 0, 16⟩
def SITE_STR_RATE_MAX (s : Nat) : Fld := ⟨0x1001220 + 0x100000 * s, 16, 16⟩
def SITE_STR_BUDGET (s : Nat) : Fld := ⟨0x1001224 + 0x100000 * s, 0, 16⟩
def SITE_STR_BUDGET_CAPTURE (s : Nat) : Fld := ⟨0x1001224 + 0x100000 * s, 16, 16⟩
def SITE_STR_SUM (s : Nat) : Fld := ⟨0x1001228 + 0x100000 * s, 0, 32⟩
def SITE_STR_HOLDS_COUNT (s : Nat) : Fld := ⟨0x100122C + 0x100000 * s, 0, 32⟩
def SITE_PACE_CFG_FLOOR (s : Nat) : Fld := ⟨0x1001230 + 0x100000 * s, 0, 8⟩
def SITE_PACE_CFG_STEER (s : Nat) : Fld := ⟨0x1001230 + 0x100000 * s, 8, 1⟩
def SITE_PACE_LAST (s : Nat) : Fld := ⟨0x1001234 + 0x100000 * s, 0, 16⟩
def SITE_PACE_MIN (s : Nat) : Fld := ⟨0x1001234 + 0x100000 * s, 16, 16⟩
def SITE_PACE_LANE (s : Nat) : Fld := ⟨0x1001238 + 0x100000 * s, 0, 6⟩
def SITE_CAP_CFG_FAIL_FLAG_EN (s : Nat) : Fld := ⟨0x1001300 + 0x100000 * s, 0, 1⟩
def SITE_CAP_CFG_FAIL_FLAG (s : Nat) : Fld := ⟨0x1001300 + 0x100000 * s, 1, 4⟩
def SITE_CAP_CFG_STOP_ON_FAIL (s : Nat) : Fld := ⟨0x1001300 + 0x100000 * s, 5, 1⟩
def SITE_CAP_STOP_COUNT (s : Nat) : Fld := ⟨0x1001304 + 0x100000 * s, 0, 32⟩
def SITE_CAP_STATUS_SUMMARY_FAIL (s : Nat) : Fld := ⟨0x1001308 + 0x100000 * s, 0, 1⟩
def SITE_CAP_STATUS_FAIL_STOP (s : Nat) : Fld := ⟨0x1001308 + 0x100000 * s, 1, 1⟩
def SITE_CAP_STATUS_CNT_SAT (s : Nat) : Fld := ⟨0x1001308 + 0x100000 * s, 2, 1⟩
def SITE_CAP_FAILS_LO_FAILS (s : Nat) : Fld := ⟨0x1001310 + 0x100000 * s, 0, 32⟩
def SITE_CAP_FAILS_HI_FAILS (s : Nat) : Fld := ⟨0x1001314 + 0x100000 * s, 0, 32⟩
def SITE_CAP_FVEC_LO_FVEC (s : Nat) : Fld := ⟨0x1001318 + 0x100000 * s, 0, 32⟩
def SITE_CAP_FVEC_HI_FVEC (s : Nat) : Fld := ⟨0x100131C + 0x100000 * s, 0, 32⟩
def SITE_CAP_GFAIL_LO_GFAIL (s : Nat) : Fld := ⟨0x1001320 + 0x100000 * s, 0, 32⟩
def SITE_CAP_GFAIL_HI_GFAIL (s : Nat) : Fld := ⟨0x1001324 + 0x100000 * s, 0, 32⟩
def SITE_CAP_FIRST_LO_FIRST (s : Nat) : Fld := ⟨0x1001328 + 0x100000 * s, 0, 32⟩
def SITE_CAP_FIRST_HI_FIRST (s : Nat) : Fld := ⟨0x100132C + 0x100000 * s, 0, 32⟩
def SITE_CMP_MASK (s i : Nat) : Fld := ⟨0x1001340 + 0x100000 * s + 4 * i, 0, 32⟩
def SITE_FLOG_CFG_MODE (s : Nat) : Fld := ⟨0x1001380 + 0x100000 * s, 0, 2⟩
def SITE_FLOG_CFG_KEEP (s : Nat) : Fld := ⟨0x1001380 + 0x100000 * s, 2, 1⟩
def SITE_FLOG_LIMIT (s : Nat) : Fld := ⟨0x1001384 + 0x100000 * s, 0, 32⟩
def SITE_FLOG_BASE_LO_BASE (s : Nat) : Fld := ⟨0x1001388 + 0x100000 * s, 0, 32⟩
def SITE_FLOG_BASE_HI_BASE (s : Nat) : Fld := ⟨0x100138C + 0x100000 * s, 0, 32⟩
def SITE_FLOG_SIZE (s : Nat) : Fld := ⟨0x1001390 + 0x100000 * s, 0, 32⟩
def SITE_FLOG_HEAD (s : Nat) : Fld := ⟨0x1001394 + 0x100000 * s, 0, 32⟩
def SITE_FLOG_TAIL (s : Nat) : Fld := ⟨0x1001398 + 0x100000 * s, 0, 32⟩
def SITE_FLOG_COUNT (s : Nat) : Fld := ⟨0x100139C + 0x100000 * s, 0, 32⟩
def SITE_FLOG_DROPPED_COUNT (s : Nat) : Fld := ⟨0x10013A0 + 0x100000 * s, 0, 32⟩
def SITE_FLOG_STATUS_FULL (s : Nat) : Fld := ⟨0x10013A4 + 0x100000 * s, 0, 1⟩
def SITE_FLOG_STATUS_TRUNCATED (s : Nat) : Fld := ⟨0x10013A4 + 0x100000 * s, 1, 1⟩
def SITE_FLOG_STATUS_BAD_RING (s : Nat) : Fld := ⟨0x10013A4 + 0x100000 * s, 2, 1⟩
def SITE_FLOG_STATUS_DOMAIN_OFF (s : Nat) : Fld := ⟨0x10013A4 + 0x100000 * s, 3, 1⟩
def SITE_FLOG_STATUS_WRAPPED (s : Nat) : Fld := ⟨0x10013A4 + 0x100000 * s, 4, 1⟩
def SITE_FLOG_STATUS_LOG_STOP (s : Nat) : Fld := ⟨0x10013A4 + 0x100000 * s, 5, 1⟩
def SITE_TRIG_LINE_EN (s i : Nat) : Fld := ⟨0x1001400 + 0x100000 * s + 4 * i, 0, 1⟩
def SITE_TRIG_LINE_MODE (s i : Nat) : Fld := ⟨0x1001400 + 0x100000 * s + 4 * i, 1, 1⟩
def SITE_TRIG_LINE_WIN (s i : Nat) : Fld := ⟨0x1001400 + 0x100000 * s + 4 * i, 2, 16⟩
def SITE_TRIG_LINE_FLAG_EN (s i : Nat) : Fld := ⟨0x1001400 + 0x100000 * s + 4 * i, 18, 1⟩
def SITE_TRIG_LINE_FLAG (s i : Nat) : Fld := ⟨0x1001400 + 0x100000 * s + 4 * i, 19, 4⟩
def SITE_TRIG_LINE_EVT (s i : Nat) : Fld := ⟨0x1001400 + 0x100000 * s + 4 * i, 23, 1⟩
def SITE_TRIG_LHIST_LO_TAG_LO (s : Nat) : Fld := ⟨0x1001420 + 0x100000 * s, 0, 32⟩
def SITE_TRIG_LHIST_HI_TAG_HI (s : Nat) : Fld := ⟨0x1001424 + 0x100000 * s, 0, 16⟩
def SITE_TRIG_LHIST_HI_SET (s : Nat) : Fld := ⟨0x1001424 + 0x100000 * s, 16, 8⟩
def SITE_TRIG_LHIST_HI_ACTED (s : Nat) : Fld := ⟨0x1001424 + 0x100000 * s, 24, 3⟩
def SITE_TRIG_LHIST_HI_VALID (s : Nat) : Fld := ⟨0x1001424 + 0x100000 * s, 31, 1⟩
def SITE_ACQ_CFG_MARK_ARM (s : Nat) : Fld := ⟨0x1001430 + 0x100000 * s, 0, 16⟩
def SITE_MASK_CFG_FLAG_EN (s : Nat) : Fld := ⟨0x1001434 + 0x100000 * s, 0, 1⟩
def SITE_MASK_CFG_FLAG (s : Nat) : Fld := ⟨0x1001434 + 0x100000 * s, 1, 4⟩
def SITE_MASK_VIOL (s : Nat) : Fld := ⟨0x1001438 + 0x100000 * s, 0, 32⟩
def SITE_PIN_FCNT (s i : Nat) : Fld := ⟨0x1002000 + 0x100000 * s + 4 * i, 0, 32⟩
def SITE_PIN_FFC_LO_FFC (s i : Nat) : Fld := ⟨0x1003000 + 0x100000 * s + 8 * i, 0, 32⟩
def SITE_PIN_FFC_HI_FFC (s i : Nat) : Fld := ⟨0x1003004 + 0x100000 * s + 8 * i, 0, 32⟩

/-! Fields of the PIN block (R88 to R95, R117 to R124, R262 to R269, R293 to R297). -/
def PIN_IDLE_DRIVE (p : Nat) : Fld := ⟨0x8000000 + 0x10000 * p, 0, 3⟩
def PIN_CLK_CFG_ENABLE (p : Nat) : Fld := ⟨0x8000004 + 0x10000 * p, 0, 1⟩
def PIN_CLK_CFG_MUL (p : Nat) : Fld := ⟨0x8000004 + 0x10000 * p, 4, 4⟩
def PIN_CLK_CFG_DIV (p : Nat) : Fld := ⟨0x8000004 + 0x10000 * p, 8, 4⟩
def PIN_CLK_PHASE (p : Nat) : Fld := ⟨0x8000008 + 0x10000 * p, 0, 32⟩
def PIN_TSTAT_MERGED (p : Nat) : Fld := ⟨0x8000010 + 0x10000 * p, 0, 1⟩
def PIN_TSTAT_RANGE (p : Nat) : Fld := ⟨0x8000010 + 0x10000 * p, 1, 1⟩
def PIN_TSTAT_STROBE_CLOSE (p : Nat) : Fld := ⟨0x8000010 + 0x10000 * p, 2, 1⟩
def PIN_TSTAT_CODE (p : Nat) : Fld := ⟨0x8000010 + 0x10000 * p, 3, 1⟩
def PIN_TSTAT_CLK_BUSY (p : Nat) : Fld := ⟨0x8000010 + 0x10000 * p, 4, 1⟩
def PIN_MERGE_COUNT (p : Nat) : Fld := ⟨0x8000014 + 0x10000 * p, 0, 32⟩
def PIN_WS_ENTRY (p i j : Nat) : Fld := ⟨0x8000400 + 0x10000 * p + 64 * i + 4 * j, 0, 21⟩
def PIN_TS_E_TIME (p i j : Nat) : Fld := ⟨0x8001000 + 0x10000 * p + 64 * i + 4 * j, 0, 32⟩
def PIN_TS_CTRL_WAVESET (p i : Nat) : Fld := ⟨0x8001020 + 0x10000 * p + 64 * i, 0, 2⟩
def PIN_FE_CFG_TERM (p : Nat) : Fld := ⟨0x8002000 + 0x10000 * p, 0, 2⟩
def PIN_FE_CFG_HYST (p : Nat) : Fld := ⟨0x8002000 + 0x10000 * p, 8, 5⟩
def PIN_FE_CFG_OC_LIMIT (p : Nat) : Fld := ⟨0x8002000 + 0x10000 * p, 16, 4⟩
def PIN_FE_CFG_FILT (p : Nat) : Fld := ⟨0x8002000 + 0x10000 * p, 24, 8⟩
def PIN_CLAMP_CLL (p : Nat) : Fld := ⟨0x8002004 + 0x10000 * p, 0, 14⟩
def PIN_CLAMP_CLH (p : Nat) : Fld := ⟨0x8002004 + 0x10000 * p, 16, 14⟩
def PIN_CLAMP_EN (p : Nat) : Fld := ⟨0x8002004 + 0x10000 * p, 31, 1⟩
def PIN_LVL_CFG_STEP (p : Nat) : Fld := ⟨0x8002008 + 0x10000 * p, 0, 12⟩
def PIN_LVL_CFG_RATE (p : Nat) : Fld := ⟨0x8002008 + 0x10000 * p, 12, 8⟩
def PIN_LVL_CFG_LIM_EN (p : Nat) : Fld := ⟨0x8002008 + 0x10000 * p, 20, 1⟩
def PIN_LVL_CFG_LVL_IGNORE (p : Nat) : Fld := ⟨0x8002008 + 0x10000 * p, 21, 1⟩
def PIN_LVL_CMD_SET (p : Nat) : Fld := ⟨0x800200C + 0x10000 * p, 0, 3⟩
def PIN_LVL_CMD_APPLY (p : Nat) : Fld := ⟨0x800200C + 0x10000 * p, 8, 1⟩
def PIN_LVL_STAT_CURRENT (p : Nat) : Fld := ⟨0x8002010 + 0x10000 * p, 0, 3⟩
def PIN_LVL_STAT_DEPTH (p : Nat) : Fld := ⟨0x8002010 + 0x10000 * p, 3, 4⟩
def PIN_LVL_STAT_BUSY (p : Nat) : Fld := ⟨0x8002010 + 0x10000 * p, 7, 1⟩
def PIN_LVL_STAT_COALESCED (p : Nat) : Fld := ⟨0x8002010 + 0x10000 * p, 8, 1⟩
def PIN_LVL_STAT_CORR_SAT (p : Nat) : Fld := ⟨0x8002010 + 0x10000 * p, 9, 1⟩
def PIN_FESTAT_TRIP (p : Nat) : Fld := ⟨0x8002014 + 0x10000 * p, 0, 1⟩
def PIN_FESTAT_OV (p : Nat) : Fld := ⟨0x8002014 + 0x10000 * p, 1, 1⟩
def PIN_FESTAT_OC (p : Nat) : Fld := ⟨0x8002014 + 0x10000 * p, 2, 1⟩
def PIN_FESTAT_REARM_BUSY (p : Nat) : Fld := ⟨0x8002014 + 0x10000 * p, 3, 1⟩
def PIN_FESTAT_CLAMP_INVALID (p : Nat) : Fld := ⟨0x8002014 + 0x10000 * p, 4, 1⟩
def PIN_FESTAT_EXCURSION (p : Nat) : Fld := ⟨0x8002014 + 0x10000 * p, 5, 1⟩
def PIN_FESTAT_SWING (p : Nat) : Fld := ⟨0x8002014 + 0x10000 * p, 6, 1⟩
def PIN_LVL_OUT0_VIH (p : Nat) : Fld := ⟨0x8002018 + 0x10000 * p, 0, 14⟩
def PIN_LVL_OUT0_VIL (p : Nat) : Fld := ⟨0x8002018 + 0x10000 * p, 16, 14⟩
def PIN_LVL_OUT1_VOH (p : Nat) : Fld := ⟨0x800201C + 0x10000 * p, 0, 14⟩
def PIN_LVL_OUT1_VOL (p : Nat) : Fld := ⟨0x800201C + 0x10000 * p, 16, 14⟩
def PIN_LVL_OUT2_VTT (p : Nat) : Fld := ⟨0x8002020 + 0x10000 * p, 0, 14⟩
def PIN_LS_CODE (p i j : Nat) : Fld := ⟨0x8002100 + 0x10000 * p + 32 * i + 4 * j, 0, 14⟩
def PIN_ACQ_CFG_MODE (p : Nat) : Fld := ⟨0x8003000 + 0x10000 * p, 0, 2⟩
def PIN_ACQ_CFG_SRC (p : Nat) : Fld := ⟨0x8003000 + 0x10000 * p, 2, 1⟩
def PIN_ACQ_CFG_LINE (p : Nat) : Fld := ⟨0x8003000 + 0x10000 * p, 3, 3⟩
def PIN_ACQ_CFG_MARK_EN (p : Nat) : Fld := ⟨0x8003000 + 0x10000 * p, 6, 1⟩
def PIN_ACQ_POST (p : Nat) : Fld := ⟨0x8003004 + 0x10000 * p, 0, 32⟩
def PIN_ACQ_STAT_STATE (p : Nat) : Fld := ⟨0x8003008 + 0x10000 * p, 0, 3⟩
def PIN_ACQ_STAT_POST_CLIPPED (p : Nat) : Fld := ⟨0x8003008 + 0x10000 * p, 3, 1⟩
def PIN_ACQ_STAT_RATE (p : Nat) : Fld := ⟨0x8003008 + 0x10000 * p, 4, 1⟩
def PIN_ACQ_STAT_HELD_FULL (p : Nat) : Fld := ⟨0x8003008 + 0x10000 * p, 5, 1⟩
def PIN_ACQ_STAT_WIN_BAD (p : Nat) : Fld := ⟨0x8003008 + 0x10000 * p, 6, 1⟩
def PIN_ACQ_COUNT_STORED (p : Nat) : Fld := ⟨0x800300C + 0x10000 * p, 0, 13⟩
def PIN_ACQ_COUNT_PRE (p : Nat) : Fld := ⟨0x800300C + 0x10000 * p, 16, 13⟩
def PIN_ACQ_INDEX_TRIG_INDEX (p : Nat) : Fld := ⟨0x8003010 + 0x10000 * p, 0, 12⟩
def PIN_ACQ_INDEX_WRITE (p : Nat) : Fld := ⟨0x8003010 + 0x10000 * p, 16, 12⟩
def PIN_ACQ_MISSED (p : Nat) : Fld := ⟨0x8003014 + 0x10000 * p, 0, 32⟩
def PIN_TRIG_CFG_TYPE (p i : Nat) : Fld := ⟨0x8003020 + 0x10000 * p + 16 * i, 0, 3⟩
def PIN_TRIG_CFG_CODE (p i : Nat) : Fld := ⟨0x8003020 + 0x10000 * p + 16 * i, 3, 3⟩
def PIN_TRIG_CFG_POL (p i : Nat) : Fld := ⟨0x8003020 + 0x10000 * p + 16 * i, 6, 1⟩
def PIN_TRIG_CFG_THR (p i : Nat) : Fld := ⟨0x8003020 + 0x10000 * p + 16 * i, 7, 1⟩
def PIN_TRIG_CFG_COND (p i : Nat) : Fld := ⟨0x8003020 + 0x10000 * p + 16 * i, 8, 2⟩
def PIN_TRIG_CFG_ACQ (p i : Nat) : Fld := ⟨0x8003020 + 0x10000 * p + 16 * i, 16, 1⟩
def PIN_TRIG_CFG_LINE_EN (p i : Nat) : Fld := ⟨0x8003020 + 0x10000 * p + 16 * i, 17, 1⟩
def PIN_TRIG_CFG_LINE (p i : Nat) : Fld := ⟨0x8003020 + 0x10000 * p + 16 * i, 18, 3⟩
def PIN_TRIG_CFG_FLAG_EN (p i : Nat) : Fld := ⟨0x8003020 + 0x10000 * p + 16 * i, 21, 1⟩
def PIN_TRIG_CFG_FLAG (p i : Nat) : Fld := ⟨0x8003020 + 0x10000 * p + 16 * i, 22, 4⟩
def PIN_TRIG_CFG_EVT (p i : Nat) : Fld := ⟨0x8003020 + 0x10000 * p + 16 * i, 26, 1⟩
def PIN_TRIG_CFG_ONCE (p i : Nat) : Fld := ⟨0x8003020 + 0x10000 * p + 16 * i, 27, 1⟩
def PIN_TRIG_CFG_ARM_MARK (p i : Nat) : Fld := ⟨0x8003020 + 0x10000 * p + 16 * i, 28, 1⟩
def PIN_TRIG_W1 (p i : Nat) : Fld := ⟨0x8003024 + 0x10000 * p + 16 * i, 0, 32⟩
def PIN_TRIG_W2 (p i : Nat) : Fld := ⟨0x8003028 + 0x10000 * p + 16 * i, 0, 32⟩
def PIN_TRIG_HIST_LO_TAG_LO (p i : Nat) : Fld := ⟨0x8003060 + 0x10000 * p + 8 * i, 0, 32⟩
def PIN_TRIG_HIST_HI_TAG_HI (p i : Nat) : Fld := ⟨0x8003064 + 0x10000 * p + 8 * i, 0, 16⟩
def PIN_TRIG_HIST_HI_SET (p i : Nat) : Fld := ⟨0x8003064 + 0x10000 * p + 8 * i, 16, 4⟩
def PIN_TRIG_HIST_HI_ACTED (p i : Nat) : Fld := ⟨0x8003064 + 0x10000 * p + 8 * i, 20, 2⟩
def PIN_TRIG_HIST_HI_VALID (p i : Nat) : Fld := ⟨0x8003064 + 0x10000 * p + 8 * i, 31, 1⟩
def PIN_TRIG_CNT (p : Nat) : Fld := ⟨0x8003080 + 0x10000 * p, 0, 32⟩
def PIN_MASK_CFG_EN (p i : Nat) : Fld := ⟨0x8003090 + 0x10000 * p + 16 * i, 0, 1⟩
def PIN_MASK_CFG_KIND (p i : Nat) : Fld := ⟨0x8003090 + 0x10000 * p + 16 * i, 1, 1⟩
def PIN_MASK_CFG_CODE (p i : Nat) : Fld := ⟨0x8003090 + 0x10000 * p + 16 * i, 2, 3⟩
def PIN_MASK_CFG_TSALL (p i : Nat) : Fld := ⟨0x8003090 + 0x10000 * p + 16 * i, 5, 1⟩
def PIN_MASK_CFG_TS (p i : Nat) : Fld := ⟨0x8003090 + 0x10000 * p + 16 * i, 6, 6⟩
def PIN_MASK_CFG_STOP (p i : Nat) : Fld := ⟨0x8003090 + 0x10000 * p + 16 * i, 12, 1⟩
def PIN_MASK_START (p i : Nat) : Fld := ⟨0x8003094 + 0x10000 * p + 16 * i, 0, 32⟩
def PIN_MASK_END (p i : Nat) : Fld := ⟨0x8003098 + 0x10000 * p + 16 * i, 0, 32⟩
def PIN_MASK_VIOL (p : Nat) : Fld := ⟨0x80030D0 + 0x10000 * p, 0, 32⟩
def PIN_AVG_CFG_EN (p : Nat) : Fld := ⟨0x80030E0 + 0x10000 * p, 0, 1⟩
def PIN_AVG_CFG_REF (p : Nat) : Fld := ⟨0x80030E0 + 0x10000 * p, 1, 1⟩
def PIN_AVG_CFG_RCODE (p : Nat) : Fld := ⟨0x80030E0 + 0x10000 * p, 2, 3⟩
def PIN_AVG_CFG_CODE (p : Nat) : Fld := ⟨0x80030E0 + 0x10000 * p, 5, 3⟩
def PIN_AVG_CFG_TSALL (p : Nat) : Fld := ⟨0x80030E0 + 0x10000 * p, 8, 1⟩
def PIN_AVG_CFG_TS (p : Nat) : Fld := ⟨0x80030E0 + 0x10000 * p, 9, 6⟩
def PIN_AVG_CFG_ACC (p : Nat) : Fld := ⟨0x80030E0 + 0x10000 * p, 16, 10⟩
def PIN_AVG_START (p : Nat) : Fld := ⟨0x80030E4 + 0x10000 * p, 0, 32⟩
def PIN_AVG_END (p : Nat) : Fld := ⟨0x80030E8 + 0x10000 * p, 0, 32⟩
def PIN_AVG_NONE (p : Nat) : Fld := ⟨0x80030EC + 0x10000 * p, 0, 32⟩
def PIN_TDC_CFG_START_PIN (p : Nat) : Fld := ⟨0x8004000 + 0x10000 * p, 0, 9⟩
def PIN_TDC_CFG_START_SRC (p : Nat) : Fld := ⟨0x8004000 + 0x10000 * p, 9, 2⟩
def PIN_TDC_CFG_START_CODE (p : Nat) : Fld := ⟨0x8004000 + 0x10000 * p, 11, 3⟩
def PIN_TDC_CFG_STOP_CODE (p : Nat) : Fld := ⟨0x8004000 + 0x10000 * p, 14, 3⟩
def PIN_TDC_CFG_ARM_AT (p : Nat) : Fld := ⟨0x8004000 + 0x10000 * p, 17, 1⟩
def PIN_TDC_CFG_ACC_EN (p : Nat) : Fld := ⟨0x8004000 + 0x10000 * p, 18, 1⟩
def PIN_TDC_CFG_EVT (p : Nat) : Fld := ⟨0x8004000 + 0x10000 * p, 19, 1⟩
def PIN_TDC_CFG_ACC (p : Nat) : Fld := ⟨0x8004000 + 0x10000 * p, 20, 10⟩
def PIN_TDC_TIMEOUT (p : Nat) : Fld := ⟨0x8004004 + 0x10000 * p, 0, 32⟩
def PIN_TDC_REPEAT (p : Nat) : Fld := ⟨0x8004008 + 0x10000 * p, 0, 16⟩
def PIN_TDC_ARM_TICK_LO_TICK (p : Nat) : Fld := ⟨0x8004010 + 0x10000 * p, 0, 32⟩
def PIN_TDC_ARM_TICK_HI_TICK (p : Nat) : Fld := ⟨0x8004014 + 0x10000 * p, 0, 32⟩
def PIN_TDC_ARM_FINE (p : Nat) : Fld := ⟨0x8004018 + 0x10000 * p, 0, 11⟩
def PIN_TDC_CMD_ARM (p : Nat) : Fld := ⟨0x800401C + 0x10000 * p, 0, 1⟩
def PIN_TDC_CMD_CANCEL (p : Nat) : Fld := ⟨0x800401C + 0x10000 * p, 1, 1⟩
def PIN_TDC_STAT_STATE (p : Nat) : Fld := ⟨0x8004020 + 0x10000 * p, 0, 3⟩
def PIN_TDC_STAT_BUSY (p : Nat) : Fld := ⟨0x8004020 + 0x10000 * p, 4, 1⟩
def PIN_TDC_STAT_CANCELLED (p : Nat) : Fld := ⟨0x8004020 + 0x10000 * p, 5, 1⟩
def PIN_TDC_STAT_RANGE (p : Nat) : Fld := ⟨0x8004020 + 0x10000 * p, 6, 1⟩
def PIN_TDC_STAT_ORDER (p : Nat) : Fld := ⟨0x8004020 + 0x10000 * p, 8, 1⟩
def PIN_TDC_STAT_NEAR (p : Nat) : Fld := ⟨0x8004020 + 0x10000 * p, 9, 1⟩
def PIN_TDC_STAT_TIMEOUT_START (p : Nat) : Fld := ⟨0x8004020 + 0x10000 * p, 10, 1⟩
def PIN_TDC_STAT_TIMEOUT_STOP (p : Nat) : Fld := ⟨0x8004020 + 0x10000 * p, 11, 1⟩
def PIN_TDC_STAT_REF (p : Nat) : Fld := ⟨0x8004020 + 0x10000 * p, 12, 1⟩
def PIN_TDC_RESULT_LO_RESULT (p : Nat) : Fld := ⟨0x8004028 + 0x10000 * p, 0, 32⟩
def PIN_TDC_RESULT_HI_RESULT (p : Nat) : Fld := ⟨0x800402C + 0x10000 * p, 0, 32⟩
def PIN_TDC_START_LO_START (p : Nat) : Fld := ⟨0x8004030 + 0x10000 * p, 0, 32⟩
def PIN_TDC_START_HI_START (p : Nat) : Fld := ⟨0x8004034 + 0x10000 * p, 0, 32⟩
def PIN_TDC_COUNT (p : Nat) : Fld := ⟨0x8004038 + 0x10000 * p, 0, 32⟩
def PIN_ACQ_RING_LO_WORD (p i : Nat) : Fld := ⟨0x8008000 + 0x10000 * p + 8 * i, 0, 32⟩
def PIN_ACQ_RING_HI_WORD (p i : Nat) : Fld := ⟨0x8008004 + 0x10000 * p + 8 * i, 0, 32⟩

end Sys2Proof.Machine
end

