-- ==== Sys2Proof/Machine/RegMap.lean ====
section
/-! DEFINITION. The registers of the device blocks, from the register tables of spec/. Every row gives the register's name, its offset in the block, its two
repetition counts and strides, whether it is one word of a 64-bit value (R4), and its fields: lowest bit, length,
field type (R5), log class (R6), reset value, and what a written value outside the field's range stores. -/
namespace Sys2Proof.Machine

/-- Registers of the SYS block (R26 to R30, R489 to R491). -/
def sysRegs : List RegDesc := [
  ⟨"SYS_ID", 0x0000, 1, 4, 1, 4, .single, [⟨0, 16, .ro, .stat, 20776, .plain⟩, ⟨16, 8, .ro, .stat, 177, .plain⟩]⟩,
  ⟨"SYS_HOST_CFG", 0x0004, 1, 4, 1, 4, .single, [⟨0, 16, .rw, .cfg, 1000, .plain⟩]⟩,
  ⟨"SYS_HOST_STATUS", 0x0008, 1, 4, 1, 4, .single, [⟨0, 1, .ro, .stat, 0, .plain⟩, ⟨1, 3, .ro, .stat, 0, .plain⟩, ⟨4, 4, .ro, .stat, 0, .plain⟩, ⟨8, 1, .w1c, .ops, 0, .plain⟩, ⟨9, 1, .w1c, .ops, 0, .plain⟩, ⟨10, 1, .w1c, .ops, 0, .plain⟩, ⟨11, 1, .w1c, .ops, 0, .plain⟩]⟩,
  ⟨"SYS_BAD_WIDTH", 0x000C, 1, 4, 1, 4, .single, [⟨0, 32, .ro, .stat, 0, .plain⟩]⟩,
  ⟨"SYS_HOST_STALL", 0x0010, 1, 4, 1, 4, .single, [⟨0, 32, .ro, .stat, 0, .plain⟩]⟩,
  ⟨"SYS_GROUP_SITE", 0x0100, 8, 4, 1, 4, .single, [⟨0, 4, .rwl, .cfg, 0, .plain⟩, ⟨4, 4, .rwl, .cfg, 0, .plain⟩, ⟨8, 4, .rwl, .cfg, 0, .plain⟩, ⟨12, 4, .rwl, .cfg, 0, .plain⟩, ⟨16, 4, .rwl, .cfg, 0, .plain⟩, ⟨20, 4, .rwl, .cfg, 0, .plain⟩, ⟨24, 4, .rwl, .cfg, 0, .plain⟩, ⟨28, 4, .rwl, .cfg, 0, .plain⟩]⟩,
  ⟨"SYS_GROUP_OWNED", 0x0120, 2, 4, 1, 4, .single, [⟨0, 32, .rwl, .cfg, 0, .plain⟩]⟩,
  ⟨"SYS_SITE_LEVEL", 0x0128, 1, 4, 1, 4, .single, [⟨0, 2, .rwl, .cfg, 0, (.keep 3 3)⟩, ⟨2, 2, .rwl, .cfg, 0, (.keep 3 3)⟩, ⟨4, 2, .rwl, .cfg, 0, (.keep 3 3)⟩, ⟨6, 2, .rwl, .cfg, 0, (.keep 3 3)⟩, ⟨8, 2, .rwl, .cfg, 0, (.keep 3 3)⟩, ⟨10, 2, .rwl, .cfg, 0, (.keep 3 3)⟩, ⟨12, 2, .rwl, .cfg, 0, (.keep 3 3)⟩, ⟨14, 2, .rwl, .cfg, 0, (.keep 3 3)⟩, ⟨16, 2, .rwl, .cfg, 0, (.keep 3 3)⟩, ⟨18, 2, .rwl, .cfg, 0, (.keep 3 3)⟩, ⟨20, 2, .rwl, .cfg, 0, (.keep 3 3)⟩, ⟨22, 2, .rwl, .cfg, 0, (.keep 3 3)⟩, ⟨24, 2, .rwl, .cfg, 0, (.keep 3 3)⟩, ⟨26, 2, .rwl, .cfg, 0, (.keep 3 3)⟩, ⟨28, 2, .rwl, .cfg, 0, (.keep 3 3)⟩, ⟨30, 2, .rwl, .cfg, 0, (.keep 3 3)⟩]⟩,
  ⟨"SYS_ARCH_STATUS", 0x012C, 1, 4, 1, 4, .single, [⟨0, 1, .w1c, .ops, 0, .plain⟩, ⟨1, 1, .w1c, .ops, 0, .plain⟩, ⟨2, 1, .w1c, .ops, 0, .plain⟩]⟩,
  ⟨"SYS_UNMAPPED_ADDR_LO", 0x0130, 1, 4, 1, 4, .low, [⟨0, 32, .ro, .stat, 0, .plain⟩]⟩,
  ⟨"SYS_UNMAPPED_ADDR_HI", 0x0134, 1, 4, 1, 4, .high, [⟨0, 32, .ro, .stat, 0, .plain⟩]⟩,
  ⟨"SYS_MSIX_ADDR_LO", 0x8000, 64, 16, 1, 4, .single, [⟨0, 32, .rw, .ops, 0, .plain⟩]⟩,
  ⟨"SYS_MSIX_ADDR_HI", 0x8004, 64, 16, 1, 4, .single, [⟨0, 32, .rw, .ops, 0, .plain⟩]⟩,
  ⟨"SYS_MSIX_DATA", 0x8008, 64, 16, 1, 4, .single, [⟨0, 32, .rw, .ops, 0, .plain⟩]⟩,
  ⟨"SYS_MSIX_CTRL", 0x800C, 64, 16, 1, 4, .single, [⟨0, 1, .rw, .ops, 1, .plain⟩]⟩,
  ⟨"SYS_MSIX_PBA", 0x9000, 2, 4, 1, 4, .single, [⟨0, 32, .ro, .stat, 0, .plain⟩]⟩]

/-- Registers of the EVT block (R492 to R496). -/
def evtRegs : List RegDesc := [
  ⟨"EVT_CFG", 0x0000, 1, 4, 1, 4, .single, [⟨0, 1, .rw, .cfg, 0, .plain⟩, ⟨1, 1, .rw, .cfg, 0, .plain⟩, ⟨2, 1, .rw, .cfg, 0, .plain⟩]⟩,
  ⟨"EVT_Q_BASE", 0x0004, 1, 4, 1, 4, .single, [⟨0, 32, .rw, .cfg, 0, .plain⟩]⟩,
  ⟨"EVT_Q_SIZE", 0x0008, 1, 4, 1, 4, .single, [⟨0, 17, .rw, .cfg, 0, .plain⟩]⟩,
  ⟨"EVT_Q_HEAD", 0x000C, 1, 4, 1, 4, .single, [⟨0, 16, .ro, .stat, 0, .plain⟩]⟩,
  ⟨"EVT_Q_TAIL", 0x0010, 1, 4, 1, 4, .single, [⟨0, 16, .rw, .ops, 0, .plain⟩]⟩,
  ⟨"EVT_STATUS", 0x0014, 1, 4, 1, 4, .single, [⟨0, 1, .w1c, .ops, 0, .plain⟩, ⟨1, 1, .w1c, .ops, 0, .plain⟩, ⟨2, 1, .w1c, .ops, 0, .plain⟩, ⟨3, 1, .ro, .stat, 0, .plain⟩]⟩,
  ⟨"EVT_DROPPED", 0x0018, 1, 4, 1, 4, .single, [⟨0, 32, .ro, .stat, 0, .plain⟩]⟩,
  ⟨"EVT_SEQ", 0x001C, 1, 4, 1, 4, .single, [⟨0, 32, .ro, .stat, 0, .plain⟩]⟩,
  ⟨"EVT_PIN_MASK", 0x0020, 1, 4, 1, 4, .single, [⟨1, 15, .rw, .cfg, 32767, .plain⟩]⟩,
  ⟨"EVT_ROUTE", 0x0044, 15, 4, 1, 4, .single, [⟨0, 6, .rw, .cfg, 0, .plain⟩, ⟨6, 1, .rw, .cfg, 0, .plain⟩, ⟨7, 1, .rw, .cfg, 0, .plain⟩]⟩,
  ⟨"EVT_ARM", 0x0080, 2, 4, 1, 4, .single, [⟨0, 32, .w1s, .ops, 4294967295, .plain⟩]⟩,
  ⟨"EVT_MBOX_BASE", 0x00A0, 1, 4, 1, 4, .single, [⟨0, 32, .rw, .cfg, 0, .plain⟩]⟩,
  ⟨"EVT_MBOX_CMD", 0x00A4, 1, 4, 1, 4, .single, [⟨0, 1, .w1s, .ops, 0, .plain⟩, ⟨1, 1, .w1s, .ops, 0, .plain⟩]⟩,
  ⟨"EVT_MBOX_STAT", 0x00A8, 1, 4, 1, 4, .single, [⟨0, 1, .w1c, .ops, 0, .plain⟩, ⟨1, 1, .w1c, .ops, 0, .plain⟩, ⟨2, 1, .w1c, .ops, 0, .plain⟩, ⟨3, 1, .w1c, .ops, 0, .plain⟩]⟩,
  ⟨"EVT_MBOX_VEC", 0x00AC, 1, 4, 1, 4, .single, [⟨0, 6, .rw, .cfg, 0, .plain⟩, ⟨6, 1, .rw, .cfg, 0, .plain⟩]⟩]

/-- Registers of the SEC block (R542 to R544). -/
def secRegs : List RegDesc := [
  ⟨"SEC_STATE", 0x0000, 1, 4, 1, 4, .single, [⟨0, 2, .ro, .stat, 0, .plain⟩, ⟨2, 1, .ro, .stat, 0, .plain⟩, ⟨3, 1, .ro, .stat, 0, .plain⟩]⟩,
  ⟨"SEC_CFG", 0x0004, 1, 4, 1, 4, .single, [⟨0, 1, .rwl, .cfg, 1, .plain⟩, ⟨4, 4, .rwl, .cfg, 9, .plain⟩]⟩,
  ⟨"SEC_CMD", 0x0008, 1, 4, 1, 4, .single, [⟨0, 1, .w1s, .ops, 0, .plain⟩, ⟨1, 1, .w1s, .ops, 0, .plain⟩, ⟨2, 1, .w1s, .ops, 0, .plain⟩]⟩,
  ⟨"SEC_STATUS", 0x000C, 1, 4, 1, 4, .single, [⟨0, 2, .ro, .stat, 0, .plain⟩, ⟨4, 4, .ro, .stat, 0, .plain⟩, ⟨8, 1, .w1c, .ops, 0, .plain⟩, ⟨9, 1, .w1c, .ops, 0, .plain⟩]⟩,
  ⟨"SEC_TOKEN_BASE", 0x0010, 1, 4, 1, 4, .single, [⟨0, 32, .rw, .cfg, 0, .plain⟩]⟩,
  ⟨"SEC_NONCE_LO", 0x0018, 1, 4, 1, 4, .low, [⟨0, 32, .ro, .stat, 0, .plain⟩]⟩,
  ⟨"SEC_NONCE_HI", 0x001C, 1, 4, 1, 4, .high, [⟨0, 32, .ro, .stat, 0, .plain⟩]⟩,
  ⟨"SEC_TAMPER_COUNT", 0x0020, 1, 4, 1, 4, .single, [⟨0, 32, .ro, .stat, 0, .plain⟩]⟩,
  ⟨"SEC_BOOT_COUNT", 0x0024, 1, 4, 1, 4, .single, [⟨0, 32, .ro, .stat, 0, .plain⟩]⟩,
  ⟨"SEC_SERIAL", 0x0030, 4, 4, 1, 4, .single, [⟨0, 32, .ro, .stat, 0, .plain⟩]⟩,
  ⟨"SEC_OWNER_HASH", 0x0040, 12, 4, 1, 4, .single, [⟨0, 32, .ro, .stat, 0, .plain⟩]⟩,
  ⟨"SEC_VENDOR_HASH", 0x0070, 12, 4, 1, 4, .single, [⟨0, 32, .ro, .stat, 0, .plain⟩]⟩,
  ⟨"SEC_PUBKEY", 0x0100, 25, 4, 1, 4, .single, [⟨0, 32, .ro, .stat, 0, .plain⟩]⟩,
  ⟨"SEC_CERT_LEN", 0x0200, 1, 4, 1, 4, .single, [⟨0, 12, .ro, .stat, 0, .plain⟩]⟩,
  ⟨"SEC_CERT", 0x1000, 512, 4, 1, 4, .single, [⟨0, 32, .ro, .stat, 0, .plain⟩]⟩]

/-- Registers of the AUD block (R545). -/
def audRegs : List RegDesc := [
  ⟨"AUD_CFG", 0x0000, 1, 4, 1, 4, .single, [⟨0, 1, .rwl, .cfg, 0, .plain⟩]⟩,
  ⟨"AUD_RING_BASE_LO", 0x0004, 1, 4, 1, 4, .low, [⟨0, 32, .rwl, .cfg, 1134559232, .plain⟩]⟩,
  ⟨"AUD_RING_BASE_HI", 0x0008, 1, 4, 1, 4, .high, [⟨0, 32, .rwl, .cfg, 0, .plain⟩]⟩,
  ⟨"AUD_RING_SIZE", 0x000C, 1, 4, 1, 4, .single, [⟨0, 32, .rwl, .cfg, 1048576, .plain⟩]⟩,
  ⟨"AUD_RING_HEAD", 0x0010, 1, 4, 1, 4, .single, [⟨0, 32, .ro, .stat, 0, .plain⟩]⟩,
  ⟨"AUD_RING_TAIL", 0x0014, 1, 4, 1, 4, .single, [⟨0, 32, .rw, .ops, 0, .plain⟩]⟩,
  ⟨"AUD_CKPT_N", 0x0018, 1, 4, 1, 4, .single, [⟨0, 16, .rw, .cfg, 4096, .plain⟩]⟩,
  ⟨"AUD_CMD", 0x001C, 1, 4, 1, 4, .single, [⟨0, 1, .w1s, .ops, 0, .plain⟩]⟩,
  ⟨"AUD_STATUS", 0x0020, 1, 4, 1, 4, .single, [⟨0, 1, .w1c, .ops, 0, .plain⟩, ⟨1, 1, .w1c, .ops, 0, .plain⟩, ⟨2, 1, .w1c, .ops, 0, .plain⟩, ⟨3, 1, .ro, .stat, 0, .plain⟩]⟩,
  ⟨"AUD_SEQ", 0x0024, 1, 4, 1, 4, .single, [⟨0, 32, .ro, .stat, 0, .plain⟩]⟩,
  ⟨"AUD_LOST", 0x0028, 1, 4, 1, 4, .single, [⟨0, 32, .ro, .stat, 0, .plain⟩]⟩,
  ⟨"AUD_CHAIN", 0x0030, 12, 4, 1, 4, .single, [⟨0, 32, .ro, .stat, 0, .plain⟩]⟩]

/-- Registers of the PWR block (R565 to R571), part 1. -/
def pwrRegs1 : List RegDesc := [
  ⟨"PWR_STATUS", 0x0000, 1, 4, 1, 4, .single, [⟨0, 3, .ro, .stat, 1, .plain⟩, ⟨3, 1, .ro, .stat, 0, .plain⟩, ⟨4, 1, .ro, .stat, 0, .plain⟩, ⟨5, 1, .ro, .stat, 0, .plain⟩, ⟨6, 1, .w1c, .ops, 0, .plain⟩, ⟨7, 1, .w1c, .ops, 0, .plain⟩, ⟨8, 1, .w1c, .ops, 0, .plain⟩]⟩,
  ⟨"PWR_CMD", 0x0004, 1, 4, 1, 4, .single, [⟨0, 1, .w1s, .ops, 0, .plain⟩, ⟨1, 1, .w1s, .ops, 0, .plain⟩]⟩,
  ⟨"PWR_DOM_CTRL", 0x0008, 1, 4, 1, 4, .single, [⟨0, 1, .rw, .cfg, 0, .plain⟩, ⟨1, 1, .rw, .cfg, 0, .plain⟩, ⟨2, 1, .rw, .cfg, 0, .plain⟩, ⟨3, 1, .rw, .cfg, 0, .plain⟩, ⟨4, 1, .rw, .cfg, 0, .plain⟩, ⟨5, 1, .rw, .cfg, 0, .plain⟩, ⟨6, 1, .rw, .cfg, 0, .plain⟩, ⟨7, 1, .rw, .cfg, 0, .plain⟩, ⟨8, 1, .rw, .cfg, 0, .plain⟩, ⟨9, 1, .rw, .cfg, 0, .plain⟩]⟩,
  ⟨"PWR_DOM_STATE", 0x000C, 1, 4, 1, 4, .single, [⟨0, 2, .ro, .stat, 0, .plain⟩, ⟨2, 2, .ro, .stat, 0, .plain⟩, ⟨4, 2, .ro, .stat, 0, .plain⟩, ⟨6, 2, .ro, .stat, 0, .plain⟩, ⟨8, 2, .ro, .stat, 0, .plain⟩, ⟨10, 2, .ro, .stat, 0, .plain⟩, ⟨12, 2, .ro, .stat, 0, .plain⟩, ⟨14, 2, .ro, .stat, 0, .plain⟩, ⟨16, 2, .ro, .stat, 0, .plain⟩, ⟨18, 2, .ro, .stat, 0, .plain⟩]⟩,
  ⟨"PWR_STBY_CFG", 0x0010, 1, 4, 1, 4, .single, [⟨0, 8, .rw, .cfg, 255, .plain⟩, ⟨8, 1, .rw, .cfg, 1, .plain⟩, ⟨9, 1, .rw, .cfg, 0, .plain⟩, ⟨10, 1, .rw, .cfg, 0, .plain⟩]⟩,
  ⟨"PWR_STBY_BANKS", 0x0014, 2, 4, 1, 4, .single, [⟨0, 32, .rw, .cfg, 0, .plain⟩]⟩,
  ⟨"PWR_AVS_CFG", 0x0020, 1, 4, 1, 4, .single, [⟨0, 10, .rwl, .cfg, 750, (.clamp 650 850)⟩, ⟨10, 3, .rwl, .cfg, 0, .plain⟩, ⟨16, 1, .rwl, .cfg, 1, .plain⟩]⟩,
  ⟨"PWR_AVS_STAT", 0x0024, 1, 4, 1, 4, .single, [⟨0, 10, .ro, .stat, 0, .plain⟩, ⟨16, 10, .ro, .stat, 0, .plain⟩]⟩,
  ⟨"PWR_SUP_CFG", 0x0040, 1, 4, 1, 4, .single, [⟨0, 13, .rwl, .cfg, 620, .plain⟩, ⟨16, 13, .rwl, .cfg, 580, .plain⟩]⟩,
  ⟨"PWR_SUP_CFG", 0x0044, 1, 4, 1, 4, .single, [⟨0, 13, .rwl, .cfg, 760, .plain⟩, ⟨16, 13, .rwl, .cfg, 720, .plain⟩]⟩,
  ⟨"PWR_SUP_CFG", 0x0048, 1, 4, 1, 4, .single, [⟨0, 13, .rwl, .cfg, 1710, .plain⟩, ⟨16, 13, .rwl, .cfg, 1620, .plain⟩]⟩,
  ⟨"PWR_SUP_CFG", 0x004C, 1, 4, 1, 4, .single, [⟨0, 13, .rwl, .cfg, 855, .plain⟩, ⟨16, 13, .rwl, .cfg, 810, .plain⟩]⟩,
  ⟨"PWR_SUP_CFG", 0x0050, 1, 4, 1, 4, .single, [⟨0, 13, .rwl, .cfg, 1710, .plain⟩, ⟨16, 13, .rwl, .cfg, 1620, .plain⟩]⟩,
  ⟨"PWR_SUP_CFG", 0x0054, 1, 4, 1, 4, .single, [⟨0, 13, .rwl, .cfg, 5225, .plain⟩, ⟨16, 13, .rwl, .cfg, 4950, .plain⟩]⟩,
  ⟨"PWR_SUP_CFG", 0x0058, 1, 4, 1, 4, .single, [⟨0, 13, .rwl, .cfg, 2375, .plain⟩, ⟨16, 13, .rwl, .cfg, 2250, .plain⟩]⟩,
  ⟨"PWR_SUP_CFG", 0x005C, 1, 4, 1, 4, .single, [⟨0, 13, .rwl, .cfg, 475, .plain⟩, ⟨16, 13, .rwl, .cfg, 450, .plain⟩]⟩,
  ⟨"PWR_SUP_CFG", 0x0060, 1, 4, 1, 4, .single, [⟨0, 13, .rwl, .cfg, 808, .plain⟩, ⟨16, 13, .rwl, .cfg, 765, .plain⟩]⟩,
  ⟨"PWR_SUP_STAT", 0x0080, 1, 4, 1, 4, .single, [⟨0, 9, .ro, .stat, 0, .plain⟩, ⟨16, 9, .w1c, .ops, 0, .plain⟩]⟩,
  ⟨"PWR_SUP_MV", 0x0090, 9, 4, 1, 4, .single, [⟨0, 13, .ro, .stat, 0, .plain⟩]⟩,
  ⟨"PWR_TWI_COUNT", 0x00C0, 1, 4, 1, 4, .single, [⟨0, 32, .ro, .stat, 0, .plain⟩]⟩]

/-- Registers of the PWR block (R565 to R571), part 2. -/
def pwrRegs2 : List RegDesc := [
  ⟨"PWR_TWI_TIME", 0x00C4, 1, 4, 1, 4, .single, [⟨0, 32, .ro, .stat, 0, .plain⟩]⟩,
  ⟨"PWR_THERM_CFG", 0x0100, 1, 4, 1, 4, .single, [⟨0, 8, .rwl, .cfg, 95, (.clamp 60 105)⟩, ⟨8, 8, .rwl, .cfg, 105, .plain⟩, ⟨16, 4, .rw, .cfg, 5, .plain⟩, ⟨24, 1, .rw, .cfg, 0, .plain⟩]⟩,
  ⟨"PWR_TEMP", 0x0110, 9, 4, 1, 4, .single, [⟨0, 8, .ro, .stat, 0, .plain⟩, ⟨8, 8, .ro, .stat, 0, .plain⟩]⟩]

/-- All registers of the PWR block (R565 to R571). -/
def pwrRegs : List RegDesc :=
  pwrRegs1 ++ pwrRegs2

/-- Registers of the TB block (R56 to R67). -/
def tbRegs : List RegDesc := [
  ⟨"TB_REF_CFG", 0x0000, 1, 4, 1, 4, .single, [⟨0, 2, .rwl, .cfg, 3, .plain⟩, ⟨2, 2, .rwl, .cfg, 3, .plain⟩, ⟨4, 2, .rwl, .cfg, 0, .plain⟩, ⟨6, 1, .rwl, .cfg, 1, .plain⟩]⟩,
  ⟨"TB_REF_STATUS", 0x0004, 1, 4, 1, 4, .single, [⟨0, 1, .ro, .stat, 0, .plain⟩, ⟨1, 1, .ro, .stat, 0, .plain⟩, ⟨2, 1, .ro, .stat, 0, .plain⟩, ⟨3, 1, .ro, .stat, 0, .plain⟩, ⟨4, 1, .ro, .stat, 0, .plain⟩, ⟨5, 1, .ro, .stat, 0, .plain⟩, ⟨8, 1, .w1c, .ops, 0, .plain⟩, ⟨9, 1, .w1c, .ops, 0, .plain⟩, ⟨10, 1, .w1c, .ops, 0, .plain⟩, ⟨11, 1, .w1c, .ops, 0, .plain⟩, ⟨16, 16, .ro, .stat, 0, .plain⟩]⟩,
  ⟨"TB_MERIDIAN_LO", 0x0010, 1, 4, 1, 4, .single, [⟨0, 32, .ro, .stat, 0, .plain⟩]⟩,
  ⟨"TB_MERIDIAN_HI", 0x0014, 1, 4, 1, 4, .single, [⟨0, 32, .ro, .stat, 0, .plain⟩]⟩,
  ⟨"TB_MERIDIAN_FINE", 0x0018, 1, 4, 1, 4, .single, [⟨0, 11, .ro, .stat, 0, .plain⟩]⟩,
  ⟨"TB_EPOCH_CFG", 0x0020, 1, 4, 1, 4, .single, [⟨0, 2, .rwl, .cfg, 0, (.keep 3 3)⟩, ⟨8, 8, .rwl, .cfg, 1, .plain⟩, ⟨16, 16, .rwl, .cfg, 1000, .plain⟩]⟩,
  ⟨"TB_EPOCH_CMD", 0x0024, 1, 4, 1, 4, .single, [⟨0, 1, .w1s, .ops, 0, .plain⟩, ⟨1, 1, .w1s, .ops, 0, .plain⟩]⟩,
  ⟨"TB_EPOCH_NEXT_LO", 0x0028, 1, 4, 1, 4, .low, [⟨0, 32, .rw, .cfg, 0, .plain⟩]⟩,
  ⟨"TB_EPOCH_NEXT_HI", 0x002C, 1, 4, 1, 4, .high, [⟨0, 32, .rw, .cfg, 0, .plain⟩]⟩,
  ⟨"TB_EPOCH_INTERVAL", 0x0030, 1, 4, 1, 4, .single, [⟨0, 32, .rwl, .cfg, 0, .plain⟩]⟩,
  ⟨"TB_EPOCH_OFFSET", 0x0034, 1, 4, 1, 4, .single, [⟨0, 32, .rwl, .cfg, 0, .plain⟩]⟩,
  ⟨"TB_EPOCH_DEV", 0x0038, 1, 4, 1, 4, .single, [⟨0, 32, .ro, .stat, 0, .plain⟩]⟩,
  ⟨"TB_EPOCH_STATUS", 0x003C, 1, 4, 1, 4, .single, [⟨0, 1, .ro, .stat, 0, .plain⟩, ⟨1, 1, .w1c, .ops, 0, .plain⟩, ⟨2, 1, .w1c, .ops, 0, .plain⟩, ⟨3, 1, .w1c, .ops, 0, .plain⟩, ⟨4, 1, .w1c, .ops, 0, .plain⟩, ⟨5, 1, .w1c, .ops, 0, .plain⟩, ⟨6, 1, .ro, .stat, 0, .plain⟩]⟩,
  ⟨"TB_FSYNC_CFG", 0x0040, 4, 4, 1, 4, .single, [⟨0, 4, .rwl, .cfg, 2, .plain⟩, ⟨4, 1, .rwl, .cfg, 0, .plain⟩, ⟨5, 1, .rwl, .cfg, 0, .plain⟩, ⟨8, 16, .rwl, .cfg, 16, (.clamp 16 65535)⟩]⟩,
  ⟨"TB_FSYNC_STATUS", 0x0050, 1, 4, 1, 4, .single, [⟨0, 1, .w1c, .ops, 0, .plain⟩, ⟨1, 1, .w1c, .ops, 0, .plain⟩, ⟨2, 1, .w1c, .ops, 0, .plain⟩, ⟨3, 1, .w1c, .ops, 0, .plain⟩, ⟨4, 1, .w1c, .ops, 0, .plain⟩, ⟨5, 1, .w1c, .ops, 0, .plain⟩, ⟨6, 1, .w1c, .ops, 0, .plain⟩, ⟨7, 1, .w1c, .ops, 0, .plain⟩, ⟨8, 1, .w1c, .ops, 0, .plain⟩, ⟨9, 1, .w1c, .ops, 0, .plain⟩, ⟨10, 1, .w1c, .ops, 0, .plain⟩, ⟨11, 1, .w1c, .ops, 0, .plain⟩]⟩,
  ⟨"TB_FSYNC_DELTA", 0x0060, 4, 4, 1, 4, .single, [⟨0, 16, .ro, .stat, 0, .plain⟩, ⟨16, 16, .ro, .stat, 0, .plain⟩]⟩,
  ⟨"TB_GRID_MODE", 0x0070, 1, 4, 1, 4, .single, [⟨0, 1, .rwl, .cfg, 0, .plain⟩, ⟨1, 1, .rwl, .cfg, 0, .plain⟩, ⟨2, 1, .rwl, .cfg, 0, .plain⟩, ⟨3, 1, .rwl, .cfg, 0, .plain⟩, ⟨4, 1, .rwl, .cfg, 0, .plain⟩, ⟨5, 1, .rwl, .cfg, 0, .plain⟩, ⟨6, 1, .rwl, .cfg, 0, .plain⟩, ⟨7, 1, .rwl, .cfg, 0, .plain⟩, ⟨8, 1, .rwl, .cfg, 0, .plain⟩, ⟨9, 1, .rwl, .cfg, 0, .plain⟩, ⟨10, 1, .rwl, .cfg, 0, .plain⟩, ⟨11, 1, .rwl, .cfg, 0, .plain⟩, ⟨12, 1, .rwl, .cfg, 0, .plain⟩, ⟨13, 1, .rwl, .cfg, 0, .plain⟩, ⟨14, 1, .rwl, .cfg, 0, .plain⟩, ⟨15, 1, .rwl, .cfg, 0, .plain⟩]⟩,
  ⟨"TB_GRID_ANCHOR", 0x0080, 16, 4, 1, 4, .single, [⟨0, 32, .rwl, .cfg, 0, .plain⟩]⟩]

/-- Registers of the MEM block (R421 to R426). -/
def memRegs : List RegDesc := [
  ⟨"MEM_CFG", 0x0000, 1, 4, 1, 4, .single, [⟨0, 1, .rwl, .cfg, 1, .plain⟩, ⟨1, 1, .rw, .cfg, 1, .plain⟩]⟩,
  ⟨"MEM_SCRUB_PERIOD", 0x0004, 1, 4, 1, 4, .single, [⟨0, 16, .rw, .cfg, 1000, .plain⟩]⟩,
  ⟨"MEM_STATUS", 0x0008, 1, 4, 1, 4, .single, [⟨0, 1, .w1c, .ops, 0, .plain⟩, ⟨1, 1, .w1c, .ops, 0, .plain⟩, ⟨2, 1, .w1c, .ops, 0, .plain⟩, ⟨3, 1, .w1c, .ops, 0, .plain⟩, ⟨4, 1, .w1c, .ops, 0, .plain⟩, ⟨5, 1, .w1c, .ops, 0, .plain⟩, ⟨6, 1, .ro, .stat, 0, .plain⟩, ⟨7, 1, .ro, .stat, 0, .plain⟩, ⟨8, 1, .w1c, .ops, 0, .plain⟩, ⟨16, 3, .ro, .stat, 4, .plain⟩]⟩,
  ⟨"MEM_CE_COUNT", 0x0010, 1, 4, 1, 4, .single, [⟨0, 32, .ro, .stat, 0, .plain⟩]⟩,
  ⟨"MEM_UE_COUNT", 0x0014, 1, 4, 1, 4, .single, [⟨0, 32, .ro, .stat, 0, .plain⟩]⟩,
  ⟨"MEM_COLL_COUNT", 0x0018, 1, 4, 1, 4, .single, [⟨0, 32, .ro, .stat, 0, .plain⟩]⟩,
  ⟨"MEM_UE_ADDR", 0x0020, 1, 4, 1, 4, .single, [⟨0, 32, .ro, .stat, 0, .plain⟩]⟩,
  ⟨"MEM_COLL_ADDR", 0x0024, 1, 4, 1, 4, .single, [⟨0, 32, .ro, .stat, 0, .plain⟩]⟩,
  ⟨"MEM_CMD", 0x0028, 1, 4, 1, 4, .single, [⟨0, 6, .wo, .ops, 0, .plain⟩, ⟨8, 1, .wo, .ops, 0, .plain⟩, ⟨9, 1, .wo, .ops, 0, .plain⟩]⟩,
  ⟨"MEM_BANK_CTRL", 0x0040, 4, 4, 1, 4, .single, [⟨0, 2, .rw, .cfg, 0, (.keep 3 3)⟩, ⟨2, 2, .rw, .cfg, 0, (.keep 3 3)⟩, ⟨4, 2, .rw, .cfg, 0, (.keep 3 3)⟩, ⟨6, 2, .rw, .cfg, 0, (.keep 3 3)⟩, ⟨8, 2, .rw, .cfg, 0, (.keep 3 3)⟩, ⟨10, 2, .rw, .cfg, 0, (.keep 3 3)⟩, ⟨12, 2, .rw, .cfg, 0, (.keep 3 3)⟩, ⟨14, 2, .rw, .cfg, 0, (.keep 3 3)⟩, ⟨16, 2, .rw, .cfg, 0, (.keep 3 3)⟩, ⟨18, 2, .rw, .cfg, 0, (.keep 3 3)⟩, ⟨20, 2, .rw, .cfg, 0, (.keep 3 3)⟩, ⟨22, 2, .rw, .cfg, 0, (.keep 3 3)⟩, ⟨24, 2, .rw, .cfg, 0, (.keep 3 3)⟩, ⟨26, 2, .rw, .cfg, 0, (.keep 3 3)⟩, ⟨28, 2, .rw, .cfg, 0, (.keep 3 3)⟩, ⟨30, 2, .rw, .cfg, 0, (.keep 3 3)⟩]⟩,
  ⟨"MEM_BANK_STATE", 0x0050, 4, 4, 1, 4, .single, [⟨0, 2, .ro, .stat, 0, .plain⟩, ⟨2, 2, .ro, .stat, 0, .plain⟩, ⟨4, 2, .ro, .stat, 0, .plain⟩, ⟨6, 2, .ro, .stat, 0, .plain⟩, ⟨8, 2, .ro, .stat, 0, .plain⟩, ⟨10, 2, .ro, .stat, 0, .plain⟩, ⟨12, 2, .ro, .stat, 0, .plain⟩, ⟨14, 2, .ro, .stat, 0, .plain⟩, ⟨16, 2, .ro, .stat, 0, .plain⟩, ⟨18, 2, .ro, .stat, 0, .plain⟩, ⟨20, 2, .ro, .stat, 0, .plain⟩, ⟨22, 2, .ro, .stat, 0, .plain⟩, ⟨24, 2, .ro, .stat, 0, .plain⟩, ⟨26, 2, .ro, .stat, 0, .plain⟩, ⟨28, 2, .ro, .stat, 0, .plain⟩, ⟨30, 2, .ro, .stat, 0, .plain⟩]⟩,
  ⟨"MEM_BIST_CFG", 0x0060, 1, 4, 1, 4, .single, [⟨0, 1, .rw, .cfg, 0, .plain⟩, ⟨16, 16, .rw, .cfg, 1000, .plain⟩]⟩,
  ⟨"MEM_BIST_STAT", 0x0064, 1, 4, 1, 4, .single, [⟨0, 2, .ro, .stat, 0, .plain⟩, ⟨2, 6, .ro, .stat, 0, .plain⟩, ⟨8, 7, .ro, .stat, 0, .plain⟩, ⟨16, 16, .ro, .stat, 0, .plain⟩]⟩,
  ⟨"MEM_RETIRED", 0x0070, 3, 4, 1, 4, .single, [⟨0, 32, .ro, .stat, 0, .plain⟩]⟩,
  ⟨"MEM_MAP", 0x0100, 64, 4, 1, 4, .single, [⟨0, 7, .ro, .stat, 0, .plain⟩]⟩]

/-- Registers of the DRC block (R449 to R456). -/
def drcRegs : List RegDesc := [
  ⟨"DRC_CFG", 0x0000, 1, 4, 1, 4, .single, [⟨0, 2, .rwl, .cfg, 0, .plain⟩, ⟨2, 2, .rwl, .cfg, 2, .plain⟩, ⟨4, 1, .rwl, .cfg, 0, .plain⟩, ⟨5, 2, .rwl, .cfg, 1, .plain⟩, ⟨7, 2, .rwl, .cfg, 0, .plain⟩, ⟨9, 1, .rw, .cfg, 1, .plain⟩, ⟨10, 1, .rw, .cfg, 1, .plain⟩]⟩,
  ⟨"DRC_STATUS", 0x0004, 1, 4, 1, 4, .single, [⟨0, 3, .ro, .stat, 0, .plain⟩, ⟨3, 2, .ro, .stat, 0, .plain⟩, ⟨5, 1, .ro, .stat, 0, .plain⟩, ⟨6, 1, .w1c, .ops, 0, .plain⟩, ⟨7, 1, .w1c, .ops, 0, .plain⟩, ⟨8, 1, .w1c, .ops, 0, .plain⟩, ⟨9, 1, .w1c, .ops, 0, .plain⟩, ⟨10, 1, .w1c, .ops, 0, .plain⟩, ⟨11, 1, .w1c, .ops, 0, .plain⟩, ⟨12, 1, .w1c, .ops, 0, .plain⟩, ⟨13, 1, .w1c, .ops, 0, .plain⟩, ⟨14, 1, .w1c, .ops, 0, .plain⟩, ⟨16, 8, .ro, .stat, 0, .plain⟩]⟩,
  ⟨"DRC_USABLE_LO", 0x0008, 1, 4, 1, 4, .low, [⟨0, 32, .ro, .stat, 0, .plain⟩]⟩,
  ⟨"DRC_USABLE_HI", 0x000C, 1, 4, 1, 4, .high, [⟨0, 32, .ro, .stat, 0, .plain⟩]⟩,
  ⟨"DRC_SP", 0x0010, 1, 4, 1, 4, .single, [⟨0, 3, .rwl, .cfg, 5, .plain⟩, ⟨3, 1, .rwl, .cfg, 1, .plain⟩, ⟨4, 1, .ro, .stat, 0, .plain⟩, ⟨5, 1, .ro, .stat, 0, .plain⟩]⟩,
  ⟨"DRC_SP", 0x0014, 3, 4, 1, 4, .single, [⟨0, 3, .rwl, .cfg, 5, .plain⟩, ⟨3, 1, .rwl, .cfg, 0, .plain⟩, ⟨4, 1, .ro, .stat, 0, .plain⟩, ⟨5, 1, .ro, .stat, 0, .plain⟩]⟩,
  ⟨"DRC_FSP_CMD", 0x0020, 1, 4, 1, 4, .single, [⟨0, 2, .wo, .ops, 0, .plain⟩, ⟨8, 1, .wo, .ops, 0, .plain⟩]⟩,
  ⟨"DRC_TRAIN_CMD", 0x0024, 1, 4, 1, 4, .single, [⟨0, 1, .w1s, .ops, 0, .plain⟩]⟩,
  ⟨"DRC_TRAIN_LIMIT", 0x0028, 1, 4, 1, 4, .single, [⟨0, 8, .rw, .cfg, 30, .plain⟩, ⟨16, 8, .rw, .cfg, 60, .plain⟩]⟩,
  ⟨"DRC_REF_CFG", 0x002C, 1, 4, 1, 4, .single, [⟨0, 14, .rwl, .cfg, 0, (.clamp 0 12499)⟩]⟩,
  ⟨"DRC_PWR_CTRL", 0x0030, 1, 4, 1, 4, .single, [⟨0, 2, .rw, .cfg, 0, (.keep 3 3)⟩, ⟨8, 7, .rw, .cfg, 127, .plain⟩]⟩,
  ⟨"DRC_SCRUB_PERIOD", 0x0034, 1, 4, 1, 4, .single, [⟨0, 16, .rw, .cfg, 3600, .plain⟩]⟩,
  ⟨"DRC_CE_COUNT", 0x0040, 1, 4, 1, 4, .single, [⟨0, 32, .ro, .stat, 0, .plain⟩]⟩,
  ⟨"DRC_UE_COUNT", 0x0044, 1, 4, 1, 4, .single, [⟨0, 32, .ro, .stat, 0, .plain⟩]⟩,
  ⟨"DRC_UE_ADDR_LO", 0x0048, 1, 4, 1, 4, .low, [⟨0, 32, .ro, .stat, 0, .plain⟩]⟩,
  ⟨"DRC_UE_ADDR_HI", 0x004C, 1, 4, 1, 4, .high, [⟨0, 32, .ro, .stat, 0, .plain⟩]⟩,
  ⟨"DRC_CMD", 0x0050, 1, 4, 1, 4, .single, [⟨0, 1, .wo, .ops, 0, .plain⟩]⟩,
  ⟨"DRC_EYE_RD", 0x0100, 32, 8, 1, 4, .single, [⟨0, 16, .ro, .stat, 0, .plain⟩, ⟨16, 16, .ro, .stat, 0, .plain⟩]⟩,
  ⟨"DRC_EYE_WR", 0x0104, 32, 8, 1, 4, .single, [⟨0, 16, .ro, .stat, 0, .plain⟩, ⟨16, 16, .ro, .stat, 0, .plain⟩]⟩]

/-- Registers of the DMA block (R470, R471). -/
def dmaRegs : List RegDesc := [
  ⟨"DMA_STATUS", 0x0004, 1, 4, 1, 4, .single, [⟨0, 16, .ro, .stat, 0, .plain⟩, ⟨16, 16, .w1c, .ops, 0, .plain⟩]⟩,
  ⟨"DMA_CH_CTRL", 0x0100, 16, 64, 1, 4, .single, [⟨0, 1, .rw, .cfg, 0, .plain⟩, ⟨1, 1, .w1s, .ops, 0, .plain⟩, ⟨2, 1, .rw, .cfg, 0, .plain⟩, ⟨4, 2, .rw, .cfg, 3, .plain⟩]⟩,
  ⟨"DMA_CH_RING_BASE", 0x0104, 16, 64, 1, 4, .single, [⟨0, 32, .rw, .cfg, 0, .plain⟩]⟩,
  ⟨"DMA_CH_RING_SIZE", 0x0108, 16, 64, 1, 4, .single, [⟨0, 17, .rw, .cfg, 0, .plain⟩]⟩,
  ⟨"DMA_CH_DOORBELL", 0x010C, 16, 64, 1, 4, .single, [⟨0, 1, .wo, .ops, 0, .plain⟩]⟩,
  ⟨"DMA_CH_POS", 0x0110, 16, 64, 1, 4, .single, [⟨0, 16, .rw, .ops, 0, .plain⟩]⟩,
  ⟨"DMA_CH_STATUS", 0x0114, 16, 64, 1, 4, .single, [⟨0, 3, .ro, .stat, 0, .plain⟩, ⟨3, 1, .w1c, .ops, 0, .plain⟩, ⟨8, 8, .ro, .stat, 0, .plain⟩]⟩,
  ⟨"DMA_CH_DONE_CNT", 0x0118, 16, 64, 1, 4, .single, [⟨0, 32, .ro, .stat, 0, .plain⟩]⟩,
  ⟨"DMA_CH_ERR_CNT", 0x011C, 16, 64, 1, 4, .single, [⟨0, 32, .ro, .stat, 0, .plain⟩]⟩,
  ⟨"DMA_CH_CUR_DONE", 0x0120, 16, 64, 1, 4, .single, [⟨0, 32, .ro, .stat, 0, .plain⟩]⟩]

/-- Registers of the XE block (R329 to R331), part 1. -/
def xeRegs1 : List RegDesc := [
  ⟨"XE_STATUS", 0x0000, 1, 4, 1, 4, .single, [⟨0, 1, .w1c, .ops, 0, .plain⟩, ⟨1, 1, .w1c, .ops, 0, .plain⟩, ⟨2, 1, .w1c, .ops, 0, .plain⟩]⟩,
  ⟨"XE_TPL_BASE", 0x0004, 1, 4, 1, 4, .single, [⟨0, 32, .rw, .cfg, 0, .plain⟩]⟩,
  ⟨"XE_TPL_COUNT", 0x0008, 1, 4, 1, 4, .single, [⟨0, 8, .rw, .cfg, 0, .plain⟩]⟩,
  ⟨"XE_RATE", 0x000C, 1, 4, 1, 4, .single, [⟨0, 16, .ro, .stat, 0, .plain⟩]⟩,
  ⟨"XE_SITE_TS", 0x0100, 16, 64, 1, 4, .single, [⟨0, 6, .rw, .cfg, 0, .plain⟩]⟩,
  ⟨"XE_SITE_LIST_BASE", 0x0104, 16, 64, 1, 4, .single, [⟨0, 32, .rw, .cfg, 0, .plain⟩]⟩,
  ⟨"XE_SITE_LIST_COUNT", 0x0108, 16, 64, 1, 4, .single, [⟨0, 16, .rw, .cfg, 0, .plain⟩]⟩,
  ⟨"XE_SITE_RES_BASE_LO", 0x010C, 16, 64, 1, 4, .low, [⟨0, 32, .rw, .cfg, 0, .plain⟩]⟩,
  ⟨"XE_SITE_RES_BASE_HI", 0x0110, 16, 64, 1, 4, .high, [⟨0, 32, .rw, .cfg, 0, .plain⟩]⟩,
  ⟨"XE_SITE_RES_SIZE", 0x0114, 16, 64, 1, 4, .single, [⟨0, 32, .rw, .cfg, 0, .plain⟩]⟩,
  ⟨"XE_SITE_RES_HEAD", 0x0118, 16, 64, 1, 4, .single, [⟨0, 32, .ro, .stat, 0, .plain⟩]⟩,
  ⟨"XE_SITE_RES_TAIL", 0x011C, 16, 64, 1, 4, .single, [⟨0, 32, .rw, .ops, 0, .plain⟩]⟩,
  ⟨"XE_SITE_RES_DROPPED", 0x0120, 16, 64, 1, 4, .single, [⟨0, 32, .ro, .stat, 0, .plain⟩]⟩,
  ⟨"XE_SITE_OK", 0x0124, 16, 64, 1, 4, .single, [⟨0, 32, .ro, .stat, 0, .plain⟩]⟩,
  ⟨"XE_SITE_ERR", 0x0128, 16, 64, 1, 4, .single, [⟨0, 32, .ro, .stat, 0, .plain⟩]⟩,
  ⟨"XE_SITE_CMD", 0x012C, 16, 64, 1, 4, .single, [⟨0, 16, .wo, .ops, 0, .plain⟩, ⟨16, 1, .wo, .ops, 0, .plain⟩]⟩,
  ⟨"XE_SITE_STAT", 0x0130, 16, 64, 1, 4, .single, [⟨0, 1, .ro, .stat, 0, .plain⟩, ⟨1, 1, .w1c, .ops, 0, .plain⟩, ⟨2, 1, .w1c, .ops, 0, .plain⟩, ⟨3, 1, .w1c, .ops, 0, .plain⟩, ⟨16, 16, .ro, .stat, 0, .plain⟩]⟩,
  ⟨"XE_PORT_CFG", 0x1000, 128, 32, 1, 4, .single, [⟨0, 1, .rw, .cfg, 0, .plain⟩, ⟨1, 4, .rw, .cfg, 0, .plain⟩, ⟨5, 8, .rw, .cfg, 0, .plain⟩, ⟨13, 4, .rw, .cfg, 0, .plain⟩, ⟨17, 6, .rw, .cfg, 0, .plain⟩]⟩,
  ⟨"XE_PORT_PARK", 0x1004, 128, 32, 1, 4, .single, [⟨0, 4, .rw, .cfg, 0, .plain⟩, ⟨4, 4, .rw, .cfg, 0, .plain⟩, ⟨8, 4, .rw, .cfg, 0, .plain⟩, ⟨12, 4, .rw, .cfg, 0, .plain⟩, ⟨16, 4, .rw, .cfg, 0, .plain⟩, ⟨20, 4, .rw, .cfg, 0, .plain⟩, ⟨24, 4, .rw, .cfg, 0, .plain⟩, ⟨28, 4, .rw, .cfg, 0, .plain⟩]⟩,
  ⟨"XE_PORT_ROLE", 0x1008, 128, 32, 4, 4, .single, [⟨0, 9, .rw, .cfg, 0, .plain⟩, ⟨16, 9, .rw, .cfg, 0, .plain⟩]⟩]

/-- Registers of the XE block (R329 to R331), part 2. -/
def xeRegs2 : List RegDesc := [
  ⟨"XE_PORT_STAT", 0x1018, 128, 32, 1, 4, .single, [⟨0, 1, .ro, .stat, 0, .plain⟩, ⟨1, 1, .ro, .stat, 0, .plain⟩, ⟨2, 5, .ro, .stat, 0, .plain⟩, ⟨8, 8, .ro, .stat, 0, .plain⟩]⟩,
  ⟨"XE_PORT_STEPS", 0x101C, 128, 32, 1, 4, .single, [⟨0, 32, .ro, .stat, 0, .plain⟩]⟩]

/-- All registers of the XE block (R329 to R331). -/
def xeRegs : List RegDesc :=
  xeRegs1 ++ xeRegs2

/-- Registers of the RED block (R298 to R303), part 1. -/
def redRegs1 : List RegDesc := [
  ⟨"RED_STATUS", 0x0004, 1, 4, 1, 4, .single, [⟨0, 1, .w1c, .ops, 0, .plain⟩, ⟨1, 1, .w1c, .ops, 0, .plain⟩, ⟨2, 1, .w1c, .ops, 0, .plain⟩, ⟨3, 1, .w1c, .ops, 0, .plain⟩, ⟨4, 1, .w1c, .ops, 0, .plain⟩, ⟨5, 1, .ro, .stat, 0, .plain⟩]⟩,
  ⟨"RED_SNAP_CMD", 0x0010, 1, 4, 1, 4, .single, [⟨0, 10, .wo, .ops, 0, .plain⟩, ⟨16, 1, .wo, .ops, 0, .plain⟩]⟩,
  ⟨"RED_SNAP_STAT", 0x0014, 1, 4, 1, 4, .single, [⟨0, 1, .ro, .stat, 0, .plain⟩, ⟨1, 1, .ro, .stat, 0, .plain⟩, ⟨16, 10, .ro, .stat, 0, .plain⟩]⟩,
  ⟨"RED_SNAP_COUNT_LO", 0x0020, 1, 4, 1, 4, .low, [⟨0, 32, .ro, .stat, 0, .plain⟩]⟩,
  ⟨"RED_SNAP_COUNT_HI", 0x0024, 1, 4, 1, 4, .high, [⟨0, 32, .ro, .stat, 0, .plain⟩]⟩,
  ⟨"RED_SNAP_MEAN_LO", 0x0028, 1, 4, 1, 4, .low, [⟨0, 32, .ro, .stat, 0, .plain⟩]⟩,
  ⟨"RED_SNAP_MEAN_HI", 0x002C, 1, 4, 1, 4, .high, [⟨0, 32, .ro, .stat, 0, .plain⟩]⟩,
  ⟨"RED_SNAP_SD_LO", 0x0030, 1, 4, 1, 4, .low, [⟨0, 32, .ro, .stat, 0, .plain⟩]⟩,
  ⟨"RED_SNAP_SD_HI", 0x0034, 1, 4, 1, 4, .high, [⟨0, 32, .ro, .stat, 0, .plain⟩]⟩,
  ⟨"RED_SNAP_MIN_LO", 0x0038, 1, 4, 1, 4, .low, [⟨0, 32, .ro, .stat, 0, .plain⟩]⟩,
  ⟨"RED_SNAP_MIN_HI", 0x003C, 1, 4, 1, 4, .high, [⟨0, 32, .ro, .stat, 0, .plain⟩]⟩,
  ⟨"RED_SNAP_MAX_LO", 0x0040, 1, 4, 1, 4, .low, [⟨0, 32, .ro, .stat, 0, .plain⟩]⟩,
  ⟨"RED_SNAP_MAX_HI", 0x0044, 1, 4, 1, 4, .high, [⟨0, 32, .ro, .stat, 0, .plain⟩]⟩,
  ⟨"RED_SNAP_DROPPED_LO", 0x0048, 1, 4, 1, 4, .low, [⟨0, 32, .ro, .stat, 0, .plain⟩]⟩,
  ⟨"RED_SNAP_DROPPED_HI", 0x004C, 1, 4, 1, 4, .high, [⟨0, 32, .ro, .stat, 0, .plain⟩]⟩,
  ⟨"RED_SNAP_FLAGS", 0x0050, 1, 4, 1, 4, .single, [⟨0, 1, .ro, .stat, 0, .plain⟩, ⟨1, 1, .ro, .stat, 0, .plain⟩, ⟨2, 1, .ro, .stat, 0, .plain⟩]⟩,
  ⟨"RED_CLR_CMD", 0x0060, 1, 4, 1, 4, .single, [⟨0, 10, .wo, .ops, 0, .plain⟩, ⟨16, 10, .wo, .ops, 0, .plain⟩, ⟨31, 1, .wo, .ops, 0, .plain⟩]⟩,
  ⟨"RED_DUMP_ADDR_LO", 0x0068, 1, 4, 1, 4, .low, [⟨0, 32, .rw, .cfg, 0, .plain⟩]⟩,
  ⟨"RED_DUMP_ADDR_HI", 0x006C, 1, 4, 1, 4, .high, [⟨0, 32, .rw, .cfg, 0, .plain⟩]⟩,
  ⟨"RED_DUMP_CMD", 0x0070, 1, 4, 1, 4, .single, [⟨0, 10, .wo, .ops, 0, .plain⟩, ⟨16, 10, .wo, .ops, 0, .plain⟩, ⟨31, 1, .wo, .ops, 0, .plain⟩]⟩]

/-- Registers of the RED block (R298 to R303), part 2. -/
def redRegs2 : List RegDesc := [
  ⟨"RED_IVL_BASE_LO", 0x0080, 1, 4, 1, 4, .low, [⟨0, 32, .rw, .cfg, 0, .plain⟩]⟩,
  ⟨"RED_IVL_BASE_HI", 0x0084, 1, 4, 1, 4, .high, [⟨0, 32, .rw, .cfg, 0, .plain⟩]⟩,
  ⟨"RED_IVL_SIZE", 0x0088, 1, 4, 1, 4, .single, [⟨0, 32, .rw, .cfg, 0, .plain⟩]⟩,
  ⟨"RED_IVL_HEAD", 0x008C, 1, 4, 1, 4, .single, [⟨0, 32, .ro, .stat, 0, .plain⟩]⟩,
  ⟨"RED_IVL_TAIL", 0x0090, 1, 4, 1, 4, .single, [⟨0, 32, .rw, .ops, 0, .plain⟩]⟩,
  ⟨"RED_IVL_DROPPED", 0x0094, 1, 4, 1, 4, .single, [⟨0, 32, .ro, .stat, 0, .plain⟩]⟩,
  ⟨"RED_ACC_CFG", 0x1000, 1024, 4, 1, 4, .single, [⟨0, 16, .rw, .cfg, 0, .plain⟩, ⟨16, 4, .rw, .cfg, 0, .plain⟩, ⟨20, 1, .rw, .cfg, 0, .plain⟩]⟩]

/-- All registers of the RED block (R298 to R303). -/
def redRegs : List RegDesc :=
  redRegs1 ++ redRegs2

/-- Registers of the SVC block (R352 to R355), part 1. -/
def svcRegs1 : List RegDesc := [
  ⟨"SVC_CFG", 0x1000, 16, 256, 1, 4, .single, [⟨0, 10, .rw, .cfg, 0, .plain⟩, ⟨10, 1, .rwl, .cfg, 0, .plain⟩, ⟨11, 8, .rw, .cfg, 0, .plain⟩]⟩,
  ⟨"SVC_FLOW_BASE", 0x1004, 16, 256, 1, 4, .single, [⟨0, 32, .rw, .cfg, 0, .plain⟩]⟩,
  ⟨"SVC_FLOW_COUNT", 0x1008, 16, 256, 1, 4, .single, [⟨0, 11, .rw, .cfg, 0, .plain⟩]⟩,
  ⟨"SVC_HTAB_BASE", 0x100C, 16, 256, 1, 4, .single, [⟨0, 32, .rw, .cfg, 0, .plain⟩]⟩,
  ⟨"SVC_HTAB_COUNT", 0x1010, 16, 256, 1, 4, .single, [⟨0, 7, .rw, .cfg, 0, .plain⟩]⟩,
  ⟨"SVC_CMD", 0x1014, 16, 256, 1, 4, .single, [⟨0, 1, .w1s, .ops, 0, .plain⟩, ⟨1, 1, .w1s, .ops, 0, .plain⟩, ⟨2, 1, .w1s, .ops, 0, .plain⟩, ⟨3, 1, .w1s, .ops, 0, .plain⟩, ⟨4, 1, .w1s, .ops, 0, .plain⟩]⟩,
  ⟨"SVC_STAT", 0x1018, 16, 256, 1, 4, .single, [⟨0, 3, .ro, .stat, 0, .plain⟩, ⟨3, 1, .ro, .stat, 0, .plain⟩, ⟨4, 1, .w1c, .ops, 0, .plain⟩, ⟨5, 1, .w1c, .ops, 0, .plain⟩, ⟨6, 10, .ro, .stat, 0, .plain⟩, ⟨16, 8, .ro, .stat, 0, .plain⟩]⟩,
  ⟨"SVC_RUN", 0x101C, 16, 256, 1, 4, .single, [⟨0, 32, .ro, .stat, 0, .plain⟩]⟩,
  ⟨"SVC_LASTBIN", 0x1020, 16, 256, 1, 4, .single, [⟨0, 8, .ro, .stat, 0, .plain⟩]⟩,
  ⟨"SVC_DLOG_BASE_LO", 0x1024, 16, 256, 1, 4, .low, [⟨0, 32, .rw, .cfg, 0, .plain⟩]⟩,
  ⟨"SVC_DLOG_BASE_HI", 0x1028, 16, 256, 1, 4, .high, [⟨0, 32, .rw, .cfg, 0, .plain⟩]⟩,
  ⟨"SVC_DLOG_SIZE", 0x102C, 16, 256, 1, 4, .single, [⟨0, 32, .rw, .cfg, 0, .plain⟩]⟩,
  ⟨"SVC_DLOG_HEAD", 0x1030, 16, 256, 1, 4, .single, [⟨0, 32, .ro, .stat, 0, .plain⟩]⟩,
  ⟨"SVC_DLOG_TAIL", 0x1034, 16, 256, 1, 4, .single, [⟨0, 32, .rw, .ops, 0, .plain⟩]⟩,
  ⟨"SVC_DLOG_CFG", 0x1038, 16, 256, 1, 4, .single, [⟨0, 11, .rw, .cfg, 256, (.clamp 1 2047)⟩, ⟨11, 1, .rw, .cfg, 0, .plain⟩, ⟨12, 1, .rw, .cfg, 1, .plain⟩, ⟨13, 1, .rw, .cfg, 0, .plain⟩]⟩,
  ⟨"SVC_DLOG_DROPPED", 0x103C, 16, 256, 1, 4, .single, [⟨0, 32, .ro, .stat, 0, .plain⟩]⟩,
  ⟨"SVC_DLOG_STAT", 0x1040, 16, 256, 1, 4, .single, [⟨0, 1, .w1c, .ops, 0, .plain⟩, ⟨1, 1, .w1c, .ops, 0, .plain⟩, ⟨2, 1, .ro, .stat, 0, .plain⟩, ⟨3, 1, .ro, .stat, 0, .plain⟩]⟩,
  ⟨"SVC_VALID", 0x1044, 16, 256, 1, 4, .single, [⟨0, 1, .ro, .stat, 0, .plain⟩, ⟨1, 1, .ro, .stat, 0, .plain⟩, ⟨2, 1, .ro, .stat, 0, .plain⟩, ⟨3, 1, .ro, .stat, 0, .plain⟩, ⟨4, 1, .ro, .stat, 0, .plain⟩, ⟨5, 1, .ro, .stat, 0, .plain⟩, ⟨6, 1, .ro, .stat, 0, .plain⟩, ⟨7, 1, .ro, .stat, 0, .plain⟩, ⟨8, 1, .ro, .stat, 0, .plain⟩, ⟨9, 1, .ro, .stat, 0, .plain⟩, ⟨10, 1, .ro, .stat, 0, .plain⟩, ⟨11, 1, .ro, .stat, 0, .plain⟩, ⟨12, 1, .ro, .stat, 0, .plain⟩, ⟨13, 1, .ro, .stat, 0, .plain⟩, ⟨14, 1, .ro, .stat, 0, .plain⟩, ⟨15, 1, .ro, .stat, 0, .plain⟩]⟩,
  ⟨"SVC_V_LO", 0x1080, 16, 256, 16, 8, .low, [⟨0, 32, .ro, .stat, 0, .plain⟩]⟩,
  ⟨"SVC_V_HI", 0x1084, 16, 256, 16, 8, .high, [⟨0, 32, .ro, .stat, 0, .plain⟩]⟩]

/-- Registers of the SVC block (R352 to R355), part 2. -/
def svcRegs2 : List RegDesc := [
  ⟨"SVC_BINCNT", 0x8000, 16, 1024, 256, 4, .single, [⟨0, 32, .ro, .stat, 0, .plain⟩]⟩]

/-- All registers of the SVC block (R352 to R355). -/
def svcRegs : List RegDesc :=
  svcRegs1 ++ svcRegs2

/-- Registers of the IAT block (R373 to R378), part 1. -/
def iatRegs1 : List RegDesc := [
  ⟨"IAT_CFG", 0x0000, 1, 4, 1, 4, .single, [⟨0, 14, .rwl, .cfg, 0, .plain⟩, ⟨14, 1, .rwl, .cfg, 0, .plain⟩, ⟨15, 1, .rwl, .cfg, 0, .plain⟩, ⟨16, 1, .rw, .cfg, 0, .plain⟩]⟩,
  ⟨"IAT_SUBTREE", 0x0004, 1, 4, 1, 4, .single, [⟨0, 14, .rwl, .cfg, 0, .plain⟩, ⟨16, 14, .rwl, .cfg, 0, .plain⟩]⟩,
  ⟨"IAT_TIMING", 0x0008, 1, 4, 1, 4, .single, [⟨0, 16, .rwl, .cfg, 25, (.clamp 2 1000)⟩, ⟨16, 16, .rw, .cfg, 2000, .plain⟩]⟩,
  ⟨"IAT_PROBE_CFG", 0x000C, 1, 4, 1, 4, .single, [⟨0, 4, .rw, .cfg, 8, .plain⟩]⟩,
  ⟨"IAT_STATUS", 0x0010, 1, 4, 1, 4, .single, [⟨0, 1, .ro, .stat, 0, .plain⟩, ⟨1, 4, .ro, .stat, 15, .plain⟩, ⟨5, 3, .ro, .stat, 7, .plain⟩, ⟨8, 1, .w1c, .ops, 0, .plain⟩, ⟨9, 1, .w1c, .ops, 0, .plain⟩, ⟨10, 1, .w1c, .ops, 0, .plain⟩, ⟨11, 1, .w1c, .ops, 0, .plain⟩, ⟨12, 1, .w1c, .ops, 0, .plain⟩, ⟨13, 1, .ro, .stat, 0, .plain⟩]⟩,
  ⟨"IAT_EVT_STATE", 0x0014, 1, 4, 1, 4, .single, [⟨0, 32, .ro, .stat, 0, .plain⟩]⟩,
  ⟨"IAT_EVT_SET", 0x0018, 1, 4, 1, 4, .single, [⟨0, 32, .wo, .ops, 0, .plain⟩]⟩,
  ⟨"IAT_EVT_CLEAR", 0x001C, 1, 4, 1, 4, .single, [⟨0, 32, .wo, .ops, 0, .plain⟩]⟩,
  ⟨"IAT_STOP_SITES", 0x0020, 1, 4, 1, 4, .single, [⟨0, 16, .rw, .cfg, 0, .plain⟩]⟩,
  ⟨"IAT_CMD", 0x0024, 1, 4, 1, 4, .single, [⟨0, 1, .w1s, .ops, 0, .plain⟩, ⟨1, 1, .w1s, .ops, 0, .plain⟩, ⟨16, 16, .rw, .ops, 0, .plain⟩]⟩,
  ⟨"IAT_MSG_ADDR_LO", 0x0030, 1, 4, 1, 4, .low, [⟨0, 32, .rw, .ops, 0, .plain⟩]⟩,
  ⟨"IAT_MSG_ADDR_HI", 0x0034, 1, 4, 1, 4, .high, [⟨0, 32, .rw, .ops, 0, .plain⟩]⟩,
  ⟨"IAT_MSG_DATA", 0x0038, 1, 4, 1, 4, .single, [⟨0, 32, .rw, .ops, 0, .plain⟩]⟩,
  ⟨"IAT_MSG_CMD", 0x003C, 1, 4, 1, 4, .single, [⟨0, 14, .wo, .ops, 0, .plain⟩, ⟨16, 1, .wo, .ops, 0, .plain⟩, ⟨17, 1, .wo, .ops, 0, .plain⟩]⟩,
  ⟨"IAT_MSG_STAT", 0x0040, 1, 4, 1, 4, .single, [⟨0, 2, .ro, .stat, 0, .plain⟩, ⟨2, 3, .ro, .stat, 0, .plain⟩]⟩,
  ⟨"IAT_PORT_CFG", 0x0100, 6, 32, 1, 4, .single, [⟨0, 2, .rwl, .cfg, 0, .plain⟩, ⟨16, 16, .rw, .cfg, 0, .plain⟩]⟩,
  ⟨"IAT_PORT_STAT", 0x0104, 6, 32, 1, 4, .single, [⟨0, 3, .ro, .stat, 0, .plain⟩, ⟨3, 1, .ro, .stat, 0, .plain⟩, ⟨16, 14, .ro, .stat, 0, .plain⟩]⟩,
  ⟨"IAT_PORT_LAT", 0x0108, 6, 32, 1, 4, .single, [⟨0, 32, .ro, .stat, 0, .plain⟩]⟩,
  ⟨"IAT_PORT_CRC_ERR", 0x010C, 6, 32, 1, 4, .single, [⟨0, 32, .ro, .stat, 0, .plain⟩]⟩,
  ⟨"IAT_PORT_REPLAYS", 0x0110, 6, 32, 1, 4, .single, [⟨0, 32, .ro, .stat, 0, .plain⟩]⟩]

/-- Registers of the IAT block (R373 to R378), part 2. -/
def iatRegs2 : List RegDesc := [
  ⟨"IAT_EVT_MAP", 0x0200, 16, 4, 1, 4, .single, [⟨0, 4, .rw, .cfg, 0, .plain⟩, ⟨4, 5, .rw, .cfg, 0, .plain⟩, ⟨9, 1, .rw, .cfg, 0, .plain⟩]⟩]

/-- All registers of the IAT block (R373 to R378). -/
def iatRegs : List RegDesc :=
  iatRegs1 ++ iatRegs2

/-- Registers of the CAL block (R397 to R402), part 1. -/
def calRegs1 : List RegDesc := [
  ⟨"CAL_RUN_PINS", 0x0000, 1, 4, 1, 4, .single, [⟨0, 9, .rw, .cfg, 0, .plain⟩, ⟨16, 9, .rw, .cfg, 511, .plain⟩]⟩,
  ⟨"CAL_RUN_CFG", 0x0004, 1, 4, 1, 4, .single, [⟨0, 3, .rw, .cfg, 3, .plain⟩, ⟨3, 1, .rw, .cfg, 0, .plain⟩, ⟨4, 4, .rw, .cfg, 8, .plain⟩, ⟨8, 12, .rw, .cfg, 1000, (.clamp 100 1500)⟩, ⟨20, 1, .rw, .cfg, 0, .plain⟩]⟩,
  ⟨"CAL_CMD", 0x0008, 1, 4, 1, 4, .single, [⟨0, 1, .w1s, .ops, 0, .plain⟩, ⟨1, 1, .w1s, .ops, 0, .plain⟩, ⟨2, 1, .w1s, .ops, 0, .plain⟩, ⟨3, 1, .w1s, .ops, 0, .plain⟩, ⟨4, 1, .w1s, .ops, 0, .plain⟩, ⟨5, 1, .w1s, .ops, 0, .plain⟩, ⟨16, 16, .rw, .ops, 0, .plain⟩]⟩,
  ⟨"CAL_STATUS", 0x000C, 1, 4, 1, 4, .single, [⟨0, 2, .ro, .stat, 0, .plain⟩, ⟨2, 1, .ro, .stat, 0, .plain⟩, ⟨3, 1, .ro, .stat, 0, .plain⟩, ⟨4, 1, .w1c, .ops, 0, .plain⟩, ⟨5, 1, .w1c, .ops, 0, .plain⟩, ⟨6, 1, .w1c, .ops, 0, .plain⟩, ⟨16, 16, .ro, .stat, 0, .plain⟩]⟩,
  ⟨"CAL_RUN_COUNT", 0x0010, 1, 4, 1, 4, .single, [⟨0, 11, .ro, .stat, 0, .plain⟩, ⟨16, 11, .ro, .stat, 0, .plain⟩]⟩,
  ⟨"CAL_LIMITS", 0x0014, 1, 4, 1, 4, .single, [⟨0, 16, .rw, .cfg, 25, .plain⟩, ⟨16, 16, .rw, .cfg, 1000, .plain⟩]⟩,
  ⟨"CAL_QWORST", 0x0018, 1, 4, 1, 4, .single, [⟨0, 16, .ro, .stat, 0, .plain⟩, ⟨16, 16, .ro, .stat, 0, .plain⟩]⟩,
  ⟨"CAL_CFG", 0x001C, 1, 4, 1, 4, .single, [⟨0, 1, .rw, .cfg, 0, .plain⟩, ⟨1, 7, .rw, .cfg, 10, .plain⟩]⟩,
  ⟨"CAL_COMMITTED", 0x0020, 1, 4, 1, 4, .single, [⟨0, 16, .ro, .stat, 0, .plain⟩]⟩,
  ⟨"CAL_ALM_SLOT", 0x0040, 2, 4, 1, 4, .single, [⟨0, 32, .rwl, .cfg, 0, .plain⟩]⟩,
  ⟨"CAL_ALM_CMD", 0x0048, 1, 4, 1, 4, .single, [⟨0, 1, .w1s, .ops, 0, .plain⟩]⟩,
  ⟨"CAL_ALM_STAT", 0x004C, 1, 4, 1, 4, .single, [⟨0, 1, .ro, .stat, 0, .plain⟩, ⟨1, 3, .ro, .stat, 0, .plain⟩, ⟨4, 1, .ro, .stat, 0, .plain⟩, ⟨5, 1, .ro, .stat, 0, .plain⟩, ⟨6, 1, .ro, .stat, 0, .plain⟩]⟩,
  ⟨"CAL_ALM_SEQ", 0x0050, 1, 4, 1, 4, .single, [⟨0, 32, .ro, .stat, 0, .plain⟩]⟩,
  ⟨"CAL_WSG_CLH", 0x4000, 64, 8, 1, 4, .single, [⟨0, 32, .rw, .cfg, 0, .plain⟩]⟩,
  ⟨"CAL_WSG_CLL", 0x4004, 64, 8, 1, 4, .single, [⟨0, 32, .rw, .cfg, 0, .plain⟩]⟩,
  ⟨"CAL_WS_TX", 0x8000, 512, 64, 1, 4, .single, [⟨0, 32, .rw, .cfg, 0, .plain⟩]⟩,
  ⟨"CAL_WS_RX", 0x8004, 512, 64, 1, 4, .single, [⟨0, 32, .rw, .cfg, 0, .plain⟩]⟩,
  ⟨"CAL_WS_FIX", 0x8008, 512, 64, 1, 4, .single, [⟨0, 32, .rw, .cfg, 0, (.clamp 0 40000)⟩]⟩,
  ⟨"CAL_WS_LVL", 0x8010, 512, 64, 5, 4, .single, [⟨0, 32, .rw, .cfg, 0, .plain⟩]⟩,
  ⟨"CAL_WS_QUAL_T", 0x8024, 512, 64, 1, 4, .single, [⟨0, 16, .ro, .stat, 0, .plain⟩, ⟨16, 16, .ro, .stat, 0, .plain⟩]⟩]

/-- Registers of the CAL block (R397 to R402), part 2. -/
def calRegs2 : List RegDesc := [
  ⟨"CAL_WS_QUAL_L", 0x8028, 512, 64, 1, 4, .single, [⟨0, 16, .ro, .stat, 0, .plain⟩]⟩,
  ⟨"CAL_WS_STATUS", 0x802C, 512, 64, 1, 4, .single, [⟨0, 8, .ro, .stat, 0, .plain⟩, ⟨8, 8, .ro, .stat, 0, .plain⟩, ⟨16, 8, .ro, .stat, 0, .plain⟩]⟩]

/-- All registers of the CAL block (R397 to R402). -/
def calRegs : List RegDesc :=
  calRegs1 ++ calRegs2

/-- Registers of the NVM block (R516 to R520). -/
def nvmRegs : List RegDesc := [
  ⟨"NVM_STATUS", 0x0000, 1, 4, 1, 4, .single, [⟨0, 4, .ro, .stat, 0, .plain⟩, ⟨4, 2, .ro, .stat, 3, .plain⟩, ⟨6, 2, .ro, .stat, 0, .plain⟩]⟩,
  ⟨"NVM_BOOT_STAT", 0x0004, 1, 4, 1, 4, .single, [⟨0, 4, .ro, .stat, 1, .plain⟩, ⟨4, 4, .ro, .stat, 1, .plain⟩, ⟨8, 1, .ro, .stat, 0, .plain⟩, ⟨16, 8, .ro, .stat, 0, .plain⟩, ⟨24, 8, .ro, .stat, 0, .plain⟩]⟩,
  ⟨"NVM_RECORD_ERR", 0x0008, 1, 4, 1, 4, .single, [⟨0, 32, .ro, .stat, 0, .plain⟩]⟩,
  ⟨"NVM_RESET_CAUSE", 0x000C, 1, 4, 1, 4, .single, [⟨0, 4, .ro, .stat, 1, .plain⟩]⟩,
  ⟨"NVM_RESET", 0x0010, 1, 4, 1, 4, .single, [⟨0, 1, .wo, .ops, 0, .plain⟩, ⟨16, 16, .wo, .ops, 0, .plain⟩]⟩,
  ⟨"NVM_FLASH_INFO", 0x0014, 1, 4, 1, 4, .single, [⟨0, 16, .ro, .stat, 0, .plain⟩]⟩,
  ⟨"NVM_BOOT_TIME", 0x0018, 1, 4, 1, 4, .single, [⟨0, 32, .ro, .stat, 0, .plain⟩]⟩,
  ⟨"NVM_DRAM_SKIP", 0x001C, 1, 4, 1, 4, .single, [⟨0, 32, .ro, .stat, 0, .plain⟩]⟩,
  ⟨"NVM_IMG_SEQ", 0x0020, 1, 4, 1, 4, .single, [⟨0, 32, .ro, .stat, 0, .plain⟩]⟩,
  ⟨"NVM_IMG_BUILD_LO", 0x0024, 1, 4, 1, 4, .low, [⟨0, 32, .ro, .stat, 0, .plain⟩]⟩,
  ⟨"NVM_IMG_BUILD_HI", 0x0028, 1, 4, 1, 4, .high, [⟨0, 32, .ro, .stat, 0, .plain⟩]⟩,
  ⟨"NVM_AMD_BASE", 0x0030, 1, 4, 1, 4, .single, [⟨0, 32, .rw, .cfg, 0, .plain⟩]⟩,
  ⟨"NVM_AMD_CMD", 0x0034, 1, 4, 1, 4, .single, [⟨0, 1, .w1s, .ops, 0, .plain⟩]⟩,
  ⟨"NVM_AMD_STAT", 0x0038, 1, 4, 1, 4, .single, [⟨0, 2, .ro, .stat, 0, .plain⟩, ⟨4, 4, .ro, .stat, 0, .plain⟩]⟩,
  ⟨"NVM_AMD_SEQ", 0x003C, 1, 4, 1, 4, .single, [⟨0, 32, .ro, .stat, 0, .plain⟩]⟩,
  ⟨"NVM_AMD_AREA", 0x0040, 1, 4, 1, 4, .single, [⟨0, 32, .rwl, .cfg, 0, .plain⟩]⟩,
  ⟨"NVM_AMD_SIZE", 0x0044, 1, 4, 1, 4, .single, [⟨0, 32, .rwl, .cfg, 0, .plain⟩]⟩,
  ⟨"NVM_STFAIL", 0x0080, 16, 4, 1, 4, .single, [⟨0, 32, .ro, .stat, 0, .plain⟩]⟩]

end Sys2Proof.Machine
end

