-- ==== Sys2Proof/Machine/RegMapSite.lean ====
section
/-! DEFINITION. The registers of one SITE block and of one PIN block, from the register tables of spec/. Every row gives the register's name, its offset in the block, its two
repetition counts and strides, whether it is one word of a 64-bit value (R4), and its fields: lowest bit, length,
field type (R5), log class (R6), reset value, and what a written value outside the field's range stores. -/
namespace Sys2Proof.Machine

/-- Registers of the SITE block (R156 to R166, R188 to R193, R212 to R218, R237 to R244, R270 to R272), part 1. -/
def siteRegs1 : List RegDesc := [
  ⟨"SITE_SEQ_CMD", 0x0000, 1, 4, 1, 4, .single, [⟨0, 1, .w1s, .ops, 0, .plain⟩, ⟨1, 1, .w1s, .ops, 0, .plain⟩, ⟨2, 1, .w1s, .ops, 0, .plain⟩]⟩,
  ⟨"SITE_SEQ_STATUS", 0x0004, 1, 4, 1, 4, .single, [⟨0, 3, .ro, .stat, 0, .plain⟩, ⟨3, 1, .ro, .stat, 0, .plain⟩, ⟨4, 4, .ro, .stat, 0, .plain⟩, ⟨8, 4, .ro, .stat, 0, .plain⟩, ⟨16, 1, .w1c, .ops, 0, .plain⟩, ⟨17, 1, .w1c, .ops, 0, .plain⟩, ⟨18, 1, .w1c, .ops, 0, .plain⟩]⟩,
  ⟨"SITE_START_CFG", 0x0008, 1, 4, 1, 4, .single, [⟨0, 2, .rwl, .cfg, 0, (.keep 3 3)⟩, ⟨2, 2, .rwl, .cfg, 0, .plain⟩, ⟨4, 5, .rwl, .cfg, 0, .plain⟩, ⟨16, 16, .rw, .cfg, 0, .plain⟩]⟩,
  ⟨"SITE_HOLD_CFG", 0x000C, 1, 4, 1, 4, .single, [⟨0, 4, .rw, .cfg, 0, .plain⟩, ⟨8, 6, .rw, .cfg, 0, .plain⟩]⟩,
  ⟨"SITE_SEGTAB_BASE", 0x0010, 1, 4, 1, 4, .single, [⟨0, 32, .rwl, .cfg, 0, .plain⟩]⟩,
  ⟨"SITE_SEGTAB_RANGE", 0x0014, 1, 4, 1, 4, .single, [⟨0, 16, .rwl, .cfg, 1, .plain⟩, ⟨16, 16, .rwl, .cfg, 0, .plain⟩]⟩,
  ⟨"SITE_SEG_CMD", 0x0018, 1, 4, 1, 4, .single, [⟨0, 16, .wo, .ops, 0, .plain⟩, ⟨16, 2, .wo, .ops, 0, .plain⟩]⟩,
  ⟨"SITE_SEG_STATUS", 0x001C, 1, 4, 1, 4, .single, [⟨0, 3, .ro, .stat, 0, .plain⟩, ⟨16, 16, .ro, .stat, 0, .plain⟩]⟩,
  ⟨"SITE_FLAGS", 0x0020, 1, 4, 1, 4, .single, [⟨0, 16, .w1c, .ops, 0, .plain⟩]⟩,
  ⟨"SITE_FLAG_SET", 0x0024, 1, 4, 1, 4, .single, [⟨0, 16, .w1s, .ops, 0, .plain⟩]⟩,
  ⟨"SITE_POS", 0x002C, 1, 4, 1, 4, .single, [⟨0, 16, .ro, .stat, 0, .plain⟩]⟩,
  ⟨"SITE_POS_OFF", 0x0030, 1, 4, 1, 4, .single, [⟨0, 30, .ro, .stat, 0, .plain⟩]⟩,
  ⟨"SITE_RESULT_BASE", 0x0034, 1, 4, 1, 4, .single, [⟨0, 32, .rw, .cfg, 0, .plain⟩]⟩,
  ⟨"SITE_RESULT_RING", 0x0038, 1, 4, 1, 4, .single, [⟨0, 16, .rw, .cfg, 0, .plain⟩, ⟨16, 16, .ro, .stat, 0, .plain⟩]⟩,
  ⟨"SITE_RESULT", 0x0040, 16, 4, 1, 4, .single, [⟨0, 32, .ro, .stat, 0, .plain⟩]⟩,
  ⟨"SITE_TSP", 0x1000, 64, 4, 1, 4, .single, [⟨0, 32, .rw, .cfg, 2500, .plain⟩]⟩,
  ⟨"SITE_SPEC_CFG", 0x1100, 1, 4, 1, 4, .single, [⟨0, 9, .rw, .cfg, 16, (.clamp 16 256)⟩, ⟨9, 1, .rw, .cfg, 0, .plain⟩, ⟨10, 1, .rw, .cfg, 0, .plain⟩]⟩,
  ⟨"SITE_SPEC_DL", 0x1104, 1, 4, 1, 4, .single, [⟨0, 12, .ro, .stat, 0, .plain⟩, ⟨16, 12, .ro, .stat, 0, .plain⟩]⟩,
  ⟨"SITE_SPEC_EST", 0x1108, 1, 4, 1, 4, .single, [⟨0, 12, .ro, .stat, 0, .plain⟩]⟩,
  ⟨"SITE_SPEC_STAT", 0x110C, 1, 4, 1, 4, .single, [⟨0, 12, .ro, .stat, 0, .plain⟩, ⟨16, 7, .ro, .stat, 0, .plain⟩]⟩]

/-- Registers of the SITE block (R156 to R166, R188 to R193, R212 to R218, R237 to R244, R270 to R272), part 2. A value above 16,384 written
to SITE_STR_BUF_SIZE is stored as written: R213 gives the range and states no substitute (log 136, DESIGN CHOICE). -/
def siteRegs2 : List RegDesc := [
  ⟨"SITE_SPEC_DECISIONS", 0x1110, 1, 4, 1, 4, .single, [⟨0, 32, .ro, .stat, 0, .plain⟩]⟩,
  ⟨"SITE_SPEC_MISPRED", 0x1114, 1, 4, 1, 4, .single, [⟨0, 32, .ro, .stat, 0, .plain⟩]⟩,
  ⟨"SITE_SPEC_FENCE", 0x1118, 1, 4, 1, 4, .single, [⟨0, 32, .ro, .stat, 0, .plain⟩]⟩,
  ⟨"SITE_SPEC_STALL", 0x111C, 1, 4, 1, 4, .single, [⟨0, 32, .ro, .stat, 0, .plain⟩]⟩,
  ⟨"SITE_STR_CFG", 0x1200, 1, 4, 1, 4, .single, [⟨0, 16, .rw, .cfg, 0, .plain⟩, ⟨16, 5, .rw, .cfg, 0, (.clamp 0 16)⟩, ⟨24, 1, .rw, .cfg, 0, .plain⟩]⟩,
  ⟨"SITE_STR_BUF_BASE", 0x1204, 1, 4, 1, 4, .single, [⟨0, 32, .rw, .cfg, 0, .plain⟩]⟩,
  ⟨"SITE_STR_BUF_SIZE", 0x1208, 1, 4, 1, 4, .single, [⟨0, 15, .rw, .cfg, 0, .plain⟩]⟩,
  ⟨"SITE_STR_WM", 0x120C, 1, 4, 1, 4, .single, [⟨0, 16, .rw, .cfg, 0, .plain⟩, ⟨16, 16, .rw, .cfg, 0, .plain⟩]⟩,
  ⟨"SITE_LC_BASE", 0x1210, 1, 4, 1, 4, .single, [⟨0, 32, .rw, .cfg, 0, .plain⟩]⟩,
  ⟨"SITE_LC_SIZE", 0x1214, 1, 4, 1, 4, .single, [⟨0, 9, .rw, .cfg, 0, (.clamp 0 256)⟩]⟩,
  ⟨"SITE_STR_STATUS", 0x1218, 1, 4, 1, 4, .single, [⟨0, 2, .ro, .stat, 0, .plain⟩, ⟨2, 1, .w1c, .ops, 0, .plain⟩, ⟨3, 1, .w1c, .ops, 0, .plain⟩, ⟨4, 1, .w1c, .ops, 0, .plain⟩, ⟨5, 1, .w1c, .ops, 0, .plain⟩, ⟨6, 1, .w1c, .ops, 0, .plain⟩, ⟨7, 1, .w1c, .ops, 0, .plain⟩]⟩,
  ⟨"SITE_STR_LEVEL", 0x121C, 1, 4, 1, 4, .single, [⟨0, 16, .ro, .stat, 0, .plain⟩, ⟨16, 16, .ro, .stat, 0, .plain⟩]⟩,
  ⟨"SITE_STR_RATE", 0x1220, 1, 4, 1, 4, .single, [⟨0, 16, .ro, .stat, 0, .plain⟩, ⟨16, 16, .ro, .stat, 0, .plain⟩]⟩,
  ⟨"SITE_STR_BUDGET", 0x1224, 1, 4, 1, 4, .single, [⟨0, 16, .ro, .stat, 0, .plain⟩, ⟨16, 16, .ro, .stat, 0, .plain⟩]⟩,
  ⟨"SITE_STR_SUM", 0x1228, 1, 4, 1, 4, .single, [⟨0, 32, .ro, .stat, 0, .plain⟩]⟩,
  ⟨"SITE_STR_HOLDS", 0x122C, 1, 4, 1, 4, .single, [⟨0, 32, .ro, .stat, 0, .plain⟩]⟩,
  ⟨"SITE_PACE_CFG", 0x1230, 1, 4, 1, 4, .single, [⟨0, 8, .rw, .cfg, 10, .plain⟩, ⟨8, 1, .rw, .cfg, 1, .plain⟩]⟩,
  ⟨"SITE_PACE", 0x1234, 1, 4, 1, 4, .single, [⟨0, 16, .ro, .stat, 0, .plain⟩, ⟨16, 16, .ro, .stat, 0, .plain⟩]⟩,
  ⟨"SITE_PACE_LANE", 0x1238, 1, 4, 1, 4, .single, [⟨0, 6, .ro, .stat, 0, .plain⟩]⟩,
  ⟨"SITE_CAP_CFG", 0x1300, 1, 4, 1, 4, .single, [⟨0, 1, .rw, .cfg, 0, .plain⟩, ⟨1, 4, .rw, .cfg, 0, .plain⟩, ⟨5, 1, .rw, .cfg, 0, .plain⟩]⟩]

/-- Registers of the SITE block (R156 to R166, R188 to R193, R212 to R218, R237 to R244, R270 to R272), part 3. -/
def siteRegs3 : List RegDesc := [
  ⟨"SITE_CAP_STOP", 0x1304, 1, 4, 1, 4, .single, [⟨0, 32, .rw, .cfg, 1, .plain⟩]⟩,
  ⟨"SITE_CAP_STATUS", 0x1308, 1, 4, 1, 4, .single, [⟨0, 1, .ro, .stat, 0, .plain⟩, ⟨1, 1, .w1c, .ops, 0, .plain⟩, ⟨2, 1, .w1c, .ops, 0, .plain⟩]⟩,
  ⟨"SITE_CAP_FAILS_LO", 0x1310, 1, 4, 1, 4, .low, [⟨0, 32, .ro, .stat, 0, .plain⟩]⟩,
  ⟨"SITE_CAP_FAILS_HI", 0x1314, 1, 4, 1, 4, .high, [⟨0, 32, .ro, .stat, 0, .plain⟩]⟩,
  ⟨"SITE_CAP_FVEC_LO", 0x1318, 1, 4, 1, 4, .low, [⟨0, 32, .ro, .stat, 0, .plain⟩]⟩,
  ⟨"SITE_CAP_FVEC_HI", 0x131C, 1, 4, 1, 4, .high, [⟨0, 32, .ro, .stat, 0, .plain⟩]⟩,
  ⟨"SITE_CAP_GFAIL_LO", 0x1320, 1, 4, 1, 4, .low, [⟨0, 32, .ro, .stat, 0, .plain⟩]⟩,
  ⟨"SITE_CAP_GFAIL_HI", 0x1324, 1, 4, 1, 4, .high, [⟨0, 32, .ro, .stat, 0, .plain⟩]⟩,
  ⟨"SITE_CAP_FIRST_LO", 0x1328, 1, 4, 1, 4, .low, [⟨0, 32, .ro, .stat, 4294967295, .plain⟩]⟩,
  ⟨"SITE_CAP_FIRST_HI", 0x132C, 1, 4, 1, 4, .high, [⟨0, 32, .ro, .stat, 4294967295, .plain⟩]⟩,
  ⟨"SITE_CMP_MASK", 0x1340, 16, 4, 1, 4, .single, [⟨0, 32, .rw, .cfg, 0, .plain⟩]⟩,
  ⟨"SITE_FLOG_CFG", 0x1380, 1, 4, 1, 4, .single, [⟨0, 2, .rw, .cfg, 0, .plain⟩, ⟨2, 1, .rw, .cfg, 0, .plain⟩]⟩,
  ⟨"SITE_FLOG_LIMIT", 0x1384, 1, 4, 1, 4, .single, [⟨0, 32, .rw, .cfg, 0, .plain⟩]⟩,
  ⟨"SITE_FLOG_BASE_LO", 0x1388, 1, 4, 1, 4, .low, [⟨0, 32, .rw, .cfg, 0, .plain⟩]⟩,
  ⟨"SITE_FLOG_BASE_HI", 0x138C, 1, 4, 1, 4, .high, [⟨0, 32, .rw, .cfg, 0, .plain⟩]⟩,
  ⟨"SITE_FLOG_SIZE", 0x1390, 1, 4, 1, 4, .single, [⟨0, 32, .rw, .cfg, 0, .plain⟩]⟩,
  ⟨"SITE_FLOG_HEAD", 0x1394, 1, 4, 1, 4, .single, [⟨0, 32, .ro, .stat, 0, .plain⟩]⟩,
  ⟨"SITE_FLOG_TAIL", 0x1398, 1, 4, 1, 4, .single, [⟨0, 32, .ro, .stat, 0, .plain⟩]⟩,
  ⟨"SITE_FLOG_COUNT", 0x139C, 1, 4, 1, 4, .single, [⟨0, 32, .ro, .stat, 0, .plain⟩]⟩,
  ⟨"SITE_FLOG_DROPPED", 0x13A0, 1, 4, 1, 4, .single, [⟨0, 32, .ro, .stat, 0, .plain⟩]⟩]

/-- Registers of the SITE block (R156 to R166, R188 to R193, R212 to R218, R237 to R244, R270 to R272), part 4. -/
def siteRegs4 : List RegDesc := [
  ⟨"SITE_FLOG_STATUS", 0x13A4, 1, 4, 1, 4, .single, [⟨0, 1, .w1c, .ops, 0, .plain⟩, ⟨1, 1, .w1c, .ops, 0, .plain⟩, ⟨2, 1, .w1c, .ops, 0, .plain⟩, ⟨3, 1, .w1c, .ops, 0, .plain⟩, ⟨4, 1, .w1c, .ops, 0, .plain⟩, ⟨5, 1, .w1c, .ops, 0, .plain⟩]⟩,
  ⟨"SITE_TRIG_LINE", 0x1400, 8, 4, 1, 4, .single, [⟨0, 1, .rw, .cfg, 0, .plain⟩, ⟨1, 1, .rw, .cfg, 0, .plain⟩, ⟨2, 16, .rw, .cfg, 0, .plain⟩, ⟨18, 1, .rw, .cfg, 0, .plain⟩, ⟨19, 4, .rw, .cfg, 0, .plain⟩, ⟨23, 1, .rw, .cfg, 0, .plain⟩]⟩,
  ⟨"SITE_TRIG_LHIST_LO", 0x1420, 1, 4, 1, 4, .low, [⟨0, 32, .ro, .stat, 0, .plain⟩]⟩,
  ⟨"SITE_TRIG_LHIST_HI", 0x1424, 1, 4, 1, 4, .high, [⟨0, 16, .ro, .stat, 0, .plain⟩, ⟨16, 8, .ro, .stat, 0, .plain⟩, ⟨24, 3, .ro, .stat, 0, .plain⟩, ⟨31, 1, .ro, .stat, 0, .plain⟩]⟩,
  ⟨"SITE_ACQ_CFG", 0x1430, 1, 4, 1, 4, .single, [⟨0, 16, .rw, .cfg, 0, .plain⟩]⟩,
  ⟨"SITE_MASK_CFG", 0x1434, 1, 4, 1, 4, .single, [⟨0, 1, .rw, .cfg, 0, .plain⟩, ⟨1, 4, .rw, .cfg, 0, .plain⟩]⟩,
  ⟨"SITE_MASK_VIOL", 0x1438, 1, 4, 1, 4, .single, [⟨0, 32, .ro, .stat, 0, .plain⟩]⟩,
  ⟨"SITE_PIN_FCNT", 0x2000, 512, 4, 1, 4, .single, [⟨0, 32, .ro, .stat, 0, .plain⟩]⟩,
  ⟨"SITE_PIN_FFC_LO", 0x3000, 512, 8, 1, 4, .low, [⟨0, 32, .ro, .stat, 4294967295, .plain⟩]⟩,
  ⟨"SITE_PIN_FFC_HI", 0x3004, 512, 8, 1, 4, .high, [⟨0, 32, .ro, .stat, 4294967295, .plain⟩]⟩]

/-- All registers of the SITE block (R156 to R166, R188 to R193, R212 to R218, R237 to R244, R270 to R272). -/
def siteRegs : List RegDesc :=
  siteRegs1 ++ siteRegs2 ++ siteRegs3 ++ siteRegs4

/-- Registers of the PIN block (R88 to R95, R117 to R124, R262 to R269, R293 to R297), part 1. -/
def pinRegs1 : List RegDesc := [
  ⟨"PIN_IDLE", 0x0000, 1, 4, 1, 4, .single, [⟨0, 3, .rw, .cfg, 0, (.keep 4 7)⟩]⟩,
  ⟨"PIN_CLK_CFG", 0x0004, 1, 4, 1, 4, .single, [⟨0, 1, .rw, .cfg, 0, .plain⟩, ⟨4, 4, .rw, .cfg, 0, .plain⟩, ⟨8, 4, .rw, .cfg, 0, .plain⟩]⟩,
  ⟨"PIN_CLK_PHASE", 0x0008, 1, 4, 1, 4, .single, [⟨0, 32, .rw, .cfg, 0, .plain⟩]⟩,
  ⟨"PIN_TSTAT", 0x0010, 1, 4, 1, 4, .single, [⟨0, 1, .w1c, .ops, 0, .plain⟩, ⟨1, 1, .w1c, .ops, 0, .plain⟩, ⟨2, 1, .w1c, .ops, 0, .plain⟩, ⟨3, 1, .w1c, .ops, 0, .plain⟩, ⟨4, 1, .w1c, .ops, 0, .plain⟩]⟩,
  ⟨"PIN_MERGE_COUNT", 0x0014, 1, 4, 1, 4, .single, [⟨0, 32, .ro, .stat, 0, .plain⟩]⟩,
  ⟨"PIN_WS", 0x0400, 4, 64, 16, 4, .single, [⟨0, 21, .rw, .cfg, 0, .plain⟩]⟩,
  ⟨"PIN_TS_E", 0x1000, 64, 64, 8, 4, .single, [⟨0, 32, .rw, .cfg, 0, .plain⟩]⟩,
  ⟨"PIN_TS_CTRL", 0x1020, 64, 64, 1, 4, .single, [⟨0, 2, .rw, .cfg, 0, .plain⟩]⟩,
  ⟨"PIN_FE_CFG", 0x2000, 1, 4, 1, 4, .single, [⟨0, 2, .rw, .cfg, 0, (.keep 2 3)⟩, ⟨8, 5, .rw, .cfg, 0, .plain⟩, ⟨16, 4, .rw, .cfg, 6, .plain⟩, ⟨24, 8, .rw, .cfg, 9, .plain⟩]⟩,
  ⟨"PIN_CLAMP", 0x2004, 1, 4, 1, 4, .single, [⟨0, 14, .rw, .cfg, 0, .plain⟩, ⟨16, 14, .rw, .cfg, 16383, .plain⟩, ⟨31, 1, .rw, .cfg, 0, .plain⟩]⟩,
  ⟨"PIN_LVL_CFG", 0x2008, 1, 4, 1, 4, .single, [⟨0, 12, .rw, .cfg, 4095, (.clamp 1 4095)⟩, ⟨12, 8, .rw, .cfg, 0, .plain⟩, ⟨20, 1, .rw, .cfg, 0, .plain⟩, ⟨21, 1, .rw, .cfg, 0, .plain⟩]⟩,
  ⟨"PIN_LVL_CMD", 0x200C, 1, 4, 1, 4, .single, [⟨0, 3, .wo, .ops, 0, .plain⟩, ⟨8, 1, .wo, .ops, 0, .plain⟩]⟩,
  ⟨"PIN_LVL_STAT", 0x2010, 1, 4, 1, 4, .single, [⟨0, 3, .ro, .stat, 0, .plain⟩, ⟨3, 4, .ro, .stat, 0, .plain⟩, ⟨7, 1, .ro, .stat, 0, .plain⟩, ⟨8, 1, .w1c, .ops, 0, .plain⟩, ⟨9, 1, .w1c, .ops, 0, .plain⟩]⟩,
  ⟨"PIN_FESTAT", 0x2014, 1, 4, 1, 4, .single, [⟨0, 1, .w1c, .ops, 0, .plain⟩, ⟨1, 1, .w1c, .ops, 0, .plain⟩, ⟨2, 1, .w1c, .ops, 0, .plain⟩, ⟨3, 1, .w1c, .ops, 0, .plain⟩, ⟨4, 1, .w1c, .ops, 0, .plain⟩, ⟨5, 1, .w1c, .ops, 0, .plain⟩, ⟨6, 1, .w1c, .ops, 0, .plain⟩]⟩,
  ⟨"PIN_LVL_OUT0", 0x2018, 1, 4, 1, 4, .single, [⟨0, 14, .ro, .stat, 3277, .plain⟩, ⟨16, 14, .ro, .stat, 3277, .plain⟩]⟩,
  ⟨"PIN_LVL_OUT1", 0x201C, 1, 4, 1, 4, .single, [⟨0, 14, .ro, .stat, 3277, .plain⟩, ⟨16, 14, .ro, .stat, 3277, .plain⟩]⟩,
  ⟨"PIN_LVL_OUT2", 0x2020, 1, 4, 1, 4, .single, [⟨0, 14, .ro, .stat, 3277, .plain⟩]⟩,
  ⟨"PIN_LS", 0x2100, 8, 32, 5, 4, .single, [⟨0, 14, .rw, .cfg, 3277, .plain⟩]⟩,
  ⟨"PIN_ACQ_CFG", 0x3000, 1, 4, 1, 4, .single, [⟨0, 2, .rw, .cfg, 0, (.keep 3 3)⟩, ⟨2, 1, .rw, .cfg, 0, .plain⟩, ⟨3, 3, .rw, .cfg, 0, .plain⟩, ⟨6, 1, .rw, .cfg, 0, .plain⟩]⟩,
  ⟨"PIN_ACQ_POST", 0x3004, 1, 4, 1, 4, .single, [⟨0, 32, .rw, .cfg, 2048, .plain⟩]⟩]

/-- Registers of the PIN block (R88 to R95, R117 to R124, R262 to R269, R293 to R297), part 2. -/
def pinRegs2 : List RegDesc := [
  ⟨"PIN_ACQ_STAT", 0x3008, 1, 4, 1, 4, .single, [⟨0, 3, .ro, .stat, 0, .plain⟩, ⟨3, 1, .w1c, .ops, 0, .plain⟩, ⟨4, 1, .w1c, .ops, 0, .plain⟩, ⟨5, 1, .w1c, .ops, 0, .plain⟩, ⟨6, 1, .w1c, .ops, 0, .plain⟩]⟩,
  ⟨"PIN_ACQ_COUNT", 0x300C, 1, 4, 1, 4, .single, [⟨0, 13, .ro, .stat, 0, .plain⟩, ⟨16, 13, .ro, .stat, 0, .plain⟩]⟩,
  ⟨"PIN_ACQ_INDEX", 0x3010, 1, 4, 1, 4, .single, [⟨0, 12, .ro, .stat, 0, .plain⟩, ⟨16, 12, .ro, .stat, 0, .plain⟩]⟩,
  ⟨"PIN_ACQ_MISSED", 0x3014, 1, 4, 1, 4, .single, [⟨0, 32, .ro, .stat, 0, .plain⟩]⟩,
  ⟨"PIN_TRIG_CFG", 0x3020, 4, 16, 1, 4, .single, [⟨0, 3, .rw, .cfg, 0, .plain⟩, ⟨3, 3, .rw, .cfg, 0, .plain⟩, ⟨6, 1, .rw, .cfg, 0, .plain⟩, ⟨7, 1, .rw, .cfg, 0, .plain⟩, ⟨8, 2, .rw, .cfg, 0, .plain⟩, ⟨16, 1, .rw, .cfg, 0, .plain⟩, ⟨17, 1, .rw, .cfg, 0, .plain⟩, ⟨18, 3, .rw, .cfg, 0, .plain⟩, ⟨21, 1, .rw, .cfg, 0, .plain⟩, ⟨22, 4, .rw, .cfg, 0, .plain⟩, ⟨26, 1, .rw, .cfg, 0, .plain⟩, ⟨27, 1, .rw, .cfg, 0, .plain⟩, ⟨28, 1, .rw, .cfg, 0, .plain⟩]⟩,
  ⟨"PIN_TRIG_W1", 0x3024, 4, 16, 1, 4, .single, [⟨0, 32, .rw, .cfg, 0, .plain⟩]⟩,
  ⟨"PIN_TRIG_W2", 0x3028, 4, 16, 1, 4, .single, [⟨0, 32, .rw, .cfg, 4294967295, .plain⟩]⟩,
  ⟨"PIN_TRIG_HIST_LO", 0x3060, 4, 8, 1, 4, .low, [⟨0, 32, .ro, .stat, 0, .plain⟩]⟩,
  ⟨"PIN_TRIG_HIST_HI", 0x3064, 4, 8, 1, 4, .high, [⟨0, 16, .ro, .stat, 0, .plain⟩, ⟨16, 4, .ro, .stat, 0, .plain⟩, ⟨20, 2, .ro, .stat, 0, .plain⟩, ⟨31, 1, .ro, .stat, 0, .plain⟩]⟩,
  ⟨"PIN_TRIG_CNT", 0x3080, 1, 4, 1, 4, .single, [⟨0, 32, .ro, .stat, 0, .plain⟩]⟩,
  ⟨"PIN_MASK_CFG", 0x3090, 4, 16, 1, 4, .single, [⟨0, 1, .rw, .cfg, 0, .plain⟩, ⟨1, 1, .rw, .cfg, 0, .plain⟩, ⟨2, 3, .rw, .cfg, 0, .plain⟩, ⟨5, 1, .rw, .cfg, 0, .plain⟩, ⟨6, 6, .rw, .cfg, 0, .plain⟩, ⟨12, 1, .rw, .cfg, 0, .plain⟩]⟩,
  ⟨"PIN_MASK_START", 0x3094, 4, 16, 1, 4, .single, [⟨0, 32, .rw, .cfg, 0, .plain⟩]⟩,
  ⟨"PIN_MASK_END", 0x3098, 4, 16, 1, 4, .single, [⟨0, 32, .rw, .cfg, 0, .plain⟩]⟩,
  ⟨"PIN_MASK_VIOL", 0x30D0, 1, 4, 1, 4, .single, [⟨0, 32, .ro, .stat, 0, .plain⟩]⟩,
  ⟨"PIN_AVG_CFG", 0x30E0, 1, 4, 1, 4, .single, [⟨0, 1, .rw, .cfg, 0, .plain⟩, ⟨1, 1, .rw, .cfg, 0, .plain⟩, ⟨2, 3, .rw, .cfg, 0, .plain⟩, ⟨5, 3, .rw, .cfg, 0, .plain⟩, ⟨8, 1, .rw, .cfg, 0, .plain⟩, ⟨9, 6, .rw, .cfg, 0, .plain⟩, ⟨16, 10, .rw, .cfg, 0, .plain⟩]⟩,
  ⟨"PIN_AVG_START", 0x30E4, 1, 4, 1, 4, .single, [⟨0, 32, .rw, .cfg, 0, .plain⟩]⟩,
  ⟨"PIN_AVG_END", 0x30E8, 1, 4, 1, 4, .single, [⟨0, 32, .rw, .cfg, 0, .plain⟩]⟩,
  ⟨"PIN_AVG_NONE", 0x30EC, 1, 4, 1, 4, .single, [⟨0, 32, .ro, .stat, 0, .plain⟩]⟩,
  ⟨"PIN_TDC_CFG", 0x4000, 1, 4, 1, 4, .single, [⟨0, 9, .rw, .cfg, 0, .plain⟩, ⟨9, 2, .rw, .cfg, 0, (.keep 2 3)⟩, ⟨11, 3, .rw, .cfg, 0, .plain⟩, ⟨14, 3, .rw, .cfg, 0, .plain⟩, ⟨17, 1, .rw, .cfg, 0, .plain⟩, ⟨18, 1, .rw, .cfg, 0, .plain⟩, ⟨19, 1, .rw, .cfg, 0, .plain⟩, ⟨20, 10, .rw, .cfg, 0, .plain⟩]⟩,
  ⟨"PIN_TDC_TIMEOUT", 0x4004, 1, 4, 1, 4, .single, [⟨0, 32, .rw, .cfg, 1000, .plain⟩]⟩]

/-- Registers of the PIN block (R88 to R95, R117 to R124, R262 to R269, R293 to R297), part 3. -/
def pinRegs3 : List RegDesc := [
  ⟨"PIN_TDC_REPEAT", 0x4008, 1, 4, 1, 4, .single, [⟨0, 16, .rw, .cfg, 0, .plain⟩]⟩,
  ⟨"PIN_TDC_ARM_TICK_LO", 0x4010, 1, 4, 1, 4, .low, [⟨0, 32, .rw, .cfg, 0, .plain⟩]⟩,
  ⟨"PIN_TDC_ARM_TICK_HI", 0x4014, 1, 4, 1, 4, .high, [⟨0, 32, .rw, .cfg, 0, .plain⟩]⟩,
  ⟨"PIN_TDC_ARM_FINE", 0x4018, 1, 4, 1, 4, .single, [⟨0, 11, .rw, .cfg, 0, (.clamp 0 1249)⟩]⟩,
  ⟨"PIN_TDC_CMD", 0x401C, 1, 4, 1, 4, .single, [⟨0, 1, .w1s, .ops, 0, .plain⟩, ⟨1, 1, .w1s, .ops, 0, .plain⟩]⟩,
  ⟨"PIN_TDC_STAT", 0x4020, 1, 4, 1, 4, .single, [⟨0, 3, .ro, .stat, 0, .plain⟩, ⟨4, 1, .w1c, .ops, 0, .plain⟩, ⟨5, 1, .w1c, .ops, 0, .plain⟩, ⟨6, 1, .w1c, .ops, 0, .plain⟩, ⟨8, 1, .ro, .stat, 0, .plain⟩, ⟨9, 1, .ro, .stat, 0, .plain⟩, ⟨10, 1, .ro, .stat, 0, .plain⟩, ⟨11, 1, .ro, .stat, 0, .plain⟩, ⟨12, 1, .ro, .stat, 0, .plain⟩]⟩,
  ⟨"PIN_TDC_RESULT_LO", 0x4028, 1, 4, 1, 4, .low, [⟨0, 32, .ro, .stat, 0, .plain⟩]⟩,
  ⟨"PIN_TDC_RESULT_HI", 0x402C, 1, 4, 1, 4, .high, [⟨0, 32, .ro, .stat, 0, .plain⟩]⟩,
  ⟨"PIN_TDC_START_LO", 0x4030, 1, 4, 1, 4, .low, [⟨0, 32, .ro, .stat, 0, .plain⟩]⟩,
  ⟨"PIN_TDC_START_HI", 0x4034, 1, 4, 1, 4, .high, [⟨0, 32, .ro, .stat, 0, .plain⟩]⟩,
  ⟨"PIN_TDC_COUNT", 0x4038, 1, 4, 1, 4, .single, [⟨0, 32, .ro, .stat, 0, .plain⟩]⟩,
  ⟨"PIN_ACQ_RING_LO", 0x8000, 4096, 8, 1, 4, .low, [⟨0, 32, .ro, .stat, 0, .plain⟩]⟩,
  ⟨"PIN_ACQ_RING_HI", 0x8004, 4096, 8, 1, 4, .high, [⟨0, 32, .ro, .stat, 0, .plain⟩]⟩]

/-- All registers of the PIN block (R88 to R95, R117 to R124, R262 to R269, R293 to R297). -/
def pinRegs : List RegDesc :=
  pinRegs1 ++ pinRegs2 ++ pinRegs3

end Sys2Proof.Machine
end

