-- ==== Sys2Proof/Machine/Operands.lean ====
section
/-! DEFINITION. The operand form of every access: a device address and what it names (R20 to R22, R488), and a register
with its description and reset word. -/
namespace Sys2Proof.Machine

/-- The register blocks of R22. -/
inductive Block0 where
  | sys | evt | sec | aud | pwr | tb | mem | drc | dma | xe | red | svc | iat | cal | nvm
  deriving DecidableEq, Repr

/-- A register block of R22 with its instance. -/
inductive BlockRef where
  | unit (b : Block0)
  | site (s : Nat)
  | pin (p : Nat)
  | group (g : Nat)
  | allPins
  deriving DecidableEq, Repr

/-- The block at a 64 KiB index below 0x10_0000 (R22). -/
def unitBlock : Nat → Option Block0
  | 0 => some .sys
  | 1 => some .evt
  | 2 => some .sec
  | 3 => some .aud
  | 4 => some .pwr
  | 5 => some .tb
  | 6 => some .mem
  | 7 => some .drc
  | 8 => some .dma
  | 9 => some .xe
  | 10 => some .red
  | 11 => some .svc
  | 12 => some .iat
  | 13 => some .cal
  | 14 => some .nvm
  | _ => none

/-- The block and the offset within it of a BAR0 offset; every other offset is unmapped (R21, R22). -/
def decodeReg (a : Nat) : Option (BlockRef × Nat) :=
  if a < 0x100000 then (unitBlock (a / 0x10000)).map (fun b => (.unit b, a % 0x10000))
  else if a < 0x1000000 then none
  else if a < 0x2000000 then some (.site ((a - 0x1000000) / 0x100000), a % 0x100000)
  else if a < 0x8000000 then none
  else if a < 0xA000000 then some (.pin ((a - 0x8000000) / 0x10000), a % 0x10000)
  else if a < 0xA400000 then some (.group ((a - 0xA000000) / 0x10000), a % 0x10000)
  else if a < 0xB000000 then none
  else if a < 0xB010000 then some (.allPins, a % 0x10000)
  else none

/-- The register descriptions of a block. -/
def Block0.regs : Block0 → List RegDesc
  | .sys => sysRegs
  | .evt => evtRegs
  | .sec => secRegs
  | .aud => audRegs
  | .pwr => pwrRegs
  | .tb => tbRegs
  | .mem => memRegs
  | .drc => drcRegs
  | .dma => dmaRegs
  | .xe => xeRegs
  | .red => redRegs
  | .svc => svcRegs
  | .iat => iatRegs
  | .cal => calRegs
  | .nvm => nvmRegs

/-- The register descriptions of a block instance; broadcast blocks are as PIN (R22). -/
def BlockRef.regs : BlockRef → List RegDesc
  | .unit b => b.regs
  | .site _ => siteRegs
  | .pin _ => pinRegs
  | .group _ => pinRegs
  | .allPins => pinRegs

/-- The register description at a BAR0 offset, or none: reserved (R488) or unmapped (R21). -/
def lookupReg (a : Nat) : Option RegDesc :=
  match decodeReg a with
  | none => none
  | some (b, o) => b.regs.find? (fun d => d.covers o)

/-- The reset word of a register: the Reset cells of its table; MEM_MAPb resets to b (R426). A register that is not one
reads 0. -/
def resetWord (a : Nat) : Word :=
  if 0x60100 ≤ a ∧ a < 0x60200 then word ((a - 0x60100) / 4)
  else
    match lookupReg a with
    | none => 0
    | some d => d.resetWord

/-- What a device address names (R20). `ocm` gives the byte offset in on-chip memory, `dram` that in usable DRAM. -/
inductive Region where
  | reg (a : Nat)
  | ocm (x : Nat)
  | setAlias (x : Nat)
  | clearAlias (x : Nat)
  | dram (x : Nat)
  | host (a : Nat)
  | unmapped (a : Nat)
  deriving DecidableEq, Repr

/-- The base device address of on-chip memory. -/
def ocmBase : Nat := 0x40000000

/-- The base device address of DRAM. -/
def dramBase : Nat := 0x1000000000

/-- The region of a device address, for a given usable DRAM size in bytes (R20, R21). -/
def regionOf (usable addr : Nat) : Region :=
  if addr ≥ 2 ^ 63 then .host (addr - 2 ^ 63)
  else if addr < 0x10000000 then (if (decodeReg addr).isSome then .reg addr else .unmapped addr)
  else if 0x40000000 ≤ addr ∧ addr < 0x44000000 then .ocm (addr - 0x40000000)
  else if 0x50000000 ≤ addr ∧ addr < 0x54000000 then .setAlias (addr - 0x50000000)
  else if 0x60000000 ≤ addr ∧ addr < 0x64000000 then .clearAlias (addr - 0x60000000)
  else if dramBase ≤ addr ∧ addr < dramBase + usable then .dram (addr - dramBase)
  else .unmapped addr

/-- The device address of a region; memory behind an alias is named by its own address. -/
def Region.addr : Region → Nat
  | .reg a => a
  | .ocm x => ocmBase + x
  | .setAlias x => ocmBase + x
  | .clearAlias x => ocmBase + x
  | .dram x => dramBase + x
  | .host a => a + 2 ^ 63
  | .unmapped a => a

/-- The logical bank of an on-chip byte offset (R20, R403). -/
def bankOf (x : Nat) : Nat := x / 0x100000

/-- Whether an on-chip byte offset lies in the secure region, banks 60 to 63 (R414). -/
def inSecure (x : Nat) : Bool := decide (0x3C00000 ≤ x) && decide (x < 0x4000000)

/-- Whether `n` bytes from a device address lie wholly in on-chip memory outside the secure region. -/
def inOcm (addr n : Nat) : Bool := decide (ocmBase ≤ addr) && decide (addr + n ≤ ocmBase + 0x3C00000)

/-- Whether `n` bytes from a device address lie wholly in usable DRAM. -/
def inDram (usable addr n : Nat) : Bool := decide (dramBase ≤ addr) && decide (addr + n ≤ dramBase + usable)

end Sys2Proof.Machine
end

