-- ==== Sys2Proof/Machine/State.lean ====
section
/-! DEFINITION. The state of the device, its faults and refusals, and the state after reset. Every register field of the
register tables is held in `regs`, one home per field; the other fields hold what the spec gives the machine beside its
registers. All of it is plain data. -/
namespace Sys2Proof.Machine

/-- Why the machine stops with a fault. -/
inductive Fault where
  /-- Raised by SUPPLY_SAMPLE (rail 0 to 8) and TEMP_SAMPLE (16 + sensor) on a sample outside the absolute maximum ratings of R591: the spec says that
  the device may then be damaged, and gives no behaviour. Safe: nothing can be proved of such a run. -/
  | absoluteMaximum (rail : Nat)
  deriving DecidableEq, Repr

/-- Why the machine refuses a command. -/
inductive Refusal where
  /-- Raised by the dispatch for a command that has no meaning in the model yet. Safe: nothing can be proved of it. -/
  | notModelled (mnemonic : String)
  deriving DecidableEq, Repr

/-- The state of the device. -/
structure State where
  /-- Commands that are waiting, first in, first out. -/
  pending : List Instr
  /-- The present time, in 0.25 ps. -/
  now : Nat
  /-- Register words that differ from their reset words, by BAR0 offset. -/
  regs : Sparse Word
  /-- The locked bits of RWL fields, by BAR0 offset (R5, R506). -/
  locks : Sparse Word
  /-- Low words held for a later high-word write, by origin (R4). -/
  lows : List Held
  /-- Words latched by a low-word read, by origin (R4, R39, R165). -/
  latches : List Held
  /-- On-chip memory, by byte of the PHYSICAL banks (R403): bank * 2^20 + offset. -/
  mem : Sparse Byte
  /-- Uncorrectable words of on-chip memory, by physical word index (R407). -/
  memUe : List Nat
  /-- Those of them that the copy of a test or repair carried over (R416, R417). -/
  memCarried : List Nat
  /-- DRAM contents, by usable byte offset (R432). -/
  dram : Sparse Byte
  /-- Uncorrectable 64-bit pairs of DRAM, by usable offset / 8 (R430). -/
  dramUe : List Nat
  /-- Event records raised and not yet entered in the queue (R482, R483). -/
  events : List EventRec
  /-- What has left the device, oldest first. -/
  out : List Out
  /-- The model's own counter, to which free values are applied. -/
  fresh : Nat
  pins : Sparse Pin
  sites : Sparse Site
  tb : TbState
  memory : MemState
  aud : AudState
  sec : SecState
  nv : KeyStore
  pwr : PwrState
  iat : IatState
  cal : CalState
  red : RedState
  xe : XeState
  svc : SvcState
  drc : DrcState
  dma : DmaState
  host : HostState
  boot : BootState
  deriving DecidableEq, Repr

/-- The RESET record of R535: the first after each reset, with the cause and the boot count. -/
def resetRecord (cause boots : Nat) : AudRec := ⟨0, Origin.hw.code, 0xFFFF, 0, 0, 0, 0, cause % 2 ^ 4 + 2 ^ 8 * (boots % 2 ^ 24)⟩

/-- The machine right after reset (R497): every register at the reset value of its table, nothing in memory, the key
store as made but for the count of this first reset (log 2), and the RESET record waiting for the ring (R535). -/
def State.reset : State :=
  { pending := [], now := 0, regs := [], locks := [], lows := [], latches := [], mem := [], memUe := [], memCarried := [], dram := [],
    dramUe := [], events := [], out := [], fresh := 0, pins := [], sites := [], tb := TbState.reset,
    memory := MemState.reset, aud := { AudState.reset with hold := [resetRecord 1 1] }, sec := SecState.reset,
    nv := { KeyStore.reset with bootCount := 1 }, pwr := PwrState.reset, iat := IatState.reset, cal := CalState.reset,
    red := RedState.reset, xe := XeState.reset, svc := SvcState.reset, drc := DrcState.reset, dma := DmaState.reset,
    host := HostState.reset, boot := BootState.reset }

end Sys2Proof.Machine
end

