-- ==== Sys2Proof/Machine/Ops.lean ====
section
/-! DEFINITION. The named operations over the state: register fields, pins and sites, ownership, time, events, memory, and
the audit log. Every meaning is written over them. -/
namespace Sys2Proof.Machine

/-! Registers. -/

/-- The present word of a register. -/
def State.reg (s : State) (a : Nat) : Word := Sparse.get resetWord s.regs a

/-- The state with a register word replaced. -/
def State.setReg (s : State) (a : Nat) (w : Word) : State := { s with regs := Sparse.set resetWord s.regs a w }

/-- Registers of a range back at their reset values. -/
def State.eraseRegs (s : State) (lo n : Nat) : State := { s with regs := s.regs.eraseRange lo n }

/-- The value of a register field. -/
def State.get (s : State) (f : Fld) : Nat := fieldGet f.lo f.len (s.reg f.addr)

/-- Whether a one-bit field is 1. -/
def State.bit (s : State) (f : Fld) : Bool := decide (s.get f ≠ 0)

/-- The state with a register field given a value, by the hardware. -/
def State.set (s : State) (f : Fld) (v : Nat) : State := s.setReg f.addr (fieldPut f.lo f.len (s.reg f.addr) v)

/-- A status bit set. -/
def State.flag (s : State) (f : Fld) : State := s.set f 1

/-- A status bit set when a condition holds. -/
def State.flagIf (s : State) (c : Bool) (f : Fld) : State := if c then s.flag f else s

/-- A counter field advanced, saturating. -/
def State.count (s : State) (f : Fld) (n : Nat) : State := s.set f (satAdd f.len (s.get f) n)

/-- A 64-bit value in two registers (R4). -/
def State.get64 (s : State) (lo hi : Fld) : Nat := s.get lo + 2 ^ 32 * s.get hi

/-- A 64-bit value set by the hardware, both words together (R4). -/
def State.set64 (s : State) (lo hi : Fld) (v : Nat) : State := (s.set lo (v % 2 ^ 32)).set hi (v / 2 ^ 32)

/-! Units. -/

/-- A change of the timebase. -/
def State.updTb (s : State) (f : TbState → TbState) : State := { s with tb := f s.tb }

/-- A change of the memory unit. -/
def State.updMem (s : State) (f : MemState → MemState) : State := { s with memory := f s.memory }

/-- A change of the audit log. -/
def State.updAud (s : State) (f : AudState → AudState) : State := { s with aud := f s.aud }

/-- A change of the security unit. -/
def State.updSec (s : State) (f : SecState → SecState) : State := { s with sec := f s.sec }

/-- A change of the key store. -/
def State.updNv (s : State) (f : KeyStore → KeyStore) : State := { s with nv := f s.nv }

/-- A change of the power unit. -/
def State.updPwr (s : State) (f : PwrState → PwrState) : State := { s with pwr := f s.pwr }

/-- A change of the Iatipin unit. -/
def State.updIat (s : State) (f : IatState → IatState) : State := { s with iat := f s.iat }

/-- A change of the calibration unit. -/
def State.updCal (s : State) (f : CalState → CalState) : State := { s with cal := f s.cal }

/-- A change of the reduction engine. -/
def State.updRed (s : State) (f : RedState → RedState) : State := { s with red := f s.red }

/-- A change of the transaction engine. -/
def State.updXe (s : State) (f : XeState → XeState) : State := { s with xe := f s.xe }

/-- A change of the service level. -/
def State.updSvc (s : State) (f : SvcState → SvcState) : State := { s with svc := f s.svc }

/-- A change of the DRAM controller. -/
def State.updDrc (s : State) (f : DrcState → DrcState) : State := { s with drc := f s.drc }

/-- A change of the DMA unit. -/
def State.updDma (s : State) (f : DmaState → DmaState) : State := { s with dma := f s.dma }

/-- A change of the host port. -/
def State.updHost (s : State) (f : HostState → HostState) : State := { s with host := f s.host }

/-- A change of the boot sequence. -/
def State.updBoot (s : State) (f : BootState → BootState) : State := { s with boot := f s.boot }

/-! Pins and sites. -/

/-- Pin p. -/
def State.pin (s : State) (p : Nat) : Pin := Sparse.get (fun _ => Pin.reset) s.pins p

/-- The state with pin p replaced. -/
def State.setPin (s : State) (p : Nat) (v : Pin) : State := { s with pins := Sparse.set (fun _ => Pin.reset) s.pins p v }

/-- Site i. -/
def State.site (s : State) (i : Nat) : Site := Sparse.get (fun _ => Site.reset) s.sites i

/-- The state with site i replaced. -/
def State.setSite (s : State) (i : Nat) (v : Site) : State :=
  { s with sites := Sparse.set (fun _ => Site.reset) s.sites i v }

/-- A pin changed by a function. -/
def State.updPin (s : State) (p : Nat) (f : Pin → Pin) : State := s.setPin p (f (s.pin p))

/-- A site changed by a function. -/
def State.updSite (s : State) (i : Nat) (f : Site → Site) : State := s.setSite i (f (s.site i))

/-- A change of the burst record of a site. -/
def State.updBurst (s : State) (i : Nat) (f : BurstState → BurstState) : State :=
  s.updSite i (fun t => { t with burst := f t.burst })

/-- A change of the speculation state of a site. -/
def State.updSpec (s : State) (i : Nat) (f : SpecState → SpecState) : State :=
  s.updSite i (fun t => { t with spec := f t.spec })

/-- A change of the streaming state of a site. -/
def State.updStr (s : State) (i : Nat) (f : StreamState → StreamState) : State :=
  s.updSite i (fun t => { t with str := f t.str })

/-- A change of the capture state of a site. -/
def State.updCap (s : State) (i : Nat) (f : CaptureState → CaptureState) : State :=
  s.updSite i (fun t => { t with cap := f t.cap })

/-! Site states, in the codes of SITE_SEQ_STATUS.STATE (R157). -/

/-- IDLE. -/
def stIdle : Nat := 0
/-- ARMING. -/
def stArming : Nat := 1
/-- ARMED. -/
def stArmed : Nat := 2
/-- RUNNING. -/
def stRunning : Nat := 3
/-- HOLDING. -/
def stHolding : Nat := 4
/-- XACT. -/
def stXact : Nat := 5
/-- DRAINING. -/
def stDraining : Nat := 6

/-- The state of a site. -/
def State.siteSt (s : State) (i : Nat) : Nat := s.get (SITE_SEQ_STATUS_STATE i)

/-- The state of a site set. -/
def State.setSiteSt (s : State) (i v : Nat) : State := s.set (SITE_SEQ_STATUS_STATE i) v

/-- Whether a site is IDLE. -/
def State.idle (s : State) (i : Nat) : Bool := decide (s.siteSt i = stIdle)

/-- Whether every site is IDLE. -/
def State.allIdle (s : State) : Bool := (List.range 16).all (fun i => s.idle i)

/-- Whether a site runs a burst: RUNNING, HOLDING, XACT or DRAINING. -/
def State.inBurst (s : State) (i : Nat) : Bool := decide (stRunning ≤ s.siteSt i) && decide (s.siteSt i ≤ stDraining)

/-- Whether a site is RUNNING, HOLDING or XACT. -/
def State.running (s : State) (i : Nat) : Bool := decide (stRunning ≤ s.siteSt i) && decide (s.siteSt i ≤ stXact)

/-! Ownership (R7, R26, R27). -/

/-- Whether group g is owned. -/
def State.owned (s : State) (g : Nat) : Bool := bitOf (s.get (SYS_GROUP_OWNED (g / 32))) (g % 32)

/-- The site that owns group g. -/
def State.owner (s : State) (g : Nat) : Option Nat :=
  if s.owned g then some (s.get (SYS_GROUP_SITE_SITE_G (g / 8) (g % 8))) else none

/-- The site that owns pin p's group. -/
def State.pinOwner (s : State) (p : Nat) : Option Nat := s.owner (p / 8)

/-- The groups a site owns, ascending. -/
def State.groups (s : State) (i : Nat) : List Nat := (List.range 64).filter (fun g => decide (s.owner g = some i))

/-- The pins of the groups a site owns, ascending. -/
def State.sitePins (s : State) (i : Nat) : List Nat :=
  (s.groups i).flatMap (fun g => (List.range 8).map (fun k => 8 * g + k))

/-- Whether pin p's group is unowned or its site is IDLE. -/
def State.pinFree (s : State) (p : Nat) : Bool :=
  match s.pinOwner p with
  | none => true
  | some i => s.idle i

/-- The operating level of a site (R10, R28): 0 pin, 1 transaction, 2 service. -/
def State.level (s : State) (i : Nat) : Nat := s.get (SYS_SITE_LEVEL_LEVEL_S i)

/-- Whether sites may arm and flows start: not in BOOT, before the Almanac is loaded and READY entered (R395, R509), nor in FAULT (R510). -/
def State.inService (s : State) : Bool := decide (s.get PWR_STATUS_DEV_STATE ≠ 1) && decide (s.get PWR_STATUS_DEV_STATE ≠ 5)

/-! Time (R3, R39). -/

/-- Ticks in one timing unit: 1,250 of 0.25 ps. -/
def tickLsb : Nat := 1250

/-- The Meridian position of a timebase time, in 0.25 ps; 0 before the first lock. -/
def State.merAt (s : State) (t : Nat) : Nat :=
  match s.tb.zero with
  | none => 0
  | some z => t - z

/-- The Meridian tick of a timebase time (R39). -/
def State.tickAt (s : State) (t : Nat) : Nat := s.merAt t / tickLsb % 2 ^ 64

/-- The present Meridian tick. -/
def State.tick (s : State) : Nat := s.tickAt s.now

/-- The timebase time of a Meridian position. -/
def State.ofMer (s : State) (m : Nat) : Nat := s.tb.zero.getD 0 + m

/-- The present time moved on to an instant, never back. -/
def State.at_ (s : State) (t : Nat) : State := { s with now := max s.now t }

/-- A nanosecond, a microsecond and a millisecond, in 0.25 ps. -/
def ns : Nat := 4000
/-- A microsecond, in 0.25 ps. -/
def us : Nat := 4000000
/-- A millisecond, in 0.25 ps. -/
def ms : Nat := 4000000000

/-- The first sample instant of R109 strictly after an instant. -/
def State.nextSample (s : State) (t : Nat) : Nat :=
  s.ofMer ((s.merAt t / (320 * tickLsb) + 1) * (320 * tickLsb))

/-- Whether an instant is a sample instant. -/
def State.isSample (s : State) (t : Nat) : Bool := s.tb.zero.isSome && decide (s.merAt t % (320 * tickLsb) = 0)

/-! Events, outputs and free values. -/

/-- An event record raised (R482): it goes to the event queue by EVENT_ENTER. -/
def State.raise (s : State) (code source data : Nat) : State :=
  { s with events := s.events ++ [⟨code, source % 2 ^ 16, data % 2 ^ 32, s.tick⟩] }

/-- An event raised when a condition holds. -/
def State.raiseIf (s : State) (c : Bool) (code source data : Nat) : State := if c then s.raise code source data else s

/-- A status bit set, with its event raised only if the bit was clear before ("raised once until the bit is cleared"). -/
def State.flagOnce (s : State) (f : Fld) (code source data : Nat) : State :=
  (s.raiseIf (!s.bit f) code source data).flag f

/-- Something leaves the device. -/
def State.emit (s : State) (o : Out) : State := { s with out := s.out ++ [o] }

/-- The source field of an event of the whole device. -/
def noSource : Nat := 0xFFFF

/-- The free-value counter advanced. -/
def State.tickFresh (s : State) : State := { s with fresh := s.fresh + 1 }

/-- The free-value counter advanced past `n` values. -/
def State.skipFresh (s : State) (n : Nat) : State := { s with fresh := s.fresh + n }

/-! Memory. -/

/-- The physical bank behind a logical bank (R403). -/
def State.phys (s : State) (b : Nat) : Nat := s.get (MEM_MAP_PHYS b)

/-- The physical byte behind an on-chip byte offset. -/
def State.physByte (s : State) (x : Nat) : Nat := s.phys (bankOf x) * 0x100000 + x % 0x100000

/-- A bank's power state. -/
def State.bank (s : State) (b : Nat) : BankState := Sparse.get (fun _ => BankState.reset) s.memory.banks b

/-- The contents of the physical byte at a key; unlisted bytes read 0, as the boot march leaves them (R418, log 7). -/
def memDefault : Nat → Byte := fun _ => 0

/-- One byte of on-chip memory. -/
def State.ocmByte (s : State) (x : Nat) : Byte := Sparse.get memDefault s.mem (s.physByte x)

/-- `n` bytes of on-chip memory from offset x. -/
def State.ocmRead (s : State) (x : Nat) : Nat → List Byte
  | 0 => []
  | n + 1 => s.ocmByte x :: s.ocmRead (x + 1) n

/-- One byte written, in the bank behind it and, while the bank is being copied, in the spare (R416). -/
def State.ocmPut (s : State) (x : Nat) (b : Byte) : State :=
  let m := Sparse.set memDefault s.mem (s.physByte x) b
  let m' :=
    match s.memory.copies.find? (fun c => decide (c.bank = bankOf x)) with
    | none => m
    | some c => Sparse.set memDefault m (c.spare * 0x100000 + x % 0x100000) b
  { s with mem := m' }

/-- Bytes written from offset x on. -/
def State.ocmWrite (s : State) (x : Nat) : List Byte → State
  | [] => s
  | b :: bs => (s.ocmPut x b).ocmWrite (x + 1) bs

/-- The word at an on-chip offset. -/
def State.ocmWord (s : State) (x : Nat) : Word := word (leNat (s.ocmRead x 4))

/-- One byte of DRAM at a usable offset. -/
def State.dramByte (s : State) (x : Nat) : Byte := Sparse.get memDefault s.dram x

/-- `n` bytes of DRAM. -/
def State.dramRead (s : State) (x n : Nat) : List Byte := Sparse.getMany memDefault s.dram x n

/-- Bytes written to DRAM. -/
def State.dramWrite (s : State) (x : Nat) (bs : List Byte) : State := { s with dram := Sparse.setMany memDefault s.dram x bs }

/-- The usable DRAM capacity (R451). -/
def State.usable (s : State) : Nat := s.get64 DRC_USABLE_LO_USABLE DRC_USABLE_HI_USABLE

/-- How an access is met by the power of the memory it reaches (R412, R413, R445). -/
inductive Served where
  | ok | stall | off
  deriving DecidableEq, Repr

/-- How a logical bank serves (R410 to R413). -/
def State.bankServed (s : State) (b : Nat) : Served :=
  match (s.bank b).power with
  | .on => .ok
  | .waking => .stall
  | .clearing => .stall
  | .retain => .off
  | .off => .off

/-- The data segment of a usable offset (R446). -/
def State.dramSeg (s : State) (x : Nat) : Nat := x * 7 / s.usable

/-- How DRAM serves a usable offset (R445, R447): ON, PENDING and CHANGING serve; a segment still being cleared, and
training, stall; RETAIN, OFF and FAILED do not serve. -/
def State.dramServed (s : State) (x : Nat) : Served :=
  let st := s.get DRC_STATUS_STATE
  if st = 2 ∨ st = 3 ∨ st = 7 then .ok
  else if st = 5 then (if bitOf (s.get DRC_STATUS_CLEAR_SEG) (s.dramSeg x) then .ok else .stall)
  else if st = 1 then .stall
  else .off

/-- The 32-bit words of an on-chip range that are marked uncorrectable, as offsets. -/
def State.ocmBad (s : State) (x n : Nat) : List Nat :=
  ((List.range ((x % 4 + n + 3) / 4)).map (fun k => x / 4 * 4 + 4 * k)).filter
    (fun w => s.memUe.contains (s.physByte w / 4))

/-- The 64-bit pairs of a DRAM range that are marked uncorrectable, as usable offsets. -/
def State.dramBad (s : State) (x n : Nat) : List Nat :=
  ((List.range ((x % 8 + n + 7) / 8)).map (fun k => x / 8 * 8 + 8 * k)).filter (fun w => s.dramUe.contains (w / 8))

/-- The mark of a word written whole cleared (R404). -/
def State.ocmClean (s : State) (x : Nat) : State :=
  { s with memUe := s.memUe.filter (fun k => decide (k ≠ s.physByte x / 4)),
           memCarried := s.memCarried.filter (fun k => decide (k ≠ s.physByte x / 4)) }

/-- The mark of a pair written whole cleared (R430). -/
def State.dramClean (s : State) (x : Nat) : State := { s with dramUe := s.dramUe.filter (fun k => decide (k ≠ x / 8)) }

/-- A corrected on-chip word (R407): counted, and event 0xB001 once until CE is cleared. -/
def State.ocmCe (s : State) (x : Nat) : State :=
  (s.count MEM_CE_COUNT 1).flagOnce MEM_STATUS_CE 0xB001 noSource (ocmBase + x)

/-- Whether a repair of a bank would be new (R417): it is not under test or repair. -/
def State.repairNew (s : State) (b : Nat) : Bool :=
  !s.memory.repairs.contains b && !s.memory.copies.any (fun c => decide (c.bank = b)) &&
    !(match s.memory.testing with
      | some (l, _) => decide (l = b)
      | none => false)

/-- The free spares (R403): physical banks that back no logical bank, are not retired, and are neither being copied into nor under test. -/
def State.spares (s : State) : List Nat :=
  (List.range 68).filter (fun j =>
    !(List.range 64).any (fun b => decide (s.phys b = j)) && !bitOf (s.get (MEM_RETIRED (j / 32))) (j % 32) &&
      !s.memory.copies.any (fun c => decide (c.spare = j)) && decide (s.memory.testing.map (fun t => t.2) ≠ some j))

/-- MEM_STATUS.SPARES_FREE follows the spares. -/
def State.spareCount (s : State) : State := s.set MEM_STATUS_SPARES_FREE (min 7 s.spares.length)

/-- A bank that waits for a spare (R416, R417). -/
def State.spareWait (s : State) (b : Nat) : State :=
  let evt := s.bit MEM_STATUS_NO_SPARE && s.memory.waitEvt
  (s.flag MEM_STATUS_NO_SPARE).updMem (fun z =>
    { z with wait := (if s.memory.wait.isNone then some (s.now, b) else s.memory.wait), waitEvt := evt })

/-- The copy of a bank into a spare begins (R416, R417). -/
def State.copyStart (s : State) (b spare : Nat) (repair : Bool) : State :=
  let wait := match s.memory.wait with
    | some (t, k) => if k = b then none else some (t, k)
    | none => none
  ((s.updMem (fun z => { z with copies := s.memory.copies ++ [(⟨b, spare, repair⟩ : BankCopy)], wait := wait }))).spareCount

/-- A repair of a bank begins, or waits for a spare (R417). -/
def State.repairStart (s : State) (b : Nat) : State :=
  match s.spares with
  | j :: _ => s.copyStart b j true
  | [] =>
    let s1 := s.spareWait b
    (s1.updMem (fun z => { z with repairs := s1.memory.repairs ++ [b] }))

/-- An uncorrectable on-chip word found by a checker (R407): counted, the first one latched, event 0xB002, and with
AUTO_REPAIR the repair of its bank starts unless a copy carried the word over (R417). -/
def State.ocmUe (s : State) (x : Nat) : State :=
  let s1 := s.count MEM_UE_COUNT 1
  let s2 := if s.bit MEM_STATUS_UE then s1 else (s1.set MEM_UE_ADDR (ocmBase + x)).flag MEM_STATUS_UE
  let s3 := s2.raise 0xB002 noSource (ocmBase + x)
  if s3.bit MEM_CFG_AUTO_REPAIR && !s3.memCarried.contains (s.physByte x / 4) && s3.repairNew (bankOf x) then
    s3.repairStart (bankOf x)
  else s3

/-- A corrected DRAM pair (R430). -/
def State.dramCe (s : State) (x : Nat) : State :=
  (s.count DRC_CE_COUNT 1).flagOnce DRC_STATUS_CE 0xC001 noSource (dramBase + x)

/-- An uncorrectable DRAM pair (R430). -/
def State.dramUeHit (s : State) (x : Nat) : State :=
  let s1 := s.count DRC_UE_COUNT 1
  let s2 :=
    if s.bit DRC_STATUS_UE then s1
    else (s1.set64 DRC_UE_ADDR_LO_ADDR DRC_UE_ADDR_HI_ADDR (dramBase + x)).flag DRC_STATUS_UE
  s2.raise 0xC002 noSource (dramBase + x)

/-- Every uncorrectable word of an on-chip range reported (R407). -/
def State.ocmCheck (s : State) (x n : Nat) : State := (s.ocmBad x n).foldl State.ocmUe s

/-- Every uncorrectable pair of a DRAM range reported (R430). -/
def State.dramCheck (s : State) (x n : Nat) : State := (s.dramBad x n).foldl State.dramUeHit s

/-- An upset in the on-chip word about to be read: a single-bit error is corrected when it is read, a double-bit error
stays until the word is written (R407). -/
def State.ocmUpset (s : State) (e : Ecc) (x : Nat) : State :=
  match e with
  | .ok => s
  | .single => s.ocmCe (x / 4 * 4)
  | .double =>
    if s.memUe.contains (s.physByte x / 4) then s else { s with memUe := s.memUe ++ [s.physByte x / 4] }

/-- An upset in the DRAM pair about to be read (R430). -/
def State.dramUpset (s : State) (e : Ecc) (x : Nat) : State :=
  match e with
  | .ok => s
  | .single => s.dramCe (x / 8 * 8)
  | .double => if s.dramUe.contains (x / 8) then s else { s with dramUe := s.dramUe ++ [x / 8] }

/-- The logical banks a range of on-chip bytes touches. -/
def banksOf (x n : Nat) : List Nat := (List.range ((x % 0x100000 + n + 0xFFFFF) / 0x100000)).map (fun k => bankOf x + k)

/-- How the memory behind a region serves a range of it. -/
def State.rangeServed (s : State) (r : Region) (n : Nat) : Served :=
  match r with
  | .ocm x =>
    if (banksOf x n).any (fun b => decide (s.bankServed b = .off)) then .off
    else if (banksOf x n).any (fun b => decide (s.bankServed b = .stall)) then .stall
    else .ok
  | .dram x => s.dramServed x
  | _ => .ok

/-- Bytes from offset x cut at multiples of a unit. -/
def cutBytes (unit : Nat) : Nat → Nat → List Byte → List (Nat × List Byte)
  | 0, _, _ => []
  | fuel + 1, x, bs =>
    if bs.isEmpty then []
    else
      let k := unit - x % unit
      (x, bs.take k) :: cutBytes unit fuel (x + k) (bs.drop k)

/-- One port B write within a word (R404): a whole word replaces it; less than a word is a read-modify-write, which an
uncorrectable word refuses. -/
def State.ocmPutPart (s : State) (p : Nat × List Byte) : State :=
  if p.2.length = 4 then (s.ocmWrite p.1 p.2).ocmClean p.1
  else if s.memUe.contains (s.physByte p.1 / 4) then (s.ocmUe (p.1 / 4 * 4)).flag MEM_STATUS_RMW_UE
  else s.ocmWrite p.1 p.2

/-- A port B write of bytes (R404). -/
def State.portBPut (s : State) (x : Nat) (bs : List Byte) : State :=
  (cutBytes 4 bs.length x bs).foldl State.ocmPutPart s

/-- One DRAM write within a pair (R430). -/
def State.dramPutPart (s : State) (p : Nat × List Byte) : State :=
  if p.2.length = 8 then (s.dramWrite p.1 p.2).dramClean p.1
  else if s.dramUe.contains (p.1 / 8) then (s.count DRC_UE_COUNT 1).flag DRC_STATUS_RMW_UE
  else s.dramWrite p.1 p.2

/-- A DRAM write of bytes (R429, R430). -/
def State.dramPut (s : State) (x : Nat) (bs : List Byte) : State :=
  (cutBytes 8 bs.length x bs).foldl State.dramPutPart s

/-- The status bit for an access to a bank or DRAM domain that is not served (R412, R445). -/
def State.offAccess (s : State) (r : Region) : State :=
  match r with
  | .ocm _ => s.flag MEM_STATUS_OFF_ACCESS
  | .dram _ => s.flag DRC_STATUS_OFF_ACCESS
  | _ => s

/-- What the device itself reads from a region of memory, zeros where it is not served (R412, R445). -/
def State.getRegion (s : State) (r : Region) (n : Nat) : List Byte :=
  if s.rangeServed r n = .off then List.replicate n 0
  else
    match r with
    | .ocm x => s.ocmRead x n
    | .dram x => s.dramRead x n
    | _ => List.replicate n 0

/-- An unmapped address accessed (R21): UNMAPPED is set, and the first such address latched. -/
def State.unmapped (s : State) (addr : Nat) : State :=
  (if s.bit SYS_ARCH_STATUS_UNMAPPED then s
    else s.set64 SYS_UNMAPPED_ADDR_LO_ADDR SYS_UNMAPPED_ADDR_HI_ADDR (addr % 2 ^ 64)).flag SYS_ARCH_STATUS_UNMAPPED

/-- The checks of a read by the device itself (R21, R407, R412, R430, R445). -/
def State.checkRegion (s : State) (r : Region) (n : Nat) : State :=
  if s.rangeServed r n = .off then s.offAccess r
  else
    match r with
    | .ocm x => s.ocmCheck x n
    | .dram x => s.dramCheck x n
    | .unmapped a => s.unmapped a
    | _ => s

/-- The checks of a read by the device itself of a table of `n` bytes, none if it is empty. -/
def State.checkTable (s : State) (addr n : Nat) : State :=
  if n = 0 then s else s.checkRegion (regionOf s.usable addr) n

/-- Whether a range holds an uncorrectable word. -/
def State.badRegion (s : State) (r : Region) (n : Nat) : Bool :=
  match r with
  | .ocm x => !(s.ocmBad x n).isEmpty
  | .dram x => !(s.dramBad x n).isEmpty
  | _ => false

/-- The region of a device address now. -/
def State.region (s : State) (addr : Nat) : Region := regionOf s.usable addr

/-- Whether a range of device addresses lies wholly in on-chip memory outside the secure region, or wholly in usable DRAM
(R227, R287, R324, R346, R533). -/
def State.placed (s : State) (addr n : Nat) : Bool := inOcm addr n || inDram s.usable addr n

/-- A ring well placed as a fail-log ring is (R227): wholly in on-chip memory outside the secure region or wholly in usable DRAM, and of at least
160 B. -/
def State.ringPlaced (s : State) (base size : Nat) : Bool := s.placed base size && decide (160 ≤ size)

end Sys2Proof.Machine
end

