-- ==== Sys2Proof/Machine/Uses.lean ====
section
/-! DEFINITION. What a site is using (R131, R326), the places of lines
in DRAM (R432), and the writes of the device itself to memory (R412, R413, R445). -/
namespace Sys2Proof.Machine

/-! Ranges. -/

/-- Whether `n` bytes from a meet `m` bytes from b. -/
def rangesMeet (a n b m : Nat) : Bool := decide (a < b + m) && decide (b < a + n)

/-- Whether two lists of ranges meet: first address and length of each. -/
def anyMeet (xs ys : List (Nat × Nat)) : Bool := xs.any (fun a => ys.any (fun b => rangesMeet a.1 a.2 b.1 b.2))

/-- A range, left out where it is empty. -/
def spanAt (base n : Nat) : List (Nat × Nat) := if n = 0 then [] else [(base, n)]

/-! What a site is using. -/

/-- The value of a configuration field as latched when the site armed. -/
def State.cfg (s : State) (i : Nat) (f : Fld) : Nat := fieldGet f.lo f.len (Sparse.get resetWord (s.site i).shadow f.addr)

/-- The bytes of a segment (R128): of a resident one, a range in each bank of its stripe; of a DRAM one, its data and its mirror. -/
def SegEntry.spans (e : SegEntry) : List (Nat × Nat) :=
  if e.loc then (e.addr, 8 * e.length) :: (if e.mirrorEn then [(e.mirror, 8 * e.length)] else [])
  else
    let w := e.stripe + 1
    let units := ceilDiv (8 * e.length) 32
    (List.range w).flatMap (fun k => spanAt (ocmBase + (e.bank + k) * 0x100000 + e.addr) (32 * ((units + (w - 1 - k)) / w)))

/-- The segments of a site that are QUEUED or ACTIVE. -/
def State.liveSegs (s : State) (i : Nat) : List SegEntry :=
  ((s.site i).segs.filter (fun g => decide (g.2.state ≠ .inactive))).map (fun g => g.2.entry)

/-- The data of the live segments of a site. -/
def State.segSpans (s : State) (i : Nat) : List (Nat × Nat) := (s.liveSegs i).flatMap SegEntry.spans

/-- The base of the fail-log ring of a site: bits [2:0] are ignored (R241). -/
def State.flogBase (s : State) (i : Nat) : Nat :=
  (s.cfg i (SITE_FLOG_BASE_LO_BASE i) + 2 ^ 32 * s.cfg i (SITE_FLOG_BASE_HI_BASE i)) / 8 * 8

/-- The size of that ring: bits [2:0] are ignored (R241). -/
def State.flogSize (s : State) (i : Nat) : Nat := s.cfg i (SITE_FLOG_SIZE i) / 8 * 8

/-- The base of the result ring of the engine for a site (R324). -/
def State.resBase (s : State) (i : Nat) : Nat :=
  (s.cfg i (XE_SITE_RES_BASE_LO_BASE i) + 2 ^ 32 * s.cfg i (XE_SITE_RES_BASE_HI_BASE i)) / 8 * 8

/-- The size of that ring. -/
def State.resSize (s : State) (i : Nat) : Nat := s.cfg i (XE_SITE_RES_SIZE i) / 8 * 8

/-- The base of the interval ring: bits [3:0] are ignored (R302). -/
def State.ivlBase (s : State) : Nat := s.get64 RED_IVL_BASE_LO_BASE RED_IVL_BASE_HI_BASE / 16 * 16

/-- The list state of a site. -/
def State.xeSite (s : State) (i : Nat) : XeSite := Sparse.get (fun _ => XeSite.reset) s.xe.sites i

/-- The 32-bit word at an on-chip device address; 0 outside on-chip memory. -/
def State.ocmAt (s : State) (addr : Nat) : Nat :=
  match s.region (addr / 4 * 4) with
  | .ocm x => leNat (s.getRegion (.ocm x) 4)
  | _ => 0

/-- A transaction entry (R309). -/
def State.entryAt (s : State) (at_ : Nat) : XeTxn :=
  let w (k : Nat) : Nat := s.ocmAt (at_ + 4 * k)
  { port := bitsOf (w 0) 0 7, tpl := bitsOf (w 0) 8 8, bits := bitsOf (w 0) 16 13, addr := w 1, dout := w 2, exp := w 3, tag := w 4,
    flag := if bitOf (w 5) 0 then some (bitsOf (w 5) 1 4) else none, dir := bitOf (w 5) 8, holdCs := bitOf (w 5) 9 }

/-- The spans of a transaction entry at an address (R309, R312): the entry, its DOUT, its EXP with the mask, and its user template. -/
def State.txnSpans (s : State) (at_ : Nat) : List (Nat × Nat) :=
  let t := s.entryAt at_
  let slot := s.get XE_TPL_BASE / 8 * 8 + 8 * (t.tpl - 0x40)
  [(at_, 32)] ++ spanAt t.dout (ceilDiv t.bits 8) ++ (if t.exp = 0 then [] else spanAt t.exp (8 * ceilDiv t.bits 32)) ++
    (if 0x40 ≤ t.tpl ∧ t.tpl < 0x40 + s.get XE_TPL_COUNT then
      (slot, 8) :: spanAt (s.ocmAt slot) (16 * min 1024 (bitsOf (s.ocmAt (slot + 4)) 0 11))
    else [])

/-- What a site in XACT is using (R326): its lists, and the entries of the list in progress with what they name. -/
def State.xactSpans (s : State) (i : Nat) : List (Nat × Nat) :=
  if s.siteSt i ≠ stXact then []
  else
    let x := s.xeSite i
    spanAt (s.cfg i (XE_SITE_LIST_BASE i) / 8 * 8) (8 * s.cfg i (XE_SITE_LIST_COUNT i)) ++
      (List.range x.count).flatMap (fun k => s.txnSpans (x.addr + 32 * k))

/-- What must not be written for a site now: entry and data of its live segments (R131), and its transaction tables (R326). -/
def State.liveSpans (s : State) (i : Nat) : List (Nat × Nat) :=
  (s.liveSegs i).map (fun e => (e.tabAddr, 32)) ++ s.segSpans i ++ s.xactSpans i

/-! Writes to it. -/

/-- A device address without the window of an alias (R20, R409). -/
def plainAddr (addr : Nat) : Nat :=
  if 0x50000000 ≤ addr ∧ addr < 0x54000000 then addr - 0x10000000
  else if 0x60000000 ≤ addr ∧ addr < 0x64000000 then addr - 0x20000000
  else addr

/-- The sites that are using one of `n` bytes from an address; a site as after reset uses none. -/
def State.usedBy (s : State) (addr n : Nat) : List Nat :=
  if n = 0 then [] else (s.sites.map (fun e => e.1)).filter (fun i => anyMeet [(plainAddr addr, n)] (s.liveSpans i))

/-- The waveform and results of a site are undefined until its burst ends, or until the end of its next burst where it is IDLE (R131, R326). -/
def State.markUndef (s : State) (i : Nat) : State :=
  if s.idle i then s.updSite i (fun t => { t with unsure := true }) else s.updBurst i (fun b => { b with undef := true })

/-- A write of `n` bytes marks every site that is using one of them. -/
def State.touch (s : State) (addr n : Nat) : State := (s.usedBy addr n).foldl State.markUndef s

/-! The DRAM configuration in force (R427, R449). -/

/-- ORDER. -/
def State.drcOrder (s : State) : Nat := fieldGet 0 2 s.drc.cfg
/-- The base-2 logarithm of the number of channels. -/
def State.drcLc (s : State) : Nat := 2 + min 2 (fieldGet 2 2 s.drc.cfg)
/-- The base-2 logarithm of the number of ranks. -/
def State.drcLr (s : State) : Nat := fieldGet 4 1 s.drc.cfg

/-! Address orders (R432). -/

/-- The place of a line: channel, rank-bank (rank times 16 plus bank) and row. -/
structure LinePlace where
  chan : Nat
  bank : Nat
  row : Nat
  deriving DecidableEq, Repr

/-- The place of a usable offset under an order, for `lc` channel bits and `lr` rank bits. -/
def placeOf (order lc lr u : Nat) : LinePlace :=
  let low := 11 + lc
  let bg := bitsOf u low 2
  let ba := bitsOf u (low + 2) 2
  let rk := bitsOf u (low + 4) lr
  let row := u >>> (low + 4 + lr)
  let chan := match order with
    | 1 => bitsOf u 8 lc
    | 2 => bitsOf u 11 lc
    | _ => bitsOf u 5 lc
  if order = 3 then
    ⟨chan ^^^ bitsOf row 4 lc, rk * 16 + 4 * (bg ^^^ bitsOf row 0 2) + (ba ^^^ bitsOf row 2 2), row⟩
  else ⟨chan, rk * 16 + 4 * bg + ba, row⟩

/-- The place of a usable offset now. -/
def State.place (s : State) (u : Nat) : LinePlace := placeOf s.drcOrder s.drcLc s.drcLr u

/-! Requests of other agents than stream engines. -/

/-- The line requests of `n` bytes from a usable offset (R433). -/
def State.lineReqs (s : State) (kind : DrcKind) (site seg off u n : Nat) : List DrcReq :=
  (List.range (ceilDiv (u % 32 + n) 32)).map (fun k =>
    let p := s.place (u / 32 * 32 + 32 * k)
    ⟨kind, site, seg, off + 32 * k, p.chan, p.bank, p.row⟩)

/-- An access of `n` bytes of DRAM by an agent other than a stream engine: its requests come to the input of the controller, where they wait in order of
arrival with those of the streams (R196, R433). What it writes is read back from then on (R436). -/
def State.dramAsk (s : State) (kind : DrcKind) (r : Region) (n : Nat) : State :=
  match r with
  | .dram u => s.updDrc (fun d => { d with input := d.input ++ s.lineReqs kind 0 0 (u / 32 * 32) u n })
  | _ => s

/-! Writes of the device itself. -/

/-- Bytes that the device itself writes reach memory: a bank or domain that is Off discards them (R412, R445), and while one wakes or clears they
wait (R413, R445). -/
def State.storeRegion (s : State) (r : Region) (bs : List Byte) : State :=
  match s.rangeServed r bs.length with
  | .off => s.offAccess r
  | .stall => s.updMem (fun m => { m with late := m.late ++ [(r.addr, bs)] })
  | .ok =>
    match r with
    | .ocm x => s.portBPut x bs
    | .dram x => s.dramPut x bs
    | .unmapped a => s.unmapped a
    | _ => s

/-- The writes of the device that wait are performed, in their order. -/
def State.storeLate (s : State) : State :=
  s.memory.late.foldl (fun u w => u.storeRegion (u.region w.1) w.2) (s.updMem (fun m => { m with late := [] }))

/-- A write by the device itself to a region of memory: rings, results and records. A site that is using a byte of it has an undefined waveform
from then on (R131, R326). -/
def State.putRegion (s : State) (r : Region) (bs : List Byte) : State := (s.touch r.addr bs.length).storeRegion r bs

/-- A write into a ring at device address base, of `size` bytes, from byte offset off on, wrapping at its end. -/
def State.ringPut (s : State) (base size off : Nat) (bs : List Byte) : State :=
  let k := min bs.length (size - off)
  let s1 := s.putRegion (regionOf s.usable (base + off)) (bs.take k)
  if k < bs.length then s1.putRegion (regionOf s.usable base) (bs.drop k) else s1

/-- Whole words that port A puts into a site's buffer or loop cache (R404), of `size` bytes at a device address, from byte offset off on,
wrapping at its end. -/
def State.portAFill (s : State) (base size off : Nat) (bs : List Byte) : State :=
  let x := base / 0x1000 * 0x1000 % 0x4000000
  let k := min bs.length (size - off)
  if size = 0 ∨ 0x4000000 < x + size then s
  else
    let s1 := s.storeRegion (.ocm (x + off)) (bs.take k)
    if k < bs.length then s1.storeRegion (.ocm x) (bs.drop k) else s1

/-- A capture write into a ring (R196, R233, R346): its part in DRAM asks the controller. -/
def State.captPut (s : State) (base size off : Nat) (bs : List Byte) : State :=
  let k := min bs.length (size - off)
  let s1 := (s.ringPut base size off bs).dramAsk .capture (s.region (base + off)) k
  if k < bs.length then s1.dramAsk .capture (s.region base) (bs.length - k) else s1

end Sys2Proof.Machine
end

