-- ==== Sys2Proof/Machine/Audit.lean ====
section
/-! DEFINITION. The audit log (R533 to R539) and register writes with their record (R5, R536). -/
namespace Sys2Proof.Machine

/-! The audit log (R533 to R539). -/

/-- The length of a record in bytes: 192 for a checkpoint, else 32 (R534). -/
def AudRec.len (r : AudRec) : Nat := if r.kind = 0x10 then 192 else 32

/-- The 32 common bytes of a record (R534). -/
def AudRec.bytes (r : AudRec) (seq : Nat) : List Byte :=
  leBytes 4 (r.kind + 2 ^ 8 * r.origin + 2 ^ 12 * (r.len / 32) + 2 ^ 16 * r.source) ++ leBytes 4 seq ++ leBytes 8 r.tick ++
    leBytes 4 r.addr ++ leBytes 4 r.old ++ leBytes 4 r.new ++ leBytes 4 r.data

/-- The base of the audit ring: bits [4:0] are ignored (R545). -/
def State.audBase (s : State) : Nat := s.get64 AUD_RING_BASE_LO_BASE AUD_RING_BASE_HI_BASE / 32 * 32

/-- The size of the audit ring. -/
def State.audSize (s : State) : Nat := s.get AUD_RING_SIZE / 32 * 32

/-- Whether the audit ring is well placed (R533). -/
def State.audPlaced (s : State) : Bool := s.placed s.audBase s.audSize && decide (192 ≤ s.audSize)

/-- Whether the ring can be written now: the boot march has mapped the banks (R418), the ring is well placed, and its memory serves (R537). -/
def State.audOpen (s : State) : Bool :=
  decide (2 < s.get NVM_STATUS_STAGE) && s.audPlaced && decide (s.rangeServed (regionOf s.usable s.audBase) s.audSize = .ok)

/-- Whether a record of a length fits the ring now; in WRAP mode it always does (R537). -/
def State.audFits (s : State) (n : Nat) : Bool :=
  s.audOpen && (s.bit AUD_CFG_MODE || decide (n ≤ s.audSize - s.aud.used))

/-- The oldest records overwritten in WRAP mode until `n` bytes are free (R537); the length of a record stands in its word
0. -/
def State.audMakeRoom : Nat → State → Nat → State
  | 0, s, _ => s
  | fuel + 1, s, n =>
    if n ≤ s.audSize - s.aud.used then s
    else
      let tail := s.get AUD_RING_TAIL
      let w := leNat (s.getRegion (regionOf s.usable (s.audBase + tail)) 4)
      let len := 32 * max 1 (bitsOf w 12 4)
      let s1 := (s.set AUD_RING_TAIL ((tail + len) % s.audSize)).flag AUD_STATUS_WRAPPED
      State.audMakeRoom fuel (s1.updAud (fun z => { z with used := s1.aud.used - len })) n

/-- AUD_HEAD follows the write position up to the first unsigned checkpoint (R539). -/
def State.audHead (s : State) : State :=
  s.set AUD_RING_HEAD
    (match s.aud.signing.find? (fun c => decide (c.base = s.audBase)) with
      | none => s.aud.wpos
      | some c => c.offset)

/-- One record written to the ring (R534, R538, R539): the chain value, AUD_SEQ and the write position advance; a
checkpoint reserves its 192 bytes and waits for its signature. -/
def State.audPut (s : State) (r : AudRec) : State :=
  let s0 := State.audMakeRoom 6 s r.len
  let seq := s0.get AUD_SEQ
  let r' : AudRec :=
    if r.kind = 0x10 then
      { r with addr := s0.aud.ckptFrom, new := s0.aud.ckptCount, data := ofBool s0.nv.identity.isNone }
    else r
  let bs := r'.bytes seq
  let h := sha384 (s0.aud.chain ++ bs)
  let body := if r.kind = 0x10 then bs ++ h ++ List.replicate 112 0 else bs
  let s1 := s0.ringPut s0.audBase s0.audSize s0.aud.wpos body
  let s2 := s1.set AUD_SEQ ((seq + 1) % 2 ^ 32)
  let s3 := (List.range 12).foldl (fun t k => t.set (AUD_CHAIN k) (leNat ((h.drop (4 * k)).take 4))) s2
  let ck := decide (r.kind = 0x10)
  (s3.updAud (fun z => { z with
        chain := h
        wpos := (s0.aud.wpos + r.len) % s0.audSize
        used := s0.aud.used + r.len
        ckptFrom := if ck then seq + 1 else s0.aud.ckptFrom
        ckptCount := if ck then 0 else s0.aud.ckptCount + 1
        signing :=
          if ck then s0.aud.signing ++ [(⟨s0.audBase, s0.audSize, s0.aud.wpos, s0.nv.identity, bs ++ h⟩ : AudSigning)]
          else s0.aud.signing }))

/-- A record into the ring, the hold queue of 256, or lost (R537). -/
def State.audEnter (s : State) (r : AudRec) : State :=
  if s.aud.hold.isEmpty && s.audFits r.len then (s.audPut r).audHead
  else
    let s1 := if s.audPlaced then s else s.flagOnce AUD_STATUS_BAD_RING 0xF005 noSource 0
    if s1.aud.hold.length < 256 then (s1.updAud (fun z => { z with hold := s1.aud.hold ++ [r] }))
    else
      let s2 := s1.count AUD_LOST 1
      let s3 := s2.flagOnce AUD_STATUS_LOSS 0xF004 noSource (s2.get AUD_LOST)
      (s3.updAud (fun z => { z with lossOwed := s3.aud.lossOwed + 1 }))

/-- A checkpoint triggered (R539). -/
def State.checkpoint (s : State) (origin : Nat) : State :=
  (s.audEnter ⟨0x10, origin, noSource, s.tick, 0, 0, 0, 0⟩).flag AUD_STATUS_SIGNING

/-- A checkpoint after every AUD_CKPT_N records (R539). -/
def State.autoCheckpoint (s : State) : State :=
  let n := s.get AUD_CKPT_N
  if n ≠ 0 ∧ n ≤ s.aud.ckptCount then s.checkpoint Origin.hw.code else s

/-- An audit record produced now (R534, R535). -/
def State.audit (s : State) (kind : Nat) (o : Origin) (addr old new data : Nat) : State :=
  (s.audEnter ⟨kind, o.code, noSource, s.tick, addr, old, new, data⟩).autoCheckpoint

/-- The held records written while they fit, a LOSS record ahead of them if records were lost (R537). -/
def State.audRelease : Nat → State → State
  | 0, s => s
  | fuel + 1, s =>
    if s.aud.lossOwed ≠ 0 then
      if s.audFits 32 then
        let s1 := (s.audPut ⟨0x0A, Origin.hw.code, noSource, s.tick, 0, 0, 0, s.aud.lossOwed⟩).audHead
        State.audRelease fuel (s1.updAud (fun z => { z with lossOwed := 0 }))
      else s
    else
      match s.aud.hold with
      | [] => s
      | r :: rs =>
        if s.audFits r.len then
          let s1 := (s.audPut r).audHead
          State.audRelease fuel ((s1.updAud (fun z => { z with hold := rs }))).autoCheckpoint
        else s

/-- Every held record that fits written: the queue holds at most 256, and each may bring a checkpoint. -/
def State.audDrain (s : State) : State := State.audRelease 600 s

/-! Register writes with their record (R5, R536). -/

/-- The locked bits of a register; an amendment is not bound by the locks (R531). -/
def State.lockOf (s : State) (o : Origin) (a : Nat) : Word :=
  if o = .amd then 0 else Sparse.get (fun _ => 0) s.locks a

/-- The record of a change of a register: CFG_WRITE if a CFG field changed (R536). -/
def State.auditChange (s : State) (o : Origin) (a : Nat) (d : RegDesc) (old new : Word) : State :=
  if (old ^^^ new) &&& d.cfgMask ≠ 0 then s.audit 1 o a old.toNat new.toNat 0 else s

/-- The record of a write that a lock discards (R5, R535). -/
def State.auditRefused (s : State) (o : Origin) (a : Nat) (d : RegDesc) (v : Word) : State :=
  if d.fields.any (fun f => fieldLocked f (s.lockOf o a)) then s.audit 2 o a (s.reg a).toNat v.toNat 0 else s

/-- A 32-bit write to a register that has no behaviour of its own: its fields take the written value under R5, a changed
CFG field is recorded (R536), and a locked field keeps its value and the attempt is recorded (R5). -/
def State.regWrite (s : State) (o : Origin) (a : Nat) (v : Word) : State :=
  match lookupReg a with
  | none => s
  | some d =>
    let old := s.reg a
    let new := d.store (s.lockOf o a) old v
    ((s.setReg a new).auditChange o a d old new).auditRefused o a d v

/-- A CFG field changed by the device itself, with its record (R6, R536). -/
def State.setCfg (s : State) (f : Fld) (v : Nat) : State :=
  match lookupReg f.addr with
  | none => s
  | some d => (s.set f v).auditChange .hw f.addr d (s.reg f.addr) ((s.set f v).reg f.addr)

/-- A write of a 64-bit value in two registers, taking effect as a whole (R4): one record for each word that changes. -/
def State.regWrite64 (s : State) (o : Origin) (a : Nat) (lo hi : Word) : State := (s.regWrite o a lo).regWrite o (a + 4) hi

/-! 64-bit values (R4). -/

/-- The low word that an origin holds for a register, if any. -/
def State.heldLow (s : State) (o : Origin) (a : Nat) : Option Word :=
  (s.lows.find? (fun h => decide (h.origin = o.code) && decide (h.addr = a))).map (fun h => h.value)

/-- The low words held, without the one of an origin for a register. -/
def State.dropLow (s : State) (o : Origin) (a : Nat) : State :=
  { s with lows := s.lows.filter (fun h => !(decide (h.origin = o.code) && decide (h.addr = a))) }

/-- A low word held for an origin; a second one replaces it. -/
def State.holdLow (s : State) (o : Origin) (a : Nat) (v : Word) : State :=
  let s1 := s.dropLow o a
  { s1 with lows := s1.lows ++ [⟨o.code, a, v⟩] }

/-- A write of one word of a 64-bit value whose low word lies at `a`: the low word (`high` false) is held, and the high word makes the value take
effect as a whole, by `f`. -/
def State.pairWrite (s : State) (o : Origin) (a : Nat) (high : Bool) (v : Word) (f : State → Word → Word → State) : State :=
  if high then f (s.dropLow o a) ((s.heldLow o a).getD (s.reg a)) v else s.holdLow o a v

/-- A write without an audit record, as each target of a broadcast takes it (R23). -/
def State.regWriteQuiet (s : State) (o : Origin) (a : Nat) (v : Word) : State :=
  match lookupReg a with
  | none => s
  | some d => s.setReg a (d.store (s.lockOf o a) (s.reg a) v)

end Sys2Proof.Machine
end

