-- ==== Sys2Proof/Machine/FlowOps.lean ====
section
/-! DEFINITION. Flows of service-level sites: their state, and the signals that end WAIT steps (R338). -/
namespace Sys2Proof.Machine

/-- The flow engine of site i. -/
def State.flow (s : State) (i : Nat) : FlowState := Sparse.get (fun _ => FlowState.reset) s.svc.flows i

/-- The state with a flow engine replaced. -/
def State.setFlow (s : State) (i : Nat) (v : FlowState) : State :=
  (s.updSvc (fun z => { z with flows := Sparse.set (fun _ => FlowState.reset) s.svc.flows i v }))

/-- A flow engine changed by a function. -/
def State.updFlow (s : State) (i : Nat) (f : FlowState → FlowState) : State := s.setFlow i (f (s.flow i))

/-! The states of a flow (R353). -/

/-- STOPPED. -/
def flStopped : Nat := 0
/-- RUNNING. -/
def flRunning : Nat := 1
/-- WAITING. -/
def flWaiting : Nat := 2
/-- HANDLER. -/
def flHandler : Nat := 3
/-- STALLED. -/
def flStalled : Nat := 4
/-- FAULT. -/
def flFault : Nat := 5

/-- The state of a flow (R353). -/
def State.flowSt (s : State) (i : Nat) : Nat := s.get (SVC_STAT_STATE i)

/-- A field of an SVC register as it stood at run start (R333): word n of CFG, FLOW_BASE, FLOW_COUNT, HTAB_BASE, HTAB_COUNT, DLOG_CFG,
DLOG_BASE (two words) and DLOG_SIZE. -/
def State.svcCfg (s : State) (i n : Nat) (f : Fld) : Nat := fieldGet f.lo f.len ((s.flow i).cfg.getD n 0)

/-- The base of the ring in this run: bits [4:0] are ignored (R354). -/
def State.dlogBase (s : State) (i : Nat) : Nat :=
  (s.svcCfg i 6 (SVC_DLOG_BASE_LO_BASE i) + 2 ^ 32 * s.svcCfg i 7 (SVC_DLOG_BASE_HI_BASE i)) / 32 * 32

/-- The size of the ring in this run. -/
def State.dlogSize (s : State) (i : Nat) : Nat := s.svcCfg i 8 (SVC_DLOG_SIZE i) / 32 * 32

/-- Whether a flow waits in a WAIT step for something (1: an epoch, 2: an FSYNC edge, 3: an event bit), and it has not come. -/
def State.flowWaits (s : State) (i what sel : Nat) : Bool :=
  match (s.flow i).wait with
  | .wait w e _ _ _ none => decide (w = what) && decide (e = sel)
  | _ => false

/-- What a WAIT step waits for has come at an instant. -/
def State.flowSignal (s : State) (i what sel t : Nat) : State :=
  if s.flowWaits i what sel then
    s.updFlow i (fun f =>
      match f.wait with
      | .wait w e a u o none => { f with wait := .wait w e a u o (some t) }
      | _ => f)
  else s

/-- Every site's flow told (R42, R52, R369). -/
def State.flowsSignal (s : State) (what sel t : Nat) : State :=
  (List.range 16).foldl (fun u i => u.flowSignal i what sel t) s

end Sys2Proof.Machine
end

