-- ==== Sys2Proof/Machine/Placement.lean ====
section
/-! DEFINITION. Where the tables, segments, buffers and rings of the sites lie, and what leaves the waveform and results of a site undefined: those that
overlap (R126, R200, R202, R227). -/
namespace Sys2Proof.Machine

/-- The number of ids of a site (R126). -/
def State.segCount (s : State) (i : Nat) : Nat := s.get (SITE_SEGTAB_RANGE_LAST i) + 1 - s.get (SITE_SEGTAB_RANGE_FIRST i)

/-- The segment table of a site (R126, R160). -/
def State.tableSpan (s : State) (i : Nat) : List (Nat × Nat) := spanAt (s.get (SITE_SEGTAB_BASE i) / 32 * 32) (32 * s.segCount i)

/-- The ids of a site. -/
def State.idSpan (s : State) (i : Nat) : List (Nat × Nat) := spanAt (s.get (SITE_SEGTAB_RANGE_FIRST i)) (s.segCount i)

/-- A configuration field of a site: as latched for its burst, and of an IDLE site as it stands. -/
def State.cfgNow (s : State) (i : Nat) (f : Fld) : Nat := if s.idle i then s.get f else s.cfg i f

/-- The stream buffer and the loop cache of a site (R200, R202, R213, R214). -/
def State.bufSpans (s : State) (i : Nat) : List (Nat × Nat) :=
  spanAt (s.cfgNow i (SITE_STR_BUF_BASE i) / 0x1000 * 0x1000) (1024 * s.cfgNow i (SITE_STR_BUF_SIZE i)) ++
    spanAt (s.cfgNow i (SITE_LC_BASE i) / 0x1000 * 0x1000) (1024 * s.cfgNow i (SITE_LC_SIZE i))

/-- Whether a run of a site's flow is in progress (R333). -/
def State.flowRuns (s : State) (i : Nat) : Bool := decide (s.flowSt i ≠ flStopped) && decide (s.flowSt i ≠ flFault)

/-- The transaction lists of a site (R308), and while they are in use its entries (R326) and the flow and handler tables of its run (R332, R343). -/
def State.listSpans (s : State) (i : Nat) : List (Nat × Nat) :=
  spanAt (s.cfgNow i (XE_SITE_LIST_BASE i) / 8 * 8) (8 * s.cfgNow i (XE_SITE_LIST_COUNT i)) ++ s.xactSpans i ++
    (if s.flowRuns i then
      spanAt (s.svcCfg i 1 (SVC_FLOW_BASE i) / 32 * 32) (32 * min 1024 (s.svcCfg i 2 (SVC_FLOW_COUNT i))) ++
        spanAt (s.svcCfg i 3 (SVC_HTAB_BASE i) / 8 * 8) (8 * min 64 (s.svcCfg i 4 (SVC_HTAB_COUNT i)))
    else [])

/-- The rings that the device writes for a site, whose placement obeys R227: the fail log where MODE is not OFF, the result ring of the engine
(R324), and the datalog of a run (R346). -/
def State.ringSpans (s : State) (i : Nat) : List (Nat × Nat) :=
  (if s.cfgNow i (SITE_FLOG_CFG_MODE i) = 0 then []
    else spanAt ((s.cfgNow i (SITE_FLOG_BASE_LO_BASE i) + 2 ^ 32 * s.cfgNow i (SITE_FLOG_BASE_HI_BASE i)) / 8 * 8)
      (s.cfgNow i (SITE_FLOG_SIZE i) / 8 * 8)) ++
    spanAt ((s.cfgNow i (XE_SITE_RES_BASE_LO_BASE i) + 2 ^ 32 * s.cfgNow i (XE_SITE_RES_BASE_HI_BASE i)) / 8 * 8)
      (s.cfgNow i (XE_SITE_RES_SIZE i) / 8 * 8) ++
    (if s.flowRuns i then spanAt (s.dlogBase i) (s.dlogSize i) else [])

/-- What no ring may overlap of a site (R227): its buffer and cache, its tables, and its segments. -/
def State.heldSpans (s : State) (i : Nat) : List (Nat × Nat) := s.bufSpans i ++ s.tableSpan i ++ s.segSpans i ++ s.listSpans i

/-- Whether the tables, buffers and rings leave the waveform and results of a site undefined: its ids or its table meet those of another site
(R126); its buffer or cache lies outside on-chip memory, in the secure region, or over a buffer, cache, table or resident segment of another
site (R200, R202); or a ring meets a buffer, cache, table or segment, where the ring or the other is the site's (R227). The interval ring (R287) is
no site's. -/
def State.misplaced (s : State) (i : Nat) : Bool :=
  let all := List.range 16
  let others := all.filter (fun j => decide (j ≠ i))
  others.any (fun j => anyMeet (s.idSpan i) (s.idSpan j) || anyMeet (s.tableSpan i) (s.tableSpan j)) ||
    (s.bufSpans i).any (fun r => !inOcm r.1 r.2) ||
    others.any (fun j => anyMeet (s.bufSpans i) (s.bufSpans j ++ s.tableSpan j ++ s.segSpans j)) ||
    all.any (fun j => anyMeet (s.ringSpans i) (s.heldSpans j) || anyMeet (s.ringSpans j) (s.heldSpans i)) ||
    anyMeet (spanAt s.ivlBase (s.get RED_IVL_SIZE)) (s.heldSpans i)

/-- Every burst in progress whose site is misplaced is undefined until it ends (R126, R200, R202, R227): seen whenever a site arms, a segment is
published, a run starts or the interval ring is placed. -/
def State.overlapMarks (s : State) : State :=
  ((List.range 16).filter (fun i => !s.idle i && s.misplaced i)).foldl
    (fun u i => u.updBurst i (fun b => { b with undef := true })) s

end Sys2Proof.Machine
end

