-- ==== Sys2Proof/Machine/Arch.lean ====
section
/-! DEFINITION. Ownership and operating levels of the sites (R25 to R29, R606). -/
namespace Sys2Proof.Machine

/-- Whether a present or new owner lets a group change hands: it is absent or IDLE (R25). -/
def State.ownerFree (s : State) (o : Option Nat) : Bool :=
  match o with
  | none => true
  | some i => s.idle i

/-- Whether group g may change from its present owner to a new one (R25). -/
def State.mapAllowed (s : State) (g : Nat) (new : Option Nat) : Bool := s.ownerFree (s.owner g) && s.ownerFree new

/-- One field of a conditional write: the value that the write gives it, and whether it was refused with a change (R25,
R606). A field the write does not take keeps its value; a locked field would not have changed, and is left to R5. -/
def partWrite (locked allowed : Bool) (old new : Nat) : Nat × Bool :=
  if locked || allowed then (new, false) else (old, decide (old ≠ new))

/-- Whether bits of a register are locked for an origin. -/
def State.lockedAt (s : State) (o : Origin) (a lo len : Nat) : Bool := decide (fieldGet lo len (s.lockOf o a) ≠ 0)

/-- A word built from conditional fields of `len` bits each, from field `k` on, with whether any was refused. -/
def partWord (len : Nat) (f : Nat → Nat × Bool) : Nat → Word → Word × Bool
  | 0, w => (w, false)
  | k + 1, w =>
    let (w1, b1) := partWord len f k w
    let (v, b) := f k
    (fieldPut (len * k) len w1 v, b1 || b)

/-- The owner that group g would have after SYS_GROUP_SITE names site v for it. -/
def State.newSiteOwner (s : State) (g v : Nat) : Option Nat := if s.owned g then some v else none

/-- SYS_GROUP_SITEn written with v: the word that takes effect, and whether a group was refused. -/
def State.groupSiteWord (s : State) (o : Origin) (n : Nat) (v : Word) : Word × Bool :=
  partWord 4
    (fun k =>
      partWrite (s.lockedAt o (0x100 + 4 * n) (4 * k) 4) (s.mapAllowed (8 * n + k) (s.newSiteOwner (8 * n + k) (fieldGet (4 * k) 4 v)))
        (s.get (SYS_GROUP_SITE_SITE_G n k)) (fieldGet (4 * k) 4 v))
    8 v

/-- SYS_GROUP_OWNEDn written with v: the word that takes effect, and whether a group was refused. -/
def State.groupOwnedWord (s : State) (o : Origin) (n : Nat) (v : Word) : Word × Bool :=
  partWord 1
    (fun k =>
      let g := 32 * n + k
      partWrite (s.lockedAt o (0x120 + 4 * n) 0 32)
        (s.mapAllowed g
          (if fieldGet k 1 v ≠ 0 then some (s.get (SYS_GROUP_SITE_SITE_G (g / 8) (g % 8))) else none))
        (ofBool (s.owned g)) (fieldGet k 1 v))
    32 v

/-- A write with conditional fields performed: the effective word under R5, and the busy bit if a field that no lock held
was refused (R606). -/
def State.condWrite (s : State) (o : Origin) (a : Nat) (w : Word × Bool) (busy : Fld) : State :=
  (s.regWrite o a w.1).flagIf w.2 busy

/-- A write to SYS_GROUP_SITEn (n < 8) or SYS_GROUP_OWNEDn (R25). -/
def State.groupMapWrite (s : State) (o : Origin) (a : Nat) (v : Word) : State :=
  if 0x100 ≤ a ∧ a < 0x120 then
    s.condWrite o a (s.groupSiteWord o ((a - 0x100) / 4) v) SYS_ARCH_STATUS_MAP_BUSY
  else if 0x120 ≤ a ∧ a < 0x128 then
    s.condWrite o a (s.groupOwnedWord o ((a - 0x120) / 4) v) SYS_ARCH_STATUS_MAP_BUSY
  else s

/-- SYS_SITE_LEVEL written with v: the fields of idle sites change; 0b11 leaves a field unchanged (R25, R28). -/
def State.siteLevelWord (s : State) (o : Origin) (v : Word) : Word × Bool :=
  partWord 2
    (fun k =>
      if fieldGet (2 * k) 2 v = 3 then (s.level k, false)
      else partWrite (s.lockedAt o 0x128 (2 * k) 2) (s.idle k) (s.level k) (fieldGet (2 * k) 2 v))
    16 v

/-- The fields of SYS_SITE_LEVEL as a write leaves them (R25, R28). -/
def State.siteLevelWrite (s : State) (o : Origin) (v : Word) : State :=
  s.condWrite o 0x128 (s.siteLevelWord o v) SYS_ARCH_STATUS_LEVEL_BUSY

/-- GROUP_MAP_WRITE: a write to a SYS_GROUP_SITE or SYS_GROUP_OWNED register (R25). -/
def execGroupMapWrite (o : Origin) (a : Nat) (v : Word) (s : State) : Host.Outcome State Fault Refusal :=
  .next (s.groupMapWrite o a v)

end Sys2Proof.Machine
end

