-- ==== Sys2Proof/Machine/LinkOps.lean ====
section
/-! DEFINITION. Frames of the Iatipin links (R357, R358), sequenced transmission (R359), active links, and the origin and
flooding of events (R368). -/
namespace Sys2Proof.Machine

/-- EPOCH (R358). -/
def ftEpoch : Nat := 0x04
/-- EVENT. -/
def ftEvent : Nat := 0x05
/-- EVT_STATE. -/
def ftEvtState : Nat := 0x06
/-- PROBE. -/
def ftProbe : Nat := 0x02
/-- PROBE_REPLY. -/
def ftProbeReply : Nat := 0x03
/-- NAK. -/
def ftNak : Nat := 0x0A
/-- HELLO. -/
def ftHello : Nat := 0x01
/-- MSG_RD. -/
def ftMsgRd : Nat := 0x07
/-- MSG_WR. -/
def ftMsgWr : Nat := 0x08
/-- MSG_RSP. -/
def ftMsgRsp : Nat := 0x09
/-- IDLE. -/
def ftIdle : Nat := 0x00

/-- Whether a frame type is sequenced (R358). -/
def sequenced (t : Nat) : Bool := [ftEpoch, ftEvent, ftEvtState, ftMsgRd, ftMsgWr, ftMsgRsp].contains t

/-- The start word of a frame (R357). -/
def Frame.start (f : Frame) : Nat :=
  f.type % 2 ^ 8 + 2 ^ 8 * f.data.length + 2 ^ 12 * (f.seq % 2 ^ 12) + 2 ^ 24 * (f.src % 2 ^ 14) + 2 ^ 38 * (f.dest % 2 ^ 14) +
    2 ^ 52 * (f.ack % 2 ^ 12)

/-- The words of a frame: start word, data words and end word with its CRC-32C (R357). -/
def Frame.words (f : Frame) : List Nat :=
  let body := f.start :: f.data.map (fun w => w % 2 ^ 64)
  body ++ [(crc32c (body.flatMap (leBytes 8))).toNat]

/-- Port p of the Constellation unit. -/
def State.port (s : State) (p : Nat) : LinkPort := Sparse.get (fun _ => LinkPort.reset) s.iat.ports p

/-- The state with port p replaced. -/
def State.setPort (s : State) (p : Nat) (v : LinkPort) : State :=
  (s.updIat (fun z => { z with ports := Sparse.set (fun _ => LinkPort.reset) s.iat.ports p v }))

/-- A port changed by a function. -/
def State.updPort (s : State) (p : Nat) (f : LinkPort → LinkPort) : State := s.setPort p (f (s.port p))

/-- Port states (R377): DOWN is 0, TRAINING 1, UP 2, ACTIVE parent 3, STANDBY parent 4. A port is up from 2 on. -/
def State.portUp (s : State) (p : Nat) : Bool := decide (2 ≤ s.get (IAT_PORT_STAT_STATE p))

/-- The role of a port: 0 disabled, 1 downstream, 2 primary upstream, 3 secondary upstream (R360, R377). -/
def State.role (s : State) (p : Nat) : Nat := s.get (IAT_PORT_CFG_ROLE p)

/-- The active parent port, if any (R360, R374). -/
def State.parent (s : State) : Option Nat := if s.get IAT_STATUS_PARENT < 6 then some (s.get IAT_STATUS_PARENT) else none

/-- Whether a port is an active downstream link: UP, with a child that uses it as its active parent (R361, R368). -/
def State.childActive (s : State) (p : Nat) : Bool :=
  decide (s.role p = 1) && s.portUp p &&
    (match (s.port p).hello with
      | none => false
      | some h => decide (h.use = 1))

/-- The active downstream links, ascending. -/
def State.children (s : State) : List Nat := (List.range 6).filter (fun p => s.childActive p)

/-- The active links of R368: the active parent and every active child. -/
def State.activeLinks (s : State) : List Nat :=
  (List.range 6).filter (fun p => decide (s.parent = some p) || s.childActive p)

/-- A frame sent on a port: a sequenced frame takes the next SEQ and is kept until acknowledged, the last 64 of them (R359);
ACK names the last frame received in order. -/
def State.sendFrame (s : State) (p : Nat) (f : Frame) : State :=
  let q := s.port p
  let f' : Frame := { f with ack := (q.expect + 4095) % 4096, seq := if sequenced f.type then q.nextSeq else 0 }
  let q' :=
    if sequenced f.type then
      { q with nextSeq := (q.nextSeq + 1) % 4096, unacked := (q.unacked ++ [(⟨f', s.now, 0⟩ : Sent)]).drop (q.unacked.length + 1 - 64),
               lastSend := s.now }
    else { q with lastSend := s.now }
  (s.setPort p q').emit (.frame p f'.words)

/-- A frame of this device's own, unrouted. -/
def State.ownFrame (s : State) (type : Nat) (data : List Nat) : Frame := ⟨type, 0, s.get IAT_CFG_ADDR, 0, 0, data⟩

/-- A frame sent on every active link but one (R368). -/
def State.flood (s : State) (except : Option Nat) (f : Frame) : State :=
  (s.activeLinks.filter (fun p => decide (except ≠ some p))).foldl (fun u p => u.sendFrame p f) s

/-- APPLY of an event originated now (R368): 0 means on arrival. -/
def State.evtApplyTick (s : State) : Nat :=
  if s.bit IAT_CFG_EVT_ALIGN && s.bit TB_EPOCH_STATUS_ESTABLISHED then
    s.tick + ceilDiv (s.get IAT_TIMING_EVT_DELAY * 16) 5
  else 0

/-- An EVENT frame sent on every active link of its origin (R368). -/
def State.sendEvent (s : State) (apply set clear : Nat) : State :=
  s.flood none (s.ownFrame ftEvent [set + 2 ^ 32 * clear, apply])

end Sys2Proof.Machine
end

