-- ==== Sys2Proof/Machine/PinOps.lean ====
section
/-! DEFINITION. The pin side: waveset entries and placement of edges and strobes (R68 to R81), the driver (R76 to R79, R83,
R100), clock mode (R48, R49, R84), protection (R103 to R106) and the level queue (R107 to R112). -/
namespace Sys2Proof.Machine

/-! Deskew and DAC codes. -/

/-- A word of the committed calibration set, by its offset in the CAL block (R379, R402). -/
def State.calWord (s : State) (off : Nat) : Nat := (Sparse.get (fun _ => (0 : Word)) s.cal.committed off).toNat

/-- FIX of a pin (R379). -/
def State.calFix (s : State) (p : Nat) : Int := s.calWord (0x8008 + 64 * p)

/-- K_p of R69: -(TX_INT + FIX) (R379). -/
def State.deskew (s : State) (p : Nat) : Int := -(signedOf 32 (s.calWord (0x8000 + 64 * p)) + s.calFix p)

/-- The receive deskew of R247: RX_INT + FIX (R379). -/
def State.rxDeskew (s : State) (p : Nat) : Int := signedOf 32 (s.calWord (0x8004 + 64 * p)) + s.calFix p

/-- The correction words of a pin in the committed set: those of its five DACs, then CLH and CLL of its group (R379, R402). -/
def State.corrWords (s : State) (p : Nat) : List Nat :=
  (List.range 5).map (fun i => s.calWord (0x8010 + 64 * p + 4 * i)) ++ [s.calWord (0x4000 + 8 * (p / 8)), s.calWord (0x4004 + 8 * (p / 8))]

/-- g and o of DAC i of a pin in force: those before a commit until the first sample instant after it (R98). -/
def State.calGo (s : State) (p i : Nat) : Int × Int :=
  let w := (match (s.pin p).corrOld with
    | some x => x.2
    | none => s.corrWords p).getD i 0
  (signedOf 16 w, signedOf 16 (w / 2 ^ 16))

/-- A comparator time at the reference plane (R247). -/
def State.atPlane (s : State) (p t : Nat) : Nat := ((t : Int) - s.rxDeskew p).toNat

/-- The position C + T + K (R69). -/
def placeAt (c t : Nat) (k : Int) : Nat := (((c + t : Nat) : Int) + k).toNat

/-- The corrected code before the clamp of R98: c * (1 + g * 2^-20) + o / 16, rounded to the nearest, halves up. -/
def corrected (c : Nat) (g o : Int) : Int := ((c : Int) * (2 ^ 20 + g) * 16 + o * 2 ^ 20 + 2 ^ 23) / 2 ^ 24

/-- The effective code of DAC i of pin p (R98). -/
def State.effCode (s : State) (p i c : Nat) : Nat :=
  let go := s.calGo p i
  (clampInt 0 16383 (corrected c go.1 go.2)).toNat

/-- The ideal codes now at the five DACs of a pin: VIH, VIL, VOH, VOL, VTT (R112, R123). -/
def State.outCodes (s : State) (p : Nat) : List Nat :=
  [s.get (PIN_LVL_OUT0_VIH p), s.get (PIN_LVL_OUT0_VIL p), s.get (PIN_LVL_OUT1_VOH p), s.get (PIN_LVL_OUT1_VOL p),
    s.get (PIN_LVL_OUT2_VTT p)]

/-- Whether the clamp of R98 changes the effective code of DAC i of a pin at an ideal code. -/
def State.dacSat (s : State) (p i c : Nat) : Bool :=
  let go := s.calGo p i
  let v := corrected c go.1 go.2
  decide (v < 0) || decide (16383 < v)

/-- Whether the clamp of R98 changes the effective code of one of the five DACs. -/
def State.corrSat (s : State) (p : Nat) : Bool := (s.outCodes p).zipIdx.any (fun ci => s.dacSat p ci.2 ci.1)

/-- The clamp codes in force of the group with home pin h: CLH, CLL (R103, R118). -/
def State.clampCodes (s : State) (h : Nat) : List Nat :=
  [fieldGet 16 14 (s.pin h).clampIn, fieldGet 0 14 (s.pin h).clampIn]

/-- Whether the clamp of R98 changes the effective code of CLH or CLL of the group with home pin h. -/
def State.clampSat (s : State) (h : Nat) : Bool := (s.clampCodes h).zipIdx.any (fun ci => s.dacSat h (5 + ci.2) ci.1)

/-- CORR_SAT of a group's clamp DACs is set in all eight pins, since the group's two DACs belong to each of them (log 110). -/
def State.clampSatNote (s : State) (h : Nat) : State :=
  if s.clampSat h then (List.range 8).foldl (fun u k => u.flag (PIN_LVL_STAT_CORR_SAT (h / 8 * 8 + k))) s else s

/-! The driver. -/

/-- A drive action code of R75; reserved codes act as none. -/
def driveCode : Nat → Option DriveAct
  | 1 => some (.drive .low)
  | 2 => some (.drive .high)
  | 3 => some (.drive .vtt)
  | 4 => some .release
  | _ => none

/-- An expect code of R75; reserved codes act as X. -/
def expectCode : Nat → Option Expect
  | 1 => some .low
  | 2 => some .high
  | 3 => some .mid
  | 4 => some .valid
  | _ => none

/-- Whether comparator flags pass an expect code (R101). -/
def passes (e : Expect) (low high : Bool) : Bool :=
  match e with
  | .low => low
  | .high => high
  | .mid => !low && !high
  | .valid => low || high

/-- How far an input of v µV lies above the output of a DAC at code c (R97), in µV times 16,384. -/
def overCode (v : Int) (c : Nat) : Int := (v + 1000000) * 16384 - 5000000 * (c : Int)

/-- A comparator flag after its input is at v µV (R101): it turns true once the input has passed the threshold by half the hysteresis of h mV,
and false once it has returned past it by as much. The low flag watches for an input below its threshold. -/
def flagAfter (h c : Nat) (v : Int) (high old : Bool) : Bool :=
  let d := if high then overCode v c else -overCode v c
  let half : Int := 500 * 16384 * h
  if old then !decide (half ≤ -d) else decide (0 < d) && decide (half ≤ d)

/-- The hysteresis in force, in mV (R117). -/
def State.hyst (s : State) (p : Nat) : Nat := min 20 (s.get (PIN_FE_CFG_HYST p))

/-- The threshold code of a flag of a pin: VOH of the high flag, VOL of the low flag. -/
def State.threshold (s : State) (p : Nat) (high : Bool) : Nat :=
  if high then s.get (PIN_LVL_OUT1_VOH p) else s.get (PIN_LVL_OUT1_VOL p)

/-- A pin after reset with its input at v µV: each flag starts from the plain comparison with its threshold (R101). -/
def Pin.resetAt (v : Int) : Pin :=
  { Pin.reset with volt := v, lowFlag := decide (overCode v 0x0CCD < 0), highFlag := decide (0 < overCode v 0x0CCD) }

/-- The power state of an octant. -/
def State.oct (s : State) (k : Nat) : OctPower := Sparse.get (fun _ => OctPower.on) s.pwr.octants k

/-- Whether an octant is not powered: Off, waking, or in FAULT, which behaves as Off (R558). -/
def State.octOff (s : State) (k : Nat) : Bool :=
  match s.oct k with
  | .on => false
  | .pendingOff => false
  | .off => true
  | .waking => true
  | .fault => true

/-- Whether a tripped or re-arming pin is disconnected (R105, R106). -/
def State.disconnected (s : State) (p : Nat) : Bool := s.bit (PIN_FESTAT_TRIP p) || (s.pin p).rearm.isSome || s.octOff (p / 64)

/-- The data of coincident edges (R77): that of the drive action on the highest-numbered D edge, and of two with one number
the later vector's. -/
def combineData : List DriveEdge → Option (Nat × Nat × DataLevel)
  | [] => none
  | e :: es =>
    match e.act with
    | .drive d =>
      match combineData es with
      | none => some (e.num, e.vec, d)
      | some (n, v, d') => if n < e.num ∨ (n = e.num ∧ v < e.vec) then some (e.num, e.vec, d) else some (n, v, d')
    | _ => combineData es

/-- The effect of coincident drive-side edges on the state of a pin (R76, R77). -/
def applyEdges (d : Drive) (es : List DriveEdge) : Drive :=
  let off := es.any (fun e => decide (e.act = .release) || decide (e.act = .off))
  let on := es.any (fun e => match e.act with | .drive _ => true | .on => true | _ => false)
  { enable := if off then false else if on then true else d.enable,
    data := match combineData es with
      | none => d.data
      | some (_, _, v) => v }

/-- A free drive state, where the spec leaves the waveform undefined (R86). -/
def freeDrive (n : Nat) : Drive :=
  { enable := Config.freeBit n, data := if Config.freeBit (n + 1) then .high else if Config.freeBit (n + 2) then .vtt else .low }

/-- The code that a drive state puts on the pin: none for a release under high impedance (R99, R100). The swing of R100 is taken between
corrected codes, which are what the pin drives; the spec does not say which codes it means (log 131, DESIGN CHOICE). -/
def State.levelCode (s : State) (p : Nat) (d : Drive) : Option Nat :=
  if d.enable then
    match d.data with
    | .high => some (s.effCode p 0 (s.get (PIN_LVL_OUT0_VIH p)))
    | .low => some (s.effCode p 1 (s.get (PIN_LVL_OUT0_VIL p)))
    | .vtt => some (s.effCode p 4 (s.get (PIN_LVL_OUT2_VTT p)))
  else if s.get (PIN_FE_CFG_TERM p) = 1 then some (s.effCode p 4 (s.get (PIN_LVL_OUT2_VTT p)))
  else none

/-- Whether a change breaks R100: less than 625 ps after the last one, and by more than 1.5 V, which is 4,915.2 LSB. -/
def swingBroken (last : Option (Nat × Nat)) (pos code : Nat) : Bool :=
  match last with
  | none => false
  | some (p0, c0) => decide (pos < p0 + 2500) && decide (4915 < max code c0 - min code c0)

/-- One state change driven at a position (R79), which puts a code on the pin and follows the last change that counts (R100). -/
def State.driveAs (s : State) (p pos : Nat) (d : Drive) (code : Option Nat) (last : Option (Nat × Nat)) : State :=
  let s1 := (s.emit (.drive p pos d)).updPin p (fun q => { q with lastDriven := some pos })
  match code with
  | none => s1
  | some c => (s1.flagIf (swingBroken last pos c) (PIN_FESTAT_SWING p)).updPin p (fun q => { q with lastLevel := some (pos, c) })

/-- One state change driven now, at a position (R79, R100). -/
def State.driveChange (s : State) (p pos : Nat) (d : Drive) : State := s.driveAs p pos d (s.levelCode p d) (s.pin p).lastLevel

/-- The codes that low, high and VTT data and a release put on a pin now. -/
def State.levelCodes (s : State) (p : Nat) : List (Option Nat) :=
  [⟨true, .low⟩, ⟨true, .high⟩, ⟨true, .vtt⟩, ⟨false, .low⟩].map (fun d => s.levelCode p d)

/-- The place of a drive state in `State.levelCodes`. -/
def Drive.place (d : Drive) : Nat :=
  if d.enable then
    match d.data with
    | .low => 0
    | .high => 1
    | .vtt => 2
  else 3

/-- The open cluster of a pin closed: its net change is driven at its start (R79), at the levels that stood there. -/
def State.closeCluster (s : State) (p : Nat) : State :=
  match (s.pin p).cluster with
  | none => s
  | some c =>
    let s1 := s.updPin p (fun q => { q with cluster := none })
    if c.state = c.before then s1 else s1.driveAs p c.start c.state (c.codes.getD c.state.place none) c.last

/-- A cluster that the time has passed is closed: no edge can join it any more (R79). -/
def State.closeDue (s : State) (p t : Nat) : State :=
  match (s.pin p).cluster with
  | none => s
  | some c => if c.start + 600 ≤ t then s.closeCluster p else s

/-- A cluster opens at a change of the drive state (R79). -/
def State.openCluster (s : State) (p t : Nat) (d : Drive) : State :=
  s.updPin p (fun q => { q with drv := d, cluster := some ⟨t, q.drv, d, s.levelCodes p, q.lastLevel⟩ })

/-- One combined drive-side edge in position order (R78, R79); `d` is the state after it. -/
def State.clusterStep (s : State) (p t : Nat) (d : Drive) : State :=
  match (s.pin p).cluster with
  | some c =>
    if t < c.start + 600 then
      ((s.flag (PIN_TSTAT_MERGED p)).count (PIN_MERGE_COUNT p) 1).updPin p
        (fun q => { q with drv := d, cluster := some { c with state := d } })
    else
      let s1 := s.closeCluster p
      if d = (s.pin p).drv then s1 else s1.openCluster p t d
  | none => if d = (s.pin p).drv then s else s.openCluster p t d

/-- The earliest position among edges. -/
def firstEdge : List DriveEdge → Option Nat
  | [] => none
  | e :: es =>
    match firstEdge es with
    | none => some e.pos
    | some t => some (min e.pos t)

/-- The next drive-side edges of a pin, coincident ones together (R77, R79): they have no effect on a tripped pin (R105),
and a free one where the waveform is undefined (R86). -/
def State.driveNext (s : State) (p : Nat) : State :=
  match firstEdge (s.pin p).edges with
  | none => s
  | some t =>
    let es := (s.pin p).edges.filter (fun e => decide (e.pos = t))
    let s1 := s.updPin p (fun q => { q with edges := q.edges.filter (fun e => decide (e.pos ≠ t)) })
    if s.disconnected p then s1
    else if es.any (fun e => (s.pin p).undefVecs.contains e.vec) then
      (s1.skipFresh 3).clusterStep p t (freeDrive s.fresh)
    else s1.clusterStep p t (applyEdges (s.pin p).drv es)

/-- The drive state of an idle setting (R82, R76). -/
def idleDrive (setting : Nat) (d : Drive) : Drive :=
  match setting with
  | 1 => ⟨true, .low⟩
  | 2 => ⟨true, .high⟩
  | 3 => ⟨true, .vtt⟩
  | _ => { d with enable := false }

/-- A change driven outside the order of the edges, at the later of an instant and 150 ps after the last driven change. Edges of a burst
that follow it by less than 150 ps belong to the cluster that it starts (R79, R82, R83). -/
def State.idleDriven (s : State) (p t : Nat) (d : Drive) : State :=
  let q := s.pin p
  let pos := match q.lastDriven with
    | none => t
    | some l => max t (l + 600)
  (s.driveChange p pos d).updPin p (fun v => { v with drv := d, cluster := some ⟨pos, d, d, s.levelCodes p, q.lastLevel⟩ })

/-- The idle state driven on a connected pin (R76, R82). -/
def State.idleChange (s : State) (p t : Nat) : State :=
  let s0 := s.closeCluster p
  let d := idleDrive (s0.get (PIN_IDLE_DRIVE p)) (s0.pin p).drv
  if d = (s0.pin p).drv then s0 else s0.idleDriven p t d

/-- A pin applies its idle state at the later of an instant and 150 ps after its last driven change (R79, R83). A tripped
pin ignores it (R106). -/
def State.applyIdle (s : State) (p t : Nat) : State :=
  (if s.disconnected p then s else s.idleChange p t).updPin p (fun q => { q with idle := true })

/-! Placement. -/

/-- The word of the waveset entry that symbol k of a pin selects in timeset ts (R70, R74). -/
def State.entryOf (s : State) (p ts k : Nat) : Nat := s.get (PIN_WS_ENTRY p (s.get (PIN_TS_CTRL_WAVESET p ts)) k)

/-- The active drive-side edges of an entry: number and action (R68, R74). -/
def entryEdges (w : Nat) : List (Nat × DriveAct) :=
  ((List.range 4).filterMap (fun e => (driveCode (bitsOf w (3 * e) 3)).map (fun a => (e, a)))) ++
    (if bitOf w 12 then [(4, .on)] else []) ++ (if bitOf w 13 then [(5, .off)] else [])

/-- Whether a field that the entry uses holds a reserved code (R75). -/
def entryReserved (w : Nat) : Bool :=
  (List.range 4).any (fun e => decide (5 ≤ bitsOf w (3 * e) 3)) || decide (5 ≤ bitsOf w 14 3) ||
    (!bitOf w 20 && decide (5 ≤ bitsOf w 17 3))

/-- One drive-side edge placed, or out of range (R69, R71). -/
def State.placeEdge (s : State) (p c period ts vec : Nat) (e : Nat × DriveAct) : State :=
  let t := s.get (PIN_TS_E_TIME p ts e.1)
  if t < 2 * period then
    s.updPin p (fun q => { q with edges := q.edges ++ [⟨placeAt c t (s.deskew p), vec, e.1, e.2⟩] })
  else s.flag (PIN_TSTAT_RANGE p)

/-- Positions less than 150 ps apart. -/
def tooClose (a b : Nat) : Bool := decide (max a b < min a b + 600)

/-- A strobe placed, with the spacing rule of R80: strobes less than 150 ps apart leave the results of the vectors involved
undefined on this pin. -/
def State.placeStrobe (s : State) (p : Nat) (x : Strobe) : State :=
  let q := s.pin p
  let near := (q.strobes.filter (fun y => tooClose x.pos y.pos)).map (fun y => y.vec) ++
    (match q.lastStrobe with
      | none => []
      | some (t, v) => if tooClose x.pos t then [v] else [])
  let s1 := if near.isEmpty then s else s.flag (PIN_TSTAT_STROBE_CLOSE p)
  s1.updPin p (fun q =>
    { q with strobes := q.strobes ++ [x],
             undefVecs := if near.isEmpty then q.undefVecs else q.undefVecs ++ (x.vec :: near) })

/-- The strobes of an entry in edge mode (R81): the results they will give. -/
def State.placeEdgeStrobe (s : State) (p c period ts vec num code : Nat) : State × Nat :=
  match expectCode code with
  | none => (s, 0)
  | some e =>
    let t := s.get (PIN_TS_E_TIME p ts (6 + num))
    if t < 2 * period then (s.placeStrobe p ⟨placeAt c t (s.deskew p), vec, num, e, .edge⟩, 1)
    else (s.flag (PIN_TSTAT_RANGE p), 0)

/-- The strobes of an entry placed (R71, R81): the state, and the number of results. In window mode both ends are placed or
neither. -/
def State.placeStrobes (s : State) (p c period ts vec w : Nat) : State × Nat :=
  if bitOf w 20 then
    match expectCode (bitsOf w 14 3) with
    | none => (s, 0)
    | some e =>
      let t0 := s.get (PIN_TS_E_TIME p ts 6)
      let t1 := s.get (PIN_TS_E_TIME p ts 7)
      if t0 < 2 * period ∧ t1 < 2 * period then
        let p0 := placeAt c t0 (s.deskew p)
        let p1 := placeAt c t1 (s.deskew p)
        let s1 := s.placeStrobe p ⟨min p0 p1, vec, 0, e, .windowOpen⟩
        let s2 := s1.placeStrobe p ⟨max p0 p1, vec, 1, e, .windowClose⟩
        if p0 + 600 ≤ p1 then (s2, 1)
        else
          ((s2.flag (PIN_TSTAT_STROBE_CLOSE p)).updPin p (fun q => { q with undefVecs := q.undefVecs ++ [vec] }), 1)
      else (s.flag (PIN_TSTAT_RANGE p), 0)
  else
    let (s1, n0) := s.placeEdgeStrobe p c period ts vec 0 (bitsOf w 14 3)
    let (s2, n1) := s1.placeEdgeStrobe p c period ts vec 1 (bitsOf w 17 3)
    (s2, n0 + n1)

/-- The edges of one pin in one vector placed (R69): cycle start, period, timeset, vector, symbol, and whether its strobes act.
A pin in clock mode has no active edges (R84). -/
def State.placePin (s : State) (p c period ts vec sym : Nat) (strobes : Bool) : State × Nat :=
  if (s.pin p).clock.isSome then (s, 0)
  else
    let w := s.entryOf p ts sym
    let s1 := s.flagIf (entryReserved w) (PIN_TSTAT_CODE p)
    let s2 := (entryEdges w).foldl (fun t e => t.placeEdge p c period ts vec e) s1
    if strobes then s2.placeStrobes p c period ts vec w else (s2, 0)

/-! Clock mode (R48, R49, R84). -/

/-- The position of toggle j. -/
def togglePos (r : ClockRun) (m d : Nat) (j : Int) : Int := (r.base : Int) + (j * (r.period * m : Nat)) / (2 * d : Nat)

/-- The first toggle at or after an instant. -/
def firstToggle (base period m d t : Nat) : Int := -((-(((t : Int) - base) * (2 * d : Nat))) / (period * m : Nat))

/-- A pin's M and D. -/
def State.clockM (s : State) (p : Nat) : Nat := s.get (PIN_CLK_CFG_MUL p) + 1

/-- A pin's D. -/
def State.clockD (s : State) (p : Nat) : Nat := s.get (PIN_CLK_CFG_DIV p) + 1

/-- Period changes taken in order, each once the toggles before it are past (R48); the toggles at or after it follow the new period. -/
def clockChanges (m d : Nat) : List (Nat × Nat) → ClockRun → ClockRun
  | [], r => { r with changes := [] }
  | (t, per) :: l, r =>
    if togglePos r m d r.next < t then { r with changes := (t, per) :: l }
    else clockChanges m d l { r with period := per, next := firstToggle r.base per m d t }

/-- The clock of a pin with the period changes that are due taken. -/
def State.clockChange (s : State) (p : Nat) (r : ClockRun) : ClockRun := clockChanges (s.clockM p) (s.clockD p) r.changes r

/-- A toggle of a clock-mode pin, before an instant `lim`: not driven if the level stays, or less than 140 ps after the last
driven edge (R49). Toggles drive low and high, and leave the data state of R76 to `State.clockStop`. Below P * M / (2 * D) = 150 ps the waveform is undefined, and the level is free. -/
def State.clockToggle (s : State) (p lim : Nat) : State :=
  match (s.pin p).clock with
  | none => s
  | some r0 =>
    let r := s.clockChange p r0
    let m := s.clockM p
    let d := s.clockD p
    let pos := (togglePos r m d r.next).toNat
    if lim ≤ pos then s
    else
      let undef := decide (r.period * m < 1200 * d)
      let want := if undef then Config.freeBit s.fresh else decide (r.next % 2 = 0)
      let s0 := if undef then s.tickFresh else s
      let runt := match (s.pin p).lastDriven with
        | none => false
        | some l => decide (pos < l + 560)
      if decide (want = r.high) || runt || s.disconnected p then
        (s0.updPin p (fun q => { q with clock := some { r with next := r.next + 1 } })).at_ pos
      else
        let dv : Drive := ⟨true, if want then .high else .low⟩
        let s1 := (s0.closeCluster p).updPin p (fun q => { q with clock := some { r with next := r.next + 1, high := want }, drv := dv })
        (s1.driveChange p pos dv).at_ pos

/-- Clock mode entered at burst start (R84): the pin drives low with enable on, then toggles from the first toggle position
at or after the start. -/
def State.clockStart (s : State) (p anchor t period : Nat) : State :=
  let base := anchor + s.get (PIN_CLK_PHASE p)
  let q := s.pin p
  let r : ClockRun := ⟨base, firstToggle base period (s.clockM p) (s.clockD p) t, period, false, [], q.drv.data⟩
  let dv : Drive := ⟨true, .low⟩
  let s1 := s.updPin p (fun q => { q with clock := some r })
  if q.drv = dv ∨ s.disconnected p then s1 else (s1.closeCluster p).idleDriven p t dv

/-- The end of clock mode, once the idle state is applied: a driver that is off has the data it had before, which toggles do not
change (R76). -/
def State.clockStop (s : State) (p : Nat) : State :=
  s.updPin p (fun q =>
    match q.clock with
    | none => q
    | some r => { q with clock := none, drv := if q.drv.enable then q.drv else { q.drv with data := r.data } })

/-! The level queue (R107 to R112). -/

/-- The codes that a level set of a pin holds now. -/
def State.setCodes (s : State) (p l : Nat) : List Nat := (List.range 5).map (fun i => s.get (PIN_LS_CODE p l i))

/-- The depth field follows the queue. -/
def State.levelDepth (s : State) (p : Nat) : State :=
  (s.set (PIN_LVL_STAT_DEPTH p) (s.pin p).lvl.queue.length).set (PIN_LVL_STAT_BUSY p) (ofBool (s.pin p).lvl.busy)

/-- An entry put into a level queue: an LVL goes before the commands of the same instant (R109). The entries of a queue, newest first. -/
def levelPlace (e : LevelEntry) : List LevelEntry → List LevelEntry
  | [] => [e]
  | x :: r => if x.cmd && !e.cmd && decide (x.made = e.made) then x :: levelPlace e r else e :: x :: r

/-- A level set applied to a pin at time t, by an LVL or by a command (R108, R110): an entry at the tail of the queue; in a full queue
the last entry replaces the one before it. -/
def State.levelEnter (s : State) (p l t : Nat) (cmd : Bool) : State :=
  let q := (s.pin p).lvl
  let r := levelPlace ⟨l, s.setCodes p l, t, cmd⟩ q.queue.reverse
  if q.queue.length < 8 then
    (s.updPin p (fun v => { v with lvl := { v.lvl with queue := r.reverse } })).levelDepth p
  else
    let burst := match s.pinOwner p with
      | none => false
      | some i => s.inBurst i
    let ev := if burst then !q.burstEvent else !s.bit (PIN_LVL_STAT_COALESCED p)
    let s1 := (s.raiseIf ev 0xE044 p ((r.head?.map LevelEntry.set).getD l)).flag (PIN_LVL_STAT_COALESCED p)
    s1.updPin p (fun v =>
      { v with lvl := { v.lvl with queue := (r.take 1 ++ r.drop 2).reverse, burstEvent := v.lvl.burstEvent || burst } })

/-- One step of a DAC toward its target under a limit (R112). -/
def stepCode (lim : Bool) (step : Nat) (out tgt : Nat) : Nat :=
  if !lim then tgt
  else if out + step < tgt then out + step
  else if tgt + step < out then out - step
  else tgt

/-- The five DAC codes of a pin replaced. -/
def State.setCodesOut (s : State) (p : Nat) (c : List Nat) : State :=
  ((((s.set (PIN_LVL_OUT0_VIH p) (c.getD 0 0)).set (PIN_LVL_OUT0_VIL p) (c.getD 1 0)).set (PIN_LVL_OUT1_VOH p)
    (c.getD 2 0)).set (PIN_LVL_OUT1_VOL p) (c.getD 3 0)).set (PIN_LVL_OUT2_VTT p) (c.getD 4 0)

/-- The head entry of an idle limiter becomes its target, once the entry takes part (R109, R112). -/
def levelLoad (q : LevelState) (t : Nat) : LevelState :=
  match q.queue with
  | [] => q
  | e :: _ => if !q.busy && decide (e.made + 20 * tickLsb ≤ t) then { q with busy := true, target := e.codes, div := 0 } else q

/-- PIN_LVL_CFG in force at sample instant t: a write takes effect at the first instant strictly after it (R109, R113). -/
def State.lvlCfgAt (s : State) (p t : Nat) : Word :=
  match (s.pin p).lvlCfg with
  | none => s.reg (PIN_LVL_CFG_STEP p).addr
  | some (w, old) => if t ≤ w then old else s.reg (PIN_LVL_CFG_STEP p).addr

/-- The level step of a pin at sample instant t (R112). -/
def State.levelStep (s : State) (p t : Nat) : State :=
  let q := levelLoad (s.pin p).lvl t
  let cfg := s.lvlCfgAt p t
  let lim := decide (fieldGet 20 1 cfg ≠ 0)
  if !q.busy then s
  else
    let q1 := { q with div := (q.div + 1) % (fieldGet 12 8 cfg + 1) }
    if lim && decide (q.div ≠ 0) then (s.updPin p (fun v => { v with lvl := q1 })).levelDepth p
    else
      let out := List.zipWith (stepCode lim (fieldGet 0 12 cfg)) (s.outCodes p) q.target
      let s1 := s.setCodesOut p out
      let s2 := s1.flagIf (s1.corrSat p) (PIN_LVL_STAT_CORR_SAT p)
      if out = q.target then
        match q.queue with
        | [] => (s2.updPin p (fun v => { v with lvl := { q1 with busy := false } })).levelDepth p
        | e :: r =>
          ((s2.set (PIN_LVL_STAT_CURRENT p) e.set).updPin p
            (fun v => { v with lvl := { q1 with busy := false, queue := r } })).levelDepth p
      else (s2.updPin p (fun v => { v with lvl := q1 })).levelDepth p

/-! Clamps and protection (R103 to R106). -/

/-- Whether a PIN_CLAMP word names clamp codes out of order while it enables the clamps (R103). -/
def clampBad (w : Word) : Bool := decide (fieldGet 31 1 w = 1) && decide (fieldGet 16 14 w ≤ fieldGet 0 14 w)

/-- Whether the clamps of the group with home pin h are connected: enabled, with their codes in force in order (R103). -/
def State.clampOn (s : State) (h : Nat) : Bool :=
  decide (fieldGet 31 1 (s.pin h).clampIn = 1) && !clampBad (s.pin h).clampIn

/-- The clamps of the group with home pin h at a sample instant: the last write before it takes effect (R103). -/
def State.clampSample (s : State) (h t : Nat) : State :=
  let due := (s.pin h).clampAt.filter (fun w => decide (w.1 < t))
  match due.getLast? with
  | none => s
  | some w =>
    let s1 := (s.updPin h (fun q => { q with clampAt := q.clampAt.filter (fun x => decide (t ≤ x.1)), clampIn := w.2 })).clampSatNote h
    if clampBad w.2 then
      ((List.range 8).foldl (fun u k => u.flag (PIN_FESTAT_CLAMP_INVALID (h + k))) s1).raise 0xE042 h (h / 8)
    else s1

/-- A new correction takes effect at the first sample instant after the commit, without slew limiting (R98). -/
def State.corrTake (s : State) (p t : Nat) : State :=
  match (s.pin p).corrOld with
  | none => s
  | some (w, _) =>
    if t ≤ w then s
    else
      let s1 := s.updPin p (fun q => { q with corrOld := none })
      let s2 := s1.flagIf (s1.corrSat p) (PIN_LVL_STAT_CORR_SAT p)
      if p % 8 = 0 then s2.clampSatNote p else s2

/-- The taint bits of R152, counted from TAINT bit 0. -/
def taintSupply : Nat := 0
/-- REF. -/
def taintRef : Nat := 1
/-- ECC. -/
def taintEcc : Nat := 2
/-- HOLD. -/
def taintHold : Nat := 3
/-- THERMAL. -/
def taintThermal : Nat := 4
/-- LINK. -/
def taintLink : Nat := 5
/-- FRONTEND. -/
def taintFrontend : Nat := 6

/-- The burst of a site tainted, if one is in progress (R559). -/
def State.taint (s : State) (i bit : Nat) : State :=
  if s.inBurst i then s.updBurst i (fun b => { b with taint := b.taint ||| 2 ^ bit }) else s

/-- Every burst in progress tainted. -/
def State.taintAll (s : State) (bit : Nat) : State := (List.range 16).foldl (fun u i => u.taint i bit) s

/-- The taint of the burst of the site that owns a pin. -/
def State.taintPin (s : State) (p bit : Nat) : State :=
  match s.pinOwner p with
  | none => s
  | some i => s.taint i bit

/-- OC_LIMIT in force: codes above 10 act as 10 (R104). Event 0xE041 reports the limit in force, and not the code as stored, where the two
differ (R116 names OC_LIMIT in force and no more; log 131, DESIGN CHOICE). -/
def State.ocLimit (s : State) (p : Nat) : Nat := min 10 (s.get (PIN_FE_CFG_OC_LIMIT p))

/-- A trip that was due takes place at a sample instant (R105). -/
def State.tripNow (s : State) (p : Nat) : State :=
  let off (u : State) : State :=
    (((u.closeCluster p).flag (PIN_FESTAT_TRIP p)).updPin p (fun q => { q with tripDue := .none })).emit (.disconnect p)
  let ov (u : State) (b : Bool) : State := (u.flag (PIN_FESTAT_OV p)).raise 0xE040 p (ofBool b)
  let oc (u : State) : State := (u.flag (PIN_FESTAT_OC p)).raise 0xE041 p (u.ocLimit p)
  match (s.pin p).tripDue with
  | .none => s
  | .ov b => (ov (off s) b).taintPin p taintFrontend
  | .oc => (oc (off s)).taintPin p taintFrontend
  | .both b => (oc (ov (off s) b)).taintPin p taintFrontend

/-- Whether a pin's voltage in µV is outside +4.4 V to -1.4 V (R104). -/
def overVolt (v : Int) : Bool := decide (4400000 < v) || decide (v < -1400000)

/-- Whether a current in µA of a pin's output stage is over its limit (R104): under high impedance the detector sees none. -/
def State.overCurrent (s : State) (p i : Nat) : Bool :=
  ((s.pin p).drv.enable || decide (s.get (PIN_FE_CFG_TERM p) = 1)) && decide (20000 + 10000 * s.ocLimit p < i)

/-- The detectors of a pin at a sample (R104): `ov` and `oc` say which conditions hold, `below` that the voltage is low. -/
def State.detect (s : State) (p : Nat) (ov below oc : Bool) : State :=
  if s.disconnected p then s
  else
    let q := s.pin p
    let lim := s.get (PIN_FE_CFG_FILT p) + 1
    let nv := if ov then min (q.ovCount + 1) 256 else 0
    let nc := if oc then min (q.ocCount + 1) 256 else 0
    let due : TripDue :=
      if lim ≤ nv ∧ lim ≤ nc then .both below else if lim ≤ nv then .ov below else if lim ≤ nc then .oc else .none
    s.updPin p (fun q => { q with ovCount := nv, ocCount := nc, tripDue := due })

/-- A re-armed pin reconnects at the first sample instant strictly after the write, and applies its idle state (R106). Where a burst has
started since, it takes part in the burst from that state on. -/
def State.reconnect (s : State) (p t : Nat) : State :=
  match (s.pin p).rearm with
  | none => s
  | some w =>
    if t ≤ w then s
    else
      let s1 := s.updPin p (fun q => { q with rearm := none, ovCount := 0, ocCount := 0, tripDue := .none })
      s1.idleDriven p t (idleDrive (s1.get (PIN_IDLE_DRIVE p)) (s1.pin p).drv)

/-- What one pin does at sample instant t: a due trip or reconnection, its detectors, its clamps and its level step. `volts` lists the
voltages in µV and `amps` the magnitudes of the output stages' currents in µA of pins, the others being within their limits. -/
def State.pinSample (s : State) (t : Nat) (volts : List (Nat × Int)) (amps : List (Nat × Nat)) (p : Nat) : State :=
  let s1 := (((s.closeDue p t).tripNow p).reconnect p t).corrTake p t
  let ov := volts.find? (fun e => decide (e.1 = p))
  let oc := amps.find? (fun e => decide (e.1 = p))
  let s2 := s1.detect p (ov.any (fun e => overVolt e.2)) (ov.any (fun e => decide (e.2 < 0))) (oc.any (fun e => s1.overCurrent p e.2))
  (s2.clampSample p t).levelStep p t

end Sys2Proof.Machine
end

