-- ==== Sys2Proof/Machine/Seg.lean ====
section
/-! DEFINITION. Segments: the table and its entries (R126, R127), where a segment's bytes lie (R128), segment states and
their copies in the table (R129), publish and unpublish (R130), and the reading of headers and group words (R133, R134). -/
namespace Sys2Proof.Machine

/-- Whether a one-bit configuration field was 1 when the site armed. -/
def State.cfgBit (s : State) (i : Nat) (f : Fld) : Bool := decide (s.cfg i f ≠ 0)

/-- Whether an id lies in the site's range (R126). -/
def State.segInRange (s : State) (i id : Nat) : Bool :=
  decide (s.get (SITE_SEGTAB_RANGE_FIRST i) ≤ id) && decide (id ≤ s.get (SITE_SEGTAB_RANGE_LAST i))

/-- The device address of the entry of an id (R126): bits [4:0] of the base are ignored (R160). -/
def State.segEntryAddr (s : State) (i id : Nat) : Nat :=
  s.get (SITE_SEGTAB_BASE i) / 32 * 32 + 32 * (id - s.get (SITE_SEGTAB_RANGE_FIRST i))

/-- An entry from its eight words (R127). -/
def segEntryOf (addr : Nat) (bs : List Byte) : SegEntry :=
  let w (k : Nat) : Nat := leNat ((bs.drop (4 * k)).take 4)
  { loc := bitOf (w 0) 2, mirrorEn := bitOf (w 0) 3, retire := bitOf (w 0) 4, stripe := bitsOf (w 0) 8 6,
    bank := bitsOf (w 0) 16 6, length := w 1, gmask := w 2 + 2 ^ 32 * w 3, addr := w 4 + 2 ^ 32 * w 5,
    mirror := w 6 + 2 ^ 32 * w 7, word0 := word (w 0), tabAddr := addr }

/-- Segment id of site i. -/
def State.seg (s : State) (i id : Nat) : Segment := Sparse.get (fun _ => Segment.reset) (s.site i).segs id

/-- The groups of a group mask, ascending. -/
def maskGroups (gmask : Nat) : List Nat := (List.range 64).filter (fun g => bitOf gmask g)

/-- Whether a group mask names only groups the site owns (R130, R143). -/
def State.maskOwned (s : State) (i gmask : Nat) : Bool := (maskGroups gmask).all (fun g => decide (s.owner g = some i))

/-- Whether a resident segment fits its banks, outside the secure region (R128, R130). -/
def residentFits (e : SegEntry) : Bool :=
  let w := e.stripe + 1
  decide (e.bank + e.stripe ≤ 59) && decide (e.addr + 32 * ceilDiv (ceilDiv (8 * e.length) 32) w ≤ 0x100000)

/-- Whether an entry may be published (R130, item 3). -/
def State.segEntryOk (s : State) (i : Nat) (e : SegEntry) : Bool :=
  decide (1 ≤ e.length) && decide (e.length ≤ 0x40000000) && decide (e.gmask ≠ 0) && s.maskOwned i e.gmask &&
    decide (e.addr % 32 = 0) && (e.loc || !e.mirrorEn) &&
    (!e.mirrorEn || (decide (e.mirror % 32 = 0) && inDram s.usable e.mirror (8 * e.length))) &&
    (if e.loc then inDram s.usable e.addr (8 * e.length) else residentFits e)

/-- The code of a segment state in STATE (R127). -/
def SegState.code : SegState → Nat
  | .inactive => 0
  | .queued => 1
  | .active => 2

/-- A segment given a state: the change is copied into STATE of its entry, word 0 as latched at the publish (R129). -/
def State.setSeg (s : State) (i id : Nat) (g : Segment) : State :=
  let s1 := s.updSite i (fun t => { t with segs := Sparse.set (fun _ => Segment.reset) t.segs id g })
  s1.storeRegion (s1.region g.entry.tabAddr) (leBytes 4 (fieldPut 0 2 g.entry.word0 g.state.code).toNat)

/-- The state of a segment changed. -/
def State.setSegState (s : State) (i id : Nat) (st : SegState) : State :=
  s.setSeg i id { s.seg i id with state := st }

/-- The outcome of a segment command reported (R130, R161): refusals raise 0x2004. -/
def State.segResult (s : State) (i id result : Nat) : State :=
  let s1 := (s.set (SITE_SEG_STATUS_RESULT i) result).set (SITE_SEG_STATUS_ID i) id
  s1.raiseIf (decide (result = 1 ∨ result = 2 ∨ result = 3)) 0x2004 i (id + 2 ^ 16 * result)

/-- A publish command (R130); `e` is what the ECC check meets in the first word of the entry. -/
def State.segPublish (s : State) (i id : Nat) (e : Ecc) : State :=
  if !s.segInRange i id then s.segResult i id 1
  else if (s.seg i id).state ≠ .inactive then s.segResult i id 4
  else
    let addr := s.segEntryAddr i id
    let r := s.region addr
    let s1 := match r with
      | .ocm x => s.ocmUpset e x
      | _ => s
    let s2 := s1.checkRegion r 32
    let ent := segEntryOf addr (s1.getRegion r 32)
    if s1.badRegion r 32 || !s2.segEntryOk i ent then s2.segResult i id 2
    else (s2.setSeg i id ⟨.queued, ent⟩).segResult i id 0

/-- An unpublish command (R130). -/
def State.segUnpublish (s : State) (i id : Nat) : State :=
  if !s.segInRange i id then s.segResult i id 1
  else
    match (s.seg i id).state with
    | .inactive => s.segResult i id 4
    | .active => s.segResult i id 3
    | .queued => (s.setSegState i id .inactive).segResult i id 0

/-- A segment made ACTIVE if it is QUEUED (R129). -/
def State.activate (s : State) (i id : Nat) : State :=
  if (s.seg i id).state = .queued then s.setSegState i id .active else s

/-- An ACTIVE segment that is left becomes QUEUED, or INACTIVE with RETIRE (R129). -/
def State.deactivate (s : State) (i id : Nat) : State :=
  if (s.seg i id).state = .active then
    s.setSegState i id (if (s.seg i id).entry.retire then .inactive else .queued)
  else s

/-- Every ACTIVE segment of a site left, at the end of the burst (R129, R150). -/
def State.deactivateAll (s : State) (i : Nat) : State :=
  ((s.site i).segs.filter (fun e => decide (e.2.state = .active))).foldl (fun u e => u.deactivate i e.1) s

/-! Segment bytes. -/

/-- The on-chip byte offset of byte x of a resident segment (R128). -/
def residentByte (e : SegEntry) (x : Nat) : Nat :=
  let w := e.stripe + 1
  (e.bank + x / 32 % w) * 0x100000 + e.addr + 32 * (x / (32 * w)) + x % 32

/-- The logical banks that a site's port A accesses reach in its burst (R411). -/
def State.portATouch (s : State) (i : Nat) (banks : List Nat) : State :=
  if s.siteSt i = stIdle then s
  else s.updBurst i (fun b => { b with portA := b.portA ++ banks.eraseDups.filter (fun k => !b.portA.contains k) })

/-- The banks of `n` bytes of a resident segment from byte x on; none for a DRAM segment. -/
def SegEntry.banksAt (e : SegEntry) (x n : Nat) : List Nat :=
  if e.loc then [] else (List.range ((x % 32 + n + 31) / 32)).map (fun k => bankOf (residentByte e (x + 32 * k)))

/-- The banks of a buffer at a device address. -/
def bufBanks (base n : Nat) : List Nat := if n = 0 then [] else (banksOf (base / 0x1000 * 0x1000 % 0x4000000) n).filter (fun b => decide (b < 64))

/-- Whether the 8-byte unit at x of a DRAM segment was found uncorrectable when it was streamed; the flag says that the
mirror served it (R132). -/
def State.streamMark (s : State) (i id x : Nat) : Option Bool :=
  ((s.site i).str.marks.find? (fun m => decide (m.1 = id ∧ m.2.1 = x / 8))).map (fun m => m.2.2)

/-- The 32-bit word at byte x of a segment. -/
def State.segWord (s : State) (i id x : Nat) : Nat :=
  let e := (s.seg i id).entry
  if e.loc then
    let base := if s.streamMark i id x = some true then e.mirror else e.addr
    leNat (s.dramRead (base - dramBase + x) 4)
  else leNat (s.ocmRead (residentByte e x) 4)

/-- `n` bytes of a segment from byte x on, both multiples of 4. -/
def State.segBytes (s : State) (i id x n : Nat) : List Byte := (List.range (n / 4)).flatMap (fun k => leBytes 4 (s.segWord i id (x + 4 * k)))

/-- Whether the word at byte x of a segment reaches the sequencer marked uncorrectable: in on-chip memory, or because its
bank is not served (R412), or as streamed (R132). -/
def State.segWordBad (s : State) (i id x : Nat) : Bool :=
  let e := (s.seg i id).entry
  if e.loc then
    decide (s.streamMark i id x = some false) ||
      (bufBanks (s.cfg i (SITE_STR_BUF_BASE i)) (1024 * s.cfg i (SITE_STR_BUF_SIZE i))).any (fun b => decide (s.bankServed b = .off))
  else
    let y := residentByte e x
    s.memUe.contains (s.physByte y / 4) || decide (s.bankServed (bankOf y) = .off)

/-- An uncorrectable segment word counted by the checker of port A (R407): not when its bank was not served (R412), and not
again for a streamed word, which the DRAM controller has counted. -/
def State.segWordCheck (s : State) (i id x : Nat) : State :=
  let e := (s.seg i id).entry
  if e.loc then s.flagIf (s.segWordBad i id x && decide (s.streamMark i id x ≠ some false)) MEM_STATUS_OFF_ACCESS
  else
    let y := residentByte e x
    if decide (s.bankServed (bankOf y) = .off) then s.flag MEM_STATUS_OFF_ACCESS
    else if s.memUe.contains (s.physByte y / 4) then s.ocmUe (y / 4 * 4)
    else s

/-- An upset in a resident segment word about to be read. -/
def State.segUpset (s : State) (i id x : Nat) (e : Ecc) : State :=
  if (s.seg i id).entry.loc then s else s.ocmUpset e (residentByte (s.seg i id).entry x)

/-- A block header from its 64 bits (R134). -/
def headerOf (w : Nat) : Header :=
  { opc := bitsOf w 0 5, pause := bitOf w 5, fence := bitOf w 6, hint := bitOf w 7, ts := bitsOf w 8 6,
    len := bitsOf w 14 6 + 1, cond := bitsOf w 20 4, inv := bitOf w 24, csel := bitsOf w 25 9, opnd := bitsOf w 34 30 }

/-- The number of groups in a mask. -/
def maskCount (gmask : Nat) : Nat := (maskGroups gmask).length

/-- The length of a block in bytes: header, group words and pad word (R133). -/
def blockBytes (h : Header) (gmask : Nat) : Nat := 8 + 8 * ceilDiv (h.len * maskCount gmask) 2

/-- The header at a block position. -/
def State.headerAt (s : State) (i : Nat) (p : Pos) : Header :=
  headerOf (s.segWord i p.seg (8 * p.off) + 2 ^ 32 * s.segWord i p.seg (8 * p.off + 4))

/-- The position of the block that follows a block. -/
def State.nextPos (s : State) (i : Nat) (p : Pos) (h : Header) : Pos :=
  ⟨p.seg, p.off + blockBytes h (s.seg i p.seg).entry.gmask / 8⟩

/-- Whether a target is the start of a block: the blocks of the segment are walked from its start (R136). -/
def State.blockStart (s : State) (i seg target : Nat) : Nat → Nat → Bool
  | 0, _ => false
  | fuel + 1, off =>
    if target ≤ off then decide (target = off)
    else s.blockStart i seg target fuel (s.nextPos i ⟨seg, off⟩ (s.headerAt i ⟨seg, off⟩)).off

end Sys2Proof.Machine
end

