-- ==== Sys2Proof/Machine/XeOps.lean ====
section
/-! DEFINITION. The state of the transaction engine: its ports, lists and transactions (R304, R308, R310), and how a burst that ends leaves them
(R150, R324). -/
namespace Sys2Proof.Machine

/-- Port n. -/
def State.xePort (s : State) (n : Nat) : XePort := Sparse.get (fun _ => XePort.reset) s.xe.ports n

/-- A port changed. -/
def State.updXePort (s : State) (n : Nat) (f : XePort → XePort) : State :=
  (s.updXe (fun z => { z with ports := Sparse.set (fun _ => XePort.reset) s.xe.ports n (f (s.xePort n)) }))

/-- The list state of a site changed. -/
def State.updXeSite (s : State) (i : Nat) (f : XeSite → XeSite) : State :=
  (s.updXe (fun z => { z with sites := Sparse.set (fun _ => XeSite.reset) s.xe.sites i (f (s.xeSite i)) }))

/-- A transaction that has started, by number. -/
def State.xeRun (s : State) (num : Nat) : Option XeRun := s.xe.runs.find? (fun r => decide (r.num = num))

/-- A transaction that has started, changed. -/
def State.updRun (s : State) (num : Nat) (f : XeRun → XeRun) : State :=
  (s.updXe (fun z => { z with runs := s.xe.runs.map (fun r => if r.num = num then f r else r) }))

/-- The transaction in progress on a port. -/
def State.portRun (s : State) (n : Nat) : Option XeRun :=
  match (s.xePort n).cur with
  | none => none
  | some k => s.xeRun k

/-- Whether port n is enabled for site i (R304). -/
def State.portOf (s : State) (n i : Nat) : Bool := s.bit (XE_PORT_CFG_EN n) && decide (s.get (XE_PORT_CFG_SITE n) = i)

/-- The enabled ports of a site, ascending. -/
def State.sitePorts (s : State) (i : Nat) : List Nat := (List.range 128).filter (fun n => s.portOf n i)

/-- The status register of a port follows it (R331). -/
def State.portStat (s : State) (n : Nat) : State :=
  let p := s.xePort n
  (s.set (XE_PORT_STAT_BUSY n) (ofBool p.cur.isSome)).set (XE_PORT_STAT_QUEUE n) p.queue.length

/-- The ports of a site let go of their queues, transactions and buffers, and the site is no longer in XACT (R330). -/
def State.portsClear (s : State) (i : Nat) : State :=
  (s.sitePorts i).foldl (fun u n => (u.updXePort n (fun p => { p with queue := [], cur := none, buf := [] })).portStat n)
    (s.set (XE_SITE_STAT_ACTIVE i) 0)

/-- The transactions of a site that satisfy a test stay; the others end without a result. -/
def State.keepRuns (s : State) (i : Nat) (test : XeRun → Bool) : State :=
  s.updXe (fun z => { z with runs := s.xe.runs.filter (fun r => decide (r.site ≠ i) || test r) })

/-- The engine's part of a burst that has an end reason (R150, R324): a transaction that has ended, with all its vectors issued, still commits;
any other one ends without a result. -/
def State.xeHalt (s : State) (i : Nat) : State := (s.keepRuns i (fun r => r.ended.isSome && decide (r.unsent = 0))).portsClear i

/-- The engine's part of a site cleared. -/
def State.xeClear (s : State) (i : Nat) : State := (s.keepRuns i (fun _ => false)).portsClear i

end Sys2Proof.Machine
end

