-- ==== Sys2Proof/Machine/Burst.lean ====
section
/-! DEFINITION. Bursts: settings latched at arm, cycle grids (R45), why issue has stopped (R176 to R182, R203), end reasons
(R150, R182), the burst start (R148), and events that act on bursts (R369). -/
namespace Sys2Proof.Machine

/-- The words of the site's own registers, of its registers in the XE block (R329), and of the acquisition registers of its
pins, that differ from reset. -/
def State.cfgWords (s : State) (i : Nat) : Sparse Word :=
  let site := 0x1000000 + i * 0x100000
  let pins := s.sitePins i
  s.regs.filter (fun e =>
    (decide (site ≤ e.1) && decide (e.1 < site + 0x1500)) ||
      (decide (0x90100 + 0x40 * i ≤ e.1) && decide (e.1 < 0x90140 + 0x40 * i)) ||
      (decide (0x8000000 ≤ e.1) && decide (e.1 < 0xA000000) && pins.contains ((e.1 - 0x8000000) / 0x10000) &&
        decide (0x3000 ≤ e.1 % 0x10000) && decide (e.1 % 0x10000 < 0x3100)))

/-! Periods and grids. -/

/-- A period within the limits of R71. -/
def clampPeriod (n : Nat) : Nat := clampNat 2500 4000000000 n

/-- The period of timeset t of a site now (R146). -/
def State.tsp (s : State) (i t : Nat) : Nat := clampPeriod (s.get (SITE_TSP_PERIOD i t))

/-- Whether a site runs in coherent mode (R45). -/
def State.coherent (s : State) (i : Nat) : Bool := s.bit (TB_GRID_MODE_COHERENT_S i)

/-- The first grid point at or after a timebase time, for period P and anchor A (R45). -/
def State.gridAt (s : State) (i period t : Nat) : Nat :=
  let a : Int := s.get (TB_GRID_ANCHOR i)
  let m : Int := s.merAt t
  let k : Int := -((-(m - a)) / (period : Int))
  s.ofMer (a + k * period).toNat

/-- The first cycle boundary at or after an instant, on a site whose last cycle ends at `c`: in coherent mode the grid of the
period in force, in free mode the cycles that follow `c` with period P. -/
def boundaryFrom (c period t : Nat) : Nat := if t ≤ c then c else c + period * ceilDiv (t - c) period

/-- The period of the hold vector (R144). -/
def State.holdPeriod (s : State) (i : Nat) : Nat :=
  if s.coherent i then (s.site i).burst.period else s.tsp i (s.cfg i (SITE_HOLD_CFG_TS i))

/-! Symbols (R72, R133). -/

/-- A list of symbols as one word, the first in the lowest bits. -/
def symsOf (l : List Nat) : Nat := l.foldr (fun d w => d + 16 * w) 0

/-- The initial last symbols of a group, SITE_HOLD_CFG.SYMBOL on every pin: as it is now until the burst starts (R133, R159). -/
def State.initSyms (s : State) (i : Nat) : Word :=
  word (symsOf (List.replicate 8
    (if (s.site i).burst.started then s.cfg i (SITE_HOLD_CFG_SYMBOL i) else s.get (SITE_HOLD_CFG_SYMBOL i))))

/-- The symbols of a group word: the initial last symbols where no segment has delivered any to the group. -/
def State.wordSyms (s : State) (i : Nat) (w : GroupWord) : Word := w.syms.getD (s.initSyms i)

/-! Why issue has stopped. -/

/-- Whether a block is treated as fenced (R176). -/
def Header.fenced (h : Header) (all : Bool) : Bool :=
  h.fence || [0x0C, 0x0D, 0x0F, 0x10, 0x11].contains h.opc || (decide (h.opc = 0x09) && decide (h.opnd = 0)) ||
    ((decide (h.opc = 0x04) || decide (h.opc = 0x06)) && all)

/-- Whether a block is a decision block: JC or MLOOP on a condition other than COUNTER_ZERO (R167). -/
def Header.decides (h : Header) : Bool := (decide (h.opc = 0x04) || decide (h.opc = 0x06)) && decide (h.cond ≠ 6)

/-- Whether a block of the site is fenced, with FENCE_ALL as latched (R176, R188). -/
def State.fencedBlk (s : State) (i : Nat) (h : Header) : Bool := h.fenced (s.cfgBit i (SITE_SPEC_CFG_FENCE_ALL i))

/-- Whether an item of the lane is an issued vector, or stands for one. -/
def LaneItem.isVec : LaneItem → Bool
  | .vec _ => true
  | .frame _ _ _ _ _ _ => true
  | _ => false

/-- The issued vectors of a site that have not started their cycle (R168). -/
def Site.laneVecs (t : Site) : Nat := (t.lane.filter LaneItem.isVec).length

/-- The lead (R168). -/
def State.lead (s : State) (i : Nat) : Nat := s.cfg i (SITE_SPEC_CFG_LEAD i)

/-- The issued vectors whose results have neither committed nor been discarded (R178): those of the window, and pad vectors issued and not yet
played. -/
def Site.occupancy (t : Site) : Nat :=
  t.spec.window.length + (t.lane.filter (fun x => match x with | .frame _ _ _ k _ _ => decide (k = 0) | _ => false)).length

/-- Whether the Transit window or the alternate-path slots have no room for the next play of a block (R175, R178). -/
def State.noRoom (s : State) (i : Nat) (h : Header) : Bool :=
  let t := s.site i
  decide (2048 < t.occupancy + h.len) || (h.decides && decide (64 ≤ t.spec.decisions.length))

/-- The lane FIFOs of a site's groups take in an entry (R12). -/
def State.laneFeed (s : State) (i : Nat) : State := s.updPwr (fun p => { p with fed := countKeys (s.groups i) p.fed })

/-- The timing generators of a site's groups consume an entry (R12). -/
def State.laneDraw (s : State) (i : Nat) : State := s.updPwr (fun p => { p with drawn := countKeys (s.groups i) p.drawn })

/-- Why issue has stopped at a site, `free` where it has not. -/
def State.stopWhy (s : State) (i : Nat) : HoldWhy :=
  let t := s.site i
  if t.burst.endPending.isSome then .pendingEnd
  else if t.seq.waitSeg.isSome then .publication
  else if s.get (SITE_STR_STATUS_STATE i) = 3 then .flow
  else if t.spec.decisions.any (fun d => d.fenced && d.lastVec.isSome) then .fence
  else
    match t.seq.blk with
    | none => .free
    | some b =>
      if b.vix = 0 ∧ s.fencedBlk i b.hdr ∧ t.spec.decisions ≠ [] then .fence
      else if b.vix = 0 ∧ s.noRoom i b.hdr then .stall
      else .free

/-- Why the pins hold when the lane is empty: issue has stopped, or has been free again only since (R171, R177). -/
def State.holdWhy (s : State) (i : Nat) : HoldWhy :=
  match s.stopWhy i with
  | .free => (s.site i).spec.restart
  | w => w

/-! Ends (R150, R182). -/

/-- The site stops issuing and drains: an end reason in force; a header fault taints the burst ECC (R17). It keeps ARMING and ARMED until its burst
starts. A decision whose block has been issued in part only is none any more (R150, R167), and a site in XACT leaves it. -/
def State.endNow (s : State) (i : Nat) (e : EndRec) : State :=
  if (s.site i).burst.end_.isSome then s
  else
    let ecc := if e.reason = .abort ∧ e.detail = 0x0D then 2 ^ taintEcc else 0
    let s1 := s.updSite i (fun t =>
      { t with burst := { t.burst with end_ := some e, endPending := none, abort := none, taint := t.burst.taint ||| ecc },
               spec := { t.spec with decisions := t.spec.decisions.filter (fun d => d.lastVec.isSome) } })
    let s2 := s1.set (SITE_SEQ_STATUS_REFILL_WAIT i) 0
    let s3 := if s.siteSt i = stXact then s2.xeHalt i else s2
    if s.running i then s3.setSiteSt i stDraining else s3

/-- Whether an item of the lane makes the pins wait: a HOLD, a SYNC, a WAITF or a FRAME (R44, R51, R53, R144). -/
def LaneItem.waits : LaneItem → Bool
  | .hold _ _ => true
  | .sync _ _ => true
  | .waitf _ _ _ => true
  | .frame _ _ _ _ _ _ => true
  | _ => false

/-- Whether an item of the lane is where issue resumes after a hold (R203, R204). -/
def LaneItem.resumes : LaneItem → Bool
  | .holdResume => true
  | _ => false

/-- An end reason on the path being issued takes effect once no decision is unresolved (R182) and the pins have passed every wait issued
before it (R144). -/
def State.endDue (s : State) (i : Nat) : State :=
  match (s.site i).burst.endPending with
  | none => s
  | some e => if (s.site i).spec.decisions = [] ∧ !(s.site i).lane.any LaneItem.waits then s.endNow i e else s

/-- An end reason that arises on the path being issued: issue stops (R150, R182). -/
def State.endPath (s : State) (i : Nat) (e : EndRec) : State :=
  if (s.site i).burst.end_.isSome then s else (s.updBurst i (fun b => { b with endPending := some e })).endDue i

/-- ABORT with a detail code (R153). -/
def abortRec (detail : Nat) : EndRec := ⟨.abort, detail⟩

/-- HALT with a detail code (R153). -/
def haltRec (detail : Nat) : EndRec := ⟨.halt, detail⟩

/-- An ABORT that takes effect from the next cycle boundary (R150), on a burst that runs. -/
def State.abortAtBoundary (s : State) (i detail : Nat) : State :=
  if s.running i then
    s.updBurst i (fun b => { b with abort := if b.abort.isSome then b.abort else some (abortRec detail) })
  else s

/-! Burst start. -/

/-- Whether a sensor concerns a site (R556). -/
def State.concerns (s : State) (k i : Nat) : Bool := decide (k = 8) || (s.groups i).any (fun g => decide (g / 8 = k))

/-- Whether a HOT condition holds the site back (R556). -/
def State.hotHeld (s : State) (i : Nat) : Bool := s.pwr.hot.any (fun k => s.concerns k i)

/-- Whether a calibration step is in progress on a pin of the site (R383). -/
def State.calHeld (s : State) (i : Nat) : Bool := s.cal.steps.any (fun c => decide (s.pinOwner c.pin = some i))

/-- The taints that stand when a burst starts (R559). -/
def State.startTaint (s : State) (i : Nat) : Nat :=
  ofBool s.pwr.twilight.isSome + 2 * ofBool (s.bit TB_REF_STATUS_HOLDOVER) +
    2 ^ taintThermal * ofBool (s.pwr.warm.any (fun k => s.concerns k i) || s.bit DRC_STATUS_REF_2X) +
    2 ^ taintLink * ofBool (s.bit IAT_STATUS_ORPHAN)

/-- A trigger unit at burst start (R255): armed from the burst epoch on, or from its marker. -/
def startUnit (c0 : Nat) (mark : Bool) : TrigUnit := ⟨!mark, if mark then none else some c0, some c0, none, false⟩

/-- A pin at burst start: no longer idle, its clock mode entered, its trigger units armed unless a marker arms them (R84, R110,
R255). -/
def State.pinStart (s : State) (i c0 : Nat) (p : Nat) : State :=
  let anchor := if s.coherent i then s.ofMer (s.get (TB_GRID_ANCHOR i)) else c0
  let s1 := s.updPin p (fun q =>
    { q with idle := false, strobes := [], edges := [], windows := [], lastStrobe := none, undefVecs := [],
             lvl := { q.lvl with burstEvent := false },
             acq := { q.acq with open_ := none, stamping := [], lastStamped := none, items := [],
                                 units := (List.range 4).map (fun u => startUnit c0 (s.cfgBit i (PIN_TRIG_CFG_ARM_MARK p u))) } })
  if s.bit (PIN_CLK_CFG_ENABLE p) then
    let per := if (s.site i).burst.listBurst.isSome || s.coherent i then (s.site i).burst.period
      else
        match (s.site i).lane with
        | .vec v :: _ => v.period
        | _ => (s.site i).burst.period
    s1.clockStart p anchor c0 per
  else s1

/-- A burst starts at an instant (R148): its first cycle starts there in free mode, and at the first grid point at or after it
in coherent mode. An end reason met while the lanes were filled makes the site DRAINING at once (R182). -/
def State.startBurst (s : State) (i t : Nat) : State :=
  let b := (s.site i).burst
  let c0 := if s.coherent i then s.gridAt i b.period t else t
  let s0 := s.updSite i (fun v =>
    { v with shadow := Sparse.set resetWord v.shadow (SITE_HOLD_CFG_TS i).addr (s.reg (SITE_HOLD_CFG_TS i).addr) })
  let s1 := s0.updBurst i (fun b =>
    { b with started := true, epoch := c0, cycleEnd := c0, taint := b.taint ||| s.startTaint i })
  let s2 := (s1.sitePins i).foldl (fun u p => u.pinStart i c0 p) s1
  let s3 := ((((s2.set (SITE_SPEC_DECISIONS_COUNT i) 0).set (SITE_SPEC_MISPRED_COUNT i) 0).set (SITE_SPEC_FENCE_COUNT i) 0).set
    (SITE_SPEC_STALL_COUNT i) 0).set (SITE_SPEC_DL_MAX i) 0
  let s4 := (((s3.set (SITE_STR_LEVEL_MIN i) (s3.get (SITE_STR_LEVEL i))).set (SITE_STR_RATE_MAX i) 0).set
    (SITE_STR_HOLDS_COUNT i) 0).set (SITE_PACE_MIN i) 0
  let s5 := (s4.set (SITE_FLAGS_FLAG i) 0).raise 0x2001 i (s.cfg i (SITE_START_CFG_START_SEG i))
  (s5.set (SITE_STR_STATUS_STATE i) 1).setSiteSt i (if b.end_.isSome then stDraining else if b.listBurst.isSome then stXact else stRunning)

/-! Events (R368, R369). -/

/-- The bits of the event vector. -/
def State.evtState (s : State) : Nat := s.get IAT_EVT_STATE

/-- GLOBAL_STOP (R369): every listed site that is RUNNING, HOLDING or XACT aborts at its next cycle boundary. -/
def State.globalStop (s : State) : State :=
  let hit := (List.range 16).filter (fun i => bitOf (s.get IAT_STOP_SITES) i && s.running i)
  (hit.foldl (fun u i => u.abortAtBoundary i 0x40) s).raise 0x900B noSource (hit.foldl (fun m i => m + 2 ^ i) 0)

/-- ARMED sites that wait for one of the event bits start (R148, R158); a HOT sensor holds them (R556). -/
def State.eventStarts (s : State) (rose t : Nat) : State :=
  (List.range 16).foldl
    (fun u i =>
      if u.siteSt i = stArmed ∧ u.cfg i (SITE_START_CFG_SOURCE i) = 2 ∧ bitOf rose (u.cfg i (SITE_START_CFG_EVENT i)) ∧
          u.level i ≠ 2 ∧ !u.hotHeld i then
        u.startBurst i t
      else u) s

/-- The event vector takes a new value, the bits that rise above `was` act (R369), and flows that wait for a set bit go on (R338). -/
def State.evtRise (s : State) (was v : Nat) : State :=
  let rose := v &&& (v ^^^ was)
  let s1 := s.set IAT_EVT_STATE v
  let s2 := if bitOf rose 0 then s1.globalStop else s1
  let s3 := s2.eventStarts rose s.now
  (List.range 32).foldl (fun u b => if bitOf v b then u.flowsSignal 3 b s.now else u) s3

/-- The event vector takes a new value, against the value that it has. -/
def State.evtVector (s : State) (v : Nat) : State := s.evtRise s.evtState v

/-- CLEAR bits act first, then SET bits (R369). -/
def evtBits (v clear set : Nat) : Nat := (v &&& ((2 ^ 32 - 1) ^^^ (clear % 2 ^ 32))) ||| (set % 2 ^ 32)

/-- The frames that have acted at this instant, or at this APPLY tick, with one more (R369). -/
def State.evtMoment (s : State) (apply set clear : Nat) : EvtMoment :=
  let m :=
    match s.iat.together with
    | none => (⟨s.now, apply, s.evtState, 0, 0⟩ : EvtMoment)
    | some m =>
      if m.at_ = s.now ∨ (apply ≠ 0 ∧ m.apply = apply) then { m with at_ := s.now, apply := if apply = 0 then m.apply else apply }
      else ⟨s.now, apply, s.evtState, 0, 0⟩
  { m with clear := m.clear ||| clear, set := m.set ||| set }

/-- An EVENT frame acts, together with those of the same instant (R369): the bits that rise are those above the vector before them all,
and not risen already. -/
def State.evtAct (s : State) (apply set clear : Nat) : State :=
  let m := s.evtMoment apply set clear
  (s.updIat (fun z => { z with together := some m })).evtRise (s.evtState ||| m.base) (evtBits m.base m.clear m.set)

/-- An EVENT frame that is due acts, or waits for its APPLY tick (R369). -/
def State.evtTake (s : State) (apply set clear : Nat) : State :=
  if apply = 0 ∨ apply ≤ s.tick then s.evtAct (if apply = s.tick then apply else 0) set clear
  else (s.updIat (fun z => { z with applies := s.iat.applies ++ [⟨apply, set, clear⟩] }))

/-- An event originated by the device (R368): sent on every active link, and applied here as everywhere. -/
def State.originEvent (s : State) (set clear : Nat) : State :=
  let apply := s.evtApplyTick
  (s.sendEvent apply set clear).evtTake apply set clear

/-! Site flags (R147). -/

/-- A site flag set by a committed result; a mapped flag that turns to 1 originates an event (R147, R368). -/
def State.setFlag (s : State) (i n : Nat) : State :=
  let old := s.get (SITE_FLAGS_FLAG i)
  let s1 := s.set (SITE_FLAGS_FLAG i) (old ||| 2 ^ n)
  if !bitOf old n && s.bit (IAT_EVT_MAP_EN i) && decide (s.get (IAT_EVT_MAP_FLAG i) = n) then
    s1.originEvent (2 ^ s.get (IAT_EVT_MAP_BIT i)) 0
  else s1

/-- The device state follows its sites in READY and RUNNING (R546). -/
def State.devState (s : State) : State :=
  if s.get PWR_STATUS_DEV_STATE = 2 ∨ s.get PWR_STATUS_DEV_STATE = 3 then
    s.set PWR_STATUS_DEV_STATE (if s.allIdle then 2 else 3)
  else s

end Sys2Proof.Machine
end

