-- ==== Sys2Proof/Machine/Reduction.lean ====
section
/-! DEFINITION. The reduction engine: operand queues and their rotation (R283, R284), accumulators (R285), statistics (R286),
intervals and their ring (R287, R288), snapshots, dumps and clears (R289, R290). -/
namespace Sys2Proof.Machine

/-- Accumulator a. -/
def State.acc (s : State) (a : Nat) : Accum := Sparse.get (fun _ => Accum.reset) s.red.accs a

/-- The state with accumulator a replaced. -/
def State.setAcc (s : State) (a : Nat) (v : Accum) : State :=
  (s.updRed (fun z => { z with accs := Sparse.set (fun _ => Accum.reset) s.red.accs a v }))

/-- An operand dropped for a full pin queue (R283). -/
def State.dropOperand (s : State) (p a : Nat) : State :=
  let c := s.acc a
  (s.raiseIf (!c.evented) 0x6004 a p).setAcc a { c with dropped := satAdd 64 c.dropped 1, evented := true }

/-- An operand offered to its pin's queue of 8 (R283). -/
def State.pushOperand (s : State) (p a : Nat) (v : Int) (ref : Bool) : State :=
  if (s.pin p).operands.length < 8 then s.updPin p (fun q => { q with operands := q.operands ++ [(a, v, ref)] })
  else s.dropOperand p a

/-- An operand added to exact sums (R285). -/
def Sums.add (t : Sums) (v : Int) (ref : Bool) : Sums :=
  { n := t.n + 1, s := t.s + v, q := t.q + (v * v).toNat, mn := if t.n = 0 then v else min t.mn v,
    mx := if t.n = 0 then v else max t.mx v, ref := t.ref || ref }

/-- The integer square root, bit by bit from bit `k - 1` down. -/
def isqrt (n : Nat) : Nat → Nat → Nat
  | 0, r => r
  | k + 1, r => if (r + 2 ^ k) * (r + 2 ^ k) ≤ n then isqrt n k (r + 2 ^ k) else isqrt n k r

/-- Division rounded to the nearest, halves away from zero. -/
def roundAway (a : Int) (b : Nat) : Int :=
  if 0 ≤ a then (((2 * a.toNat + b) / (2 * b) : Nat) : Int) else -(((2 * (-a).toNat + b) / (2 * b) : Nat) : Int)

/-- MEAN in 2^-8 ps; 0 with no operand (R286). -/
def Sums.mean (t : Sums) : Int := if t.n = 0 then 0 else roundAway (t.s * 256) t.n

/-- SD in 2^-8 ps, from the exact root (R286). -/
def Sums.sd (t : Sums) : Nat :=
  if t.n = 0 then 0
  else
    let d := ((t.n : Int) * t.q - t.s * t.s).toNat
    (isqrt (512 * 512 * d / (t.n * t.n)) 64 0 + 1) / 2

/-- An interval record (R288). -/
def ivlRecord (a index tick : Nat) (t : Sums) : List Byte :=
  leBytes 4 (a + 2 ^ 16 * ofBool t.ref) ++ leBytes 4 index ++ leBytes 8 (unsignedOf 64 t.mean) ++ leBytes 8 t.sd ++
    leBytes 8 (unsignedOf 64 t.mn) ++ leBytes 8 (unsignedOf 64 t.mx) ++ leBytes 8 tick

/-- The ring holds SIZE / 48 records (R287): its size in bytes. -/
def State.ivlBytes (s : State) : Nat := s.get RED_IVL_SIZE / 48 * 48

/-- An interval record dropped for a full ring, or a ring whose memory is Off (R287, R412). -/
def State.ivlDrop (s : State) (a : Nat) : State :=
  (s.count RED_IVL_DROPPED_COUNT 1).flagOnce RED_STATUS_IVL_FULL 0x6005 noSource a

/-- An interval record written at HEAD, or dropped (R287). -/
def State.ivlWrite (s : State) (a : Nat) (bs : List Byte) : State :=
  let size := s.ivlBytes
  if s.get RED_IVL_SIZE = 0 then s
  else if size = 0 ∨ !s.ringPlaced s.ivlBase (s.get RED_IVL_SIZE) then s.flag RED_STATUS_IVL_BAD
  else if s.red.ivlFull then s.ivlDrop a
  else if s.rangeServed (s.region s.ivlBase) size = .off then (s.offAccess (s.region s.ivlBase)).ivlDrop a
  else
    let head := s.get RED_IVL_HEAD % size
    let s1 := (s.captPut s.ivlBase size head bs).set RED_IVL_HEAD ((head + 48) % size)
    (s1.updRed (fun z => { z with ivlFull := decide ((head + 48) % size = s.get RED_IVL_TAIL) }))

/-- An operand accepted by its accumulator, or dropped at the count limit (R285); with NBLK = k an interval closes after every
k of them, and with NBLK = 0 there is none (R287). -/
def State.accept (s : State) (a : Nat) (v : Int) (ref : Bool) : State :=
  let c := s.acc a
  if c.total.n = 2 ^ 40 - 1 then
    (s.setAcc a { c with dropped := satAdd 64 c.dropped 1, full := true }).raise 0x6006 a 0
  else
    let k := s.get (RED_ACC_CFG_NBLK a)
    let c1 := { c with total := c.total.add v ref, ivl := if k = 0 then Sums.reset else c.ivl.add v ref }
    if k ≠ 0 ∧ k ≤ c1.ivl.n then
      (s.setAcc a { c1 with ivl := Sums.reset, index := (c1.index + 1) % 2 ^ 32 }).ivlWrite a
        (ivlRecord a c1.index s.tick c1.ivl)
    else s.setAcc a c1

/-- The next pin in the rotation whose queue is not empty (R284). -/
def State.nextServed (s : State) : Option Nat :=
  ((List.range 512).map (fun k => (s.red.served + 1 + k) % 512)).find? (fun p => !(s.pin p).operands.isEmpty)

/-- One operand processed (R284). -/
def State.redOperand (s : State) : State :=
  match s.nextServed with
  | none => s
  | some p =>
    match (s.pin p).operands with
    | [] => s
    | (a, v, ref) :: rest =>
      let s1 := s.updPin p (fun q => { q with operands := rest })
      ((s1.updRed (fun z => { z with served := p }))).accept a v ref

/-- The flag word of RED_SNAP_FLAGS (R300). -/
def Accum.flags (c : Accum) : Nat := ofBool c.total.ref + 2 * ofBool c.full + 4 * ofBool (decide (c.total.n = 0))

/-- A snapshot command (R289): it acts on the accumulator as it stands when the command arrives (R290). -/
def State.redSnap (s : State) (a : Nat) : State :=
  if s.bit RED_SNAP_STAT_BUSY then s.flag RED_STATUS_CMD_BUSY
  else
    let s1 := ((s.set RED_SNAP_STAT_BUSY 1).set RED_SNAP_STAT_VALID 0).set RED_SNAP_STAT_ACC a
    (s1.updRed (fun z => { z with snap := some (a, s.acc a) }))

/-- The snapshot registers filled (R289, R300). -/
def State.redSnapDone (s : State) : State :=
  match s.red.snap with
  | none => s
  | some (_, c) =>
    let s1 := s.set64 RED_SNAP_COUNT_LO_COUNT RED_SNAP_COUNT_HI_COUNT c.total.n
    let s2 := s1.set64 RED_SNAP_MEAN_LO_MEAN RED_SNAP_MEAN_HI_MEAN (unsignedOf 64 c.total.mean)
    let s3 := s2.set64 RED_SNAP_SD_LO_SD RED_SNAP_SD_HI_SD c.total.sd
    let s4 := s3.set64 RED_SNAP_MIN_LO_MIN RED_SNAP_MIN_HI_MIN (unsignedOf 64 c.total.mn)
    let s5 := s4.set64 RED_SNAP_MAX_LO_MAX RED_SNAP_MAX_HI_MAX (unsignedOf 64 c.total.mx)
    let s6 := s5.set64 RED_SNAP_DROPPED_LO_DROPPED RED_SNAP_DROPPED_HI_DROPPED c.dropped
    let s7 := ((s6.set RED_SNAP_FLAGS_REF (ofBool c.total.ref)).set RED_SNAP_FLAGS_FULL (ofBool c.full)).set
      RED_SNAP_FLAGS_EMPTY (ofBool (decide (c.total.n = 0)))
    let s8 := (s7.set RED_SNAP_STAT_BUSY 0).set RED_SNAP_STAT_VALID 1
    (s8.updRed (fun z => { z with snap := none }))

/-- A dump record (R289). -/
def dumpBytes (a : Nat) (c : Accum) : List Byte :=
  leBytes 8 c.total.n ++ leBytes 8 (unsignedOf 64 c.total.mean) ++ leBytes 8 c.total.sd ++
    leBytes 8 (unsignedOf 64 c.total.mn) ++ leBytes 8 (unsignedOf 64 c.total.mx) ++ leBytes 8 c.dropped ++
    leBytes 4 c.flags ++ leBytes 4 a ++ List.replicate 8 0

/-- The destination of a dump: bits [5:0] are ignored (R301). -/
def State.dumpAddr (s : State) : Nat := s.get64 RED_DUMP_ADDR_LO_ADDR RED_DUMP_ADDR_HI_ADDR / 64 * 64

/-- A dump command (R289): the accumulators are taken as they stand when it arrives (R290). -/
def State.redDump (s : State) (first last : Nat) : State :=
  let n := last + 1 - first
  if s.bit RED_STATUS_DUMP_RUN then s.flag RED_STATUS_CMD_BUSY
  else if s.placed s.dumpAddr (64 * n) || (decide (2 ^ 63 ≤ s.dumpAddr) && decide (s.dumpAddr + 64 * n ≤ 2 ^ 64)) then
    let s1 := s.set RED_STATUS_DUMP_RUN 1
    (s1.updRed (fun z => { z with dump := some (s.dumpAddr, first, (List.range n).map (fun k => s.acc (first + k))) }))
  else s.flag RED_STATUS_DUMP_BAD

/-- A write to a destination in memory or in host memory (R20, R289). -/
def State.putDest (s : State) (addr : Nat) (bs : List Byte) : State :=
  if 2 ^ 63 ≤ addr then s.emit (.hostWrite (addr - 2 ^ 63) bs) else s.putRegion (s.region addr) bs

/-- Every record of the dump in memory (R289). -/
def State.redDumpDone (s : State) : State :=
  match s.red.dump with
  | none => s
  | some (addr, first, cs) =>
    let s1 := s.putDest addr (cs.zipIdx.flatMap (fun c => dumpBytes (first + c.2) c.1))
    let s2 := (s1.set RED_STATUS_DUMP_RUN 0).flag RED_STATUS_DUMP_DONE
    (s2.updRed (fun z => { z with dump := none }))

/-- Accumulators first to last cleared (R285, R301). -/
def State.redClear (s : State) (first last : Nat) : State :=
  (List.range (last + 1 - first)).foldl (fun u k => u.setAcc (first + k) Accum.reset) s

/-- The accumulators that clear at the arm of a site (R285). -/
def State.redArm (s : State) (i : Nat) : State :=
  (s.regs.filter (fun e => decide (0xA1000 ≤ e.1) && decide (e.1 < 0xA2000))).foldl
    (fun u e =>
      let a := (e.1 - 0xA1000) / 4
      if u.bit (RED_ACC_CFG_CLR_ARM a) && decide (u.get (RED_ACC_CFG_SITE a) = i) then u.setAcc a Accum.reset else u) s

/-- A write to RED_IVL_BASE (either word) or RED_IVL_SIZE sets HEAD and TAIL to 0 (R302). -/
def State.ivlReset (s : State) : State :=
  let s1 := (s.set RED_IVL_HEAD 0).set RED_IVL_TAIL 0
  (s1.updRed (fun z => { z with ivlFull := false }))

/-- A write to RED_IVL_TAIL frees room (R287). -/
def State.ivlTail (s : State) : State := (s.updRed (fun z => { z with ivlFull := false }))

/-- RED_OPERAND: the engine takes one operand from the next non-empty pin queue (R284). -/
def execRedOperand (s : State) : Host.Outcome State Fault Refusal := .next s.redOperand

/-- RED_SNAP: RED_SNAP_CMD written with ACC and SNAP (R289, R299). -/
def execRedSnap (a : Fin 1024) (snap : Bool) (s : State) : Host.Outcome State Fault Refusal :=
  .next (if snap then s.redSnap a else s)

/-- RED_SNAP_DONE: the snapshot registers are filled (R289). -/
def execRedSnapDone (s : State) : Host.Outcome State Fault Refusal := .next s.redSnapDone

/-- RED_DUMP: RED_DUMP_CMD written with FIRST, LAST and GO (R289, R301). -/
def execRedDump (first last : Fin 1024) (go : Bool) (s : State) : Host.Outcome State Fault Refusal :=
  .next (if go then s.redDump first last else s)

/-- RED_DUMP_DONE: all dump records are in memory (R289). -/
def execRedDumpDone (s : State) : Host.Outcome State Fault Refusal := .next s.redDumpDone

/-- RED_CLEAR: RED_CLR_CMD written with FIRST, LAST and CLR (R285, R301). -/
def execRedClear (first last : Fin 1024) (clr : Bool) (s : State) : Host.Outcome State Fault Refusal :=
  .next (if clr then s.redClear first last else s)

end Sys2Proof.Machine
end

