-- ==== Sys2Proof/Machine/Tdc.lean ====
section
/-! DEFINITION. Single-interval measurement (R275 to R282). -/
namespace Sys2Proof.Machine

/-- Whether a crossing matches a crossing code (R245): `high` names the flag, `rising` the direction. -/
def codeMatch (code : Nat) (k : CrossKind) : Bool :=
  match code with
  | 1 => !k.high && k.rising
  | 2 => k.high && k.rising
  | 3 => k.high && !k.rising
  | 4 => !k.high && !k.rising
  | 5 => k.rising
  | 6 => !k.rising
  | _ => true

/-- Whether a stamp taken at an instant is reference-flagged: in holdover, or while the timebase pulls in (R282). -/
def State.refFlagged (s : State) (t : Nat) : Bool := s.bit TB_REF_STATUS_HOLDOVER || decide (t < s.tb.pullUntil)

/-- The fields of the latched configuration word (R293). -/
def TdcState.q (t : TdcState) : Nat := bitsOf t.cfg 0 9
/-- START_SRC. -/
def TdcState.src (t : TdcState) : Nat := bitsOf t.cfg 9 2
/-- START_CODE. -/
def TdcState.startCode (t : TdcState) : Nat := bitsOf t.cfg 11 3
/-- STOP_CODE. -/
def TdcState.stopCode (t : TdcState) : Nat := bitsOf t.cfg 14 3
/-- ACC_EN. -/
def TdcState.accEn (t : TdcState) : Bool := bitOf t.cfg 18
/-- EVT. -/
def TdcState.evt (t : TdcState) : Bool := bitOf t.cfg 19
/-- ACC. -/
def TdcState.accNo (t : TdcState) : Nat := bitsOf t.cfg 20 10

/-- A measurement changed by a function. -/
def State.updTdc (s : State) (p : Nat) (f : TdcState → TdcState) : State := s.updPin p (fun q => { q with tdc := f q.tdc })

/-- PIN_TDC_STAT.STATE: 0 IDLE, 1 WAIT, 2 ARMED, 3 DONE, 4 LENT (R296). -/
def State.tdcSt (s : State) (p : Nat) : Nat := s.get (PIN_TDC_STAT_STATE p)

/-- Whether a pin has a measurement under way. -/
def State.tdcActive (s : State) (p : Nat) : Bool := decide (s.tdcSt p = 1) || decide (s.tdcSt p = 2)

/-- Whether an arm on pin p with start pin q is refused (R275, R383). -/
def State.tdcRefused (s : State) (p q : Nat) : Bool :=
  !s.pinFree p || !s.pinFree q ||
    (decide (q ≠ p) && (s.tdcActive q || (decide (s.tdcSt q = 4) && decide ((s.pin q).tdc.lentTo ≠ some p)))) || decide (s.tdcSt p = 4) ||
    !s.bit TB_REF_STATUS_LOCKED || s.octOff (p / 64) || s.octOff (q / 64) ||
    s.cal.steps.any (fun c => decide (c.pin = p) || decide (c.pin = q))

/-- The bits [15:8] of PIN_TDC_STAT given values (R296). -/
def State.tdcFlags (s : State) (p : Nat) (order near tStart tStop ref : Bool) : State :=
  ((((s.set (PIN_TDC_STAT_ORDER p) (ofBool order)).set (PIN_TDC_STAT_NEAR p) (ofBool near)).set
    (PIN_TDC_STAT_TIMEOUT_START p) (ofBool tStart)).set (PIN_TDC_STAT_TIMEOUT_STOP p) (ofBool tStop)).set
    (PIN_TDC_STAT_REF p) (ofBool ref)

/-- The start pin of a measurement released. -/
def State.tdcRelease (s : State) (p : Nat) : State :=
  let q := (s.pin p).tdc.q
  if q ≠ p ∧ (s.pin q).tdc.lentTo = some p then
    (s.set (PIN_TDC_STAT_STATE q) 0).updTdc q (fun t => { t with lentTo := none })
  else s

/-- The arm instant arrives: with START_SRC = 0b01 it is the start (R276). -/
def State.tdcBegin (s : State) (p t : Nat) : State :=
  (s.set (PIN_TDC_STAT_STATE p) 2).updTdc p (fun m =>
    { m with armAt := t, waiting := false, stop := none, switched := false,
             start := if m.src = 1 then some (t, s.refFlagged t) else none })

/-- The Meridian instant of PIN_TDC_ARM_TICK and FINE, as a timebase time. -/
def State.tdcArmTime (s : State) (p : Nat) : Nat :=
  s.ofMer (s.get64 (PIN_TDC_ARM_TICK_LO_TICK p) (PIN_TDC_ARM_TICK_HI_TICK p) * tickLsb + s.get (PIN_TDC_ARM_FINE p))

/-- PIN_TDC_CMD.ARM on pin p (R275, R276, R279). -/
def State.tdcArm (s : State) (p : Nat) : State :=
  let q := s.get (PIN_TDC_CFG_START_PIN p)
  if s.tdcRefused p q then s.flag (PIN_TDC_STAT_BUSY p)
  else
    let s0 := if s.tdcActive p then s.tdcRelease p else s
    let w := (s.reg (PIN_TDC_CFG_START_PIN p).addr).toNat
    let s1 := s0.updTdc p (fun _ =>
      { TdcState.reset with
        cfg := w, timeout := max 1 (s.get (PIN_TDC_TIMEOUT p)), armAt := s.tdcArmTime p,
        left := if bitsOf w 9 2 = 1 then 0 else s.get (PIN_TDC_REPEAT p) })
    let s2 := if q = p then s1
      else (s1.set (PIN_TDC_STAT_STATE q) 4).updTdc q (fun t => { t with lentTo := some p })
    let s3 := (s2.tdcFlags p false false false false false).set (PIN_TDC_COUNT p) 0
    if s.bit (PIN_TDC_CFG_ARM_AT p) && decide (s.now < s.tdcArmTime p) then s3.set (PIN_TDC_STAT_STATE p) 1
    else s3.tdcBegin p s.now

/-- A measurement or series ended: STATE is DONE and the start pin released (R279, R280). -/
def State.tdcDone (s : State) (p : Nat) : State := (s.tdcRelease p).set (PIN_TDC_STAT_STATE p) 3

/-- Event 0x6001 at the end of a series, with bits [15:8] of PIN_TDC_STAT (R279, R292). -/
def State.tdcEvent (s : State) (p : Nat) : State :=
  s.raiseIf (s.pin p).tdc.evt 0x6001 p (bitsOf (s.reg (PIN_TDC_STAT_STATE p).addr).toNat 8 8)

/-- A measurement cancelled, for a reason code (R280). -/
def State.tdcCancel (s : State) (p why : Nat) : State :=
  if s.tdcActive p then
    (((s.updTdc p (fun m => { m with ready := [] })).tdcDone p).flag (PIN_TDC_STAT_CANCELLED p)).raise 0x6003 p why
  else s

/-- Every measurement that uses a pin of a set, as measuring or start pin, cancelled (R280). -/
def State.tdcCancelAll (s : State) (why : Nat) (hit : Nat → Bool) : State :=
  (s.pins.map (fun e => e.1)).foldl
    (fun u p => if hit p || hit (u.pin p).tdc.q then u.tdcCancel p why else u) s

/-- A crossing taken as the start of pin p's measurement (R276). -/
def State.tdcStart (s : State) (p : Nat) (k : CrossKind) (t : Nat) : State :=
  let m := (s.pin p).tdc
  if s.tdcSt p = 2 ∧ !m.waiting ∧ m.start = none ∧ m.src = 0 ∧ m.armAt ≤ t ∧ codeMatch m.startCode k then
    s.updTdc p (fun m => { m with start := some (t, s.refFlagged t) })
  else s

/-- A crossing taken as the stop of pin p's measurement (R276). -/
def State.tdcStop (s : State) (p : Nat) (k : CrossKind) (t : Nat) : State :=
  let m := (s.pin p).tdc
  if s.tdcSt p = 2 ∧ !m.waiting ∧ m.stop = none ∧ m.armAt ≤ t ∧ codeMatch m.stopCode k then
    s.updTdc p (fun m => { m with stop := some (t, s.refFlagged t) })
  else s

/-- A crossing on pin x at the reference plane: one crossing may serve as both (R276). -/
def State.tdcCross (s : State) (x : Nat) (k : CrossKind) (t : Nat) : State :=
  match (s.pin x).tdc.lentTo with
  | some p => s.tdcStart p k t
  | none =>
    let s1 := if (s.pin x).tdc.q = x then s.tdcStart x k t else s
    s1.tdcStop x k t

/-- The interval of R277 from x in 0.25 ps: nearest ps, halves away from zero, and 0 below 1 ps. -/
def intervalPs (x : Int) : Int := if x.natAbs < 4 then 0 else roundAway x 4

/-- A result becomes readable, with its flags (R277, R281, R282): of a start and a stop, each a time with its reference flag, and whether the
reference was switched between them. -/
def State.tdcReport (s : State) (p : Nat) (start stop : Nat × Bool) (switched : Bool) : State :=
  let m := (s.pin p).tdc
  let x : Int := (stop.1 : Int) - start.1
  let v := intervalPs x
  let ref := start.2 || stop.2 || switched
  let s1 := (s.set64 (PIN_TDC_RESULT_LO_RESULT p) (PIN_TDC_RESULT_HI_RESULT p) (unsignedOf 64 v)).set64
    (PIN_TDC_START_LO_START p) (PIN_TDC_START_HI_START p) (s.tickAt start.1)
  let s2 := (s1.tdcFlags p (decide (x ≤ -4)) (decide (x.natAbs < 4)) false false ref).count (PIN_TDC_COUNT p) 1
  if !m.accEn then s2
  else if decide (-(2 ^ 31) ≤ v) && decide (v < 2 ^ 31) then s2.pushOperand p m.accNo v ref
  else s2.flag (PIN_TDC_STAT_RANGE p)

/-- The next measurement of a series waits for its arm, 8.0 ns after the later stamp of the one before (R279). -/
def TdcState.next (m : TdcState) (t0 t1 : Nat) : TdcState :=
  { m with left := m.left - 1, waiting := true, start := none, stop := none, switched := false, armAt := max t0 t1 + 8 * ns }

/-- The oldest result that is not readable yet becomes readable; the last of a series ends it (R279). -/
def State.tdcResult (s : State) (p : Nat) : State :=
  let m := (s.pin p).tdc
  if s.tdcSt p ≠ 2 then s
  else
    match m.ready, m.start, m.stop with
    | (a, b, w) :: rest, _, _ => (s.tdcReport p a b w).updTdc p (fun m => { m with ready := rest })
    | [], some a, some b =>
      let s1 := s.tdcReport p a b m.switched
      if m.left = 0 then (s1.tdcDone p).tdcEvent p else s1.updTdc p (fun m => m.next a.1 b.1)
    | [], _, _ => s

/-- The next measurement of a series arms (R279), be the result before it readable or not. -/
def State.tdcRepeat (s : State) (p : Nat) : State :=
  let m := (s.pin p).tdc
  let arm (u : State) : State := (u.at_ (u.pin p).tdc.armAt).tdcBegin p (u.pin p).tdc.armAt
  if s.tdcSt p ≠ 2 then s
  else if m.waiting then arm s
  else
    match m.start, m.stop with
    | some a, some b =>
      if m.left = 0 then s else arm (s.updTdc p (fun m => { m.next a.1 b.1 with ready := m.ready ++ [(a, b, m.switched)] }))
    | _, _ => s

/-- No start or no stop by the timeout: the measurement and the series end (R278, R279). -/
def State.tdcTimeout (s : State) (p : Nat) : State :=
  let m := (s.pin p).tdc
  if s.tdcSt p = 2 ∧ !m.waiting ∧ (m.start = none ∨ m.stop = none) then
    let a := m.start.isNone
    let b := m.stop.isNone
    let s1 := (s.at_ (m.armAt + m.timeout * us)).tdcFlags p false false a b false
    let s2 := s1.set64 (PIN_TDC_RESULT_LO_RESULT p) (PIN_TDC_RESULT_HI_RESULT p) 0
    let s3 := s2.raise 0x6002 p (if a && b then 2 else if a then 0 else 1)
    (s3.tdcDone p).tdcEvent p
  else s

/-- A switch of the reference between start and stop (R282). -/
def State.tdcSwitched (s : State) : State :=
  (s.pins.map (fun e => e.1)).foldl
    (fun u p =>
      let m := (u.pin p).tdc
      if decide (u.tdcSt p = 2) && (m.start.isSome != m.stop.isSome) then
        u.updTdc p (fun m => { m with switched := true })
      else u) s

/-- TDC_ARM: PIN_TDC_CMD.ARM on pin p, at a time (R275). -/
def execTdcArm (p : Fin 512) (s : State) : Host.Outcome State Fault Refusal := .next (s.tdcArm p)

/-- TDC_CANCEL: PIN_TDC_CMD.CANCEL on pin p; no effect in IDLE or DONE (R280, R295). A LENT pin refuses commands (R275). -/
def execTdcCancel (p : Fin 512) (s : State) : Host.Outcome State Fault Refusal :=
  .next (if s.tdcSt p = 4 then s.flag (PIN_TDC_STAT_BUSY p) else s.tdcCancel p 0)

/-- TDC_ARM_INSTANT: the scheduled Meridian arm instant of pin p arrives (R276). -/
def execTdcArmInstant (p : Fin 512) (s : State) : Host.Outcome State Fault Refusal :=
  .next (if s.tdcSt p = 1 then (s.at_ (s.pin p).tdc.armAt).tdcBegin p (s.pin p).tdc.armAt else s)

/-- TDC_RESULT: the result of pin p becomes readable (R277). -/
def execTdcResult (p : Fin 512) (s : State) : Host.Outcome State Fault Refusal := .next (s.tdcResult p)

/-- TDC_TIMEOUT: no start or stop on pin p by the timeout (R278). -/
def execTdcTimeout (p : Fin 512) (s : State) : Host.Outcome State Fault Refusal := .next (s.tdcTimeout p)

/-- TDC_REPEAT_ARM: the next measurement of pin p's series arms 8.0 ns after the later stamp (R279). -/
def execTdcRepeatArm (p : Fin 512) (s : State) : Host.Outcome State Fault Refusal :=
  .next (s.tdcRepeat p)

end Sys2Proof.Machine
end

