-- ==== Sys2Proof/Machine/Capture.lean ====
section
/-! DEFINITION. Fail capture: the update of R222 as a vector commits, the fail-log record (R228, R229), the log queue (R232) and
its writer (R230, R231, R233). -/
namespace Sys2Proof.Machine

/-- Whether the mask of R220, as latched at the arm, covers a pin. -/
def State.masked (s : State) (i p : Nat) : Bool := bitOf (s.cfg i (SITE_CMP_MASK i (p / 32))) (p % 32)

/-- A change of the lines of a site. -/
def State.updLines (s : State) (i : Nat) (f : LineState → LineState) : State :=
  s.updSite i (fun t => { t with lines := f t.lines })

/-- An event of fail capture, at most once per burst (R236). -/
def State.capOnce (s : State) (i code data : Nat) : State :=
  if (s.site i).cap.evented.contains code then s
  else (s.raise code i data).updCap i (fun c => { c with evented := code :: c.evented })

/-- The groups with a failing strobe, ascending. -/
def failGroups (fails : List (Nat × Nat)) : List Nat :=
  (List.range 64).filter (fun g => fails.any (fun f => decide (f.1 / 8 = g)))

/-- The entry of a group (R229): failing S0 strobes in bits [7:0], failing S1 strobes in bits [15:8]. -/
def failEntry (fails : List (Nat × Nat)) (g : Nat) : Nat :=
  fails.foldl (fun w f => if f.1 / 8 = g then w ||| 2 ^ (f.1 % 8 + 8 * f.2) else w) 0

/-- A fail-log record (R228), GAP apart. -/
def failRecord (i seq cycle : Nat) (e : WinEntry) : List Byte :=
  let gs := failGroups e.fails
  let n := gs.length
  let units := ceilDiv n 4
  leBytes 4 (4 + units + 2 ^ 8 * n + 2 ^ 16 * ofBool e.forced + 2 ^ 17 * ofBool e.trip + 2 ^ 20 * i) ++
    leBytes 4 (e.vec.pos.seg + 2 ^ 16 * e.vec.vidx) ++ leBytes 4 e.vec.pos.off ++ leBytes 4 (seq % 2 ^ 16) ++
    leBytes 8 cycle ++ leBytes 8 (gs.foldl (fun m g => m + 2 ^ g) 0) ++
    gs.flatMap (fun g => leBytes 2 (failEntry e.fails g)) ++ List.replicate (8 * units - 2 * n) 0

/-- A queued record as it is written, with GAP in bit 15 (R228). -/
def LogRec.withGap (r : LogRec) (gap : Bool) : List Byte := if gap then r.bytes.modify 1 (fun b => b ||| 0x80) else r.bytes

/-- One failing strobe counted on its pin (R222, steps 1 and 4). -/
def State.failPin (s : State) (i cycle p : Nat) : State :=
  let n := s.get (SITE_PIN_FCNT i p)
  let s1 := (s.count (SITE_PIN_FCNT i p) 1).flagIf (decide (n + 1 ≥ 2 ^ 32)) (SITE_CAP_STATUS_CNT_SAT i)
  if s1.get64 (SITE_PIN_FFC_LO_FFC i p) (SITE_PIN_FFC_HI_FFC i p) = 2 ^ 64 - 1 then
    s1.set64 (SITE_PIN_FFC_LO_FFC i p) (SITE_PIN_FFC_HI_FFC i p) cycle
  else s1

/-- The lowest pin of a list of fails. -/
def lowestPin (fails : List (Nat × Nat)) : Nat := fails.foldl (fun m f => min m f.1) 511

/-- The record of a committed failing vector queued, or dropped for want of room (R232). -/
def State.queueRecord (s : State) (i cycle : Nat) (e : WinEntry) : State :=
  let c := (s.site i).cap
  if s.cfg i (SITE_FLOG_CFG_MODE i) = 0 ∨ !c.ok then s
  else
    let bs := failRecord i (s.site i).burst.seqNo cycle e
    if (c.queue.foldl (fun n r => n + r.bytes.length) 0) + bs.length ≤ 16384 then
      s.updCap i (fun c => { c with queue := c.queue ++ [⟨bs, c.gap, e.vec.id, e.vec.pos⟩], gap := false })
    else
      (((s.count (SITE_FLOG_DROPPED_COUNT i) 1).flag (SITE_FLOG_STATUS_TRUNCATED i)).capOnce i 0x4003 cycle).updCap i
        (fun c => { c with gap := true })

/-- A 64-bit counter in two registers advanced, saturating. -/
def State.count64 (s : State) (lo hi : Fld) (n : Nat) : State := s.set64 lo hi (satAdd 64 (s.get64 lo hi) n)

/-- The fail-capture update of a committing vector with failing strobes (R222, R225). -/
def State.commitFails (s : State) (i cycle : Nat) (e : WinEntry) : State :=
  if e.fails = [] then s
  else
    let s1 := e.fails.foldl (fun u f => u.failPin i cycle f.1) s
    let s2 := s1.count64 (SITE_CAP_FAILS_LO_FAILS i) (SITE_CAP_FAILS_HI_FAILS i) e.fails.length
    let s3 := s2.count64 (SITE_CAP_FVEC_LO_FVEC i) (SITE_CAP_FVEC_HI_FVEC i) 1
    let old := s3.get64 (SITE_CAP_GFAIL_LO_GFAIL i) (SITE_CAP_GFAIL_HI_GFAIL i)
    let s4 := s3.set64 (SITE_CAP_GFAIL_LO_GFAIL i) (SITE_CAP_GFAIL_HI_GFAIL i)
      ((failGroups e.fails).foldl (fun m g => m ||| 2 ^ g) old)
    let s5 :=
      if s4.get64 (SITE_CAP_FIRST_LO_FIRST i) (SITE_CAP_FIRST_HI_FIRST i) = 2 ^ 64 - 1 then
        (s4.set64 (SITE_CAP_FIRST_LO_FIRST i) (SITE_CAP_FIRST_HI_FIRST i) cycle).capOnce i 0x4001 (lowestPin e.fails)
      else s4
    let s6 := s5.flag (SITE_CAP_STATUS_SUMMARY_FAIL i)
    let s7 := if s6.cfgBit i (SITE_CAP_CFG_FAIL_FLAG_EN i) then s6.setFlag i (s6.cfg i (SITE_CAP_CFG_FAIL_FLAG i)) else s6
    s7.queueRecord i cycle e

/-- Whether the committed fails have reached the stop count (R226). -/
def State.failStop (s : State) (i : Nat) (e : WinEntry) : Bool :=
  s.cfgBit i (SITE_CAP_CFG_STOP_ON_FAIL i) && decide (e.fails ≠ []) &&
    decide (max 1 (s.cfg i (SITE_CAP_STOP_COUNT i)) ≤ s.get64 (SITE_CAP_FAILS_LO_FAILS i) (SITE_CAP_FAILS_HI_FAILS i))

/-- The transit registers follow the window and the slots (R191). -/
def State.specStat (s : State) (i : Nat) : State :=
  (s.set (SITE_SPEC_STAT_OCCUPANCY i) (s.site i).occupancy).set (SITE_SPEC_STAT_SLOTS i)
    (s.site i).spec.decisions.length

/-- The crossing of an overrun vector belongs to none (R249). -/
def keepVec (last : Nat) (v : Option Nat) : Option Nat := v.filter (fun x => decide (x ≤ last))

/-- The crossings of an event in vectors after `last` count no more; the stamp unit goes on with it (R246, R249). -/
def EdgeEvent.drop (last : Nat) (e : EdgeEvent) : EdgeEvent :=
  { e with vec := keepVec last e.vec, pair := e.pair.map (fun x => (x.1, x.2.1, x.2.2.1, x.2.2.2.1, keepVec last x.2.2.2.2)) }

/-- The acquisition results of vectors after `last` removed, as though never made (R179, R249). -/
def State.dropAcq (s : State) (i last : Nat) : State :=
  (s.sitePins i).foldl
    (fun u p => u.updPin p (fun q =>
      { q with acq := { q.acq with items := q.acq.items.filter (fun x => decide (x.vec ≤ last)),
                                   open_ := q.acq.open_.map (fun x => x.drop last),
                                   stamping := q.acq.stamping.map (fun x => x.drop last) } })) s

/-- Every issued vector after `last` becomes an overrun vector: its results and the decisions after it are discarded (R173,
R174). The answer holds the number of vectors. -/
def State.overrun (s : State) (i last : Nat) : State × Nat :=
  let t := s.site i
  let n := (t.spec.window.filter (fun e => decide (last < e.vec.id))).length
  let s1 := s.updSite i (fun t =>
    { t with
      spec :=
        { t.spec with
          window := t.spec.window.filter (fun e => decide (e.vec.id ≤ last))
          decisions := t.spec.decisions.filter (fun d => decide (d.firstVec ≤ last))
          leaves := t.spec.leaves.filter (fun l => decide (l.2 ≤ last))
          ovrTotal := satAdd 32 t.spec.ovrTotal n }
      burst :=
        { t.burst with recent := t.burst.recent.map (fun r => if last < r.2.1 then (r.1, r.2.1, true) else r) } })
  ((s1.dropAcq i last).specStat i, n)

/-- The decisions issued after a vector that have resolved are counted no more (R226). -/
def State.uncount (s : State) (i vec : Nat) : State :=
  let out := (s.site i).spec.counted.filter (fun c => decide (vec < c.1))
  let n := s.get (SITE_SPEC_DECISIONS_COUNT i) - out.length
  let m := s.get (SITE_SPEC_MISPRED_COUNT i) - (out.filter (fun c => c.2)).length
  ((s.set (SITE_SPEC_DECISIONS_COUNT i) n).set (SITE_SPEC_MISPRED_COUNT i) m).updSpec i (fun x =>
    { x with counted := x.counted.filter (fun c => decide (c.1 ≤ vec)) })

/-- The burst ends after a committed vector, as though execution had stopped there (R226, R230, R259): every later vector is
overrun, a transaction that has not ended by then gives no result (R179, R324), and an end reason met after it gives way. -/
def State.stopAfter (s : State) (i vec : Nat) (pos : Pos) (e : EndRec) : State :=
  let s1 := (((s.overrun i vec).1.uncount i vec).keepRuns i (fun r =>
    r.ended.isSome && decide (r.unsent = 0) && decide (r.last < vec + 2 ^ 25)))
  let s2 := s1.updSite i (fun t =>
    { t with seq := { t.seq with lastPos := some pos, blk := none, waitSeg := none },
             spec := { t.spec with decisions := [], restart := .free, restartPause := none },
             burst := { t.burst with end_ := none, endPending := none } })
  (s2.endNow i e).specStat i

/-! The writer. -/

/-- The bytes from TAIL to HEAD. -/
def State.flogUsed (s : State) (i : Nat) : Nat :=
  let h := s.get (SITE_FLOG_HEAD i)
  let t := s.get (SITE_FLOG_TAIL i)
  if s.get (SITE_FLOG_COUNT i) = 0 then 0
  else if h = t then s.flogSize i
  else (h + s.flogSize i - t) % s.flogSize i

/-- TAIL moved past the oldest records until `n` bytes are free (R230, WRAP). -/
def State.flogMakeRoom (s : State) (i n : Nat) : Nat → Nat → State
  | 0, _ => s
  | fuel + 1, used =>
    if n + used ≤ s.flogSize i then s
    else
      let t := s.get (SITE_FLOG_TAIL i)
      let len := 8 * max 1 (leNat (s.getRegion (s.region (s.flogBase i + t)) 1))
      State.flogMakeRoom ((s.set (SITE_FLOG_TAIL i) ((t + len) % s.flogSize i)).flag (SITE_FLOG_STATUS_WRAPPED i)) i n fuel
        (used - len)

/-- A record dropped by the writer: the GAP it would have carried is owed to the next one written (R232). -/
def State.flogDrop (s : State) (i : Nat) (r : LogRec) : State :=
  (s.count (SITE_FLOG_DROPPED_COUNT i) 1).updCap i (fun c => { c with owed := c.owed || r.gap })

/-- A record written at HEAD (R231). -/
def State.flogPut (s0 : State) (i : Nat) (r : LogRec) : State :=
  let bs := r.withGap (r.gap || (s0.site i).cap.owed)
  let s := s0.updCap i (fun c => { c with owed := false })
  let h := s.get (SITE_FLOG_HEAD i)
  let s1 := s.captPut (s.flogBase i) (s.flogSize i) h bs
  (s1.set (SITE_FLOG_HEAD i) ((h + bs.length) % s.flogSize i)).count (SITE_FLOG_COUNT i) 1

/-- FULL with its event (R230). -/
def State.flogFull (s : State) (i : Nat) : State :=
  (s.flag (SITE_FLOG_STATUS_FULL i)).capOnce i 0x4002 (s.get (SITE_FLOG_COUNT i))

/-- Whether COUNT has reached LIMIT; LIMIT 0 is the capacity. -/
def State.flogLimit (s : State) (i : Nat) : Bool :=
  decide (s.cfg i (SITE_FLOG_LIMIT i) ≠ 0) && decide (s.cfg i (SITE_FLOG_LIMIT i) ≤ s.get (SITE_FLOG_COUNT i))

/-- One queued record taken by the writer (R230, R231, R233). In STOP mode the vector after a failing vector commits only once
its record is written, so that the end takes effect after that vector. -/
def State.flogWrite (s : State) (i : Nat) : State :=
  match (s.site i).cap.queue with
  | [] => s
  | r :: rest =>
    let base := s.region (s.flogBase i)
    let served := s.rangeServed base (s.flogSize i)
    let pop (u : State) : State := u.updCap i (fun c => { c with queue := rest })
    let mode := s.cfg i (SITE_FLOG_CFG_MODE i)
    let fits := decide (r.bytes.length + s.flogUsed i ≤ s.flogSize i)
    if served = .stall then s
    else if served = .off then
      (((pop s).flogDrop i r).flag (SITE_FLOG_STATUS_DOMAIN_OFF i)).capOnce i 0x4005 1
    else if mode = 1 then
      if (s.site i).cap.closed then (pop s).flogDrop i r
      else if !fits || s.flogLimit i then
        (((pop s).flogDrop i r).flogFull i).updCap i (fun c => { c with closed := true })
      else (pop s).flogPut i r
    else if mode = 2 then
      ((pop s).flogMakeRoom i r.bytes.length 4096 (s.flogUsed i)).flogPut i r
    else
      let s1 := if fits then (pop s).flogPut i r else (pop s).flogDrop i r
      if !fits || s1.flogLimit i || decide (s1.flogSize i < s1.flogUsed i + 160) then
        ((s1.flag (SITE_FLOG_STATUS_LOG_STOP i)).flogFull i).stopAfter i r.vec r.pos (haltRec 0)
      else s1

end Sys2Proof.Machine
end

