-- ==== Sys2Proof/Machine/Commit.lean ====
section
/-! DEFINITION. Commit (R179, R222): trigger units, trigger lines and acquisition rings over the results of a committing vector
in tag order (R249 to R257), mask tests (R258, R259), averaging intervals (R260), and the commit of the vectors of the Transit
window in order (R19). -/
namespace Sys2Proof.Machine

/-- A change of the acquisition state of a pin. -/
def State.updAcq (s : State) (p : Nat) (f : AcqState → AcqState) : State :=
  s.updPin p (fun q => { q with acq := f q.acq })

/-- The time tag in ps before it wraps (R247): time minus burst epoch, to the nearest ps, halves up. -/
def State.tagOf (s : State) (i t : Nat) : Nat := (t - (s.site i).burst.epoch + 2) / 4

/-- The start of the tick that holds a time: all the device knows of a missed crossing's time (R246). -/
def State.tickFloor (s : State) (t : Nat) : Nat := t - s.merAt t % tickLsb

/-- The comparison COND of WIDTH, RUNT and SLEW (R254). -/
def condOk (cond w1 w2 v : Nat) : Bool :=
  match cond with
  | 0 => decide (v < w1)
  | 1 => decide (w2 < v)
  | 2 => decide (w1 ≤ v) && decide (v ≤ w2)
  | _ => decide (v < w1) || decide (w2 < v)

/-- What an acquisition result means to a trigger unit: a stamped crossing, a missed one, or the end of a timeout. -/
def AcqKind.cross : AcqKind → Option (CrossKind × Bool)
  | .stamp k _ _ _ _ _ => some (k, false)
  | .missed k _ => some (k, true)
  | .timeout _ => none
  | .mark _ => none

/-- A measured stretch that opens at one crossing and closes at another (WIDTH, RUNT): the unit after a crossing, and the value
measured at its close. -/
def spanStep (u : TrigUnit) (x : AcqItem) (opens closes cancels : CrossKind → Bool) : TrigUnit × Option Nat :=
  match x.kind.cross with
  | none => (u, none)
  | some (k, missed) =>
    if cancels k then ({ u with openAt := none }, none)
    else if opens k then ({ u with openAt := if missed then none else some x.time }, none)
    else if closes k then ({ u with openAt := none }, if missed then none else u.openAt)
    else (u, none)

/-- Whether a unit is armed and a crossing at a time counts for it (R255): `tag` gives tags. -/
def TrigUnit.counts (u : TrigUnit) (tag : Nat → Nat) (t : Nat) : Bool := u.armed && u.from_.any (fun a => decide (tag a ≤ tag t))

/-- One result evaluated by an armed trigger unit (R254): the unit after it, and whether it fires. A condition that needs the time of a missed crossing,
or of one that does not count (R249, R255), does not fire. -/
def State.trigEval (s : State) (i p n : Nat) (u : TrigUnit) (x : AcqItem) : TrigUnit × Bool :=
  let pol := s.cfgBit i (PIN_TRIG_CFG_POL p n)
  let thr := s.cfgBit i (PIN_TRIG_CFG_THR p n)
  let code := s.cfg i (PIN_TRIG_CFG_CODE p n)
  let w1 := s.cfg i (PIN_TRIG_W1 p n)
  let ok (a b : Nat) : Bool :=
    condOk (s.cfg i (PIN_TRIG_CFG_COND p n)) w1 (s.cfg i (PIN_TRIG_W2 p n)) (s.tagOf i b - s.tagOf i a)
  let span (r : TrigUnit × Option Nat) : TrigUnit × Bool :=
    match r.2 with
    | none => (r.1, false)
    | some a => (r.1, ok a x.time)
  match s.cfg i (PIN_TRIG_CFG_TYPE p n) with
  | 1 =>
    match x.kind with
    | .stamp k _ _ _ _ _ => (u, codeMatch code k)
    | _ => (u, false)
  | 2 =>
    span (spanStep u x (fun k => decide (k.high = thr) && (k.rising != pol)) (fun k => decide (k.high = thr) && (k.rising == pol))
      (fun _ => false))
  | 3 =>
    let other := match x.kind with
      | .stamp _ lf hf _ _ _ => if pol then lf else hf
      | _ => false
    span (spanStep u x (fun k => decide (k.high = pol) && (k.rising != pol) && !other)
      (fun k => decide (k.high = pol) && (k.rising == pol)) (fun k => (k.high != pol) && (k.rising != pol)))
  | 4 =>
    match x.kind with
    | .stamp k _ _ _ _ _ => (if codeMatch code k then { u with t0 := some x.time } else u, false)
    | .missed k _ => (if codeMatch code k then { u with t0 := none } else u, false)
    | .timeout m => (u, decide (m = n) && u.t0.any (fun t0 => decide (x.time = t0 + w1 * ns)))
    | .mark _ => (u, false)
  | 5 =>
    match x.kind with
    | .stamp k _ _ pair _ prev =>
      (u, pair && (k.high != pol) && (k.rising != pol) && prev.any (fun a => u.counts (s.tagOf i) a && ok a x.time))
    | _ => (u, false)
  | _ => (u, false)

/-- One result evaluated by unit n of a pin (R254, R255): the unit, and whether it fires. -/
def State.trigUnit (s : State) (i p n : Nat) (x : AcqItem) : State × Bool :=
  let u := (s.pin p).acq.units.getD n TrigUnit.reset
  if !u.counts (s.tagOf i) x.time then (s, false)
  else
    let r := s.trigEval i p n u x
    let u' := if r.2 then { r.1 with t0 := some x.time, armed := !s.cfgBit i (PIN_TRIG_CFG_ONCE p n) } else r.1
    (s.updAcq p (fun a => { a with units := a.units.set n u' }), r.2)

/-- The four units of a pin over one result: the set that fires. -/
def State.trigPin (s : State) (i p : Nat) (x : AcqItem) : State × Nat :=
  (List.range 4).foldl
    (fun r n =>
      let q := r.1.trigUnit i p n x
      (q.1, if q.2 then r.2 ||| 2 ^ n else r.2)) (s, 0)

/-- The lowest number in a set. -/
def lowestBit (n m : Nat) : Nat := ((List.range n).find? (fun k => bitOf m k)).getD 0

/-! Acquisition rings (R250 to R252). -/

/-- The ring of a pin is done (R252, R261). -/
def State.ringDone (s : State) (p : Nat) : State :=
  (s.set (PIN_ACQ_STAT_STATE p) 3).raise 0x5003 p (s.get (PIN_ACQ_COUNT_STORED p))

/-- The post-trigger records of a ring are complete (R252). -/
def State.postDone (s : State) (i p : Nat) : State :=
  let post := s.cfg i (PIN_ACQ_POST p)
  if post ≤ 4096 then s.ringDone p
  else ((s.ringDone p).flag (PIN_ACQ_STAT_POST_CLIPPED p)).raise 0x5004 p post

/-- A ring triggered at a tag (R252). -/
def State.ringTrigger (s : State) (i p tag : Nat) : State :=
  if s.cfg i (PIN_ACQ_CFG_MODE p) = 1 ∧ s.get (PIN_ACQ_STAT_STATE p) = 1 then
    let s1 := (s.set (PIN_ACQ_STAT_STATE p) 2).set (PIN_ACQ_INDEX_TRIG_INDEX p) (s.get (PIN_ACQ_INDEX_WRITE p))
    let s2 := s1.updAcq p (fun a => { a with trigTag := some tag, post := 0 })
    if s.cfg i (PIN_ACQ_POST p) = 0 then s2.postDone i p else s2
  else s

/-- A record put into a ring: the oldest is overwritten once 4,096 are held (R251). -/
def State.ringStore (s : State) (p w : Nat) (pre : Bool) : State :=
  let at_ := s.get (PIN_ACQ_INDEX_WRITE p)
  let n := s.get (PIN_ACQ_COUNT_STORED p)
  let k := s.get (PIN_ACQ_COUNT_PRE p)
  let s1 := s.set64 (PIN_ACQ_RING_LO_WORD p at_) (PIN_ACQ_RING_HI_WORD p at_) w
  let s2 := s1.set (PIN_ACQ_INDEX_WRITE p) ((at_ + 1) % 4096)
  (s2.set (PIN_ACQ_COUNT_STORED p) (min (n + 1) 4096)).set (PIN_ACQ_COUNT_PRE p)
    (if pre then min (k + 1) 4096 else if n < 4096 then k else k - 1)

/-- A record offered to the ring of a pin (R251, R252). -/
def State.ringRecord (s : State) (i p w : Nat) : State :=
  let st := s.get (PIN_ACQ_STAT_STATE p)
  if s.cfg i (PIN_ACQ_CFG_MODE p) = 2 ∧ st = 1 then
    let s1 := s.ringStore p w false
    if s1.get (PIN_ACQ_COUNT_STORED p) = 4096 then s1.ringDone p else s1
  else if s.cfg i (PIN_ACQ_CFG_MODE p) = 1 ∧ st = 1 then s.ringStore p w true
  else if s.cfg i (PIN_ACQ_CFG_MODE p) = 1 ∧ st = 2 then
    let s1 := (s.ringStore p w false).updAcq p (fun a => { a with post := a.post + 1 })
    if min (s.cfg i (PIN_ACQ_POST p)) 4096 ≤ (s1.pin p).acq.post then s1.postDone i p else s1
  else s

/-- A crossing record (R250). -/
def crossRecord (tag : Nat) (lf hf pair gap : Bool) : Nat :=
  tag % 2 ^ 48 + 2 ^ 48 * ofBool lf + 2 ^ 49 * ofBool hf + 2 ^ 50 * ofBool pair + 2 ^ 51 * ofBool gap

/-- A marker record (R250). -/
def markRecord (tag value : Nat) : Nat := tag % 2 ^ 48 / 4 + 2 ^ 46 * (value % 2 ^ 16) + 2 ^ 62

/-- The record of one result of a pin: a stamped crossing or a marker goes to the ring (R251), and ends a GAP (R250); a missed event is counted, with its
status bit and event 0x5006 (R246, R249, R261). -/
def State.acqRecord (s : State) (i p tag : Nat) (x : AcqItem) : State :=
  let put (w : Nat) : State :=
    if s.cfg i (PIN_ACQ_CFG_MODE p) = 0 then s else (s.ringRecord i p w).updAcq p (fun a => { a with gap := false })
  match x.kind with
  | .stamp _ lf hf pair _ _ => put (crossRecord tag lf hf pair (s.pin p).acq.gap)
  | .mark v => put (markRecord tag v)
  | .missed _ (some why) =>
    let s0 := (s.flagIf (decide (why = 1)) (PIN_ACQ_STAT_RATE p)).flagIf (decide (why = 2)) (PIN_ACQ_STAT_HELD_FULL p)
    let s1 := (s0.count (PIN_ACQ_MISSED p) 1).raiseIf (!(s.pin p).acq.evented) 0x5006 p why
    s1.updAcq p (fun a => { a with gap := true, evented := true })
  | .missed _ none => s
  | .timeout _ => s

/-! Fires (R256) and lines (R257). -/

/-- The history entry of a sample (R256, R266). -/
def State.trigHist (s : State) (p tag set act : Nat) : State :=
  match (List.range 4).find? (fun k => !s.bit (PIN_TRIG_HIST_HI_VALID p k)) with
  | none => s
  | some k =>
    ((((s.set (PIN_TRIG_HIST_LO_TAG_LO p k) (tag % 2 ^ 32)).set (PIN_TRIG_HIST_HI_TAG_HI p k) (tag / 2 ^ 32 % 2 ^ 16)).set
      (PIN_TRIG_HIST_HI_SET p k) set).set (PIN_TRIG_HIST_HI_ACTED p k) act).flag (PIN_TRIG_HIST_HI_VALID p k)

/-- The fires of a pin in one sample (R256), all but the line: latched, counted, and the acting unit's actions. -/
def State.trigFire (s : State) (i p tag set : Nat) : State :=
  let act := lowestBit 4 set
  let n := ((List.range 4).filter (fun k => bitOf set k)).length
  let s1 := (s.count (PIN_TRIG_CNT p) n).trigHist p tag set act
  let s2 := if s.cfgBit i (PIN_TRIG_CFG_FLAG_EN p act) then s1.setFlag i (s.cfg i (PIN_TRIG_CFG_FLAG p act)) else s1
  let u := (s.pin p).acq.units.getD act TrigUnit.reset
  let s3 :=
    if s.cfgBit i (PIN_TRIG_CFG_EVT p act) && !u.evented then
      (s2.raise 0x5001 p (act + 2 ^ 4 * set)).updAcq p (fun a =>
        { a with units := a.units.set act { a.units.getD act TrigUnit.reset with evented := true } })
    else s2
  if s.cfgBit i (PIN_TRIG_CFG_ACQ p act) && !s.cfgBit i (PIN_ACQ_CFG_SRC p) then s3.ringTrigger i p tag else s3

/-- The units configured to drive a line, by unit number. -/
def State.lineUnits (s : State) (i line : Nat) : List Nat :=
  (s.sitePins i).flatMap (fun p =>
    ((List.range 4).filter (fun n =>
      s.cfgBit i (PIN_TRIG_CFG_LINE_EN p n) && decide (s.cfg i (PIN_TRIG_CFG_LINE p n) = line) &&
        decide (1 ≤ s.cfg i (PIN_TRIG_CFG_TYPE p n)) && decide (s.cfg i (PIN_TRIG_CFG_TYPE p n) ≤ 5))).map (fun n => 4 * p + n))

/-- Whether a line fires at a tag, and the fires that stay (R257). -/
def State.lineFires (s : State) (i line tag : Nat) : State × Bool :=
  let fs := (s.site i).lines.fires
  let mine := fs.filter (fun f => decide (f.line = line))
  let rest := fs.filter (fun f => decide (f.line ≠ line))
  let keep (l : List LineFire) : State := s.updLines i (fun v => { v with fires := rest ++ l })
  if mine = [] ∨ !s.cfgBit i (SITE_TRIG_LINE_EN i line) then (keep [], false)
  else if !s.cfgBit i (SITE_TRIG_LINE_MODE i line) then (keep [], true)
  else
    let near := mine.filter (fun f => decide (tag ≤ f.tag + s.cfg i (SITE_TRIG_LINE_WIN i line)))
    let units := s.lineUnits i line
    if units.all (fun u => near.any (fun f => decide (f.unit = u))) then
      let used := units.filterMap (fun u => near.find? (fun f => decide (f.unit = u)))
      (keep (near.filter (fun f => !used.contains f)), true)
    else (keep near, false)

/-- The lines that fire in one sample latched, and the lowest one's actions (R257, R271). -/
def State.lineAct (s : State) (i tag set : Nat) : State :=
  if set = 0 then s
  else
    let act := lowestBit 8 set
    let s1 :=
      if s.bit (SITE_TRIG_LHIST_HI_VALID i) then s
      else
        ((((s.set (SITE_TRIG_LHIST_LO_TAG_LO i) (tag % 2 ^ 32)).set (SITE_TRIG_LHIST_HI_TAG_HI i) (tag / 2 ^ 32 % 2 ^ 16)).set
          (SITE_TRIG_LHIST_HI_SET i) set).set (SITE_TRIG_LHIST_HI_ACTED i) act).flag (SITE_TRIG_LHIST_HI_VALID i)
    let s2 := (s.sitePins i).foldl
      (fun u p =>
        if s.cfgBit i (PIN_ACQ_CFG_SRC p) && decide (s.cfg i (PIN_ACQ_CFG_LINE p) = act) then u.ringTrigger i p tag else u) s1
    let s3 := if s.cfgBit i (SITE_TRIG_LINE_FLAG_EN i act) then s2.setFlag i (s.cfg i (SITE_TRIG_LINE_FLAG i act)) else s2
    if s.cfgBit i (SITE_TRIG_LINE_EVT i act) && !(s.site i).lines.evented.contains act then
      (s3.raise 0x5002 i (act + 2 ^ 8 * set)).updLines i (fun v => { v with evented := act :: v.evented })
    else s3

/-- The driver fires of a sample: the acting unit of each pin that fires, with LINE_EN (R257). -/
def State.lineDrivers (s : State) (i tag : Nat) (fires : List (Nat × Nat)) : List LineFire :=
  fires.filterMap (fun f =>
    let act := lowestBit 4 f.2
    if s.cfgBit i (PIN_TRIG_CFG_LINE_EN f.1 act) then some ⟨s.cfg i (PIN_TRIG_CFG_LINE f.1 act), 4 * f.1 + act, tag⟩ else none)

/-- A set of fires of a pin added to a list of them, by pin. -/
def addFire (p set : Nat) : List (Nat × Nat) → List (Nat × Nat)
  | [] => [(p, set)]
  | (q, m) :: r => if q = p then (q, m ||| set) :: r else (q, m) :: addFire p set r

/-- The results of one tag on the pins of a site: units, fires, lines, then records (R249 to R257). -/
def State.acqGroup (s : State) (i tag : Nat) (its : List (Nat × AcqItem)) : State :=
  let r := its.foldl
    (fun (r : State × List (Nat × Nat)) x =>
      let q := r.1.trigPin i x.1 x.2
      (q.1, if q.2 = 0 then r.2 else addFire x.1 q.2 r.2)) (s, [])
  let s1 := r.2.foldl (fun u f => u.trigFire i f.1 tag f.2) r.1
  let dr := s1.lineDrivers i tag r.2
  let s2 := s1.updLines i (fun v => { v with fires := v.fires ++ dr })
  let ls := (List.range 8).foldl
    (fun (r : State × Nat) n =>
      if dr.any (fun f => decide (f.line = n)) then
        let q := r.1.lineFires i n tag
        (q.1, if q.2 then r.2 ||| 2 ^ n else r.2)
      else r) (s2, 0)
  let s3 := ls.1.lineAct i tag ls.2
  its.foldl (fun u x => u.acqRecord i x.1 tag x.2) s3

/-- Results in order of time. -/
def insertItem (x : Nat × AcqItem) : List (Nat × AcqItem) → List (Nat × AcqItem)
  | [] => [x]
  | y :: r => if x.2.time < y.2.time then x :: y :: r else y :: insertItem x r

/-- Results sorted by time, stable. -/
def sortItems (l : List (Nat × AcqItem)) : List (Nat × AcqItem) := l.foldl (fun acc x => insertItem x acc) []

/-- Sorted results, the ones of one tag together. -/
def State.acqGroups (s : State) (i : Nat) : Nat → List (Nat × AcqItem) → State
  | 0, _ => s
  | fuel + 1, l =>
    match l with
    | [] => s
    | x :: _ =>
      let tag := s.tagOf i x.2.time
      let same (y : Nat × AcqItem) : Bool := decide (s.tagOf i y.2.time = tag)
      State.acqGroups (s.acqGroup i tag (l.takeWhile same)) i fuel (l.dropWhile same)

/-- The waiting results of a site that satisfy a test, taken from their pins and acted on in tag order. -/
def State.acqTake (s : State) (i : Nat) (test : AcqItem → Bool) : State :=
  let pins := s.sitePins i
  let its := pins.flatMap (fun p => ((s.pin p).acq.items.filter test).map (fun x => (p, x)))
  let s1 := pins.foldl
    (fun u p => if (u.pin p).acq.items.any test then
      u.updAcq p (fun a => { a with items := a.items.filter (fun x => !test x) }) else u) s
  s1.acqGroups i its.length (sortItems its)

/-- A marker that commits (R251, R255): units that wait for it arm at its tag, and it joins the results of the pins whose rings take markers, before
those of its time. -/
def State.acqMark (s : State) (i vec t value : Nat) : State :=
  let hit := decide (value % 2 ^ 16 = s.cfg i (SITE_ACQ_CFG_MARK_ARM i))
  (s.sitePins i).foldl
    (fun u p =>
      let units := (u.pin p).acq.units.zipIdx.map (fun x =>
        if hit && u.cfgBit i (PIN_TRIG_CFG_ARM_MARK p x.2) && x.1.from_.isNone then
          { x.1 with armed := true, from_ := some t, t0 := some t }
        else x.1)
      let u1 := if hit && decide (units ≠ (u.pin p).acq.units) then u.updAcq p (fun a => { a with units := units }) else u
      if u.cfgBit i (PIN_ACQ_CFG_MARK_EN p) then u1.updAcq p (fun a => { a with items := ⟨vec, t, .mark value⟩ :: a.items })
      else u1) s

/-! Mask tests and averaging. -/

/-- A stamped crossing of a code within a span. -/
def stampIn (code a b : Nat) (x : AcqItem) : Bool :=
  match x.kind with
  | .stamp k _ _ _ _ _ => codeMatch code k && decide (a ≤ x.time) && decide (x.time ≤ b)
  | _ => false

/-- A missed crossing of a code whose tick overlaps a span. -/
def State.missedIn (s : State) (code a b : Nat) (x : AcqItem) : Bool :=
  match x.kind with
  | .missed k _ => codeMatch code k && decide (s.tickFloor x.time ≤ b) && decide (a < s.tickFloor x.time + tickLsb)
  | _ => false

/-- Whether a mask window applies to a vector (R258). -/
def State.maskApplies (s : State) (i p n ts : Nat) : Bool :=
  s.cfgBit i (PIN_MASK_CFG_EN p n) && (s.cfgBit i (PIN_MASK_CFG_TSALL p n) || decide (s.cfg i (PIN_MASK_CFG_TS p n) = ts))

/-- A committed violation (R259). -/
def State.maskHit (s : State) (i p n : Nat) (kind : Bool) : State :=
  let s1 := (s.count (PIN_MASK_VIOL p) 1).count (SITE_MASK_VIOL i) 1
  let s2 :=
    if (s.site i).lines.evented.contains 8 then s1
    else (s1.raise 0x5005 i (p + 2 ^ 10 * n + 2 ^ 12 * ofBool kind)).updLines i (fun v => { v with evented := 8 :: v.evented })
  if s.cfgBit i (SITE_MASK_CFG_FLAG_EN i) then s2.setFlag i (s.cfg i (SITE_MASK_CFG_FLAG i)) else s2

/-- One mask window in a vector with cycle start c and period per (R258): the state, and the detail of a stop. -/
def State.maskWindow (s : State) (i p n ts c per : Nat) : State × Option Nat :=
  if !s.maskApplies i p n ts then (s, none)
  else
    let a := s.cfg i (PIN_MASK_START p n)
    let b := s.cfg i (PIN_MASK_END p n)
    if 2 * per ≤ b ∨ b < a then (s.flag (PIN_ACQ_STAT_WIN_BAD p), none)
    else
      let code := s.cfg i (PIN_MASK_CFG_CODE p n)
      let its := (s.pin p).acq.items
      let require := s.cfgBit i (PIN_MASK_CFG_KIND p n)
      let viol :=
        if require then !its.any (stampIn code (c + a) (c + b))
        else its.any (stampIn code (c + a) (c + b)) || its.any (s.missedIn code (c + a) (c + b))
      if viol then
        (s.maskHit i p n require, if s.cfgBit i (PIN_MASK_CFG_STOP p n) then some (0x20 + ofBool require) else none)
      else (s, none)

/-- The mask windows of a site in a vector: the state, and the detail of the first stop. -/
def State.maskVec (s : State) (i ts c per : Nat) : State × Option Nat :=
  (s.sitePins i).foldl
    (fun r p =>
      (List.range 4).foldl
        (fun r n =>
          let q := r.1.maskWindow i p n ts c per
          (q.1, if r.2.isSome then r.2 else q.2)) r) (s, none)

/-- The averaging interval of a pin in a vector (R260); a switch of the reference between its two stamps flags the operand (R282). -/
def State.avgPin (s : State) (i ts c p : Nat) : State :=
  if !s.cfgBit i (PIN_AVG_CFG_EN p) || !(s.cfgBit i (PIN_AVG_CFG_TSALL p) || decide (s.cfg i (PIN_AVG_CFG_TS p) = ts)) then s
  else
    let a := c + s.cfg i (PIN_AVG_START p)
    let b := c + s.cfg i (PIN_AVG_END p)
    let its := (s.pin p).acq.items
    let acc := s.cfg i (PIN_AVG_CFG_ACC p)
    let none_ := s.count (PIN_AVG_NONE p) 1
    let flagged (x : AcqItem) : Bool := match x.kind with | .stamp _ _ _ _ f _ => f | _ => false
    let give (r t : Nat) (f : Bool) : State :=
      s.pushOperand p acc ((s.tagOf i t : Int) - (s.tagOf i r : Int)) (f || s.tb.switches.any (fun x => decide (r ≤ x) && decide (x < t)))
    match its.find? (stampIn (s.cfg i (PIN_AVG_CFG_CODE p)) a b) with
    | none => none_
    | some stop =>
      if !s.cfgBit i (PIN_AVG_CFG_REF p) then give c stop.time (flagged stop)
      else
        match its.find? (stampIn (s.cfg i (PIN_AVG_CFG_RCODE p)) a b) with
        | none => none_
        | some r => if r.time < stop.time then give r.time stop.time (flagged stop || flagged r) else none_

/-! Commit. -/

/-- Whether a pin of the site stamps (R248). -/
def State.stamps (s : State) (i p : Nat) : Bool :=
  decide (s.cfg i (PIN_ACQ_CFG_MODE p) ≠ 0) || s.cfgBit i (PIN_AVG_CFG_EN p) ||
    (List.range 4).any (fun n => s.cfgBit i (PIN_MASK_CFG_EN p n)) ||
    (List.range 4).any (fun n => decide (1 ≤ s.cfg i (PIN_TRIG_CFG_TYPE p n)) && decide (s.cfg i (PIN_TRIG_CFG_TYPE p n) ≤ 5))

/-- Whether any pin of the site stamps. -/
def State.siteStamps (s : State) (i : Nat) : Bool := (s.sitePins i).any (fun p => s.stamps i p)

/-- The edge events of a pin that are not complete. -/
def AcqState.unfinished (a : AcqState) : List EdgeEvent := a.open_.toList ++ a.stamping

/-- Whether a test holds of an unfinished edge event of the site. -/
def State.anyUnfinished (s : State) (i : Nat) (test : EdgeEvent → Bool) : Bool :=
  (s.sitePins i).any (fun p => (s.pin p).acq.unfinished.any test)

/-- Whether the results of a vector depend on an unresolved decision (R179). -/
def Site.provisional (t : Site) (vec : Nat) : Bool :=
  t.spec.decisions.any (fun d => match d.lastVec with | some v => decide (v < vec) | none => false)

/-- Whether the results of a vector are complete and depend on no unresolved decision (R179). -/
def State.entryReady (s : State) (i : Nat) (e : WinEntry) : Bool :=
  let t := s.site i
  e.started.isSome && decide (e.pending = 0) && decide (e.readyAt ≤ s.now) &&
    !t.provisional e.vec.id &&
    !s.anyUnfinished i (fun x => x.vec.any (fun v => decide (v ≤ e.vec.id)) || decide (x.firstAt ≤ e.readyAt)) &&
    !(decide (s.cfg i (SITE_FLOG_CFG_MODE i) = 3) && !t.cap.queue.isEmpty)

/-- What the end of a match loop does when its last vector commits (R141, R147, R179, R184). -/
def State.commitLoop (s : State) (i : Nat) (l : Option LoopEnd) : State :=
  match l with
  | none => s
  | some x =>
    let s1 := s.updSpec i (fun v => { v with matchIter := x.iter, mloopOvr := x.ovr, noMatch := v.noMatch || x.noMatch })
    if !x.noMatch then s1
    else if x.cont then s1.setFlag i 15
    else s1.flag (SITE_CAP_STATUS_SUMMARY_FAIL i)

/-- The stop that a committed vector causes, if any (R226, R259): MASK_STOP wins. -/
def State.commitStop (s : State) (i : Nat) (e : WinEntry) (mask : Option Nat) : State :=
  let stop := s.failStop i e
  let s1 :=
    if stop then
      (s.flag (SITE_CAP_STATUS_FAIL_STOP i)).capOnce i 0x4004
        (s.get64 (SITE_CAP_FAILS_LO_FAILS i) (SITE_CAP_FAILS_HI_FAILS i))
    else s
  match mask with
  | some d => s1.stopAfter i e.vec.id e.vec.pos ⟨.maskStop, d⟩
  | none => if stop then s1.stopAfter i e.vec.id e.vec.pos (haltRec 0) else s1

/-- A transaction takes the cycle index of its first vector, or of the vector current at its end (R322). -/
def xeCycle (vec cycle : Nat) (r : XeRun) : XeRun :=
  if r.cycle.isNone && (decide (r.first = some vec) || (r.first.isNone && r.ended.isSome && decide (r.last = vec))) then
    { r with cycle := some cycle }
  else r

/-- The oldest vector of the window commits (R222). -/
def State.commitEntry (s : State) (i : Nat) (e : WinEntry) : State :=
  let cycle := (s.site i).burst.vectors
  let c := match e.started with | some x => x.1 | none => 0
  let per := match e.started with | some x => x.2 | none => 0
  let s0 := (s.updXe (fun z => { z with runs := s.xe.runs.map (fun (r : XeRun) => if r.site = i then xeCycle e.vec.id cycle r else r) }))
  let s1 := s0.updSite i (fun t =>
    { t with spec := { t.spec with window := t.spec.window.drop 1, counted := t.spec.counted.filter (fun x => decide (e.vec.id < x.1)) }, burst := { t.burst with vectors := t.burst.vectors + 1 } })
  let s2 := if e.ecc then s1.taint i taintEcc else s1
  let s3 := if e.vec.mloop then s2 else s2.commitFails i cycle e
  let m := s3.maskVec i e.vec.ts c per
  let s4 := (s.sitePins i).foldl (fun (u : State) p => u.avgPin i e.vec.ts c p) m.1
  let s5 := match e.vec.mark with
    | none => s4
    | some v => s4.acqMark i e.vec.id c v
  let s7 := s5.acqTake i (fun x => decide (x.vec ≤ e.vec.id))
  (((s7.commitLoop i e.loopEnd).commitStop i e m.2)).specStat i

/-- Every vector of the window that is ready commits, in order (R19). -/
def State.commitLoopN (s : State) (i : Nat) : Nat → State
  | 0 => s
  | fuel + 1 =>
    match (s.site i).spec.window with
    | [] => s
    | e :: _ => if s.entryReady i e then State.commitLoopN (s.commitEntry i e) i fuel else s

/-- The results of vectors that have committed already, such as crossings in hold vectors (R249): acted on once no unfinished
event of the site lies before them. -/
def State.acqFlush (s : State) (i : Nat) : State :=
  let first := match (s.site i).spec.window with
    | [] => none
    | e :: _ => some e.vec.id
  s.acqTake i (fun x =>
    (match first with
      | none => true
      | some v => decide (x.vec < v)) && !s.anyUnfinished i (fun y => decide (y.firstAt ≤ x.time)))

/-- What can commit at a site commits (R179). -/
def State.commitReady (s : State) (i : Nat) : State :=
  (s.commitLoopN i (s.site i).spec.window.length).acqFlush i

end Sys2Proof.Machine
end

