-- ==== Sys2Proof/Machine/StreamOps.lean ====
section
/-! DEFINITION. The stream engine (R199 to R202): what stands in the stream buffer and the loop cache, consumption, requests, the
path the engine reads along, and its restarts. -/
namespace Sys2Proof.Machine

/-- A change of the engine's path. -/
def State.updPath (s : State) (i : Nat) (f : EnginePath → EnginePath) : State :=
  s.updStr i (fun t => { t with path := f t.path })

/-- Whether a chunk covers bytes `off .. off + n - 1` of a segment. -/
def Chunk.has (c : Chunk) (seg off n : Nat) : Bool :=
  decide (c.seg = seg) && decide (c.off ≤ off) && decide (off + n ≤ c.off + c.len)

/-- Whether the loop cache holds bytes of a segment (R202): of a block captured, also before the LEND of its loop has been read. -/
def LoopCache.has (c : LoopCache) (seg off n : Nat) : Bool :=
  c.blocks.any (fun b =>
    decide (b.1.seg = seg) && decide (8 * b.1.off ≤ off) && decide (off + n ≤ 8 * b.1.off + b.2))

/-- Whether the sequencer can read bytes of a segment now: a resident segment unless a bank of it stalls (R413), a DRAM segment
from the stream buffer or the loop cache (R199, R202). -/
def State.segReadable (s : State) (i seg off n : Nat) : Bool :=
  let e := (s.seg i seg).entry
  let t := (s.site i).str
  if e.loc then t.chunks.any (fun c => c.alt.isNone && c.has seg off n) || t.cache.has seg off n
  else (List.range (ceilDiv n 4)).all (fun k => decide (s.bankServed (bankOf (residentByte e (off + 4 * k))) ≠ .stall))

/-- The bytes in the stream buffer. -/
def StreamState.level (t : StreamState) : Nat := t.chunks.foldl (fun n c => n + c.len) 0

/-- Whether a low condition of R203 exists: the buffer below LOW, or a lane below floor(LEAD / 4). -/
def State.lowCond (s : State) (i : Nat) : Bool :=
  decide ((s.site i).str.level < 1024 * (s.site i).str.low) || decide ((s.site i).laneVecs < s.lead i / 4)

/-- The low condition followed while a burst runs (R203): a low buffer makes STREAMING HOLD_PENDING, and STREAMING returns once no low condition
is left. -/
def State.flowMark (s : State) (i : Nat) : State :=
  let st := s.get (SITE_STR_STATUS_STATE i)
  if !(s.site i).burst.started || (s.site i).burst.end_.isSome then s
  else if st = 1 ∧ (s.site i).str.level < 1024 * (s.site i).str.low then s.set (SITE_STR_STATUS_STATE i) 2
  else if st = 2 ∧ !s.lowCond i then s.set (SITE_STR_STATUS_STATE i) 1
  else s

/-- The level registers follow the buffer (R216), and the low condition with them (R203). -/
def State.setLevel (s : State) (i : Nat) : State :=
  let k := (s.site i).str.level / 1024
  let s1 := s.set (SITE_STR_LEVEL i) k
  let s2 := if s.inBurst i then s1.set (SITE_STR_LEVEL_MIN i) (min (s.get (SITE_STR_LEVEL_MIN i)) k) else s1
  s2.flowMark i

/-- Bytes up to `off + n` of the first chunk that holds them consumed. -/
def consumeChunk (seg off n : Nat) : List Chunk → List Chunk
  | [] => []
  | c :: r =>
    if c.alt.isNone && c.has seg off n then
      (if c.off + c.len = off + n then r else { c with off := off + n, len := c.off + c.len - (off + n) } :: r)
    else c :: consumeChunk seg off n r

/-- Bytes of a DRAM segment consumed by the sequencer. -/
def State.consume (s : State) (i seg off n : Nat) : State :=
  if (s.seg i seg).entry.loc then
    (s.updStr i (fun t => { t with chunks := consumeChunk seg off n t.chunks })).setLevel i
  else s

/-- The path of the engine set to a position, where a stretch of it begins: a resident segment pauses it, an INACTIVE one makes it wait (R199). -/
def State.pathAt (s : State) (i : Nat) (p : Pos) (req : Nat) (calls : List Pos) (loops : List LoopRec) : State :=
  let g := s.seg i p.seg
  s.updPath i (fun x => ⟨p.seg, req, 8 * p.off, calls, loops, false, !g.entry.loc && decide (g.state ≠ .inactive),
    if g.state = .inactive then some p.seg else none, x.run + 1⟩)

/-- The engine turns from the end of a block, at byte `end_`, to another position: what it read past that end in this stretch is let go. -/
def State.engineTurn (s : State) (i seg end_ : Nat) (p : Pos) (calls : List Pos) (loops : List LoopRec) : State :=
  let cut (off len : Nat) : Nat := min (off + len) end_ - off
  let s1 := s.updStr i (fun t =>
    { t with
      chunks := (t.chunks.map (fun c =>
        if c.alt.isNone && decide (c.run = t.path.run) && decide (c.seg = seg) then { c with len := cut c.off c.len } else c)).filter
          (fun c => decide (c.len ≠ 0))
      inflight := (t.inflight.map (fun r =>
        if r.alt.isNone && decide (r.run = t.path.run) && decide (r.seg = seg) then { r with len := cut r.off r.len } else r)).filter
          (fun r => decide (r.len ≠ 0)) })
  (s1.pathAt i p (8 * p.off) calls loops).setLevel i

/-- The engine restarted where the sequencer stands (R199, R201). After a decision that went against its prediction, the bytes of its alternate
path, those on their way too, become the path, and the read goes on at the end of them; where there are none, so do the bytes of the path that
stand there already. Other bytes of the path are dropped; alternate bytes of decisions that are pending stay. -/
def State.engineRestart (s : State) (i : Nat) (dec : Option Nat) : State :=
  let q := (s.site i).seq
  let t := (s.site i).str
  let p := q.pos
  let run := t.path.run + 1
  let mine (a : Option Nat) : Bool := a.isSome && decide (a = dec)
  let stays (a : Option Nat) : Bool := a.isSome && dec.isNone
  let altC := t.chunks.filter (fun c => mine c.alt)
  let altR := t.inflight.filter (fun r => mine r.alt)
  let here := if altC = [] ∧ altR = [] then (t.chunks.find? (fun c => c.alt.isNone && c.has p.seg (8 * p.off) 1)).toList else altC
  let end_ := (here.map (fun c => c.off + c.len) ++ altR.map (fun r => r.off + r.len)).foldl max (8 * p.off)
  let s1 := s.updStr i (fun t =>
    { t with chunks := here.map (fun c => { c with alt := none, run := run }) ++ t.chunks.filter (fun c => stays c.alt),
             inflight := altR.map (fun r => { r with alt := none, run := run }) ++ t.inflight.filter (fun r => stays r.alt) })
  (s1.pathAt i p end_ (q.calls.map (fun c => c.ret)) q.loops).setLevel i

/-- The alternate bytes of a decision released (R201). -/
def State.releaseAlt (s : State) (i dec : Nat) : State :=
  (s.updStr i (fun t =>
    { t with chunks := t.chunks.filter (fun c => decide (c.alt ≠ some dec)),
             inflight := t.inflight.filter (fun r => decide (r.alt ≠ some dec)) })).setLevel i

/-- Whether the engine is on its way to a byte of a segment, or holds it. -/
def State.engineComing (s : State) (i seg off : Nat) : Bool :=
  let t := (s.site i).str
  t.inflight.any (fun r => decide (r.seg = seg) && decide (r.off ≤ off) && decide (off < r.off + r.len) && r.alt.isNone) ||
    (decide (t.path.seg = seg) && decide (t.path.req ≤ off) && !t.path.stopped && !t.path.resident && t.path.waits.isNone)

/-- The sequencer finds a DRAM block not in the buffer: the engine goes there unless it already comes. -/
def State.engineSync (s : State) (i : Nat) (p : Pos) : State :=
  if (s.seg i p.seg).entry.loc && !s.segReadable i p.seg (8 * p.off) 8 && !s.engineComing i p.seg (8 * p.off) then
    s.engineRestart i none
  else s

/-! The loop cache (R202). -/

/-- The loop cache released. -/
def State.cacheRelease (s : State) (i : Nat) : State := s.updStr i (fun t => { t with cache := LoopCache.reset })

/-- A block that the engine has read is captured: from an LBEG on, while the cache holds no open loop; abandoned when the cache
fills. A block that the cache holds is not read again, so none is captured twice. Port A writes its words one after another (R404). -/
def State.cacheCapture (s : State) (i : Nat) (p : Pos) (h : Header) (n : Nat) : State :=
  let t := (s.site i).str
  let cap := 1024 * s.cfg i (SITE_LC_SIZE i)
  let start := decide (h.opc = 0x02) && t.cache.head.isNone && decide (cap ≠ 0)
  let c := if start then { LoopCache.reset with head := some p, depth := t.path.loops.length } else t.cache
  match c.head with
  | none => s
  | some l =>
    if c.cached then s
    else if cap < c.used + n then
      let s1 := (s.flag (SITE_STR_STATUS_RESTREAM i)).raiseIf (!t.restreamEvt) 0x3005 i l.off
      s1.updStr i (fun t => { t with cache := LoopCache.reset, restreamEvt := true })
    else
      let done := decide (h.opc = 0x03) && decide (t.path.loops.length = c.depth + 1)
      let s1 := s.portAFill (s.cfg i (SITE_LC_BASE i)) cap c.used (s.segBytes i p.seg (8 * p.off) n)
      (s1.portATouch i (bufBanks (s.cfg i (SITE_LC_BASE i)) cap)).updStr i (fun t =>
        { t with cache := { c with blocks := c.blocks ++ [(p, n)], used := c.used + n, cached := done } })

/-! The path. -/

/-- Whether a JC that the engine has read is taken on the path the sequencer will issue (R172): as predicted, and a COUNTER_ZERO condition, which is
known at issue (R139), by the engine's own count of the loop. -/
def EnginePath.takes (t : EnginePath) (h : Header) : Bool :=
  if h.cond = 6 then
    (match t.loops[h.csel % 8]? with
      | some l => decide (l.left = 0)
      | none => false) != h.inv
  else h.hint

/-- The engine's path after a block it has read, or holds in the loop cache (R199): past the LEND of a loop whose LBEG stands in the cache, for its later
iterations play from there (R202). -/
def State.engineStep (s : State) (i : Nat) (p : Pos) (h : Header) (n : Nat) : State :=
  let t := (s.site i).str
  let next : Pos := ⟨p.seg, p.off + n / 8⟩
  let turn (u : State) (q : Pos) : State :=
    u.engineTurn i p.seg (8 * next.off) q (u.site i).str.path.calls (u.site i).str.path.loops
  let on (u : State) : State := u.updPath i (fun x => { x with decode := 8 * next.off, req := max x.req (8 * next.off) })
  match h.opc with
  | 0x02 =>
    match t.path.loops with
    | l :: _ => if l.pos = p then on s else on (s.updPath i (fun x => { x with loops := ⟨p, max 1 h.opnd - 1⟩ :: x.loops }))
    | [] => on (s.updPath i (fun x => { x with loops := ⟨p, max 1 h.opnd - 1⟩ :: x.loops }))
  | 0x03 =>
    match t.path.loops with
    | [] => s.updPath i (fun x => { x with stopped := true })
    | l :: r =>
      if l.left = 0 ∨ t.cache.has l.pos.seg (8 * l.pos.off) 8 then on (s.updPath i (fun x => { x with loops := r }))
      else turn (s.updPath i (fun x => { x with loops := { l with left := l.left - 1 } :: r })) l.pos
  | 0x05 => turn s ⟨p.seg, h.opnd⟩
  | 0x06 => if t.path.takes h then turn s ⟨p.seg, h.opnd⟩ else on s
  | 0x07 => turn (s.updPath i (fun x => { x with calls := next :: x.calls })) ⟨h.opnd % 2 ^ 16, 0⟩
  | 0x08 =>
    match t.path.calls with
    | [] => s.updPath i (fun x => { x with stopped := true })
    | c :: r => turn (s.updPath i (fun x => { x with calls := r })) c
  | 0x0A => turn s ⟨h.opnd % 2 ^ 16, 0⟩
  | 0x12 => s.updPath i (fun x => { x with stopped := true })
  | 0x13 => s.updPath i (fun x => { x with stopped := true })
  | _ => if h.opc < 0x14 then on s else s.updPath i (fun x => { x with stopped := true })

/-- The block headers that have entered the buffer decoded along the path (R199), once the rest of the block is on its way; blocks in the loop cache are not read. -/
def State.engineDecode (s : State) (i : Nat) : Nat → State
  | 0 => s
  | fuel + 1 =>
    let t := (s.site i).str
    let d := t.path.decode
    let g := (s.seg i t.path.seg).entry
    let cached := t.cache.has t.path.seg d 8
    let here := t.chunks.any (fun c => c.alt.isNone && decide (c.run = t.path.run) && c.has t.path.seg d 8)
    if t.path.stopped || t.path.resident || t.path.waits.isSome || !g.loc || decide (8 * g.length ≤ d) || !(here || cached) then s
    else
      let p : Pos := ⟨t.path.seg, d / 8⟩
      let h := s.headerAt i p
      let n := blockBytes h g.gmask
      if !cached && decide (t.path.req < min (d + n) (8 * g.length)) then s
      else
        let s1 := if cached then s else s.cacheCapture i p h n
        State.engineDecode (s1.engineStep i p h n) i fuel

end Sys2Proof.Machine
end

