-- ==== Sys2Proof/Machine/Sequencer.lean ====
section
/-! DEFINITION. The vector sequencer: block decode and header faults (R134 to R136, R139), the opcodes (R135, R137, R140 to R145),
segment activation and leaving (R129, R143), and vector issue (R168, R178, R203). -/
namespace Sys2Proof.Machine

/-- A change of the sequencer of a site. -/
def State.updSeq (s : State) (i : Nat) (f : SeqState → SeqState) : State :=
  s.updSite i (fun t => { t with seq := f t.seq })

/-- An item put at the end of the lane. -/
def State.pushLane (s : State) (i : Nat) (x : LaneItem) : State := s.updSite i (fun t => { t with lane := t.lane ++ [x] })

/-- The stack depths on the issue path (R157). -/
def State.seqStat (s : State) (i : Nat) : State :=
  (s.set (SITE_SEQ_STATUS_CALL_DEPTH i) (s.site i).seq.calls.length).set (SITE_SEQ_STATUS_LOOP_DEPTH i)
    (s.site i).seq.loops.length

/-- Whether the sequencer of a site issues: from the arm until an end reason, not during an XACT hand-over (R145, R150), and not while
its arm is held by STANDBY (R547). -/
def State.issuing (s : State) (i : Nat) : Bool :=
  let t := s.site i
  decide (stArming ≤ s.siteSt i) && decide (s.siteSt i ≤ stHolding) && t.burst.end_.isNone && t.burst.endPending.isNone &&
    t.burst.listBurst.isNone && !t.burst.held

/-! Leaving segments (R129). -/

/-- Whether a segment that was left changes state: the site is outside it, it is not on the call stack, and it holds the LBEG of
no open loop. -/
def SeqState.outside (q : SeqState) (id : Nat) : Bool :=
  decide (q.pos.seg ≠ id) && !q.calls.any (fun c => decide (c.ret.seg = id)) && !q.loops.any (fun l => decide (l.pos.seg = id))

/-- The last vector issued, by id. -/
def State.lastIssued (s : State) (i : Nat) : Nat := 2 ^ 25 * (s.site i).spec.nextVec - 1

/-- Segments left on paths that no unresolved decision precedes change state. -/
def State.applyLeaves (s : State) (i : Nat) : State :=
  let t := s.site i
  let free (l : Nat × Nat) : Bool :=
    !t.spec.decisions.any (fun d => match d.lastVec with | some v => decide (v ≤ l.2) | none => false)
  let s1 := s.updSpec i (fun x => { x with leaves := x.leaves.filter (fun l => !free l) })
  (t.spec.leaves.filter free).foldl
    (fun u l => if (u.site i).seq.outside l.1 then u.deactivate i l.1 else u) s1

/-- A segment left by the sequencer. -/
def State.leave (s : State) (i id : Nat) : State :=
  (s.updSpec i (fun x => { x with leaves := x.leaves ++ [(id, s.lastIssued i)] })).applyLeaves i

/-! Continuing. -/

/-- The sequencer moved to a block position; `reentry` holds where an LEND returns to its LBEG (R140). -/
def State.seqGo (s : State) (i : Nat) (p : Pos) (reentry : Bool) : State :=
  (s.updSeq i (fun q => { q with pos := p, blk := none, reentry := reentry })).seqStat i

/-- The position that follows a block, or SEG_END past the last block (R136). -/
def State.following (s : State) (i : Nat) (b : Block) : Except EndRec Pos :=
  let n := s.nextPos i b.pos b.hdr
  if (s.seg i b.pos.seg).entry.length ≤ n.off then .error (abortRec 0x08) else .ok n

/-- A jump target, or BAD_TARGET at or beyond LENGTH (R136). -/
def State.target (s : State) (i : Nat) (b : Block) : Except EndRec Pos :=
  if (s.seg i b.pos.seg).entry.length ≤ b.hdr.opnd then .error (abortRec 0x07) else .ok ⟨b.pos.seg, b.hdr.opnd⟩

/-- The sequencer state on a path that goes to a position. -/
def SeqState.at (q : SeqState) (p : Pos) : SeqState := { q with pos := p, blk := none, reentry := false }

/-- A path: a state to continue in, or an end. -/
def altOf (q : SeqState) (r : Except EndRec Pos) : AltPath :=
  match r with
  | .ok p => .go (q.at p)
  | .error e => .stop { q with blk := none } e

/-- A path taken. -/
def State.takePath (s : State) (i : Nat) (a : AltPath) : State :=
  match a with
  | .go q => (s.updSeq i (fun _ => q)).seqStat i
  | .stop q e => ((s.updSeq i (fun _ => q)).seqStat i).endPath i e

/-- The sequencer continues at the following block. -/
def State.seqCont (s : State) (i : Nat) (b : Block) : State := s.takePath i (altOf (s.site i).seq (s.following i b))

/-- A jump to a target that is not the start of a block leaves the waveform undefined (R136). -/
def State.checkTarget (s : State) (i : Nat) (p : Pos) : State :=
  if s.blockStart i p.seg p.off (p.off + 1) 0 then s else s.updBurst i (fun b => { b with undef := true })

/-- A block ends its own part of the issue: the next one is not yet decoded. -/
def State.seqDone (s : State) (i : Nat) (e : EndRec) : State := (s.updSeq i (fun q => { q with blk := none })).endPath i e

/-- Whether a segment may be played by the site: its groups are owned (R143), and a DRAM segment has a stream buffer (R200). -/
def State.segPlayable (s : State) (i id : Nat) : Bool :=
  s.maskOwned i (s.seg i id).entry.gmask && (!(s.seg i id).entry.loc || decide (s.cfg i (SITE_STR_BUF_SIZE i) ≠ 0))

/-- The sequencer enters a named segment that is QUEUED or ACTIVE (R129, R143). -/
def State.enterSeg (s : State) (i id : Nat) (isCall : Bool) : State :=
  let old := (s.site i).seq.pos.seg
  if !s.segPlayable i id then s.seqDone i (abortRec 0x04)
  else
    let s1 := (s.activate i id).seqGo i ⟨id, 0⟩ false
    let s2 := if (s1.seg i id).entry.loc && (s1.site i).str.path.resident then s1.engineRestart i none else s1
    if isCall ∨ old = id then s2 else s2.leave i old

/-- NEXT, and CALL once the return position is pushed (R142, R143): an INACTIVE segment is awaited. -/
def State.nameSeg (s : State) (i : Nat) (b : Block) (isCall : Bool) : State :=
  let id := b.hdr.opnd % 2 ^ 16
  if !s.segInRange i id then s.seqDone i (abortRec 0x04)
  else if (s.seg i id).state = .inactive then
    s.updSeq i (fun q => { q with blk := none, waitSeg := some (id, b.hdr.pause, isCall) })
  else s.enterSeg i id isCall

/-! Decisions. -/

/-- A decision changed by its id. -/
def State.updDec (s : State) (i id : Nat) (f : Decision → Decision) : State :=
  s.updSpec i (fun x => { x with decisions := x.decisions.map (fun d => if d.id = id then f d else d) })

/-- Whether the open loop at a depth is in its last iteration (R139, COUNTER_ZERO). -/
def State.counterZero (s : State) (i : Nat) (h : Header) : Bool :=
  (match ((s.site i).seq.loops)[h.csel % 8]? with
    | some l => decide (l.left = 0)
    | none => false) != h.inv

/-- The decision of a block or iteration closed by its last vector: predicted, with the other path kept (R172, R175). -/
def State.decide_ (s : State) (i : Nat) (b : Block) (taken : Bool) (alt : AltPath) : State :=
  match b.dec with
  | none => s
  | some d => s.updDec i d (fun x => { x with lastVec := some (2 ^ 25 * ((s.site i).spec.nextVec - 1)), predTaken := taken, alt := some alt })

/-- The iteration limit of an MLOOP (R135). -/
def Header.limit (h : Header) : Nat := if h.opnd % 2 ^ 29 = 0 then 2 ^ 29 else h.opnd % 2 ^ 29

/-- The last window entry given the end of a COUNTER_ZERO match loop (R141). -/
def State.loopEnd (s : State) (i : Nat) (l : LoopEnd) : State :=
  s.updSpec i (fun x =>
    { x with window := match x.window.reverse with
        | [] => []
        | e :: r => (({ e with loopEnd := some l } :: r) : List WinEntry).reverse })

/-- The next iteration of an MLOOP, or the next play of an RPT. -/
def State.replay (s : State) (i : Nat) (b : Block) : State :=
  s.updSeq i (fun q => { q with blk := some { b with vix := 0, plays := b.plays + 1, firstVec := none, dec := none } })

/-! Opcodes (R135): each acts once the block's vectors have been issued. -/

/-- VEC, and opcodes whose action is at issue or in the lane: continue at the following block. -/
def State.opCont (s : State) (i : Nat) (b : Block) : State := s.seqCont i b

/-- RPT (R137). -/
def State.opRpt (s : State) (i : Nat) (b : Block) : State :=
  if b.plays + 1 < b.hdr.opnd then s.replay i b else s.seqCont i b

/-- LBEG (R140). -/
def State.opLbeg (s : State) (i : Nat) (b : Block) : State :=
  if b.reentry then s.seqCont i b
  else if 8 ≤ (s.site i).seq.loops.length then s.seqDone i (abortRec 0x0A)
  else (s.updSeq i (fun q => { q with loops := ⟨b.pos, max 1 b.hdr.opnd - 1⟩ :: q.loops })).seqCont i b

/-- The innermost open loop is closed: the return positions stand above one loop less (R140, R142). -/
def SeqState.closeLoop (q : SeqState) (rest : List LoopRec) : SeqState :=
  { q with loops := rest, calls := q.calls.map (fun c => { c with loops := min c.loops rest.length }) }

/-- LEND (R140). -/
def State.opLend (s : State) (i : Nat) (b : Block) : State :=
  match (s.site i).seq.loops with
  | [] => s.seqDone i (abortRec 0x0B)
  | l :: r =>
    if l.left = 0 then
      let s1 := s.updSeq i (fun q => q.closeLoop r)
      let s2 := if (s.site i).str.cache.head = some l.pos then s1.cacheRelease i else s1
      let s3 := s2.seqCont i b
      if l.pos.seg = b.pos.seg then s3 else s3.leave i l.pos.seg
    else (s.updSeq i (fun q => { q with loops := { l with left := l.left - 1 } :: r })).seqGo i l.pos true

/-- MLOOP, after the vectors of an iteration (R141, R172). -/
def State.opMloop (s : State) (i : Nat) (b : Block) : State :=
  let iter := b.plays + 1
  let last := decide (iter = b.hdr.limit)
  let cont := bitOf b.hdr.opnd 29
  let noMatch (u : State) : State :=
    if !last then u.replay i b
    else if cont then u.seqCont i b
    else u.seqDone i (haltRec 0x12)
  if b.hdr.cond = 6 then
    if s.counterZero i b.hdr then (s.loopEnd i ⟨iter, false, cont, 0⟩).seqCont i b
    else if last then noMatch (s.loopEnd i ⟨iter, true, cont, 0⟩)
    else noMatch s
  else noMatch (s.decide_ i b false (altOf (s.site i).seq (s.following i b)))

/-- JMP (R137). -/
def State.opJmp (s : State) (i : Nat) (b : Block) : State :=
  match s.target i b with
  | .ok p => (s.checkTarget i p).seqGo i p false
  | .error e => s.seqDone i e

/-- JC (R137, R172): COUNTER_ZERO is known at issue, any other condition is predicted. -/
def State.opJc (s : State) (i : Nat) (b : Block) : State :=
  let yes := altOf (s.site i).seq (s.target i b)
  let no := altOf (s.site i).seq (s.following i b)
  let check (u : State) (taken : Bool) : State :=
    if taken ∧ b.hdr.opnd < (s.seg i b.pos.seg).entry.length then u.checkTarget i ⟨b.pos.seg, b.hdr.opnd⟩ else u
  if b.hdr.cond = 6 then
    let t := s.counterZero i b.hdr
    (check s t).takePath i (if t then yes else no)
  else
    (check (s.decide_ i b b.hdr.hint (if b.hdr.hint then no else yes)) b.hdr.hint).takePath i (if b.hdr.hint then yes else no)

/-- CALL (R142). -/
def State.opCall (s : State) (i : Nat) (b : Block) : State :=
  if 8 ≤ (s.site i).seq.calls.length then s.seqDone i (abortRec 0x09)
  else
    ((s.updSeq i (fun q => { q with calls := ⟨s.nextPos i b.pos b.hdr, q.loops.length⟩ :: q.calls })).seqStat i).nameSeg i b true

/-- RET (R142). -/
def State.opRet (s : State) (i : Nat) (b : Block) : State :=
  match (s.site i).seq.calls with
  | [] => s.seqDone i (abortRec 0x0C)
  | c :: r =>
    if c.loops < (s.site i).seq.loops.length then s.seqDone i (abortRec 0x0B)
    else
      let s1 := s.updSeq i (fun q => { q with calls := r })
      if (s.seg i c.ret.seg).entry.length ≤ c.ret.off then s1.seqDone i (abortRec 0x08)
      else
        let s2 := s1.seqGo i c.ret false
        if c.ret.seg = b.pos.seg then s2 else s2.leave i b.pos.seg

/-- HOLD (R144): with OPND = 0 until RESUME. -/
def State.opHold (s : State) (i : Nat) (b : Block) : State :=
  (s.pushLane i (.hold (if b.hdr.opnd = 0 then none else some b.hdr.opnd) false)).seqCont i b

/-- NEXT (R143). -/
def State.opNext (s : State) (i : Nat) (b : Block) : State := s.nameSeg i b false

/-- LVL: a level set applied in the lane order (R109, R145). -/
def State.opLvl (s : State) (i : Nat) (b : Block) : State := (s.pushLane i (.lvl (b.hdr.opnd % 8))).seqCont i b

/-- RETIME: the table is read at issue (R146). -/
def State.opRetime (s : State) (i : Nat) (b : Block) : State :=
  (s.pushLane i (.retime (b.hdr.opnd % 64) (s.tsp i (b.hdr.opnd % 64)))).seqCont i b

/-- SYNC (R44). -/
def State.opSync (s : State) (i : Nat) (b : Block) : State := (s.pushLane i (.sync none none)).seqCont i b

/-- WAITF (R53). -/
def State.opWaitf (s : State) (i : Nat) (b : Block) : State := (s.pushLane i (.waitf (b.hdr.opnd % 4) none none)).seqCont i b

/-! Vectors. -/

/-- The words of vector `v` of a block: each group of the mask its group word, every other owned group its last symbols, or the initial ones (R133).
An uncorrectable word repeats the group's previous symbols (R17). -/
def State.vecWords (s : State) (i : Nat) (b : Block) (v : Nat) : List GroupWord :=
  let gs := maskGroups (s.seg i b.pos.seg).entry.gmask
  let base := 8 * b.pos.off + 8 + 4 * gs.length * v
  let e := (s.seg i b.pos.seg).entry
  (s.groups i).map (fun g =>
    let last := Sparse.get (fun _ => none) (s.site i).seq.last g
    match gs.idxOf? g with
    | none => ⟨g, last, none⟩
    | some k =>
      let x := base + 4 * k
      if s.segWordBad i b.pos.seg x then
        let y := residentByte e x
        ⟨g, last, some (if e.loc || decide (s.bankServed (bankOf y) = .off) then none else some (y / 4 * 4))⟩
      else ⟨g, some (word (s.segWord i b.pos.seg x)), none⟩)

/-- The last symbols after a vector. -/
def lastAfter (m : Sparse (Option Word)) (ws : List GroupWord) : Sparse (Option Word) :=
  ws.foldl (fun m w => Sparse.set (fun _ => none) m w.group w.syms) m

/-- The latest strobe position of a vector on a pin, from the start of its cycle: T + K of R69. -/
def State.strobeEnd (s : State) (p ts per sym : Nat) : Option Int :=
  let w := s.entryOf p ts sym
  let at_ (n : Nat) : Option Int :=
    let t := s.get (PIN_TS_E_TIME p ts (6 + n))
    if t < 2 * per then some ((t : Int) + s.deskew p) else none
  let a (n code : Nat) : Option Int := if (expectCode code).isSome then at_ n else none
  let m (x y : Option Int) : Option Int :=
    match x, y with
    | some u, some v => some (max u v)
    | some u, none => some u
    | none, v => v
  if (s.pin p).clock.isSome then none
  else if bitOf w 20 then m (a 0 (bitsOf w 14 3)) (a 1 (bitsOf w 14 3))
  else m (a 0 (bitsOf w 14 3)) (a 1 (bitsOf w 17 3))

/-- Symbol k of a group word. -/
def symOf (w : Word) (k : Nat) : Nat := bitsOf w.toNat (4 * k) 4

/-- S of R169 for a block about to be issued, from the tables now, in 0.25 ps. -/
def State.estS (s : State) (i : Nat) (b : Block) (per : Nat) : Int :=
  let vecs := (List.range b.hdr.len).map (fun v =>
    (v, (s.vecWords i b v).foldl
      (fun (m : Option Int) w =>
        (List.range 8).foldl
          (fun m k =>
            match s.strobeEnd (8 * w.group + k) b.hdr.ts per (symOf (s.wordSyms i w) k) with
            | none => m
            | some t => some (match m with | none => t | some u => max u t)) m) none))
  let latest := vecs.foldl
    (fun (m : Option Int) v =>
      match v.2 with
      | none => m
      | some t =>
        let u := t - (((b.hdr.len - 1 - v.1) * per : Nat) : Int)
        some (match m with | none => u | some w => max u w)) none
  let lastHas := match vecs.getLast? with
    | some (_, some _) => true
    | _ => false
  match latest with
  | none => per
  | some t => if lastHas then t else max t per

/-- The decision latency estimate of R170, with T_ret at the slow corner. R170 gives no t for an FSYNC condition: the model takes what R169 adds to C
for it (log 100, DESIGN CHOICE). -/
def State.estimate (s : State) (i : Nat) (b : Block) : Nat :=
  let per := if s.coherent i then (s.site i).burst.period else b.period
  let t : Int := match b.hdr.cond with
    | 5 => per + (s.get (TB_FSYNC_CFG_FILTER (b.hdr.csel % 4)) + 1) * tickLsb + 12 * ns
    | _ => s.estS i b per + 37500 + 12 * ns
  min 4095 (s.lead i + (t / (per : Int)).toNat)

/-- The decision of a block or iteration opened by its first vector (R167, R175), with its estimate (R170). -/
def State.openDecision (s : State) (i : Nat) (b : Block) (vid : Nat) : State :=
  if b.hdr.decides ∧ b.vix = 0 then
    let id := (s.site i).spec.nextDec
    let d : Decision :=
      { id := id, cond := b.hdr.cond, inv := b.hdr.inv, csel := b.hdr.csel, firstVec := vid, lastVec := none,
        mloop := decide (b.hdr.opc = 0x04), cont := bitOf b.hdr.opnd 29, limit := decide (b.plays + 1 = b.hdr.limit),
        iter := b.plays + 1, fenced := s.fencedBlk i b.hdr, pause := b.hdr.pause, predTaken := false, alt := none, placed := 0,
        returned := 0, fails := 0, pinHigh := false, pinAt := none, latest := 0, strobed := false, cStart := none, played := none, event := none, fsync := false }
    let s1 := s.updSpec i (fun x => { x with decisions := x.decisions ++ [d], nextDec := id + 1 })
    (s1.set (SITE_SPEC_EST i) (s.estimate i b)).updSeq i (fun q => { q with blk := some { b with dec := some id } })
  else s

/-- Whether the stream engine has nothing further to read (R199, R204): its path has stopped, leads to a resident segment, waits for a publication or
has come to the end of its segment, and no bytes of it are on their way. -/
def State.nothingToRead (s : State) (i : Nat) : Bool :=
  let t := (s.site i).str
  (t.path.stopped || t.path.resident || t.path.waits.isSome || decide (8 * (s.seg i t.path.seg).entry.length ≤ t.path.req)) &&
    t.inflight.all (fun r => r.alt.isSome)

/-- Whether the condition to resume issue of R204 holds: the buffer at HIGH, or nothing further to read. -/
def State.canResume (s : State) (i : Nat) : Bool :=
  decide (1024 * (s.site i).str.high ≤ (s.site i).str.level) || s.nothingToRead i

/-- Issue stops at a pause-safe point (R203): the pins come there to the resume point, where the lane must be filled again (R204). -/
def State.flowStop (s : State) (i : Nat) : State :=
  (s.pushLane i .holdResume).set (SITE_STR_STATUS_STATE i) (if s.canResume i then 1 else 3)

/-- A site in HOLDING resumes issue (R204). -/
def State.flowTry (s : State) (i : Nat) : State :=
  if s.get (SITE_STR_STATUS_STATE i) = 3 ∧ (s.site i).seq.waitSeg = none ∧ s.canResume i then
    s.set (SITE_STR_STATUS_STATE i) 1
  else s

/-- Flow control after a vector is issued (R203): a hold that is pending ends at the pause-safe point. -/
def State.flowIssue (s : State) (i : Nat) (pausePoint : Bool) : State :=
  let s1 := s.flowMark i
  if (s.site i).burst.started ∧ s1.get (SITE_STR_STATUS_STATE i) = 2 ∧ pausePoint then s1.flowStop i else s1

/-- The number of vectors a block issues by itself: all but the pad vector of FRAME (R145). -/
def Block.own (b : Block) : Nat := if b.hdr.opc = 0x0D then b.hdr.len - 1 else b.hdr.len

/-- The vector at the place of a block, with its id. -/
def State.makeVec (s : State) (i : Nat) (b : Block) (dec : Option Nat) : Vec :=
  { id := 2 ^ 25 * (s.site i).spec.nextVec, pos := b.pos, vidx := b.vix, ts := b.hdr.ts, period := b.period,
    words := s.vecWords i b b.vix, mark := if b.hdr.opc = 0x0E ∧ b.vix = 0 then some (b.hdr.opnd % 2 ^ 16) else none,
    mloop := decide (b.hdr.opc = 0x04), dec := dec, caps := [] }

/-- An entry of the Transit window for a vector just issued (R178). -/
def WinEntry.of (v : Vec) : WinEntry := ⟨v, none, 0, [], false, false, false, 0, none⟩

/-- The next vector of the block being issued goes to the lanes (R168). -/
def State.issueVec (s : State) (i : Nat) (b0 : Block) (e : Ecc) : State :=
  let n := maskCount (s.seg i b0.pos.seg).entry.gmask
  let x := 8 * b0.pos.off + 8 + 4 * n * b0.vix
  let s0 := s.segUpset i b0.pos.seg x e
  let s1 := s0.openDecision i b0 (2 ^ 25 * (s.site i).spec.nextVec)
  let b := match (s1.site i).seq.blk with | some b => b | none => b0
  let v := s1.makeVec i b b.dec
  let s2 := if v.words.any (fun w => decide (w.bad = some none)) && !(s1.seg i b.pos.seg).entry.loc
    then s1.flag MEM_STATUS_OFF_ACCESS else s1
  let s3 := s2.updSite i (fun t =>
    { t with
      lane := t.lane ++ [.vec v]
      seq := { t.seq with blk := some { b with vix := b.vix + 1, firstVec := some (b.firstVec.getD v.id) },
                          last := lastAfter t.seq.last v.words, lastPos := some b.pos }
      spec :=
        { t.spec with
          window := t.spec.window ++ [WinEntry.of v]
          nextVec := t.spec.nextVec + 1
          restart := .free
          restartPause := none } })
  let s4 := if b.plays = 0 then s3.consume i b.pos.seg x (4 * n) else s3
  let s5 := if b.plays = 0 ∧ b.vix + 1 = b.own ∧ b.hdr.len * n % 2 = 1 then s4.consume i b.pos.seg (x + 4 * n) 4 else s4
  (((s5.laneFeed i).flowIssue i (b.hdr.pause && decide (b.vix + 1 = b.hdr.len))).specStat i)

/-- The Transit window or the slots are full (R178, R187): event 0x2011, once per burst. -/
def State.stallNote (s : State) (i : Nat) : State :=
  ((s.raiseIf (!(s.site i).spec.stallEvt) 0x2011 i (s.site i).occupancy)).updSpec i (fun x =>
    { x with stallEvt := true, restart := .stall })

/-- The sequencer offers its next vector (R168): it passes unless the lead is reached, issue has stopped, or its words have not
arrived. -/
def State.seqIssue (s0 : State) (i : Nat) (e : Ecc) : State :=
  let s := s0.flowTry i
  if !s.issuing i then s
  else
    match (s.site i).seq.blk with
    | none => s
    | some b =>
      let n := maskCount (s.seg i b.pos.seg).entry.gmask
      if b.own ≤ b.vix ∨ s.lead i ≤ (s.site i).laneVecs then s
      else
        match s.stopWhy i with
        | .stall => s.stallNote i
        | .fence => s
        | .flow => s
        | .pendingEnd => s
        | .publication => s
        | _ =>
          if b.plays = 0 ∧ !s.segReadable i b.pos.seg (8 * b.pos.off + 8 + 4 * n * b.vix) (4 * n) then
            s.engineSync i ⟨b.pos.seg, b.pos.off + (8 + 4 * n * b.vix) / 8⟩
          else s.issueVec i b e

/-! Decode. -/

/-- The fault of a block header itself (R136, R139), if any. -/
def State.headerFault (s : State) (i : Nat) (p : Pos) (h : Header) : Option EndRec :=
  let e := (s.seg i p.seg).entry
  if 0x14 ≤ h.opc then some (abortRec 0x05)
  else if 8 * e.length < 8 * p.off + blockBytes h e.gmask then some (abortRec 0x08)
  else if (h.opc = 0x04 ∨ h.opc = 0x06) ∧
      (7 ≤ h.cond ∨ (h.cond = 2 ∧ s.owner (h.csel / 8) ≠ some i) ∨
        (h.cond = 6 ∧ (s.site i).seq.loops.length ≤ h.csel % 8)) then some (abortRec 0x06)
  else none

/-- A segment named by a block becomes ACTIVE when the block is decoded (R129). -/
def State.decodeName (s : State) (i : Nat) (h : Header) : State :=
  let id := h.opnd % 2 ^ 16
  if (h.opc = 0x07 ∨ h.opc = 0x0A) ∧ s.segInRange i id ∧ (s.seg i id).state = .queued ∧ s.segPlayable i id then
    s.activate i id
  else s

/-- A block header read, checked and decoded (R17, R134, R136). -/
def State.decodeBlock (s0 : State) (i : Nat) (e : Ecc) : State :=
  let p := (s0.site i).seq.pos
  let s := (s0.segUpset i p.seg (8 * p.off) e)
  let s1 := ((s.set (SITE_POS_SEG i) p.seg).set (SITE_POS_OFF_OFFSET i) p.off)
  if s.segWordBad i p.seg (8 * p.off) || s.segWordBad i p.seg (8 * p.off + 4) then
    ((s1.segWordCheck i p.seg (8 * p.off)).segWordCheck i p.seg (8 * p.off + 4)).seqDone i (abortRec 0x0D)
  else
    let h := s.headerAt i p
    match s.headerFault i p h with
    | some f => s1.seqDone i f
    | none =>
      let b : Block := ⟨h, p, 0, 0, s.tsp i h.ts, (s.site i).seq.reentry, none, none⟩
      let g := (s.seg i p.seg).entry
      let s2 := s1.portATouch i (g.banksAt (8 * p.off) (blockBytes h g.gmask))
      ((s2.consume i p.seg (8 * p.off) 8).decodeName i h).updSeq i (fun q => { q with blk := some b, reentry := false })

end Sys2Proof.Machine
end

