-- ==== Sys2Proof/Machine/Xe.lean ====
section
/-! DEFINITION. The transaction engine: ports (R304 to R307), lists and entries (R308 to R310), templates and their steps (R312 to
R316, R327), vectors (R317, R318), and results (R322 to R325). -/
namespace Sys2Proof.Machine

/-! Ports. -/

/-- Whether role r of a port is used. -/
def State.roleUsed (s : State) (n r : Nat) : Bool := bitOf (s.get (XE_PORT_CFG_ROLE_EN n)) r

/-- The pin of a role. -/
def State.rolePin (s : State) (n r : Nat) : Nat := s.get (XE_PORT_ROLE_PIN n (r / 2) (r % 2))

/-- The pins of the used roles of a port. -/
def State.rolePins (s : State) (n : Nat) : List Nat :=
  ((List.range 8).filter (fun r => s.roleUsed n r)).map (fun r => s.rolePin n r)

/-- An event of the engine, at most once per burst. -/
def State.xeOnce (s : State) (i code data : Nat) : State :=
  if (s.xeSite i).evented.contains code then s
  else (s.raise code i data).updXeSite i (fun x => { x with evented := code :: x.evented })

/-- Whether a port is usable (R305). -/
def State.portUsable (s : State) (i n : Nat) : Bool :=
  let others := ((List.range 128).filter (fun m => decide (m ≠ n) && s.bit (XE_PORT_CFG_EN m))).flatMap (fun m => s.rolePins m)
  (s.rolePins n).all (fun p => decide (s.pinOwner p = some i) && !others.contains p)

/-- The port check at a hand-over (R305). -/
def State.portCheck (s : State) (i : Nat) : State :=
  (s.sitePorts i).foldl
    (fun u n =>
      let ok := u.portUsable i n
      let u1 := (u.updXePort n (fun p => { p with usable := ok })).set (XE_PORT_STAT_BAD n) (ofBool (!ok))
      if ok then u1 else (u1.flag XE_STATUS_PORT_BAD).xeOnce i 0x7003 n) s

/-! Lists (R308 to R311). -/

/-- An XACT hand-over, or the start of a list burst (R305, R308, R311): the site is in XACT, and its list is read. Until the engine's first vector the
pins hold where a lane empties (R319). -/
def State.handOver (s : State) (i list : Nat) : State :=
  let at_ := s.cfg i (XE_SITE_LIST_BASE i) / 8 * 8 + 8 * list
  let w1 := s.ocmAt (at_ + 4)
  let s0 := s.checkRegion (s.region at_) 8
  let s1 := s0.updXeSite i (fun x =>
    { x with addr := s.ocmAt at_, count := bitsOf w1 0 16, errMode := bitsOf w1 16 2, next := 0, stop := false, err := false })
  let s2 := (s1.set (XE_SITE_STAT_ACTIVE i) 1).set (XE_SITE_STAT_CUR_LIST i) list
  ((s2.setSiteSt i stXact).updSpec i (fun x => { x with restart := .handOver, restartPause := none })).portCheck i

/-- Whether a template id is one of the SPI templates (R327). -/
def isSpi (tpl : Nat) : Bool := decide (0x08 ≤ tpl) && decide (tpl ≤ 0x0D)

/-- Whether an entry ends with BAD_ENTRY (R309, R327). -/
def State.badEntry (s : State) (i : Nat) (t : XeTxn) : Bool :=
  !s.portOf t.port i || decide (4096 < t.bits) || (decide (t.bits ≠ 0) && !inOcm t.dout (ceilDiv t.bits 8)) ||
    (decide (t.exp ≠ 0) && !inOcm t.exp (8 * ceilDiv t.bits 32)) || (isSpi t.tpl && decide (t.bits % 8 ≠ 0))

/-- A transaction started, with its number. -/
def XeRun.start (num i : Nat) (t : XeTxn) (last : Nat) : XeRun :=
  { num := num, site := i, txn := t, pc := 0, at_ := 0, ctr := [none, none], loops := [], cursor := 0, ncap := 0, asked := 0, mark := 0,
    outstanding := 0, got := [], bits := [], past := false, waitNo := 0, waitSent := 0, waitGot := 0, unsent := 0, first := none,
    last := last, cycle := none, ended := none }

/-- The cycle index of the last vector issued, where it has committed already. -/
def State.cycleNow (s : State) (i : Nat) : Option Nat :=
  if (s.site i).spec.window = [] then some ((s.site i).burst.vectors - 1) else none

/-- A transaction that ends without a vector (R305, R309). Where it is its port's next one, HOLD_CS ends with it (R327). -/
def State.deadTxn (s : State) (i : Nat) (t : XeTxn) (status : Nat) : State :=
  let r := { XeRun.start s.xe.nextNum i t (s.lastIssued i) with ended := some status, cycle := s.cycleNow i }
  let s1 := s.updXe (fun z => { z with runs := s.xe.runs ++ [r], nextNum := s.xe.nextNum + 1 })
  if s.portOf t.port i ∧ (s.xePort t.port).cur = none ∧ (s.xePort t.port).queue = [] then s1.updXePort t.port (fun p => { p with holdCs := false })
  else s1

/-- The next entry of the list of a site dispatched (R310). -/
def State.dispatch (s : State) (i : Nat) : State :=
  let x := s.xeSite i
  if s.siteSt i ≠ stXact ∨ x.stop ∨ x.count ≤ x.next then s
  else
    let at_ := x.addr + 32 * x.next
    let t := s.entryAt at_
    let s1 := (s.checkRegion (s.region at_) 32).updXeSite i (fun x => { x with next := x.next + 1 })
    if s.badEntry i t then s1.deadTxn i t 3
    else if !(s.xePort t.port).usable then s1.deadTxn i t 5
    else if 16 ≤ (s.xePort t.port).queue.length then s
    else (s1.updXePort t.port (fun p => { p with queue := p.queue ++ [t] })).portStat t.port

/-! Templates. -/

/-- A ROM step: every one has PTS = 1 (R327). -/
def romStep (op arg : Nat) (syms : List Nat) : XeStep :=
  { op := op, pause := true, cap := false, crole := 0, drole := 0, ts := 0, sym0 := 0, sym1 := 0, msbf := false, wid := 0,
    lastSel := false, pts := true, syms := symsOf syms, arg := arg, keep := true }

/-- The END step. -/
def romEnd : XeStep := romStep 6 0 []

/-- A ROM SHIFT step that captures: role of the data, role captured. -/
def romShift (arg drole crole : Nat) (syms : List Nat) : XeStep :=
  { romStep 1 arg syms with cap := true, crole := crole, drole := drole, sym1 := 1 }

/-- TAP symbols: TCK a positive pulse, TMS, TDI low, TDO released, TRST_N. -/
def tapSyms (tms trst : Nat) : List Nat := [5, tms, 0, 4, trst]

/-- A TAP scan of `bits` bits (R327): `pre` pulses with TMS high and two with TMS low lead to the shift state, the last bit is shifted with TMS
high, and two pulses return through the update state. -/
def tapScan (pre bits : Nat) : List XeStep :=
  [romStep 0 pre (tapSyms 1 1), romStep 0 2 (tapSyms 0 1)] ++ (if bits ≤ 1 then [] else [romShift (2 ^ 13 + 1) 2 3 (tapSyms 0 1)]) ++
    [romShift 1 2 3 (tapSyms 1 1), romStep 0 1 (tapSyms 1 1), romStep 0 1 (tapSyms 0 1), romEnd]

/-- An SPI transfer (R327): CS_N low for a vector, one SHIFT of 8 bits per byte in a loop, a last vector with CS_N high unless
HOLD_CS. `wid` selects 1, 2 or 4 lines; a multi-line read releases its lines and captures them. With no byte the two vectors stand alone. -/
def spiSteps (cpol : Bool) (wid : Nat) (t : XeTxn) : List XeStep :=
  let idle := ofBool cpol
  let pulse := if cpol then 6 else 5
  let io := if wid = 0 then [0, 4] else if t.dir then [4, 4, 4, 4] else [0, 0, 4, 4]
  let shift : XeStep :=
    if wid = 0 then { romShift 8 2 3 ([pulse, 0] ++ io) with msbf := true }
    else if t.dir then { romShift 8 2 2 ([pulse, 0] ++ io) with msbf := true, wid := wid, sym0 := 4, sym1 := 4 }
    else { romShift 8 2 2 ([pulse, 0] ++ io) with msbf := true, wid := wid, cap := false }
  [romStep 0 1 ([idle, 0] ++ io)] ++ (if t.bits = 0 then [] else [shift, romStep 2 (1 + 2 ^ 11) []]) ++
    [romStep 0 1 ([idle, if t.holdCs then 0 else 1] ++ io), romEnd]

/-- The ninth clock of an I2C byte (R327): wait until SCL is seen released, sample SDA, and branch on a NACK. Every vector of these templates has 0x7 on SCL,
the ones played while a step waits too. -/
def i2cAck (nack : Nat) : List XeStep :=
  [{ romStep 4 0 [7, 4] with crole := 0 }, { romStep 0 1 [7, 4] with cap := true, crole := 1, keep := false },
    romStep 3 (nack + 2 ^ 16) [7, 4]]

/-- A literal byte sent on SDA, most significant bit first. -/
def i2cByte (b nack : Nat) : List XeStep :=
  { romStep 1 (8 + 2 * 2 ^ 14 + 2 ^ 16 * b) [7, 4] with drole := 1, sym1 := 4, msbf := true } :: i2cAck nack

/-- START or repeated START. -/
def i2cStart : List XeStep := [romStep 0 1 [7, 4], romStep 0 1 [7, 0]]

/-- STOP. -/
def i2cStop : List XeStep := [romStep 0 1 [7, 0], romStep 0 1 [7, 4]]

/-- The address of an I2C transfer: 7-bit, or 10-bit with ADDR[31] (R327). -/
def i2cAddr (a : Nat) (rd : Bool) (nack : Nat) : List XeStep :=
  if bitOf a 31 then
    i2cByte (0xF0 + 2 * bitsOf a 8 2) nack ++ i2cByte (bitsOf a 0 8) nack ++
      (if rd then i2cStart ++ i2cByte (0xF1 + 2 * bitsOf a 8 2) nack else [])
  else i2cByte (2 * bitsOf a 0 7 + ofBool rd) nack

/-- A repeated START with the address for reading, after a register byte. -/
def i2cAgain (a nack : Nat) : List XeStep :=
  i2cStart ++ i2cByte (if bitOf a 31 then 0xF1 + 2 * bitsOf a 8 2 else 2 * bitsOf a 0 7 + 1) nack

/-- One byte read on SDA, and its ninth clock with ACK or NACK. -/
def i2cReadByte (last : Bool) : List XeStep :=
  [{ romShift 8 1 1 [7, 4] with sym0 := 4, sym1 := 4, msbf := true }, { romStep 4 0 [7, if last then 4 else 0] with crole := 0 }]

/-- The bytes of an I2C read: all but the last are acknowledged. -/
def i2cReads (at_ bytes : Nat) : List XeStep :=
  (if 2 ≤ bytes then i2cReadByte false ++ [romStep 2 (at_ + 2 ^ 16 * (bytes - 1)) []] else []) ++
    (if 1 ≤ bytes then i2cReadByte true else [])

/-- The bytes of an I2C write, from DOUT. -/
def i2cWrites (at_ bytes nack : Nat) : List XeStep :=
  if bytes = 0 then []
  else
    { romStep 1 8 [7, 4] with drole := 1, sym1 := 4, msbf := true } :: (i2cAck nack ++ [romStep 2 (at_ + 2 ^ 16 * bytes) []])

/-- The main part of an I2C template, given where its NACK exits lie. -/
def i2cMain (t : XeTxn) (a d : Nat) : List XeStep :=
  let bytes := t.bits / 8
  match t.tpl with
  | 0x10 =>
    let h := i2cStart ++ i2cAddr t.addr false a
    h ++ i2cWrites h.length bytes d ++ i2cStop ++ [romEnd]
  | 0x11 =>
    let h := i2cStart ++ i2cAddr t.addr true a
    h ++ i2cReads h.length bytes ++ i2cStop ++ [romEnd]
  | _ =>
    let h := i2cStart ++ i2cAddr t.addr false a ++ i2cByte (bitsOf t.addr 16 8) d ++ i2cAgain t.addr a
    h ++ i2cReads h.length bytes ++ i2cStop ++ [romEnd]

/-- An I2C template with its exits: STOP, then FAIL 0x10 for the address and FAIL 0x11 for data (R327). -/
def i2cSteps (t : XeTxn) : List XeStep :=
  let n := (i2cMain t 0 0).length
  i2cMain t n (n + 3) ++ i2cStop ++ [romStep 5 0x10 []] ++ i2cStop ++ [romStep 5 0x11 []]

/-- The ROM templates (R327); an id the table does not list is an empty template (R312). -/
def romTemplate (t : XeTxn) : List XeStep :=
  match t.tpl with
  | 0x00 => [romStep 0 5 (tapSyms 1 0), romStep 0 1 (tapSyms 0 1), romEnd]
  | 0x01 => tapScan 2 t.bits
  | 0x02 => tapScan 1 t.bits
  | 0x03 => [romStep 0 (bitsOf t.addr 0 16) (tapSyms 0 1), romEnd]
  | 0x04 => [romShift (2 ^ 13 + 2 ^ 14) 1 3 (tapSyms 0 1), romEnd]
  | 0x08 => spiSteps false 0 t
  | 0x09 => spiSteps true 0 t
  | 0x0A => spiSteps false 1 t
  | 0x0B => spiSteps true 1 t
  | 0x0C => spiSteps false 2 t
  | 0x0D => spiSteps true 2 t
  | 0x10 => i2cSteps t
  | 0x11 => i2cSteps t
  | 0x12 => i2cSteps t
  | _ => []

/-- A user step from its words (R313). -/
def stepOf (w0 w1 w2 : Nat) : XeStep :=
  { op := bitsOf w0 0 4, pause := bitOf w0 4, cap := bitOf w0 5, crole := bitsOf w0 6 3, drole := bitsOf w0 9 3,
    ts := bitsOf w0 12 6, sym0 := bitsOf w0 18 4, sym1 := bitsOf w0 22 4, msbf := bitOf w0 26, wid := bitsOf w0 27 2,
    lastSel := bitOf w0 29, pts := bitOf w0 30, syms := w1, arg := w2, keep := true }

/-- Step k of the template of a transaction, or none past its step count (R312). -/
def State.templateStep (s : State) (t : XeTxn) (k : Nat) : Option XeStep :=
  if t.tpl < 0x40 then (romTemplate t)[k]?
  else if 0x40 + s.get XE_TPL_COUNT ≤ t.tpl then none
  else
    let e := s.get XE_TPL_BASE / 8 * 8 + 8 * (t.tpl - 0x40)
    let n := min 1024 (bitsOf (s.ocmAt (e + 4)) 0 11)
    let at_ := s.ocmAt e + 16 * k
    if k < n then some (stepOf (s.ocmAt at_) (s.ocmAt (at_ + 4)) (s.ocmAt (at_ + 8))) else none

/-- The checks of what the engine reads as it comes to step k of a user template (R21, R407): the template's entry, and the step. -/
def State.stepCheck (s : State) (t : XeTxn) (k : Nat) : State :=
  if t.tpl < 0x40 ∨ 0x40 + s.get XE_TPL_COUNT ≤ t.tpl then s
  else
    let e := s.get XE_TPL_BASE / 8 * 8 + 8 * (t.tpl - 0x40)
    let s1 := s.checkTable e 8
    if k < min 1024 (bitsOf (s.ocmAt (e + 4)) 0 11) then s1.checkTable (s.ocmAt e + 16 * k) 16 else s1

/-! Steps (R314 to R316). -/

/-- A transaction ends with a status (R314, R323). -/
def State.endRun (s : State) (n : Nat) (r : XeRun) (status : Nat) : State :=
  let s1 := s.updRun r.num (fun x =>
    { x with ended := some status, last := s.lastIssued r.site,
             cycle := if x.unsent = 0 ∧ x.first = none then s.cycleNow r.site else x.cycle })
  (s1.updXePort n (fun p => { p with cur := none, holdCs := r.txn.holdCs && isSpi r.txn.tpl })).portStat n

/-- The lines of a step: 1, 2 or 4. -/
def XeStep.lines (x : XeStep) : Nat := 2 ^ x.wid

/-- Whether a step names a role above 7, or has WID 0b11 (R313, R314). -/
def XeStep.bad (x : XeStep) : Bool :=
  decide (x.wid = 3) || (decide (x.op = 1) && decide (8 < x.drole + x.lines)) || (x.cap && decide (8 < x.crole + x.lines))

/-- The number of bits of a SHIFT step, 0 where it plays nothing (R314). -/
def XeStep.count (x : XeStep) (bits : Nat) : Nat := if bitOf x.arg 13 then bits - bitsOf x.arg 0 13 else bitsOf x.arg 0 13

/-- Bit k of the source of a SHIFT step, before MSBF (R314). -/
def State.shiftBit (s : State) (r : XeRun) (x : XeStep) (k : Nat) : Bool :=
  match bitsOf x.arg 14 2 with
  | 0 => bitOf (s.ocmAt ((r.txn.dout + (r.cursor + k) / 8) / 4 * 4)) (8 * ((r.txn.dout + (r.cursor + k) / 8) % 4) + (r.cursor + k) % 8)
  | 1 => bitOf r.txn.addr k
  | 2 => bitOf (bitsOf x.arg 16 16) k
  | _ => true

/-- The role symbols of a step. -/
def XeStep.symList (x : XeStep) : List Nat := (List.range 8).map (fun r => bitsOf x.syms (4 * r) 4)

/-- Whether the innermost open loop, the one opened last, is in its last iteration (R313, LASTSEL). -/
def XeRun.lastIter (r : XeRun) : Bool :=
  match r.loops with
  | l :: _ => decide (r.ctr.getD l none = some 0)
  | [] => false

/-- A vector produced by a step of a port, with the bits to sample, and what becomes of the transaction. -/
def State.produce (s : State) (n : Nat) (r : XeRun) (x : XeStep) (syms : List Nat) (caps : List (Nat × CapTo)) (next : XeRun → XeRun) :
    State :=
  let v : XeVec := ⟨r.num, syms, if x.pts then s.get (XE_PORT_CFG_TS n) else x.ts, x.pause, caps⟩
  (s.updXePort n (fun p => { p with buf := p.buf ++ [v] })).updRun r.num (fun y => next { y with unsent := y.unsent + 1 })

/-- A transaction comes to a step. -/
def XeRun.jump (r : XeRun) (pc : Nat) : XeRun := { r with pc := pc, at_ := 0, mark := r.asked }

/-- The next step of a transaction. -/
def XeRun.advance (r : XeRun) : XeRun := r.jump (r.pc + 1)

/-- `n` more bits of a transaction sampled, for places of the capture buffer up to `ext` (R315). -/
def XeRun.sampled (r : XeRun) (n ext : Nat) : XeRun :=
  { r with asked := r.asked + n, outstanding := r.outstanding + n, ncap := max r.ncap ext, past := r.past || decide (4096 < ext) }

/-- The bits that a vector of an EMIT, BRANCH or WAITHI step captures (R313, R318). R315 places the bits of SHIFT only: the model stores these after the
last place used (log 139, DESIGN CHOICE). -/
def XeRun.stepCaps (r : XeRun) (x : XeStep) : List (Nat × CapTo) :=
  if x.cap then
    (List.range x.lines).map (fun j =>
      (x.crole + x.lines - 1 - j, CapTo.store (r.asked + j) (if x.keep && decide (r.ncap + j < 4096) then some (r.ncap + j) else none)))
  else []

/-- The transaction once such a vector is on its way. -/
def XeRun.stepSampled (r : XeRun) (x : XeStep) : XeRun :=
  if x.cap then r.sampled x.lines (if x.keep then r.ncap + x.lines else 0) else r

/-- One vector of an EMIT step (R314). -/
def State.stepEmit (s : State) (n : Nat) (r : XeRun) (x : XeStep) : State :=
  let total := max 1 (bitsOf x.arg 0 16)
  let syms := if x.lastSel then x.symList.set x.drole (if r.lastIter then x.sym1 else x.sym0) else x.symList
  s.produce n r x syms (r.stepCaps x) (fun y =>
    let z := y.stepSampled x
    if total ≤ r.at_ + 1 then z.advance else { z with at_ := z.at_ + 1 })

/-- The check of the DOUT words that a SHIFT step takes (R21, R407). -/
def State.doutCheck (s : State) (r : XeRun) (n : Nat) : State :=
  let a := r.txn.dout + r.cursor / 8
  let b := r.txn.dout + (r.cursor + n + 7) / 8
  s.checkTable (a / 4 * 4) (b - a / 4 * 4)

/-- One vector of a SHIFT step (R314, R315): captured bit k lies at the data cursor + k, and with MSBF at the cursor + n - 1 - k. -/
def State.stepShift (s0 : State) (n : Nat) (r : XeRun) (x : XeStep) : State :=
  let total := x.count r.txn.bits
  let src := bitsOf x.arg 14 2
  let s := if src = 0 ∧ r.at_ = 0 ∧ total ≠ 0 then s0.doutCheck r total else s0
  if (src = 1 ∧ 32 < total) ∨ (src = 2 ∧ 16 < total) then s.endRun n r 4
  else if total = 0 then s.updRun r.num XeRun.advance
  else
    let w := x.lines
    let bitAt (k : Nat) : Bool :=
      decide (k < total) && s.shiftBit r x (if x.msbf then total - 1 - k else k)
    let syms := (List.range w).foldl
      (fun l j => l.set (x.drole + w - 1 - j) (if bitAt (r.at_ * w + j) then x.sym1 else x.sym0)) x.symList
    let ks := ((List.range w).map (fun j => r.at_ * w + j)).filter (fun k => decide (k < total))
    let place (k : Nat) : Nat := r.cursor + (if x.msbf then total - 1 - k else k)
    let caps := if x.cap then
        ks.map (fun k => (x.crole + w - 1 - (k - r.at_ * w),
          CapTo.store (r.asked + (k - r.at_ * w)) (if place k < 4096 then some (place k) else none)))
      else []
    s.produce n r x syms caps (fun y =>
      let z := if x.cap then y.sampled ks.length (r.cursor + total) else y
      if total ≤ (r.at_ + 1) * w then { z.advance with cursor := if src = 0 then z.cursor + total else z.cursor }
      else { z with at_ := z.at_ + 1 })

/-- A LOOP step (R314). -/
def State.stepLoop (s : State) (r : XeRun) (x : XeStep) : State :=
  let level := ofBool (bitOf x.arg 10)
  let c := if bitOf x.arg 11 then ceilDiv r.txn.bits 8 else bitsOf x.arg 16 16
  let left := (r.ctr.getD level none).getD (max 1 c - 1)
  s.updRun r.num (fun y =>
    let others := y.loops.filter (fun l => decide (l ≠ level))
    if left = 0 then { y.advance with ctr := y.ctr.set level none, loops := others }
    else
      { y.jump (bitsOf x.arg 0 10) with
        ctr := y.ctr.set level (some (left - 1))
        loops := if (y.ctr.getD level none).isSome then y.loops else level :: others })

/-- The last bit captured before the present step, once it has returned. -/
def XeRun.lastBit (r : XeRun) : Option Bool := (r.got.find? (fun g => decide (g.1 + 1 = r.mark))).map (fun g => g.2)

/-- A BRANCH step: once the last bit captured is known, it jumps or falls through (R314, R316). -/
def State.stepBranch (s : State) (n : Nat) (r : XeRun) (x : XeStep) : State :=
  if r.mark = 0 then s.endRun n r 4
  else
    match r.lastBit with
    | none => s
    | some b => s.updRun r.num (fun y => if b = bitOf x.arg 16 then y.jump (bitsOf x.arg 0 10) else y.advance)

/-- A WAITHI step begins (R314, R316): its vectors are played on demand. -/
def State.stepWait (s : State) (r : XeRun) : State :=
  if r.at_ ≠ 0 then s
  else s.updRun r.num (fun y => { y with at_ := 1, waitNo := y.waitNo + 1, waitSent := 0, waitGot := 0 })

/-- One step of the transaction in progress on a port processed (R314, R320). -/
def State.xeStep (s : State) (n : Nat) : State :=
  match s.portRun n with
  | none => s
  | some r =>
    let s0 := if r.at_ = 0 then s.stepCheck r.txn r.pc else s
    let s1 := (s0.count (XE_PORT_STEPS_COUNT n) 1).updXe (fun z => { z with steps := z.steps + 1 })
    match s.templateStep r.txn r.pc with
    | none => s1.endRun n r 4
    | some x =>
      if x.bad then s1.endRun n r 4
      else
        match x.op with
        | 0 => s1.stepEmit n r x
        | 1 => s1.stepShift n r x
        | 2 => s1.stepLoop r x
        | 3 => s1.stepBranch n r x
        | 4 => s1.stepWait r
        | 5 => s1.endRun n r (max 0x10 (bitsOf x.arg 0 8))
        | 6 => s1.endRun n r 0
        | _ => s1.endRun n r 4

/-- Whether the transaction of a port waits in BRANCH or WAITHI for a bit (R316). -/
def State.xeWaits (s : State) (n : Nat) : Bool :=
  match s.portRun n with
  | none => false
  | some r =>
    match s.templateStep r.txn r.pc with
    | none => false
    | some x => !x.bad && ((decide (x.op = 3) && decide (r.mark ≠ 0) && r.lastBit.isNone) || (decide (x.op = 4) && decide (r.at_ ≠ 0)))

/-- An idle port starts the transaction at the head of its queue (R310). -/
def State.xeStart (s : State) (n : Nat) : State :=
  match (s.xePort n).cur, (s.xePort n).queue with
  | none, t :: rest =>
    let i := s.get (XE_PORT_CFG_SITE n)
    let num := s.xe.nextNum
    let s1 := (s.updXe (fun z => { z with runs := s.xe.runs ++ [XeRun.start num i t (s.lastIssued i)], nextNum := num + 1 }))
    (s1.updXePort n (fun p => { p with cur := some num, queue := rest })).portStat n
  | _, _ => s

/-- Whether the engine has something to do at a port (R320): its site is in XACT, its buffer has room, and a transaction runs
that does not wait, or one is queued. -/
def State.xeEligible (s : State) (n : Nat) : Bool :=
  s.bit (XE_PORT_CFG_EN n) && decide (s.siteSt (s.get (XE_PORT_CFG_SITE n)) = stXact) && decide ((s.xePort n).buf.length < 64) &&
    ((s.xePort n).cur.isSome || decide ((s.xePort n).queue ≠ [])) && !s.xeWaits n

/-- Up to `k` steps of a port processed. -/
def State.xeSteps (s : State) (n : Nat) : Nat → State
  | 0 => s
  | k + 1 => if s.xeEligible n then State.xeSteps ((s.xeStart n).xeStep n) n k else s

/-- The engine visits the next port in ascending order, round the ports (R320). -/
def State.xeVisit (s : State) : State :=
  match ((List.range 128).map (fun k => (s.xe.visit + 1 + k) % 128)).find? (fun n => s.xeEligible n) with
  | none => s
  | some n => ((s.updXe (fun z => { z with visit := n }))).xeSteps n (s.get (XE_PORT_CFG_SLICE n) + 1)

/-- The steps of one kind at the head of a port's template: processed until the step is done or the buffer is full. -/
def State.xeKind (s : State) (n op : Nat) : Nat → State
  | 0 => s
  | k + 1 =>
    let s0 := if s.xeEligible n then s.xeStart n else s
    match s0.portRun n with
    | none => s
    | some r =>
      match s0.templateStep r.txn r.pc with
      | none => s
      | some x =>
        if x.op ≠ op ∨ !s0.xeEligible n then s
        else
          let s1 := s0.xeStep n
          if (s1.portRun n).map (fun y => y.pc) = some r.pc then State.xeKind s1 n op k else s1

/-! Vectors of the engine (R317, R318). -/

/-- Whether a port of the site is running: a transaction in progress, or vectors of one still to be issued. -/
def State.portRunning (s : State) (n : Nat) : Bool := (s.xePort n).cur.isSome || decide ((s.xePort n).buf ≠ [])

/-- The vector a running port has ready, if any: the head of its buffer, or a vector played while it waits. -/
def State.portReady (s : State) (n : Nat) : Option XeVec :=
  match (s.xePort n).buf with
  | v :: _ => some v
  | [] =>
    if s.xeWaits n then
      match s.portRun n with
      | none => none
      | some r =>
        match s.templateStep r.txn r.pc with
        | none => none
        | some x =>
          some ⟨r.num, x.symList, if x.pts then s.get (XE_PORT_CFG_TS n) else x.ts, x.pause,
            (if x.op = 4 then [(x.crole, .wait r.waitNo)] else []) ++ r.stepCaps x⟩
    else none

/-- The park symbol of a role; HOLD_CS holds role 1 low (R304, R327). -/
def State.parkSym (s : State) (n r : Nat) : Nat := if (s.xePort n).holdCs ∧ r = 1 then 0 else s.get (XE_PORT_PARK n r)

/-- The symbol of a pin in an engine vector, none where no port has it. -/
def State.xeSym (s : State) (vecs : List (Nat × XeVec)) (ports : List Nat) (p : Nat) : Option Nat :=
  match ports.findSome? (fun n =>
      ((List.range 8).find? (fun r => s.roleUsed n r && decide (s.rolePin n r = p))).map (fun r => (n, r))) with
  | none => none
  | some (n, r) =>
    match vecs.find? (fun v => decide (v.1 = n)) with
    | some v => some (v.2.syms.getD r 0)
    | none => some (s.parkSym n r)

/-- The words of an engine vector (R317). -/
def State.xeWords (s : State) (i : Nat) (vecs : List (Nat × XeVec)) (ports : List Nat) : List GroupWord :=
  (s.groups i).map (fun g =>
    let last := (Sparse.get (fun _ => none) (s.site i).seq.last g).getD (s.initSyms i)
    ⟨g, some ((List.range 8).foldl
      (fun w k => fieldPut (4 * k) 4 w ((s.xeSym vecs ports (8 * g + k)).getD (symOf last k))) 0), none⟩)

/-- A port's vector has been issued: it leaves the buffer, or was played while a step waits, and counts against the limit of WAITHI. -/
def State.xeSent (s : State) (vid n : Nat) (v : XeVec) : State :=
  let buffered := decide ((s.xePort n).buf ≠ [])
  let s1 := if buffered then s.updXePort n (fun p => { p with buf := p.buf.drop 1 }) else s
  s1.updRun v.num (fun r =>
    let r1 := { r with first := some (r.first.getD vid), last := vid }
    if buffered then { r1 with unsent := r.unsent - 1 }
    else
      let r2 := { r1 with waitSent := r.waitSent + 1 }
      match s.templateStep r.txn r.pc with
      | none => r2
      | some x => r2.stepSampled x)

/-- The usable ports of a site that are running. -/
def State.runningPorts (s : State) (i : Nat) : List Nat :=
  (s.sitePorts i).filter (fun n => (s.xePort n).usable && s.portRunning n)

/-- Whether the engine has no further vector for a site: every entry of its list is dispatched, and no port runs. -/
def State.xeOver (s : State) (i : Nat) : Bool :=
  decide (s.runningPorts i = []) && (decide ((s.xeSite i).count ≤ (s.xeSite i).next) || (s.xeSite i).stop)

/-- The engine issues a vector for a site in XACT (R317), where every running port has its step ready. -/
def State.xeIssue (s : State) (i : Nat) : State :=
  let ports := (s.sitePorts i).filter (fun n => (s.xePort n).usable)
  let running := s.runningPorts i
  let vecs := running.filterMap (fun n => (s.portReady n).map (fun v => (n, v)))
  if s.siteSt i ≠ stXact ∨ (s.site i).burst.end_.isSome ∨ s.lead i ≤ (s.site i).laneVecs ∨
      s.get (SITE_STR_STATUS_STATE i) = 3 ∨ 2048 ≤ (s.site i).occupancy ∨ vecs.length ≠ running.length ∨ s.xeOver i then s
  else
    let ts := match vecs with
      | [] => s.cfg i (XE_SITE_TS_PARK_TS i)
      | v :: _ => v.2.ts
    let s1 := match vecs.find? (fun v => decide (v.2.ts ≠ ts)) with
      | none => s
      | some v => (s.flag XE_STATUS_TS_CONFLICT).xeOnce i 0x7004 v.1
    let vid := 2 ^ 25 * (s.site i).spec.nextVec
    let words := s.xeWords i vecs ports
    let pos : Pos := if (s.site i).burst.listBurst.isSome then ⟨0, 0⟩ else (s.site i).seq.lastPos.getD ⟨0, 0⟩
    let caps := vecs.flatMap (fun v => v.2.caps.map (fun c => (s.rolePin v.1 c.1, v.2.num, c.2)))
    let v : Vec := ⟨vid, pos, 0, ts, s.tsp i ts, words, none, false, none, caps⟩
    let s2 := s1.updSite i (fun t =>
      { t with
        lane := t.lane ++ [.vec v]
        seq := { t.seq with last := lastAfter t.seq.last words }
        spec := { t.spec with window := t.spec.window ++ [WinEntry.of v], nextVec := t.spec.nextVec + 1, restart := .free } })
    let s3 := vecs.foldl (fun u w => u.xeSent vid w.1 w.2) s2
    ((s3.laneFeed i).flowIssue i (vecs.all (fun w => w.2.pause))).specStat i

/-! Returned bits (R316) and results (R322 to R325). -/

/-- A sampled bit reaches the engine (R316). -/
def State.capReturn (s : State) (num : Nat) (use : CapTo) (high : Bool) : State :=
  match s.xeRun num with
  | none => s
  | some r =>
    match use with
    | .store seq pos =>
      s.updRun num (fun y =>
        { y with outstanding := y.outstanding - 1, got := (seq, high) :: y.got.filter (fun g => decide (y.mark ≤ g.1 + 1)),
                 bits := match pos with
                   | none => y.bits
                   | some k => (k, high) :: y.bits })
    | .wait no =>
      if r.waitNo ≠ no ∨ r.at_ = 0 ∨ r.ended.isSome then s
      else if high then s.updRun num XeRun.advance
      else
        let s1 := s.updRun num (fun y => { y with waitGot := y.waitGot + 1 })
        match s.templateStep r.txn r.pc with
        | none => s1
        | some x =>
          let limit := if bitsOf x.arg 0 16 = 0 then 65536 else bitsOf x.arg 0 16
          if limit ≤ r.waitGot + 1 then
            match s1.xeRun num with
            | none => s1
            | some r1 => s1.endRun r.txn.port r1 2
          else s1

/-- NCAP of a transaction (R315, R322): up to the last place of the capture buffer that holds a bit. -/
def XeRun.stored (r : XeRun) : Nat := min 4096 r.ncap

/-- Bit k of the capture buffer. -/
def XeRun.bitAt (r : XeRun) (k : Nat) : Bool := match r.bits.find? (fun b => decide (b.1 = k)) with
  | some b => b.2
  | none => false

/-- The number of compared bits that differ (R325). -/
def State.mismatches (s : State) (r : XeRun) : Nat :=
  if r.txn.exp = 0 then 0
  else
    let n := 4 * ceilDiv r.txn.bits 32
    let bitAt (base k : Nat) : Bool := bitOf (s.ocmAt ((base + k / 8) / 4 * 4)) (8 * ((base + k / 8) % 4) + k % 8)
    ((List.range (min r.txn.bits r.stored)).filter (fun k =>
      bitAt (r.txn.exp + n) k &&
        (bitAt r.txn.exp k != r.bitAt k))).length

/-- The final status of a transaction (R315, R323, R325). -/
def XeRun.finalStatus (r : XeRun) (mism : Nat) : Nat :=
  let st := r.ended.getD 0
  if r.past && decide (st ≠ 2) && decide (st < 0x10) then 6
  else if st = 0 ∧ mism ≠ 0 then 1
  else st

/-- Captured bits as bytes, padded to 8 bytes. -/
def capBytes (r : XeRun) : List Byte :=
  (List.range (8 * ceilDiv r.stored 64)).map (fun k =>
    BitVec.ofNat 8 ((List.range 8).foldl
      (fun w j => if r.bitAt (8 * k + j) then w + 2 ^ j else w) 0))

/-- A result record (R322). -/
def xeRecord (i seq mism status : Nat) (r : XeRun) : List Byte :=
  let n := ceilDiv r.stored 64
  leBytes 4 (3 + n + 2 ^ 8 * i + 2 ^ 12 * r.txn.port + 2 ^ 24 * status) ++ leBytes 4 r.txn.tag ++
    leBytes 4 (r.stored + 2 ^ 16 * (seq % 2 ^ 16)) ++ leBytes 4 mism ++ leBytes 8 (r.cycle.getD 0) ++ capBytes r

/-- The free bytes of a result ring. -/
def State.resFree (s : State) (i : Nat) : Nat :=
  if (s.xeSite i).full then 0
  else
    let size := s.resSize i
    size - (s.get (XE_SITE_RES_HEAD i) + size - s.get (XE_SITE_RES_TAIL i) % size) % size

/-- A result record written to the ring, or dropped (R324). -/
def State.resPut (s : State) (i tag : Nat) (bs : List Byte) : State :=
  let size := s.resSize i
  if !(s.xeSite i).resOk then s.flag (XE_SITE_STAT_RES_BAD i)
  else if s.resFree i < bs.length then
    ((s.count (XE_SITE_RES_DROPPED_COUNT i) 1).flag (XE_SITE_STAT_TRUNCATED i)).xeOnce i 0x7002 tag
  else
    let h := s.get (XE_SITE_RES_HEAD i)
    let s1 := (s.captPut (s.resBase i) size h bs).set (XE_SITE_RES_HEAD i) ((h + bs.length) % size)
    s1.updXeSite i (fun x => { x with full := decide ((h + bs.length) % size = s.get (XE_SITE_RES_TAIL i)) })

/-- A complete transaction commits (R324); the words of EXP that its bits are compared with are checked as they are read (R21, R407). -/
def State.xeCommitRun (s : State) (i : Nat) (r : XeRun) : State :=
  let mism := s.mismatches r
  let st := r.finalStatus mism
  let sc := if r.txn.exp = 0 then s else s.checkTable r.txn.exp (8 * ceilDiv r.txn.bits 32)
  let s0 := (sc.updXe (fun z => { z with runs := s.xe.runs.filter (fun x => decide (x.num ≠ r.num)) }))
  let s1 := s0.set (XE_PORT_STAT_LAST_STATUS r.txn.port) st
  let s2 :=
    if st = 0 then s1.count (XE_SITE_OK_COUNT i) 1
    else
      let t1 := (s1.count (XE_SITE_ERR_COUNT i) 1).xeOnce i 0x7001 (st + 2 ^ 8 * r.txn.port)
      let t2 := match r.txn.flag with
        | none => t1
        | some f => t1.setFlag i f
      t2.updXeSite i (fun x => { x with stop := x.stop || decide (x.errMode ≠ 0), err := true })
  s2.resPut i r.txn.tag (xeRecord i (s.site i).burst.seqNo mism st r)

/-- Of two ended transactions, the one that commits first: by the vector they ended in, then by port (R324). -/
def earlierRun (a b : XeRun) : XeRun := if b.last < a.last ∨ (b.last = a.last ∧ b.txn.port < a.txn.port) then b else a

/-- Whether an ended transaction is complete: every bit is back, and its last vector has committed. -/
def State.runComplete (s : State) (r : XeRun) : Bool :=
  decide (r.outstanding = 0) && (s.site r.site).spec.window.all (fun e => decide (r.last < e.vec.id))

/-- The ended transactions of a site commit in order while they are complete (R324). -/
def State.xeCommit (s : State) (i : Nat) : Nat → State
  | 0 => s
  | fuel + 1 =>
    match s.xe.runs.filter (fun r => decide (r.site = i) && r.ended.isSome && decide (r.unsent = 0)) with
    | [] => s
    | r :: rs =>
      let x := rs.foldl earlierRun r
      if s.runComplete x then State.xeCommit (s.xeCommitRun i x) i fuel else s

/-- The list ends when every dispatched transaction has ended (R310, R311); the site continues at the block after the XACT, and until its first vector
the pins hold where a lane empties (R319). -/
def State.listEnd (s : State) (i : Nat) : State :=
  let x := s.xeSite i
  if s.siteSt i = stXact ∧ (s.site i).burst.end_ = none ∧ (x.count ≤ x.next ∨ x.stop) ∧
      (s.sitePorts i).all (fun n => !s.portRunning n && decide ((s.xePort n).queue = [])) ∧
      s.xe.runs.all (fun r => decide (r.site ≠ i)) then
    let s1 := s.set (XE_SITE_STAT_ACTIVE i) 0
    if x.err ∧ 2 ≤ x.errMode then s1.endNow i (haltRec 0x31)
    else if (s.site i).burst.listBurst.isSome then s1.endNow i ⟨.stop, 0⟩
    else
      let s2 := (s1.setSiteSt i stRunning).updSpec i (fun x => { x with restart := .handOver })
      match (s.site i).seq.blk with
      | none => s2
      | some b => s2.seqCont i b
  else s

/-- What can commit at a site commits, transactions too, and its list may end (R179, R310, R324). -/
def State.settle (s : State) (i : Nat) : State :=
  let s1 := s.commitReady i
  if s1.xe.runs.any (fun r => decide (r.site = i)) || decide (s1.siteSt i = stXact) then
    (s1.xeCommit i s1.xe.runs.length).listEnd i
  else s1

end Sys2Proof.Machine
end

