-- ==== Sys2Proof/Machine/Opcodes.lean ====
section
/-! DEFINITION. The opcodes that need the engine or a pad vector (XACT, FRAME), the opcode of a block carried out (R137), and
block decode. -/
namespace Sys2Proof.Machine

/-- XACT, issued after its fence (R145, R308): at pin level the burst ends; a list number out of range ends it; otherwise the
site is handed to the engine, and continues at the following block when the list has ended. -/
def State.opXact (s : State) (i : Nat) (b : Block) : State :=
  let list := b.hdr.opnd % 2 ^ 16
  if s.level i = 0 then s.seqDone i (haltRec 0x11)
  else if s.cfg i (XE_SITE_LIST_COUNT i) ≤ list then
    ((s.flag (XE_SITE_STAT_BAD_LIST i)).raise 0x7005 i list).seqDone i (haltRec 0x30)
  else (s.handOver i list).settle i

/-- FRAME (R51, R145): the block's last vector is the pad vector. -/
def State.opFrame (s : State) (i : Nat) (b : Block) : State :=
  let n := maskCount (s.seg i b.pos.seg).entry.gmask
  let v := s.makeVec i b none
  let x := 8 * b.pos.off + 8 + 4 * n * b.vix
  let s1 := s.updSite i (fun t =>
    { t with
      lane := t.lane ++ [.frame (b.hdr.opnd % 4) (b.hdr.opnd / 4 % 2 ^ 24) v 0 none none]
      seq := { t.seq with last := lastAfter t.seq.last v.words, lastPos := some b.pos }
      spec := { t.spec with nextVec := t.spec.nextVec + 1, restart := .free, restartPause := none } })
  let odd := decide (b.hdr.len * n % 2 = 1)
  (((s1.consume i b.pos.seg x (4 * n + 4 * ofBool odd)).laneFeed i).flowIssue i b.hdr.pause).seqCont i b

/-- The opcode of a block carried out once its own vectors have been issued (R137, R145). -/
def State.carryOut (s : State) (i : Nat) (b : Block) : State :=
  match b.hdr.opc with
  | 0x00 => s.opCont i b
  | 0x01 => s.opRpt i b
  | 0x02 => s.opLbeg i b
  | 0x03 => s.opLend i b
  | 0x04 => s.opMloop i b
  | 0x05 => s.opJmp i b
  | 0x06 => s.opJc i b
  | 0x07 => s.opCall i b
  | 0x08 => s.opRet i b
  | 0x09 => s.opHold i b
  | 0x0A => s.opNext i b
  | 0x0B => s.opLvl i b
  | 0x0C => s.opRetime i b
  | 0x0D => s.opFrame i b
  | 0x0E => s.opCont i b
  | 0x0F => s.opSync i b
  | 0x10 => s.opWaitf i b
  | 0x11 => s.opXact i b
  | 0x12 => s.seqDone i ⟨.stop, 0⟩
  | _ => s.seqDone i (haltRec 0x10)

/-- Whether a fence keeps the sequencer from going on (R176). -/
def State.fenceWaits (s : State) (i : Nat) : Bool :=
  (s.site i).spec.decisions.any (fun d => d.fenced && d.lastVec.isSome)

/-- Whether a block's opcode can be carried out: its vectors are issued; a FRAME, which issues its pad vector here, meets no
fence, finds room in the Transit window (R178) and finds its words (R176); an XACT at pin level only ends the burst, and above it hands over a site that runs (R145). -/
def State.opReady (s : State) (i : Nat) (b : Block) : Bool :=
  decide (b.own ≤ b.vix) &&
    (decide (b.hdr.opc ≠ 0x0D) ||
      (decide ((s.site i).spec.decisions = []) && decide (s.stopWhy i = .free) && decide ((s.site i).laneVecs < s.lead i) &&
        s.segReadable i b.pos.seg (8 * b.pos.off + 8 + 4 * (b.hdr.len - 1) * maskCount (s.seg i b.pos.seg).entry.gmask)
          (4 * maskCount (s.seg i b.pos.seg).entry.gmask))) &&
    (decide (b.hdr.opc ≠ 0x11) || decide (s.level i = 0) || decide (s.siteSt i = stRunning) || decide (s.siteSt i = stHolding))

/-- Whether the sequencer of a site has come to an XACT that waits for the site to run (R145, R148). -/
def State.xactWaits (s : State) (i : Nat) : Bool :=
  match (s.site i).seq.blk with
  | some b => decide (b.hdr.opc = 0x11) && decide (b.own ≤ b.vix) && decide (s.level i ≠ 0)
  | none => false

/-- The sequencer decodes the next block, or carries out the opcode of the present one (R137). -/
def State.blockDecode (s0 : State) (i : Nat) (e : Ecc) : State :=
  let s := s0.flowTry i
  if !s.issuing i then s
  else
    match (s.site i).seq.blk with
    | some b => if s.opReady i b then s.carryOut i b else s
    | none =>
      let p := (s.site i).seq.pos
      if (s.site i).seq.waitSeg.isSome || s.fenceWaits i then s
      else if s.segReadable i p.seg (8 * p.off) 8 then s.decodeBlock i e
      else s.engineSync i p

/-- The opcode of the present block carried out, if it is the one named and its vectors are issued. -/
def State.opcodeRow (s : State) (i opc : Nat) (f : State → Nat → Block → State) : State :=
  if !s.issuing i then s
  else
    match (s.site i).seq.blk with
    | some b => if b.hdr.opc = opc ∧ s.opReady i b then f s i b else s
    | none => s

end Sys2Proof.Machine
end

