-- ==== Sys2Proof/Machine/Cycle.lean ====
section
/-! DEFINITION. What the pins play: the cycle of a vector (R69, R73), forced fails (R17, R221), hold vectors and their counts (R144,
R151, R177, R203), level sets, period changes, waits and frame pads in the lane (R44, R46, R51, R53, R109), UNDERRUN and
REFILL_LATE (R143, R205). -/
namespace Sys2Proof.Machine

/-- A window entry changed, by its vector. -/
def State.updEntry (s : State) (i id : Nat) (f : WinEntry → WinEntry) : State :=
  s.updSpec i (fun x => { x with window := x.window.map (fun e => if e.vec.id = id then f e else e) })

/-- An entry put into the window in order of its vector. -/
def insertEntry (e : WinEntry) : List WinEntry → List WinEntry
  | [] => [e]
  | x :: r => if e.vec.id < x.vec.id then e :: x :: r else x :: insertEntry e r

/-- The latest instant at which a crossing in the cycle, the mask windows or the averaging span of a vector (R249, R258, R260) arrives from the
reference plane of a pin at its comparator (R247). -/
def State.pinSpanEnd (s : State) (i ts c per p : Nat) : Nat :=
  let m := (List.range 4).foldl
    (fun m n => if s.maskApplies i p n ts ∧ s.cfg i (PIN_MASK_END p n) < 2 * per then max m (c + s.cfg i (PIN_MASK_END p n)) else m) (c + per)
  let e := if s.cfgBit i (PIN_AVG_CFG_EN p) then max m (c + s.cfg i (PIN_AVG_END p)) else m
  ((e : Int) + s.rxDeskew p).toNat

/-- The latest of these instants on the pins of a site that stamp. -/
def State.spanEnd (s : State) (i ts c per : Nat) : Nat :=
  ((s.sitePins i).filter (fun p => s.stamps i p)).foldl (fun m p => max m (s.pinSpanEnd i ts c per p)) (c + per)

/-- The pins of a group with their symbols in a word. -/
def State.wordPins (s : State) (i : Nat) (w : GroupWord) : List (Nat × Nat) :=
  (List.range 8).map (fun k => (8 * w.group + k, symOf (s.wordSyms i w) k))

/-- The forced fails of a group whose word was uncorrectable (R17, R220, R221): S0 and S1 of every pin that is not in clock mode
and not masked. -/
def State.forcedFails (s : State) (i : Nat) (w : GroupWord) : List (Nat × Nat) :=
  if w.bad.isNone then []
  else
    ((List.range 8).map (fun k => 8 * w.group + k)).flatMap (fun p =>
      if (s.pin p).clock.isSome || s.masked i p then [] else [(p, 0), (p, 1)])

/-- The word of one group placed at the pins: the state, and the number of strobe results to come (R69). An uncorrectable word
is counted (R407); its strobes give forced fails instead. -/
def State.placeWord (s : State) (i c per ts vec : Nat) (w : GroupWord) : State × Nat :=
  let s0 := match w.bad with
    | some (some x) => s.ocmUe x
    | _ => s
  (s.wordPins i w).foldl
    (fun r x =>
      let q := r.1.placePin x.1 c per ts vec x.2 w.bad.isNone
      (q.1, r.2 + q.2)) (s0, 0)

/-- The samples of a transaction-engine vector placed (R318): at the S0 edge time of each pin. -/
def State.placeCaps (s : State) (c ts vec : Nat) (caps : List (Nat × Nat × CapTo)) : State :=
  caps.foldl
    (fun u x =>
      u.updPin x.1 (fun q =>
        { q with strobes := q.strobes ++
            [⟨placeAt c (u.get (PIN_TS_E_TIME x.1 ts 6)) (u.deskew x.1), vec, 0, .valid, .capture x.2.1 x.2.2⟩] })) s

/-- The clock-mode pins of a site take a new period from an instant on (R48). -/
def State.clockPeriod (s : State) (i t per : Nat) : State :=
  (s.sitePins i).foldl
    (fun u p =>
      match (u.pin p).clock with
      | none => u
      | some r =>
        if ((r.changes.getLast?).map (fun x => x.2)).getD r.period = per then u
        else u.updPin p (fun q => { q with clock := some { r with changes := r.changes ++ [(t, per)] } })) s

/-- The waveform and results of a site that the spec leaves undefined: free on every pin for this vector. -/
def State.undefVec (s : State) (i vec : Nat) : State :=
  if (s.site i).burst.undef then
    (s.sitePins i).foldl (fun u p => u.updPin p (fun q => { q with undefVecs := q.undefVecs ++ [vec] })) s
  else s

/-- The lane of a site replaced. -/
def State.setLane (s : State) (i : Nat) (l : List LaneItem) : State := s.updSite i (fun t => { t with lane := l })

/-- Whether a strobe gives a strobe result. -/
def StrobeKind.result : StrobeKind → Bool
  | .capture _ _ => false
  | _ => true

/-- The latest active strobe of a vector on the pins of a site, if any. -/
def State.lastStrobe (s : State) (i vec : Nat) : Option Nat :=
  (s.sitePins i).foldl
    (fun m p => (s.pin p).strobes.foldl
      (fun m x => if x.vec = vec ∧ x.kind.result = true then some (max (m.getD 0) x.pos) else m) m) none

/-- A decision's cycle times and strobes as its vectors start (R139, R169). -/
def Decision.play (d : Decision) (vec c e n : Nat) (forced : Nat) (strobe : Option Nat) : Decision :=
  { d with placed := d.placed + n, fails := d.fails + forced, latest := max d.latest (strobe.getD 0), strobed := strobe.isSome, cStart := some (d.cStart.getD c), played := some (vec, e) }

/-- A vector's cycle starts at the pins (R69). -/
def State.playVec (s : State) (i : Nat) (v : Vec) : State :=
  let b := (s.site i).burst
  let c := b.cycleEnd
  let co := s.coherent i
  let per := if co then b.period else v.period
  let s0 := if co && decide (v.period ≠ b.period) && !b.mismatchEvt then
      (s.raise 0x1030 i v.ts).updBurst i (fun b => { b with mismatchEvt := true })
    else s
  let s1 := (if co then s0 else s0.clockPeriod i c per).undefVec i v.id
  let r := v.words.foldl
    (fun (r : State × Nat) w =>
      let q := r.1.placeWord i c per v.ts v.id w
      (q.1, r.2 + q.2)) (s1, 0)
  let s2 := r.1.placeCaps c v.ts v.id v.caps
  let forced := v.words.flatMap (fun w => s.forcedFails i w)
  let known := (s.site i).spec.window.any (fun e => decide (e.vec.id = v.id))
  let ready := if s.siteStamps i then s.spanEnd i v.ts c per else 0
  let s3 := s2.updEntry i v.id (fun e =>
    { e with started := some (c, per), pending := e.pending + r.2, fails := e.fails ++ forced,
             ecc := e.ecc || v.words.any (fun w => w.bad.isSome), forced := e.forced || decide (forced ≠ []), readyAt := ready })
  let s4 := match v.dec with
    | none => s3
    | some d => s3.updDec i d (fun d => d.play v.id c (c + per) r.2 forced.length (s2.lastStrobe i v.id))
  let s5 := if s.siteSt i = stHolding then s4.setSiteSt i stRunning else s4
  s5.updBurst i (fun b =>
    { b with cycleEnd := c + per, period := if co then b.period else per, flowHeld := false,
             recent := ((c, v.id, !known) :: b.recent).take 256 })

/-- The symbol of a pin in a hold vector: SITE_HOLD_CFG.SYMBOL, or during XACT the park symbol of a usable port's role (R144,
R319). -/
def State.holdSym (s : State) (i p : Nat) : Nat :=
  let sym := s.cfg i (SITE_HOLD_CFG_SYMBOL i)
  if s.siteSt i = stXact then
    (s.xeSym [] ((s.sitePorts i).filter (fun n => (s.xePort n).usable)) p).getD sym
  else sym

/-- A hold vector plays (R144): no compare result, counted in HOLDS and HOLD_TIME (R151). The spec does not say whether its active strobes,
which give no result, count for RANGE and STROBE_CLOSE; the model does not look at them, nor at those of a group whose word was
uncorrectable (log 132, DESIGN CHOICE). -/
def State.playHold (s : State) (i : Nat) : State :=
  let b := (s.site i).burst
  let c := b.cycleEnd
  let per := s.holdPeriod i
  let ts := s.cfg i (SITE_HOLD_CFG_TS i)
  let vec := match b.recent with
    | x :: _ => x.2.1
    | [] => 0
  let s1 := if s.coherent i then s else s.clockPeriod i c per
  let s2 := (s1.sitePins i).foldl (fun u p => (u.placePin p c per ts vec (s.holdSym i p) false).1) s1
  let s3 := if s.siteSt i = stRunning then s2.setSiteSt i stHolding else s2
  s3.updBurst i (fun b => { b with cycleEnd := c + per, holds := b.holds + 1, holdTime := b.holdTime + per })

/-- A hold vector of a SYNC wait, in which the site is RUNNING (R44, R389). -/
def State.syncHold (s : State) (i : Nat) : State :=
  let u := s.playHold i
  if u.siteSt i = stHolding then u.setSiteSt i stRunning else u

/-- A flow-control hold vector (R203): tainted HOLD; its episode counted. The first one of a burst is reported, and with HOLD_IS_FAIL fails the burst
(R206). -/
def State.flowHold (s : State) (i : Nat) : State :=
  let s1 := s.taint i taintHold
  let s2 := if (s.site i).burst.flowHeld then s1
    else (s1.count (SITE_STR_HOLDS_COUNT i) 1).updBurst i (fun b => { b with flowHeld := true })
  let s3 := if (s.site i).str.holdEvt then s2
    else (s2.raise 0x3002 i ((s.site i).str.level / 1024)).updStr i (fun t => { t with holdEvt := true })
  let s4 := if !(s.site i).str.holdEvt && s3.cfgBit i (SITE_STR_CFG_HOLD_IS_FAIL i) then
      (s3.flag (SITE_CAP_STATUS_SUMMARY_FAIL i)).flag (SITE_STR_STATUS_HOLD_FAIL i)
    else s3
  s4.playHold i

/-- A low mark reached as the lane drains (R203): the lane falls below floor(LEAD / 4) in STREAMING. -/
def State.laneLow (s : State) (i before : Nat) : State :=
  let q := s.lead i / 4
  if q ≤ before ∧ (s.site i).laneVecs < q ∧ s.get (SITE_STR_STATUS_STATE i) = 1 ∧ s.running i then
    s.set (SITE_STR_STATUS_STATE i) 2
  else s

/-- UNDERRUN (R205). -/
def State.underrun (s : State) (i : Nat) : State :=
  ((s.taint i taintHold).raise 0x3003 i ((s.site i).str.level / 1024)).endNow i ⟨.underrun, 0⟩

/-- The named segment is still INACTIVE when the lane runs dry (R143): the site holds at a pause-safe block, and otherwise the
burst ends with REFILL_LATE. -/
def State.refill (s : State) (i id : Nat) (pause : Bool) : State :=
  if pause then
    let s1 := if s.bit (SITE_SEQ_STATUS_REFILL_WAIT i) then s
      else
        ((((s.flag (SITE_SEQ_STATUS_REFILL_WAIT i)).raise 0x2003 i id).set (SITE_STR_STATUS_STATE i) 3)).pushLane i .holdResume
    s1.flowHold i
  else s.endPath i ⟨.refillLate, 0⟩

/-- Whether the DRAM data that the sequencer needs next have not arrived (R201, R205). -/
def State.nextMissing (s : State) (i : Nat) : Bool :=
  let q := (s.site i).seq
  let away (seg off n : Nat) : Bool := (s.seg i seg).entry.loc && !s.segReadable i seg off n
  match q.blk with
  | none => away q.pos.seg (8 * q.pos.off) 8
  | some b =>
    let n := maskCount (s.seg i b.pos.seg).entry.gmask
    decide (b.plays = 0) && away b.pos.seg (8 * b.pos.off + 8 + 4 * n * b.vix) (4 * n)

/-- The lane is empty, issue is free and the data it needs have not arrived: the site holds as under R203 after a decision block with
P = 1 that went against its prediction (R201), and UNDERRUN arises otherwise (R205). -/
def State.altMiss (s : State) (i : Nat) : State :=
  if (s.site i).spec.restartPause = some true then
    let s1 := (s.flag (SITE_STR_STATUS_ALT_MISS i)).raiseIf (!(s.site i).str.altEvt) 0x3006 i (s.site i).seq.pos.seg
    let s2 := (s1.updStr i (fun t => { t with altEvt := true })).set (SITE_STR_STATUS_STATE i) 3
    (s2.pushLane i .holdResume).flowHold i
  else s.underrun i

/-- The reason to hold kept until the next vector is issued. -/
def State.keepWhy (s : State) (i : Nat) (w : HoldWhy) : State := s.updSpec i (fun x => { x with restart := w })

/-- A hold vector of a stall, counted (R178). -/
def State.stallHold (s : State) (i : Nat) : State := (s.count (SITE_SPEC_STALL_COUNT i) 1).playHold i

/-- The lane of a site in XACT is empty: a flow-control hold, and a programmed one while the engine has no further vector, the Transit window is
full, or the site has only just been handed over (R178, R319). -/
def State.xactEmpty (s : State) (i : Nat) : State :=
  if s.get (SITE_STR_STATUS_STATE i) = 3 then s.flowHold i
  else if s.xeOver i then s.playHold i
  else if 2048 ≤ (s.site i).occupancy then (s.stallNote i).stallHold i
  else
    match (s.site i).spec.restart with
    | .free => s.underrun i
    | .stall => s.stallHold i
    | _ => s.playHold i

/-- The lane is empty at a cycle boundary: a hold vector where issue has stopped for a reason, and UNDERRUN otherwise (R143, R171,
R177, R178, R182, R203, R205, R319). A stop that is over gives no hold vector while data are missing. -/
def State.laneEmpty (s : State) (i : Nat) : State :=
  let fence (u : State) : State := (u.count (SITE_SPEC_FENCE_COUNT i) 1).playHold i
  let late := decide (s.stopWhy i = .free) && s.nextMissing i
  if s.siteSt i = stXact then s.xactEmpty i
  else
    match s.holdWhy i with
    | .free => if s.xactWaits i then s.playHold i else s.underrun i
    | .handOver => s.playHold i
    | .fence => if late then s.altMiss i else fence (s.keepWhy i .fence)
    | .pendingEnd => fence (s.keepWhy i .fence)
    | .stall => if late then s.altMiss i else (s.stallNote i).stallHold i
    | .restart => if late then s.altMiss i else s.stallHold i
    | .flow => s.flowHold i
    | .publication =>
      match (s.site i).seq.waitSeg with
      | none => s
      | some (id, p, _) => s.refill i id p

/-- Whether every vector up to the next stop of issue has been issued (R204). -/
def State.issueOver (s : State) (i : Nat) : Bool :=
  if s.siteSt i = stXact then s.xeOver i else decide (s.stopWhy i ≠ .free) || s.xactWaits i

/-- A level set applied to the site's pins at the start of the first cycle after the LVL block (R108, R109): a cycle of a hold vector counts
too, which the spec leaves open (log 132, DESIGN CHOICE). -/
def State.lvlApply (s : State) (i l t : Nat) : State :=
  (s.sitePins i).foldl (fun u p => if u.bit (PIN_LVL_CFG_LVL_IGNORE p) then u else u.levelEnter p l t false) s

/-- A period change at the end of the current cycle (R46): in coherent mode the cycle is stretched to the first grid point of the
new period. -/
def State.retime (s : State) (i per : Nat) : State :=
  let c := (s.site i).burst.cycleEnd
  let c1 := if s.coherent i then s.gridAt i per c else c
  (s.clockPeriod i c per).updBurst i (fun b =>
    { b with period := per, cycleEnd := c1, holdTime := b.holdTime + (c1 - c) })

/-! Frame pads (R51). -/

/-- The lower limit of a pad. -/
def padLow (n : Nat) : Nat := n - 255

/-- A frame starts after `k` pad vectors, `req` requested: the change is reported (R51, R65). -/
def State.frameStart (s : State) (input n k req : Nat) (late : Bool) : State :=
  let applied : Int := (k : Int) - n
  let asked : Int := if late then applied else (req : Int) - n
  let s1 := (s.set (TB_FSYNC_DELTA_APPLIED input) (unsignedOf 16 applied)).set (TB_FSYNC_DELTA_REQUESTED input)
    (unsignedOf 16 (clampInt (-32768) 32767 asked))
  if late then (s1.flag (TB_FSYNC_STATUS_LATE input)).raise 0x1021 input 0
  else if req < padLow n then (s1.flag (TB_FSYNC_STATUS_EARLY input)).raise 0x1020 input (unsignedOf 32 asked)
  else s1

/-- A pad region closes with no edge (R52). -/
def State.padClose (s : State) (i input t0 t1 : Nat) : State :=
  s.updBurst i (fun b => { b with padClosed := some (input, t0, t1) })

/-- A pad vector plays: the k-th repetition of the block's last vector, a vector of its own (R51, R151). -/
def State.playPad (s : State) (i input n : Nat) (v : Vec) (k : Nat) (t0 : Nat) (edge : Option Nat) (rest : List LaneItem) : State :=
  let w := { v with id := v.id + k }
  let s1 := s.updSpec i (fun x => { x with window := insertEntry (WinEntry.of w) x.window })
  ((if k = 0 then s1.laneDraw i else s1).setLane i (.frame input n v (k + 1) (some t0) edge :: rest)).playVec i w

/-- The pads requested by the first accepted edge, once it is known: (B - T0) / P. -/
def padsAsked (t0 per : Nat) (edge : Option Nat) : Option Nat := edge.map (fun r => ceilDiv (r - t0) per)

/-- Whether a waiting instant has come at a boundary. -/
def ready (r : Option Nat) (c : Nat) : Bool :=
  match r with
  | none => false
  | some t => decide (t ≤ c)

/-- The pins at a cycle boundary: items of the lane act in order until a cycle has been started (R44, R46, R51, R53, R109, R144,
R204). -/
def State.laneGo (s : State) (i : Nat) : Nat → State
  | 0 => s
  | fuel + 1 =>
    let s := s.endDue i
    let t := s.site i
    let c := t.burst.cycleEnd
    match t.lane with
    | [] => if t.burst.end_.isSome then s else s.laneEmpty i
    | .vec v :: rest => (((s.laneDraw i).setLane i rest).playVec i v).laneLow i t.laneVecs
    | x :: rest =>
      if t.burst.end_.isSome && (x.waits || x.resumes) then State.laneGo (s.setLane i rest) i fuel
      else
        match x with
        | .lvl l => State.laneGo ((s.setLane i rest).lvlApply i l c) i fuel
        | .retime _ per => State.laneGo ((s.setLane i rest).retime i per) i fuel
        | .hold (some 0) _ => State.laneGo (s.setLane i rest) i fuel
        | .hold (some (n + 1)) _ => (s.setLane i (.hold (some n) true :: rest)).playHold i
        | .hold none _ => (s.setLane i (.hold none true :: rest)).playHold i
        | .holdResume =>
          if s.get (SITE_STR_STATUS_STATE i) = 3 || (decide (t.laneVecs < s.lead i) && !s.issueOver i) then s.flowHold i
          else State.laneGo (s.setLane i rest) i fuel
        | .sync since r =>
          if ready r c then State.laneGo (s.setLane i rest) i fuel
          else (s.setLane i (.sync (some (since.getD c)) r :: rest)).syncHold i
        | .waitf inp since r =>
          if ready r c then State.laneGo (s.setLane i rest) i fuel
          else (s.setLane i (.waitf inp (some (since.getD c)) r :: rest)).playHold i
        | .frame inp n v k t0 edge =>
          let per := if s.coherent i then t.burst.period else v.period
          let start := t0.getD c
          match padsAsked start per edge with
          | some req =>
            if max req (padLow n) ≤ k ∧ req ≤ n + 255 then
              State.laneGo ((s.setLane i rest).frameStart inp n k req false) i fuel
            else if n + 255 ≤ k then State.laneGo ((s.setLane i rest).frameStart inp n k (n + 255) true) i fuel
            else s.playPad i inp n v k start edge rest
          | none =>
            if n + 255 ≤ k then State.laneGo (((s.setLane i rest).padClose i inp start c).frameStart inp n k (n + 255) true) i fuel
            else s.playPad i inp n v k start edge rest
        | .vec _ => s

/-- EVENT conditions read their bit at the end of their last cycle (R139). -/
def State.sampleEvents (s : State) (i c : Nat) : State :=
  s.updSpec i (fun x =>
    { x with decisions := x.decisions.map (fun d =>
        if d.cond = 4 && d.event.isNone && ready d.cEnd c then { d with event := some (bitOf s.evtState (d.csel % 32)) } else d) })

/-- The next cycle boundary of a site in a burst (R69, R150): an ABORT that waits takes effect, then the lane is served. -/
def State.vectorCycle (s : State) (i : Nat) : State :=
  let t := s.site i
  if !s.inBurst i || !t.burst.started then s
  else
    let c := t.burst.cycleEnd
    let s1 := (s.at_ c).sampleEvents i c
    let s2 := match t.burst.abort with
      | none => s1
      | some e => s1.endNow i e
    (s2.laneGo i (t.lane.length + 2)).settle i

end Sys2Proof.Machine
end

