-- ==== Sys2Proof/Machine/Play.lean ====
section
/-! DEFINITION. What happens at the pins and on the way back (R69, R77 to R84), and the resolution of decisions (R167 to R184): the
commands of one vector's life after its issue. -/
namespace Sys2Proof.Machine

/-! Limits. -/

/-- The instant before which every edge of a pin is placed: no vector still to start can place one before it (R69). A pin of a
site that drains with an empty lane plays the edges before its last cycle's end (R83). -/
def State.edgeLimit (s : State) (p : Nat) : Nat :=
  match s.pinOwner p with
  | none => 0
  | some i =>
    let t := s.site i
    if !s.inBurst i then 0
    else if t.burst.end_.isSome ∧ t.laneVecs = 0 then t.burst.cycleEnd
    else ((t.burst.cycleEnd : Int) + s.deskew p).toNat

/-- Whether a pin has a drive-side edge before an instant. -/
def State.edgeDue (s : State) (p lim : Nat) : Bool := (s.pin p).edges.any (fun e => decide (e.pos < lim))

/-- Whether a pin has a strobe before an instant. -/
def State.strobeDue (s : State) (p lim : Nat) : Bool := (s.pin p).strobes.any (fun e => decide (e.pos < lim))

/-- Whether a clock-mode pin has a toggle before an instant. -/
def State.toggleDue (s : State) (p lim : Nat) : Bool :=
  match (s.pin p).clock with
  | none => false
  | some r0 =>
    let r := s.clockChange p r0
    decide ((togglePos r (s.clockM p) (s.clockD p) r.next).toNat < lim)

/-! Drive-side edges and toggles. -/

/-- The next drive-side edge of a pin reaches its position (R77 to R79). -/
def State.driveEdge (s : State) (p : Nat) : State :=
  match firstEdge (s.pin p).edges with
  | none => s
  | some t => if t < s.edgeLimit p then (s.at_ t).driveNext p else s

/-- The next toggle of a clock-mode pin (R48, R49). -/
def State.toggleGo (s : State) (p : Nat) : State :=
  match s.pinOwner p with
  | none => s
  | some i => if s.inBurst i then s.clockToggle p (s.site i).burst.cycleEnd else s

/-! Strobes. -/

/-- The earliest strobe, the first of those at one position. -/
def firstStrobe : List Strobe → Option Strobe
  | [] => none
  | x :: r =>
    match firstStrobe r with
    | none => some x
    | some y => if y.pos < x.pos then some y else some x

/-- A result on its way to the sequencer; it is free where the spec leaves it undefined (R80, R86), and a fail on a tripped pin
(R105, R221). -/
def State.pushResult (s : State) (i p : Nat) (x : Strobe) (num : Nat) (fail : Bool) : State :=
  let free := (s.pin p).undefVecs.contains x.vec
  let trip := s.disconnected p
  let f := trip || (if free then Config.freeBit s.fresh else fail)
  (if free then s.tickFresh else s).updSpec i (fun t =>
    { t with returns := t.returns ++ [⟨p, x.vec, num, x.pos, f, (s.pin p).highFlag, trip⟩] })

/-- A strobe samples the comparator flags (R81, R219): an edge strobe and the end of a window give a result, the start of a window
opens it, and a sample for the transaction engine goes back to it (R318). -/
def State.sample (s0 : State) (i p : Nat) (x : Strobe) : State :=
  let q := s0.pin p
  let ok := passes x.expect q.lowFlag q.highFlag
  let keep := match x.kind with
    | .capture _ _ => q.lastStrobe
    | _ => some (x.pos, x.vec)
  let s := s0.updPin p (fun q => { q with strobes := q.strobes.erase x, lastStrobe := keep })
  match x.kind with
  | .edge => s.pushResult i p x x.num (!ok)
  | .windowOpen => s.updPin p (fun q => { q with windows := q.windows ++ [⟨x.vec, x.expect, !ok⟩] })
  | .windowClose =>
    let failed := match q.windows.find? (fun w => decide (w.vec = x.vec)) with
      | none => true
      | some w => w.failed
    (s.pushResult i p x 0 (failed || !ok)).updPin p (fun q =>
      { q with windows := q.windows.filter (fun w => decide (w.vec ≠ x.vec)) })
  | .capture num use =>
    if q.undefVecs.contains x.vec then
      (s.tickFresh.updXe (fun z => { z with returns := z.returns ++ [(num, use, Config.freeBit s.fresh)] }))
    else (s.updXe (fun z => { z with returns := s.xe.returns ++ [(num, use, q.highFlag)] }))

/-- The next strobe of a pin reaches its position. -/
def State.strobeSample (s : State) (p : Nat) : State :=
  match s.pinOwner p, firstStrobe (s.pin p).strobes with
  | some i, some x => if x.pos < s.edgeLimit p then (s.at_ x.pos).sample i p x else s
  | _, _ => s

/-! Return of results. -/

/-- Whether every strobe of a group in a vector has been sampled: they return as a unit, with one parity bit (R558). -/
def State.groupSampled (s : State) (g vec : Nat) : Bool :=
  (List.range 8).all (fun k =>
    (s.pin (8 * g + k)).strobes.all (fun x => decide (x.vec ≠ vec) || !x.kind.result))

/-- A result that counts as a fail: masked results pass (R220). -/
def State.countsFail (s : State) (i : Nat) (r : StrobeResult) : Bool := r.fail && !s.masked i r.pin

/-- The last active strobe on the pin of a PIN_STATE condition (R139). -/
def Decision.pinSeen (d : Decision) (r : StrobeResult) : Decision :=
  if d.csel = r.pin ∧ d.pinAt.getD 0 ≤ r.pos then { d with pinHigh := r.high, pinAt := some r.pos } else d

/-- The results of one group in one vector taken into the Transit window and the vector's decision (R169, R179). -/
def State.takeResults (s : State) (i vec : Nat) (rs : List StrobeResult) : State :=
  let fails := (rs.filter (fun r => s.countsFail i r)).map (fun r => (r.pin, r.num))
  let trip := rs.any (fun r => r.trip && s.countsFail i r)
  let dec := match (s.site i).spec.window.find? (fun e => decide (e.vec.id = vec)) with
    | none => none
    | some e => e.vec.dec
  let s1 := s.updEntry i vec (fun e =>
    { e with pending := e.pending - rs.length, fails := e.fails ++ fails, trip := e.trip || trip })
  match dec with
  | none => s1
  | some d => s1.updDec i d (fun d =>
      rs.foldl (fun d r => d.pinSeen r) { d with returned := d.returned + rs.length, fails := d.fails + fails.length })

/-- The oldest compare results return to the sequencer (R169): those of one group in one vector, all of them fails on a parity
error (R558). -/
def State.resultReturn (s : State) (i : Nat) (parity : Bool) : State :=
  match (s.site i).spec.returns.find? (fun r => s.groupSampled (r.pin / 8) r.vec) with
  | none => s
  | some r =>
    let g := r.pin / 8
    let mine (x : StrobeResult) : Bool := decide (x.pin / 8 = g) && decide (x.vec = r.vec)
    let rs := ((s.site i).spec.returns.filter mine).map (fun x => { x with fail := x.fail || parity })
    let s1 := s.updSpec i (fun t => { t with returns := t.returns.filter (fun x => !mine x) })
    let s2 :=
      if parity then
        ((s1.taint i taintFrontend).raiseIf (!(s.site i).burst.parityEvt) 0xE032 noSource g).updBurst i (fun b =>
          { b with parityEvt := true })
      else s1
    (s2.takeResults i r.vec rs).settle i

/-! Decisions. -/

/-- The outcome of a decision whose results are known (R139). -/
def State.outcome (s : State) (i : Nat) (d : Decision) : Bool :=
  (match d.cond with
    | 0 => decide (d.fails = 0)
    | 1 => decide (d.fails ≠ 0)
    | 2 => d.pinHigh
    | 3 => bitOf (s.get (SITE_FLAGS_FLAG i)) (d.csel % 16)
    | 4 => d.event.getD (bitOf s.evtState (d.csel % 32))
    | _ => d.fsync) != d.inv

/-- Whether what a decision depends on is known (R169, R181). -/
def State.decisionKnown (s : State) (i : Nat) (d : Decision) : Bool :=
  d.lastVec.isSome && d.alt.isSome && d.cEnd.isSome &&
    (match d.cond with
      | 3 => (s.site i).spec.window.all (fun e => decide (d.lastVec.getD 0 < e.vec.id))
      | 4 => true
      | 5 => true
      | _ => decide (d.returned = d.placed))

/-- The instant before which a decision cannot be known (R139, R169): T_ret, which is self-timed, apart. -/
def State.decisionAt (s : State) (d : Decision) : Nat :=
  let c := d.cEnd.getD 0
  match d.cond with
  | 4 => c
  | 5 => c + (s.get (TB_FSYNC_CFG_FILTER (d.csel % 4)) + 1) * tickLsb
  | 3 => if d.placed = 0 then c else 0
  | _ => (if d.strobed then d.latest else max d.latest c) + 37500

/-- Measured latency and counts of a resolved decision (R170, R184, R189, R192); a fenced one never goes against its prediction. -/
def State.decisionStat (s : State) (i last : Nat) (mis : Bool) : State :=
  let n := min 4095 ((s.site i).spec.nextVec - last / 2 ^ 25 - 1)
  let s1 := ((s.set (SITE_SPEC_DL_LAST i) n).set (SITE_SPEC_DL_MAX i) (max n (s.get (SITE_SPEC_DL_MAX i)))).count
    (SITE_SPEC_DECISIONS_COUNT i) 1
  (if mis then s1.count (SITE_SPEC_MISPRED_COUNT i) 1 else s1).updSpec i (fun x => { x with counted := x.counted ++ [(last, mis)] })

/-- What the end of an MLOOP leaves (R141, R172, R184): it holds once the last vector of its last iteration has committed (R179). -/
def State.loopDone (s : State) (i vec : Nat) (l : LoopEnd) : State :=
  if (s.site i).spec.window.any (fun e => decide (e.vec.id = vec)) then s.updEntry i vec (fun e => { e with loopEnd := some l })
  else s.commitLoop i (some l)

/-- A decision that goes as predicted (R174): an end reason on the path holds once no decision is left (R182). -/
def State.resolveAs (s : State) (i : Nat) (d : Decision) : State :=
  let s1 := (s.updSpec i (fun x => { x with decisions := x.decisions.drop 1 })).releaseAlt i d.id
  let s2 := if d.mloop && d.limit then s1.loopDone i (d.lastVec.getD 0) ⟨d.iter, true, d.cont, 0⟩ else s1
  let s3 := if d.fenced then s2.keepWhy i .fence else s2
  s3.endDue i

/-- Lane items after the last issued vector, without the hold vectors of a HOLD block that were never reached. -/
def dropHolds (l : List LaneItem) : List LaneItem :=
  let r := l.reverse
  ((r.takeWhile (fun x => !x.isVec)).filter (fun x => match x with | .hold _ _ => false | _ => true) ++
    r.dropWhile (fun x => !x.isVec)).reverse

/-- A JC taken against its prediction: its target is checked as that of any jump (R136). -/
def State.checkAlt (s : State) (i : Nat) (d : Decision) : State :=
  match d.alt with
  | some (.go q) => if !d.mloop && !d.predTaken then s.checkTarget i q.pos else s
  | _ => s

/-- A decision that goes against its prediction (R174, R138): its overrun vectors are discarded, and the sequencer continues on the
other path. -/
def State.resolveOther (s : State) (i : Nat) (d : Decision) : State :=
  let last := d.lastVec.getD 0
  let r := s.overrun i last
  let s1 := r.1.updSite i (fun t =>
    { t with
      lane := dropHolds t.lane
      spec :=
        { t.spec with
          decisions := [] }
      burst := { t.burst with endPending := none } })
  let s2 := s1.set (SITE_SEQ_STATUS_REFILL_WAIT i) 0
  let u := if d.mloop then s2.loopDone i last ⟨d.iter, false, d.cont, if d.fenced then 0 else min (2 ^ 32 - 1) r.2⟩ else s2
  let s3 :=
    if !d.fenced && u.cfgBit i (SITE_SPEC_CFG_MISPRED_EVT i) && !(u.site i).spec.mispredEvt then
      (u.raise 0x2010 i r.2).updSpec i (fun x => { x with mispredEvt := true })
    else u
  if (s3.site i).burst.end_.isSome then
    match d.alt with
    | some (.go q) => (s3.updSeq i (fun _ => { q with blk := none })).seqStat i
    | some (.stop q _) => (s3.updSeq i (fun _ => q)).seqStat i
    | none => s3
  else
    let s4 := match d.alt with
      | none => s3
      | some a => (s3.checkAlt i d).takePath i a
    (s4.engineRestart i (some d.id)).updSpec i (fun x =>
      { x with restart := if d.fenced then .fence else .restart, restartPause := some d.pause })

/-- A decision's outcome becomes known (R173, R174): the oldest one of a site, once what it depends on is known. -/
def State.decisionResolve (s0 : State) (i : Nat) : State :=
  match (s0.site i).spec.decisions with
  | [] => s0
  | d :: _ =>
    if !s0.decisionKnown i d then s0
    else
      let s := s0.at_ (s0.decisionAt d)
      let why := s.stopWhy i
      let same := decide (s.outcome i d = d.predTaken)
      let s1 := s.decisionStat i (d.lastVec.getD 0) (!same && !d.fenced)
      let s2 := if same then s1.resolveAs i d else s1.resolveOther i d
      let s3 :=
        if (s2.site i).spec.restart = .free ∧ (why = .fence ∨ why = .pendingEnd) then s2.keepWhy i .fence
        else if (s2.site i).spec.restart = .free ∧ why = .stall then s2.keepWhy i .stall
        else s2
      (((s3.applyLeaves i).specStat i).settle i)

/-! The end of a burst at the pins (R83). -/

/-- A strobe that is discarded at burst end gives no result (R83, R221). The bit that a transaction would have captured with it is a free value: the
spec does not state it (log 137, DESIGN CHOICE). -/
def State.dropStrobe (s : State) (i : Nat) (x : Strobe) : State :=
  let gives := match x.kind with
    | .edge => true
    | .windowClose => true
    | _ => false
  match x.kind with
  | .capture num use => s.tickFresh.updXe (fun z => { z with returns := z.returns ++ [(num, use, Config.freeBit s.fresh)] })
  | _ =>
  if !gives then s
  else
    let dec := match (s.site i).spec.window.find? (fun e => decide (e.vec.id = x.vec)) with
      | none => none
      | some e => e.vec.dec
    let s1 := s.updEntry i x.vec (fun e => { e with pending := e.pending - 1 })
    match dec with
    | none => s1
    | some d => s1.updDec i d (fun d => { d with placed := d.placed - 1 })

/-- A pin applies its idle state at the end of its site's burst (R83): once every edge, strobe and toggle before the end of the last
cycle has been played. Carried ones are discarded. -/
def State.idleApply (s : State) (i p : Nat) : State :=
  let t := s.site i
  let c := t.burst.cycleEnd
  if s.siteSt i ≠ stDraining ∨ t.laneVecs ≠ 0 ∨ s.pinOwner p ≠ some i ∨ (s.pin p).idle ∨ s.edgeDue p c ∨ s.strobeDue p c ∨
      s.toggleDue p c then s
  else
    let s1 := (s.pin p).strobes.foldl (fun u x => u.dropStrobe i x) (s.at_ c)
    let s2 := s1.updPin p (fun q => { q with edges := [], strobes := [], windows := [] })
    (((s2.applyIdle p c).clockStop p).settle i)

/-! HOLD (R144). -/

/-- The last counted hold vector of a HOLD block ends. -/
def State.holdCountEnd (s : State) (i : Nat) : State :=
  match (s.site i).lane with
  | .hold (some 0) _ :: rest => if s.inBurst i then (s.at_ (s.site i).burst.cycleEnd).setLane i rest else s
  | _ => s

/-- SITE_SEQ_CMD.RESUME (R144, R156): a HOLD with OPND = 0 ends at the next cycle boundary. -/
def State.seqResume (s : State) (i : Nat) : State :=
  match (s.site i).lane with
  | .hold none true :: rest => s.setLane i (.hold (some 0) true :: rest)
  | _ => s

/-! The commands. -/

/-- BLOCK_DECODE: the sequencer of site i decodes its next block, or carries out the opcode of the present one (R137); `ecc` is what
the check meets in the header. -/
def execBlockDecode (i : Fin 16) (ecc : Ecc) (s : State) : Host.Outcome State Fault Refusal := .next (s.blockDecode i ecc)

/-- VEC (R135). -/
def execVec (i : Fin 16) (s : State) : Host.Outcome State Fault Refusal := .next (s.opcodeRow i 0x00 State.opCont)

/-- RPT (R137). -/
def execRpt (i : Fin 16) (s : State) : Host.Outcome State Fault Refusal := .next (s.opcodeRow i 0x01 State.opRpt)

/-- LBEG (R140). -/
def execLbeg (i : Fin 16) (s : State) : Host.Outcome State Fault Refusal := .next (s.opcodeRow i 0x02 State.opLbeg)

/-- LEND (R140). -/
def execLend (i : Fin 16) (s : State) : Host.Outcome State Fault Refusal := .next (s.opcodeRow i 0x03 State.opLend)

/-- MLOOP (R141). -/
def execMloop (i : Fin 16) (s : State) : Host.Outcome State Fault Refusal := .next (s.opcodeRow i 0x04 State.opMloop)

/-- JMP (R137). -/
def execJmp (i : Fin 16) (s : State) : Host.Outcome State Fault Refusal := .next (s.opcodeRow i 0x05 State.opJmp)

/-- JC (R137). -/
def execJc (i : Fin 16) (s : State) : Host.Outcome State Fault Refusal := .next (s.opcodeRow i 0x06 State.opJc)

/-- CALL (R142). -/
def execCall (i : Fin 16) (s : State) : Host.Outcome State Fault Refusal := .next (s.opcodeRow i 0x07 State.opCall)

/-- RET (R142). -/
def execRet (i : Fin 16) (s : State) : Host.Outcome State Fault Refusal := .next (s.opcodeRow i 0x08 State.opRet)

/-- HOLD (R144). -/
def execHold (i : Fin 16) (s : State) : Host.Outcome State Fault Refusal := .next (s.opcodeRow i 0x09 State.opHold)

/-- HOLD_COUNT_END (R144). -/
def execHoldCountEnd (i : Fin 16) (s : State) : Host.Outcome State Fault Refusal := .next (s.holdCountEnd i)

/-- NEXT (R143). -/
def execNext (i : Fin 16) (s : State) : Host.Outcome State Fault Refusal := .next (s.opcodeRow i 0x0A State.opNext)

/-- LVL (R108). -/
def execLvl (i : Fin 16) (s : State) : Host.Outcome State Fault Refusal := .next (s.opcodeRow i 0x0B State.opLvl)

/-- RETIME (R46). -/
def execRetime (i : Fin 16) (s : State) : Host.Outcome State Fault Refusal := .next (s.opcodeRow i 0x0C State.opRetime)

/-- FRAME (R51). -/
def execFrame (i : Fin 16) (s : State) : Host.Outcome State Fault Refusal := .next (s.opcodeRow i 0x0D State.opFrame)

/-- MARK (R145): the marker goes with the block's first vector. -/
def execMark (i : Fin 16) (s : State) : Host.Outcome State Fault Refusal := .next (s.opcodeRow i 0x0E State.opCont)

/-- SYNC (R44). -/
def execSync (i : Fin 16) (s : State) : Host.Outcome State Fault Refusal := .next (s.opcodeRow i 0x0F State.opSync)

/-- WAITF (R53). -/
def execWaitf (i : Fin 16) (s : State) : Host.Outcome State Fault Refusal := .next (s.opcodeRow i 0x10 State.opWaitf)

/-- XACT (R145, R308). -/
def execXact (i : Fin 16) (s : State) : Host.Outcome State Fault Refusal := .next (s.opcodeRow i 0x11 State.opXact)

/-- STOP (R145). -/
def execStop (i : Fin 16) (s : State) : Host.Outcome State Fault Refusal :=
  .next (s.opcodeRow i 0x12 (fun u j _ => u.seqDone j ⟨.stop, 0⟩))

/-- HALT (R145). -/
def execHalt (i : Fin 16) (s : State) : Host.Outcome State Fault Refusal :=
  .next (s.opcodeRow i 0x13 (fun u j _ => u.seqDone j (haltRec 0x10)))

/-- VECTOR_ISSUE: the sequencer of site i, or in XACT the transaction engine, passes its next vector to the lanes (R168, R317); `ecc`
is what the check meets in its words. -/
def execVectorIssue (i : Fin 16) (ecc : Ecc) (s : State) : Host.Outcome State Fault Refusal :=
  .next (if s.siteSt i = stXact then s.xeIssue i else s.seqIssue i ecc)

/-- VECTOR_CYCLE: the next cycle of site i starts at the pins (R69). -/
def execVectorCycle (i : Fin 16) (s : State) : Host.Outcome State Fault Refusal := .next (s.vectorCycle i)

/-- DRIVE_EDGE: the next drive-side edge of pin p reaches its position (R79). -/
def execDriveEdge (p : Fin 512) (s : State) : Host.Outcome State Fault Refusal := .next (s.driveEdge p)

/-- STROBE_SAMPLE: the next strobe of pin p samples the comparator flags (R81). -/
def execStrobeSample (p : Fin 512) (s : State) : Host.Outcome State Fault Refusal := .next (s.strobeSample p)

/-- CLOCK_TOGGLE: clock-mode pin p reaches its next toggle (R48). -/
def execClockToggle (p : Fin 512) (s : State) : Host.Outcome State Fault Refusal := .next (s.toggleGo p)

/-- RESULT_RETURN: the oldest compare results of site i return (R169), with or without a parity error (R558). -/
def execResultReturn (i : Fin 16) (parity : Bool) (s : State) : Host.Outcome State Fault Refusal :=
  .next (s.resultReturn i parity)

/-- DECISION_RESOLVE: the oldest decision of site i resolves (R174). -/
def execDecisionResolve (i : Fin 16) (s : State) : Host.Outcome State Fault Refusal := .next (s.decisionResolve i)

/-- FAIL_LOG_WRITE: the fail-log writer of site i takes its next record (R231). -/
def execFailLogWrite (i : Fin 16) (s : State) : Host.Outcome State Fault Refusal := .next ((s.flogWrite i).settle i)

/-- IDLE_APPLY: pin p of site i applies its idle state at burst end (R83). -/
def execIdleApply (i : Fin 16) (p : Fin 512) (s : State) : Host.Outcome State Fault Refusal := .next (s.idleApply i p)

/-- SEQ_RESUME: SITE_SEQ_CMD.RESUME of site i (R144). -/
def execSeqResume (i : Fin 16) (s : State) : Host.Outcome State Fault Refusal := .next (s.seqResume i)

end Sys2Proof.Machine
end

