-- ==== Sys2Proof/Machine/PinRegs.lean ====
section
/-! DEFINITION. The registers of a PIN block that have a behaviour of their own (R82, R84, R86, R91, R102, R106, R108, R295), and the
level sample instant (R104 to R114). -/
namespace Sys2Proof.Machine

/-- A register write, with its audit record or, as a target of a broadcast, without one (R23). -/
def State.regPut (s : State) (o : Origin) (quiet : Bool) (a : Nat) (v : Word) : State :=
  if quiet then s.regWriteQuiet o a v else s.regWrite o a v

/-- The BAR0 offset of a register of pin p. -/
def pinReg (p off : Nat) : Nat := 0x8000000 + 0x10000 * p + off

/-- Whether a calibration step is in progress on a pin (R382). -/
def State.inStep (s : State) (p : Nat) : Bool := s.cal.steps.any (fun c => decide (c.pin = p))

/-- A write to PIN_IDLE: at once while the pin is idle (R82). -/
def State.pinIdleWrite (s : State) (o : Origin) (quiet : Bool) (p : Nat) (v : Word) : State :=
  let s1 := s.regPut o quiet (pinReg p 0) v
  if (s.pin p).idle then s1.applyIdle p s1.now else s1

/-- The word a register would hold after a write. -/
def State.wouldStore (s : State) (o : Origin) (a : Nat) (v : Word) : Word :=
  match lookupReg a with
  | none => s.reg a
  | some d => d.store (s.lockOf o a) (s.reg a) v

/-- The record of a write that a lock discards, where the write itself takes no effect (R5). -/
def State.refusedWrite (s : State) (o : Origin) (a : Nat) (v : Word) : State :=
  match lookupReg a with
  | none => s
  | some d => s.auditRefused o a d v

/-- A write that takes effect only while a unit is idle: otherwise the register is kept, the busy bit is set if the write
would have changed it (R606), and an attempt on a locked field is recorded (R5). -/
def State.idleWrite (s : State) (o : Origin) (quiet : Bool) (a : Nat) (v : Word) (free : Bool) (busy : Fld) : State :=
  if free then s.regPut o quiet a v
  else
    let s1 := s.flagIf (decide (s.wouldStore o a v ≠ s.reg a)) busy
    if quiet then s1 else s1.refusedWrite o a v

/-- A write to PIN_CLK_CFG or PIN_CLK_PHASE (R84). -/
def State.clkWrite (s : State) (o : Origin) (quiet : Bool) (p off : Nat) (v : Word) : State :=
  s.idleWrite o quiet (pinReg p off) v (s.pinFree p) (PIN_TSTAT_CLK_BUSY p)

/-- A write to PIN_TSTAT: clearing MERGED clears the count (R91). -/
def State.tstatWrite (s : State) (o : Origin) (quiet : Bool) (p : Nat) (v : Word) : State :=
  let s1 := s.regPut o quiet (pinReg p 0x10) v
  if fieldGet 0 1 v ≠ 0 then s1.set (PIN_MERGE_COUNT p) 0 else s1

/-- The vectors of a lane. -/
def laneVec : LaneItem → Option Vec
  | .vec v => some v
  | .frame _ _ v _ _ _ => some v
  | _ => none

/-- Whether a timing register offset belongs to what a timeset plays on a pin: its edge times, its waveset choice, and the entries
of that waveset. -/
def State.tableUses (s : State) (p off ts : Nat) : Bool :=
  if off < 0x1000 then decide ((off - 0x400) / 0x40 = s.get (PIN_TS_CTRL_WAVESET p ts)) else decide ((off - 0x1000) / 0x40 = ts)

/-- Whether the pins of a site hold now: its last cycle was a hold vector's, and it has not gone on since. -/
def State.holding (s : State) (i : Nat) : Bool :=
  decide (s.siteSt i = stHolding) ||
    (match (s.site i).lane with
      | .sync (some _) _ :: _ => true
      | _ => false)

/-- The timesets in use at the pins of a site, with the vectors they belong to: of the vectors on their way, and of the hold vector while
the site holds (R144), whose edges count with the vector played last. -/
def State.tsInUse (s : State) (i : Nat) : List (Nat × Nat) :=
  let t := s.site i
  ((t.spec.window.map (fun e => e.vec) ++ t.lane.filterMap laneVec).map (fun x => (x.ts, x.id))) ++
    (if s.holding i then
      [(s.cfg i (SITE_HOLD_CFG_TS i),
        match t.burst.recent with
        | x :: _ => x.2.1
        | [] => 0)]
    else [])

/-- A write of a timeset or waveset (R86): where a vector of a running burst, or its hold vector, uses it, the waveform and results of the
pin are undefined in every vector issued before the write. -/
def State.tableWrite (s : State) (o : Origin) (quiet : Bool) (p off : Nat) (v : Word) : State :=
  let s1 := s.regPut o quiet (pinReg p off) v
  match s.pinOwner p with
  | none => s1
  | some i =>
    if !s.inBurst i then s1
    else
      let vs := s.tsInUse i
      if vs.any (fun x => s.tableUses p off x.1) then
        s1.updPin p (fun q =>
          { q with undefVecs := q.undefVecs ++ vs.map (fun x => x.2) ++ q.edges.map (fun e => e.vec) ++ q.strobes.map (fun e => e.vec) })
      else s1

/-- Whether an offset of the timing range of a PIN block holds a waveset entry or a timeset word; the others are reserved (R96). -/
def timingWord (off : Nat) : Bool :=
  (decide (0x400 ≤ off) && decide (off < 0x500)) || (decide (0x1000 ≤ off) && decide (off < 0x2000) && decide ((off - 0x1000) % 0x40 < 0x24))

/-- A write to PIN_CLAMP of any pin of a group sets the group's clamps, held at its lowest pin (R102); they act from the next sample
instant (R103). -/
def State.clampWrite (s : State) (o : Origin) (quiet : Bool) (p : Nat) (v : Word) : State :=
  let home := p / 8 * 8
  let a := pinReg home 0x2004
  let old := s.reg a
  let s1 := s.regWriteQuiet o a v
  let s2 := match lookupReg a with
    | none => s1
    | some d => if quiet then s1 else s1.auditChange o (pinReg p 0x2004) d old (s1.reg a)
  s2.updPin home (fun q => { q with clampAt := q.clampAt ++ [(s.now, s2.reg a)] })

/-- PIN_LVL_CMD with APPLY (R108). -/
def State.levelCmd (s : State) (p : Nat) (v : Word) : State :=
  if fieldGet 8 1 v = 0 then s else s.levelEnter p (fieldGet 0 3 v) s.now true

/-- A write to PIN_LVL_CFG, which the slew limiter takes up at the first sample instant strictly after it (R109, R113). -/
def State.lvlCfgWrite (s : State) (o : Origin) (quiet : Bool) (p : Nat) (v : Word) : State :=
  let old := s.lvlCfgAt p s.now
  (s.regPut o quiet (pinReg p 0x2008) v).updPin p (fun q => { q with lvlCfg := some (s.now, old) })

/-- A write to PIN_FESTAT: 1 at TRIP re-arms a tripped pin (R106). -/
def State.festatWrite (s : State) (o : Origin) (quiet : Bool) (p : Nat) (v : Word) : State :=
  let trip := s.bit (PIN_FESTAT_TRIP p)
  let s1 := s.regPut o quiet (pinReg p 0x2014) (fieldPut 0 1 v 0)
  if fieldGet 0 1 v = 0 || !trip then s1
  else if s.pinFree p then
    (s1.set (PIN_FESTAT_TRIP p) 0).updPin p (fun q => { q with rearm := some s.now })
  else s1.flag (PIN_FESTAT_REARM_BUSY p)

/-- A write to PIN_TDC_CMD (R275, R280, R295). -/
def State.tdcCmd (s : State) (p : Nat) (v : Word) : State :=
  let s1 := if fieldGet 1 1 v = 0 then s
    else if s.tdcSt p = 4 then s.flag (PIN_TDC_STAT_BUSY p)
    else s.tdcCancel p 0
  if fieldGet 0 1 v = 0 then s1 else s1.tdcArm p

/-- A write to a register of one PIN block that takes effect. -/
def State.pinEffect (s : State) (o : Origin) (quiet : Bool) (p off : Nat) (v : Word) : State :=
  if off = 0 then s.pinIdleWrite o quiet p v
  else if off = 4 ∨ off = 8 then s.clkWrite o quiet p off v
  else if off = 0x10 then s.tstatWrite o quiet p v
  else if timingWord off then s.tableWrite o quiet p off v
  else if off = 0x2004 then s.clampWrite o quiet p v
  else if off = 0x2008 then s.lvlCfgWrite o quiet p v
  else if off = 0x200C then s.levelCmd p v
  else if off = 0x2014 then (s.closeDue p s.now).festatWrite o quiet p v
  else if off = 0x401C then s.tdcCmd p v
  else s.regPut o quiet (pinReg p off) v

/-- Whether a calibration step defers a write at an offset of a PIN block to a pin (R382): PIN_CLAMP is a register of all eight pins of the
group (R102), and PIN_TDC_CMD answers at once (R383). -/
def stepHolds (p off : Nat) (c : CalStep) : Bool :=
  if off = 0x2004 then decide (c.pin / 8 = p / 8) else decide (c.pin = p) && decide (off ≠ 0x401C)

/-- A write to a register of one PIN block: during a calibration step on the pin it is stored and takes effect at the end of the step (R382). -/
def State.pinWrite (s : State) (o : Origin) (quiet : Bool) (p off : Nat) (v : Word) : State :=
  match s.cal.steps.find? (stepHolds p off) with
  | none => s.pinEffect o quiet p off v
  | some c =>
    s.updCal (fun z => { z with
      steps := z.steps.map (fun x => if x.pin = c.pin then { x with held := x.held ++ [⟨o, quiet, p, off, v⟩] } else x) })

/-- The word a read of a PIN register returns: PIN_CLAMP of any pin of a group is the group's (R102). -/
def State.pinRead (s : State) (p off : Nat) : Word :=
  if off = 0x2004 then s.reg (pinReg (p / 8 * 8) 0x2004) else s.reg (pinReg p off)

/-! Sample instants. -/

/-- The sample instant that a LEVEL_SAMPLE serves: the present one if it has not been served, else the next (R109). -/
def State.sampleInstant (s : State) : Nat :=
  if s.isSample s.now && decide (s.tb.lastSample ≠ some s.now) then s.now else s.nextSample s.now

/-- What every powered pin does at a sample instant; none before the first lock (R39, R109). -/
def State.levelSample (s : State) (volts : List (Nat × Int)) (amps : List (Nat × Nat)) : State :=
  if s.tb.zero.isNone then s
  else
    let t := s.sampleInstant
    let s1 := (s.at_ t).updTb (fun z => { z with lastSample := some t })
    (List.range 512).foldl (fun u p => if u.octOff (p / 64) then u else u.pinSample t volts amps p) s1

/-- A DAC output that deviates by more than 8 mV from its code in Twilight (R114). -/
def State.excursion (s : State) (x : Nat × Nat) : State := (s.flag (PIN_FESTAT_EXCURSION x.1)).raise 0xE043 x.1 x.2

/-! The commands. -/

/-- PIN_IDLE_WRITE: a write to PIN_IDLE of pin p (R82). -/
def execPinIdleWrite (o : Origin) (p : Fin 512) (v : Word) (s : State) : Host.Outcome State Fault Refusal :=
  .next (s.pinWrite o false p 0 v)

/-- CLOCK_CFG_WRITE: a write to PIN_CLK_CFG, or to PIN_CLK_PHASE, of pin p (R84). -/
def execClockCfgWrite (o : Origin) (p : Fin 512) (phase : Bool) (v : Word) (s : State) : Host.Outcome State Fault Refusal :=
  .next (s.pinWrite o false p (if phase then 8 else 4) v)

/-- TIMING_TABLE_WRITE: a write to a waveset entry (`off` from 0x400) or to a timeset word (from 0x1000) of pin p (R86); a write to a
reserved offset is discarded (R96). -/
def execTimingTableWrite (o : Origin) (p : Fin 512) (off : Nat) (v : Word) (s : State) : Host.Outcome State Fault Refusal :=
  .next (if timingWord off then s.pinWrite o false p off v else s)

/-- LEVEL_SAMPLE: the next sample instant (R112); `volts` lists voltages of pins in µV and `amps` magnitudes of their currents in µA, as
their detectors see them (R104); what is not listed is within its limits. -/
def execLevelSample (volts : List (Fin 512 × Int)) (amps : List (Fin 512 × Nat)) (s : State) : Host.Outcome State Fault Refusal :=
  .next (s.levelSample (volts.map (fun e => (e.1.val, e.2))) (amps.map (fun e => (e.1.val, e.2))))

/-- LEVEL_APPLY_CMD: a write to PIN_LVL_CMD of pin p (R108). -/
def execLevelApplyCmd (o : Origin) (p : Fin 512) (v : Word) (s : State) : Host.Outcome State Fault Refusal :=
  .next (s.pinWrite o false p 0x200C v)

/-- CLAMP_WRITE: a write to PIN_CLAMP of pin p (R102). -/
def execClampWrite (o : Origin) (p : Fin 512) (v : Word) (s : State) : Host.Outcome State Fault Refusal :=
  .next (s.pinWrite o false p 0x2004 v)

/-- TRIP_REARM: a write of 1 to PIN_FESTAT.TRIP of pin p (R106). -/
def execTripRearm (o : Origin) (p : Fin 512) (s : State) : Host.Outcome State Fault Refusal := .next (s.pinWrite o false p 0x2014 1)

/-- TWILIGHT_LEVEL_CHECK: the DAC comparison of R114 in Twilight; `dev` lists the DACs, by pin and index, that deviate by more than
8 mV. -/
def execTwilightLevelCheck (dev : List (Fin 512 × Fin 7)) (s : State) : Host.Outcome State Fault Refusal :=
  .next (if s.bit PWR_STATUS_TWILIGHT then (dev.map (fun e => (e.1.val, e.2.val))).foldl State.excursion s else s)

end Sys2Proof.Machine
end

