-- ==== Sys2Proof/Machine/CalOps.lean ====
section
/-! DEFINITION. The calibration sets and their commits (R379, R388 to R391), and what discards a calibration step (R384). -/
namespace Sys2Proof.Machine

/-- The working set: the words of the CAL windows (R402), by offset in the CAL block. -/
def State.workSet (s : State) : Sparse Word :=
  (s.regs.filter (fun e => decide (0xD4000 ≤ e.1) && decide (e.1 < 0xE0000))).map (fun e => (e.1 - 0xD0000, e.2))

/-- A set whose keys `lo .. lo + n - 1` are those of another set. -/
def takeRange (lo n : Nat) (src dst : Sparse Word) : Sparse Word :=
  dst.filter (fun e => decide (e.1 < lo)) ++ src.filter (fun e => decide (lo ≤ e.1) && decide (e.1 < lo + n)) ++
    dst.filter (fun e => decide (lo + n ≤ e.1))

/-- The working set replaced. -/
def State.setWork (s : State) (w : Sparse Word) : State :=
  w.foldl (fun u e => u.setReg (e.1 + 0xD0000) e.2) (s.eraseRegs 0xD4000 0xC000)

/-- The correction words of pin p that stay in force until the first sample instant after a change of the committed set now (R98, R388);
at a sample instant that is still to be served, those of the change before it. -/
def State.corrKept (s : State) (p : Nat) : List Nat :=
  match (s.pin p).corrOld with
  | none => s.corrWords p
  | some (w, x) => if s.isSample s.now && decide (w < s.now) then s.corrWords p else x

/-- The clamps of group g and its eight pins change to the pending set (R388): deskew at once, level corrections at the next sample
instant (R98). -/
def State.groupTake (s : State) (g : Nat) : State :=
  let s1 := s.updCal (fun z => { z with
    committed := takeRange (0x8000 + 512 * g) 512 s.cal.pending (takeRange (0x4000 + 8 * g) 8 s.cal.pending s.cal.committed) })
  ((List.range 8).map (fun k => 8 * g + k)).foldl
    (fun u p => if s1.corrWords p = s.corrWords p then u else u.updPin p (fun q => { q with corrOld := some (s.now, s.corrKept p) })) s1

/-- The groups of a site change to the pending set. -/
def State.siteSet (s : State) (i : Nat) : State :=
  let s1 := (s.groups i).foldl State.groupTake s
  let s2 := (s1.updCal (fun z => { z with commTemps := s1.cal.pendTemps, setTag := s.cal.pendTag }))
  (s2.set CAL_COMMITTED_TAG s.cal.pendTag).set CAL_STATUS_UNCAL 0

/-- Event 0xA003 once no site is left on the previous set (R388). -/
def State.commitDone (s : State) : State := s.raiseIf (decide (s.get CAL_STATUS_PENDING_SITES = 0)) 0xA003 noSource s.cal.pendTag

/-- A site that becomes IDLE takes the pending set, if it is still on the previous one (R388). -/
def State.siteTake (s : State) (i : Nat) : State :=
  let m := s.get CAL_STATUS_PENDING_SITES
  if bitOf m i then ((s.siteSet i).set CAL_STATUS_PENDING_SITES (m - 2 ^ i)).commitDone else s

/-- A commit (R388): the working set becomes the pending set, with one audit record; unowned groups and idle sites change at once. -/
def State.calCommit (s : State) (o : Origin) (tag : Nat) : State :=
  let wait := (List.range 16).foldl (fun m i => if s.idle i then m else m + 2 ^ i) 0
  let s1 := s.audit 6 o 0 (s.get CAL_COMMITTED_TAG) tag wait
  let s2 := (s1.updCal (fun z => { z with pending := s.workSet, pendTag := tag, pendTemps := s.cal.temps, drifted := [] }))
  let s3 := ((List.range 64).filter (fun g => !s.owned g)).foldl State.groupTake s2
  let s4 := ((List.range 16).filter (fun i => s.idle i)).foldl State.siteSet s3
  (s4.set CAL_STATUS_PENDING_SITES wait).commitDone

/-- The commit that an epoch with COMMIT = 1 carries (R389). -/
def State.epochCommit (s : State) (tag : Nat) : State :=
  if !s.bit CAL_STATUS_EPOCH_ARMED then s
  else if tag = s.cal.armTag then (s.calCommit .cal tag).set CAL_STATUS_EPOCH_ARMED 0
  else (s.flag CAL_STATUS_TAG_MISMATCH).raise 0xA004 noSource tag

/-- The calibration steps in progress discarded (R384): those that a condition names. -/
def State.calSpoil (s : State) (hit : CalStep → Bool) : State :=
  (s.updCal (fun z => { z with steps := s.cal.steps.map (fun c => if hit c then { c with spoiled := true } else c) }))

/-- The temperature of octant k, in °C (R556). -/
def State.octTemp (s : State) (k : Nat) : Int := signedOf 8 (s.get (PWR_TEMP_NOW k))

/-- A new octant temperature: steps during which it changed by more than 2 °C are discarded (R384), and drift from the committed set is
reported once per commit (R391). -/
def State.calTemp (s : State) (k : Nat) : State :=
  let t := s.octTemp k
  let s1 := s.calSpoil (fun c => decide (c.pin / 64 = k) && decide (2 < (t - c.temp).natAbs))
  match Sparse.get (fun _ => none) s1.cal.commTemps k with
  | none => s1
  | some r =>
    if s1.get CAL_CFG_TEMP_TOL < (t - r).natAbs ∧ !s1.cal.drifted.contains k then
      let s2 := (s1.flag CAL_STATUS_TEMP_DRIFT).raise 0xA008 noSource k
      (s2.updCal (fun z => { z with drifted := s2.cal.drifted ++ [k] }))
    else s1

end Sys2Proof.Machine
end

