-- ==== Sys2Proof/Machine/Timebase.lean ====
section
/-! DEFINITION. The reference inputs (R31 to R38), Meridian time and epochs (R39 to R44), FSYNC (R50 to R53) and grid writes (R55). -/
namespace Sys2Proof.Machine

/-- Ticks per reference period of a frequency code (R31). -/
def refTicks : Nat → Nat
  | 0 => 320
  | 1 => 128
  | 2 => 64
  | _ => 32

/-- The frequency code of an input: 0 is REFA, 1 is REFB. -/
def State.freqCode (s : State) (n : Nat) : Nat := if n = 0 then s.get TB_REF_CFG_FREQ_A else s.get TB_REF_CFG_FREQ_B

/-- A reference input. -/
def State.refIn (s : State) (n : Nat) : RefInput := if n = 0 then s.tb.refA else s.tb.refB

/-- A reference input replaced, with its OK bit. -/
def State.setRef (s : State) (n : Nat) (r : RefInput) : State :=
  if n = 0 then (s.updTb (fun t => { t with refA := r })).set TB_REF_STATUS_A_OK (ofBool r.qualified)
  else (s.updTb (fun t => { t with refB := r })).set TB_REF_STATUS_B_OK (ofBool r.qualified)

/-- Whether an input is qualified. -/
def State.refOk (s : State) (n : Nat) : Bool := (s.refIn n).qualified

/-- The input in use, or last in use. -/
def State.active (s : State) : Nat := s.get TB_REF_STATUS_ACTIVE

/-- The preferred input (R34, R56). -/
def State.preferred (s : State) : Nat := s.get TB_REF_CFG_SELECT % 2

/-- Whether SELECT allows an input (R34). -/
def State.refAllowed (s : State) (n : Nat) : Bool :=
  decide (s.get TB_REF_CFG_SELECT < 2) || decide (s.get TB_REF_CFG_SELECT % 2 = n)

/-- Whether the timebase runs on an input: locked and not in holdover. -/
def State.onRef (s : State) : Bool := s.bit TB_REF_STATUS_LOCKED && !s.bit TB_REF_STATUS_HOLDOVER

/-- The disturbances of the reference: bursts are tainted (R37) and calibration steps discarded (R38, R384). -/
def State.refDisturb (s : State) : State := (s.taintAll taintRef).calSpoil (fun _ => true)

/-- DISAGREE follows a measured difference in ppb while both inputs are qualified (R32). DESIGN CHOICE (log 133): R54 names the unit of the
event's data and no rounding; the difference is cut to whole ppm. -/
def State.disagree (s : State) : State :=
  match s.tb.refA.lastPpb, s.tb.refB.lastPpb with
  | some a, some b =>
    let d := (a - b).natAbs
    let on := s.refOk 0 && s.refOk 1 && decide (20000 < d)
    (s.raiseIf (on && !s.bit TB_REF_STATUS_DISAGREE) 0x1007 noSource (min (2 ^ 32 - 1) (d / 1000))).set TB_REF_STATUS_DISAGREE
      (ofBool on)
  | _, _ => s.set TB_REF_STATUS_DISAGREE 0

/-- The active input is lost: holdover begins (R34). -/
def State.holdoverEnter (s : State) (n : Nat) : State :=
  (((s.flag TB_REF_STATUS_HOLDOVER).updTb (fun t => { t with holdover := some s.now })).raise 0x1004 noSource n).refDisturb

/-- An input is lost, by a missing edge or by the frequency window (R32, R34). -/
def State.refLost (s : State) (n : Nat) (window : Bool) : State :=
  let used := s.onRef && decide (s.active = n)
  if !s.refOk n && !used then s.setRef n { s.refIn n with okSince := none }
  else
    let s1 := (s.setRef n { s.refIn n with qualified := false, okSince := none }).flag
      (if n = 0 then TB_REF_STATUS_A_LOST else TB_REF_STATUS_B_LOST)
    let s2 := (s1.raise 0x1001 n (n + 256 * ofBool window)).disagree
    if used then s2.holdoverEnter n else s2

/-- An input comes into use (R34, R35): the place of its edges among the ticks is a free value, and where holdover is left so is the phase that
is pulled in at 0.25 ps per µs. -/
def State.refUse (s : State) (n : Nat) (pull : Bool) : State :=
  let ticks := refTicks (s.freqCode n)
  let lag := (Config.freeWord s.fresh).toNat % ticks
  let phase := (Config.freeWord (s.fresh + 1)).toNat
  let edge := s.tickFloor s.now + lag * tickLsb
  ((s.tickFresh.tickFresh).set TB_REF_STATUS_ACTIVE n).updTb (fun t =>
    { t with edge := edge, period := ticks, pullUntil := if pull then s.now + phase * us else t.pullUntil })

/-- A switch to the other input (R34); the phase of one that leaves holdover is pulled in (R35). -/
def State.refSwitch (s : State) (n : Nat) (pull : Bool) : State :=
  let s1 := (s.refUse n pull).updTb (fun t => { t with switches := t.switches ++ [s.now] })
  (((s1.flag TB_REF_STATUS_SWITCHED).raise 0x1003 noSource n).refDisturb).tdcSwitched

/-- Holdover left onto an input (R34). -/
def State.holdoverLeave (s : State) (n : Nat) : State :=
  let d := (s.now - s.tb.holdover.getD s.now) / us
  let s1 := ((s.set TB_REF_STATUS_HOLDOVER 0).updTb (fun t => { t with holdover := none })).raise 0x1005 noSource
    (min (2 ^ 32 - 1) d)
  if n = s.active then s1.refUse n true else s1.refSwitch n true

/-- The input onto which holdover may be left now: the preferred one first, qualified and allowed. -/
def State.refChoice (s : State) : Option Nat :=
  [s.preferred, 1 - s.preferred].find? (fun n => s.refOk n && s.refAllowed n)

/-- Holdover left, 1 µs after it began at the earliest, once an allowed input is qualified (R34). -/
def State.holdoverTry (s : State) : State :=
  match s.tb.holdover, s.refChoice with
  | some t, some n => if t + us ≤ s.now then s.holdoverLeave n else s
  | _, _ => s

/-- With REVERT = 1 the timebase returns to the preferred input (R34). -/
def State.refRevert (s : State) : State :=
  if s.onRef && s.bit TB_REF_CFG_REVERT && decide (s.active ≠ s.preferred) && s.refOk s.preferred &&
      s.refAllowed s.preferred then s.refSwitch s.preferred false
  else s

/-- A lost input that has been present and in its window for 10 ms qualifies (R33). -/
def State.refQualify (s : State) (n : Nat) : State :=
  match (s.refIn n).okSince with
  | none => s
  | some t =>
    if s.refOk n then s
    else
      let s1 := (s.at_ (t + 10 * ms)).setRef n { s.refIn n with qualified := true }
      let s2 := (s1.raise 0x1002 n n).disagree
      if s2.bit TB_REF_STATUS_HOLDOVER then s2.holdoverTry else s2.refRevert

/-- One input measured against the internal oscillator: no edge, or its deviation in ppb (R32). -/
def State.refMeasure (s : State) (n : Nat) (ppb : Option Int) : State :=
  let s1 := s.setRef n { s.refIn n with lastPpb := ppb }
  match ppb with
  | none => s1
  | some d =>
    if 1000000 < d.natAbs then s1.refLost n true
    else if (s1.refIn n).okSince.isNone then s1.setRef n { s1.refIn n with okSince := some s.now }
    else s1

/-- The requalification of both inputs at their new settings (R38): an input whose frequency did not change is present as before. -/
def State.requalify (s : State) (changedA changedB : Bool) : State :=
  let inWin (r : RefInput) : Bool := match r.lastPpb with
    | some d => decide (d.natAbs ≤ 1000000)
    | none => false
  let r (n : Nat) (ch : Bool) : RefInput :=
    { s.refIn n with qualified := false, okSince := if !ch && inWin (s.refIn n) then some s.now else none,
                     lastPpb := if ch then none else (s.refIn n).lastPpb }
  ((s.setRef 0 (r 0 changedA)).setRef 1 (r 1 changedB)).disagree

/-- A write to TB_REF_CFG that takes effect (R34, R38). -/
def State.refCfgApply (s : State) (o : Origin) (v : Word) : State :=
  let a0 := s.get TB_REF_CFG_FREQ_A
  let b0 := s.get TB_REF_CFG_FREQ_B
  let sel := s.get TB_REF_CFG_SELECT
  let rev := s.bit TB_REF_CFG_REVERT
  let s1 := s.regWrite o 0x50000 v
  let chA := decide (s1.get TB_REF_CFG_FREQ_A ≠ a0)
  let chB := decide (s1.get TB_REF_CFG_FREQ_B ≠ b0)
  let s2 := if chA || chB || decide (s1.get TB_REF_CFG_SELECT ≠ sel) then s1.requalify chA chB else s1
  let bad := !s2.refAllowed s2.active || (if s2.active = 0 then chA else chB)
  if s2.onRef && bad then s2.refLost s2.active (s2.refAllowed s2.active)
  else if !rev then s2.refRevert
  else s2

/-- Whether a TIMING step is in progress, and does not wait to be repeated (R38). -/
def State.timingStep (s : State) : Bool := s.cal.steps.any (fun c => decide (c.kind = .timing) && !c.idle)

/-- Whether a write to TB_REF_CFG would change a frequency or SELECT. -/
def State.refCfgChanges (s : State) (o : Origin) (v : Word) : Bool :=
  decide ((s.wouldStore o 0x50000 v ^^^ s.reg 0x50000) &&& 0x3F ≠ 0)

/-- A write to TB_REF_CFG (R38): one that changes a frequency or SELECT waits for a TIMING step in progress, whose results are
discarded; a second write that waits replaces the first. -/
def State.refCfgWrite (s : State) (o : Origin) (v : Word) : State :=
  if s.timingStep && s.refCfgChanges o v then
    ((s.updTb (fun t => { t with deferred := some (o, v) })).flag TB_REF_STATUS_DEFERRED).calSpoil
      (fun c => decide (c.kind = .timing))
  else s.refCfgApply o v

/-- A deferred write takes effect once no TIMING step is in progress (R38). -/
def State.refCfgDeferred (s : State) : State :=
  match s.tb.deferred with
  | none => s
  | some (o, v) => if s.timingStep then s else (s.updTb (fun t => { t with deferred := none })).refCfgApply o v

/-! Edges of the reference in use, and of its continuation in holdover (R42). -/

/-- The period of the reference in use, or last in use: in holdover that of the edges counted on, whatever TB_REF_CFG holds since. -/
def State.refPeriod (s : State) : Nat := s.tb.period * tickLsb

/-- The first reference edge at or after an instant. -/
def State.refEdge (s : State) (t : Nat) : Nat :=
  let p := s.refPeriod
  let e := s.tb.edge % p
  t + (p - (t + p - e) % p) % p

/-! Epochs (R40 to R44). -/

/-- The code of an epoch source (R59). -/
def EpochSource.code : EpochSource → Nat
  | .soft => 0
  | .input => 1
  | .link => 2

/-- TB_EPOCH_NEXT. -/
def State.epochNext (s : State) : Nat := s.get64 TB_EPOCH_NEXT_LO_NEXT TB_EPOCH_NEXT_HI_NEXT

/-- TB_EPOCH_NEXT replaced by the device, with a record of each word that changes (R6, R536), and the timeout armed (R43). -/
def State.setEpochNext (s : State) (v : Nat) : State :=
  ((s.setCfg TB_EPOCH_NEXT_LO_NEXT (v % 2 ^ 32)).setCfg TB_EPOCH_NEXT_HI_NEXT (v / 2 ^ 32 % 2 ^ 32)).flag TB_EPOCH_STATUS_NEXT_ARMED

/-- A value answered or timed out: NEXT advances by INTERVAL, or the timeout is disarmed (R43). -/
def State.epochAdvance (s : State) : State :=
  if s.get TB_EPOCH_INTERVAL = 0 then s.set TB_EPOCH_STATUS_NEXT_ARMED 0
  else s.setEpochNext (s.epochNext + s.get TB_EPOCH_INTERVAL)

/-- A marker at an epoch instant, acting at `t` (R41, R43). -/
def State.marker (s : State) (instant t : Nat) : State :=
  let late := match s.tb.timedOut with
    | none => none
    | some (v, mid) => if s.merAt t < mid * tickLsb then some v else none
  let dev := clampInt (-(2 ^ 31)) (2 ^ 31 - 1) ((s.merAt instant : Int) - ((late.getD s.epochNext * tickLsb : Nat) : Int))
  let s1 := s.set TB_EPOCH_DEV (unsignedOf 32 dev)
  let s2 := if s.get TB_EPOCH_CFG_TOL * tickLsb < dev.natAbs then
      (s1.flag TB_EPOCH_STATUS_MISMATCH).raise 0x1011 noSource (unsignedOf 32 dev)
    else s1
  if late.isSome || !s.bit TB_EPOCH_STATUS_NEXT_ARMED then s2
  else (s2.updTb (fun t => { t with timedOut := none })).epochAdvance

/-- A site's SYNC wait ends at the epoch (R44). -/
def State.syncRelease (s : State) (t : Nat) : State :=
  (List.range 16).foldl
    (fun u i =>
      match (u.site i).lane with
      | .sync since none :: rest =>
        if u.inBurst i && decide (since.getD (u.site i).burst.cycleEnd ≤ t) then u.setLane i (.sync since (some t) :: rest) else u
      | _ => u) s

/-- The load of TB_EPOCH_NEXT by an EPOCH frame (R366): not where software has written it since the previous marker. The loaded value replaces
the awaited one, and with it a timed-out one (log 134). -/
def State.epochLoad (s : State) : Option Nat → State
  | none => s
  | some v => if s.iat.nextWritten then s else (s.setEpochNext v).updTb (fun b => { b with timedOut := none })

/-- An epoch acts (R40 to R44, R389); TB_EPOCH_NEXT is loaded before R41 is evaluated (R366). -/
def State.epochAct (s0 : State) (e : EpochPend) : State :=
  let t := max e.instant e.qualify
  let s := ((s0.at_ t).updTb (fun b => { b with epochs := b.epochs.erase e })).epochLoad e.next
  let est := e.establish || s.bit TB_EPOCH_CMD_ARM_ESTABLISH
  let s1 :=
    if est && s.allIdle then
      ((((s.updTb (fun b => { b with zero := some e.instant, timedOut := none })).flag TB_EPOCH_STATUS_ESTABLISHED).set
        TB_EPOCH_CMD_ARM_ESTABLISH 0)).raise 0x1010 noSource e.source.code
    else
      let u := if est then (s.flag TB_EPOCH_STATUS_REFUSED).raise 0x1013 noSource e.source.code else s
      u.marker e.instant t
  let s2 := ((s1.updIat (fun z => { z with nextWritten := false }))).syncRelease t
  let s3 := if e.commit then s2.epochCommit e.tag else s2
  s3.flowsSignal 1 0 t

/-- The pending epoch that acts first. -/
def firstEpoch : List EpochPend → Option EpochPend
  | [] => none
  | e :: r =>
    match firstEpoch r with
    | none => some e
    | some f => if max f.instant f.qualify < max e.instant e.qualify then some f else some e

/-- TB_EPOCH_CMD.SOFT_EPOCH (R39, R60). -/
def State.softEpoch (s : State) : State :=
  if s.get TB_EPOCH_CFG_SOURCE = 0 ∧ s.tb.zero.isSome then
    let e := s.refEdge (s.now + 1)
    s.updTb (fun t => { t with epochs := t.epochs ++ [⟨.soft, e, e, false, false, 0, none⟩] })
  else s

/-- A write to TB_EPOCH_CMD (R60). -/
def State.epochCmd (s : State) (v : Word) : State :=
  let s1 := s.flagIf (decide (fieldGet 0 1 v ≠ 0)) TB_EPOCH_CMD_ARM_ESTABLISH
  if fieldGet 1 1 v ≠ 0 then s1.softEpoch else s1

/-- A software write to TB_EPOCH_NEXT, both words together (R43). -/
def State.epochNextWrite (s : State) (o : Origin) (lo hi : Word) : State :=
  let s1 := (s.regWrite64 o 0x50028 lo hi).flag TB_EPOCH_STATUS_NEXT_ARMED
  (s1.updTb (fun z => { z with timedOut := none })).updIat (fun z => { z with nextWritten := true })

/-- The instant of the marker timeout (R43). -/
def State.epochLimit (s : State) : Nat :=
  s.ofMer (s.epochNext * tickLsb) + max 1 (s.get TB_EPOCH_CFG_TIMEOUT) * us

/-- Whether a site waits in a SYNC block at an instant. -/
def State.inSync (s : State) (i t : Nat) : Bool :=
  match (s.site i).lane with
  | .sync since none :: _ => s.inBurst i && decide (since.getD (s.site i).burst.cycleEnd ≤ t)
  | _ => false

/-- No marker by the timeout (R43). -/
def State.epochTimeout (s0 : State) : State :=
  if !s0.bit TB_EPOCH_STATUS_NEXT_ARMED || s0.tb.zero.isNone then s0
  else
    let s := s0.at_ s0.epochLimit
    let v := s.epochNext
    let hit := (List.range 16).filter (fun i => s.inSync i s.now)
    let s1 := (s.flag TB_EPOCH_STATUS_TIMEOUT).raise 0x1012 noSource hit.length
    let s2 := hit.foldl (fun u i => u.endNow i (haltRec 0x13)) s1
    let iv := s2.get TB_EPOCH_INTERVAL
    let s3 := s2.updTb (fun t => { t with timedOut := if iv = 0 then none else some (v, v + iv / 2) })
    s3.epochAdvance

/-! FSYNC (R50 to R53). -/

/-- What a site makes of an accepted edge at time e on input n: the state, and whether the edge was used. -/
def State.fsyncSite (s : State) (n e i : Nat) : State × Bool :=
  let r := e + s.get (TB_FSYNC_CFG_OFFSET n) * tickLsb
  let lane := match (s.site i).lane with
    | .waitf m since none :: rest =>
      if s.inBurst i ∧ m = n ∧ since.getD (s.site i).burst.cycleEnd ≤ e then
        (s.setLane i (.waitf m (some (since.getD (s.site i).burst.cycleEnd)) (some r) :: rest), true)
      else (s, false)
    | .frame m nom v k (some t0) none :: rest =>
      if s.inBurst i ∧ m = n ∧ t0 ≤ e then (s.setLane i (.frame m nom v k (some t0) (some r) :: rest), true) else (s, false)
    | _ => (s, false)
  let pad := match if lane.2 then none else (s.site i).burst.padClosed with
    | none => lane
    | some (m, t0, t1) =>
      if s.inBurst i ∧ m = n ∧ t0 ≤ e ∧ e < t1 then (s.updBurst i (fun b => { b with padClosed := none }), true) else lane
  let spans (d : Decision) : Bool :=
    decide (d.cond = 5) && decide (d.csel % 4 = n) &&
      (match d.cStart with
        | none => false
        | some c => decide (c ≤ e) && (match d.cEnd with | none => true | some f => decide (e ≤ f)))
  let any := (pad.1.site i).spec.decisions.any spans
  let s1 := if any then
      pad.1.updSpec i (fun x => { x with decisions := x.decisions.map (fun d => if spans d then { d with fsync := true } else d) })
    else pad.1
  if s1.siteSt i = stArmed ∧ (s1.site i).burst.armedAt ≤ e ∧ s1.cfg i (SITE_START_CFG_SOURCE i) = 1 ∧ s1.cfg i (SITE_START_CFG_FSYNC i) = n ∧ s1.level i ≠ 2 ∧
      !s1.hotHeld i then
    (s1.startBurst i r, true)
  else (s1, pad.2 || any || s1.flowWaits i 2 n)

/-- The filtered level of an FSYNC input changes (R50, R52). -/
def State.fsyncEdge (s0 : State) (n : Nat) (rising : Bool) : State :=
  if s0.tb.zero.isNone || (s0.tb.fsync.getD n false == rising) then s0
  else
    let s := s0.updTb (fun t => { t with fsync := t.fsync.set n rising })
    if !s.bit (TB_FSYNC_CFG_ENABLE n) || (s.bit (TB_FSYNC_CFG_EDGE n) == rising) then s
    else
      let e := s.tickFloor s.now - s.get (TB_FSYNC_CFG_FILTER n) * tickLsb
      let r := (List.range 16).foldl
        (fun q i =>
          let u := q.1.fsyncSite n e i
          (u.1, q.2 || u.2)) (s, false)
      let s1 := (r.1.flowsSignal 2 n e)
      if r.2 then s1 else (s1.flag (TB_FSYNC_STATUS_STRAY n)).raise 0x1022 n (s.tickAt e)

/-- A pad region that reaches its upper limit with no usable edge (R51): the frame starts there. -/
def State.fsyncLate (s : State) (i : Nat) : State :=
  match (s.site i).lane with
  | .frame inp n v k t0 edge :: rest =>
    let per := if s.coherent i then (s.site i).burst.period else v.period
    let usable := match padsAsked (t0.getD (s.site i).burst.cycleEnd) per edge with
      | none => false
      | some req => decide (req ≤ n + 255)
    if s.inBurst i ∧ n + 255 ≤ k ∧ !usable then
      let c := (s.site i).burst.cycleEnd
      let s1 := if edge.isNone then (s.setLane i rest).padClose i inp (t0.getD c) c else s.setLane i rest
      s1.frameStart inp n k (n + 255) true
    else s
  | _ => s

/-! Grids (R55). -/

/-- TB_GRID_MODE written: the bits of idle sites change. -/
def State.gridModeWord (s : State) (o : Origin) (v : Word) : Word × Bool :=
  partWord 1
    (fun k => partWrite (s.lockedAt o 0x50070 0 16) (s.idle k) (s.get (TB_GRID_MODE_COHERENT_S k)) (fieldGet k 1 v)) 16 v

/-- A write to TB_GRID_MODE (offset 0x70) or TB_GRID_ANCHORs (R55). -/
def State.gridWrite (s : State) (o : Origin) (off : Nat) (v : Word) : State :=
  if off = 0x70 then s.condWrite o 0x50070 (s.gridModeWord o v) TB_EPOCH_STATUS_GRID_BUSY
  else if 0x80 ≤ off ∧ off < 0xC0 then
    s.idleWrite o false (0x50000 + off) v (s.idle ((off - 0x80) / 4)) TB_EPOCH_STATUS_GRID_BUSY
  else s

/-! Meridian time (R39, R58). -/

/-- The Meridian tick and fine part now. -/
def State.meridian (s : State) : Nat × Nat := (s.tick, s.merAt s.now % tickLsb)

/-- A word latched for an origin (R4). -/
def State.latch (s : State) (o : Origin) (a : Nat) (w : Word) : State :=
  { s with latches := s.latches.filter (fun h => !(decide (h.origin = o.code) && decide (h.addr = a))) ++ [⟨o.code, a, w⟩] }

/-- The word latched for an origin. -/
def State.latched (s : State) (o : Origin) (a : Nat) : Option Word :=
  (s.latches.find? (fun h => decide (h.origin = o.code) && decide (h.addr = a))).map (fun h => h.value)

/-- A read of TB_MERIDIAN_LO: the low word, with HI and FINE latched for the origin. -/
def State.meridianRead (s : State) (o : Origin) : State × Word :=
  let m := s.meridian
  ((s.latch o 0x50014 (word (m.1 / 2 ^ 32))).latch o 0x50018 (word m.2), word m.1)

/-! The commands. -/

/-- REF_MISSING_EDGE: an input has shown no rising edge for three periods (R32). -/
def execRefMissingEdge (n : Fin 2) (s : State) : Host.Outcome State Fault Refusal := .next (s.refLost n false)

/-- FREQ_WINDOW_CHECK: both inputs measured against the internal oscillator, in ppb of their configured frequency (R32). -/
def execFreqWindowCheck (a b : Option Int) (s : State) : Host.Outcome State Fault Refusal :=
  .next ((s.refMeasure 0 a).refMeasure 1 b).disagree

/-- REF_QUALIFY_TIMER: an input has been present and in its window for 10 ms (R33). -/
def execRefQualifyTimer (n : Fin 2) (s : State) : Host.Outcome State Fault Refusal := .next (s.refQualify n)

/-- HOLDOVER_SWITCH: 1 µs of holdover has passed (R34). -/
def execHoldoverSwitch (s : State) : Host.Outcome State Fault Refusal :=
  .next (match s.tb.holdover with
    | none => s
    | some t => (s.at_ (t + us)).holdoverTry)

/-- REF_CFG_WRITE: a write to TB_REF_CFG (R38). -/
def execRefCfgWrite (o : Origin) (v : Word) (s : State) : Host.Outcome State Fault Refusal := .next (s.refCfgWrite o v)

/-- REF_CFG_DEFERRED_APPLY: the calibration step that a TB_REF_CFG write waited for has ended (R38). -/
def execRefCfgDeferredApply (s : State) : Host.Outcome State Fault Refusal := .next s.refCfgDeferred

/-- MERIDIAN_LO_READ: a read of TB_MERIDIAN_LO (R39). -/
def execMeridianLoRead (o : Origin) (s : State) : Host.Outcome State Fault Refusal :=
  let r := s.meridianRead o
  .next (r.1.emit (.read o 0x50010 r.2))

/-- ARM_ESTABLISH: TB_EPOCH_CMD.ARM_ESTABLISH (R40). -/
def execArmEstablish (s : State) : Host.Outcome State Fault Refusal := .next (s.epochCmd 1)

/-- SOFT_EPOCH: TB_EPOCH_CMD.SOFT_EPOCH (R39). -/
def execSoftEpoch (s : State) : Host.Outcome State Fault Refusal := .next (s.epochCmd 2)

/-- EPOCH_IN_GLITCH: an EPOCH_IN pulse too short to qualify (R42). -/
def execEpochInGlitch (s : State) : Host.Outcome State Fault Refusal :=
  .next (if s.tb.zero.isSome then s.flag TB_EPOCH_STATUS_GLITCH else s)

/-- EPOCH_ACT: the pending epoch that is due first acts (R42). -/
def execEpochAct (s : State) : Host.Outcome State Fault Refusal :=
  .next (match firstEpoch s.tb.epochs with
    | none => s
    | some e => s.epochAct e)

/-- EPOCH_NEXT_WRITE: a write to TB_EPOCH_NEXT (R43). -/
def execEpochNextWrite (o : Origin) (v : DWord) (s : State) : Host.Outcome State Fault Refusal :=
  .next (s.epochNextWrite o (word v.toNat) (word (v.toNat / 2 ^ 32)))

/-- EPOCH_TIMEOUT: no marker by TB_EPOCH_NEXT plus TIMEOUT (R43). -/
def execEpochTimeout (s : State) : Host.Outcome State Fault Refusal := .next s.epochTimeout

/-- FSYNC_EDGE: the filtered level of FSYNC input n changes (R50). -/
def execFsyncEdge (n : Fin 4) (rising : Bool) (s : State) : Host.Outcome State Fault Refusal := .next (s.fsyncEdge n rising)

/-- FSYNC_LATE: a pad region of site i has reached its upper limit (R51). -/
def execFsyncLate (i : Fin 16) (s : State) : Host.Outcome State Fault Refusal := .next (s.fsyncLate i)

/-- GRID_WRITE: a write to TB_GRID_MODE or TB_GRID_ANCHORs (R55). -/
def execGridWrite (o : Origin) (off : Nat) (v : Word) (s : State) : Host.Outcome State Fault Refusal := .next (s.gridWrite o off v)

end Sys2Proof.Machine
end

