-- ==== Sys2Proof/Machine/FlowRun.lean ====
section
/-! DEFINITION. The datalog (R346 to R349), and how a flow run begins, goes on and ends (R333 to R336, R342). -/
namespace Sys2Proof.Machine

/-! The datalog. -/

/-- The datalog of site i. -/
def State.dlog (s : State) (i : Nat) : DlogState := Sparse.get (fun _ => DlogState.reset) s.svc.dlogs i

/-- A datalog changed by a function. -/
def State.updDlog (s : State) (i : Nat) (f : DlogState → DlogState) : State :=
  (s.updSvc (fun z => { z with dlogs := Sparse.set (fun _ => DlogState.reset) s.svc.dlogs i (f (s.dlog i)) }))

/-- DLOG_CFG as it stood at run start. -/
def State.dlogCfg (s : State) (i : Nat) (f : Fld) : Nat := s.svcCfg i 5 f

/-- The free bytes of the ring. -/
def State.dlogFree (s : State) (i : Nat) : Nat :=
  let size := s.dlogSize i
  if (s.dlog i).full then 0 else size - ((s.dlog i).wpos + size - s.get (SVC_DLOG_TAIL i) % size) % size

/-- Bytes put at an offset of the ring. -/
def State.dlogPut (s : State) (i off : Nat) (bs : List Byte) : State := s.captPut (s.dlogBase i) (s.dlogSize i) off bs

/-- The write position moved on. -/
def State.dlogAdvance (s : State) (i n : Nat) : State :=
  let w := ((s.dlog i).wpos + n) % s.dlogSize i
  s.updDlog i (fun d => { d with wpos := w, full := decide (w = s.get (SVC_DLOG_TAIL i)) })

/-- The 32 bytes of a record (R347). -/
def State.dlogBytes (s : State) (i : Nat) (r : DlogRec) : List Byte :=
  leBytes 4 (r.kind + 2 ^ 8 * i + 2 ^ 12 * ofBool r.pass + 2 ^ 13 * ofBool r.valid + 2 ^ 14 * ofBool r.loFail +
    2 ^ 15 * ofBool r.hiFail + 2 ^ 16 * (r.test % 2 ^ 16)) ++
    leBytes 4 (s.get (SVC_RUN i)) ++ leBytes 8 s.tick ++ leBytes 8 r.a ++ leBytes 8 r.b

/-- The open batch closed (R348): its header is filled but for PREV_HASH and the signature, which follow when the batches before it are
signed. -/
def State.dlogClose (s : State) (i : Nat) : State :=
  let d := s.dlog i
  match d.header with
  | none => s
  | some h =>
    let head := leBytes 4 0x31444E4F ++ leBytes 4 (1 + 2 ^ 16 * i + 2 ^ 20 * ofBool d.gap + 2 ^ 21 * ofBool s.nv.identity.isNone) ++
      leBytes 8 d.seq ++ leBytes 4 (d.recs.length / 32) ++ leBytes 4 0 ++ leBytes 8 d.first ++ leBytes 8 d.last ++ s.nv.serial
    let hash := sha384 d.recs
    let s1 := (s.dlogPut i h head).dlogPut i ((h + 0x68) % s.dlogSize i) hash
    let s2 := s1.updDlog i (fun d => { d with header := none, recs := [], gap := false, seq := d.seq + 1 })
    let job : BatchJob := ⟨i, s.nv.identity, h, d.wpos, d.seq, head, hash⟩
    let s3 := (s2.updSvc (fun z => { z with jobs := s2.svc.jobs ++ [job] }))
    (s3.flag (SVC_DLOG_STAT_SIGNING i)).set (SVC_DLOG_STAT_UNSIGNED i) (ofBool s.nv.identity.isNone)

/-- An event of a flow, at most once per run. -/
def State.flowOnce (s : State) (i code data : Nat) : State :=
  if (s.flow i).evented.contains code then s
  else (s.raise code i data).updFlow i (fun f => { f with evented := code :: f.evented })

/-- A record written where the ring has room; else dropped, or left to wait (R349). The result says whether the step is free to
complete. -/
def State.dlogTry (s : State) (i : Nat) (r : DlogRec) : State × Bool :=
  let d := s.dlog i
  let need := 32 + (if d.header.isNone then 256 else 0)
  if !s.ringPlaced (s.dlogBase i) (s.dlogSize i) then (s.flag (SVC_DLOG_STAT_BAD_RING i), true)
  else if s.dlogFree i < need then
    let s1 := (s.flag (SVC_DLOG_STAT_FULL i)).flowOnce i 0x8002 (s.get (SVC_RUN i))
    if s.dlogCfg i (SVC_DLOG_CFG_FULL i) = 0 then
      ((s1.count (SVC_DLOG_DROPPED_COUNT i) 1).updDlog i (fun d => { d with gap := true }), true)
    else (s1, false)
  else
    let s1 := if d.header.isNone then
        (s.updDlog i (fun d => { d with header := some d.wpos, first := s.tick })).dlogAdvance i 256
      else s
    let bs := s.dlogBytes i r
    let s2 := (s1.dlogPut i (s1.dlog i).wpos bs).dlogAdvance i 32
    let s3 := s2.updDlog i (fun d => { d with recs := d.recs ++ bs, last := s.tick })
    (if max 1 (s.dlogCfg i (SVC_DLOG_CFG_BATCH i)) ≤ (s3.dlog i).recs.length / 32 then s3.dlogClose i else s3, true)

/-- The signing unit completes the batch closed first (R348). -/
def State.batchSigned (s : State) : State :=
  match s.svc.jobs with
  | [] => s
  | j :: rest =>
    let i := j.site
    let body := j.head ++ (s.dlog i).prev ++ j.hash
    let sig := match j.key with
      | none => List.replicate 96 0
      | some k =>
        let x := Config.sign k body
        beBytes 48 x.1 ++ beBytes 48 x.2
    let bs := body ++ sig ++ List.replicate 8 0
    let s1 := (s.dlogPut i j.header bs).updSvc (fun z => { z with jobs := rest })
    let s2 := (s1.updDlog i (fun d => { d with prev := sha384 bs })).set (SVC_DLOG_HEAD i) j.end_
    let s3 := s2.set (SVC_DLOG_STAT_SIGNING i) (ofBool (rest.any (fun k => decide (k.site = i))))
    s3.raiseIf (decide (s.dlogCfg i (SVC_DLOG_CFG_SIGN_EVT i) ≠ 0)) 0x8001 i (j.seq % 2 ^ 32)

/-- What a write to SVC_DLOG_BASE or SIZE does to the datalog: HEAD, TAIL and SEQ are 0, and open and closed batches of the site are gone
(R354). -/
def State.dlogReset (s : State) (i : Nat) : State :=
  let s1 := ((s.set (SVC_DLOG_HEAD i) 0).set (SVC_DLOG_TAIL i) 0).updDlog i (fun _ => DlogState.reset)
  ((s1.updSvc (fun z => { z with jobs := s1.svc.jobs.filter (fun j => decide (j.site ≠ i)) }))).set (SVC_DLOG_STAT_SIGNING i) 0

/-! Runs. -/

/-- A write to SVC_DLOG_BASE or SIZE takes effect at the next run start (R333, R354): at once where no run is in progress. -/
def State.dlogMoved (s : State) (i : Nat) : State :=
  if s.flowSt i = flStopped ∨ s.flowSt i = flFault then s.dlogReset i else s.updDlog i (fun d => { d with moved := true })

/-- A run that ends in a state, with nothing left waiting; handlers that have not started are gone with it. -/
def State.flowEnd (s : State) (i st : Nat) : State :=
  (s.set (SVC_STAT_STATE i) st).updFlow i (fun f =>
    { f with wait := .none, ret := none, queue := [], stop := false, aborted := false, stall := none })

/-- A step boundary: the run goes on at a step, or a STOP ends it (R335). -/
def State.flowGo (s : State) (i k : Nat) : State :=
  if (s.flow i).stop then s.flowEnd i flStopped
  else
    ((s.set (SVC_STAT_STATE i) (if (s.flow i).ret.isSome then flHandler else flRunning)).set (SVC_STAT_STEP i) (k % 1024)).updFlow i (fun f =>
      { f with step := k, wait := .none, stall := none, aborted := false })

/-- The flow waits for room in its datalog ring (R349). -/
def State.flowStall (s : State) (i : Nat) (r : DlogRec) (t : FlowThen) : State :=
  (s.set (SVC_STAT_STATE i) flStalled).updFlow i (fun f => { f with stall := some (r, t), wait := .none })

/-- A record of the flow itself, not of a measured value: kind, TEST, A and B. -/
def plainRec (kind test a b : Nat) : DlogRec := ⟨kind, false, true, false, false, test, a, b⟩

/-- A run starts (R333). -/
def State.runStart (s : State) (i : Nat) : State :=
  let s1 := s.set (SVC_RUN i) ((s.get (SVC_RUN i) + 1) % 2 ^ 32)
  let s2 := (List.range 16).foldl (fun u v => (u.set64 (SVC_V_LO_VALUE i v) (SVC_V_HI_VALUE i v) 0).set (SVC_VALID i v) 0) s1
  let base := 0xB1000 + 256 * i
  let cfg := [base, base + 4, base + 8, base + 12, base + 16, base + 0x38, base + 0x24, base + 0x28, base + 0x2C].map (fun a => s.reg a)
  let s3 := (s2.set (SVC_STAT_C i) 1).updFlow i (fun f =>
    { f with cfg := cfg, step := s.get (SVC_CFG_ENTRY i), wait := .none, ret := none, bin := none, stop := false, aborted := false, evented := [], stall := none })
  let entry := s.get (SVC_CFG_ENTRY i)
  let s4 := ((if (s.dlog i).moved then s3.dlogReset i else s3).set (SVC_STAT_STATE i) flRunning).set (SVC_STAT_STEP i) entry
  let r := plainRec 0x01 0 0 0
  let q := s4.overlapMarks.dlogTry i { r with valid := false }
  if q.2 then q.1.flowGo i entry else q.1.flowStall i { r with valid := false } (.go entry)

/-- What follows a step's record: the next step, the end of the run under R342, or FAULT. -/
def State.flowThen (s : State) (i : Nat) (t : FlowThen) : State :=
  match t with
  | .go k => s.flowGo i k
  | .done again =>
    let s1 := if s.dlogCfg i (SVC_DLOG_CFG_CLOSE_END i) ≠ 0 then s.dlogClose i else s
    if again && !(s1.flow i).stop then s1.runStart i else s1.flowEnd i flStopped
  | .fault => s.flowEnd i flFault

/-- A step that writes a record and then goes on. -/
def State.flowRecord (s : State) (i : Nat) (r : DlogRec) (t : FlowThen) : State :=
  let q := s.dlogTry i r
  if q.2 then q.1.flowThen i t else q.1.flowStall i r t

/-- Room has been made in the ring: a STALLED flow resumes if its record fits (R349). -/
def State.flowResume (s : State) (i : Nat) : State :=
  match (s.flow i).stall with
  | none => s
  | some (r, t) =>
    if s.flowSt i ≠ flStalled then s
    else
      let need := 32 + (if (s.dlog i).header.isNone then 256 else 0)
      if s.dlogFree i < need then s
      else (s.updFlow i (fun f => { f with stall := none })).flowRecord i r t

/-- A step faults (R336). -/
def State.flowFault (s : State) (i : Nat) : State :=
  let k := (s.flow i).step
  (s.raise 0x8003 i k).flowRecord i { plainRec 0x07 k 0 0 with valid := false } .fault

/-- SVC_CMD.RUN (R333). In FAULT no flow starts (R510), nor in BOOT, which ends by starting flows (R509). -/
def State.flowRun (s : State) (i : Nat) : State :=
  if s.level i ≠ 2 ∨ !s.inService then s
  else if s.flowSt i = flStopped ∨ s.flowSt i = flFault then s.runStart i
  else s.flag (SVC_STAT_RUN_BUSY i)

/-! Variables and C. -/

/-- A variable written: its s64 value and validity (R355). -/
def State.setVar (s : State) (i v : Nat) (x : Int) (valid : Bool) : State :=
  (s.set64 (SVC_V_LO_VALUE i v) (SVC_V_HI_VALUE i v) (unsignedOf 64 x)).set (SVC_VALID i v) (ofBool valid)

/-- The value of a variable. -/
def State.var (s : State) (i v : Nat) : Int := signedOf 64 (s.get64 (SVC_V_LO_VALUE i v) (SVC_V_HI_VALUE i v))

/-- Whether a variable is valid. -/
def State.varOk (s : State) (i v : Nat) : Bool := s.bit (SVC_VALID i v)

/-- The condition bit. -/
def State.setC (s : State) (i : Nat) (c : Bool) : State := s.set (SVC_STAT_C i) (ofBool c)

/-- Word k of the site's last burst result (R165). -/
def State.resultWord (s : State) (i k : Nat) : Nat := s.get (SITE_RESULT_WORD i k)

/-- A BURST or XLIST step receives its burst result, which stands in SITE_RESULT (R338, R345). -/
def State.flowBurstDone (s : State) (i : Nat) : State :=
  match (s.flow i).wait with
  | .burst w0 test xlist tf =>
    let r0 := s.resultWord i 0
    let pass := bitOf r0 7
    let err := s.get (XE_SITE_ERR_COUNT i)
    let c := if xlist then decide (err = 0) && decide (bitsOf r0 4 3 = 0) else pass && !(tf && decide (bitsOf r0 8 7 ≠ 0))
    let v : Int := if xlist then err else ofBool pass
    let s1 := (s.setVar i (bitsOf w0 4 4) v true).setC i (c && !(s.flow i).aborted)
    let next := FlowThen.go ((s.flow i).step + 1)
    if bitOf w0 16 then
      s1.flowRecord i ⟨0x05, pass, true, false, false, test, s.resultWord i 8 + 2 ^ 32 * s.resultWord i 9,
        r0 + 2 ^ 32 * s.resultWord i 3⟩ next
    else s1.flowThen i next
  | _ => s

end Sys2Proof.Machine
end

