-- ==== Sys2Proof/Machine/BurstEnd.lean ====
section
/-! DEFINITION. The end of a burst: its result record (R151 to R154) and the return of the site to IDLE (R150). -/
namespace Sys2Proof.Machine

/-- The END code of R152. -/
def EndReason.code : EndReason → Nat
  | .stop => 0
  | .halt => 1
  | .underrun => 2
  | .refillLate => 3
  | .maskStop => 4
  | .abort => 5

/-- What a burst result says of its burst (R152), beyond what the site's registers and counters hold. -/
structure ResultInfo where
  why : EndRec
  pass : Bool
  taint : Nat
  noMatch : Bool
  seqNo : Nat
  pos : Pos
  ovr : Nat
  start : Nat
  end_ : Nat
  vectors : Nat
  holds : Nat
  holdTicks : Nat
  matchIter : Nat
  mloopOvr : Nat
  deriving DecidableEq, Repr

/-- The sixteen words of a burst result (R152). -/
def ResultInfo.words (i : Nat) (r : ResultInfo) : List Nat :=
  let two (v : Nat) : List Nat := [v % 2 ^ 32, v / 2 ^ 32 % 2 ^ 32]
  [i + 2 ^ 4 * r.why.reason.code + 2 ^ 7 * ofBool r.pass + 2 ^ 8 * (r.taint % 2 ^ 7) + 2 ^ 15 * ofBool r.noMatch +
      2 ^ 16 * (r.seqNo % 2 ^ 16),
    r.why.detail % 2 ^ 8 + 2 ^ 16 * (r.pos.seg % 2 ^ 16), r.pos.off % 2 ^ 32, r.ovr] ++
    two r.start ++ two r.end_ ++ two r.vectors ++ two r.holds ++ two r.holdTicks ++ [r.matchIter, r.mloopOvr]

/-- A burst result written to SITE_RESULT_0 to SITE_RESULT_15, and to the ring if it has a size (R154). -/
def State.writeResult (s : State) (i : Nat) (ws : List Nat) : State :=
  let s1 := ws.zipIdx.foldl (fun u x => u.set (SITE_RESULT_WORD i x.2) x.1) s
  let size := s.get (SITE_RESULT_RING_SIZE i)
  if size = 0 then s1
  else
    let k := s.get (SITE_RESULT_RING_WRITE_INDEX i)
    let at_ := s.get (SITE_RESULT_BASE i) / 64 * 64 + 64 * k
    (s1.putRegion (s.region at_) (ws.flatMap (leBytes 4))).set (SITE_RESULT_RING_WRITE_INDEX i) ((k + 1) % size)

/-- A burst result written, and event 0x2002 raised (R150 step 5, R154, R155). -/
def State.burstResult (s : State) (i : Nat) (r : ResultInfo) : State :=
  (s.writeResult i (r.words i)).raise 0x2002 i (r.why.reason.code + 2 ^ 8 * r.why.detail + 2 ^ 16 * r.taint)

/-- SEG and OFFSET of a result (R152): of the last block issued, 0 for a list burst (R311), and free where no block was issued, for
the spec states none. -/
def State.resultPos (s : State) (list : Bool) (last : Option Pos) : Pos :=
  if list then ⟨0, 0⟩
  else
    match last with
    | some p => p
    | none => ⟨(Config.freeWord s.fresh).toNat % 2 ^ 16, (Config.freeWord (s.fresh + 1)).toNat⟩

/-- The result of the burst that ends now (R151). -/
def State.resultOf (s : State) (i : Nat) (e : EndRec) : ResultInfo :=
  let t := s.site i
  { why := e
    pass := !s.bit (SITE_CAP_STATUS_SUMMARY_FAIL i)
    taint := t.burst.taint
    noMatch := t.spec.noMatch
    seqNo := t.burst.seqNo
    pos := s.resultPos t.burst.listBurst.isSome t.seq.lastPos
    ovr := t.spec.ovrTotal
    start := s.tickAt t.burst.epoch
    end_ := s.tickAt t.burst.cycleEnd
    vectors := t.burst.vectors
    holds := t.burst.holds
    holdTicks := t.burst.holdTime / tickLsb
    matchIter := t.spec.matchIter
    mloopOvr := t.spec.mloopOvr }

/-- Whether a DRAINING site has nothing left to do: every vector has played, every result has committed or is discarded, every
record is written, and every pin is in its idle state (R150, R234, R253, R324). -/
def State.drained (s : State) (i : Nat) : Bool :=
  let t := s.site i
  decide (t.laneVecs = 0) && t.spec.window.isEmpty && t.spec.decisions.isEmpty && t.spec.returns.isEmpty && t.cap.queue.isEmpty &&
    s.xe.runs.all (fun r => decide (r.site ≠ i)) &&
    (s.sitePins i).all (fun p =>
      let q := s.pin p
      q.idle && q.acq.items.isEmpty && q.acq.open_.isNone && q.acq.stamping.isEmpty)

/-- Rings of the site's pins that end in PRE or POST are ENDED (R252). -/
def State.acqEnd (s : State) (i : Nat) : State :=
  (s.sitePins i).foldl
    (fun u p => if u.get (PIN_ACQ_STAT_STATE p) = 1 ∨ u.get (PIN_ACQ_STAT_STATE p) = 2 then u.set (PIN_ACQ_STAT_STATE p) 4 else u) s

/-- A site becomes IDLE (R150 step 6): its ACTIVE segments change state, its list and loop cache are let go, and it takes a pending
calibration set (R388). -/
def State.goIdle (s : State) (i : Nat) : State :=
  let s1 := ((((s.deactivateAll i).xeClear i).cacheRelease i).setLane i []).updSite i (fun t =>
    { t with seq := { t.seq with blk := none, waitSeg := none, calls := [], loops := [] }, burst := { t.burst with end_ := none, started := false } })
  let s2 := ((s1.set (SITE_SEQ_STATUS_REFILL_WAIT i) 0).set (SITE_STR_STATUS_STATE i) 0).setSiteSt i stIdle
  ((s2.seqStat i).siteTake i).devState

/-- A DRAINING site finishes (R150): its burst result is written, and its flow goes on (R338). -/
def State.drainComplete (s0 : State) (i : Nat) : State :=
  if s0.siteSt i ≠ stDraining ∨ (s0.site i).laneVecs ≠ 0 then s0
  else
    let ready := (s0.site i).spec.window.foldl (fun m e => max m e.readyAt) (s0.site i).burst.cycleEnd
    let s := (s0.at_ ready).settle i
    match (s.site i).burst.end_ with
    | none => s0
    | some e =>
      if s.drained i then (((s.tickFresh.tickFresh.burstResult i (s.resultOf i e)).acqEnd i).goIdle i).flowBurstDone i else s0

/-- DRAIN_COMPLETE (R150). -/
def execDrainComplete (i : Fin 16) (s : State) : Host.Outcome State Fault Refusal := .next (s.drainComplete i)

end Sys2Proof.Machine
end

