-- ==== Sys2Proof/Machine/Start.lean ====
section
/-! DEFINITION. How a burst begins: START and its refusals (R148, R149, R334), what the arm latches and resets (R197, R208, R223, R227,
R230, R251, R255), the fill, list bursts (R311), and ABORT. -/
namespace Sys2Proof.Machine

/-! The stream budget (R195, R197). -/

/-- The data rates of R195 and R439, in MT/s, by the code of DRC_SPk.RATE. -/
def dataRate : Nat → Nat
  | 1 => 4267
  | 2 => 5500
  | 3 => 6400
  | 4 => 7500
  | 5 => 8533
  | _ => 3200

/-- The populated DRAM channels: 4, 8 or 16 (R432). -/
def State.channels (s : State) : Nat := 4 * 2 ^ min 2 (fieldGet 2 2 s.drc.cfg)

/-- A share of DRAM bandwidth at the set point in force, in 10 MB/s, of what it is at 8,533 MT/s with 16 channels. -/
def State.bandShare (s : State) (full : Nat) : Nat :=
  full * dataRate (s.get (DRC_SP_RATE (s.get DRC_STATUS_SP))) * s.channels / (8533 * 16)

/-- The stream budget of R195, in 10 MB/s. -/
def State.streamBudget (s : State) : Nat := s.bandShare 15000

/-- The capture reserve of R195, in 10 MB/s. -/
def State.captureReserve (s : State) : Nat := s.bandShare 3500

/-- The budget registers of every site follow the set point (R217). -/
def State.budgets (s : State) : State :=
  (List.range 16).foldl
    (fun u i => (u.set (SITE_STR_BUDGET i) s.streamBudget).set (SITE_STR_BUDGET_CAPTURE i) s.captureReserve) s

/-- The admission check of R197 for a site: the sum of the reservations of every site that is not IDLE. -/
def State.admission (s : State) (i : Nat) : State :=
  let sum := (List.range 16).foldl (fun n k => if s.idle k then n else n + s.cfg k (SITE_STR_CFG_RES k)) 0
  let s1 := s.set (SITE_STR_SUM i) sum
  if s.streamBudget < sum then (s1.flag (SITE_STR_STATUS_OVERBOOKED i)).raise 0x3001 i sum else s1

/-! Refusals. -/

/-- Why a START is refused, as the detail of its result (R149); `seg` is none for a list burst. -/
def State.startRefusal (s : State) (i : Nat) (seg : Option Nat) : Option Nat :=
  if s.groups i = [] then some 2
  else if (s.groups i).any (fun g => s.octOff (g / 8) || decide (s.oct (g / 8) = .pendingOff)) then some 3
  else
    match seg with
    | none => none
    | some k =>
      if s.segInRange i k && decide ((s.seg i k).state ≠ .inactive) && s.maskOwned i (s.seg i k).entry.gmask then none
      else some 4

/-- A refused START: a result with end reason ABORT and no vector (R149). -/
def State.startRefused (s : State) (i detail : Nat) (list : Bool) : State :=
  let r : ResultInfo :=
    { why := abortRec detail, pass := true, taint := 0, noMatch := false, seqNo := (s.site i).bursts, pos := s.resultPos list none, ovr := 0,
      start := s.tick, end_ := s.tick, vectors := 0, holds := 0, holdTicks := 0, matchIter := 0, mloopOvr := 0 }
  let s1 := (s.tickFresh.tickFresh.flag (SITE_SEQ_STATUS_REFUSED i)).updSite i (fun t => { t with bursts := t.bursts + 1 })
  (s1.burstResult i r).flowBurstDone i

/-! The arm. -/

/-- HEAD, TAIL, COUNT and DROPPED of the fail log reset (R230). -/
def State.flogReset (s : State) (i : Nat) : State :=
  (((s.set (SITE_FLOG_HEAD i) 0).set (SITE_FLOG_TAIL i) 0).set (SITE_FLOG_COUNT i) 0).set (SITE_FLOG_DROPPED_COUNT i) 0

/-- A write of SITE_FLOG_SIZE resets the log in every case (R230). -/
def State.flogSizeWrite (s : State) (o : Origin) (i : Nat) (v : Word) : State := (s.regWrite o (SITE_FLOG_SIZE i).addr v).flogReset i

/-- A write of SITE_FLOG_BASE, both words together, does so too (R230). -/
def State.flogBaseWrite (s : State) (o : Origin) (i : Nat) (lo hi : Word) : State :=
  (s.regWrite64 o (SITE_FLOG_BASE_LO_BASE i).addr lo hi).flogReset i

/-- The fail registers reset at every arm (R223), and the fail log unless it is kept (R230): a GAP that is owed is kept with it (R232). -/
def State.armCapture (s : State) (i : Nat) : State :=
  let s1 := s.eraseRegs (0x1002000 + i * 0x100000) 0x2000
  let s2 := ((s1.set64 (SITE_CAP_FAILS_LO_FAILS i) (SITE_CAP_FAILS_HI_FAILS i) 0).set64 (SITE_CAP_FVEC_LO_FVEC i)
    (SITE_CAP_FVEC_HI_FVEC i) 0).set64 (SITE_CAP_GFAIL_LO_GFAIL i) (SITE_CAP_GFAIL_HI_GFAIL i) 0
  let s3 := (s2.set64 (SITE_CAP_FIRST_LO_FIRST i) (SITE_CAP_FIRST_HI_FIRST i) (2 ^ 64 - 1)).set (SITE_CAP_STATUS_SUMMARY_FAIL i) 0
  let keep := s.cfgBit i (SITE_FLOG_CFG_KEEP i)
  let s4 := if keep then s3 else s3.flogReset i
  let ok := s.placed (s.flogBase i) (s.flogSize i) && decide (160 ≤ s.flogSize i)
  let s5 := s4.updCap i (fun c => { CaptureState.reset with ok := ok, owed := keep && (c.owed || c.gap) })
  if s.cfg i (SITE_FLOG_CFG_MODE i) ≠ 0 ∧ !ok then (s5.flag (SITE_FLOG_STATUS_BAD_RING i)).raise 0x4005 i 0 else s5

/-- The acquisition registers of a pin reset at every arm (R251, R259, R260, R266). -/
def State.armPin (s : State) (i p : Nat) : State :=
  let s1 := (((s.set (PIN_ACQ_INDEX_WRITE p) 0).set (PIN_ACQ_INDEX_TRIG_INDEX p) 0).set (PIN_ACQ_COUNT_STORED p) 0).set
    (PIN_ACQ_COUNT_PRE p) 0
  let s2 := (s1.set (PIN_ACQ_MISSED p) 0).set (PIN_ACQ_STAT_STATE p) (if s.cfg i (PIN_ACQ_CFG_MODE p) = 0 then 0 else 1)
  let s3 := (s2.eraseRegs (0x8003060 + p * 0x10000) 0x24)
  ((s3.set (PIN_MASK_VIOL p) 0).set (PIN_AVG_NONE p) 0).updAcq p (fun _ => AcqState.reset)

/-- The acquisition registers of a site and its pins reset at every arm (R257, R259, R271). -/
def State.armAcq (s : State) (i : Nat) : State :=
  let s1 := (s.eraseRegs (0x1001420 + i * 0x100000) 8).set (SITE_MASK_VIOL i) 0
  (s.sitePins i).foldl (fun u p => u.armPin i p) (s1.updLines i (fun _ => LineState.reset))

/-- The transaction engine's registers of a site reset at every arm (R324, R330, R331). -/
def State.armXe (s : State) (i : Nat) : State :=
  let ok := s.placed (s.resBase i) (s.resSize i) && decide (160 ≤ s.resSize i)
  let s1 := s.updXeSite i (fun x => { XeSite.reset with resOk := ok, full := x.full })
  let s2 := (s1.set (XE_SITE_OK_COUNT i) 0).set (XE_SITE_ERR_COUNT i) 0
  (s2.sitePorts i).foldl (fun u n => u.set (XE_PORT_STEPS_COUNT n) 0) s2

/-- The watermarks checked at every arm (R208). -/
def State.armMarks (s : State) (i : Nat) : State :=
  let lo := s.cfg i (SITE_STR_WM_LOW i)
  let hi := s.cfg i (SITE_STR_WM_HIGH i)
  let size := s.cfg i (SITE_STR_BUF_SIZE i)
  if hi ≤ lo ∨ size < hi then
    (s.flag (SITE_STR_STATUS_CFG_BAD i)).updStr i (fun _ => { StreamState.reset with low := size / 2, high := size })
  else s.updStr i (fun _ => { StreamState.reset with low := lo, high := hi })

/-- Whether an arm of a site that begins now is held: by STANDBY (R547), a token (R528), or an amendment that names the site (R512). -/
def State.armHold (s : State) (i : Nat) : Bool :=
  decide (s.pwr.standby ≠ .none) || s.sec.waiting.isSome ||
    (match s.boot.amd with
      | none => false
      | some a => decide (a.phase = .waiting) && bitOf (leNat ((a.bytes.drop 0x20).take 4)) i)

/-- The configuration of a site latched, and everything that an arm resets (R188, R211, R237, R261, R270). -/
def State.armSite (s : State) (i : Nat) (seg list : Option Nat) : State :=
  let s1 := s.tdcCancelAll 1 (fun p => decide (s.pinOwner p = some i))
  let f := SITE_START_CFG_START_SEG i
  let old := Sparse.get resetWord (s.cfgWords i) f.addr
  let shadow := Sparse.set resetWord (s.cfgWords i) f.addr (fieldPut f.lo f.len old (seg.getD (fieldGet f.lo f.len old)))
  let s2 := s1.updSite i (fun t =>
    { t with
      shadow := shadow
      bursts := t.bursts + 1
      unsure := false
      seq := { SeqState.reset with pos := ⟨seg.getD 0, 0⟩ }
      lane := []
      spec := SpecState.reset
      burst :=
        { BurstState.reset with
          seqNo := t.bursts
          listBurst := list
          held := s.armHold i
          undef := t.unsure } })
  let s3 := (((((s2.armCapture i).armAcq i).armXe i).redArm i).armMarks i).setLevel i
  let s4 := if s.calHeld i then
      (s3.updCal (fun z => { z with busySites := s3.cal.busySites.filter (fun k => decide (k ≠ i)) ++ [i] }))
    else s3
  ((s4.setSiteSt i stArming).overlapMarks.admission i).devState

/-- The first block of an armed site (R129, R133, R146, R200): its segment becomes ACTIVE, the period in force is that of the block's
timeset, and the stream engine starts. -/
def State.armSeg (s : State) (i seg : Nat) : State :=
  let s1 := s.activate i seg
  let s2 := s1.updBurst i (fun b => { b with period := s1.tsp i (s1.headerAt i ⟨seg, 0⟩).ts })
  if s.segPlayable i seg then s2.engineRestart i none else s2.seqDone i (abortRec 0x04)

/-- A list burst starts (R308, R311). -/
def State.listStart (s : State) (i l : Nat) : State :=
  let s1 := s.startBurst i s.now
  if s.cfg i (XE_SITE_LIST_COUNT i) ≤ l then ((s1.flag (XE_SITE_STAT_BAD_LIST i)).xeOnce i 0x7005 l).endNow i (haltRec 0x30)
  else s1.handOver i l

/-- Whether something holds a site in ARMING (R383, R547, R556). -/
def State.armHeld (s : State) (i : Nat) : Bool := (s.site i).burst.held || s.hotHeld i || s.calHeld i

/-- A site armed for a segment, or for a list (R148, R311): refused, or left ARMING. A list burst starts at once unless it is held.
In FAULT no site arms (R510), nor in BOOT, before the Almanac is loaded (R395). -/
def State.armFrom (s : State) (i : Nat) (seg list : Option Nat) : State :=
  if !s.idle i then s.flag (SITE_SEQ_STATUS_START_BUSY i)
  else if !s.inService then s
  else
    match s.startRefusal i seg with
    | some d => s.startRefused i d list.isSome
    | none =>
      let s1 := s.armSite i seg list
      match seg, list with
      | some k, _ => s1.armSeg i k
      | none, some l =>
        let s2 := s1.updBurst i (fun b => { b with period := s1.tsp i (s1.cfg i (XE_SITE_TS_PARK_TS i)) })
        if s2.armHeld i then s2 else s2.listStart i l
      | none, none => s1

/-- A start at service level that is not the site's own flow's is discarded and counted (R334); `data` tells which command it was. -/
def State.startForeign (s : State) (o : Origin) (i : Nat) : Bool := decide (s.level i = 2) && decide (o ≠ .flow i)

/-- SITE_SEQ_CMD.START (R148). -/
def State.seqStart (s : State) (o : Origin) (i : Nat) : State :=
  if s.startForeign o i then (s.count (SVC_STAT_START_DISCARD i) 1).flowOnce i 0x8005 (2 ^ 8 * o.code)
  else s.armFrom i (some (s.get (SITE_START_CFG_START_SEG i))) none

/-- XE_SITEs_CMD.RUN (R311). -/
def State.listRun (s : State) (o : Origin) (i l : Nat) : State :=
  if s.startForeign o i then (s.count (SVC_STAT_START_DISCARD i) 1).flowOnce i 0x8005 (1 + 2 ^ 8 * o.code)
  else s.armFrom i none (some l)

/-- Whether the lanes of an ARMING site are filled: LEAD entries, or every vector up to the next stop of issue (R148, R204). -/
def State.laneFull (s : State) (i : Nat) : Bool :=
  decide (s.lead i ≤ (s.site i).laneVecs) || (s.site i).burst.end_.isSome || decide (s.stopWhy i ≠ .free) || s.xactWaits i

/-- Whether the start trigger of a site is its own arm: SOURCE host, and every burst at service level (R148). -/
def State.startsAtOnce (s : State) (i : Nat) : Bool := decide (s.cfg i (SITE_START_CFG_SOURCE i) = 0) || decide (s.level i = 2)

/-- An ARMING site whose lanes are filled becomes ARMED, and its burst starts if nothing else triggers it (R148). -/
def State.siteArmed (s : State) (i : Nat) : State :=
  if s.siteSt i ≠ stArming ∨ s.armHeld i then s
  else
    match (s.site i).burst.listBurst with
    | some l => s.listStart i l
    | none =>
      if !s.laneFull i then s
      else
        let s1 := (s.setSiteSt i stArmed).updBurst i (fun b => { b with armedAt := s.now })
        if s1.startsAtOnce i then s1.startBurst i s1.now else s1

/-- SITE_SEQ_CMD.ABORT (R148, R150): no effect while IDLE; a site that has not started returns to IDLE without a result, and its arm
takes no burst number. -/
def State.seqAbort (s : State) (i : Nat) : State :=
  if s.siteSt i = stArming ∨ s.siteSt i = stArmed then
    (s.goIdle i).updSite i (fun t => { t with bursts := (s.site i).burst.seqNo })
  else s.abortAtBoundary i 1

/-- A write to SITE_SEQ_CMD (R156): ABORT, then RESUME, then START act. -/
def State.seqCmd (s : State) (o : Origin) (i : Nat) (v : Word) : State :=
  let s1 := if bitOf v.toNat 1 then s.seqAbort i else s
  let s2 := if bitOf v.toNat 2 then s1.seqResume i else s1
  if bitOf v.toNat 0 then s2.seqStart o i else s2

/-- SEQ_START (R148). -/
def execSeqStart (o : Origin) (i : Fin 16) (s : State) : Host.Outcome State Fault Refusal := .next (s.seqStart o i)

/-- SITE_ARMED (R148). -/
def execSiteArmed (i : Fin 16) (s : State) : Host.Outcome State Fault Refusal := .next (s.siteArmed i)

/-- SEQ_ABORT (R150). -/
def execSeqAbort (i : Fin 16) (s : State) : Host.Outcome State Fault Refusal := .next (s.seqAbort i)

/-- LIST_BURST_RUN (R311). -/
def execListBurstRun (o : Origin) (i : Fin 16) (l : Fin 65536) (s : State) : Host.Outcome State Fault Refusal :=
  .next (s.listRun o i l)

end Sys2Proof.Machine
end

