-- ==== Sys2Proof/Machine/Flow.lean ====
section
/-! DEFINITION. The commands of a flow (R333, R335, R342, R348, R349, R354), the steps that read and write nothing outside the service
level (R338 to R342), and its handlers (R345). -/
namespace Sys2Proof.Machine

/-! Commands. -/

/-- The burst that the flow of site i waits for is ended as by SITE_SEQ_CMD.ABORT (R335, R345). A site that has not started returns to
IDLE and gives no result, so the step ends with it. A handler's ABORT sets C to 0 (R345); after SVC_CMD.STOP, C follows the burst result
(R338). -/
def State.flowAbortBurst (s : State) (i : Nat) (handler : Bool) : State :=
  if s.siteSt i = stArming ∨ s.siteSt i = stArmed then
    let s1 := if handler then (s.seqAbort i).setC i false else s.seqAbort i
    s1.flowGo i ((s.flow i).step + 1)
  else (s.updFlow i (fun f => { f with aborted := handler })).seqAbort i

/-- The step in progress ended at once (R335, R345). A handler's ABORT sets C to 0 (R345); a WAIT ended by SVC_CMD.STOP has met no timeout, so
it sets C to 1 (R338). -/
def State.flowBreak (s : State) (i : Nat) (handler : Bool) : State :=
  match (s.flow i).wait with
  | .none => s
  | .burst _ _ _ _ => s.flowAbortBurst i handler
  | .wait _ _ _ _ _ _ => (s.setC i (!handler)).flowGo i ((s.flow i).step + 1)
  | .access => s

/-- SVC_CMD.STOP (R335): the run ends at the next step boundary, and with ABORT the burst or wait in progress ends too. -/
def State.flowStopCmd (s : State) (i : Nat) (abort : Bool) : State :=
  if s.flowSt i = flStopped ∨ s.flowSt i = flFault then s
  else if (s.flow i).wait = .none ∧ (s.flow i).stall = none then s.flowEnd i flStopped
  else
    let s1 := s.updFlow i (fun f => { f with stop := true })
    if abort then s1.flowBreak i false else s1

/-- SVC_CMD.CLR_BINS (R342). -/
def State.clrBins (s : State) (i : Nat) : State := s.eraseRegs (0xB8000 + 0x400 * i) 0x400

/-- SVC_CMD.FLUSH (R348). -/
def State.dlogFlush (s : State) (i : Nat) : State := if (s.dlog i).recs = [] then s else s.dlogClose i

/-- A write to SVC_CMD (R353): STOP, RUN, CLR_BINS and FLUSH act in this order. -/
def State.svcCmd (s : State) (i : Nat) (v : Word) : State :=
  let n := v.toNat
  let s1 := if bitOf n 1 then s.flowStopCmd i (bitOf n 2) else s
  let s2 := if bitOf n 0 then s1.flowRun i else s1
  let s3 := if bitOf n 3 then s2.clrBins i else s2
  if bitOf n 4 then s3.dlogFlush i else s3

/-- A write to SVC_DLOG_TAIL (R349): room is freed, and a STALLED flow may go on. -/
def State.dlogTailWrite (s : State) (o : Origin) (i : Nat) (v : Word) : State :=
  ((s.regWrite o (SVC_DLOG_TAIL i).addr v).updDlog i (fun d => { d with full := false })).flowResume i

/-- A write to SVC_DLOG_BASE as a whole (R354). -/
def State.dlogBaseWrite (s : State) (o : Origin) (i : Nat) (lo hi : Word) : State :=
  (s.regWrite64 o (SVC_DLOG_BASE_LO_BASE i).addr lo hi).dlogMoved i

/-- A write to one word of SVC_DLOG_BASE (0: low, held; 1: high, completing the value) or to SVC_DLOG_SIZE (2) (R4, R354). -/
def State.dlogRingSet (s : State) (o : Origin) (i k : Nat) (v : Word) : State :=
  if k < 2 then s.pairWrite o (SVC_DLOG_BASE_LO_BASE i).addr (decide (k = 1)) v (fun u lo hi => u.dlogBaseWrite o i lo hi)
  else (s.regWrite o (SVC_DLOG_SIZE i).addr v).dlogMoved i

/-! Steps. -/

/-- Whether the flow of a site is at a step boundary from which its next step runs: the site is at service level (R10, R332), and no handler is
pending, or one runs (R345). -/
def State.flowReady (s : State) (i : Nat) : Bool :=
  let f := s.flow i
  decide (s.level i = 2) && (decide (s.flowSt i = flRunning) || decide (s.flowSt i = flHandler)) && decide (f.wait = .none) &&
    f.stall.isNone && (f.queue.isEmpty || f.ret.isSome)

/-- The address of the present step (R332). -/
def State.flowAt (s : State) (i : Nat) : Nat := s.svcCfg i 1 (SVC_FLOW_BASE i) / 32 * 32 + 32 * (s.flow i).step

/-- Word k of the present step (R337). -/
def State.flowWord (s : State) (i k : Nat) : Nat := s.ocmAt (s.flowAt i + 4 * k)

/-- The present step run, if it is of a kind (R337). A step of a reserved kind, or at or beyond FLOW_COUNT, faults (R336); one that memory does
not serve yet waits (R413). -/
def State.flowStep (s : State) (i kind : Nat) (f : State → State) : State :=
  if !s.flowReady i then s
  else if min 1024 (s.svcCfg i 2 (SVC_FLOW_COUNT i)) ≤ (s.flow i).step then s.flowFault i
  else if s.rangeServed (s.region (s.flowAt i)) 32 = .stall then s
  else
    let k := bitsOf (s.flowWord i 0) 0 4
    if 12 ≤ k then (s.checkRegion (s.region (s.flowAt i)) 32).flowFault i
    else if k = kind then f (s.checkRegion (s.region (s.flowAt i)) 32)
    else s

/-- The run continues at the next step. -/
def State.flowNext (s : State) (i : Nat) : State := s.flowGo i ((s.flow i).step + 1)

/-- A two-word operand of the present step, as s64, from word k on (R338). -/
def State.flowLong (s : State) (i k : Nat) : Int := signedOf 64 (s.flowWord i k + 2 ^ 32 * s.flowWord i (k + 1))

/-- The TEST id of the present step (R337). -/
def State.flowTest (s : State) (i : Nat) : Nat := bitsOf (s.flowWord i 6) 0 16

/-- END (R342). -/
def State.stepEnd (s : State) (i : Nat) : State :=
  let bin := ((s.flow i).bin).getD (s.svcCfg i 0 (SVC_CFG_DEFAULT_BIN i))
  let s1 := (s.count (SVC_BINCNT_COUNT i bin) 1).set (SVC_LASTBIN i) bin
  s1.flowRecord i (plainRec 0x04 (s.flowTest i) bin 0) (.done (bitOf (s.flowWord i 0) 17))

/-- The flow waits for the result of a burst that it starts (R338). -/
def State.flowStarts (s : State) (i : Nat) (seg list : Option Nat) : State :=
  let w0 := s.flowWord i 0
  let tf := bitOf (s.flowWord i 1) 16
  let s1 := (s.set (SVC_STAT_STATE i) flWaiting).updFlow i (fun f =>
    { f with wait := .burst w0 (s.flowTest i) list.isSome (tf && list.isNone) })
  s1.armFrom i seg list

/-- BURST and XLIST (R338). On a site that is not IDLE the start is ignored (R148), and the step waits for the result of the burst
that runs. -/
def State.stepBurst (s : State) (i : Nat) (xlist : Bool) : State :=
  let n := bitsOf (s.flowWord i 1) 0 16
  if xlist then s.flowStarts i none (some n) else s.flowStarts i (some n) none

/-- Saturation in s64 (R338). -/
def sat64 (x : Int) : Int := clampInt (-(2 ^ 63)) (2 ^ 63 - 1) x

/-- CALC (R338): the result and its validity; codes 6 and 7 fault. -/
def State.stepCalc (s : State) (i : Nat) : State :=
  let w0 := s.flowWord i 0
  let w1 := s.flowWord i 1
  let va := bitsOf w0 8 4
  let vb := bitsOf w0 12 4
  let a := s.var i va
  let b := s.var i vb
  let ok := s.varOk i va
  let ok2 := ok && s.varOk i vb
  let put (x : Int) (v : Bool) : State := (s.setVar i (bitsOf w0 4 4) (sat64 x) v).flowNext i
  match bitsOf w1 0 3 with
  | 0 => put (s.flowLong i 2) true
  | 1 => put (a + b) ok2
  | 2 => put (a - b) ok2
  | 3 => put (a * b) ok2
  | 4 => put (a >>> bitsOf w1 8 6) ok
  | 5 => put a ok
  | _ => s.flowFault i

/-- The run's bin set (R341). -/
def State.flowBin (s : State) (i bin : Nat) (force : Bool) : State :=
  if force || (s.flow i).bin.isNone then s.updFlow i (fun f => { f with bin := some bin }) else s

/-- LIMIT (R340). -/
def State.stepLimit (s : State) (i : Nat) : State :=
  let w0 := s.flowWord i 0
  let w5 := s.flowWord i 5
  let v := bitsOf w0 8 4
  let a := s.var i v
  let ok := s.varOk i v
  let lo := s.flowLong i 1
  let hi := s.flowLong i 3
  let loFail := ok && bitOf w0 17 && decide (a < lo)
  let hiFail := ok && bitOf w0 18 && decide (hi < a)
  let pass := ok && !loFail && !hiFail
  let s1 := s.setC i pass
  let s2 := if !pass && bitOf w5 8 then s1.flowBin i (bitsOf w5 0 8) false else s1
  let bound : Int := if loFail then lo else if hiFail then hi else 0
  let next := FlowThen.go ((s.flow i).step + 1)
  if bitOf w0 16 then
    s2.flowRecord i ⟨0x02, pass, ok, loFail, hiFail, s.flowTest i, unsignedOf 64 a, unsignedOf 64 bound⟩ next
  else s2.flowThen i next

/-- BIN (R341). -/
def State.stepBin (s : State) (i : Nat) : State :=
  let w1 := s.flowWord i 1
  (s.flowBin i (bitsOf w1 0 8) (bitOf w1 8)).flowNext i

/-- JUMP (R338). -/
def State.stepJump (s : State) (i : Nat) : State :=
  let w1 := s.flowWord i 1
  let v := bitsOf (s.flowWord i 0) 8 4
  let hold := match bitsOf w1 12 2 with
    | 0 => true
    | 1 => s.bit (SVC_STAT_C i)
    | 2 => !s.bit (SVC_STAT_C i)
    | _ => s.varOk i v && decide (s.var i v ≠ 0)
  if hold then s.flowGo i (bitsOf w1 0 10) else s.flowNext i

/-- WAIT (R338): an event bit that is set already ends it at once. -/
def State.stepWaitFor (s : State) (i : Nat) : State :=
  let w1 := s.flowWord i 1
  let what := bitsOf w1 0 2
  let sel := match what with
    | 2 => bitsOf w1 4 2
    | 3 => bitsOf w1 8 5
    | _ => 0
  let until_ := if what = 0 then some (s.now + s.flowWord i 2 * us) else none
  let timeout := if s.flowWord i 3 = 0 then none else some (s.now + s.flowWord i 3 * us)
  let ready := if what = 3 ∧ bitOf s.evtState sel then some s.now else none
  (s.set (SVC_STAT_STATE i) flWaiting).updFlow i (fun f => { f with wait := .wait what sel s.now until_ timeout ready })

/-- A WAIT step ends (R338): with what it waits for, or at its timeout with C = 0. -/
def State.flowWaitDone (s : State) (i : Nat) : State :=
  match (s.flow i).wait with
  | .wait what _ _ until_ timeout ready =>
    let come := if what = 0 then until_ else ready
    let late (t : Nat) : Bool := match timeout with
      | none => false
      | some d => decide (d < t)
    match come with
    | some t =>
      if late t then (((s.at_ (timeout.getD 0)).setC i false).flowNext i)
      else ((s.at_ t).setC i true).flowNext i
    | none =>
      match timeout with
      | none => s
      | some d => ((s.at_ d).setC i false).flowNext i
  | _ => s

/-- LOG: a VALUE record of VA and VB (R338, R347). -/
def State.stepLog (s : State) (i : Nat) : State :=
  let w0 := s.flowWord i 0
  let va := bitsOf w0 8 4
  s.flowRecord i
    { plainRec 0x03 (s.flowTest i) (unsignedOf 64 (s.var i va)) (unsignedOf 64 (s.var i (bitsOf w0 12 4))) with valid := s.varOk i va }
    (.go ((s.flow i).step + 1))

/-- HRET (R345): outside a handler it faults (R336). -/
def State.stepHret (s : State) (i : Nat) : State :=
  match (s.flow i).ret with
  | none => s.flowFault i
  | some k => (s.updFlow i (fun f => { f with ret := none })).flowGo i k

/-! Handlers. -/

/-- A pending match starts at a step boundary (R345): V15 and V14 tell the event, and the run goes on at the handler's step. -/
def State.handlerEnter (s : State) (i : Nat) : State :=
  match (s.flow i).queue with
  | [] => s
  | m :: rest =>
    let back := (s.flow i).step
    let s1 := s.updFlow i (fun f => { f with queue := rest, ret := some back })
    let v15 := m.code * 65536 + m.source
    let s2 := (s1.setVar i 15 v15 true).setVar i 14 m.data true
    s2.flowRecord i (plainRec 0x06 m.step v15 m.data) (.go m.step)

/-- HANDLER_START: a handler taken in STOPPED starts a run first (R344, R345), where flows may start (R510). -/
def State.handlerStart (s : State) (i : Nat) : State :=
  if (s.flow i).queue = [] then s
  else
    let s1 := if s.flowSt i = flStopped ∧ s.level i = 2 ∧ s.inService = true then s.runStart i else s
    if s1.flowSt i = flRunning ∧ (s1.flow i).wait = .none ∧ (s1.flow i).ret = none then s1.handlerEnter i else s1

/-- A taken match (R344): it enters the pending queue of 16, or is dropped; with ABORT it ends the step in progress (R345). -/
def State.handlerTake (s : State) (i : Nat) (m : FlowMatch) : State :=
  if 16 ≤ (s.flow i).queue.length then (s.flag (SVC_STAT_H_DROPPED i)).flowOnce i 0x8004 m.code
  else
    let s1 := s.updFlow i (fun f => { f with queue := f.queue ++ [m] })
    if m.abort && (s.flow i).ret.isNone then s1.flowBreak i true else s1

/-- The handler table of a site, as its address and its entries (R343, R344): of the registers of the run while one is in progress, and of the
present ones while the flow is STOPPED. It is empty where nothing is matched: off service level, and in FAULT. -/
def State.handlerTable (s : State) (i : Nat) : Nat × Nat :=
  if s.level i ≠ 2 ∨ s.flowSt i = flFault then (0, 0)
  else if s.flowSt i = flStopped then (s.get (SVC_HTAB_BASE i) / 8 * 8, min 64 (s.get (SVC_HTAB_COUNT i)))
  else (s.svcCfg i 3 (SVC_HTAB_BASE i) / 8 * 8, min 64 (s.svcCfg i 4 (SVC_HTAB_COUNT i)))

/-- The first entry of a site's handler table that matches an event (R343, R344). -/
def State.handlerMatch (s : State) (i code source data : Nat) : Option FlowMatch :=
  let stopped := decide (s.flowSt i = flStopped)
  let t := s.handlerTable i
  let base := t.1
  ((List.range t.2).find? (fun k =>
      let w0 := s.ocmAt (base + 8 * k)
      let w1 := s.ocmAt (base + 8 * k + 4)
      let mask := bitsOf w0 16 16
      bitOf w1 28 && (!stopped || bitOf w1 29) && decide (code &&& mask = bitsOf w0 0 16 &&& mask) &&
        (bitOf w1 26 || decide (source = bitsOf w1 0 16)))).map
      (fun k =>
        let w1 := s.ocmAt (base + 8 * k + 4)
        ⟨code, source, data, bitsOf w1 16 10, bitOf w1 27⟩)

/-- An event record matched against the handler table of site i, which is read with the checks of R21 and R407. -/
def State.handlerSite (s : State) (i : Nat) (e : EventRec) : State :=
  let t := s.handlerTable i
  match s.handlerMatch i e.code e.source e.data with
  | none => s.checkTable t.1 (8 * t.2)
  | some m => (s.checkTable t.1 (8 * t.2)).handlerTake i m

/-- An event record matched against the handler table of every site (R344). -/
def State.handlersMatch (s : State) (e : EventRec) : State := (List.range 16).foldl (fun u i => u.handlerSite i e) s

/-! The level of a site. -/

/-- A site at another level than service has no flow (R10, R332): a run of its ends, as by SVC_CMD.STOP, and a handler that would start one is gone. -/
def State.flowLeave (s : State) (i : Nat) : State :=
  if s.level i = 2 ∨ s.flowSt i = flFault ∨ (s.flowSt i = flStopped ∧ (s.flow i).queue = []) then s else s.flowEnd i flStopped

/-- A write to SYS_SITE_LEVEL (R10, R25, R28). -/
def State.levelWrite (s : State) (o : Origin) (v : Word) : State :=
  (List.range 16).foldl (fun u i => u.flowLeave i) (s.siteLevelWrite o v)

/-! The commands. -/

/-- SITE_LEVEL_WRITE: a write to SYS_SITE_LEVEL (R25). -/
def execSiteLevelWrite (o : Origin) (v : Word) (s : State) : Host.Outcome State Fault Refusal := .next (s.levelWrite o v)

/-- FLOW_RUN (R333). -/
def execFlowRun (i : Fin 16) (s : State) : Host.Outcome State Fault Refusal := .next (s.flowRun i)

/-- FLOW_STOP_CMD (R335). -/
def execFlowStopCmd (i : Fin 16) (abort : Bool) (s : State) : Host.Outcome State Fault Refusal := .next (s.flowStopCmd i abort)

/-- CLR_BINS (R342). -/
def execClrBins (i : Fin 16) (s : State) : Host.Outcome State Fault Refusal := .next (s.clrBins i)

/-- DLOG_FLUSH (R348). -/
def execDlogFlush (i : Fin 16) (s : State) : Host.Outcome State Fault Refusal := .next (s.dlogFlush i)

/-- FLOW_END (R342). -/
def execFlowEnd (i : Fin 16) (s : State) : Host.Outcome State Fault Refusal := .next (s.flowStep i 0x0 (fun u => u.stepEnd i))

/-- FLOW_BURST (R338). -/
def execFlowBurst (i : Fin 16) (s : State) : Host.Outcome State Fault Refusal :=
  .next (s.flowStep i 0x1 (fun u => u.stepBurst i false))

/-- FLOW_XLIST (R338). -/
def execFlowXlist (i : Fin 16) (s : State) : Host.Outcome State Fault Refusal :=
  .next (s.flowStep i 0x2 (fun u => u.stepBurst i true))

/-- FLOW_CALC (R338). -/
def execFlowCalc (i : Fin 16) (s : State) : Host.Outcome State Fault Refusal := .next (s.flowStep i 0x4 (fun u => u.stepCalc i))

/-- FLOW_LIMIT (R340). -/
def execFlowLimit (i : Fin 16) (s : State) : Host.Outcome State Fault Refusal := .next (s.flowStep i 0x5 (fun u => u.stepLimit i))

/-- FLOW_BIN (R341). -/
def execFlowBin (i : Fin 16) (s : State) : Host.Outcome State Fault Refusal := .next (s.flowStep i 0x6 (fun u => u.stepBin i))

/-- FLOW_JUMP (R338). -/
def execFlowJump (i : Fin 16) (s : State) : Host.Outcome State Fault Refusal := .next (s.flowStep i 0x7 (fun u => u.stepJump i))

/-- FLOW_WAIT (R338). -/
def execFlowWait (i : Fin 16) (s : State) : Host.Outcome State Fault Refusal := .next (s.flowStep i 0x8 (fun u => u.stepWaitFor i))

/-- FLOW_WAIT_DONE (R338). -/
def execFlowWaitDone (i : Fin 16) (s : State) : Host.Outcome State Fault Refusal := .next (s.flowWaitDone i)

/-- FLOW_LOG (R338). -/
def execFlowLog (i : Fin 16) (s : State) : Host.Outcome State Fault Refusal := .next (s.flowStep i 0xA (fun u => u.stepLog i))

/-- FLOW_HRET (R345). -/
def execFlowHret (i : Fin 16) (s : State) : Host.Outcome State Fault Refusal := .next (s.flowStep i 0xB (fun u => u.stepHret i))

/-- HANDLER_START (R345). -/
def execHandlerStart (i : Fin 16) (s : State) : Host.Outcome State Fault Refusal := .next (s.handlerStart i)

/-- BATCH_SIGNED (R348). -/
def execBatchSigned (s : State) : Host.Outcome State Fault Refusal := .next s.batchSigned

/-- DLOG_TAIL_WRITE (R349). -/
def execDlogTailWrite (o : Origin) (i : Fin 16) (v : Word) (s : State) : Host.Outcome State Fault Refusal :=
  .next (s.dlogTailWrite o i v)

/-- DLOG_RING_WRITE (R354): a write to one of SVC_DLOG_BASE (low word 0, high word 1) and SVC_DLOG_SIZE (2). -/
def execDlogRingWrite (o : Origin) (i : Fin 16) (k : Fin 3) (v : Word) (s : State) : Host.Outcome State Fault Refusal :=
  .next (s.dlogRingSet o i k v)

end Sys2Proof.Machine
end

