-- ==== Sys2Proof/Machine/DmaOps.lean ====
section
/-! DEFINITION. DMA descriptors in progress and the domains they target (R458, R460, R463). -/
namespace Sys2Proof.Machine

/-- A DMA channel. -/
def State.chan (s : State) (n : Nat) : DmaChan := Sparse.get (fun _ => DmaChan.reset) s.dma.chans n

/-- A DMA channel changed by a function. -/
def State.updChan (s : State) (n : Nat) (f : DmaChan → DmaChan) : State :=
  (s.updDma (fun z => { z with chans := Sparse.set (fun _ => DmaChan.reset) s.dma.chans n (f (s.chan n)) }))

/-- OP of a descriptor: 0 COPY, 1 FILL (R458). -/
def DmaDesc.op (d : DmaDesc) : Nat := bitsOf d.w0 2 2

/-- The address ranges of a descriptor: SRC, for a COPY, and DST. -/
def DmaDesc.ranges (d : DmaDesc) : List (Nat × Nat) :=
  if d.op = 1 then [(d.dst, d.length)] else [(d.src, d.length), (d.dst, d.length)]

/-- Whether a range reaches an on-chip bank, through its window or its aliases (R20). -/
def reachesBank (a n b : Nat) : Bool :=
  [0x40000000, 0x50000000, 0x60000000].any (fun w => rangesMeet a n (w + b * 0x100000) 0x100000)

/-- Whether a range reaches DRAM. -/
def State.reachesDram (s : State) (a n : Nat) : Bool := rangesMeet a n dramBase s.usable

/-- Whether a range reaches PIN blocks of an octant, broadcast blocks apart (R22). -/
def reachesOct (a n k : Nat) : Bool := rangesMeet a n (0x8000000 + k * 0x400000) 0x400000

/-- The descriptors in progress. -/
def State.descs (s : State) : List DmaDesc := s.dma.chans.filterMap (fun c => c.2.cur)

/-- Whether a descriptor in progress targets a bank (R463). -/
def State.dmaOnBank (s : State) (b : Nat) : Bool := s.descs.any (fun d => d.ranges.any (fun r => reachesBank r.1 r.2 b))

/-- Whether a descriptor in progress targets DRAM (R463). -/
def State.dmaOnDram (s : State) : Bool := s.descs.any (fun d => d.ranges.any (fun r => s.reachesDram r.1 r.2))

/-- Whether a descriptor in progress targets the PIN blocks of an octant (R463). -/
def State.dmaOnOct (s : State) (k : Nat) : Bool := s.descs.any (fun d => d.ranges.any (fun r => reachesOct r.1 r.2 k))

/-- Whether a segment is claimed by a descriptor in progress (R461). -/
def State.claimed (s : State) (i id : Nat) : Bool :=
  s.descs.any (fun d => bitOf d.w0 4 && decide (bitsOf d.w0 5 4 = i) && decide (bitsOf d.w6 0 16 = id) && d.checked)

end Sys2Proof.Machine
end

