-- ==== Sys2Proof/Machine/Dram.lean ====
section
/-! DEFINITION. The DRAM controller: queues and picks (R433 to R436), refresh (R437, R438), set points and training
(R439 to R442), and power (R443 to R447). -/
namespace Sys2Proof.Machine

/-! Configuration (R427, R449). -/

/-- Whether a DRC_CFG word lies within R427. -/
def drcCfgOk (w : Word) : Bool :=
  decide (fieldGet 2 2 w ≠ 3) && decide (fieldGet 5 2 w ≠ 3) && !(decide (fieldGet 4 1 w = 1) && decide (fieldGet 5 2 w = 2))

/-- The usable capacity U of a DRC_CFG word, in bytes (R428): 8 Gb is 1 GiB. -/
def drcUsable (w : Word) : Nat :=
  4 * 2 ^ fieldGet 2 2 w * (1 + fieldGet 4 1 w) * 7 / 8 * (2 ^ 30 * 2 ^ fieldGet 5 2 w)

/-! Queues and picks (R433 to R436). -/

/-- A site's grant per 1 µs interval, in bytes: its reservation, scaled down when the reservations of running sites exceed the budget
(R196). -/
def State.siteGrant (s : State) (i : Nat) : Nat :=
  let sum := (List.range 16).foldl (fun n k => if s.inBurst k then n + s.cfg k (SITE_STR_CFG_RES k) else n) 0
  let r := s.cfg i (SITE_STR_CFG_RES i)
  if sum ≤ s.streamBudget then 10 * r else 10 * r * s.streamBudget / sum

/-- The class of a request (R196, R434): 1 for a stream request within the site's grant, 2 for a capture write within the reserve, else 3. -/
def State.reqClass (s : State) (r : DrcReq) : Nat :=
  match r.kind with
  | .stream => if (s.site r.site).str.granted + 32 ≤ s.siteGrant r.site then 1 else 3
  | .capture => if s.drc.captured + 32 ≤ 10 * s.captureReserve then 2 else 3
  | .other => 3

/-- Whether two requests wait in one queue. -/
def DrcReq.sameQueue (a b : DrcReq) : Bool := decide (a.chan = b.chan) && decide (a.bank = b.bank)

/-- Whether a request finds an entry of its queue: sixteen, four of them reserved for class 1 (R433). -/
def State.queueRoom (s : State) (r : DrcReq) : Bool :=
  decide ((s.drc.queue.filter (fun q => q.sameQueue r)).length < (if s.reqClass r = 1 then 16 else 12))

/-- Requests that wait at the input enter their queues, in order of arrival; one that waits stops only the requests to its bank. -/
def State.drcEnter (s : State) : List DrcReq → State
  | [] => s
  | r :: rest =>
    let u :=
      if s.queueRoom r && !s.drc.input.any (fun q => q.sameQueue r) then s.updDrc (fun d => { d with queue := d.queue ++ [r] })
      else s.updDrc (fun d => { d with input := d.input ++ [r] })
    State.drcEnter u rest

/-- Requests of the input tried again. -/
def State.drcRefill (s : State) : State := (s.updDrc (fun d => { d with input := [] })).drcEnter s.drc.input

/-- Whether the controller serves requests (R437, R440, R441, R450). -/
def State.drcServes (s : State) : Bool :=
  decide (s.get DRC_STATUS_STATE = 2) || decide (s.get DRC_STATUS_STATE = 3) || decide (s.get DRC_STATUS_STATE = 5)

/-- The request that a channel picks (R434): by class, then in rotation from the rank-bank after the last one, the oldest of it. -/
def State.drcPick (s : State) (ch : Nat) : Option DrcReq :=
  let mine := s.drc.queue.filter (fun r => decide (r.chan = ch))
  let last := Sparse.get (fun _ => 31) s.drc.last ch
  let turn (cls : Nat) : Option DrcReq :=
    ((List.range 32).filterMap (fun k =>
      mine.find? (fun r => decide (r.bank = (last + k + 1) % 32) && decide (s.reqClass r = cls)))).head?
  (turn 1).orElse (fun _ => (turn 2).orElse (fun _ => turn 3))

/-- The requests that one activation serves (R435): the picked one and the later ones of its queue to the same row, up to 16 bursts. -/
def DrcReq.rowOf (r : DrcReq) (queue : List DrcReq) : List DrcReq :=
  let later := (queue.dropWhile (fun q => decide (q ≠ r))).drop 1
  r :: (later.filter (fun q => q.sameQueue r && decide (q.row = r.row))).take 15

/-- A request served, counted against its grant (R196). -/
def State.drcServe (s : State) (r : DrcReq) : State :=
  let s1 := match r.kind with
    | .stream => s.updStr r.site (fun t => { t with granted := t.granted + 32 })
    | .capture => s.updDrc (fun d => { d with captured := d.captured + 32 })
    | .other => s
  s1.updDrc (fun d => { d with queue := d.queue.erase r })

/-- A channel picks and serves a row (R434, R435). -/
def State.dramPick (s0 : State) (ch : Nat) : State :=
  if !s0.drcServes then s0
  else
    let s := (s0.at_ s0.drc.stallEnd).drcRefill
    match s.drcPick ch with
    | none => s0
    | some r =>
      let s1 := (r.rowOf s.drc.queue).foldl State.drcServe s
      (s1.updDrc (fun d => { d with last := Sparse.set (fun _ => 31) d.last ch r.bank })).drcRefill

/-- A 1 µs interval ends: every grant is renewed (R196). -/
def State.grantInterval (s : State) : State :=
  let s1 := s.at_ (s.ofMer ((s.merAt s.now / us + 1) * us))
  ((List.range 16).foldl (fun u i => if (u.site i).str.granted = 0 then u else u.updStr i (fun t => { t with granted := 0 })) s1).updDrc
    (fun d => { d with captured := 0 })

/-! Refresh (R437, R438) and scrubbing (R431). -/

/-- The refresh period in ticks. -/
def State.refPeriodTicks (s : State) : Nat := if s.bit DRC_STATUS_REF_2X then 6250 else 12500

/-- The length of a refresh stall, by density (R437). -/
def State.refStall (s : State) : Nat :=
  match fieldGet 5 2 s.drc.cfg with
  | 0 => 270 * ns
  | 1 => 340 * ns
  | _ => 440 * ns

/-- The next refresh (R437): at the first Meridian tick t after now with t mod 12,500, or 6,250, equal to PHASE. -/
def State.dramRefresh (s : State) : State :=
  if s.get DRC_STATUS_STATE ≠ 2 ∧ s.get DRC_STATUS_STATE ≠ 3 ∧ s.get DRC_STATUS_STATE ≠ 5 then s
  else
    let per := s.refPeriodTicks
    let ph := s.get DRC_REF_CFG_PHASE % per
    let t := s.merAt s.now / tickLsb
    let next := t + 1 + (ph + per - (t + 1) % per) % per
    let s1 := s.at_ (s.ofMer (next * tickLsb))
    s1.updDrc (fun d => { d with stallEnd := s1.now + s.refStall, refreshed := true })

/-- Whether a burst of a site that has read DRAM is in progress (R444, R557). -/
def State.readDram (s : State) (i : Nat) : Bool := s.inBurst i && (s.site i).str.readDram

/-- The channels whose ranks report a need beyond the doubled rate (R438), and its effect on bursts (R557). -/
def State.dramHot (s : State) (hot : List Nat) : State :=
  if hot = [] then s
  else
    let s1 := hot.foldl (fun u c => u.raise 0xC007 noSource c) (s.flag DRC_STATUS_OVERTEMP)
    (List.range 16).foldl
      (fun u i =>
        if u.readDram i then
          let v := u.taint i taintThermal
          if s.bit PWR_THERM_CFG_DRAM_STOP then v.abortAtBoundary i 0x50 else v
        else u) s1

/-- The refresh-rate fields read (R438): the channels that need the doubled rate, and those beyond it. -/
def State.dramTemp (s : State) (need hot : List Nat) : State :=
  if need = [] ∧ hot = [] then
    let s1 := s.updDrc (fun d => { d with calm := d.calm + 1 })
    if s.bit DRC_STATUS_REF_2X && decide (4 ≤ s1.drc.calm) then (s1.set DRC_STATUS_REF_2X 0).raise 0xC006 noSource 0 else s1
  else
    let s1 := (s.updDrc (fun d => { d with calm := 0 })).raiseIf (!s.bit DRC_STATUS_REF_2X) 0xC006 noSource 1
    ((s1.flag DRC_STATUS_REF_2X).taintAll taintThermal).dramHot hot

/-- The scrubber reads the next data line (R431); `e` is what the check meets in its first pair. -/
def State.dramScrub (s : State) (e : Ecc) : State :=
  if !s.bit DRC_CFG_SCRUB_EN || !s.drcServes || decide (s.usable = 0) then s
  else
    let x := 32 * s.drc.scrub
    let s1 := ((s.dramUpset e x).dramCheck x 32)
    s1.updDrc (fun d => { d with scrub := if x + 32 < s.usable then d.scrub + 1 else 0 })

/-! Set points and training (R439 to R442). -/

/-- The eye words of a lane at a set point. -/
def State.eyeOf (s : State) (sp l : Nat) : Word × Word := Sparse.get (fun _ => (0, 0)) s.drc.eyes (32 * sp + l)

/-- DRC_EYE follows the set point in force (R456). -/
def State.showEyes (s : State) : State :=
  (List.range 32).foldl
    (fun u l =>
      let e := s.eyeOf (s.get DRC_STATUS_SP) l
      (u.setReg (DRC_EYE_RD_RD_W l).addr e.1).setReg (DRC_EYE_WR_WR_W l).addr e.2) s

/-- Whether an eye, width in ps and height in mV, reaches the limits at a set point (R441). -/
def State.eyeOk (s : State) (sp w h : Nat) : Bool :=
  decide (s.get DRC_TRAIN_LIMIT_MIN_W * 1000000 ≤ w * 100 * dataRate (s.get (DRC_SP_RATE sp))) &&
    decide (s.get DRC_TRAIN_LIMIT_MIN_H ≤ h)

/-- Training of set points starts (R441). -/
def State.trainStart (s : State) (sps : List Nat) (f : TrainFor) : State :=
  ((s.set DRC_STATUS_STATE 1).flag DRC_TRAIN_CMD_GO).updDrc (fun d => { d with train := some ⟨sps, f, [], false⟩ })

/-- The DRAM is On again; a power request that waits is pending (R444). -/
def State.dramOn (s : State) : State :=
  s.set DRC_STATUS_STATE (match s.drc.want with | some _ => 3 | none => 2)

/-- Clearing starts, of every segment that was not retained (R447). -/
def State.clearStart (s : State) (retained : Nat) : State :=
  let s1 := (s.set DRC_STATUS_CLEAR_SEG retained).updDrc (fun d => { d with clearing := 0xFF - retained, retained := retained })
  if retained = 0xFF then s1.dramOn else s1.set DRC_STATUS_STATE 5

/-- A set-point change ends (R440): the admission check of every running site is repeated. -/
def State.changeEnd (s : State) (k : Nat) : State :=
  let s1 := ((s.set DRC_STATUS_SP k).updDrc (fun d => { d with fspNow := none })).dramOn.showEyes.budgets
  ((List.range 16).foldl (fun u i => if u.inBurst i then u.admission i else u) s1).raise 0xC005 noSource k

/-- The DRAM has failed (R442): its usable capacity is 0. In BOOT that is DRAM_DEGRADED (R503). -/
def State.dramFailed (s : State) : State :=
  ((s.set64 DRC_USABLE_LO_USABLE DRC_USABLE_HI_USABLE 0).set DRC_STATUS_STATE 6).flagIf
    (decide (s.get PWR_STATUS_DEV_STATE = 1)) NVM_BOOT_STAT_DRAM_DEGRADED

/-- What follows a training whose last set point has been trained; `ok` tells whether the first one passed. -/
def State.trainEnd (s : State) (f : TrainFor) (ok : Bool) : State :=
  let s1 := (s.set DRC_TRAIN_CMD_GO 0).updDrc (fun d => { d with train := none })
  match f with
  | .bringUp =>
    if ok then
      let s2 := s1.set64 DRC_USABLE_LO_USABLE DRC_USABLE_HI_USABLE (drcUsable s1.drc.cfg)
      (s2.showEyes.budgets).clearStart 0
    else s1.dramFailed
  | .change k => if ok then s1.changeEnd k else (s1.updDrc (fun d => { d with fspNow := none })).dramOn
  | .retrain => s1.showEyes.dramOn
  | .retained => s1.showEyes.clearStart s1.drc.retained

/-- The lanes of a set point are all trained: its flags are set, and the next set point follows (R441, R442). -/
def State.spTrained (s : State) (t : Train) : State :=
  match t.sps with
  | [] => s
  | k :: rest =>
    let s1 :=
      if t.failed then (s.set (DRC_SP_TRAINED k) 0).flag (DRC_SP_FAILED k)
      else ((s.flag (DRC_SP_TRAINED k)).set (DRC_SP_FAILED k) 0).raise 0xC003 noSource k
    let boot := decide (k = s.get DRC_STATUS_SP)
    if rest = [] ∨ (t.failed ∧ t.then_ = .bringUp ∧ boot) then
      s1.trainEnd t.then_ (if t.then_ = .bringUp then s1.bit (DRC_SP_TRAINED (s1.get DRC_STATUS_SP)) else !t.failed)
    else s1.updDrc (fun d => { d with train := some { t with sps := rest, pos := [], failed := false } })

/-- A lane training step of a channel ends (R441), with the read and write eyes it found. A step that runs while a GO waits is discarded
and repeats (R440). -/
def State.trainStep (s : State) (ch rdW rdH wrW wrH : Nat) : State :=
  match s.drc.train with
  | none => s
  | some t =>
    match t.sps with
    | [] => s
    | sp :: _ =>
      let q := Sparse.get (fun _ => (⟨0, 0, 0⟩ : TrainPos)) t.pos ch
      if s.channels ≤ ch ∨ 2 ≤ q.lane ∨ s.drc.fspGo.isSome then s
      else
        let put (u : State) (q' : TrainPos) (bad : Bool) : State :=
          let t' := { t with pos := Sparse.set (fun _ => (⟨0, 0, 0⟩ : TrainPos)) t.pos ch q', failed := t.failed || bad }
          let u1 := u.updDrc (fun d => { d with train := some t' })
          if (List.range s.channels).all (fun c => decide (2 ≤ (Sparse.get (fun _ => (⟨0, 0, 0⟩ : TrainPos)) t'.pos c).lane)) then
            u1.spTrained t'
          else u1
        if q.step < 3 then put s { q with step := q.step + 1 } false
        else
          let l := 2 * ch + q.lane
          let eye : Word × Word := (word (rdW % 2 ^ 16 + 2 ^ 16 * rdH), word (wrW % 2 ^ 16 + 2 ^ 16 * wrH))
          let s1 := s.updDrc (fun d => { d with eyes := Sparse.set (fun _ => ((0, 0) : Word × Word)) d.eyes (32 * sp + l) eye })
          if s.eyeOk sp rdW rdH && s.eyeOk sp wrW wrH then put s1 ⟨q.lane + 1, 0, 0⟩ false
          else if q.tries < 3 then put s1 ⟨q.lane, 0, q.tries + 1⟩ false
          else put ((s1.flag DRC_STATUS_TRAIN_FAIL).raise 0xC004 noSource l) ⟨q.lane + 1, 0, 0⟩ true

/-- DRC_FSP_CMD.GO (R440). -/
def State.fspGo (s : State) (k : Nat) : State :=
  if !s.bit (DRC_SP_EN k) || s.bit (DRC_SP_FAILED k) then s.flag DRC_STATUS_FSP_BAD
  else
    (s.flagIf s.drc.train.isSome DRC_STATUS_FSP_DEFERRED).updDrc (fun d => { d with fspGo := some k, refreshed := false })

/-- A set-point change begins at the end of a refresh stall, once no site runs where IDLE_ONLY asks for it (R440). -/
def State.fspBegin (s : State) : State :=
  match s.drc.fspGo with
  | none => s
  | some k =>
    if (s.bit DRC_CFG_IDLE_ONLY && !s.allIdle) || (!s.drc.refreshed && s.drc.train.isNone) ||
        !(s.drcServes || decide (s.get DRC_STATUS_STATE = 1)) then s
    else ((s.at_ s.drc.stallEnd).set DRC_STATUS_STATE 7).updDrc (fun d => { d with fspGo := none, fspNow := some k })

/-- A set-point change ends (R440): the set point is trained first if it is not, and a training that was interrupted goes on at the new
set point. -/
def State.fspDone (s : State) : State :=
  match s.drc.fspNow with
  | none => s
  | some k =>
    match s.drc.train with
    | some t =>
      let s1 := s.changeEnd k
      (s1.set DRC_STATUS_STATE 1).updDrc (fun d => { d with train := some { t with
        sps := if t.then_ = .retrain then [k] else t.sps
        pos := t.pos.map (fun e => (e.1, { e.2 with step := if 2 ≤ e.2.lane then e.2.step else 0 })) } })
    | none => if s.bit (DRC_SP_TRAINED k) then s.changeEnd k else s.trainStart [k] (.change k)

/-- DRC_TRAIN_CMD.GO (R441). -/
def State.trainGo (s : State) : State :=
  if s.drc.train.isSome || !(decide (s.get DRC_STATUS_STATE = 2) || decide (s.get DRC_STATUS_STATE = 3)) then s
  else s.trainStart [s.get DRC_STATUS_SP] .retrain

/-- The lanes checked in operation (R442): each with the read and write eyes found. -/
def State.laneCheck (s : State) (eyes : List (Nat × Nat × Nat × Nat × Nat)) : State :=
  if !s.drcServes then s
  else
    let sp := s.get DRC_STATUS_SP
    eyes.foldl
      (fun u e =>
        let eye : Word × Word := (word (e.2.1 % 2 ^ 16 + 2 ^ 16 * e.2.2.1), word (e.2.2.2.1 % 2 ^ 16 + 2 ^ 16 * e.2.2.2.2))
        let u1 := (u.updDrc (fun d => { d with eyes := Sparse.set (fun _ => ((0, 0) : Word × Word)) d.eyes (32 * sp + e.1) eye }))
        let u2 := (u1.setReg (DRC_EYE_RD_RD_W e.1).addr eye.1).setReg (DRC_EYE_WR_WR_W e.1).addr eye.2
        u2.raiseIf (!(s.eyeOk sp e.2.1 e.2.2.1 && s.eyeOk sp e.2.2.2.1 e.2.2.2.2)) 0xC00B noSource e.1) s

/-! Power (R443 to R447). -/

/-- The DRAM brought up from Off (R427, R442): the boot set point is trained, then every other enabled one. -/
def State.bringUp (s : State) : State :=
  let w := s.reg DRC_CFG_ORDER.addr
  if !drcCfgOk w then (s.flag DRC_STATUS_CFG_BAD).dramFailed
  else
    let boot := s.get DRC_CFG_BOOT_SP
    let others := (List.range 4).filter (fun k => decide (k ≠ boot) && s.bit (DRC_SP_EN k))
    ((s.updDrc (fun d => { d with cfg := w, last := [], queue := [], input := [] })).set DRC_STATUS_SP boot).trainStart (boot :: others) .bringUp

/-- DRAM contents from a data segment lost, with their error marks (R447). -/
def State.segLost (s : State) (k : Nat) : State :=
  let lo := k * s.usable / 7
  let n := (k + 1) * s.usable / 7 - lo
  { s with dram := s.dram.eraseRange lo n,
           dramUe := s.dramUe.filter (fun p => !(decide (lo ≤ 8 * p) && decide (8 * p < lo + n))) }

/-- The DRAM enters Retain: the segments that PASR does not name are lost (R446, R447). -/
def State.dramRetain (s : State) : State :=
  let pasr := s.get DRC_PWR_CTRL_PASR
  let kept := pasr + (if pasr = 0 then 0 else 0x80)
  let s1 := ((List.range 7).filter (fun k => !bitOf pasr k)).foldl State.segLost s
  ((s1.set DRC_STATUS_STATE 4).set DRC_STATUS_CLEAR_SEG 0).updDrc (fun d => { d with want := none, retained := kept })

/-- The DRAM is Off: its contents are lost (R443). -/
def State.dramOff (s : State) : State :=
  let s1 := (List.range 7).foldl State.segLost s
  ((s1.set DRC_STATUS_STATE 0).set DRC_STATUS_CLEAR_SEG 0).updDrc (fun d => { d with want := none, retained := 0 })

/-- A request for On (0), Retain (1) or Off (2) reaches the DRAM domain (R443, R444). -/
def State.dramWant (s : State) (r : Nat) : State :=
  let st := s.get DRC_STATUS_STATE
  let ask (u : State) : State := u.updDrc (fun d => { d with want := some r })
  if r = 0 then
    if st = 0 then s.bringUp
    else if st = 4 then ask s
    else if st = 3 then (s.updDrc (fun d => { d with want := none })).set DRC_STATUS_STATE 2
    else s.updDrc (fun d => { d with want := none })
  else if st = 2 ∨ st = 3 then (ask s).set DRC_STATUS_STATE 3
  else if st = 4 then (if r = 2 then s.dramOff else s.updDrc (fun d => { d with want := none }))
  else if st = 6 then (if r = 2 then s.dramOff else s)
  else if st = 0 then s
  else ask s

/-- A write to DRC_PWR_CTRL (R443, R454). -/
def State.drcPwrWrite (s : State) (o : Origin) (v : Word) : State :=
  let s1 := s.regWrite o DRC_PWR_CTRL_REQ.addr v
  s1.dramWant (s1.get DRC_PWR_CTRL_REQ)

/-- A pending Retain or Off takes effect (R444). -/
def State.dramPowerChange (s : State) : State :=
  if s.get DRC_STATUS_STATE ≠ 3 ∨ s.dmaOnDram ∨ (List.range 16).any (fun i => s.readDram i) then s
  else
    match s.drc.want with
    | some 1 => s.dramRetain
    | some 2 => s.dramOff
    | _ => s

/-- Self-refresh left on the way back to On (R447); `lost` tells whether the set point in force has lost its training. -/
def State.selfRefreshExit (s : State) (lost : Bool) : State :=
  if s.get DRC_STATUS_STATE ≠ 4 ∨ s.drc.want ≠ some 0 then s
  else
    let s1 := s.updDrc (fun d => { d with want := none })
    if lost then s1.trainStart [s.get DRC_STATUS_SP] .retained else s1.clearStart s.drc.retained

/-- The next segment to clear: segment 7 first, then the data segments in order (R447). -/
def nextClear (m : Nat) : Option Nat := [7, 0, 1, 2, 3, 4, 5, 6].find? (fun k => bitOf m k)

/-- A segment finishes clearing (R447). -/
def State.segmentCleared (s : State) : State :=
  if s.get DRC_STATUS_STATE ≠ 5 then s
  else
    let have_ := s.get DRC_STATUS_CLEAR_SEG
    match nextClear (0xFF - have_) with
    | none => s
    | some k =>
      let s1 := (if k < 7 then s.segLost k else s).set DRC_STATUS_CLEAR_SEG (have_ ||| 2 ^ k)
      if s1.get DRC_STATUS_CLEAR_SEG = 0xFF then s1.dramOn.raise 0xC008 noSource s.drc.clearing else s1

/-- DRC_CMD.CLR_COUNTS (R455). -/
def State.drcClrCounts (s : State) : State := (s.set DRC_CE_COUNT 0).set DRC_UE_COUNT 0

/-! The commands. -/

/-- GRANT_INTERVAL (R196). -/
def execGrantInterval (s : State) : Host.Outcome State Fault Refusal := .next s.grantInterval

/-- DRAM_PICK (R434). -/
def execDramPick (ch : Fin 16) (s : State) : Host.Outcome State Fault Refusal := .next (s.dramPick ch)

/-- DRAM_REFRESH (R437). -/
def execDramRefresh (s : State) : Host.Outcome State Fault Refusal := .next s.dramRefresh

/-- DRAM_SCRUB (R431). -/
def execDramScrub (e : Ecc) (s : State) : Host.Outcome State Fault Refusal := .next (s.dramScrub e)

/-- DRAM_TEMP_READ (R438): the channels that need the doubled rate, and those beyond it. -/
def execDramTempRead (need hot : List (Fin 16)) (s : State) : Host.Outcome State Fault Refusal :=
  .next (s.dramTemp (need.map (fun c => c.val)) (hot.map (fun c => c.val)))

/-- FSP_GO (R440). -/
def execFspGo (k : Fin 4) (s : State) : Host.Outcome State Fault Refusal := .next (s.fspGo k)

/-- FSP_CHANGE_BEGIN (R440). -/
def execFspChangeBegin (s : State) : Host.Outcome State Fault Refusal := .next s.fspBegin

/-- DRAM_TRAIN_GO (R441). -/
def execDramTrainGo (s : State) : Host.Outcome State Fault Refusal := .next s.trainGo

/-- LANE_CHECK (R442): the lanes checked, each with its read and write eyes. -/
def execLaneCheck (eyes : List (Fin 32 × Fin 65536 × Fin 65536 × Fin 65536 × Fin 65536)) (s : State) : Host.Outcome State Fault Refusal :=
  .next (s.laneCheck (eyes.map (fun e => (e.1.val, e.2.1.val, e.2.2.1.val, e.2.2.2.1.val, e.2.2.2.2.val))))

/-- DRAM_POWER_REQUEST (R443). -/
def execDramPowerRequest (o : Origin) (v : Word) (s : State) : Host.Outcome State Fault Refusal := .next (s.drcPwrWrite o v)

/-- DRC_CLR_COUNTS (R455). -/
def execDrcClrCounts (s : State) : Host.Outcome State Fault Refusal := .next s.drcClrCounts

end Sys2Proof.Machine
end

