-- ==== Sys2Proof/Machine/StreamRows.lean ====
section
/-! DEFINITION. Stream fetches (R132, R199, R201), segment commands (R130, R160, R461), site flags written by software (R147), and the
result registers (R164, R165). -/
namespace Sys2Proof.Machine

/-! Stream requests. -/

/-- The bytes in flight to a site's stream buffer. -/
def StreamState.flying (t : StreamState) : Nat := t.inflight.foldl (fun n r => n + r.len) 0

/-- Whether a buffer has room for n more bytes beside what is in flight (R196). -/
def State.bufRoom (s : State) (i n : Nat) : Bool :=
  decide ((s.site i).str.level + (s.site i).str.flying + n ≤ 1024 * s.cfg i (SITE_STR_BUF_SIZE i))

/-- The usable offset of byte `off` of a DRAM segment; below the DRAM window none. -/
def SegEntry.dramAt (e : SegEntry) (off : Nat) : Nat := e.addr + off - dramBase

/-- The line requests of a fetch (R433). -/
def State.linesOf (s : State) (i : Nat) (r : StreamReq) : List DrcReq :=
  s.lineReqs .stream i r.seg r.off ((s.seg i r.seg).entry.dramAt r.off) r.len

/-- A request sent to the DRAM controller. -/
def State.sendReq (s : State) (i : Nat) (r : StreamReq) : State :=
  (s.updStr i (fun t => { t with inflight := t.inflight ++ [r], readDram := true })).drcEnter (s.linesOf i r)

/-- The bytes of an alternate path that its decision still lacks (R201): where the next request starts, if any. -/
def State.altNext (s : State) (i : Nat) (d : Decision) : Option StreamReq :=
  match d.alt with
  | some (.go q) =>
    let e := (s.seg i q.pos.seg).entry
    let t := (s.site i).str
    let lo := 8 * q.pos.off
    let hi := min (lo + 1024 * s.cfg i (SITE_STR_CFG_ALT_PF i)) (8 * e.length)
    let have_ := (t.inflight.filter (fun r => decide (r.alt = some d.id))).foldl (fun m r => max m (r.off + r.len)) lo
    let have2 := (t.chunks.filter (fun c => decide (c.alt = some d.id))).foldl (fun m c => max m (c.off + c.len)) have_
    if e.loc && !t.cache.has q.pos.seg lo 8 && decide (have2 < hi) then some ⟨q.pos.seg, have2, min 2048 (hi - have2), some d.id, 0⟩ else none
  | _ => none

/-- The next request of the stream engine (R199, R201): along the path while the buffer is below HIGH, and then the alternate paths of
decisions. -/
def State.nextReq (s : State) (i : Nat) : Option StreamReq :=
  let t := (s.site i).str
  let e := (s.seg i t.path.seg).entry
  let end_ := 8 * e.length
  let onPath := !t.path.stopped && !t.path.resident && t.path.waits.isNone && e.loc && decide (t.path.req < end_) &&
    !t.cache.has t.path.seg t.path.req 8
  if onPath && decide (t.level < 1024 * t.high) then
    some ⟨t.path.seg, t.path.req, min 2048 (end_ - t.path.req), none, t.path.run⟩
  else if !onPath || decide (1024 * t.high ≤ t.level) then
    ((s.site i).spec.decisions.filterMap (fun d => s.altNext i d)).head?
  else none

/-- The stream engine follows its path over what it holds, and issues its next request (R199): at most 32 in flight, with room in the buffer. -/
def State.streamRequest (s0 : State) (i : Nat) : State :=
  if s0.siteSt i = stIdle ∨ (s0.site i).burst.end_.isSome ∨ 32 ≤ (s0.site i).str.inflight.length then s0
  else
    let s := (s0.engineDecode i 256).flowTry i
    match s.nextReq i with
    | none => s
    | some r =>
      if !s.bufRoom i r.len then s
      else
        let s1 := s.sendReq i r
        if r.alt.isNone then s1.updPath i (fun p => { p with req := r.off + r.len }) else s1

/-- Bytes added to the buffer. -/
def addChunk (r : StreamReq) : List Chunk → List Chunk
  | [] => [⟨r.seg, r.off, r.len, r.alt, r.run⟩]
  | c :: rest =>
    if c.seg = r.seg ∧ c.alt = r.alt ∧ c.run = r.run ∧ c.off + c.len = r.off then { c with len := c.len + r.len } :: rest else c :: addChunk r rest

/-- The pairs of a fetch found uncorrectable (R132): each served by the mirror if there is one and it reads correctly, else marked. -/
def State.fetchMarks (s : State) (i : Nat) (r : StreamReq) : State :=
  let e := (s.seg i r.seg).entry
  let base := e.addr - dramBase
  (s.dramBad (base + r.off) r.len).foldl
    (fun u p =>
      let off := p - base
      let m := e.mirror - dramBase + off
      let served := e.mirrorEn && !u.dramUe.contains (m / 8)
      let u1 := if e.mirrorEn then u.dramCheck m 8 else u
      u1.updStr i (fun t => { t with marks := t.marks ++ [(r.seg, off / 8, served)] })) s

/-- The data of the oldest request land (R199): once the controller has served all its lines. `e` is what the check meets in its first
pair. Port A puts them into the buffer, one after another round it (R404). The engine decodes the headers, and a HOLDING site may resume (R204). -/
def State.streamArrive (s : State) (i : Nat) (e : Ecc) : State :=
  match (s.site i).str.inflight with
  | [] => s
  | r :: rest =>
    let mine (q : DrcReq) : Bool :=
      decide (q.kind = .stream) && decide (q.site = i) && decide (q.seg = r.seg) && decide (r.off ≤ q.off) && decide (q.off < r.off + r.len)
    if s.drc.queue.any mine || s.drc.input.any mine then s
    else
      let u := (s.seg i r.seg).entry.dramAt r.off
      let s1 := ((s.dramUpset e u).checkRegion (.dram u) r.len).fetchMarks i r
      let s2 := s1.updStr i (fun t =>
        { t with inflight := rest, chunks := addChunk r t.chunks, windowBytes := t.windowBytes + r.len, fill := t.fill + r.len })
      let base := s2.cfg i (SITE_STR_BUF_BASE i)
      let size := 1024 * s2.cfg i (SITE_STR_BUF_SIZE i)
      let s3 := (s2.portAFill base size ((s.site i).str.fill % size) (s2.segBytes i r.seg r.off r.len)).portATouch i (bufBanks base size)
      ((s3.setLevel i).engineDecode i (r.len / 16 + 256)).flowTry i

/-! Segment commands. -/

/-- A publish that the engine or the sequencer waits for lets it go on (R143, R199). -/
def State.published (s : State) (i id : Nat) : State :=
  let s1 := if (s.site i).str.path.waits = some id then
      let g := s.seg i id
      s.updPath i (fun p => { p with waits := none, resident := !g.entry.loc })
    else s
  match (s1.site i).seq.waitSeg with
  | some (k, _, isCall) =>
    if k = id then
      let s2 := s1.updSeq i (fun q => { q with waitSeg := none })
      ((s2.set (SITE_SEQ_STATUS_REFILL_WAIT i) 0).enterSeg i id isCall).flowTry i
    else s1
  | none => s1

/-- A publish command (R130), held while a DMA descriptor claims the segment (R461). -/
def State.publish (s : State) (i id : Nat) (e : Ecc) : State :=
  if s.claimed i id then (s.updDma (fun z => { z with publishes := s.dma.publishes ++ [(i, id)] }))
  else
    let s1 := (s.segPublish i id e).overlapMarks
    if (s.seg i id).state = .inactive ∧ (s1.seg i id).state = .queued then s1.published i id else s1

/-- A write to SITE_SEG_CMD (R161). -/
def State.segCmd (s : State) (i : Nat) (v : Word) (e : Ecc) : State :=
  match bitsOf v.toNat 16 2 with
  | 1 => s.publish i (bitsOf v.toNat 0 16) e
  | 2 => s.segUnpublish i (bitsOf v.toNat 0 16)
  | _ => s

/-- A write to SITE_SEGTAB_BASE or SITE_SEGTAB_RANGE (R160): only while the site is IDLE. -/
def State.segtabWrite (s : State) (o : Origin) (i a : Nat) (v : Word) : State :=
  s.idleWrite o false a v (s.idle i) (SITE_SEQ_STATUS_TAB_BUSY i)

/-! Flags and results. -/

/-- Flags set by a write to SITE_FLAG_SET (R147): committed values, so mapped flags originate events (R368). -/
def State.flagSet (s : State) (i : Nat) (v : Word) : State :=
  (List.range 16).foldl (fun u n => if bitOf v.toNat n then u.setFlag i n else u) s

/-- Flags cleared by a write to SITE_FLAGS (R147). -/
def State.flagClear (s : State) (i : Nat) (v : Word) : State :=
  s.set (SITE_FLAGS_FLAG i) (BitVec.ofNat 32 (s.get (SITE_FLAGS_FLAG i)) &&& ~~~v).toNat

/-- A write to SITE_RESULT_RING (R164): a write to SIZE sets WRITE_INDEX to 0. -/
def State.resultRingWrite (s : State) (o : Origin) (i : Nat) (v : Word) : State :=
  (s.regWrite o (SITE_RESULT_RING_SIZE i).addr v).set (SITE_RESULT_RING_WRITE_INDEX i) 0

/-- A read of SITE_RESULT_0 (R165): words 1 to 15 are latched for the origin. -/
def State.result0Read (s : State) (o : Origin) (i : Nat) : State × Word :=
  ((List.range 15).foldl (fun u k => u.latch o (SITE_RESULT_WORD i (k + 1)).addr (s.reg (SITE_RESULT_WORD i (k + 1)).addr)) s,
    s.reg (SITE_RESULT_WORD i 0).addr)

/-! The commands. -/

/-- STREAM_REQUEST (R199). -/
def execStreamRequest (i : Fin 16) (s : State) : Host.Outcome State Fault Refusal := .next (s.streamRequest i)

/-- STREAM_DATA_ARRIVE (R199). -/
def execStreamDataArrive (i : Fin 16) (e : Ecc) (s : State) : Host.Outcome State Fault Refusal := .next (s.streamArrive i e)

/-- SEG_PUBLISH (R130): `e` is what the check meets in the first word of the entry. -/
def execSegPublish (i : Fin 16) (id : Fin 65536) (e : Ecc) (s : State) : Host.Outcome State Fault Refusal :=
  .next (s.publish i id e)

/-- SEG_UNPUBLISH (R130). -/
def execSegUnpublish (i : Fin 16) (id : Fin 65536) (s : State) : Host.Outcome State Fault Refusal := .next (s.segUnpublish i id)

/-- SEGTAB_WRITE (R160): SITE_SEGTAB_BASE, or with `range` SITE_SEGTAB_RANGE. -/
def execSegtabWrite (o : Origin) (i : Fin 16) (range : Bool) (v : Word) (s : State) : Host.Outcome State Fault Refusal :=
  .next (s.segtabWrite o i (if range then (SITE_SEGTAB_RANGE_FIRST i).addr else (SITE_SEGTAB_BASE i).addr) v)

/-- FLAG_SET (R147). -/
def execFlagSet (i : Fin 16) (v : Word) (s : State) : Host.Outcome State Fault Refusal := .next (s.flagSet i v)

/-- FLAG_CLEAR (R147). -/
def execFlagClear (i : Fin 16) (v : Word) (s : State) : Host.Outcome State Fault Refusal := .next (s.flagClear i v)

/-- RESULT_RING_WRITE (R164). -/
def execResultRingWrite (o : Origin) (i : Fin 16) (v : Word) (s : State) : Host.Outcome State Fault Refusal :=
  .next (s.resultRingWrite o i v)

/-- RESULT_0_READ (R165). -/
def execResult0Read (o : Origin) (i : Fin 16) (s : State) : Host.Outcome State Fault Refusal :=
  let r := s.result0Read o i
  .next (r.1.emit (.read o (SITE_RESULT_WORD i 0).addr r.2))

end Sys2Proof.Machine
end

