-- ==== Sys2Proof/Machine/Acquire.lean ====
section
/-! DEFINITION. Crossings (R245), edge events and their stamps (R246 to R249), and timeouts of trigger units (R254). -/
namespace Sys2Proof.Machine

/-- 4.0 ns, in 0.25 ps: the pair limit and the dead time of R246. -/
def pairLimit : Nat := 16000

/-- The vector whose cycle contains a time at the reference plane, with whether it is an overrun vector (R249): the last one whose cycle
started at or before it. -/
def State.vecAt (s : State) (i t : Nat) : Option (Nat × Bool) :=
  ((s.site i).burst.recent.find? (fun r => decide (r.1 ≤ t))).map (fun r => (r.2.1, r.2.2))

/-- Whether a pin stamps a crossing at a time (R248): its site's burst runs, from the burst epoch to the end of the last cycle. -/
def State.stampsAt (s : State) (i p t : Nat) : Bool :=
  let b := (s.site i).burst
  s.inBurst i && b.started && decide (b.epoch ≤ t) && !(b.end_.isSome && decide ((s.site i).laneVecs = 0) && decide (b.cycleEnd ≤ t)) &&
    s.stamps i p

/-- Whether a crossing pairs with the first one of an open event (R246). -/
def pairs (a b : CrossKind) : Bool :=
  (!a.high && a.rising && b.high && b.rising) || (a.high && !a.rising && !b.high && !b.rising)

/-- The stamps in the queue of a pin's stamp unit. -/
def AcqState.queued (a : AcqState) : Nat := a.stamping.foldl (fun n e => n + 1 + ofBool e.pair.isSome) 0

/-- Why a new edge event is missed at the stamp unit, if it is (R246): the dead time, or the stamp queue. -/
def State.missWhy (s : State) (p t : Nat) : Option Nat :=
  let a := (s.pin p).acq
  let near := match a.lastStamped with
    | none => false
    | some u => decide (t < u + pairLimit)
  if near then some 0
  else if 64 < a.queued + 2 then some 1
  else none

/-- The vector that a crossing at a time belongs to, none for an overrun vector (R249). -/
def State.crossVec (s : State) (i t : Nat) : Option Nat :=
  match s.vecAt i t with
  | some (v, false) => some v
  | _ => none

/-- An acquisition result of a pin put to wait for its vector; one that belongs to none is discarded (R249). -/
def State.addItem (s : State) (p t : Nat) (v : Option Nat) (k : AcqKind) : State :=
  match v with
  | some v => s.updAcq p (fun a => { a with items := a.items ++ [⟨v, t, k⟩] })
  | none => s

/-- The records in the provisional store of a pin (R249): of crossings stamped, and of markers played, in vectors that depend on unresolved decisions. -/
def State.storeUse (s : State) (i p : Nat) : Nat :=
  let t := s.site i
  ((s.pin p).acq.items.filter (fun x => t.provisional x.vec && (match x.kind with | .stamp _ _ _ _ _ _ => true | _ => false))).length +
    (if s.cfgBit i (PIN_ACQ_CFG_MARK_EN p) then
      (t.spec.window.filter (fun e => e.started.isSome && e.vec.mark.isSome && t.provisional e.vec.id)).length
    else 0)

/-- Whether the records of an event would overflow the provisional store (R249). -/
def State.storeFull (s : State) (i p : Nat) (e : EdgeEvent) : Bool :=
  let mine := ([e.vec] ++ (e.pair.map (fun x => x.2.2.2.2)).toList).filter (fun v => v.any (fun x => (s.site i).provisional x))
  decide (mine ≠ []) && decide (1024 < s.storeUse i p + mine.length)

/-- The time of the second crossing of an event. -/
def EdgeEvent.lastAt (e : EdgeEvent) : Nat := match e.pair with
  | some x => x.1
  | none => e.firstAt

/-- The kind of the pair crossing of an event. -/
def EdgeEvent.pairKind (e : EdgeEvent) : CrossKind := ⟨!e.first.high, e.first.rising⟩

/-- An event's crossings as results: stamps, or the crossings of a missed event. One whose records would overflow the provisional store is missed
(R249). -/
def State.eventItems (s : State) (i p : Nat) (e : EdgeEvent) : State :=
  match (if e.missed.isNone && s.storeFull i p e then some 2 else e.missed) with
  | none =>
    let s1 := s.addItem p e.firstAt e.vec (.stamp e.first e.firstLf e.firstHf false e.ref none)
    match e.pair with
    | none => s1
    | some (t, lf, hf, ref, v) => s1.addItem p t v (.stamp e.pairKind lf hf true ref (e.vec.map (fun _ => e.firstAt)))
  | some w =>
    let s1 := s.addItem p e.firstAt e.vec (.missed e.first (some w))
    match e.pair with
    | none => s1
    | some (t, _, _, _, v) => s1.addItem p t v (.missed e.pairKind none)

/-- An open event closes (R246): it goes to a converter, or its crossings are missed. -/
def State.closeEvent (s : State) (i p : Nat) (e : EdgeEvent) : State :=
  let s1 := s.updAcq p (fun a => { a with open_ := none })
  match e.missed with
  | none => s1.updAcq p (fun a => { a with stamping := a.stamping ++ [e] })
  | some _ => s1.eventItems i p e

/-- A crossing opens an event (R246); the stamp unit takes in those of overrun vectors too. -/
def State.openEvent (s : State) (i p t : Nat) (k : CrossKind) : State :=
  let q := s.pin p
  let m := s.missWhy p t
  let e : EdgeEvent := ⟨k, t, q.lowFlag, q.highFlag, none, m, s.crossVec i t, s.refFlagged t⟩
  s.updAcq p (fun a => { a with open_ := some e, lastStamped := if m.isNone then some t else a.lastStamped })

/-- A crossing at the stamp unit (R246). -/
def State.stampCross (s : State) (i p t : Nat) (k : CrossKind) : State :=
  match (s.pin p).acq.open_ with
  | none => s.openEvent i p t k
  | some e =>
    if pairs e.first k ∧ t ≤ e.firstAt + pairLimit then
      s.closeEvent i p { e with pair := some (t, (s.pin p).lowFlag, (s.pin p).highFlag, s.refFlagged t, s.crossVec i t) }
    else (s.closeEvent i p e).openEvent i p t k

/-- A comparator flag of a pin changes at an instant (R101, R245): `high` names the high flag. The open compare windows see it (R81),
single-interval measurements (R276), and the stamp unit (R246), each at the pin's reference plane (R247). -/
def State.flagChange (s0 : State) (p t : Nat) (high : Bool) : State :=
  let s := s0.at_ t
  let s1 := s.updPin p (fun q => if high then { q with highFlag := !q.highFlag } else { q with lowFlag := !q.lowFlag })
  let q := s1.pin p
  let k : CrossKind := ⟨high, if high then q.highFlag else !q.lowFlag⟩
  let s2 := s1.updPin p (fun q =>
    { q with windows := q.windows.map (fun w => { w with failed := w.failed || !passes w.expect q.lowFlag q.highFlag }) })
  let at_ := s.atPlane p t
  let s3 := s2.tdcCross p k at_
  match s.pinOwner p with
  | none => s3
  | some i => if s3.stampsAt i p at_ then (s3.stampCross i p at_ k).settle i else s3

/-- The input of a pin reaches v µV at an instant, at which the comparator of a flag, hysteresis included, may change it (R101, R245). -/
def State.crossing (s : State) (p t : Nat) (high : Bool) (v : Int) : State :=
  let q := s.pin p
  let old := if high then q.highFlag else q.lowFlag
  if flagAfter (s.hyst p) (s.threshold p high) v high old = old then s
  else (s.updPin p (fun x => { x with volt := v })).flagChange p t high

/-- An open event closes after 4.0 ns without a pair crossing (R246). -/
def State.eventTimeout (s : State) (p : Nat) : State :=
  match s.pinOwner p, (s.pin p).acq.open_ with
  | some i, some e => ((s.at_ ((e.firstAt + pairLimit : Nat) + s.rxDeskew p).toNat).closeEvent i p e).settle i
  | _, _ => s

/-- A converter finishes an event 8.0 ns after it closes, and its stamps leave the queue (R246). -/
def State.stampDone (s : State) (p : Nat) : State :=
  match s.pinOwner p, (s.pin p).acq.stamping with
  | some i, e :: rest => (((s.updAcq p (fun a => { a with stamping := rest })).eventItems i p e)).settle i
  | _, _ => s

/-- A TIMEOUT unit finds no matching crossing within W1 ns, at a time of the reference plane (R254): a result of the vector of that time. -/
def State.trigTimeout (s : State) (p u t : Nat) : State :=
  match s.pinOwner p with
  | none => s
  | some i => if s.stampsAt i p t then ((s.at_ t).addItem p t (s.crossVec i t) (.timeout u)).settle i else s

/-- CROSSING (R246): the input of pin p passes a threshold at a time, in 0.25 ps, and is then at a voltage: the high or the low flag changes
where the hysteresis lets it (R101). -/
def execCrossing (p : Fin 512) (t : Nat) (x : CrossTo) (s : State) : Host.Outcome State Fault Refusal :=
  .next (s.crossing p t x.high x.volt)

/-- EVENT_CLOSE_TIMEOUT (R246). -/
def execEventCloseTimeout (p : Fin 512) (s : State) : Host.Outcome State Fault Refusal := .next (s.eventTimeout p)

/-- STAMP_DONE (R246). -/
def execStampDone (p : Fin 512) (s : State) : Host.Outcome State Fault Refusal := .next (s.stampDone p)

/-- TRIGGER_TIMEOUT (R254): the unit, and the time at which its time is over. -/
def execTriggerTimeout (p : Fin 512) (u : Fin 4) (t : Nat) (s : State) : Host.Outcome State Fault Refusal :=
  .next (s.trigTimeout p u t)

end Sys2Proof.Machine
end

