-- ==== Sys2Proof/Machine/XeRows.lean ====
section
/-! DEFINITION. The commands of the transaction engine (R306, R310 to R320), its registers (R306, R330), and the reduction engine's interval
ring registers (R302). -/
namespace Sys2Proof.Machine

/-- A write to an XE_PORTn register (R306): only while the site of an enabled port is not in XACT. -/
def State.xePortWrite (s : State) (o : Origin) (n a : Nat) (v : Word) : State :=
  let busy (i : Nat) : Bool := s.bit (XE_PORT_CFG_EN n) && decide (s.siteSt i = stXact)
  s.idleWrite o false a v (!busy (s.get (XE_PORT_CFG_SITE n))) XE_STATUS_PORT_BUSY

/-- A write to XE_SITEs_RES_BASE (R330): RES_HEAD and RES_TAIL are 0. -/
def State.resBaseWrite (s : State) (o : Origin) (i a : Nat) (v : Word) : State :=
  (((s.regWrite o a v).set (XE_SITE_RES_HEAD i) 0).set (XE_SITE_RES_TAIL i) 0).updXeSite i (fun x => { x with full := false })

/-- A write to XE_SITEs_RES_TAIL (R330): room is made. -/
def State.resTailWrite (s : State) (o : Origin) (i : Nat) (v : Word) : State :=
  (s.regWrite o (XE_SITE_RES_TAIL i).addr v).updXeSite i (fun x => { x with full := false })

/-- A captured bit returns to the engine (R316): the oldest one on its way. -/
def State.captureBit (s : State) : State :=
  match s.xe.returns with
  | [] => s
  | (num, use, high) :: rest =>
    let s1 := (s.updXe (fun z => { z with returns := rest }))
    match s.xeRun num with
    | none => s1
    | some r => (s1.capReturn num use high).settle r.site

/-- A step row: the steps of one kind of a port. -/
def State.tplRow (s : State) (n op : Nat) : State :=
  let s1 := s.xeKind n op 4096
  s1.settle (s.get (XE_PORT_CFG_SITE n))

/-- The next entry of a site's list dispatched, and the list ended if it was empty (R308, R310). -/
def State.dispatchRow (s : State) (i : Nat) : State := (s.dispatch i).settle i

/-- A write of RED_IVL_BASE, both words together (R302). -/
def State.ivlBaseWrite (s : State) (o : Origin) (lo hi : Word) : State := (s.regWrite64 o RED_IVL_BASE_LO_BASE.addr lo hi).ivlReset.overlapMarks

/-- A write of a word of RED_IVL_BASE (0 and 1, under R4) or of RED_IVL_SIZE (R302). -/
def State.ivlRingSet (s : State) (o : Origin) (k : Nat) (v : Word) : State :=
  if k < 2 then s.pairWrite o RED_IVL_BASE_LO_BASE.addr (decide (k = 1)) v (fun u lo hi => u.ivlBaseWrite o lo hi)
  else (s.regWrite o RED_IVL_SIZE.addr v).ivlReset.overlapMarks

/-- PORT_WRITE (R306): register `k` of port n, by word: CFG, PARK, and the role pins. -/
def execPortWrite (o : Origin) (n : Fin 128) (k : Fin 6) (v : Word) (s : State) : Host.Outcome State Fault Refusal :=
  .next (s.xePortWrite o n (0x91000 + 0x20 * n + 4 * k) v)

/-- XACT_DISPATCH (R310). -/
def execXactDispatch (i : Fin 16) (s : State) : Host.Outcome State Fault Refusal := .next (s.dispatchRow i)

/-- XACT_ENGINE_VISIT (R320). -/
def execXactEngineVisit (s : State) : Host.Outcome State Fault Refusal :=
  .next ((List.range 16).foldl (fun u i => if u.siteSt i = stXact then u.settle i else u) s.xeVisit)

/-- TPL_EMIT (R314): the EMIT step of a port's transaction. -/
def execTplEmit (n : Fin 128) (s : State) : Host.Outcome State Fault Refusal := .next (s.tplRow n 0)

/-- TPL_SHIFT (R314). -/
def execTplShift (n : Fin 128) (s : State) : Host.Outcome State Fault Refusal := .next (s.tplRow n 1)

/-- TPL_LOOP (R314). -/
def execTplLoop (n : Fin 128) (s : State) : Host.Outcome State Fault Refusal := .next (s.tplRow n 2)

/-- TPL_BRANCH (R314). -/
def execTplBranch (n : Fin 128) (s : State) : Host.Outcome State Fault Refusal := .next (s.tplRow n 3)

/-- TPL_WAITHI (R314). -/
def execTplWaithi (n : Fin 128) (s : State) : Host.Outcome State Fault Refusal := .next (s.tplRow n 4)

/-- TPL_FAIL (R314). -/
def execTplFail (n : Fin 128) (s : State) : Host.Outcome State Fault Refusal := .next (s.tplRow n 5)

/-- TPL_END (R314). -/
def execTplEnd (n : Fin 128) (s : State) : Host.Outcome State Fault Refusal := .next (s.tplRow n 6)

/-- CAPTURE_BIT_RETURN (R316). -/
def execCaptureBitReturn (s : State) : Host.Outcome State Fault Refusal := .next s.captureBit

/-- IVL_RING_WRITE (R302): RED_IVL_BASE (words 0 and 1) or RED_IVL_SIZE (2). -/
def execIvlRingWrite (o : Origin) (k : Fin 3) (v : Word) (s : State) : Host.Outcome State Fault Refusal :=
  .next (s.ivlRingSet o k v)

end Sys2Proof.Machine
end

