-- ==== Sys2Proof/Machine/Constellation.lean ====
section
/-! DEFINITION. The Constellation (R356 to R378): link frames, roles and failover, latency probes, epochs across the Constellation,
events, and routed messages. The commands that perform a peer access are with the bus. -/
namespace Sys2Proof.Machine

/-! HELLO (R358, R360). -/

/-- USE of a port: 1 for the active parent, 2 for the standby parent, else 0. -/
def State.portUse (s : State) (p : Nat) : Nat :=
  if s.get (IAT_PORT_STAT_STATE p) = 3 then 1 else if s.get (IAT_PORT_STAT_STATE p) = 4 then 2 else 0

/-- The ROOT that the device announces: its own address at the root, what its active parent announces elsewhere; the spec gives an
orphan's none. -/
def State.rootAddr (s : State) : Nat :=
  if s.bit IAT_STATUS_ROOT then s.get IAT_CFG_ADDR
  else
    match s.parent with
    | none => Config.orphanRoot (s.get IAT_CFG_ADDR) % 2 ^ 14
    | some p => (match (s.port p).hello with | none => 0 | some h => h.root)

/-- The data word of the HELLO of a port. -/
def State.helloWord (s : State) (p : Nat) : Nat :=
  s.rootAddr + 2 ^ 14 * s.get IAT_STATUS_DEPTH + 2 ^ 18 * s.portUse p + 2 ^ 20 * s.get IAT_SUBTREE_FIRST + 2 ^ 34 * s.get IAT_SUBTREE_LAST

/-- The ports that are UP. -/
def State.upPorts (s : State) : List Nat := (List.range 6).filter (fun p => s.portUp p)

/-- A HELLO sent on a port. -/
def State.sendHello (s : State) (p : Nat) : State :=
  (s.sendFrame p (s.ownFrame ftHello [s.helloWord p])).updPort p (fun q => { q with helloSent := some (s.helloWord p) })

/-- HELLO on every change (R360): on each port whose last HELLO said something else. -/
def State.helloSync (s : State) : State :=
  s.upPorts.foldl (fun u p => if (u.port p).helloSent = some (u.helloWord p) then u else u.sendHello p) s

/-! Roles and parents (R360, R363). -/

/-- Whether a port is an upstream port. -/
def State.upstream (s : State) (p : Nat) : Bool := decide (2 ≤ s.role p)

/-- Whether a port could be a parent, but for the comparison of ROOT. -/
def State.mayParent (s : State) (p : Nat) : Bool :=
  s.upstream p && s.portUp p && s.bit (IAT_PORT_STAT_QUALIFIED p) &&
    (match (s.port p).hello with
      | none => false
      | some h => decide (h.depth ≤ 7))

/-- The ROOT that a port's peer announces. -/
def State.peerRoot (s : State) (p : Nat) : Option Nat := (s.port p).hello.map (fun h => h.root)

/-- The active parent that R360 chooses: the present one while it is usable, else the primary, else the secondary. -/
def State.chooseParent (s : State) : Option Nat :=
  let any := (List.range 6).filter (fun p => s.mayParent p)
  match s.parent.filter (fun p => s.mayParent p) with
  | some p => some p
  | none => ((any.filter (fun p => decide (s.role p = 2))) ++ (any.filter (fun p => decide (s.role p = 3)))).head?

/-- The STATE of each port that is UP: ACTIVE, STANDBY (usable, and not the active parent) or UP (R377). -/
def State.portStates (s : State) (act : Option Nat) : State :=
  s.upPorts.foldl
    (fun u p =>
      u.set (IAT_PORT_STAT_STATE p)
        (if act = some p then 3
        else if u.mayParent p && act.isSome && decide (act.bind u.peerRoot = u.peerRoot p) then 4
        else 2)) s

/-- The depth under an active parent. -/
def State.depthUnder (s : State) (act : Option Nat) : Nat :=
  match act.bind (fun p => (s.port p).hello) with
  | none => 15
  | some h => h.depth + 1

/-- The place in the tree evaluated anew (R360, R363, R371): root, depth, active parent, orphan state and port states, with the parent
switch or orphan event, HELLO on changes, and the EVENT frames that a failed parent link had not acknowledged sent again. -/
def State.treeEval (s : State) (resend : List Frame) : State :=
  let root := !(List.range 6).any (fun p => s.upstream p)
  let old := s.parent
  let act := if root then none else s.chooseParent
  let switch := old.isSome && act.isSome && decide (old ≠ act)
  let orphan := !root && act.isNone
  let was := s.bit IAT_STATUS_ORPHAN
  let s1 := (((s.set IAT_STATUS_ROOT (ofBool root)).set IAT_STATUS_PARENT (act.getD 7)).set IAT_STATUS_ORPHAN (ofBool orphan)).set
    IAT_STATUS_DEPTH (if root then 0 else s.depthUnder act)
  let s2 := s1.portStates act
  let s3 := if switch then ((s2.flag IAT_STATUS_PARENT_SWITCH).raise 0x9003 (act.getD 7) (act.getD 7)).taintAll taintLink else s2
  let s4 := if orphan && !was then (s3.raise 0x9004 noSource 0).taintAll taintLink else s3
  let s5 := s4.helloSync
  match act with
  | none => s5
  | some p => if switch then resend.foldl (fun u f => u.sendFrame p f) s5 else s5

/-! Links (R356, R359). -/

/-- A port goes DOWN (R359, R363, R372): 0 lock lost, 1 silence, 2 replay limit. -/
def State.portDown (s : State) (p why : Nat) : State :=
  if s.portUp p then
    let fs := ((s.port p).unacked.map (fun x => x.frame)).filter (fun f => decide (f.type = ftEvent))
    let mine := decide (s.parent = some p)
    let s1 := ((s.set (IAT_PORT_STAT_STATE p) 0).set (IAT_PORT_STAT_QUALIFIED p) 0).raise 0x9002 p why
    (s1.setPort p LinkPort.reset).treeEval (if mine then fs else [])
  else s

/-- A port has trained and comes UP (R359, R360). -/
def State.linkUp (s : State) (p : Nat) : State :=
  if s.role p ≠ 0 ∧ !s.portUp p ∧ s.get PWR_DOM_STATE_LINK = 0 then
    let s1 := ((s.set (IAT_PORT_STAT_STATE p) 2).set (IAT_PORT_STAT_QUALIFIED p) 0).raise 0x9001 p p
    (s1.setPort p { LinkPort.reset with cleanSince := s.now, lastSend := s.now, lastRecv := s.now }).helloSync
  else s

/-- A port that has been UP for 1 ms without a CRC error is qualified (R359). -/
def State.linkQualified (s0 : State) (p : Nat) : State :=
  if s0.portUp p ∧ !s0.bit (IAT_PORT_STAT_QUALIFIED p) then
    let s := s0.at_ ((s0.port p).cleanSince + ms)
    (s.flag (IAT_PORT_STAT_QUALIFIED p)).treeEval []
  else s0

/-- Frames sent again on a port (R359): those that a condition names, each counted; the port goes DOWN with the fourth replay of one. -/
def State.linkReplay (s : State) (p : Nat) (hit : Sent → Bool) : State :=
  let q := s.port p
  let ack := (q.expect + 4095) % 4096
  let again (x : Sent) : Sent := { x with frame := { x.frame with ack := ack }, at_ := s.now, replays := x.replays + 1 }
  let q' := { q with unacked := q.unacked.map (fun x => if hit x then again x else x), lastSend := s.now }
  let out := (q.unacked.filter hit).map again
  let s1 := out.foldl (fun u x => (u.emit (.frame p x.frame.words)).count (IAT_PORT_REPLAYS_COUNT p) 1) (s.setPort p q')
  if out.any (fun x => decide (4 ≤ x.replays)) then s1.portDown p 2 else s1

/-- The earliest sending among unacknowledged frames. -/
def firstSent : List Sent → Option Nat
  | [] => none
  | x :: r =>
    match firstSent r with
    | none => some x.at_
    | some m => some (min x.at_ m)

/-- A frame of a port has been unacknowledged for 2 µs since it was last sent (R359): every such frame is replayed. -/
def State.replayTimeout (s0 : State) (p : Nat) : State :=
  match firstSent (s0.port p).unacked with
  | none => s0
  | some m =>
    if s0.portUp p then
      let s := s0.at_ (m + 2 * us)
      s.linkReplay p (fun y => decide (y.at_ + 2 * us ≤ s.now))
    else s0

/-- Frames up to ACK acknowledged (R357, R359). -/
def ackFrames (ack : Nat) (l : List Sent) : List Sent :=
  if l.any (fun x => decide (x.frame.seq = ack)) then (l.dropWhile (fun x => decide (x.frame.seq ≠ ack))).drop 1 else l

/-- A NAK sent on a port. -/
def State.sendNak (s : State) (p : Nat) : State := s.sendFrame p (s.ownFrame ftNak [])

/-- Whether a SEQ is that of one of the last 64 frames received in order. -/
def duplicate (expect seq : Nat) : Bool := decide ((expect + 4096 - seq) % 4096 ≤ 64) && decide (seq ≠ expect)

/-- A frame received on a port (R357 to R359): the state, and whether the frame is taken. -/
def State.receive (s : State) (p : Nat) (x : Rx) (type : Nat) : State × Bool :=
  if !s.portUp p then (s, false)
  else
    let s0 := s.updPort p (fun q => { q with lastRecv := s.now })
    match x.check with
    | .crc => (((s0.count (IAT_PORT_CRC_ERR_COUNT p) 1).updPort p (fun q => { q with cleanSince := s.now })).sendNak p, false)
    | .badType => ((s0.count (IAT_PORT_CRC_ERR_COUNT p) 1).sendNak p, false)
    | .ok =>
      let s1 := s0.updPort p (fun q => { q with unacked := ackFrames x.ack.toNat q.unacked })
      if !sequenced type then (s1, true)
      else
        let e := (s1.port p).expect
        if x.seq.toNat = e then (s1.updPort p (fun q => { q with expect := (e + 1) % 4096 }), true)
        else if duplicate e x.seq.toNat then (s1.count (IAT_PORT_CRC_ERR_COUNT p) 1, false)
        else ((s1.count (IAT_PORT_CRC_ERR_COUNT p) 1).sendNak p, false)

/-- What a taken frame does; a frame that is not taken does nothing. -/
def State.onFrame (s : State) (p : Nat) (x : Rx) (type : Nat) (f : State → State) : State :=
  let r := s.receive p x type
  if r.2 then f r.1 else r.1

/-! Epochs (R365, R366). -/

/-- The EPOCH frame of an epoch, sent now on a port; `src` is the root's address. -/
def State.sendEpoch (s : State) (src : Nat) (e : EpochFwd) (p : Nat) : State :=
  s.sendFrame p
    ⟨ftEpoch, 0, src, 0, 0,
      [e.tick, (e.instant - s.now) % 2 ^ 32 + 2 ^ 32 * (e.fine % 2 ^ 11) + 2 ^ 48 * ofBool e.establish + 2 ^ 49 * ofBool e.commit,
        e.tag % 2 ^ 16 + 2 ^ 16 * (e.seq % 2 ^ 16)]⟩

/-- An epoch sent on every active downstream link, and kept while it lies in the future (R363, R365, R366). -/
def State.forwardEpoch (s : State) (e : EpochFwd) : State :=
  let s1 := s.children.foldl (fun u p => u.sendEpoch u.rootAddr e p) s
  s1.updIat (fun i => { i with forwarded := i.forwarded.filter (fun f => decide (s.now < f.instant)) ++ [e] })

/-- An epoch pended (R42, R366). -/
def State.pendEpoch (s : State) (e : EpochPend) : State := s.updTb (fun t => { t with epochs := t.epochs ++ [e] })

/-- The root's epoch from a source instant (R365): its frame goes out at once, carrying a pending COMMIT_NEXT, and the root takes the epoch
itself if TB_EPOCH_CFG.SOURCE selects Iatipin. `qualify` is the instant before which it cannot act. -/
def State.rootEpoch (s : State) (src qualify : Nat) : State :=
  let e := src + s.get IAT_TIMING_EPOCH_LEAD * us
  let est := s.bit TB_EPOCH_CMD_ARM_ESTABLISH
  let com := s.bit IAT_CMD_COMMIT_NEXT
  let tag := s.get IAT_CMD_TAG
  let n := s.iat.epochSeq + 1
  let m := s.merAt e
  let s1 := (s.updIat (fun i => { i with epochSeq := n % 2 ^ 16 })).set IAT_CMD_COMMIT_NEXT 0
  let s2 := s1.forwardEpoch
    ⟨e, if est then 0 else m / tickLsb % 2 ^ 64, if est then 0 else m % tickLsb, est, com, tag, n % 2 ^ 16⟩
  if s.get TB_EPOCH_CFG_SOURCE = 2 then s2.pendEpoch ⟨.link, e, qualify, est, com, tag, none⟩ else s2

/-- IAT_CMD.ROOT_EPOCH (R365): on the root with ROOT_SRC 0, the source instant is the next edge of the active reference. -/
def State.rootEpochCmd (s0 : State) : State :=
  if s0.bit IAT_STATUS_ROOT ∧ s0.get IAT_CFG_ROOT_SRC = 0 ∧ s0.tb.zero.isSome then
    let e := s0.refEdge (s0.now + 1)
    (s0.at_ e).rootEpoch e e
  else s0

/-- A write to IAT_CMD (R375): TAG, then COMMIT_NEXT, then ROOT_EPOCH. -/
def State.iatCmd (s : State) (o : Origin) (v : Word) : State :=
  let s1 := s.regWrite o IAT_CMD_TAG.addr (v &&& 0xFFFF0000)
  let s2 := s1.flagIf (decide (fieldGet 1 1 v ≠ 0) && s1.bit IAT_STATUS_ROOT) IAT_CMD_COMMIT_NEXT
  if fieldGet 0 1 v ≠ 0 then s2.rootEpochCmd else s2

/-- An EPOCH_IN pulse qualifies at a reference edge (R42, R365): its instant is the edge of its first high sample plus TB_EPOCH_OFFSET. -/
def State.epochInQualify (s0 : State) : State :=
  if s0.tb.zero.isNone then s0
  else
    let at_ := s0.refEdge s0.now
    let s := s0.at_ at_
    let e := (((at_ - 2 * s.refPeriod : Nat) : Int) + signedOf 32 (s.get TB_EPOCH_OFFSET)).toNat
    let s1 := if s.get TB_EPOCH_CFG_SOURCE = 1 then s.pendEpoch ⟨.input, e, at_, false, false, 0, none⟩ else s
    if s.bit IAT_STATUS_ROOT ∧ s.bit IAT_CFG_ROOT_SRC then s1.rootEpoch e at_ else s1

/-- An EPOCH frame taken from the active parent (R366). -/
def State.epochFrame (s : State) (p : Nat) (w1 w2 w3 : Nat) : State :=
  if s.parent ≠ some p then s
  else
    let e := (s.now : Int) + bitsOf w2 0 32 - signedOf 32 (s.get (IAT_PORT_LAT p))
    let first : Int := s.now + 100 * ns
    if e < first then
      (((s.flag IAT_STATUS_EPOCH_LATE).raise 0x9005 p (min (2 ^ 32 - 1) ((first - e) / ns).toNat))).taintAll taintLink
    else
      let f : EpochFwd := ⟨e.toNat, w1, bitsOf w2 32 11, bitOf w2 48, bitOf w2 49, bitsOf w3 0 16, bitsOf w3 16 16⟩
      let s1 := s.forwardEpoch f
      if s.get TB_EPOCH_CFG_SOURCE = 2 then
        s1.pendEpoch ⟨.link, f.instant, f.instant, f.establish, f.commit, f.tag, some w1⟩
      else s1

/-! Events (R368, R369). -/

/-- An EVENT frame received (R368, R369): forwarded, then applied at APPLY or at once. -/
def State.eventFrame (s : State) (p src w1 w2 : Nat) : State :=
  let s1 := s.flood (some p) ⟨ftEvent, 0, src, 0, 0, [w1, w2]⟩
  let late := decide (w2 ≠ 0) && decide (w2 < s.tick)
  let s2 := if late then ((s1.flag IAT_STATUS_EVT_LATE).raise 0x900A p src).taintAll taintLink else s1
  s2.evtTake w2 (bitsOf w1 0 32) (bitsOf w1 32 32)

/-- The earliest APPLY tick that waits. -/
def firstApply : List EvtApply → Option Nat
  | [] => none
  | a :: r =>
    match firstApply r with
    | none => some a.apply
    | some m => some (min a.apply m)

/-- The EVENT frames of the earliest APPLY tick act together (R369): all CLEAR bits, then all SET bits. -/
def State.eventApply (s0 : State) : State :=
  match firstApply s0.iat.applies with
  | none => s0
  | some t =>
    let s := s0.at_ (s0.ofMer (t * tickLsb))
    let due := s.iat.applies.filter (fun a => decide (a.apply = t))
    let s1 := s.updIat (fun i => { i with applies := i.applies.filter (fun a => decide (a.apply ≠ t)) })
    s1.evtAct t (due.foldl (fun m a => m ||| a.set) 0) (due.foldl (fun m a => m ||| a.clear) 0)

/-! HELLO received (R360, R363). -/

/-- What a new parent sends to a child that now uses its link as active (R363): its event vector, and every EPOCH frame whose instant lies
in the future. -/
def State.adopt (s : State) (p : Nat) : State :=
  let s1 := s.sendFrame p (s.ownFrame ftEvtState [s.evtState])
  (s1.iat.forwarded.filter (fun e => decide (s1.now < e.instant))).foldl (fun u e => u.sendEpoch u.rootAddr e p) s1

/-- A HELLO frame received. -/
def State.helloFrame (s : State) (p src w : Nat) : State :=
  let h : Hello := ⟨src, bitsOf w 0 14, bitsOf w 14 4, bitsOf w 18 2, bitsOf w 20 14, bitsOf w 34 14⟩
  let was := s.childActive p
  let s1 := (s.updPort p (fun q => { q with hello := some h })).set (IAT_PORT_STAT_PEER p) src
  let s2 :=
    if s1.upstream p && decide (8 ≤ h.depth) then
      (s1.flag IAT_STATUS_DEPTH_REFUSED).raise 0x9007 p h.depth
    else s1
  let s3 := s2.treeEval []
  if !was && s3.childActive p then s3.adopt p else s3

/-- A write to a port's CFG register (R360, R377): a port given a role trains; a port without one is DOWN. -/
def State.portCfgWrite (s : State) (o : Origin) (p : Nat) (v : Word) : State :=
  let old := s.role p
  let s1 := s.regWrite o (IAT_PORT_CFG_ROLE p).addr v
  if s1.role p = old then s1
  else
    let s2 :=
      if s1.role p = 0 then
        ((s1.set (IAT_PORT_STAT_STATE p) 0).set (IAT_PORT_STAT_QUALIFIED p) 0).setPort p LinkPort.reset
      else if s1.get (IAT_PORT_STAT_STATE p) = 0 then s1.set (IAT_PORT_STAT_STATE p) 1
      else s1
    s2.treeEval []

/-- A write to IAT_CFG, IAT_SUBTREE or another configuration word (R373): what HELLO announces may change. -/
def State.iatCfgWrite (s : State) (o : Origin) (a : Nat) (v : Word) : State := (s.regWrite o a v).helloSync

/-! Latency probes (R364). -/

/-- Probes sent on every port that is UP. -/
def State.sendProbes (s : State) : State :=
  s.upPorts.foldl
    (fun u p =>
      let id := (u.port p).nextProbe
      (u.sendFrame p (u.ownFrame ftProbe [id])).updPort p
        (fun q => { q with nextProbe := (id + 1) % 4096, probes := q.probes ++ [(id, u.now)] })) s

/-- Probes older than 1 µs are not counted. -/
def State.dropProbes (s : State) (p : Nat) : State :=
  s.updPort p (fun q => { q with probes := q.probes.filter (fun x => decide (s.now ≤ x.2 + us)) })

/-- The sum of a list of integers. -/
def sumInts : List Int → Int
  | [] => 0
  | x :: r => x + sumInts r

/-- A PROBE_REPLY received at t4: the receive latency over the last 2^AVG valid probes. -/
def State.probeReply (s0 : State) (p id turn : Nat) : State :=
  let s := s0.dropProbes p
  match (s.port p).probes.find? (fun x => decide (x.1 = id)) with
  | none => s
  | some (_, t1) =>
    let v : Int := ((s.now - t1 : Nat) : Int) - turn
    let all := ((s.port p).lats ++ [v])
    let lats := all.drop (all.length - 1024)
    let use := lats.drop (lats.length - 2 ^ min 10 (s.get IAT_PROBE_CFG_AVG))
    let n : Int := use.length
    let l := (sumInts use + n) / (2 * n) + signedOf 16 (s.get (IAT_PORT_CFG_ASYM p))
    (s.updPort p (fun q => { q with lats := lats, probes := q.probes.filter (fun x => decide (x.1 ≠ id)) })).set (IAT_PORT_LAT p)
      (unsignedOf 32 l)

/-! Messages (R361, R362). -/

/-- The message outstanding ends (R362, R376). -/
def State.msgEnd (s : State) (result : Nat) : State := (s.set IAT_MSG_STAT_STATE 2).set IAT_MSG_STAT_RESULT result

/-- An MSG_RSP for this device. -/
def State.msgRsp (s : State) (src w : Nat) : State :=
  if s.get IAT_MSG_STAT_STATE = 1 ∧ s.iat.msgDest = src then
    (if s.iat.msgRd then s.set IAT_MSG_DATA (bitsOf w 0 32) else s).msgEnd (bitsOf w 32 3)
  else s

/-- The downstream link whose child announces a range that holds an address, the lowest such port (R361). -/
def State.routeDown (s : State) (dest : Nat) : Option Nat :=
  s.children.find? (fun p =>
    match (s.port p).hello with
    | none => false
    | some h => decide (h.first ≤ dest) && decide (dest ≤ h.last))

/-- A routed frame (R361). A message of the device to itself waits in `loop` for its own MSG_RD or MSG_WR. -/
def State.route (s : State) (f : Frame) : State :=
  if f.dest = s.get IAT_CFG_ADDR then
    if f.type = ftMsgRsp then s.msgRsp f.src (f.data.getD 0 0) else s.updIat (fun i => { i with loop := some f })
  else
    match s.routeDown f.dest with
    | some p => s.sendFrame p f
    | none =>
      if s.bit IAT_STATUS_ROOT then (s.flag IAT_STATUS_UNROUTABLE).raise 0x9008 noSource f.dest
      else
        match s.parent with
        | some p => s.sendFrame p f
        | none => s

/-- A write to IAT_MSG_CMD (R362, R376). -/
def State.msgCmd (s : State) (v : Word) : State :=
  if fieldGet 17 1 v = 0 ∨ s.get IAT_MSG_STAT_STATE = 1 then s
  else
    let dest := fieldGet 0 14 v
    let wr := decide (fieldGet 16 1 v ≠ 0)
    let addr := s.get64 IAT_MSG_ADDR_LO_ADDR IAT_MSG_ADDR_HI_ADDR
    let s1 := (s.set IAT_MSG_STAT_STATE 1).updIat (fun i => { i with msgDest := dest, msgRd := !wr, msgAt := s.now })
    s1.route ⟨if wr then ftMsgWr else ftMsgRd, 0, s.get IAT_CFG_ADDR, dest, 0, if wr then [addr, s.get IAT_MSG_DATA] else [addr]⟩

/-- No response 100 µs after GO (R362). -/
def State.msgTimeout (s0 : State) : State :=
  if s0.get IAT_MSG_STAT_STATE = 1 then
    let s := s0.at_ (s0.iat.msgAt + 100 * us)
    (s.msgEnd 3).raise 0x9009 noSource s.iat.msgDest
  else s0

/-! The commands. -/

/-- EPOCH: an EPOCH frame with its three data words arrives on port p (R366). -/
def execEpoch (p : Fin 6) (x : Rx) (w1 w2 w3 : DWord) (s : State) : Host.Outcome State Fault Refusal :=
  .next (s.onFrame p x ftEpoch (fun u => u.epochFrame p w1.toNat w2.toNat w3.toNat))

/-- EVENT: an EVENT frame arrives on port p (R368, R369). -/
def execEvent (p : Fin 6) (x : Rx) (w1 w2 : DWord) (s : State) : Host.Outcome State Fault Refusal :=
  .next (s.onFrame p x ftEvent (fun u => u.eventFrame p x.src.toNat w1.toNat w2.toNat))

/-- EVT_STATE: an EVT_STATE frame arrives on port p (R363). -/
def execEvtState (p : Fin 6) (x : Rx) (vector : Word) (s : State) : Host.Outcome State Fault Refusal :=
  .next (s.onFrame p x ftEvtState (fun u => (u.updIat (fun z => { z with together := none })).evtVector vector.toNat))

/-- PROBE: a PROBE arrives on port p; `turn` is TURN as stamped (R364). -/
def execProbe (p : Fin 6) (x : Rx) (id : BitVec 12) (turn : Word) (s : State) : Host.Outcome State Fault Refusal :=
  .next (s.onFrame p x ftProbe
    (fun u => u.sendFrame p (u.ownFrame ftProbeReply [id.toNat + 2 ^ 32 * turn.toNat])))

/-- PROBE_REPLY: a PROBE_REPLY arrives on port p (R364). -/
def execProbeReply (p : Fin 6) (x : Rx) (id : BitVec 12) (turn : Word) (s : State) : Host.Outcome State Fault Refusal :=
  .next (s.onFrame p x ftProbeReply (fun u => u.probeReply p id.toNat turn.toNat))

/-- NAK: the peer has discarded a frame; everything after its ACK is sent again (R359). -/
def execNak (p : Fin 6) (x : Rx) (s : State) : Host.Outcome State Fault Refusal :=
  .next (s.onFrame p x ftNak (fun u => u.linkReplay p (fun _ => true)))

/-- HELLO: a HELLO frame arrives on port p (R360). -/
def execHello (p : Fin 6) (x : Rx) (w : DWord) (s : State) : Host.Outcome State Fault Refusal :=
  .next (s.onFrame p x ftHello (fun u => u.helloFrame p x.src.toNat w.toNat))

/-- MSG_RSP: an MSG_RSP arrives on port p (R361, R362). -/
def execMsgRsp (p : Fin 6) (x : Rx) (w : DWord) (s : State) : Host.Outcome State Fault Refusal :=
  .next (s.onFrame p x ftMsgRsp (fun u => u.route ⟨ftMsgRsp, 0, x.src.toNat, x.dest.toNat, 0, [w.toNat]⟩))

/-- IDLE: an IDLE frame arrives on port p (R356). -/
def execIdle (p : Fin 6) (x : Rx) (s : State) : Host.Outcome State Fault Refusal := .next (s.onFrame p x ftIdle id)

/-- LINK_SILENCE: no frame on port p for 1 µs (R356). -/
def execLinkSilence (p : Fin 6) (s : State) : Host.Outcome State Fault Refusal :=
  .next ((if s.portUp p then s.at_ ((s.port p).lastRecv + us) else s).portDown p 1)

/-- BLOCK_LOCK_LOST: block lock is lost on a lane of port p (R356). -/
def execBlockLockLost (p : Fin 6) (s : State) : Host.Outcome State Fault Refusal := .next (s.portDown p 0)

/-- REPLAY_TIMEOUT: a frame of port p has been unacknowledged for 2 µs (R359). -/
def execReplayTimeout (p : Fin 6) (s : State) : Host.Outcome State Fault Refusal := .next (s.replayTimeout p)

/-- LINK_UP: port p completes training (R359). -/
def execLinkUp (p : Fin 6) (s : State) : Host.Outcome State Fault Refusal := .next (s.linkUp p)

/-- LINK_QUALIFIED: port p has been UP for 1 ms without a CRC error (R359). -/
def execLinkQualified (p : Fin 6) (s : State) : Host.Outcome State Fault Refusal := .next (s.linkQualified p)

/-- HELLO_TIMER: 10 µs have passed; a HELLO goes out on each port that is UP (R360). -/
def execHelloTimer (s : State) : Host.Outcome State Fault Refusal :=
  .next (s.upPorts.foldl (fun u p => u.sendHello p) s)

/-- PROBE_TIMER: 1 µs has passed; each port that is UP sends a PROBE (R364). -/
def execProbeTimer (s : State) : Host.Outcome State Fault Refusal := .next s.sendProbes

/-- PROBE_TIMEOUT: replies that have not arrived within 1 µs are not counted (R364). -/
def execProbeTimeout (p : Fin 6) (s : State) : Host.Outcome State Fault Refusal := .next (s.dropProbes p)

/-- IDLE_TIMER: port p has had nothing to send for 256 ns (R356). -/
def execIdleTimer (p : Fin 6) (s : State) : Host.Outcome State Fault Refusal :=
  .next (if s.portUp p then (s.at_ ((s.port p).lastSend + 256 * ns)).sendFrame p (s.ownFrame ftIdle []) else s)

/-- MSG_GO: a write to IAT_MSG_CMD (R362). -/
def execMsgGo (v : Word) (s : State) : Host.Outcome State Fault Refusal := .next (s.msgCmd v)

/-- MSG_TIMEOUT: no response 100 µs after GO (R362). -/
def execMsgTimeout (s : State) : Host.Outcome State Fault Refusal := .next s.msgTimeout

/-- ROOT_EPOCH: IAT_CMD.ROOT_EPOCH, written with a TAG (R365). -/
def execRootEpoch (o : Origin) (tag : BitVec 16) (s : State) : Host.Outcome State Fault Refusal :=
  .next (s.iatCmd o (word (1 + 2 ^ 16 * tag.toNat)))

/-- COMMIT_NEXT: IAT_CMD.COMMIT_NEXT, written with a TAG (R365). -/
def execCommitNext (o : Origin) (tag : BitVec 16) (s : State) : Host.Outcome State Fault Refusal :=
  .next (s.iatCmd o (word (2 + 2 ^ 16 * tag.toNat)))

/-- EVT_SET: a write to IAT_EVT_SET (R368). -/
def execEvtSet (v : Word) (s : State) : Host.Outcome State Fault Refusal :=
  .next (if v = 0 then s else s.originEvent v.toNat 0)

/-- EVT_CLEAR: a write to IAT_EVT_CLEAR (R368). -/
def execEvtClear (v : Word) (s : State) : Host.Outcome State Fault Refusal :=
  .next (if v = 0 then s else s.originEvent 0 v.toNat)

/-- EVENT_APPLY: the earliest APPLY tick has come (R369). -/
def execEventApply (s : State) : Host.Outcome State Fault Refusal := .next s.eventApply

/-- EPOCH_IN_QUALIFY: an EPOCH_IN pulse has been sampled high on three sampling edges (R42). -/
def execEpochInQualify (s : State) : Host.Outcome State Fault Refusal := .next s.epochInQualify

end Sys2Proof.Machine
end

