-- ==== Sys2Proof/Machine/Calibration.lean ====
section
/-! DEFINITION. Calibration runs and their steps (R380 to R387), the commands of CAL_CMD (R388 to R390, R398), and the Almanac (R392 to
R395). The contents of the flash are operands. -/
namespace Sys2Proof.Machine

/-- The code of a kind of step (R396). -/
def CalKind.code : CalKind → Nat
  | .level => 0
  | .timing => 1
  | .tdr => 2

/-- The STATUS field of a pin for a kind (R402). -/
def calStatusFld (p : Nat) : CalKind → Fld
  | .level => CAL_WS_STATUS_LEVEL p
  | .timing => CAL_WS_STATUS_TIMING p
  | .tdr => CAL_WS_STATUS_TDR p

/-! Runs (R380, R385, R398). -/

/-- Whether a run is in progress. -/
def State.calRunning (s : State) : Bool := decide (s.get CAL_STATUS_RUN_STATE = 1)

/-- The steps of a run in order: the pins ascending, and for each the selected kinds. -/
def State.calPlan (s : State) : List (Nat × CalKind) :=
  let k := s.get CAL_RUN_CFG_KINDS
  let first := s.get CAL_RUN_PINS_FIRST
  let kinds := (if bitOf k 0 then [CalKind.level] else []) ++ (if bitOf k 1 then [CalKind.timing] else []) ++
    (if bitOf k 2 then [CalKind.tdr] else [])
  (List.range (s.get CAL_RUN_PINS_LAST + 1 - first)).flatMap (fun n => kinds.map (fun x => (first + n, x)))

/-- A run that has no step left ends (R385, R398). -/
def State.calRunEnd (s : State) : State :=
  if s.calRunning ∧ s.cal.todo = [] ∧ s.cal.steps = [] then
    let s1 := s.set CAL_STATUS_RUN_STATE (if s.cal.cancelled then 3 else 2)
    let s2 := (s1.set CAL_RUN_COUNT_DONE (s.cal.pins.length - s.cal.failed.length)).set CAL_RUN_COUNT_FAILED s.cal.failed.length
    let s3 := (s2.set CAL_QWORST_T_WORST s.cal.worst.1).set CAL_QWORST_L_WORST s.cal.worst.2
    s3.raise 0xA001 noSource s.cal.nonOk
  else s

/-- The status of a step recorded (R385, R396, R399). -/
def State.calStatus (s : State) (p : Nat) (k : CalKind) (st : Nat) : State :=
  let s1 := s.set (calStatusFld p k) st
  if st = 0 then s1
  else
    let evt := bitOf s.cal.cfg.toNat 20 && !s.cal.failEvt
    let s2 := (s1.flag CAL_STATUS_ANY_FAIL).updCal (fun c =>
      { c with
        nonOk := c.nonOk + 1
        failed := if c.failed.contains p then c.failed else c.failed ++ [p]
        failEvt := c.failEvt || evt })
    s2.raiseIf evt 0xA002 p (k.code + 2 ^ 8 * st)

/-- CAL_CMD.RUN (R380): ignored while a run is in progress. -/
def State.calRun (s : State) : State :=
  if s.calRunning then s
  else
    let plan := s.calPlan
    let s1 := (s.set CAL_STATUS_RUN_STATE 1).updCal (fun c =>
      { c with
        todo := plan
        cancelled := false
        nonOk := 0
        pins := (plan.map (fun x => x.1)).eraseDups
        failed := []
        failEvt := false
        busySites := []
        cfg := s.reg CAL_RUN_CFG_KINDS.addr
        worst := (0, 0) })
    s1.calRunEnd

/-- CAL_CMD.CANCEL (R398): the steps that have not started get SKIPPED. -/
def State.calCancel (s : State) : State :=
  if s.calRunning then
    let s1 := s.updCal (fun c => { c with todo := [], cancelled := true })
    (s.cal.todo.foldl (fun u x => u.calStatus x.1 x.2 1) s1).calRunEnd
  else s

/-! Steps (R381 to R387). -/

/-- Whether a step may be performed on a pin (R381). -/
def State.calAllowed (s : State) (p : Nat) : Bool :=
  s.pinFree p && !s.bit (PIN_FESTAT_TRIP p) && decide (s.oct (p / 64) = .on) &&
    (decide (s.tdcSt p = 0) || decide (s.tdcSt p = 3)) && s.bit TB_REF_STATUS_LOCKED && !s.bit TB_REF_STATUS_HOLDOVER

/-- Whether the site of a pin was started during a step of the run (R383). -/
def State.calBusy (s : State) (p : Nat) : Bool :=
  match s.pinOwner p with
  | none => false
  | some i => s.cal.busySites.contains i

/-- Launches of a TDR step (R387, R397). -/
def State.launches (s : State) : Nat := 2 ^ min 8 (fieldGet 4 4 s.cal.cfg)

/-- The VOL threshold of a TDR step in µV: 25 % of SWING (R387). -/
def State.tdrVol (s : State) : Nat := 250 * fieldGet 8 12 s.cal.cfg

/-- The VOH threshold of a TDR step in µV with the end open: 75 % of SWING (R387). -/
def State.tdrVoh (s : State) : Option Nat := if bitOf s.cal.cfg.toNat 3 then none else some (750 * fieldGet 8 12 s.cal.cfg)

/-- What a step does to the ball at its start (R382, R387): a TDR step launches its steps, with its own thresholds. -/
def State.calBall (s : State) (p : Nat) : CalKind → State
  | .level => s.emit (.disconnect p)
  | .timing => s.emit (.disconnect p)
  | .tdr => s.emit (.launch p (fieldGet 8 12 s.cal.cfg) s.launches s.tdrVol s.tdrVoh)

/-- A step begins on a pin. -/
def State.calBegin (s : State) (p : Nat) (k : CalKind) (repeats : Nat) : State :=
  (s.calBall p k).updCal (fun c => { c with steps := c.steps ++ [⟨p, k, repeats, false, s.octTemp (p / 64), [], false⟩] })

/-- The next step of octant k begins, or gets SKIPPED or BUSY (R381, R383). -/
def State.calNext (s : State) (k : Nat) : State :=
  if !s.calRunning || s.cal.steps.any (fun c => decide (c.pin / 64 = k)) then s
  else
    match s.cal.todo.find? (fun x => decide (x.1 / 64 = k)) with
    | none => s
    | some (p, kind) =>
      let s1 := s.updCal (fun c => { c with todo := c.todo.erase (p, kind) })
      if s1.calBusy p then (s1.calStatus p kind 2).calRunEnd
      else if s1.calAllowed p then s1.calBegin p kind 0
      else (s1.calStatus p kind 1).calRunEnd

/-- A step has ended (R382): the pin resumes the state its registers give, and the writes that waited take effect. -/
def State.calRelease (s : State) (c : CalStep) : State :=
  let s1 := s.updCal (fun x => { x with steps := x.steps.erase c })
  let s2 := if (s1.pin c.pin).idle then s1.applyIdle c.pin s1.now else s1
  let s3 := if s2.disconnected c.pin then s2 else s2.emit (.drive c.pin s2.now (s2.pin c.pin).drv)
  c.held.foldl (fun u h => u.pinEffect h.origin h.quiet h.pin h.off h.value) s3

/-- The octant's temperature recorded for its last LEVEL or TIMING step (R391). -/
def State.calStamp (s : State) (p : Nat) : State :=
  s.updCal (fun c => { c with temps := Sparse.set (fun _ => none) c.temps (p / 64) (some (s.octTemp (p / 64))) })

/-- Whether a LEVEL step calibrates the clamps of its group: the pin is the lowest of the group within the run (R380). -/
def State.calClamps (s : State) (p : Nat) : Bool := !s.cal.pins.any (fun q => decide (q / 8 = p / 8) && decide (q < p))

/-- A quotient rounded to the nearest, halves up. -/
def roundDiv (a b : Int) : Int := (2 * a + b) / (2 * b)

/-- The gain of a DAC in 2^-20, fitted so that the corrected code 1,000 and the corrected code 15,000 give the outputs of R97 (R385):
(1 + g * 2^-20) is the ideal span of 14,000 codes, 70,000,000,000 / 16,384 µV, over the span measured. -/
def DacMeasure.gain (m : DacMeasure) : Int :=
  clampInt (-32768) 32767 (roundDiv ((70000000000 - 16384 * (m.high - m.low)) * 2 ^ 20) (16384 * (m.high - m.low)))

/-- The offset of a DAC in 1/16 LSB, fitted likewise: the uncorrected code that gives -1.0 V. -/
def DacMeasure.offset (m : DacMeasure) : Int :=
  clampInt (-32768) 32767 (roundDiv (16 * (1000 * (m.high - m.low) - 14000 * (1000000 + m.low))) (m.high - m.low))

/-- The calibration word of a DAC: g below o (R402). -/
def DacMeasure.word (m : DacMeasure) : Nat := unsignedOf 16 m.gain + 2 ^ 16 * unsignedOf 16 m.offset

/-- The error of an output in µV against R97, rounded to the nearest. -/
def dacError (code : Nat) (v : Int) : Nat := (roundDiv ((16384 * (v + 1000000) - 5000000 * code).natAbs : Nat) 16384).toNat

/-- The largest error of a DAC after correction, at codes 1,000, 8,192 and 15,000 (R385). -/
def DacMeasure.residual (m : DacMeasure) : Nat :=
  max (dacError 1000 m.at1000) (max (dacError 8192 m.at8192) (dacError 15000 m.at15000))

/-- The results of a LEVEL step (R385): its entries, if the residual, the largest of the DACs it calibrates, lies within the limit. -/
def State.calLevel (s : State) (p : Nat) (l : List DacMeasure) (clh cll : DacMeasure) : State :=
  let all := l ++ (if s.calClamps p then [clh, cll] else [])
  let res := min 65535 (all.foldl (fun a m => max a m.residual) 0)
  let s1 := (s.set (CAL_WS_QUAL_L_L_RES p) res).updCal (fun c => { c with worst := (c.worst.1, max c.worst.2 res) })
  if s.get CAL_LIMITS_L_LIM < res then s1.calStatus p .level 4
  else
    let s2 := (List.range 5).foldl (fun u k => u.set (CAL_WS_LVL p k) ((l[k]?).elim 0 DacMeasure.word)) s1
    let s3 := if s.calClamps p then (s2.set (CAL_WSG_CLH (p / 8)) clh.word).set (CAL_WSG_CLL (p / 8)) cll.word else s2
    (s3.calStamp p).calStatus p .level 0

/-- The sum of integers, and of their squares. -/
def sums (l : List Int) : Int × Int := l.foldl (fun a x => (a.1 + x, a.2 + x * x)) (0, 0)

/-- n² times the variance of n measurements. -/
def varianceN2 (l : List Int) : Nat := (l.length * (sums l).2 - (sums l).1 * (sums l).1).toNat

/-- The mean of measurements, rounded. -/
def meanOf (l : List Int) : Int := roundDiv (sums l).1 l.length

/-- The spread of loopback measurements in 0.1 ps (R385): the standard deviation, from measurements in 0.25 ps. -/
def spreadOf (l : List Int) : Nat := (isqrt (25 * varianceN2 l / (l.length * l.length)) 64 0 + 1) / 2

/-- The results of a TIMING step (R385): the mean of each quantity over 64 loopback measurements, with the larger spread as the residual. -/
def State.calTiming (s : State) (p : Nat) (tx rx : List Int) : State :=
  let res := min 65535 (max (spreadOf (tx.take 64)) (spreadOf (rx.take 64)))
  let s1 := (s.set (CAL_WS_QUAL_T_T_RES p) res).updCal (fun c => { c with worst := (max c.worst.1 res, c.worst.2) })
  if s.get CAL_LIMITS_T_LIM < res then s1.calStatus p .timing 4
  else
    let s2 := (s1.set (CAL_WS_TX_TX_INT p) (unsignedOf 32 (meanOf (tx.take 64)))).set (CAL_WS_RX_RX_INT p)
      (unsignedOf 32 (meanOf (rx.take 64)))
    (s2.calStamp p).calStatus p .timing 0

/-- The time from the incident to the reflected crossing of a launch, if it counts (R387): the first rising crossing of VOL, then the
first rising crossing of VOH with the end open, or falling crossing of VOL with it shorted, within 25 ns of the incident one. -/
def tdrDelta (short : Bool) (l : List TdrCross) : Option Nat :=
  match l.dropWhile (fun x => x.voh || !x.rising) with
  | [] => none
  | x :: r =>
    (r.find? (fun y => decide (y.voh ≠ short) && decide (y.rising ≠ short) && decide (y.time ≤ x.time + 25 * ns))).map
      (fun y => y.time - x.time)

/-- The standard deviation of FIX in 0.01 ps, from counted times in 0.25 ps (R387): that of a time, over the root of their number, halved. -/
def fixSd (ds : List Nat) : Nat :=
  let n := ds.length
  (isqrt (625 * varianceN2 (ds.map Int.ofNat) / (n * n * n)) 64 0 + 1) / 2

/-- The results of a TDR step (R387): FIX is twice the mean time in picoseconds, rounded, at most 40,000; NO_REFLECT where fewer than half
of the launches are counted. -/
def State.calTdr (s : State) (p : Nat) (ls : List (List TdrCross)) : State :=
  let n := s.launches
  let ok := (ls.take n).filterMap (tdrDelta (bitOf s.cal.cfg.toNat 3))
  if 2 * ok.length < n then s.calStatus p .tdr 5
  else
    let sum := ok.foldl (fun a x => a + x) 0
    let fix := min 40000 ((sum + ok.length) / (2 * ok.length))
    ((s.set (CAL_WS_FIX p) fix).set (CAL_WS_QUAL_T_TDR_SD p) (min 65535 (fixSd ok))).calStatus p .tdr 0

/-- What a step that was not discarded has measured; a measurement of another kind is none. -/
def State.calResult (s : State) (c : CalStep) (m : CalMeasure) : Option State :=
  match c.kind, m with
  | .level, .level vih vil voh vol vtt clh cll => some (s.calLevel c.pin [vih, vil, voh, vol, vtt] clh cll)
  | .timing, .timing tx rx => some (s.calTiming c.pin tx rx)
  | .tdr, .tdr ls => some (s.calTdr c.pin ls)
  | _, _ => none

/-- A discarded step ends (R384): it waits to be repeated, or is UNSTABLE after the third time. -/
def State.calAgain (s : State) (c : CalStep) : State :=
  if 2 ≤ c.repeats then ((s.calRelease c).calStatus c.pin c.kind 3).calRunEnd
  else
    s.updCal (fun z => { z with
      steps := z.steps.map (fun x => if x = c then { x with repeats := x.repeats + 1, idle := true } else x) })

/-- A discarded step is repeated (R384), a TIMING step at the setting of a TB_REF_CFG write that has waited for it (R38); it gets SKIPPED
where it may no longer be performed. -/
def State.calRepeat (s : State) (c : CalStep) : State :=
  if s.tb.deferred.isSome && decide (c.kind = .timing) then s
  else if s.calAllowed c.pin || s.calBusy c.pin then
    (s.calBall c.pin c.kind).updCal (fun z => { z with
      steps := z.steps.map (fun x => if x = c then { x with spoiled := false, temp := s.octTemp (x.pin / 64), idle := false } else x) })
  else ((s.calRelease c).calStatus c.pin c.kind 1).calRunEnd

/-- The turn of octant k: a discarded step is repeated, or its next step begins (R381, R384). -/
def State.calStepStart (s : State) (k : Nat) : State :=
  match s.cal.steps.find? (fun c => decide (c.pin / 64 = k) && c.idle) with
  | some c => s.calRepeat c
  | none => s.calNext k

/-- The step in progress in octant k ends (R384, R385). -/
def State.calStepDone (s : State) (k : Nat) (m : CalMeasure) : State :=
  match s.cal.steps.find? (fun c => decide (c.pin / 64 = k) && !c.idle) with
  | none => s
  | some c =>
    if c.spoiled then s.calAgain c
    else
      match s.calResult c m with
      | none => s
      | some s1 => (s1.calRelease c).calRunEnd

/-! CAL_CMD (R388 to R390, R398). -/

/-- A write to CAL_CMD: TAG, then the command bits from the lowest to the highest. -/
def State.calCmd (s : State) (o : Origin) (v : Word) : State :=
  let tag := fieldGet 16 16 v
  let on (k : Nat) : Bool := bitOf v.toNat k
  let s1 := s.regWrite o CAL_CMD_TAG.addr (v &&& 0xFFFF0000)
  let s2 := if on 0 then s1.calRun else s1
  let s3 := if on 1 then s2.calCancel else s2
  let s4 := if on 2 then s3.calCommit o tag else s3
  let s5 := if on 3 then (s4.set CAL_STATUS_EPOCH_ARMED 1).updCal (fun c => { c with armTag := tag }) else s4
  let s6 := if on 4 then s5.set CAL_STATUS_EPOCH_ARMED 0 else s5
  if on 5 then (s6.setWork s6.cal.committed).updCal (fun c => { c with temps := c.commTemps }) else s6

/-- The CAL_CMD word of one command bit with a tag. -/
def calWordOf (k : Nat) (tag : BitVec 16) : Word := word (2 ^ k + 2 ^ 16 * tag.toNat)

/-! The Almanac (R392 to R395). -/

/-- The flash offset of a slot; bits [17:0] are ignored. -/
def State.almOffset (s : State) (k : Nat) : Nat := s.get (CAL_ALM_SLOT_OFFSET k) / 2 ^ 18 * 2 ^ 18

/-- The payload of a slot: PINS, GROUPS and PORTS. -/
def State.almPayload (s : State) : List Byte :=
  (List.range 512).flatMap (fun p => (List.range 12).flatMap (fun k => leBytes 4 (s.calWord (0x8000 + 0x40 * p + 4 * k)))) ++
    (List.range 64).flatMap (fun g => leBytes 4 (s.calWord (0x4000 + 8 * g)) ++ leBytes 4 (s.calWord (0x4004 + 8 * g))) ++
    (List.range 6).flatMap (fun p => leBytes 2 (s.get (IAT_PORT_CFG_ASYM p))) ++ List.replicate 20 0

/-- The temperature byte of octant k. -/
def State.almTemp (s : State) (k : Nat) : Byte :=
  match Sparse.get (fun _ => none) s.cal.commTemps k with
  | none => 0
  | some t => BitVec.ofInt 8 t

/-- Bytes 0x000 to 0x03F of a slot. -/
def State.almHeader (s : State) (seq : Nat) (payload : List Byte) : List Byte :=
  leBytes 4 0x4D4C4143 ++ leBytes 4 (1 + 2 ^ 16 * ofBool s.nv.identity.isNone) ++ leBytes 4 seq ++ leBytes 4 25120 ++
    leBytes 4 (crc32c payload).toNat ++ leBytes 4 s.cal.setTag ++ leBytes 8 s.tick ++ s.nv.serial ++
    (List.range 8).map s.almTemp ++ List.replicate 8 0

/-- A signature of the identity key, r then s, big-endian; zeros without one (R523). -/
def State.signBytes (s : State) (msg : List Byte) : List Byte :=
  match s.nv.identity with
  | none => List.replicate 96 0
  | some k => beBytes 48 (Config.sign k msg).1 ++ beBytes 48 (Config.sign k msg).2

/-- The image of a slot. -/
def State.almImage (s : State) (seq : Nat) : List Byte :=
  let payload := s.almPayload
  let head := s.almHeader seq payload
  head ++ s.signBytes (head ++ payload) ++ List.replicate 96 0 ++ payload

/-- The little-endian number of `n` bytes at an offset. -/
def leAt (bs : List Byte) (off n : Nat) : Nat := leNat ((bs.drop off).take n)

/-- SEQ of a slot image. -/
def almSeq (bs : List Byte) : Nat := leAt bs 8 4

/-- Whether a slot is valid (R393). -/
def State.almValid (s : State) (bs : List Byte) : Bool :=
  let payload := (bs.drop 0x100).take 25120
  let r := beNat ((bs.drop 0x40).take 48)
  let t := beNat ((bs.drop 0x70).take 48)
  let frame := decide (leAt bs 0 4 = 0x4D4C4143) && decide (leAt bs 4 2 = 1) && decide (leAt bs 12 4 = 25120) &&
    decide (leAt bs 16 4 = (crc32c payload).toNat) && decide ((bs.drop 0x20).take 16 = s.nv.serial)
  frame &&
    (if bitOf (leAt bs 4 4) 16 && decide (r = 0) && decide (t = 0) then s.nv.identity.isNone
    else
      match Config.parseCert s.nv.cert with
      | none => false
      | some (_, key) => ecdsaVerify key (bs.take 0x40 ++ payload) r t)

/-- An Almanac save begins, with what the two slots hold (R394). -/
def State.almWrite (s : State) (b0 b1 : List Byte) : State :=
  let v0 := s.almValid b0
  let v1 := s.almValid b1
  let slot := if !v0 then 0 else if !v1 then 1 else if almSeq b0 < almSeq b1 then 0 else 1
  let top := max (if v0 then almSeq b0 else 0) (if v1 then almSeq b1 else 0)
  if 0xFFFFFFFE ≤ top then ((s.set CAL_ALM_STAT_BUSY 0).set CAL_ALM_STAT_RESULT 3).raise 0xA006 noSource 3
  else
    let img := s.almImage (top + 1)
    ((s.set CAL_ALM_STAT_BUSY 1).updCal (fun c => { c with save := some (slot, top + 1, img) })).emit (.flash (s.almOffset slot) img)

/-- Whether an amendment that came before a save is being stored (R394). -/
def State.flashBusy (s : State) : Bool :=
  match s.boot.amd with
  | none => false
  | some a => decide (a.phase = .storing) && !a.afterSave

/-- CAL_ALM_CMD.SAVE, with what the two slots hold (R394): a command by itself, or the one that a register write has asked for, which is
busy already. Behind an amendment that is being stored it waits; during a save it is ignored. -/
def State.almSave (s : State) (b0 b1 : List Byte) : State :=
  if s.cal.save.isSome || s.cal.saveWait.isSome then s
  else if s.flashBusy then (s.set CAL_ALM_STAT_BUSY 1).updCal (fun c => { c with saveWait := some (b0, b1) })
  else s.almWrite b0 b1

/-- A save that has waited for an amendment's flash write begins (R394). -/
def State.almNext (s : State) : State :=
  match s.cal.saveWait with
  | none => s
  | some (b0, b1) => (s.updCal (fun c => { c with saveWait := none })).almWrite b0 b1

/-- A save ends: the slot as read back, none where the flash failed (R394). -/
def State.almSaved (s : State) (back : Option (List Byte)) : State :=
  match s.cal.save with
  | none => s
  | some (slot, seq, img) =>
    let s1 := (s.set CAL_ALM_STAT_BUSY 0).updCal (fun c => { c with save := none })
    let res := match back with
      | none => 2
      | some bs => if s.almValid bs && decide (bs = img) then 0 else 1
    let s2 := s1.set CAL_ALM_STAT_RESULT res
    if res = 0 then ((s2.set CAL_ALM_STAT_SLOT slot).set CAL_ALM_SEQ seq).raise 0xA005 noSource seq
    else s2.raise 0xA006 noSource res

/-- The bits of a word of a CAL_WSp window that exist (R402). -/
def calMask (k w : Nat) : Nat :=
  if k = 3 then 0 else if k = 10 then w % 2 ^ 16 else if k = 11 then w % 2 ^ 24 else w

/-- The set that a slot holds. -/
def almSet (bs : List Byte) : Sparse Word :=
  let groups := (List.range 128).map (fun k => (0x4000 + 4 * k, word (leAt bs (0x6100 + 4 * k) 4)))
  let pins := (List.range 512).flatMap (fun p =>
    (List.range 12).map (fun k => (0x8000 + 0x40 * p + 4 * k, word (calMask k (leAt bs (0x100 + 48 * p + 4 * k) 4)))))
  (groups ++ pins).filter (fun e => decide (e.2 ≠ 0))

/-- A slot loaded into the committed and working sets, with ASYM (R395). -/
def State.almTake (s : State) (slot : Nat) (bs : List Byte) : State :=
  let set := almSet bs
  let temps : Sparse (Option Int) := (List.range 8).map (fun k => (k, some (signedOf 8 (leAt bs (0x30 + k) 1))))
  let s1 := (s.setWork set).updCal (fun c =>
    { c with committed := set, pending := set, temps := temps, pendTemps := temps, commTemps := temps, setTag := leAt bs 0x14 4 })
  let s2 := (List.range 6).foldl (fun u p => u.setCfg (IAT_PORT_CFG_ASYM p) (leAt bs (0x6300 + 2 * p) 2)) s1
  ((s2.set CAL_ALM_STAT_SLOT slot).set CAL_ALM_SEQ (almSeq bs)).set CAL_STATUS_UNCAL 0

/-- A SEQ that a save could have written. -/
def seqLegal (n : Nat) : Bool := decide (1 ≤ n) && decide (n ≤ 0xFFFFFFFE)

/-- The Almanac loaded at boot (R395): the valid slot with the higher SEQ. -/
def State.almLoad (s : State) (b0 b1 : List Byte) : State :=
  match s.almValid b0, s.almValid b1 with
  | true, true => if almSeq b0 < almSeq b1 then s.almTake 1 b1 else s.almTake 0 b0
  | true, false =>
    let s1 := s.almTake 0 b0
    if almSeq b0 < almSeq b1 ∧ seqLegal (almSeq b1) then (s1.flag CAL_ALM_STAT_FALLBACK).raise 0xA007 noSource 0 else s1
  | false, true =>
    let s1 := s.almTake 1 b1
    if almSeq b1 < almSeq b0 ∧ seqLegal (almSeq b0) then (s1.flag CAL_ALM_STAT_FALLBACK).raise 0xA007 noSource 1 else s1
  | false, false =>
    let s1 := (s.setWork []).updCal (fun c =>
      { c with committed := [], pending := [], temps := [], pendTemps := [], commTemps := [], setTag := 0 })
    ((s1.flag CAL_ALM_STAT_NONE).flag CAL_STATUS_UNCAL).raise 0xA007 noSource 0xFF

/-! The commands. -/

/-- CAL_RUN (R380), written with a TAG, as are the five commands that follow. -/
def execCalRun (o : Origin) (tag : BitVec 16) (s : State) : Host.Outcome State Fault Refusal := .next (s.calCmd o (calWordOf 0 tag))

/-- CAL_CANCEL (R398). -/
def execCalCancel (o : Origin) (tag : BitVec 16) (s : State) : Host.Outcome State Fault Refusal := .next (s.calCmd o (calWordOf 1 tag))

/-- CAL_COMMIT (R388). -/
def execCalCommit (o : Origin) (tag : BitVec 16) (s : State) : Host.Outcome State Fault Refusal := .next (s.calCmd o (calWordOf 2 tag))

/-- CAL_COMMIT_EPOCH (R389). -/
def execCalCommitEpoch (o : Origin) (tag : BitVec 16) (s : State) : Host.Outcome State Fault Refusal :=
  .next (s.calCmd o (calWordOf 3 tag))

/-- CAL_DISARM (R389). -/
def execCalDisarm (o : Origin) (tag : BitVec 16) (s : State) : Host.Outcome State Fault Refusal := .next (s.calCmd o (calWordOf 4 tag))

/-- CAL_COPY (R390). -/
def execCalCopy (o : Origin) (tag : BitVec 16) (s : State) : Host.Outcome State Fault Refusal := .next (s.calCmd o (calWordOf 5 tag))

/-- CAL_STEP_START: the turn of the next step of octant k (R381). -/
def execCalStepStart (k : Fin 8) (s : State) : Host.Outcome State Fault Refusal := .next (s.calStepStart k)

/-- CAL_STEP_DONE: the step of octant k has measured (R385). -/
def execCalStepDone (k : Fin 8) (m : CalMeasure) (s : State) : Host.Outcome State Fault Refusal := .next (s.calStepDone k m)

/-- ALMANAC_SAVE: CAL_ALM_CMD.SAVE, with the present contents of the two slots (R394). -/
def execAlmanacSave (slot0 slot1 : List Byte) (s : State) : Host.Outcome State Fault Refusal := .next (s.almSave slot0 slot1)

/-- ALMANAC_SAVE_DONE: the slot written is read back (R394). -/
def execAlmanacSaveDone (back : Option (List Byte)) (s : State) : Host.Outcome State Fault Refusal := .next (s.almSaved back)

end Sys2Proof.Machine
end

