-- ==== Sys2Proof/Machine/Memory.lean ====
section
/-! DEFINITION. On-chip memory beyond its accesses (R408 to R418): bank power, the scrubber, wipes of the secure region, the background
test and repair, and MEM_CMD. -/
namespace Sys2Proof.Machine

/-! Bank power (R410 to R413). -/

/-- STATE of a bank (R424): 0 On, 1 Retain, 2 Off, 3 pending, waking or clearing. -/
def BankState.code (b : BankState) : Nat :=
  match b.wants, b.power with
  | some _, _ => 3
  | none, .on => 0
  | none, .retain => 1
  | none, .off => 2
  | none, .waking => 3
  | none, .clearing => 3

/-- A bank changed, with MEM_BANK_STATE and REQ_WAIT. -/
def State.setBank (s : State) (b : Nat) (v : BankState) : State :=
  let s1 := s.updMem (fun m => { m with banks := Sparse.set (fun _ => BankState.reset) m.banks b v })
  let s2 := s1.set (MEM_BANK_STATE_STATE_B (b / 16) (b % 16)) v.code
  s2.set MEM_STATUS_REQ_WAIT (ofBool ((List.range 64).any (fun k => (s2.bank k).wants.isSome)))

/-- A power request for a bank: 0 On, 1 Retain, 2 Off (R410). -/
def State.bankRequest (s : State) (b r : Nat) : State :=
  let v := s.bank b
  let want : BankPower := if r = 0 then .on else if r = 1 then .retain else .off
  match v.power with
  | .on => s.setBank b { v with wants := if r = 0 then none else some want }
  | .retain =>
    if r = 0 then s.setBank b { v with power := .waking, wants := none }
    else s.setBank b { v with wants := if r = 1 then none else some want }
  | .off => if r = 0 then s.setBank b { v with power := .clearing } else s
  | .waking => s.setBank b { v with held := some want }
  | .clearing => s.setBank b { v with held := some want }

/-- The code of a requested power state. -/
def BankPower.req : BankPower → Nat
  | .retain => 1
  | .off => 2
  | _ => 0

/-- The requests that a write to MEM_BANK_CTRLn makes (R410): one for each field that it does not leave unchanged. -/
def State.bankCtrlWrite (s : State) (o : Origin) (n : Nat) (v : Word) : State :=
  let s1 := s.regWrite o (MEM_BANK_CTRL_REQ_B n 0).addr v
  (List.range 16).foldl
    (fun u k => if fieldGet (2 * k) 2 v = 3 then u else u.bankRequest (16 * n + k) (u.get (MEM_BANK_CTRL_REQ_B n k))) s1

/-- The contents of a physical bank lost or cleared, with its marks. -/
def State.physErase (s : State) (j : Nat) : State :=
  { s with mem := Sparse.eraseRange (j * 0x100000) 0x100000 s.mem,
           memUe := s.memUe.filter (fun w => decide (w / 0x40000 ≠ j)),
           memCarried := s.memCarried.filter (fun w => decide (w / 0x40000 ≠ j)) }

/-- Every bank of the on-chip memory cleared. -/
def State.memGone (s : State) : State := { s with mem := [], memUe := [], memCarried := [] }

/-- Whether a running site has reached a bank by port A in its present burst (R411). -/
def State.portAHolds (s : State) (b : Nat) : Bool :=
  (List.range 16).any (fun i => s.inBurst i && (s.site i).burst.portA.contains b)

/-- A pending Retain or Off request takes effect once nothing holds it (R411). -/
def State.bankChange (s : State) (b : Nat) : State :=
  match (s.bank b).wants with
  | none => s
  | some w =>
    if s.dmaOnBank b || s.portAHolds b then s
    else
      let s1 := s.setBank b { s.bank b with power := w, wants := none }
      if w = .off then s1.physErase (s1.phys b) else s1

/-- A request held while a bank was waking or clearing acts (R410). -/
def State.bankHeld (s : State) (b : Nat) : State :=
  match (s.bank b).held with
  | none => s
  | some w => (s.setBank b { s.bank b with held := none }).bankRequest b w.req

/-- A bank that returns from Retain is On (R413). -/
def State.bankWoken (s : State) (b : Nat) : State :=
  if (s.bank b).power = .waking then (s.setBank b { s.bank b with power := .on }).bankHeld b else s

/-- A bank that returns from Off is clear and On (R413). -/
def State.bankCleared (s : State) (b : Nat) : State :=
  if (s.bank b).power = .clearing then
    (((s.physErase (s.phys b)).setBank b { s.bank b with power := .on }).raise 0xB004 noSource b).bankHeld b
  else s

/-! The secure region (R414, R415). -/

/-- A denied access to the secure region (R414). -/
def State.secureDenied (s : State) (x : Nat) : State := s.flagOnce MEM_STATUS_SECURE_DENY 0xB009 noSource (ocmBase + x)

/-- The physical banks that hold secure contents: those behind banks 60 to 63, and spares that hold a copy of one (R415). -/
def State.securePhys (s : State) : List Nat :=
  (List.range 4).map (fun k => s.phys (60 + k)) ++
    (s.memory.copies.filter (fun c => decide (60 ≤ c.bank))).map (fun c => c.spare)

/-- A wipe begins (R415). -/
def State.secureWipe (s : State) : State := (s.securePhys.foldl State.physErase s).flag MEM_STATUS_WIPING

/-- A wipe completes (R415). -/
def State.secureWiped (s : State) : State :=
  if s.bit MEM_STATUS_WIPING then ((s.securePhys.foldl State.physErase s).set MEM_STATUS_WIPING 0).raise 0xB007 noSource 0 else s

/-! Background test and repair (R416, R417). -/

/-- A physical bank retired (R416, R417). -/
def State.retire (s : State) (j : Nat) : State :=
  let f := MEM_RETIRED (j / 32)
  (((s.physErase j).set f (s.get f ||| 2 ^ (j % 32))).raise 0xB006 noSource j).spareCount

/-- The repairs that wait begin while there are spares, those of a bank under test apart (R417). -/
def State.repairsTry : Nat → State → State
  | 0, s => s
  | fuel + 1, s =>
    match s.spares, s.memory.repairs.find? (fun b =>
      !s.memory.copies.any (fun c => decide (c.bank = b)) && decide (s.memory.testing.map (fun t => t.1) ≠ some b)) with
    | j :: _, some b =>
      State.repairsTry fuel ((s.updMem (fun m => { m with repairs := m.repairs.erase b })).copyStart b j true)
    | _, _ => s

/-- MEM_CMD.REPAIR (R417): a bank under test waits for the end of the test. -/
def State.memRepair (s : State) (b : Nat) : State :=
  if s.repairNew b then s.repairStart b
  else if s.memory.repairs.contains b || s.memory.copies.any (fun c => decide (c.bank = b) && c.repair) then s
  else s.updMem (fun m => { m with repairs := m.repairs ++ [b] })

/-- Whether the background test has a bank in copy or test. -/
def State.bistBusy (s : State) : Bool := s.memory.testing.isSome || s.memory.copies.any (fun c => !c.repair)

/-- The banks that the test may take: On, and neither waiting for nor under repair. -/
def State.bistBanks (s : State) : List Nat := (List.range 64).filter (fun b => decide ((s.bank b).power = .on) && s.repairNew b)

/-- The next bank of the background test borrows a spare, after INTERVAL (R416). -/
def State.bistStart (s0 : State) : State :=
  if !s0.bit MEM_BIST_CFG_EN || s0.bistBusy then s0
  else
    let s := s0.at_ s0.memory.bistAt
    let l := s.bistBanks
    match (l.filter (fun b => decide (s.memory.bistNext ≤ b)) ++ l).head? with
    | none => s
    | some b =>
      let s1 := (s.set MEM_BIST_STAT_BANK b).set MEM_BIST_STAT_PHYS (s.phys b)
      match s1.spares with
      | j :: _ => (s1.copyStart b j false).set MEM_BIST_STAT_STATE 1
      | [] => (s1.spareWait b).set MEM_BIST_STAT_STATE 3

/-- The contents and marks of a physical bank copied to another; the marks are carried over (R416). -/
def State.physCopy (s : State) (src dst : Nat) : State :=
  let ue := (s.memUe.filter (fun w => decide (w / 0x40000 = src))).map (fun w => w % 0x40000 + dst * 0x40000)
  let s1 := s.physErase dst
  { s1 with mem := Sparse.copyRange (src * 0x100000) (dst * 0x100000) 0x100000 s1.mem,
            memUe := s1.memUe ++ ue, memCarried := s1.memCarried ++ ue }

/-- The copy of a bank completes: the map is swapped to the spare, and the released bank is tested or, after a repair, retired (R416,
R417). -/
def State.copyDone (s : State) (b : Nat) : State :=
  match s.memory.copies.find? (fun c => decide (c.bank = b)) with
  | none => s
  | some c =>
    let old := s.phys b
    let s1 := ((s.physCopy old c.spare).updMem (fun m => { m with copies := m.copies.erase c })).set (MEM_MAP_PHYS b) c.spare
    let s2 := s1.raise 0xB005 noSource (b + 2 ^ 8 * c.spare)
    if c.repair then State.repairsTry 64 (s2.retire old)
    else
      (((s2.updMem (fun m => { m with testing := some (b, old) })).set MEM_BIST_STAT_STATE 2).set MEM_BIST_STAT_PHYS old).spareCount

/-- The march test of the released bank ends (R416). -/
def State.marchDone (s : State) (pass : Bool) : State :=
  match s.memory.testing with
  | none => s
  | some (b, j) =>
    let last := !(s.bistBanks.any (fun k => decide (b < k)))
    let s1 := (s.physErase j).updMem (fun m =>
      { m with testing := none, bistNext := if last then 0 else b + 1, bistAt := s.now + s.get MEM_BIST_CFG_INTERVAL * ms })
    let s2 := if pass then s1.spareCount else s1.retire j
    let s3 := if last then s2.count MEM_BIST_STAT_PASSES 1 else s2
    State.repairsTry 64 (s3.set MEM_BIST_STAT_STATE 0)

/-- A test or repair has waited 1 s for a spare (R417): reported once until NO_SPARE is cleared; the repair is given up. -/
def State.spareExhausted (s0 : State) : State :=
  match s0.memory.wait with
  | none => s0
  | some (t, b) =>
    let s := s0.at_ (t + 1000 * ms)
    let s1 := s.updMem (fun m => { m with wait := none, waitEvt := true, repairs := m.repairs.erase b })
    s1.raiseIf (!(s.bit MEM_STATUS_NO_SPARE && s.memory.waitEvt)) 0xB008 noSource b

/-- MEM_CMD.CLR_COUNTS (R423). -/
def State.memClrCounts (s : State) : State := ((s.set MEM_CE_COUNT 0).set MEM_UE_COUNT 0).set MEM_COLL_COUNT 0

/-- A write to MEM_CMD: REPAIR, then CLR_COUNTS (R423). -/
def State.memCmd (s : State) (v : Word) : State :=
  let s1 := if fieldGet 8 1 v ≠ 0 then s.memRepair (fieldGet 0 6 v) else s
  if fieldGet 9 1 v ≠ 0 then s1.memClrCounts else s1

/-- The boot march test ends (R418): failing banks are retired, and each logical bank takes the lowest good physical bank not taken. -/
def State.bootMarch (s : State) (bad : List Nat) : State :=
  let good := (List.range 68).filter (fun j => !bad.contains j)
  let s1 := s.memGone
  let s2 := (bad.eraseDups.filter (fun j => decide (j < 68))).foldl
    (fun u j => u.set (MEM_RETIRED (j / 32)) (u.get (MEM_RETIRED (j / 32)) ||| 2 ^ (j % 32))) s1
  ((List.range 64).foldl (fun u b => u.set (MEM_MAP_PHYS b) (good.getD b b)) s2).spareCount

/-! The scrubber (R408). -/

/-- The logical bank behind which a physical bank stands. -/
def State.logical (s : State) (j : Nat) : Option Nat := (List.range 64).find? (fun b => decide (s.phys b = j))

/-- Whether the scrubber reads a physical bank: behind a bank that is On, or a spare. -/
def State.scrubbed (s : State) (j : Nat) : Bool :=
  match s.logical j with
  | some b => decide ((s.bank b).power = .on)
  | none => s.spares.contains j

/-- The physical word that the scrubber reads: the next one, over the banks that it does not read. -/
def State.scrubWord (s : State) : Nat → Nat → Option Nat
  | 0, _ => none
  | fuel + 1, w =>
    let w1 := w % (68 * 0x40000)
    if s.scrubbed (w1 / 0x40000) then some w1 else s.scrubWord fuel ((w1 / 0x40000 + 1) * 0x40000)

/-- An error in a spare, which has no address: its address bits are a free value. -/
def State.spareError (s : State) (e : Ecc) : State :=
  let a := (Config.freeWord s.fresh).toNat
  match e with
  | .ok => s
  | .single => (s.tickFresh.count MEM_CE_COUNT 1).flagOnce MEM_STATUS_CE 0xB001 noSource a
  | .double =>
    let s1 := s.tickFresh.count MEM_UE_COUNT 1
    (if s1.bit MEM_STATUS_UE then s1 else (s1.set MEM_UE_ADDR a).flag MEM_STATUS_UE).raise 0xB002 noSource a

/-- The scrubber reads and corrects its next word (R407, R408). -/
def State.scrubRead (s : State) (e : Ecc) : State :=
  if !s.bit MEM_CFG_SCRUB_EN then s
  else
    match s.scrubWord 69 s.memory.scrubAt with
    | none => s
    | some w =>
      let s1 := s.updMem (fun m => { m with scrubAt := (w + 1) % (68 * 0x40000) })
      match s1.logical (w / 0x40000) with
      | none => s1.spareError e
      | some b =>
        let x := b * 0x100000 + w % 0x40000 * 4
        let s2 := s1.ocmUpset e x
        if s2.memUe.contains w then s2.ocmUe x else s2

/-! The commands. -/

/-- SCRUB_READ: the scrubber reads its next word; `e` is what it finds there (R408). -/
def execScrubRead (e : Ecc) (s : State) : Host.Outcome State Fault Refusal := .next (s.scrubRead e)

/-- BANK_POWER_REQUEST: a write to MEM_BANK_CTRLn (R410). -/
def execBankPowerRequest (o : Origin) (n : Fin 4) (v : Word) (s : State) : Host.Outcome State Fault Refusal :=
  .next (s.bankCtrlWrite o n v)

/-- BANK_POWER_CHANGE: the pending request of bank b is tried (R411). -/
def execBankPowerChange (b : Fin 64) (s : State) : Host.Outcome State Fault Refusal := .next (s.bankChange b)

/-- SECURE_WIPED: the wipe of the secure region completes (R415). -/
def execSecureWiped (s : State) : Host.Outcome State Fault Refusal := .next s.secureWiped

/-- BIST_BANK_START: the next bank of the background test (R416). -/
def execBistBankStart (s : State) : Host.Outcome State Fault Refusal := .next s.bistStart

/-- BIST_COPY_DONE: the copy of bank b, for a test or a repair, completes (R416). -/
def execBistCopyDone (b : Fin 64) (s : State) : Host.Outcome State Fault Refusal := .next (s.copyDone b)

/-- BIST_MARCH_DONE: the march test of the released bank ends (R416). -/
def execBistMarchDone (pass : Bool) (s : State) : Host.Outcome State Fault Refusal := .next (s.marchDone pass)

/-- MEM_REPAIR: MEM_CMD.REPAIR of a bank (R417). -/
def execMemRepair (b : Fin 64) (s : State) : Host.Outcome State Fault Refusal := .next (s.memCmd (word (b.val + 2 ^ 8)))

/-- SPARE_EXHAUSTED: a wait for a spare has lasted 1 s (R417). -/
def execSpareExhausted (s : State) : Host.Outcome State Fault Refusal := .next s.spareExhausted

/-- MEM_CLR_COUNTS: MEM_CMD.CLR_COUNTS (R423). -/
def execMemClrCounts (s : State) : Host.Outcome State Fault Refusal := .next (s.memCmd (word (2 ^ 9)))

end Sys2Proof.Machine
end

