-- ==== Sys2Proof/Machine/Events.lean ====
section
/-! DEFINITION. The host port (R473, R474, R490), the event queue (R482 to R484), MSI-X (R485) and the mailbox (R487). -/
namespace Sys2Proof.Machine

/-! MSI-X (R485). -/

/-- Whether vector v is armed. -/
def State.armed (s : State) (v : Nat) : Bool := bitOf (s.get (EVT_ARM (v / 32))) (v % 32)

/-- Vector v armed or disarmed. -/
def State.setArmed (s : State) (v : Nat) (on : Bool) : State :=
  let f := EVT_ARM (v / 32)
  let rest := s.get f &&& ((2 ^ 32 - 1) ^^^ 2 ^ (v % 32))
  s.set f (if on then rest + 2 ^ (v % 32) else rest)

/-- The pending bit of vector v given a value. -/
def State.setPba (s : State) (v : Nat) (on : Bool) : State :=
  let f := SYS_MSIX_PBA_PENDING (v / 32)
  let rest := s.get f &&& ((2 ^ 32 - 1) ^^^ 2 ^ (v % 32))
  s.set f (if on then rest + 2 ^ (v % 32) else rest)

/-- Whether the standard's mask rules let vector v send. -/
def State.msixOpen (s : State) (v : Nat) : Bool :=
  s.host.msixEn && !s.host.msixMask && !s.bit (SYS_MSIX_CTRL_MASK v) && s.bit SYS_HOST_STATUS_LINK_UP

/-- The message of vector v sent, or its pending bit set. -/
def State.msixSend (s : State) (v : Nat) : State := if s.msixOpen v then s.emit (.msix v) else s.setPba v true

/-- Pending messages sent that are no longer masked. -/
def State.msixFlush (s : State) : State :=
  (List.range 64).foldl
    (fun u v => if bitOf (u.get (SYS_MSIX_PBA_PENDING (v / 32))) (v % 32) && u.msixOpen v then (u.setPba v false).emit (.msix v) else u)
    s

/-- A record or a post acts on vector v: an armed vector is disarmed and sends, a disarmed one is owed. -/
def State.vectorAct (s : State) (v : Nat) : State :=
  if s.armed v then (s.setArmed v false).msixSend v
  else s.updHost (fun h => { h with owed := if h.owed.contains v then h.owed else h.owed ++ [v] })

/-- Vector v re-armed: an owed message goes out at once. -/
def State.vectorRearm (s : State) (v : Nat) : State :=
  if s.host.owed.contains v then
    ((s.updHost (fun h => { h with owed := h.owed.filter (fun k => decide (k ≠ v)) })).setArmed v false).msixSend v
  else s.setArmed v true

/-- A write to EVT_ARMn. -/
def State.armWrite (s : State) (n : Nat) (v : Word) : State :=
  (List.range 32).foldl (fun u j => if bitOf v.toNat j then u.vectorRearm (32 * n + j) else u) s

/-- A write to the MSI-X table: an unmasked vector with a pending message sends it. -/
def State.msixWrite (s : State) (o : Origin) (a : Nat) (v : Word) : State := (s.regWrite o a v).msixFlush

/-! The queue (R483). -/

/-- The base of the event ring: bits [3:0] are ignored. -/
def State.evtBase (s : State) : Nat := s.get EVT_Q_BASE / 16 * 16

/-- The records of the ring: values above 65,536 act as 65,536. -/
def State.evtSize (s : State) : Nat := min 65536 (s.get EVT_Q_SIZE)

/-- EVT_STATUS.NONEMPTY follows HEAD and TAIL. -/
def State.evtNonempty (s : State) : State := s.set EVT_STATUS_NONEMPTY (ofBool (decide (s.get EVT_Q_HEAD ≠ s.get EVT_Q_TAIL)))

/-- The bytes of an event record (R482). -/
def EventRec.bytes (e : EventRec) : List Byte := leBytes 2 e.code ++ leBytes 2 e.source ++ leBytes 4 e.data ++ leBytes 8 e.tick

/-- A record stored in the ring, dropped, or not stored for want of a ring (R483). -/
def State.evtStore (s : State) (e : EventRec) : State :=
  let n := s.evtSize
  if !s.bit EVT_CFG_EN || !s.host.evtOk || decide (n = 0) then s
  else
    let head := s.get EVT_Q_HEAD
    let tail := s.get EVT_Q_TAIL
    let full := decide ((head + 1) % n = tail)
    if full && !s.bit EVT_CFG_MODE then (s.count EVT_DROPPED_COUNT 1).flag EVT_STATUS_OVERFLOW
    else
      let s1 := s.putRegion (s.region (s.evtBase + 16 * head)) e.bytes
      let s2 := s1.set EVT_Q_HEAD ((head + 1) % n)
      (if full then (s2.set EVT_Q_TAIL ((tail + 1) % n)).flag EVT_STATUS_WRAPPED else s2).evtNonempty

/-- The MSI-X routing of a record (R485). -/
def State.evtRoute (s : State) (e : EventRec) : State :=
  let c := e.code / 2 ^ 12 % 16
  if c = 0 ∨ !s.bit (EVT_ROUTE_EN c) then s
  else s.vectorAct (if s.bit (EVT_ROUTE_SPLIT c) then (s.get (EVT_ROUTE_VEC c) + e.source % 16) % 64 else s.get (EVT_ROUTE_VEC c))

/-- The oldest record that has been raised enters the queue (R483): it is counted and stored, matched against the handler tables, and
routed. -/
def State.eventEnter (s : State) : State :=
  match s.events with
  | [] => s
  | e :: rest =>
    let s1 := { s with events := rest }
    let s2 := s1.set EVT_SEQ ((s1.get EVT_SEQ + 1) % 2 ^ 32)
    ((s2.evtStore e).handlersMatch e).evtRoute e

/-- A write to EVT_CFG (R483, R492): a change of EN to 1 empties the queue and checks its ring. -/
def State.evtCfgWrite (s : State) (o : Origin) (v : Word) : State :=
  let was := s.bit EVT_CFG_EN
  let s1 := s.regWrite o EVT_CFG_EN.addr v
  if was || !s1.bit EVT_CFG_EN then s1
  else
    let ok := decide (s1.evtSize = 0) || inOcm s1.evtBase (16 * s1.evtSize)
    let s2 := (((s1.set EVT_Q_HEAD 0).set EVT_Q_TAIL 0).flagIf (!ok) EVT_STATUS_BAD_RING).updHost (fun h => { h with evtOk := ok })
    s2.evtNonempty

/-- A write to EVT_Q_BASE or EVT_Q_SIZE (R492): discarded while EN is 1. -/
def State.evtRingWrite (s : State) (o : Origin) (a : Nat) (v : Word) : State := if s.bit EVT_CFG_EN then s else s.regWrite o a v

/-- A write to EVT_Q_TAIL (R483): a value at or above SIZE is discarded; with SIZE 0 only 0 is taken. -/
def State.evtTailWrite (s : State) (v : Word) : State :=
  let t := fieldGet 0 16 v
  if t < s.evtSize ∨ (s.evtSize = 0 ∧ t = 0) then (s.set EVT_Q_TAIL t).evtNonempty else s

/-- The classes of the records in the ring, from TAIL to HEAD. -/
def State.evtClasses (s : State) : List Nat :=
  let n := s.evtSize
  let k := (s.get EVT_Q_HEAD + n - s.get EVT_Q_TAIL) % n
  (List.range k).map (fun j =>
    leNat (s.getRegion (s.region (s.evtBase + 16 * ((s.get EVT_Q_TAIL + j) % n))) 2) / 2 ^ 12 % 16)

/-- Whether EVENT_N is low (R484). -/
def State.eventLow (s : State) : Bool :=
  s.bit EVT_CFG_PIN_EN && s.host.evtOk && s.evtClasses.any (fun c => decide (c ≠ 0) && bitOf (s.get EVT_PIN_MASK_CLASS) (c - 1))

/-! The mailbox (R487). -/

/-- A write to EVT_MBOX_CMD. -/
def State.mboxCmd (s : State) (v : Word) : State :=
  let s1 := if fieldGet 0 1 v = 0 then s
    else (s.flagIf (s.bit EVT_MBOX_STAT_H2D_PENDING) EVT_MBOX_STAT_H2D_OVERRUN).flag EVT_MBOX_STAT_H2D_PENDING
  if fieldGet 1 1 v = 0 then s1
  else
    let s2 := (s1.flagIf (s1.bit EVT_MBOX_STAT_D2H_PENDING) EVT_MBOX_STAT_D2H_OVERRUN).flag EVT_MBOX_STAT_D2H_PENDING
    if s2.bit EVT_MBOX_VEC_EN then s2.vectorAct (s2.get EVT_MBOX_VEC) else s2

/-! The host port (R473, R474, R490). -/

/-- Whether a range reaches host memory. -/
def reachesHost (a n : Nat) : Bool := decide (2 ^ 63 < a + n)

/-- Descriptors in progress with a host range end with HOST_ERR (R474). -/
def State.dmaHostErr (s : State) : State :=
  let f (d : DmaDesc) : DmaDesc :=
    if d.status.isNone && d.ranges.any (fun r => reachesHost r.1 r.2) then { d with status := some 6 } else d
  (s.updDma (fun z => { z with chans := s.dma.chans.map (fun c => (c.1, { c.2 with cur := c.2.cur.map f })) }))

/-- The MSI-X table and the pending bits at their reset values. -/
def State.msixReset (s : State) : State :=
  (s.eraseRegs 0x8000 0x400).eraseRegs 0x9000 8

/-- A reset of the host port alone (R474). -/
def State.hostReset (s : State) (r : HostReset) : State :=
  let s1 := ((s.set SYS_HOST_STATUS_LINK_UP 0).set SYS_HOST_STATUS_SPEED 0).set SYS_HOST_STATUS_WIDTH 0
  let s2 := (s1.msixReset.updHost (fun h => { h with msixEn := false, msixMask := false, d3hot := false })).dmaHostErr
  s2.flagIf (decide (r = .flr)) SYS_HOST_STATUS_FLR

/-- The link comes up (R473, R490): only once the host record has been read, and while the HOST domain is On. -/
def State.pcieUp (s : State) (speed width : Nat) : State :=
  if s.host.ids.isSome ∧ s.get PWR_DOM_STATE_HOST = 0 then
    ((s.set SYS_HOST_STATUS_SPEED speed).set SYS_HOST_STATUS_WIDTH width).flag SYS_HOST_STATUS_LINK_UP
  else s

/-- Completion statuses: Successful Completion, Unsupported Request, Configuration Request Retry Status, Completer Abort. -/
def cplSc : Nat := 0
/-- Unsupported Request. -/
def cplUr : Nat := 1
/-- Configuration Request Retry Status. -/
def cplCrs : Nat := 2
/-- Completer Abort. -/
def cplCa : Nat := 4

/-- A word of configuration space (R473): identity where the spec gives it, else a free value. -/
def State.configWord (s : State) (off : Nat) : State × Word :=
  let ids := s.host.ids.getD (0, 0, 0)
  if off = 0 then (s, word (ids.1 + 2 ^ 16 * 0x5128))
  else if off = 8 then (s, word (0xB1 + 2 ^ 8 * 0x118000))
  else if off = 0x2C then (s, word (ids.2.1 + 2 ^ 16 * ids.2.2))
  else (s.tickFresh, Config.freeWord s.fresh)

/-- A half of the Device Serial Number: the low 64 bits of the device serial (R473, R522). -/
def State.serialWord (s : State) (high : Bool) : Word := word (beNat (s.nv.serial.drop 8) / (if high then 2 ^ 32 else 1))

/-- A configuration request (R473): retry status before READY or FAULT. -/
def State.configRequest (s : State) (q : CfgReq) : State :=
  if s.get PWR_STATUS_DEV_STATE = 1 then s.emit (.completion cplCrs)
  else
    match q with
    | .read off =>
      let r := s.configWord off
      (r.1.emit (.config off r.2)).emit (.completion cplSc)
    | .serial h => (s.emit (.config (4 * ofBool h) (s.serialWord h))).emit (.completion cplSc)
    | .msix e m => ((s.updHost (fun h => { h with msixEn := e, msixMask := m })).msixFlush).emit (.completion cplSc)
    | .d3hot d => (s.updHost (fun h => { h with d3hot := d })).emit (.completion cplSc)
    | .write _ _ => s.emit (.completion cplSc)

/-! The commands. -/

/-- EVENT_ENTER: the oldest record raised enters the queue (R483). -/
def execEventEnter (s : State) : Host.Outcome State Fault Refusal := .next s.eventEnter

/-- EVT_ENABLE: a write to EVT_CFG (R483). -/
def execEvtEnable (o : Origin) (v : Word) (s : State) : Host.Outcome State Fault Refusal := .next (s.evtCfgWrite o v)

/-- EVT_TAIL_WRITE: a write to EVT_Q_TAIL (R483). -/
def execEvtTailWrite (v : Word) (s : State) : Host.Outcome State Fault Refusal := .next (s.evtTailWrite v)

/-- VECTOR_ARM: a write to EVT_ARMn (R485). -/
def execVectorArm (n : Fin 2) (v : Word) (s : State) : Host.Outcome State Fault Refusal := .next (s.armWrite n v)

/-- H2D_POST (R487). -/
def execH2dPost (s : State) : Host.Outcome State Fault Refusal := .next (s.mboxCmd 1)

/-- D2H_POST (R487). -/
def execD2hPost (s : State) : Host.Outcome State Fault Refusal := .next (s.mboxCmd 2)

/-- HOST_PORT_RESET (R474). -/
def execHostPortReset (r : HostReset) (s : State) : Host.Outcome State Fault Refusal := .next (s.hostReset r)

/-- PCIE_LINK_UP: the link has trained, at a speed code 1 to 5 and 2^w lanes (R490). -/
def execPcieLinkUp (speed : Fin 5) (w : Fin 4) (s : State) : Host.Outcome State Fault Refusal :=
  .next (s.pcieUp (speed.val + 1) (2 ^ w.val))

/-- CONFIG_REQUEST (R473). -/
def execConfigRequest (q : CfgReq) (s : State) : Host.Outcome State Fault Refusal := .next (s.configRequest q)

end Sys2Proof.Machine
end

