-- ==== Sys2Proof/Machine/Protect.lean ====
section
/-! DEFINITION. Which origins a protected resource accepts, by life-cycle state (R414, R531). -/
namespace Sys2Proof.Machine

/-- Whether an origin is one of those listed; a flow counts as FLOW. -/
def Origin.among (o : Origin) (codes : List Nat) : Bool := codes.contains o.code

/-- Port B of the secure region (R531). -/
def State.secureAllowed (s : State) (o : Origin) : Bool :=
  match s.nv.lc with
  | .blank => o.among [4, 3, 7]
  | .provisioned => o.among [4]
  | .owned => o.among [4]
  | .decommissioned => false

/-- Reads of the SEC block (R531). -/
def secReadAllowed (o : Origin) : Bool := decide (o ≠ .peer)

/-- Writes of SEC_CMD, SEC_TOKEN_BASE and SEC_CFG, and with them of SEC_STATUS (R531). -/
def State.secWriteAllowed (s : State) (o : Origin) : Bool :=
  match s.nv.lc with
  | .blank => o.among [3, 4, 7, 1, 2]
  | .provisioned => o.among [3, 4, 1, 2]
  | .owned => o.among [3, 4, 1, 2]
  | .decommissioned => o.among [3, 4, 7, 1, 2]

/-- Reads of the AUD block (R531). -/
def State.audReadAllowed (s : State) (o : Origin) : Bool :=
  match s.nv.lc with
  | .blank => o.among [3, 4, 7]
  | .provisioned => o.among [3, 4]
  | .owned => o.among [3, 4] || (o.among [7] && s.sec.debugOpen)
  | .decommissioned => o.among [3, 4, 7]

/-- Writes of the AUD block (R531). -/
def State.audWriteAllowed (s : State) (o : Origin) : Bool :=
  match s.nv.lc with
  | .blank => o.among [3, 4, 1, 2, 7]
  | .provisioned => o.among [3, 4, 1, 2]
  | .owned => o.among [3, 4, 1, 2]
  | .decommissioned => o.among [3, 4, 1, 2, 7]

/-- Whether a register access of the SEC or AUD block is denied (R531); other blocks are not protected. -/
def State.regDenied (s : State) (o : Origin) (a : Nat) (write : Bool) : Bool :=
  if 0x20000 ≤ a ∧ a < 0x30000 then !(if write then s.secWriteAllowed o else secReadAllowed o)
  else if 0x30000 ≤ a ∧ a < 0x40000 then !(if write then s.audWriteAllowed o else s.audReadAllowed o)
  else false

/-- A denied register access (R531). -/
def State.regDeny (s : State) (o : Origin) : State := s.flagOnce SEC_STATUS_DENY 0xF007 noSource o.code

/-- Whether port B denies an access of the secure region (R414, R415): by origin, or during a wipe. -/
def State.secureDenies (s : State) (o : Origin) : Bool := !s.secureAllowed o || s.bit MEM_STATUS_WIPING

end Sys2Proof.Machine
end

