-- ==== Sys2Proof/Machine/Security.lean ====
section
/-! DEFINITION. Identity, life cycle and the audit log (R521 to R545): keys, tokens, tamper, checkpoints and the audit ring. -/
namespace Sys2Proof.Machine

/-- The code of a life-cycle state (R542). -/
def LifeCycle.code : LifeCycle → Nat
  | .blank => 0
  | .provisioned => 1
  | .owned => 2
  | .decommissioned => 3

/-- Whether debug is available (R532). -/
def State.debugOk (s : State) : Bool := decide (s.nv.lc ≠ .owned) || s.sec.debugOpen

/-- The identity public key. -/
def State.identityKey (s : State) : Option (Nat × Nat) := s.nv.identity.map Config.identityKey

/-! Registers that read the key store (R542 to R544). -/

/-- Bytes 4k to 4k + 3 of a value. -/
def wordOf (bs : List Byte) (k : Nat) : Word := word (leNat ((bs.drop (4 * k)).take 4))

/-- The hash of a key in force; zeros without one. -/
def keyHash (q : Option (Nat × Nat)) : List Byte :=
  match q with
  | none => List.replicate 48 0
  | some p => sha384 (spkiDer p)

/-- The owner key where it reads: in OWNED (R524). -/
def State.ownerNow (s : State) : Option (Nat × Nat) := if s.nv.lc = .owned then s.nv.ownerKey else none

/-- What a SEC register that shows the key store or the security state reads, by its offset in the block; none for another register. -/
def State.secWord (s : State) (off : Nat) : Option Word :=
  if off = 0 then some (word (s.nv.lc.code + 4 * ofBool s.nv.identity.isSome + 8 * ofBool s.debugOk))
  else if off = 0x20 then some (word s.nv.tamperCount)
  else if off = 0x24 then some (word s.nv.bootCount)
  else if 0x30 ≤ off ∧ off < 0x40 then some (wordOf s.nv.serial ((off - 0x30) / 4))
  else if 0x40 ≤ off ∧ off < 0x70 then some (wordOf (keyHash s.ownerNow) ((off - 0x40) / 4))
  else if 0x70 ≤ off ∧ off < 0xA0 then some (wordOf (keyHash (some Config.vendorKey)) ((off - 0x70) / 4))
  else if 0x100 ≤ off ∧ off < 0x164 then
    some (match s.identityKey with
      | none => 0
      | some q => wordOf (sec1Bytes q) ((off - 0x100) / 4))
  else if off = 0x200 then some (word s.nv.cert.length)
  else if 0x1000 ≤ off ∧ off < 0x1800 then some (wordOf s.nv.cert ((off - 0x1000) / 4))
  else none

/-! Keys and nonces (R521, R527). -/

/-- SEC_CMD.KEYGEN (R521): in BLANK without a key; elsewhere ignored with BAD_KIND. -/
def State.secKeygen (s : State) : State :=
  if s.nv.lc ≠ .blank ∨ s.nv.identity.isSome then s.set SEC_STATUS_RESULT 2
  else if s.get SEC_STATUS_STATE ≠ 0 then s
  else (s.set SEC_STATUS_STATE 3).updSec (fun c => { c with keygen := true })

/-- Key creation completes (R521). -/
def State.keygenDone (s : State) : State :=
  if s.sec.keygen then
    let s1 := s.updNv (fun k => { k with identity := some k.keysMade, keysMade := k.keysMade + 1 })
    ((s1.updSec (fun c => { c with keygen := false })).set SEC_STATUS_STATE 0).set SEC_STATUS_RESULT 0
  else s

/-- SEC_CMD.NONCE (R527): a fresh random value, which is a free value of the model. -/
def State.secNonce (s : State) : State :=
  ((s.tickFresh.set64 SEC_NONCE_LO_NONCE SEC_NONCE_HI_NONCE (Config.nonce s.fresh).toNat)).updSec (fun c => { c with nonceUsed := false })

/-! Tokens (R525 to R528). -/

/-- The base of the token; bits [7:0] are ignored. -/
def State.tokenBase (s : State) : Nat := s.get SEC_TOKEN_BASE / 256 * 256

/-- The bytes of a token at an on-chip address, for a header that claims PAYLEN; only the header where the claim does not fit. -/
def State.tokenBytes (s : State) (base : Nat) : List Byte :=
  let head := s.getRegion (s.region base) 0x100
  let n := leAt head 0x20 4
  if n ≤ 2048 ∧ inOcm base (0x100 + n) then head ++ s.getRegion (s.region (base + 0x100)) n else head

/-- SEC_CMD.SUBMIT (R527): the token is read once and the nonce consumed. -/
def State.tokenSubmit (s : State) (o : Origin) : State :=
  if s.get SEC_STATUS_STATE ≠ 0 then s.set SEC_STATUS_RESULT 7
  else
    let base := s.tokenBase
    let nonce := if s.sec.nonceUsed then 2 ^ 64 else s.get64 SEC_NONCE_LO_NONCE SEC_NONCE_HI_NONCE
    let bs := if inOcm base 0x100 then s.tokenBytes base else []
    let s1 := if inOcm base 0x100 then s.checkRegion (s.region base) bs.length else s
    let s2 := (s1.set64 SEC_NONCE_LO_NONCE SEC_NONCE_HI_NONCE 0).set SEC_STATUS_STATE 1
    s2.updSec (fun c => { c with nonceUsed := true, checking := some ⟨nonce, base, bs, o⟩ })

/-- Whether a token kind is allowed from the present state (R526). -/
def State.tokenAllowed (s : State) (kind : Nat) : Bool :=
  match kind, s.nv.lc with
  | 1, .blank => s.nv.identity.isSome
  | 2, .provisioned => true
  | 3, .owned => true
  | 4, .blank => true
  | 4, .provisioned => true
  | 4, .owned => true
  | 5, .owned => true
  | _, _ => false

/-- The key that signs a token (R526): the owner key in OWNED, else the vendor key. -/
def State.tokenKey (s : State) : Option (Nat × Nat) := if s.nv.lc = .owned then s.nv.ownerKey else some Config.vendorKey

/-- The device serial of a certificate: 16 bytes, big-endian (R522). -/
def certSerial (n : Nat) : List Byte := beBytes 16 n

/-- The RESULT of the token checks, in order (R527): 0 accepted. `nonce` is what NONCE must equal. -/
def State.tokenResult (s : State) (nonce : Nat) (bs : List Byte) : Nat :=
  let paylen := leAt bs 0x20 4
  let kind := leAt bs 4 4 % 256
  let pay := (bs.drop 0x100).take paylen
  let cert := Config.parseCert pay
  if bs.length < 0x100 ∨ leAt bs 0 4 ≠ 0x544C4E4F ∨ 2048 < paylen ∨ bs.length < 0x100 + paylen then 1
  else if !s.tokenAllowed kind then 2
  else if leAt bs 8 8 ≠ nonce then 3
  else if (bs.drop 0x10).take 16 ≠ (if kind = 1 then (match cert with | none => (bs.drop 0x10).take 16 | some c => certSerial c.1) else s.nv.serial)
    then 4
  else if (bs.drop 0x58).take 48 ≠ sha384 pay ∨ (kind = 1 ∧ (cert.map (fun c => c.2) ≠ s.identityKey ∨ cert = none)) then 5
  else
    match s.tokenKey with
    | none => 6
    | some q =>
      if (bs.drop 0x28).take 48 = sha384 (spkiDer q) ∧
          ecdsaVerify q (bs.take 0x88) (beNat ((bs.drop 0x88).take 48)) (beNat ((bs.drop 0xB8).take 48)) = true then 0
      else 6

/-- The token check completes (R527, R528): refused; a DEBUG_UNLOCK at once; any other token waits for the sites. Whether one that was changed
meanwhile is accepted is a free value (R563). -/
def State.tokenDone (s : State) : State :=
  match s.sec.checking with
  | none => s
  | some ⟨nonce, base, bs, o⟩ =>
    let changed := decide (s.getRegion (s.region base) bs.length ≠ bs)
    let r := if changed && Config.freeBit s.fresh then 1 + (Config.freeWord s.fresh).toNat % 6 else s.tokenResult nonce bs
    let s1 := (s.tickFresh.updSec (fun c => { c with checking := none })).set SEC_STATUS_RESULT r
    if r ≠ 0 then (s1.set SEC_STATUS_STATE 0).raise 0xF002 noSource r
    else
      let kind := leAt bs 4 4 % 256
      if kind = 5 then
        (((s1.set SEC_STATUS_STATE 0).updSec (fun c => { c with debugOpen := true })).audit 9 o 0 0 0 0).raise 0xF006 noSource 0
      else
        (s1.set SEC_STATUS_STATE 2).updSec (fun c =>
          { c with waiting := some ⟨kind, (bs.drop 0x100).take (leAt bs 0x20 4), o⟩ })

/-- Whether every site is IDLE, but for arms that are held (R528, R547). -/
def State.allQuiet (s : State) : Bool :=
  (List.range 16).all (fun i => s.idle i || (decide (s.siteSt i = stArming) && (s.site i).burst.held))

/-- The held arms released (R528, R547), unless something else still holds them. -/
def State.releaseArms (s : State) : State :=
  (List.range 16).foldl
    (fun u i => if (u.site i).burst.held && !u.armHold i then u.updBurst i (fun b => { b with held := false }) else u) s

/-- The key store after an accepted token (R526, R528). -/
def KeyStore.commit (k : KeyStore) (kind : Nat) (pay : List Byte) : KeyStore :=
  match kind with
  | 1 => { k with lc := .provisioned, cert := pay,
                  serial := (match Config.parseCert pay with | none => k.serial | some c => certSerial c.1) }
  | 2 => { k with lc := .owned, ownerKey := some (sec1Point pay) }
  | 3 => { k with lc := .provisioned, ownerKey := none }
  | _ => { k with lc := .decommissioned, ownerKey := none, identity := none, cert := [], serial := List.replicate 16 0 }

/-- An accepted token takes effect once the sites are quiet (R528): wipe, commit, LIFECYCLE record and checkpoint, event, release. -/
def State.lifecycleCommit (s : State) : State :=
  match s.sec.waiting with
  | none => s
  | some w =>
    if !s.allQuiet then s
    else
      let old := s.nv.lc.code
      let s1 := (s.secureWipe.secureWiped).updNv (fun k => k.commit w.kind w.payload)
      let s2 := (s1.audit 3 w.origin 0 old s1.nv.lc.code w.kind).checkpoint Origin.hw.code
      let s3 := (s2.updSec (fun c => { c with waiting := none })).set SEC_STATUS_STATE 0
      (s3.raise 0xF001 noSource s3.nv.lc.code).releaseArms

/-- A write to SEC_CMD (R542): NONCE, then SUBMIT, then KEYGEN. -/
def State.secCmd (s : State) (o : Origin) (v : Word) : State :=
  let s1 := if fieldGet 0 1 v ≠ 0 then s.secNonce else s
  let s2 := if fieldGet 1 1 v ≠ 0 then s1.tokenSubmit o else s1
  if fieldGet 2 1 v ≠ 0 then s2.secKeygen else s2

/-! Tamper (R529, R530). -/

/-- A tamper event. -/
def State.tamper (s : State) : State :=
  if !s.bit SEC_CFG_TAMPER_EN || s.sec.tamperLow then s
  else
    let old := s.nv.lc.code
    let owned := decide (s.nv.lc = .owned)
    let s1 := s.secureWipe.updNv (fun k =>
      { k with
        lc := if owned then .provisioned else k.lc
        ownerKey := if owned then none else k.ownerKey
        tamperCount := satAdd 32 k.tamperCount 1 })
    let s2 := (s1.updSec (fun c => { c with tamperLow := true, debugOpen := c.debugOpen && !owned })).flag SEC_STATUS_TAMPER
    let s3 := (s2.audit 4 .hw 0 old s2.nv.lc.code s2.nv.tamperCount).checkpoint Origin.hw.code
    s3.raise 0xF003 noSource s3.nv.tamperCount

/-! The audit log (R533, R537, R539). -/

/-- A checkpoint signature completes (R539): it is put in place and HEAD advances past its record. -/
def State.checkpointSigned (s : State) : State :=
  match s.aud.signing with
  | [] => s
  | c :: rest =>
    let sig := match c.key with
      | none => List.replicate 96 (0 : Byte)
      | some k => beBytes 48 (Config.sign k c.bytes).1 ++ beBytes 48 (Config.sign k c.bytes).2
    let s1 := s.ringPut c.base c.size ((c.offset + 0x50) % c.size) sig
    (((s1.updAud (fun z => { z with signing := rest }))).set AUD_STATUS_SIGNING (ofBool (!rest.isEmpty))).audHead

/-- A change of the audit ring's place or size (R533): the record of the change goes to the old ring, and a changed ring starts empty. -/
def State.audRingSet (s : State) (o : Origin) (l : List (Nat × Word)) : State :=
  let new (e : Nat × Word) : Nat × Word × Word := (e.1, s.reg e.1, match lookupReg e.1 with
    | none => s.reg e.1
    | some d => d.store (s.lockOf o e.1) (s.reg e.1) e.2)
  let chg := l.map new
  let s1 := chg.foldl (fun u c => match lookupReg c.1 with
    | none => u
    | some d => u.auditChange o c.1 d c.2.1 c.2.2) s
  let s2 := l.foldl (fun u e => match lookupReg e.1 with
    | none => u
    | some d => u.auditRefused o e.1 d e.2) s1
  let s3 := chg.foldl (fun u c => u.setReg c.1 c.2.2) s2
  if chg.all (fun c => decide (c.2.1 = c.2.2)) then s3
  else
    let s4 := (s3.updAud (fun z => { z with wpos := 0, used := 0 }))
    let s5 := (s4.set AUD_RING_TAIL 0).set AUD_RING_HEAD 0
    (if s5.audPlaced then s5 else s5.flagOnce AUD_STATUS_BAD_RING 0xF005 noSource 0).audDrain

/-- A write to AUD_RING_TAIL (R537): room is freed and held records are written. -/
def State.audTailWrite (s : State) (v : Word) : State :=
  let n := s.audSize
  let s1 := s.set AUD_RING_TAIL v.toNat
  let used := if n = 0 then 0 else (s.aud.wpos + n - v.toNat % n) % n
  ((s1.updAud (fun z => { z with used := used }))).audDrain

/-- A write to AUD_CFG: a record held in HOLD mode is written in WRAP mode. -/
def State.audCfgWrite (s : State) (o : Origin) (v : Word) : State := (s.regWrite o AUD_CFG_MODE.addr v).audDrain

/-! The commands. -/

/-- SEC_KEYGEN (R521). -/
def execSecKeygen (o : Origin) (s : State) : Host.Outcome State Fault Refusal := .next (if s.secWriteAllowed o then s.secCmd o 4 else s.regDeny o)

/-- KEYGEN_DONE (R521). -/
def execKeygenDone (s : State) : Host.Outcome State Fault Refusal := .next s.keygenDone

/-- SEC_NONCE (R527). -/
def execSecNonce (o : Origin) (s : State) : Host.Outcome State Fault Refusal := .next (if s.secWriteAllowed o then s.secCmd o 1 else s.regDeny o)

/-- TOKEN_SUBMIT (R527). -/
def execTokenSubmit (o : Origin) (s : State) : Host.Outcome State Fault Refusal := .next (if s.secWriteAllowed o then s.secCmd o 2 else s.regDeny o)

/-- TOKEN_CHECK_DONE (R527). -/
def execTokenCheckDone (s : State) : Host.Outcome State Fault Refusal := .next s.tokenDone

/-- LIFECYCLE_COMMIT (R528). -/
def execLifecycleCommit (s : State) : Host.Outcome State Fault Refusal := .next s.lifecycleCommit

/-- TAMPER_EVENT: TAMPER_N has been low for the filter time (R529, R530). -/
def execTamperEvent (s : State) : Host.Outcome State Fault Refusal := .next s.tamper

/-- TAMPER_N_RELEASE: TAMPER_N is high again (R529). -/
def execTamperNRelease (s : State) : Host.Outcome State Fault Refusal := .next (s.updSec (fun c => { c with tamperLow := false }))

/-- AUD_CKPT (R539). -/
def execAudCkpt (o : Origin) (s : State) : Host.Outcome State Fault Refusal :=
  .next (if s.audWriteAllowed o then s.checkpoint o.code else s.regDeny o)

/-- CHECKPOINT_SIGNED (R539). -/
def execCheckpointSigned (s : State) : Host.Outcome State Fault Refusal := .next s.checkpointSigned

/-- AUD_RING_MOVE: AUD_RING_BASE, both words together, or AUD_RING_SIZE written (R533). -/
def execAudRingMove (o : Origin) (size : Bool) (v : DWord) (s : State) : Host.Outcome State Fault Refusal :=
  .next
    (if !s.audWriteAllowed o then s.regDeny o
    else if size then s.audRingSet o [(AUD_RING_SIZE.addr, word v.toNat)]
    else s.audRingSet o [(AUD_RING_BASE_LO_BASE.addr, word v.toNat), (AUD_RING_BASE_HI_BASE.addr, word (v.toNat / 2 ^ 32))])

/-- AUD_TAIL_WRITE (R537). -/
def execAudTailWrite (o : Origin) (v : Word) (s : State) : Host.Outcome State Fault Refusal :=
  .next (if s.audWriteAllowed o then s.audTailWrite v else s.regDeny o)

end Sys2Proof.Machine
end

