-- ==== Sys2Proof/Machine/DmaCtl.lean ====
section
/-! DEFINITION. DMA channels and the checks of a descriptor (R457 to R467). -/
namespace Sys2Proof.Machine

/-! Address ranges. -/

/-- The mapped ranges of the device address space below the host window, ascending, as start and end (R20, R22). -/
def State.mapped (s : State) : List (Nat × Nat) :=
  [(0, 0xF0000), (0x1000000, 0x2000000), (0x8000000, 0xA400000), (0xB000000, 0xB010000), (0x40000000, 0x44000000),
   (0x50000000, 0x54000000), (0x60000000, 0x64000000), (dramBase, dramBase + s.usable), (2 ^ 63, 2 ^ 64)]

/-- The first unmapped address at or after a, below e. -/
def State.firstUnmapped (s : State) (a e : Nat) : Option Nat :=
  let x := s.mapped.foldl (fun x r => if r.1 ≤ x ∧ x < r.2 then r.2 else x) a
  if x < e then some x else none

/-- The first address of a range inside the secure region, through its window or an alias (R409, R414). -/
def secureAt (a n : Nat) : Option Nat :=
  ([0x40000000, 0x50000000, 0x60000000].find? (fun w => rangesMeet a n (w + 0x3C00000) 0x400000)).map (fun w =>
    max a (w + 0x3C00000) - w)

/-- How the banks, the DRAM segments and the octants that a range reaches serve it (R412, R413, R445, R549). -/
def State.rangeState (s : State) (a n : Nat) : Served :=
  let banks := (List.range 64).filter (fun b => reachesBank a n b)
  let octs := (List.range 8).filter (fun k => reachesOct a n k)
  let lo := max a dramBase - dramBase
  let hi := min (a + n) (dramBase + s.usable) - dramBase
  let dram := if s.reachesDram a n then
      (List.range (s.dramSeg (hi - 1) + 1 - s.dramSeg lo)).map (fun k => s.dramServed (if k = 0 then lo else ceilDiv ((s.dramSeg lo + k) * s.usable) 7))
    else []
  let all := banks.map s.bankServed ++ dram ++
    octs.map (fun k => match s.oct k with
      | .on => Served.ok
      | .pendingOff => Served.ok
      | .waking => Served.stall
      | .off => Served.off
      | .fault => Served.off)
  if all.any (fun x => decide (x = .off)) then .off
  else if all.any (fun x => decide (x = .stall)) then .stall
  else .ok

/-- The status bits of an access of a range to domains that do not serve it (R412, R445, R549). -/
def State.rangeOff (s : State) (a n : Nat) : State :=
  let s1 := s.flagIf ((List.range 64).any (fun b => reachesBank a n b && decide (s.bankServed b = .off))) MEM_STATUS_OFF_ACCESS
  let s2 := s1.flagIf (s.reachesDram a n && decide (s.rangeState (max a dramBase) (a + n - max a dramBase) = .off)) DRC_STATUS_OFF_ACCESS
  s2.flagIf ((List.range 8).any (fun k => reachesOct a n k && (decide (s.oct k = .off) || decide (s.oct k = .fault)))) PWR_STATUS_OFF_ACCESS

/-! Channels (R457, R465, R466). -/

/-- STATE of a channel: 0 DISABLED, 1 IDLE, 2 RUNNING, 3 STOPPING, 4 ERROR. -/
def State.chSt (s : State) (n : Nat) : Nat := s.get (DMA_CH_STATUS_STATE n)

/-- STATE of a channel set. -/
def State.setChSt (s : State) (n v : Nat) : State := s.set (DMA_CH_STATUS_STATE n) v

/-- The base of a ring; bits [4:0] are ignored. -/
def State.chBase (s : State) (n : Nat) : Nat := s.get (DMA_CH_RING_BASE n) / 32 * 32

/-- The descriptors of a ring; values above 65,536 act as 65,536. -/
def State.chSize (s : State) (n : Nat) : Nat := min 65536 (s.get (DMA_CH_RING_SIZE n))

/-- DMA_STATUS.ACTIVE follows the channels. -/
def State.dmaActive (s : State) : State :=
  s.set DMA_STATUS_ACTIVE ((List.range 16).foldl (fun m n => if (s.chan n).cur.isSome then m + 2 ^ n else m) 0)

/-- A channel enabled (R457): its ring is checked. -/
def State.chEnable (s : State) (o : Origin) (n : Nat) : State :=
  if 1 ≤ s.chSize n ∧ inOcm (s.chBase n) (32 * s.chSize n) = true then
    (s.setChSt n 2).updChan n (fun c => { c with origin := o, rung := false })
  else
    (((s.setChSt n 4).flag (DMA_CH_STATUS_RING_BAD n)).raise 0xD003 n 0).updChan n (fun c => { c with origin := o })

/-- A channel disabled (R465): a descriptor in progress is aborted, and DISABLED follows its write-back. -/
def State.chDisable (s : State) (n : Nat) : State :=
  match (s.chan n).cur with
  | none => s.setChSt n 0
  | some d => s.updChan n (fun c => { c with cur := some { d with status := some (d.status.getD 8) } })

/-- DMA_CHn_CTRL.STOP (R465). -/
def State.chStop (s : State) (n : Nat) : State :=
  if s.chSt n = 1 ∨ s.chSt n = 2 then
    if (s.chan n).cur.isSome then s.setChSt n 3 else (s.setCfg (DMA_CH_CTRL_EN n) 0).setChSt n 0
  else s

/-- A write to DMA_CHn_CTRL (R457, R465): the channel acts on a change of EN, then on STOP. -/
def State.chCtrlWrite (s : State) (o : Origin) (n : Nat) (v : Word) : State :=
  let was := s.bit (DMA_CH_CTRL_EN n)
  let s1 := s.regWrite o (DMA_CH_CTRL_EN n).addr (fieldPut 1 1 v 0)
  let on := s1.bit (DMA_CH_CTRL_EN n)
  let s2 := if on && !was then s1.chEnable o n else if was && !on then s1.chDisable n else s1
  if fieldGet 1 1 v ≠ 0 ∧ on then s2.chStop n else s2

/-- A doorbell (R459): RUNG is set, and an IDLE channel reads again. -/
def State.doorbell (s : State) (n : Nat) : State :=
  let s1 := s.updChan n (fun c => { c with rung := true })
  if s1.chSt n = 1 then s1.setChSt n 2 else s1

/-- A write to POS, RING_BASE or RING_SIZE (R466): discarded unless the channel is DISABLED; BASE or SIZE sets POS to 0. -/
def State.chRingWrite (s : State) (o : Origin) (n a : Nat) (v : Word) : State :=
  if s.bit (DMA_CH_CTRL_EN n) ∨ s.chSt n ≠ 0 then s
  else
    let s1 := s.regWrite o a v
    if a = (DMA_CH_POS n).addr then s1 else s1.set (DMA_CH_POS n) 0

/-! Descriptors (R458 to R463, R467). -/

/-- The device address of the descriptor at a position. -/
def State.descAddr (s : State) (n pos : Nat) : Nat := s.chBase n + 32 * pos

/-- A descriptor from its eight words. -/
def descOf (pos addr : Nat) (bs : List Byte) (mover : Nat) : DmaDesc :=
  let w (k : Nat) : Nat := leAt bs (4 * k) 4
  { pos := pos, addr := addr, w0 := w 0, w6 := w 6, length := w 1, src := w 2 + 2 ^ 32 * w 3, dst := w 4 + 2 ^ 32 * w 5,
    pattern := w 2, checked := false, done := 0, status := none, mover := mover }

/-- The descriptor at a channel's position, as it stands in memory. -/
def State.descNow (s : State) (n : Nat) : DmaDesc :=
  let a := s.descAddr n (s.get (DMA_CH_POS n))
  descOf (s.get (DMA_CH_POS n)) a (s.getRegion (s.region a) 32) 0

/-- Whether a pending request for Retain or Off keeps a descriptor from starting (R463). -/
def State.descWaits (s : State) (d : DmaDesc) : Bool :=
  d.ranges.any (fun r =>
    (List.range 64).any (fun b => reachesBank r.1 r.2 b && (s.bank b).wants.isSome) ||
      (s.reachesDram r.1 r.2 && (s.drc.want = some 1 || s.drc.want = some 2)) ||
      (List.range 8).any (fun k => reachesOct r.1 r.2 k && decide (s.oct k = .pendingOff)))

/-- A mover that is free. -/
def State.freeMover (s : State) : Option Nat := (List.range 4).find? (fun m => !s.descs.any (fun d => decide (d.mover = m)))

/-- Whether a channel has an owned descriptor that may start. -/
def State.chReady (s : State) (n : Nat) : Bool :=
  decide (s.chSt n = 2) && (s.chan n).cur.isNone && bitOf (s.descNow n).w0 0 && !s.descWaits (s.descNow n)

/-- The channel that a mover takes next (R467): the highest priority, and in rotation after the channel it served last. -/
def State.moverPick (s : State) (m : Nat) : Option Nat :=
  let start := Sparse.get (fun _ => 0) s.dma.served m
  let order := (List.range 16).map (fun k => (start + k) % 16)
  let ready := order.filter (fun n => s.chReady n)
  let best := ready.foldl (fun b n => min b (s.get (DMA_CH_CTRL_PRIO n))) 3
  ready.find? (fun n => decide (s.get (DMA_CH_CTRL_PRIO n) = best))

/-- The engine reads word 0 at the channel's position (R459, R464): an uncorrectable word puts the channel in ERROR, a descriptor that is
not owned makes it IDLE, and an owned one starts when a free mover takes it. `e` is what the check of word 0 meets. -/
def State.descRead (s0 : State) (n : Nat) (e : Ecc) : State :=
  if s0.chSt n ≠ 2 ∨ (s0.chan n).cur.isSome then s0
  else
    let a := s0.descAddr n (s0.get (DMA_CH_POS n))
    match s0.rangeServed (s0.region a) 4 with
    | .stall => s0.emit (.stalled (s0.chan n).origin a)
    | _ =>
      let s := (match s0.region a with
        | .ocm x => s0.ocmUpset e x
        | _ => s0).updChan n (fun c => { c with rung := false })
      let s1 := s.checkRegion (s.region a) 4
      if s.badRegion (s.region a) 4 && decide (s.rangeServed (s.region a) 4 = .ok) then
        (s1.setChSt n 4).raise 0xD002 n (4 + 2 ^ 8 * s.get (DMA_CH_POS n))
      else if !bitOf (s.descNow n).w0 0 then s1.setChSt n 1
      else
        match s1.freeMover with
        | none => s1
        | some m =>
          if s1.moverPick m ≠ some n then s1
          else
            let d := s1.descNow n
            let s2 := s1.updChan n (fun c => { c with cur := some { d with mover := m } })
            let s3 := (s2.updDma (fun z => { z with served := Sparse.set (fun _ => 0) s2.dma.served m ((n + 1) % 16) }))
            (s3.set (DMA_CH_CUR_DONE_BYTES n) 0).dmaActive

/-- The ranges of a descriptor that it writes. -/
def DmaDesc.writes (d : DmaDesc) : Nat × Nat := (d.dst, d.length)

/-- Whether the description itself is bad (R460). -/
def DmaDesc.bad (d : DmaDesc) : Bool :=
  decide (2 ≤ d.op) || decide (d.length = 0) || decide (d.length % 4 ≠ 0) || decide (d.dst % 4 ≠ 0) ||
    (decide (d.op = 0) && decide (d.src % 4 ≠ 0)) || d.ranges.any (fun r => decide (2 ^ 64 < r.1 + r.2))

/-- Whether the segment of SEG_CHK is not free for the descriptor (R460). -/
def State.descSegBad (s : State) (d : DmaDesc) : Bool :=
  let i := bitsOf d.w0 5 4
  let id := bitsOf d.w6 0 16
  bitOf d.w0 4 && (!s.segInRange i id || decide ((s.seg i id).state ≠ .inactive))

/-- The first unmapped address of a descriptor. -/
def State.descUnmapped (s : State) (d : DmaDesc) : Option Nat :=
  (d.ranges.filterMap (fun r => s.firstUnmapped r.1 (r.1 + r.2))).head?

/-- Whether a range is denied to an origin (R414, R460, R531): the address to report. -/
def State.rangeDenied (s : State) (o : Origin) (a n : Nat) (write : Bool) : Option Nat :=
  let sec := if s.secureDenies o then secureAt a n else none
  let reg (b : Nat) : Option Nat := if rangesMeet a n b 0x10000 && s.regDenied o b write then some (max a b) else none
  match sec, reg 0x20000, reg 0x30000 with
  | some x, _, _ => some x
  | none, some x, _ => some x
  | none, none, y => y

/-- The denied address of a descriptor: SRC as a read, DST as a write. -/
def State.descDenied (s : State) (o : Origin) (d : DmaDesc) : Option Nat :=
  match if d.op = 0 then s.rangeDenied o d.src d.length false else none with
  | some x => some x
  | none => s.rangeDenied o d.dst d.length true

/-- The status of a descriptor that fails a check, none if it passes, with the status bits that the check sets (R460). -/
def State.descCheck (s : State) (n : Nat) (d : DmaDesc) : State × Option Nat :=
  if d.bad then (s, some 7)
  else if s.descSegBad d then (s, some 2)
  else
    match s.descUnmapped d with
    | some x => (s.unmapped x, some 3)
    | none =>
      match s.descDenied (s.chan n).origin d with
      | some x => (s.flagOnce MEM_STATUS_SECURE_DENY 0xB009 noSource x, some 5)
      | none =>
        if d.ranges.any (fun r => decide (s.rangeState r.1 r.2 = .off)) then
          (d.ranges.foldl (fun u r => u.rangeOff r.1 r.2) s, some 1)
        else if d.ranges.any (fun r => reachesHost r.1 r.2) && !s.bit SYS_HOST_STATUS_LINK_UP then (s, some 6)
        else (s, none)

/-- The descriptor in progress of a channel changed. -/
def State.updDesc (s : State) (n : Nat) (f : DmaDesc → DmaDesc) : State := s.updChan n (fun c => { c with cur := c.cur.map f })

/-- Publish commands held for segments that are no longer claimed are evaluated (R461). -/
def State.publishHeld (s : State) : State :=
  let free := s.dma.publishes.filter (fun p => !s.claimed p.1 p.2)
  let s1 := (s.updDma (fun z => { z with publishes := s.dma.publishes.filter (fun p => s.claimed p.1 p.2) }))
  free.foldl (fun u p => (u.segPublish p.1 p.2 .ok).overlapMarks.published p.1 p.2) s1

/-- A part of a descriptor of channel n that waits ends with the descriptor. -/
def State.dmaForget (s : State) (n : Nat) : State :=
  s.updHost (fun h => { h with waiting := h.waiting.filter (fun w => match w.op with
    | .dma m _ _ => decide (m ≠ n)
    | _ => true) })

/-- A descriptor written back (R458, R462, R464, R465): word 7, then word 0 with OWN 0 and STATUS; the channel goes on, stops, is disabled or
enters ERROR. -/
def State.descWriteBack (s : State) (n : Nat) (d : DmaDesc) (st : Nat) : State :=
  let s1 := s.putRegion (s.region (d.addr + 28)) (leBytes 4 d.done)
  let w0 := fieldPut 16 8 (fieldPut 0 1 (word d.w0) 0) st
  let s2 := s1.putRegion (s1.region d.addr) (leBytes 4 w0.toNat)
  let s3 := (((s2.updChan n (fun c => { c with cur := none })).set (DMA_CH_POS n) ((d.pos + 1) % max 1 (s2.chSize n))).count
    (DMA_CH_DONE_CNT_COUNT n) 1).set (DMA_CH_STATUS_LAST_STATUS n) st
  let s4 := (s3.set (DMA_CH_CUR_DONE_BYTES n) 0).dmaActive
  let s5 := if st = 0 then s4
    else ((s4.count (DMA_CH_ERR_CNT_COUNT n) 1).set DMA_STATUS_ERR (s4.get DMA_STATUS_ERR ||| 2 ^ n)).raise 0xD002 n (st + 2 ^ 8 * d.pos)
  let s6 := s5.raiseIf (bitOf d.w0 1) 0xD001 n (bitsOf d.w6 16 16)
  let s7 :=
    if !s6.bit (DMA_CH_CTRL_EN n) then s6.setChSt n 0
    else if s6.chSt n = 3 then (s6.setCfg (DMA_CH_CTRL_EN n) 0).setChSt n 0
    else if st ≠ 0 && s6.bit (DMA_CH_CTRL_HALT_ON_ERR n) then s6.setChSt n 4
    else s6
  (s7.dmaForget n).publishHeld

/-! The commands. -/

/-- DMA_ENABLE: a write to DMA_CHn_CTRL with EN 1 (R457). -/
def execDmaEnable (o : Origin) (n : Fin 16) (halt : Bool) (prio : Fin 4) (s : State) : Host.Outcome State Fault Refusal :=
  .next (s.chCtrlWrite o n (word (1 + 4 * ofBool halt + 16 * prio.val)))

/-- DMA_DISABLE: a write to DMA_CHn_CTRL with EN 0 (R465). -/
def execDmaDisable (o : Origin) (n : Fin 16) (halt : Bool) (prio : Fin 4) (s : State) : Host.Outcome State Fault Refusal :=
  .next (s.chCtrlWrite o n (word (4 * ofBool halt + 16 * prio.val)))

/-- DMA_STOP: a write to DMA_CHn_CTRL with EN and STOP 1 (R465). -/
def execDmaStop (o : Origin) (n : Fin 16) (halt : Bool) (prio : Fin 4) (s : State) : Host.Outcome State Fault Refusal :=
  .next (s.chCtrlWrite o n (word (3 + 4 * ofBool halt + 16 * prio.val)))

/-- DMA_DOORBELL (R459). -/
def execDmaDoorbell (n : Fin 16) (s : State) : Host.Outcome State Fault Refusal := .next (s.doorbell n)

/-- DMA_DESC_READ (R459). -/
def execDmaDescRead (n : Fin 16) (e : Ecc) (s : State) : Host.Outcome State Fault Refusal := .next (s.descRead n e)

/-- DMA_RING_WRITE (R466): RING_BASE (0), RING_SIZE (1) or POS (2) of channel n. -/
def execDmaRingWrite (o : Origin) (n : Fin 16) (k : Fin 3) (v : Word) (s : State) : Host.Outcome State Fault Refusal :=
  .next
    (s.chRingWrite o n
      (if k.val = 0 then (DMA_CH_RING_BASE n).addr else if k.val = 1 then (DMA_CH_RING_SIZE n).addr else (DMA_CH_POS n).addr) v)

end Sys2Proof.Machine
end

