-- ==== Sys2Proof/Machine/Reset.lean ====
section
/-! DEFINITION. Full resets (R497, R517, R532, R582, R585) and OFF (R546). -/
namespace Sys2Proof.Machine

/-- Whether the device has no supply, or is held in reset (R546, R556, R582). -/
def State.heldReset (s : State) : Bool := s.pwr.removed || s.pwr.extest || s.pwr.tooHot

/-- The pins after a reset: all as `Pin.reset`, but for the voltages at their inputs, which are not the device's. -/
def resetPins (pins : Sparse Pin) : Sparse Pin :=
  (pins.filter (fun e => decide (e.2.volt ≠ 0))).map (fun e => (e.1, Pin.resetAt e.2.volt))

/-- The device with every register at its reset value and nothing in progress: what is outside it, the key store and the model's own
counters stay. -/
def State.blank (s : State) : State :=
  { State.reset with
    pending := s.pending, now := s.now, out := s.out, fresh := s.fresh, nv := s.nv, aud := AudState.reset, pins := resetPins s.pins }

/-- A full reset (R497): the cause is latched, the boot is counted, and the RESET record is the first (R535). -/
def State.resetNow (s : State) (cause : Nat) : State :=
  let n := satAdd 32 s.nv.bootCount 1
  ({ s.blank with
      nv := { s.nv with bootCount := n }
      aud := { AudState.reset with hold := [resetRecord cause n] }
      boot := { BootState.reset with start := s.now } }).set NVM_RESET_CAUSE cause

/-- A full reset by a cause: the first cause stays latched while the device is held in reset. -/
def State.fullReset (s : State) (cause : Nat) : State := if s.heldReset then s else s.resetNow cause

/-- POR_N low for a time in ns (R497, R585): 1 µs and more resets, and brings the device out of OFF; from 0.5 µs on the outcome is a
free value; less has no effect. -/
def State.porLow (s : State) (ns : Nat) : State :=
  if 1000 ≤ ns then (if s.pwr.removed then s.resetNow 1 else s.fullReset 1)
  else if 500 ≤ ns ∧ !s.pwr.removed then
    let s1 := s.tickFresh
    if Config.freeBit s.fresh then s1.fullReset 1 else s1
  else s

/-- A write to NVM_RESET (R517). -/
def State.nvmReset (s : State) (v : Word) : State :=
  if fieldGet 0 1 v = 1 ∧ fieldGet 16 16 v = 0x5EB0 then s.fullReset 4 else s

/-- The reset instruction of the debug port (R497, R532). -/
def State.tapReset (s : State) : State := if s.debugOk then s.fullReset 5 else s

/-- EXTEST is loaded (R582): a full reset that lasts. -/
def State.extestLoad (s : State) : State :=
  if s.pwr.extest then s
  else
    let s1 := s.fullReset 5
    (s1.updPwr (fun z => { z with extest := true }))

/-- The EXTEST hold ends (R582): the device leaves reset, unless it is too hot. -/
def State.extestRelease (s : State) : State :=
  if s.pwr.extest then
    (s.updPwr (fun z => { z with extest := false })).updBoot (fun z => { z with start := s.now })
  else s

/-- All supplies are removed (R546): everything but the key store is lost. -/
def State.powerOff (s : State) : State := { s.blank with pwr := { PwrState.reset with removed := true } }

/-- POR_N_LOW: POR_N is low for `lowNs` ns. -/
def execPorNLow (lowNs : Nat) (s : State) : Host.Outcome State Fault Refusal := .next (s.porLow lowNs)

/-- NVM_RESET (R517): a write to the register. -/
def execNvmReset (v : Word) (s : State) : Host.Outcome State Fault Refusal := .next (s.nvmReset v)

/-- TAP_RESET (R497, R532). -/
def execTapReset (s : State) : Host.Outcome State Fault Refusal := .next s.tapReset

/-- EXTEST_LOAD (R582). -/
def execExtestLoad (s : State) : Host.Outcome State Fault Refusal := .next s.extestLoad

/-- EXTEST_RELEASE (R582). -/
def execExtestRelease (s : State) : Host.Outcome State Fault Refusal := .next s.extestRelease

/-- POWER_REMOVED (R546). -/
def execPowerRemoved (s : State) : Host.Outcome State Fault Refusal := .next s.powerOff

end Sys2Proof.Machine
end

