-- ==== Sys2Proof/Machine/Power.lean ====
section
/-! DEFINITION. Power, faults and availability (R546 to R558): AVSBus and pace windows (R12, R198, R210), Twilight, temperature, the octant,
HOST and LINK domains, and standby. -/
namespace Sys2Proof.Machine

/-! AVSBus (R554, R555). -/

/-- A voltage request in mV sent to the regulator; its read-back is to come. -/
def State.avsWrite (s : State) (mv : Nat) : State :=
  ((s.set PWR_AVS_STAT_REQ mv).emit (.avs (s.get PWR_AVS_CFG_RAIL) mv)).updPwr (fun p => { p with avsWait := p.avsWait ++ [s.now] })

/-- v_base requested where the device drives AVSBus. -/
def State.avsBase (s : State) : State := if s.bit PWR_AVS_CFG_EN then s.avsWrite (s.get PWR_AVS_CFG_BASE) else s

/-- A write to PWR_AVS_CFG (R554, R568). -/
def State.avsCfgWrite (s : State) (o : Origin) (v : Word) : State :=
  let s1 := s.regWrite o PWR_AVS_CFG_BASE.addr v
  if s.bit PWR_AVS_CFG_EN then s1 else s1.avsBase

/-- An AVSBus error: event 0xE030 once until AVS_ERR is cleared. -/
def State.avsError (s : State) : State := s.flagOnce PWR_STATUS_AVS_ERR 0xE030 noSource (s.get PWR_AVS_STAT_REQ)

/-- The read-back of the oldest write, 1 ms after it (R554). -/
def State.avsReadBack (s0 : State) (mv : Nat) : State :=
  match s0.pwr.avsWait with
  | [] => s0
  | t :: rest =>
    let s := s0.at_ (t + ms)
    let s1 := (s.set PWR_AVS_STAT_READ mv).updPwr (fun p => { p with avsWait := rest })
    let req := s.get PWR_AVS_STAT_REQ
    if 25 < (mv - req) + (req - mv) then s1.avsError else s1

/-- No valid response in 100 µs, to the oldest write or to its read-back (R554). -/
def State.avsTimeout (s : State) (read : Bool) : State :=
  match s.pwr.avsWait with
  | [] => s
  | _ :: rest => (if read then s.updPwr (fun p => { p with avsWait := rest }) else s).avsError

/-! Pace windows (R12, R198, R210). -/

/-- The pace margin of a lane, none without a value (R12). -/
def LanePace.value (l : LanePace) : Option Int :=
  if l.consumed = 0 then none
  else if l.busy = 0 then some (-100)
  else
    let den : Int := l.busy * l.consumed
    some (clampInt (-100) 255 (Int.tdiv (100 * l.delivered * 65536 - 100 * den) den))

/-- The lanes of a pace window (R12): P and C as counted in it, and T_busy of the self-timed producers as given; a lane not named has none. -/
def State.lanes (s : State) (busy : List (Nat × Nat)) : List LanePace :=
  (List.range 64).map (fun g =>
    ⟨g, Sparse.get (fun _ => 0) s.pwr.fed g, min 65536 ((((busy.find? (fun b => decide (b.1 = g)))).map (fun b => b.2)).getD 0),
      Sparse.get (fun _ => 0) s.pwr.drawn g⟩)

/-- The lowest value among the lanes of a site, with its group; the lowest group of several with it (log 136, DESIGN CHOICE: R210 names none). -/
def State.sitePace (s : State) (i : Nat) (ls : List LanePace) : Option (Int × Nat) :=
  (ls.filter (fun l => decide (s.owner l.group = some i))).foldl
    (fun b l => match l.value, b with
      | none, _ => b
      | some v, none => some (v, l.group)
      | some v, some w => if v < w.1 ∨ (v = w.1 ∧ l.group < w.2) then some (v, l.group) else b) none

/-- SITE_PACE and SITE_PACE_LANE of a site (R210, R218). -/
def State.paceReport (s : State) (i : Nat) (v : Option (Int × Nat)) : State :=
  match v with
  | none => s
  | some (x, g) =>
    let low := if (s.site i).str.paced then min x (signedOf 16 (s.get (SITE_PACE_MIN i))) else x
    (((s.set (SITE_PACE_LAST i) (unsignedOf 16 x)).set (SITE_PACE_MIN i) (unsignedOf 16 low)).set (SITE_PACE_LANE i) g).updStr i
      (fun t => { t with paced := true })

/-- SITE_STR_RATE of a site, and a rate above the reservation (R198, R216). A byte counts as its data land in the buffer, the rate reported is
rounded down, and the comparison takes it unrounded (log 136, DESIGN CHOICE: the spec states none of these). -/
def State.rateReport (s : State) (i : Nat) : State :=
  let b := (s.site i).str.windowBytes
  let r := min 65535 (b * 5 / 1024)
  let s1 := ((s.set (SITE_STR_RATE_LAST i) r).set (SITE_STR_RATE_MAX i) (max r (s.get (SITE_STR_RATE_MAX i)))).updStr i
    (fun t => { t with windowBytes := 0 })
  if s.inBurst i && decide (s.cfg i (SITE_STR_CFG_RES i) * 1024 < b * 5) then
    let s2 := s1.flag (SITE_STR_STATUS_EXCEEDED i)
    if (s.site i).str.exceedEvt then s2 else (s2.raise 0x3004 i r).updStr i (fun t => { t with exceedEvt := true })
  else s1

/-- The floor of a site, in percent. -/
def State.paceFloor (s : State) (i : Nat) : Int := signedOf 8 (s.cfg i (SITE_PACE_CFG_FLOOR i))

/-- The steering of R210 on the pace values of the running sites; suspended in Twilight on VDD_CORE (R554). -/
def State.steer (s : State) (paces : List (Nat × Int)) : State :=
  let core := match s.pwr.twilight with
    | none => false
    | some t => decide (t.cause = 0)
  if !s.bit PWR_AVS_CFG_EN || core then s
  else
    let xs := paces.filter (fun p => s.cfgBit p.1 (SITE_PACE_CFG_STEER p.1))
    let v := s.get PWR_AVS_STAT_REQ
    if xs.any (fun p => decide (p.2 < s.paceFloor p.1)) then s.avsWrite (min (v + 10) 850)
    else if xs.all (fun p => decide (s.paceFloor p.1 + 20 ≤ p.2)) then s.avsWrite (max (v - 5) (s.get PWR_AVS_CFG_BASE))
    else s.avsWrite v

/-- A running site below its floor while 850 mV is requested: event 0x3010 once per burst (R210). Its s16 data stand sign-extended in the 32-bit
word (log 136, DESIGN CHOICE). -/
def State.paceLow (s : State) (p : Nat × Int) : State :=
  if p.2 < s.paceFloor p.1 ∧ s.get PWR_AVS_STAT_REQ = 850 ∧ !(s.site p.1).str.paceEvt then
    (s.raise 0x3010 p.1 (unsignedOf 32 p.2)).updStr p.1 (fun t => { t with paceEvt := true })
  else s

/-- The end of the present pace window: windows of 65,536 ticks follow each other from reset on. -/
def State.windowEnd (s : State) : Nat := s.boot.start + (s.pwr.windows + 1) * 65536 * tickLsb

/-- The end of a pace window (R12, R198, R210, R329). -/
def State.paceWindow (s0 : State) (busy : List (Nat × Nat)) : State :=
  let ls := s0.lanes busy
  let s := (s0.at_ s0.windowEnd).updPwr (fun p => { p with windows := p.windows + 1, fed := [], drawn := [] })
  let vals := (List.range 16).map (fun i => (i, if s.inBurst i then s.sitePace i ls else none))
  let s1 := vals.foldl (fun u p => (u.paceReport p.1 p.2).rateReport p.1) s
  let s2 := (s1.set XE_RATE_LAST (min 65535 (s1.xe.steps * 25 / 512))).updXe (fun z => { z with steps := 0 })
  let paces := vals.filterMap (fun p => p.2.map (fun v => (p.1, v.1)))
  paces.foldl State.paceLow (s2.steer paces)

/-! Supplies and Twilight (R551 to R553). -/

/-- The absolute maximum of a supply's magnitude in mV, by its code (R591). -/
def supplyMax (i : Nat) : Nat := [950, 950, 2100, 1000, 2100, 6000, 3000, 650, 1000].getD i 0

/-- A write to PWR_SUP_CFGi (R569): a RESET above WARN stores WARN − 10. -/
def State.supCfgWrite (s : State) (o : Origin) (i : Nat) (v : Word) : State :=
  let a := (PWR_SUP_CFG_WARN i).addr
  let warn := fieldGet 0 13 v
  s.regWrite o a (if warn < fieldGet 16 13 v ∧ !s.lockedAt o a 0 13 then fieldPut 16 13 v (warn - 10) else v)

/-- The consecutive samples below WARN and below RESET. -/
def State.supplyOne (s : State) (i mv : Nat) : State :=
  let n (below : Bool) (c : Nat) : Nat := if below then min 10 (c + 1) else 0
  let w := n (decide (mv < s.get (PWR_SUP_CFG_WARN i))) (Sparse.get (fun _ => 0) s.pwr.belowWarn i)
  let r := n (decide (mv < s.get (PWR_SUP_CFG_RESET i))) (Sparse.get (fun _ => 0) s.pwr.belowReset i)
  (s.set (PWR_SUP_MV i) mv).updPwr (fun p =>
    { p with belowWarn := Sparse.set (fun _ => 0) p.belowWarn i w, belowReset := Sparse.set (fun _ => 0) p.belowReset i r })

/-- Twilight begins (R552 to R554), for the supplies that caused it. -/
def State.twilightEnter (s : State) (causes : List Nat) : State :=
  let first := causes.headD 0
  let s1 := ((s.flag PWR_STATUS_TWILIGHT).count PWR_TWI_COUNT 1).set PWR_SUP_STAT_CAUSED
    (s.get PWR_SUP_STAT_CAUSED ||| causes.foldl (fun m i => m + 2 ^ i) 0)
  let s2 := (s1.raise 0xE001 noSource first).audit 5 .hw 0 0 1 first
  let s3 := (s2.taintAll taintSupply).calSpoil (fun _ => true)
  let s4 := s3.updPwr (fun p => { p with twilight := some ⟨s.now, first, none, s.get PWR_TWI_TIME⟩ })
  if decide (first = 0) && s4.bit PWR_AVS_CFG_EN then s4.avsWrite 850 else s4

/-- PWR_TWI_TIME now: it counts on while Twilight lasts, in 0.1 µs. -/
def State.twiTime (s : State) : Nat :=
  match s.pwr.twilight with
  | none => s.get PWR_TWI_TIME
  | some t => satAdd 32 t.base ((s.now - t.since) * 10 / us)

/-- What the samples of the supplies do: a reset, the entry into Twilight, or the time of its exit. -/
def State.supplies (s : State) (mvs : List Nat) : State :=
  let s1 := mvs.zipIdx.foldl (fun u x => u.supplyOne x.2 x.1) s
  let below := (List.range 9).filter (fun i => decide (Sparse.get (fun _ => 0) s1.pwr.belowWarn i ≠ 0))
  let s2 := s1.set PWR_SUP_STAT_BELOW (below.foldl (fun m i => m + 2 ^ i) 0)
  if (List.range 9).any (fun i => decide (10 ≤ Sparse.get (fun _ => 0) s2.pwr.belowReset i)) then s2.fullReset 2
  else
    match s2.pwr.twilight with
    | some t =>
      s2.updPwr (fun p => { p with twilight := some { t with goodSince := if below = [] then some (t.goodSince.getD s.now) else none } })
    | none =>
      let causes := (List.range 9).filter (fun i => decide (4 ≤ Sparse.get (fun _ => 0) s2.pwr.belowWarn i))
      if causes = [] then s2 else s2.twilightEnter causes

/-- Twilight ends 10 µs after the supplies are back (R552). -/
def State.twilightExit (s0 : State) : State :=
  match s0.pwr.twilight with
  | none => s0
  | some t =>
    match t.goodSince with
    | none => s0
    | some g =>
      let s := s0.at_ (g + 10 * us)
      let s1 := ((s.set PWR_TWI_TIME s.twiTime).set PWR_STATUS_TWILIGHT 0).updPwr (fun p => { p with twilight := none })
      (s1.raise 0xE002 noSource (min (2 ^ 32 - 1) ((s.now - t.since) / us))).audit 5 .hw 0 0 0 t.cause

/-! Temperature (R556). -/

/-- THERM_WARN and THERM_HOT follow the sensors (R556). -/
def State.thermBits (s : State) : State :=
  let at_ (f : Fld) : Bool := s.pwr.sampled.any (fun k => decide ((s.get f : Int) ≤ signedOf 8 (s.get (PWR_TEMP_NOW k))))
  (s.set PWR_STATUS_THERM_WARN (ofBool (at_ PWR_THERM_CFG_WARN))).set PWR_STATUS_THERM_HOT (ofBool (at_ PWR_THERM_CFG_HOT))

/-- A write to PWR_THERM_CFG (R571): HOT lies from WARN + 1 to 110. -/
def State.thermCfgWrite (s : State) (o : Origin) (v : Word) : State :=
  let a := PWR_THERM_CFG_WARN.addr
  let warn := clampNat 60 105 (fieldGet 0 8 v)
  let v1 := fieldPut 8 8 (fieldPut 0 8 v warn) (clampNat (warn + 1) 110 (fieldGet 8 8 v))
  (s.regWrite o a (if s.lockedAt o a 0 8 then v else v1)).thermBits

/-- The sites a sensor concerns that run a burst, tainted THERMAL. -/
def State.thermTaint (s : State) (k : Nat) : State :=
  (List.range 16).foldl (fun u i => if u.concerns k i then u.taint i taintThermal else u) s

/-- One sensor's sample. -/
def State.tempOne (s : State) (k : Nat) (t : Int) : State :=
  let top := if s.pwr.sampled.contains k then max t (signedOf 8 (s.get (PWR_TEMP_MAX k))) else t
  let s1 := ((s.set (PWR_TEMP_NOW k) (unsignedOf 8 t)).set (PWR_TEMP_MAX k) (unsignedOf 8 top)).updPwr (fun p =>
    { p with sampled := if p.sampled.contains k then p.sampled else p.sampled ++ [k] })
  let warn : Int := s1.get PWR_THERM_CFG_WARN
  let hot : Int := s1.get PWR_THERM_CFG_HOT
  let s2 := if warn ≤ t ∧ !s1.pwr.warm.contains k then
      ((s1.updPwr (fun p => { p with warm := p.warm ++ [k] })).thermTaint k).raise 0xE010 noSource k
    else s1
  let s3 := if hot ≤ t ∧ !s2.pwr.hot.contains k then
      let u := (s2.updPwr (fun p => { p with hot := p.hot ++ [k] })).thermTaint k
      ((List.range 16).foldl (fun u i => if u.concerns k i then u.abortAtBoundary i 0x50 else u) u).raise 0xE012 noSource k
    else s2
  let s4 := if t < warn - (s1.get PWR_THERM_CFG_HYST : Int) ∧ (s3.pwr.warm.contains k || s3.pwr.hot.contains k) then
      (s3.updPwr (fun p =>
        { p with
          warm := p.warm.filter (fun x => decide (x ≠ k))
          hot := p.hot.filter (fun x => decide (x ≠ k)) })).raise 0xE011 noSource k
    else s3
  if k < 8 then s4.calTemp k else s4

/-- The samples of the nine sensors: at 115 °C the device resets and stays in reset until every sensor reads below 95 °C. -/
def State.temps (s : State) (ts : List Int) : State :=
  if s.pwr.removed then s
  else if s.pwr.tooHot then
    if ts.all (fun t => decide (t < 95)) then
      (s.updPwr (fun z => { z with tooHot := false })).updBoot (fun z => { z with start := s.now })
    else s
  else if ts.any (fun t => decide (115 ≤ t)) then (s.fullReset 3).updPwr (fun p => { p with tooHot := true })
  else if s.heldReset then s
  else (ts.zipIdx.foldl (fun u x => u.tempOne x.2 x.1) s).thermBits

/-! Octants (R9, R115, R548, R549, R558). -/

/-- The code of an octant in PWR_DOM_STATE (R566). -/
def OctPower.code : OctPower → Nat
  | .on => 0
  | .fault => 1
  | .off => 2
  | .pendingOff => 3
  | .waking => 3

/-- An octant's state set. -/
def State.setOct (s : State) (k : Nat) (v : OctPower) : State :=
  (s.updPwr (fun p => { p with octants := Sparse.set (fun _ => OctPower.on) p.octants k v })).set (PWR_DOM_STATE_OCT k) v.code

/-- Event 0xE020 (R548): 0 On, 1 Off, 2 FAULT. -/
def State.domEvent (s : State) (dom st : Nat) : State := s.raise 0xE020 noSource (dom + 2 ^ 8 * st)

/-- The balls of an octant are released: drivers off, terminations high impedance, detectors disconnected. -/
def State.octRelease (s : State) (k : Nat) : State :=
  (List.range 64).foldl
    (fun u j =>
      let p := 64 * k + j
      ((u.closeCluster p).emit (.disconnect p)).updPin p (fun q =>
        { q with drv := { q.drv with enable := false }, edges := [], strobes := [], windows := [], clock := none, tripDue := .none,
                 clampIn := clampReset, clampAt := [] })) s

/-- Descriptors in progress that target the PIN blocks of an octant complete with DOMAIN_OFF (R463, R558). -/
def State.dmaOctOff (s : State) (k : Nat) : State :=
  let f (d : DmaDesc) : DmaDesc :=
    if d.status.isNone && d.ranges.any (fun r => reachesOct r.1 r.2 k) then { d with status := some 1 } else d
  (s.updDma (fun z => { z with chans := s.dma.chans.map (fun c => (c.1, { c.2 with cur := c.2.cur.map f })) }))

/-- A request for Off or On reaches an octant: from FAULT, Off takes effect at once and On has no effect (R558). -/
def State.octWant (s : State) (k : Nat) (off : Bool) : State :=
  match s.oct k, off with
  | .on, true => (s.setOct k .pendingOff).tdcCancelAll 2 (fun p => decide (p / 64 = k))
  | .pendingOff, false => s.setOct k .on
  | .off, false => s.setOct k .waking
  | .fault, true => (((s.setOct k .off).dmaOctOff k).domEvent (k + 1) 1).tdcCancelAll 2 (fun p => decide (p / 64 = k))
  | _, _ => s

/-- Whether an octant is to be Off: by its register, or for standby (R547). -/
def State.octOffWanted (s : State) (k : Nat) : Bool :=
  s.bit (PWR_DOM_CTRL_OCT k) ||
    ((decide (s.pwr.standby = .waitDomains) || decide (s.pwr.standby = .entered)) && bitOf (s.get PWR_STBY_CFG_OCT_OFF) k)

/-- Whether a site is IDLE, or in standby at most in an arm that is held (R547). -/
def State.quiet (s : State) (i : Nat) : Bool :=
  s.idle i || (decide (s.pwr.standby ≠ .none) && decide (s.siteSt i = stArming) && (s.site i).burst.held)

/-- Whether something holds the power-off of an octant (R549). -/
def State.octHeld (s : State) (k : Nat) : Bool :=
  (List.range 16).any (fun i => !s.quiet i && (s.groups i).any (fun g => decide (g / 8 = k))) || s.dmaOnOct k ||
    s.cal.steps.any (fun c => decide (c.pin / 64 = k))

/-- A pending Off takes effect once nothing holds it (R549). -/
def State.octOffDone (s : State) (k : Nat) : State :=
  if s.oct k = .pendingOff ∧ !s.octHeld k then
    (((s.octRelease k).setOct k .off).domEvent (k + 1) 1).tdcCancelAll 2 (fun p => decide (p / 64 = k))
  else s

/-- The registers and the state that a pin holds on the front-end die return to reset (R115); its comparators start from the plain
comparison of the input, in µV (R101). -/
def State.pinPowered (s : State) (p : Nat) (v : Int) : State :=
  ((s.updPin p (fun q =>
      { Pin.resetAt v with
        acq := q.acq
        operands := q.operands
        undefVecs := q.undefVecs })).eraseRegs (0x8002000 + p * 0x10000) 0x1000).eraseRegs (0x8004000 + p * 0x10000) 0x1000

/-- A powered octant is On (R549); `volts` lists the inputs of its pins whose voltage is no longer as last reported. -/
def State.octOnDone (s : State) (k : Nat) (volts : List (Nat × Int)) : State :=
  if s.oct k ≠ .waking then s
  else
    let s1 := (List.range 64).foldl (fun u j => u.pinPowered (64 * k + j) (((volts.find? (fun e => decide (e.1 = j))).map (fun e => e.2)).getD (u.pin (64 * k + j)).volt)) s
    let s2 := (s1.setOct k .on).domEvent (k + 1) 0
    if s2.octOffWanted k then s2.octWant k true else s2

/-- No heartbeat for 4 µs (R558): the octant is in FAULT, and the bursts of its sites end. -/
def State.octFault (s : State) (k : Nat) : State :=
  if s.octOff k then s
  else
    let s1 := (s.octRelease k).setOct k .fault
    let s2 := (List.range 16).foldl
      (fun u i => if (u.groups i).any (fun g => decide (g / 8 = k)) then (u.taint i taintFrontend).abortAtBoundary i 0x51 else u) s1
    (s2.raise 0xE033 noSource k).domEvent (k + 1) 2

/-! HOST and LINK (R550). -/

/-- A request for Off or On reaches the HOST domain. -/
def State.hostWant (s : State) (off : Bool) : State :=
  if off = decide (s.get PWR_DOM_STATE_HOST ≠ 0) then s
  else if off then ((s.hostReset .linkDown).set PWR_DOM_STATE_HOST 2).domEvent 10 1
  else (s.set PWR_DOM_STATE_HOST 0).domEvent 10 0

/-- All six ports DOWN at once (R550). -/
def State.linksDown (s : State) : State :=
  let up := (List.range 6).filter (fun p => s.portUp p)
  if up = [] then s
  else
    (up.foldl
      (fun u p =>
        (((u.set (IAT_PORT_STAT_STATE p) 0).set (IAT_PORT_STAT_QUALIFIED p) 0).raise 0x9002 p 0).setPort p LinkPort.reset) s).treeEval []

/-- A request for Off or On reaches the LINK domain. -/
def State.linkWant (s : State) (off : Bool) : State :=
  if off = decide (s.get PWR_DOM_STATE_LINK ≠ 0) then s
  else if off then ((s.set PWR_DOM_STATE_LINK 2).linksDown).domEvent 11 1
  else (s.set PWR_DOM_STATE_LINK 0).domEvent 11 0

/-- A write to PWR_DOM_CTRL (R549, R550, R566): a bit that changes is a request, and so is Off for an octant in FAULT. -/
def State.domCtrlWrite (s : State) (o : Origin) (v : Word) : State :=
  let old := s.reg (PWR_DOM_CTRL_OCT 0).addr
  let s1 := s.regWrite o (PWR_DOM_CTRL_OCT 0).addr v
  let new := s1.reg (PWR_DOM_CTRL_OCT 0).addr
  let s2 := (List.range 8).foldl
    (fun u k =>
      let off := bitOf new.toNat k
      if off = bitOf old.toNat k ∧ !(off && decide (u.oct k = .fault)) then u else u.octWant k off) s1
  let s3 := if bitOf new.toNat 8 = bitOf old.toNat 8 then s2 else s2.hostWant (bitOf new.toNat 8)
  if bitOf new.toNat 9 = bitOf old.toNat 9 then s3 else s3.linkWant (bitOf new.toNat 9)

/-! Standby (R547). -/

/-- The banks that standby puts into Retain. -/
def State.standbyBanks (s : State) : List Nat := (List.range 64).filter (fun b => bitOf (s.get (PWR_STBY_BANKS (b / 32))) (b % 32))

/-- The requests of standby, none of which changes a register. -/
def State.standbyAsk (s : State) : State :=
  let s0 := s.updPwr (fun p => { p with standby := .waitDomains })
  let s1 := (List.range 8).foldl (fun u k => if bitOf (s.get PWR_STBY_CFG_OCT_OFF) k then u.octWant k true else u) s0
  let s2 := if s.bit PWR_STBY_CFG_DRAM_RETAIN then (s1.dramWant 1).updDrc (fun d => { d with stby := true }) else s1
  let s3 := if s.bit PWR_STBY_CFG_HOST_OFF then s2.hostWant true else s2
  let s4 := if s.bit PWR_STBY_CFG_LINK_OFF then s3.linkWant true else s3
  s.standbyBanks.foldl (fun u b => u.bankRequest b 1) s4

/-- Whether the DRAM is in none of the states between two others. -/
def State.dramSettled (s : State) : Bool :=
  let st := s.get DRC_STATUS_STATE
  decide (st = 0) || decide (st = 4) || decide (st = 6)

/-- Whether every request of standby has taken effect. -/
def State.standbyReady (s : State) : Bool :=
  (List.range 8).all (fun k => !bitOf (s.get PWR_STBY_CFG_OCT_OFF) k || decide (s.oct k = .off)) &&
    (!s.drc.stby || s.dramSettled) &&
    s.standbyBanks.all (fun b => (s.bank b).wants.isNone && (decide ((s.bank b).power = .retain) || decide ((s.bank b).power = .off)))

/-- Entry goes on: the requests once every site is quiet, STANDBY once they have taken effect. -/
def State.standbyGo (s : State) : State :=
  let s1 := if s.pwr.standby = .waitSites ∧ s.allQuiet then s.standbyAsk else s
  if s1.pwr.standby = .waitDomains ∧ s1.standbyReady then
    ((s1.updPwr (fun p => { p with standby := .entered })).set PWR_STATUS_DEV_STATE 4).raise 0xE021 noSource 0
  else s1

/-- PWR_CMD.STANDBY. -/
def State.standbyCmd (s : State) : State :=
  let st := s.get PWR_STATUS_DEV_STATE
  if st ≠ 2 ∧ st ≠ 3 then s.flag PWR_STATUS_STBY_BUSY
  else if s.pwr.standby ≠ .none then s
  else
    let s1 := s.updPwr (fun p => { p with standby := .waitSites })
    if s1.allQuiet then s1.standbyAsk else s1

/-- PWR_CMD.WAKE: every domain that standby has changed returns to the state its register names. -/
def State.wakeCmd (s : State) : State :=
  if s.pwr.standby ≠ .entered then s
  else
    let s0 := s.updPwr (fun p => { p with standby := .waking })
    let s1 := (List.range 8).foldl (fun u k => u.octWant k (u.bit (PWR_DOM_CTRL_OCT k))) s0
    let s2 := if s.drc.stby then (s1.updDrc (fun d => { d with stby := false })).dramWant (s.get DRC_PWR_CTRL_REQ) else s1
    let s3 := (s2.hostWant (s.bit PWR_DOM_CTRL_HOST)).linkWant (s.bit PWR_DOM_CTRL_LINK)
    (List.range 64).foldl (fun u b => u.bankRequest b (u.get (MEM_BANK_CTRL_REQ_B (b / 16) (b % 16)))) s3

/-- Whether every domain has reached the state its register names. -/
def State.woken (s : State) : Bool :=
  let st := s.get DRC_STATUS_STATE
  (List.range 8).all (fun k => decide (s.oct k ≠ .waking) && decide (s.oct k ≠ .pendingOff)) &&
    decide (st ≠ 1 ∧ st ≠ 3 ∧ st ≠ 5 ∧ (st = 4 → s.drc.want ≠ some 0)) &&
    (List.range 64).all (fun b =>
      (s.bank b).wants.isNone && decide ((s.bank b).power ≠ .waking) && decide ((s.bank b).power ≠ .clearing))

/-- STANDBY is left: READY, event 0xE022, and the held arms proceed. -/
def State.standbyExit (s : State) : State :=
  if s.pwr.standby = .waking ∧ s.woken then
    let s1 := ((s.updPwr (fun p => { p with standby := .none })).set PWR_STATUS_DEV_STATE 2).raise 0xE022 noSource 0
    s1.releaseArms.devState
  else s

/-- A write to PWR_CMD (R565): STANDBY, then WAKE. -/
def State.pwrCmd (s : State) (v : Word) : State :=
  let s1 := if fieldGet 0 1 v ≠ 0 then s.standbyCmd else s
  if fieldGet 1 1 v ≠ 0 then s1.wakeCmd else s1

/-! The commands. -/

/-- PACE_WINDOW_END (R12): the counts of the lanes in the window. -/
def execPaceWindowEnd (busy : List (Fin 64 × Nat)) (s : State) : Host.Outcome State Fault Refusal :=
  .next (s.paceWindow (busy.map (fun b => (b.1.val, b.2))))

/-- SUPPLY_SAMPLE (R552): the magnitudes of the nine supplies, in mV. -/
def execSupplySample (mv : Vector (BitVec 13) 9) (s : State) : Host.Outcome State Fault Refusal :=
  let vs := mv.toList.map BitVec.toNat
  match (List.range 9).find? (fun i => decide (supplyMax i < vs.getD i 0)) with
  | some i => .fault (.absoluteMaximum i)
  | none => .next (if s.heldReset then s else s.supplies vs)

/-- TWILIGHT_EXIT (R552). -/
def execTwilightExit (s : State) : Host.Outcome State Fault Refusal := .next s.twilightExit

/-- TEMP_SAMPLE (R556): the nine sensors, in °C. -/
def execTempSample (temp : Vector (BitVec 8) 9) (s : State) : Host.Outcome State Fault Refusal :=
  let ts := temp.toList.map BitVec.toInt
  match (List.range 9).find? (fun k => decide (125 < ts.getD k 0)) with
  | some k => .fault (.absoluteMaximum (16 + k))
  | none => .next (s.temps ts)

/-- AVS_READBACK (R554): the rail reads `mv`. -/
def execAvsReadback (mv : Fin 1024) (s : State) : Host.Outcome State Fault Refusal := .next (s.avsReadBack mv)

/-- AVS_RESPONSE_TIMEOUT (R554): of a write, or of a read. -/
def execAvsResponseTimeout (read : Bool) (s : State) : Host.Outcome State Fault Refusal := .next (s.avsTimeout read)

/-- DOMAIN_REQUEST (R549, R550): a write to PWR_DOM_CTRL. -/
def execDomainRequest (o : Origin) (v : Word) (s : State) : Host.Outcome State Fault Refusal := .next (s.domCtrlWrite o v)

/-- OCTANT_OFF_DONE (R549). -/
def execOctantOffDone (k : Fin 8) (s : State) : Host.Outcome State Fault Refusal := .next (s.octOffDone k)

/-- HEARTBEAT_TIMEOUT (R558). -/
def execHeartbeatTimeout (k : Fin 8) (s : State) : Host.Outcome State Fault Refusal := .next (s.octFault k)

/-- STANDBY (R547). -/
def execStandby (s : State) : Host.Outcome State Fault Refusal := .next s.standbyCmd

/-- STANDBY_ENTER (R547). -/
def execStandbyEnter (s : State) : Host.Outcome State Fault Refusal := .next s.standbyGo

/-- WAKE (R547). -/
def execWake (s : State) : Host.Outcome State Fault Refusal := .next s.wakeCmd

/-- STANDBY_EXIT (R547). -/
def execStandbyExit (s : State) : Host.Outcome State Fault Refusal := .next s.standbyExit

end Sys2Proof.Machine
end

