-- ==== Sys2Proof/Machine/Image.lean ====
section
/-! DEFINITION. Images and amendments as bytes (R501, R502), their checks (R503, R504, R511, R524), and the submission of an amendment. -/
namespace Sys2Proof.Machine

/-! Records (R502). -/

/-- The words of a payload. -/
def payloadWords (bs : List Byte) : List Nat := (List.range (bs.length / 4)).map (fun k => leAt bs (4 * k) 4)

/-- A record's contents from its kind and payload; none where the payload does not fit the kind. -/
def recordOf (kind : Nat) (pay : List Byte) : Option ImgRecord :=
  let ws := payloadWords pay
  let addr := ws.getD 0 0 + 2 ^ 32 * ws.getD 1 0
  match kind with
  | 1 => if pay.length = 8 then some (.host (word (ws.getD 0 0)) (word (ws.getD 1 0))) else none
  | 2 => if pay.length = 32 then some (.dram (ws.map word)) else none
  | 3 =>
    if pay.length % 8 = 0 then
      some (.reg ((List.range (pay.length / 8)).map (fun k => (ws.getD (2 * k) 0, word (ws.getD (2 * k + 1) 0)))))
    else none
  | 4 => if 8 ≤ pay.length ∧ addr % 4 = 0 then some (.mem addr (pay.drop 8)) else none
  | 5 => if pay.length = 16 ∧ addr % 4 = 0 ∧ ws.getD 2 0 % 4 = 0 then some (.fill addr (ws.getD 2 0) (word (ws.getD 3 0))) else none
  | 6 => some (.lock ws)
  | 7 => if pay = [] then some .end_ else none
  | _ => none

/-- The bytes of a record: header, payload, CRC word, and a pad word where the length would not be a multiple of 8. -/
def recordBytes (kind : Nat) (pay : List Byte) : List Byte :=
  let body := leBytes 4 kind ++ leBytes 4 pay.length ++ pay
  let all := body ++ leBytes 4 (crc32c body).toNat
  if all.length % 8 = 0 then all else all ++ List.replicate 4 0

/-- The record at the start of a list of bytes, with the bytes after it; none where it is cut off, of a wrong kind, or its CRC is wrong. -/
def parseRecord (bs : List Byte) : Option (ImgRecord × List Byte) :=
  let n := leAt bs 4 4
  let len := (8 + n + 4 + 7) / 8 * 8
  if bs.length < len ∨ n % 4 ≠ 0 ∨ leAt bs (8 + n) 4 ≠ (crc32c (bs.take (8 + n))).toNat then none
  else (recordOf (leAt bs 0 4) ((bs.drop 8).take n)).map (fun r => (r, bs.drop len))

/-- The records of a list of bytes up to END, and what follows it; none after the record of a number where one is bad. -/
def parseRecords : Nat → List Byte → List ImgRecord × Option (List Byte)
  | 0, _ => ([], none)
  | fuel + 1, bs =>
    match parseRecord bs with
    | none => ([], none)
    | some (r, rest) =>
      if r = .end_ then ([r], some rest)
      else
        let t := parseRecords fuel rest
        (r :: t.1, t.2)

/-- The range that a record writes in memory. -/
def ImgRecord.range : ImgRecord → Option (Nat × Nat)
  | .mem a d => some (a, d.length)
  | .fill a n _ => some (a, n)
  | _ => none

/-- The bytes that a MEM or FILL record writes. -/
def ImgRecord.data : ImgRecord → List Byte
  | .mem _ d => d
  | .fill _ n w => (List.replicate (n / 4) (leBytes 4 w.toNat)).flatten
  | _ => []

/-- Whether a record may write its range: wholly in on-chip memory outside the secure region and the banks given, or wholly in DRAM of a
usable capacity (R503). -/
def ImgRecord.placed (r : ImgRecord) (usable : Nat) (banks : List Nat) : Bool :=
  match r.range with
  | none => true
  | some (a, n) => (inOcm a n && !banks.any (fun b => reachesBank a n b)) || inDram usable a n

/-! Checks (R504, R511). -/

/-- The flash size F in bytes. -/
def State.flashSize (s : State) : Nat := s.get NVM_FLASH_INFO_SIZE * 2 ^ 20

/-- Header fields (R501). -/
def hdrMagic (h : List Byte) : Nat := leAt h 0 4
/-- FORMAT. -/
def hdrFormat (h : List Byte) : Nat := leAt h 4 4
/-- SEQ. -/
def hdrSeq (h : List Byte) : Nat := leAt h 8 4
/-- TARGET. -/
def hdrTarget (h : List Byte) : Nat := leAt h 0xC 4
/-- LENGTH. -/
def hdrLength (h : List Byte) : Nat := leAt h 0x10 4
/-- COUNT. -/
def hdrCount (h : List Byte) : Nat := leAt h 0x14 4
/-- BUILD_ID. -/
def hdrBuild (h : List Byte) : Nat := leAt h 0x18 8
/-- SITES. -/
def hdrSites (h : List Byte) : Nat := leAt h 0x20 2
/-- Whether UNSIGNED is 1. -/
def hdrUnsigned (h : List Byte) : Bool := bitOf (hdrFormat h) 16
/-- Whether PERSIST is 1. -/
def hdrPersist (h : List Byte) : Bool := bitOf (hdrFormat h) 18

/-- MAGIC, version, AMENDMENT and LENGTH: the result code of the first that is wrong (R504, R516). -/
def State.hdrBad (s : State) (h : List Byte) (amd : Bool) : Option Nat :=
  let f := hdrFormat h
  if hdrMagic h ≠ (if amd then 0x41444E4F else 0x49444E4F) then some 2
  else if f % 2 ^ 16 ≠ 1 ∨ bitOf f 17 ≠ amd ∨ hdrLength h % 8 ≠ 0 ∨ s.flashSize / 4 < hdrLength h + 256 then some 3
  else none

/-- The hash, state and signature checks: the result code of the first that fails (R504, R524). -/
def State.sigBad (s : State) (h recs : List Byte) : Option Nat :=
  if (h.drop 0x58).take 48 ≠ sha384 recs then some 6
  else if hdrUnsigned h then (if s.nv.lc = .blank then none else some 8)
  else
    match s.tokenKey with
    | none => some 7
    | some q =>
      if (h.drop 0x28).take 48 = sha384 (spkiDer q) ∧
          ecdsaVerify q (h.take 0x88) (beNat ((h.drop 0x88).take 48)) (beNat ((h.drop 0xB8).take 48)) = true then none
      else some 7

/-- Whether a record is one that an amendment may hold. -/
def ImgRecord.amendable : ImgRecord → Bool
  | .host _ _ => false
  | .dram _ => false
  | _ => true

/-- The records of an amendment. -/
def amdRecords (bs : List Byte) : List ImgRecord × Option (List Byte) :=
  parseRecords (hdrLength bs / 8) ((bs.drop 256).take (hdrLength bs))

/-- The result of the checks of an amendment (R511), and the number of the record at fault; `seq` is what its SEQ must exceed. -/
def State.amdResult (s : State) (bs : List Byte) (seq : Nat) : Nat × Nat :=
  match s.hdrBad bs true with
  | some r => (r, 0)
  | none =>
    if bs.length < 256 + hdrLength bs then (3, 0)
    else if hdrTarget bs ≠ s.get NVM_IMG_SEQ then (9, 0)
    else if hdrSeq bs ≤ seq then (0xA, 0)
    else
      let (rs, rest) := amdRecords bs
      match rs.findIdx? (fun r => !r.amendable || !r.placed s.usable []) with
      | some k => (5, k)
      | none =>
        if rest ≠ some [] ∨ rs.length ≠ hdrCount bs then (5, rs.length)
        else
          match s.sigBad bs ((bs.drop 256).take (hdrLength bs)) with
          | some r => (r, 0)
          | none => (0, 0)

/-- The bytes of the amendment at an on-chip address: the header alone where what it claims does not fit. -/
def State.amdBytes (s : State) (base : Nat) : List Byte :=
  if inOcm base 256 then
    let h := s.getRegion (s.region base) 256
    let n := hdrLength h
    if inOcm base (256 + n) then h ++ s.getRegion (s.region (base + 256)) n else h
  else []

/-- NVM_AMD_CMD.SUBMIT (R511): the amendment is read once. -/
def State.amdSubmit (s : State) : State :=
  if s.boot.amd.isSome then s.set NVM_AMD_STAT_RESULT 0xD
  else
    let base := s.get NVM_AMD_BASE / 256 * 256
    let bs := s.amdBytes base
    let s1 := if bs = [] then s else s.checkRegion (s.region base) bs.length
    (s1.set NVM_AMD_STAT_STATE 1).updBoot (fun b => { b with amd := some ⟨base, bs, .checking, false⟩ })

/-- A refused amendment changes nothing (R512). -/
def State.amdRefuse (s : State) (r : Nat) : State :=
  (((s.set NVM_AMD_STAT_STATE 0).set NVM_AMD_STAT_RESULT r).updBoot (fun b => { b with amd := none })).raise 0xF084 noSource r

/-- The check of an amendment completes (R511): whether one that was changed meanwhile is applied is a free value (R563). -/
def State.amdChecked (s : State) : State :=
  match s.boot.amd with
  | none => s
  | some a =>
    if a.phase ≠ .checking then s
    else
      let changed := decide (s.amdBytes a.base ≠ a.bytes)
      let r := s.amdResult a.bytes (s.get NVM_AMD_SEQ)
      let s1 := if r.1 = 5 then s.tickFresh.set NVM_RECORD_ERR_INDEX r.2 else s.tickFresh
      if changed && Config.freeBit s.fresh then s1.amdRefuse (2 + (Config.freeWord s.fresh).toNat % 9)
      else if r.1 ≠ 0 then s1.amdRefuse r.1
      else (s1.set NVM_AMD_STAT_STATE 2).updBoot (fun b => { b with amd := some { a with phase := .waiting } })

/-- AMD_SUBMIT (R511). -/
def execAmdSubmit (s : State) : Host.Outcome State Fault Refusal := .next s.amdSubmit

/-- AMD_CHECK_DONE (R511). -/
def execAmdCheckDone (s : State) : Host.Outcome State Fault Refusal := .next s.amdChecked

end Sys2Proof.Machine
end

