-- ==== Sys2Proof/Machine/Bus.lean ====
section
/-! DEFINITION. The bus (R4, R20 to R24, R404, R409, R412 to R414, R429, R430, R445, R476 to R479, R549): how an access of any origin
reads and writes registers and memory. An access that stalls changes nothing. -/
namespace Sys2Proof.Machine

/-! What a register shows. -/

/-- The present word of a register, those included that the hardware computes when they are read; SITE_FLAG_SET reads as SITE_FLAGS (R162). -/
def State.regNow (s : State) (a : Nat) : Word :=
  if 0x20000 ≤ a ∧ a < 0x30000 then (s.secWord (a - 0x20000)).getD (s.reg a)
  else if a = PWR_TWI_TIME.addr then word s.twiTime
  else if a = TB_REF_STATUS_HOLDOVER_MS.addr then
    match s.tb.holdover with
    | none => s.reg a
    | some t => fieldPut 16 16 (s.reg a) (min 65535 ((s.now - t) / ms))
  else if a = TB_MERIDIAN_LO_TICK_LO.addr then word s.meridian.1
  else if a = TB_MERIDIAN_HI_TICK_HI.addr then word (s.meridian.1 / 2 ^ 32)
  else if a = TB_MERIDIAN_FINE.addr then word s.meridian.2
  else if a = NVM_STATUS_STAGE.addr ∧ s.get NVM_STATUS_STAGE = 0 then fieldPut 0 4 (s.reg a) 1
  else if 0xD4000 ≤ a ∧ a < 0xE0000 ∧ s.bit CAL_CFG_VIEW then Sparse.get (fun _ => 0) s.cal.committed (a - 0xD0000)
  else if 0x1000000 ≤ a ∧ a < 0x2000000 ∧ a % 0x100000 = 0x24 then s.reg (a - 4)
  else if 0x8000000 ≤ a ∧ a < 0xA000000 then s.pinRead ((a - 0x8000000) / 0x10000) (a % 0x10000)
  else s.reg a

/-- The word a read of a described register returns: WO fields read 0 (R5). -/
def State.regShown (s : State) (a : Nat) : Word :=
  match lookupReg a with
  | none => 0
  | some d => s.regNow a &&& d.readMask

/-- A read of a described register (R4): a low word latches its high word for the origin, and a latched word is returned as it was. -/
def State.regFetch (s : State) (o : Origin) (a : Nat) (d : RegDesc) : State × Word :=
  if a = TB_MERIDIAN_LO_TICK_LO.addr then s.meridianRead o
  else if 0x1000000 ≤ a ∧ a < 0x2000000 ∧ a % 0x100000 = 0x40 then s.result0Read o ((a - 0x1000000) / 0x100000)
  else
    match s.latched o a with
    | some w => (s, w)
    | none => (if d.pair = .low then s.latch o (a + 4) (s.regShown (a + 4)) else s, s.regShown a)

/-- How the octant of a PIN block serves an access (R549). -/
def State.octServed (s : State) (p : Nat) : Served :=
  match s.oct (p / 64) with
  | .on => .ok
  | .pendingOff => .ok
  | .waking => .stall
  | .off => .off
  | .fault => .off

/-- The PIN block an offset lies in. -/
def pinOf (a : Nat) : Option Nat :=
  match decodeReg a with
  | some (.pin p, _) => some p
  | _ => none

/-- How the unit behind a register offset serves an access. -/
def State.regServed (s : State) (a : Nat) : Served :=
  match pinOf a with
  | none => .ok
  | some p => s.octServed p

/-- A driven change of the pin whose block is read that is due closes first (R100). -/
def State.readDue (s : State) (a : Nat) : State :=
  match pinOf a with
  | none => s
  | some p => s.closeDue p s.now

/-- A 32-bit read of the register range (R4, R21, R23, R488, R531, R549); none while it stalls. -/
def State.regRead (s : State) (o : Origin) (a : Nat) : Option (State × Word) :=
  if (decodeReg a).isNone then some (s.unmapped a, 0)
  else if s.regDenied o a false then some (s.regDeny o, 0)
  else if 0xA000000 ≤ a then some (s, 0)
  else
    match s.regServed a with
    | .stall => none
    | .off => some (s.flag PWR_STATUS_OFF_ACCESS, 0)
    | .ok =>
      match lookupReg a with
      | none => some (s, 0)
      | some d => some ((s.readDue a).regFetch o a d)

/-! What a register write does. -/

/-- A write in the SYS block. -/
def State.sysWrite (s : State) (o : Origin) (a : Nat) (v : Word) : State :=
  if 0x100 ≤ a ∧ a < 0x128 then s.groupMapWrite o a v
  else if a = 0x128 then s.levelWrite o v
  else if 0x8000 ≤ a then s.msixWrite o a v
  else s.regWrite o a v

/-- A write in the EVT block. -/
def State.evtWrite (s : State) (o : Origin) (off : Nat) (v : Word) : State :=
  if off = 0 then s.evtCfgWrite o v
  else if off = 4 ∨ off = 8 then s.evtRingWrite o (0x10000 + off) v
  else if off = 0x10 then s.evtTailWrite v
  else if off = 0x80 ∨ off = 0x84 then s.armWrite ((off - 0x80) / 4) v
  else if off = 0xA4 then s.mboxCmd v
  else s.regWrite o (0x10000 + off) v

/-- A write in the AUD block. -/
def State.audWrite (s : State) (o : Origin) (off : Nat) (v : Word) : State :=
  if off = 0 then s.audCfgWrite o v
  else if off = 0xC then s.audRingSet o [(0x3000C, v)]
  else if off = 0x14 then s.audTailWrite v
  else if off = 0x1C then (if fieldGet 0 1 v = 0 then s else s.checkpoint o.code)
  else s.regWrite o (0x30000 + off) v

/-- A write in the PWR block. -/
def State.pwrWrite (s : State) (o : Origin) (off : Nat) (v : Word) : State :=
  if off = 4 then s.pwrCmd v
  else if off = 8 then s.domCtrlWrite o v
  else if off = 0x20 then s.avsCfgWrite o v
  else if 0x40 ≤ off ∧ off < 0x64 then s.supCfgWrite o ((off - 0x40) / 4) v
  else if off = 0x100 then s.thermCfgWrite o v
  else s.regWrite o (0x40000 + off) v

/-- A write in the TB block. -/
def State.tbWrite (s : State) (o : Origin) (off : Nat) (v : Word) : State :=
  if off = 0 then s.refCfgWrite o v
  else if off = 0x24 then s.epochCmd v
  else if off = 0x70 ∨ (0x80 ≤ off ∧ off < 0xC0) then s.gridWrite o off v
  else s.regWrite o (0x50000 + off) v

/-- A write in the MEM block. -/
def State.memWrite (s : State) (o : Origin) (off : Nat) (v : Word) : State :=
  if off = 0x28 then s.memCmd v
  else if 0x40 ≤ off ∧ off < 0x50 then s.bankCtrlWrite o ((off - 0x40) / 4) v
  else s.regWrite o (0x60000 + off) v

/-- A write in the DRC block. -/
def State.drcWrite (s : State) (o : Origin) (off : Nat) (v : Word) : State :=
  if off = 0x20 then (if fieldGet 8 1 v = 0 then s else s.fspGo (fieldGet 0 2 v))
  else if off = 0x24 then (if fieldGet 0 1 v = 0 then s else s.trainGo)
  else if off = 0x30 then s.drcPwrWrite o v
  else if off = 0x50 then (if fieldGet 0 1 v = 0 then s else s.drcClrCounts)
  else s.regWrite o (0x70000 + off) v

/-- A write in the DMA block. -/
def State.dmaWrite (s : State) (o : Origin) (off : Nat) (v : Word) : State :=
  let n := (off - 0x100) / 0x40
  let r := off % 0x40
  if off < 0x100 then s.regWrite o (0x80000 + off) v
  else if r = 0 then s.chCtrlWrite o n v
  else if r = 4 ∨ r = 8 ∨ r = 0x10 then s.chRingWrite o n (0x80000 + off) v
  else if r = 0xC then (if fieldGet 0 1 v = 0 then s else s.doorbell n)
  else s.regWrite o (0x80000 + off) v

/-- A write in the XE block. -/
def State.xeWrite (s : State) (o : Origin) (off : Nat) (v : Word) : State :=
  let i := (off - 0x100) / 0x40
  let r := off % 0x40
  if 0x1000 ≤ off then
    (if off % 0x20 < 0x18 then s.xePortWrite o ((off - 0x1000) / 0x20) (0x90000 + off) v else s.regWrite o (0x90000 + off) v)
  else if off < 0x100 then s.regWrite o (0x90000 + off) v
  else if r = 0x1C then s.resTailWrite o i v
  else if r = 0x2C then (if fieldGet 16 1 v = 0 then s else s.listRun o i (fieldGet 0 16 v))
  else s.regWrite o (0x90000 + off) v

/-- A write in the RED block. -/
def State.redWrite (s : State) (o : Origin) (off : Nat) (v : Word) : State :=
  if off = 0x10 then (if fieldGet 16 1 v = 0 then s else s.redSnap (fieldGet 0 10 v))
  else if off = 0x60 then (if fieldGet 31 1 v = 0 then s else s.redClear (fieldGet 0 10 v) (fieldGet 16 10 v))
  else if off = 0x70 then (if fieldGet 31 1 v = 0 then s else s.redDump (fieldGet 0 10 v) (fieldGet 16 10 v))
  else if off = 0x88 then s.ivlRingSet o 2 v
  else if off = 0x90 then (s.regWrite o (0xA0000 + off) v).ivlTail
  else s.regWrite o (0xA0000 + off) v

/-- A write in the SVC block. -/
def State.svcWrite (s : State) (o : Origin) (off : Nat) (v : Word) : State :=
  let i := (off - 0x1000) / 0x100
  let r := off % 0x100
  if off < 0x1000 ∨ 0x2000 ≤ off then s.regWrite o (0xB0000 + off) v
  else if r = 0x14 then s.svcCmd i v
  else if r = 0x2C then s.dlogRingSet o i 2 v
  else if r = 0x34 then s.dlogTailWrite o i v
  else s.regWrite o (0xB0000 + off) v

/-- A write in the IAT block. -/
def State.iatWrite (s : State) (o : Origin) (off : Nat) (v : Word) : State :=
  if off < 0x10 then s.iatCfgWrite o (0xC0000 + off) v
  else if off = 0x18 then (if v = 0 then s else s.originEvent v.toNat 0)
  else if off = 0x1C then (if v = 0 then s else s.originEvent 0 v.toNat)
  else if off = 0x24 then s.iatCmd o v
  else if off = 0x3C then s.msgCmd v
  else if 0x100 ≤ off ∧ off < 0x1C0 ∧ off % 0x20 = 0 then s.portCfgWrite o ((off - 0x100) / 0x20) v
  else s.regWrite o (0xC0000 + off) v

/-- CAL_ALM_CMD.SAVE asked for by a register write (R394): it is busy until what the two slots hold has been read. -/
def State.almAsk (s : State) : State := s.flag CAL_ALM_STAT_BUSY

/-- A write in the CAL block. -/
def State.calWrite (s : State) (o : Origin) (off : Nat) (v : Word) : State :=
  if off = 8 then s.calCmd o v
  else if off = 0x48 then (if fieldGet 0 1 v = 0 then s else s.almAsk)
  else s.regWrite o (0xD0000 + off) v

/-- A write in the NVM block. -/
def State.nvmWrite (s : State) (o : Origin) (off : Nat) (v : Word) : State :=
  if off = 0x10 then s.nvmReset v
  else if off = 0x34 then (if fieldGet 0 1 v = 0 then s else s.amdSubmit)
  else s.regWrite o (0xE0000 + off) v

/-- A write in a SITE block. -/
def State.siteWrite (s : State) (o : Origin) (i off : Nat) (v : Word) : State :=
  let a := 0x1000000 + 0x100000 * i + off
  if off = 0 then s.seqCmd o i v
  else if off = 0x10 ∨ off = 0x14 then s.segtabWrite o i a v
  else if off = 0x18 then s.segCmd i v .ok
  else if off = 0x20 then s.flagClear i v
  else if off = 0x24 then s.flagSet i v
  else if off = 0x38 then s.resultRingWrite o i v
  else if off = 0x1390 then s.flogSizeWrite o i v
  else s.regWrite o a v

/-- A write of a register that is a word of its own takes effect, in the block it lies in. -/
def State.effect32 (s : State) (o : Origin) (b : BlockRef) (off : Nat) (v : Word) : State :=
  match b with
  | .unit .sys => s.sysWrite o off v
  | .unit .evt => s.evtWrite o off v
  | .unit .sec => if off = 8 then s.secCmd o v else s.regWrite o (0x20000 + off) v
  | .unit .aud => s.audWrite o off v
  | .unit .pwr => s.pwrWrite o off v
  | .unit .tb => s.tbWrite o off v
  | .unit .mem => s.memWrite o off v
  | .unit .drc => s.drcWrite o off v
  | .unit .dma => s.dmaWrite o off v
  | .unit .xe => s.xeWrite o off v
  | .unit .red => s.redWrite o off v
  | .unit .svc => s.svcWrite o off v
  | .unit .iat => s.iatWrite o off v
  | .unit .cal => s.calWrite o off v
  | .unit .nvm => s.nvmWrite o off v
  | .site i => s.siteWrite o i off v
  | .pin p => s.pinWrite o false p off v
  | .group _ => s
  | .allPins => s

/-! 64-bit values (R4). -/

/-- A 64-bit value takes effect as a whole; `a` is its low word. -/
def State.effect64 (s : State) (o : Origin) (quiet : Bool) (a : Nat) (lo hi : Word) : State :=
  if a = AUD_RING_BASE_LO_BASE.addr then s.audRingSet o [(a, lo), (a + 4, hi)]
  else if a = TB_EPOCH_NEXT_LO_NEXT.addr then s.epochNextWrite o lo hi
  else if a = RED_IVL_BASE_LO_BASE.addr then s.ivlBaseWrite o lo hi
  else if 0x90100 ≤ a ∧ a < 0x90500 ∧ a % 0x40 = 0xC then
    (s.resBaseWrite o ((a - 0x90100) / 0x40) a lo).resBaseWrite o ((a - 0x90100) / 0x40) (a + 4) hi
  else if 0xB1000 ≤ a ∧ a < 0xB2000 ∧ a % 0x100 = 0x24 then
    s.dlogBaseWrite o ((a - 0xB1000) / 0x100) lo hi
  else if 0x1000000 ≤ a ∧ a < 0x2000000 ∧ a % 0x100000 = 0x1388 then s.flogBaseWrite o ((a - 0x1000000) / 0x100000) lo hi
  else (s.regPut o quiet a lo).regPut o quiet (a + 4) hi

/-- A write of a described register by its place in a 64-bit value: alone, held, or completing the value. -/
def State.effect (s : State) (o : Origin) (quiet : Bool) (b : BlockRef) (a off : Nat) (d : RegDesc) (v : Word) : State :=
  match d.pair with
  | .low => s.holdLow o a v
  | .high => (s.dropLow o (a - 4)).effect64 o quiet (a - 4) ((s.heldLow o (a - 4)).getD (s.reg (a - 4))) v
  | .single =>
    match b with
    | .pin p => s.pinWrite o quiet p off v
    | b => s.effect32 o b off v

/-! Broadcasts (R23, R536, R549). -/

/-- The pins of a broadcast block. -/
def castPins : BlockRef → List Nat
  | .group g => (List.range 8).map (fun k => 8 * g + k)
  | .allPins => List.range 512
  | _ => []

/-- The record of a broadcast: one, if a CFG field of some target changed; OLD is 0, and NEW that of the lowest target that changed
(R536). -/
def State.castAudit (s s0 : State) (o : Origin) (a off : Nat) (d : RegDesc) (ps : List Nat) : State :=
  match ps.find? (fun p => decide ((s0.pinRead p off ^^^ s.pinRead p off) &&& d.cfgMask ≠ 0)) with
  | none => s
  | some p => s.audit 1 o a 0 (s.pinRead p off).toNat 1

/-- A broadcast write: the value is written to every target whose octant is not Off (R23, R549); none while an octant of a target
wakes. -/
def State.castWrite (s : State) (o : Origin) (b : BlockRef) (a off : Nat) (v : Word) : Option State :=
  let all := castPins b
  if all.any (fun p => decide (s.octServed p = .stall)) then none
  else
    match pinRegs.find? (fun d => d.covers off) with
    | none => some s
    | some d =>
      let ps := all.filter (fun p => decide (s.octServed p = .ok))
      let s1 := ps.foldl (fun u p => u.effect o true (.pin p) (pinReg p off) off d v) s
      some (match d.pair with
        | .high =>
          (match pinRegs.find? (fun (e : RegDesc) => e.covers (off - 4)) with
            | none => s1
            | some e => s1.castAudit s o (a - 4) (off - 4) e ps).castAudit s o a off d ps
        | _ => s1.castAudit s o a off d ps)

/-- A 32-bit write of the register range (R4, R21, R23, R488, R531, R549); none while it stalls. -/
def State.regStore (s : State) (o : Origin) (a : Nat) (v : Word) : Option State :=
  match decodeReg a with
  | none => some (s.unmapped a)
  | some (b, off) =>
    if s.regDenied o a true then some (s.regDeny o)
    else if 0xA000000 ≤ a then s.castWrite o b a off v
    else
      match s.regServed a with
      | .stall => none
      | .off => some (s.flag PWR_STATUS_OFF_ACCESS)
      | .ok =>
        match lookupReg a with
        | none => some s
        | some d => some (s.effect o false b a off d v)

/-- A register access of a width other than 32 bits (R4, R479). -/
def State.badWidth (s : State) : State := (s.count SYS_BAD_WIDTH_COUNT 1).flag SYS_HOST_STATUS_BAD_WIDTH

/-! Memory, in pieces that lie in one word, or in one 64-bit pair of DRAM. -/

/-- What an access of a piece has read: the state, its bytes, and whether they are marked as bad. -/
abbrev Got := State × List Byte × Bool

/-- Whether a piece stalls (R413, R445); a denied access never waits (R415). -/
def State.pieceStalls (s : State) (o : Origin) (addr n : Nat) : Bool :=
  let ocm (x : Nat) : Bool := !(inSecure x && s.secureDenies o) && decide (s.rangeServed (.ocm x) n = .stall)
  match s.region addr with
  | .ocm x => ocm x
  | .setAlias x => ocm x
  | .clearAlias x => ocm x
  | .dram x => decide (s.rangeServed (.dram x) n = .stall)
  | _ => false

/-- On-chip bytes read at port B (R404, R407, R412, R414). -/
def State.ocmPiece (s : State) (o : Origin) (x n : Nat) : Got :=
  if inSecure x && s.secureDenies o then (s.secureDenied x, List.replicate n 0, false)
  else if s.rangeServed (.ocm x) n = .off then (s.offAccess (.ocm x), List.replicate n 0, false)
  else (s.ocmCheck x n, s.ocmRead x n, !(s.ocmBad x n).isEmpty)

/-- A piece read; reads through an alias return the word (R409). -/
def State.pieceRead (s : State) (o : Origin) (addr n : Nat) : Got :=
  match s.region addr with
  | .ocm x => s.ocmPiece o x n
  | .setAlias x => s.ocmPiece o x n
  | .clearAlias x => s.ocmPiece o x n
  | .dram x =>
    if s.rangeServed (.dram x) n = .off then (s.offAccess (.dram x), List.replicate n 0, false)
    else (s.dramCheck x n, s.dramRead x n, !(s.dramBad x n).isEmpty)
  | _ => (s.unmapped addr, List.replicate n 0, false)

/-- The enabled bytes of a write put over what stands there. -/
def merge : List Byte → List (Option Byte) → List Byte
  | b :: bs, v :: vs => v.getD b :: merge bs vs
  | bs, _ => bs

/-- Enabled bytes of one on-chip word written (R404): a whole word replaces it, less is one read-modify-write. -/
def State.ocmStore (s : State) (x : Nat) (vs : List (Option Byte)) : State :=
  if vs.all (fun v => v.isNone) then s
  else if vs.length = 4 ∧ vs.all (fun v => v.isSome) then (s.ocmWrite x (merge (s.ocmRead x 4) vs)).ocmClean x
  else if s.memUe.contains (s.physByte x / 4) then (s.ocmUe (x / 4 * 4)).flag MEM_STATUS_RMW_UE
  else s.ocmWrite x (merge (s.ocmRead x vs.length) vs)

/-- Enabled bytes of one 64-bit pair of DRAM written (R429, R430). -/
def State.dramStore (s : State) (x : Nat) (vs : List (Option Byte)) : State :=
  if vs.all (fun v => v.isNone) then s
  else if vs.length = 8 ∧ vs.all (fun v => v.isSome) then (s.dramWrite x (merge (s.dramRead x 8) vs)).dramClean x
  else if s.dramUe.contains (x / 8) then (s.count DRC_UE_COUNT 1).flag DRC_STATUS_RMW_UE
  else s.dramWrite x (merge (s.dramRead x vs.length) vs)

/-- An alias write of a piece of a word (R409): `f` combines the byte with the data, which is 0 where it is not enabled (R476). -/
def State.aliasStore (s : State) (x : Nat) (vs : List (Option Byte)) (f : Byte → Byte → Byte) : State :=
  if s.memUe.contains (s.physByte x / 4) then s.ocmUe (x / 4 * 4)
  else s.ocmWrite x ((s.ocmRead x vs.length).zipWith f (vs.map (fun v => v.getD 0)))

/-- What port B does with a write of a piece of the on-chip memory. -/
def State.ocmGuard (s : State) (o : Origin) (x n : Nat) (f : State → State) : State :=
  if inSecure x && s.secureDenies o then s.secureDenied x
  else if s.rangeServed (.ocm x) n = .off then s.offAccess (.ocm x)
  else f s

/-- A piece written. -/
def State.pieceWrite (s : State) (o : Origin) (addr : Nat) (vs : List (Option Byte)) : State :=
  match s.region addr with
  | .ocm x => s.ocmGuard o x vs.length (fun u => u.ocmStore x vs)
  | .setAlias x => s.ocmGuard o x vs.length (fun u => u.aliasStore x vs (fun a b => a ||| b))
  | .clearAlias x => s.ocmGuard o x vs.length (fun u => u.aliasStore x vs (fun a b => a &&& ~~~b))
  | .dram x =>
    if s.rangeServed (.dram x) vs.length = .off then s.offAccess (.dram x) else s.dramStore x vs
  | _ => s.unmapped addr

/-- The unit in which a memory is accessed: a word, or a 64-bit pair of DRAM. -/
def pieceUnit (addr : Nat) : Nat := if dramBase ≤ addr then 8 else 4

/-- A range cut into pieces: address and length. -/
def pieces : Nat → Nat → Nat → List (Nat × Nat)
  | 0, _, _ => []
  | fuel + 1, addr, n =>
    if n = 0 then []
    else
      let k := min n (pieceUnit addr - addr % pieceUnit addr)
      (addr, k) :: pieces fuel (addr + k) (n - k)

/-- Whether an access of memory stalls. -/
def State.memStalls (s : State) (o : Origin) (addr n : Nat) : Bool :=
  (pieces n addr n).any (fun p => s.pieceStalls o p.1 p.2)

/-- Memory read, piece by piece. -/
def State.memRead (s : State) (o : Origin) (addr n : Nat) : Got :=
  (pieces n addr n).foldl
    (fun g p =>
      let h := g.1.pieceRead o p.1 p.2
      (h.1, g.2.1 ++ h.2.1, g.2.2 || h.2.2)) (s, [], false)

/-- Memory written, piece by piece; a site that is using a byte of it has an undefined waveform from then on (R131, R326). -/
def State.memStore (s : State) (o : Origin) (addr : Nat) (vs : List (Option Byte)) : State :=
  (pieces vs.length addr vs.length).foldl (fun u p => u.pieceWrite o p.1 ((vs.drop (p.1 - addr)).take p.2)) (s.touch addr vs.length)

/-! Port A and port B in one bank operation (R406). -/

/-- The words that port A writes, by word number. -/
abbrev PortAWords := List (Nat × Word)

/-- The words of operations of port A. -/
def PortAOps.words (a : PortAOps) : PortAWords := a.map (fun w => (w.1.val, w.2))

/-- A port B write of on-chip memory: through an alias or not, its first byte, its length, and which of its bytes are enabled. -/
structure PortBRange where
  aliased : Bool
  first : Nat
  len : Nat
  enabled : Nat → Bool

/-- Whether a port B write writes a word: not, where it is a read-modify-write of an uncorrectable one (R404, R409). -/
def State.portBWrites (s : State) (r : PortBRange) (j : Nat) : Bool :=
  let within (k : Nat) : Bool := decide (r.first ≤ 4 * j + k) && decide (4 * j + k < r.first + r.len)
  let writes (k : Nat) : Bool := within k && (r.aliased || r.enabled (4 * j + k - r.first))
  (List.range 4).any writes && (!s.memUe.contains (s.physByte (4 * j) / 4) || (!r.aliased && (List.range 4).all writes))

/-- Port A writes a word in the same bank operation as port B (R406): its word remains; data that differ are a collision. -/
def State.collide (s : State) (j : Nat) (w : Word) : State :=
  let a := ocmBase + 4 * j
  if s.ocmWord (4 * j) = w then s
  else
    let s1 := s.count MEM_COLL_COUNT 1
    (if s1.bit MEM_STATUS_COLLISION then s1 else s1.set MEM_COLL_ADDR a).flagOnce MEM_STATUS_COLLISION 0xB003 noSource a

/-- The words that port A writes in the bank operations of a port B write, which `before` was the state of; `done` tells whether port B
was served. -/
def State.portAMeets (s before : State) (done : Bool) (r : PortBRange) (l : PortAWords) : State :=
  l.foldl
    (fun u e =>
      if u.bankServed (bankOf (4 * e.1)) ≠ .ok then u
      else
        let u1 := if done && before.portBWrites r e.1 then u.collide e.1 e.2 else u
        (u1.ocmWrite (4 * e.1) (leBytes 4 e.2.toNat)).ocmClean (4 * e.1)) s

/-! Accesses of device addresses. -/

/-- Whether a device address lies in the register range (R20). -/
def inRegs (addr : Nat) : Bool := decide (addr < 0x10000000)

/-- Whether a range is part of the MSI-X table or the pending-bit array, which take aligned 64-bit accesses too (R479). -/
def msixPair (addr n : Nat) : Bool :=
  decide (n = 8) && decide (addr % 8 = 0) && ((decide (0x8000 ≤ addr) && decide (addr < 0x8400)) || decide (addr = 0x9000))

/-- Bytes read by an access (R20, R21, R476): in the register range one aligned 32-bit register, or the pairs of R479; none while it
stalls. -/
def State.busGet (s : State) (o : Origin) (addr n : Nat) : Option Got :=
  if inRegs addr then
    if n = 4 ∧ addr % 4 = 0 then (s.regRead o addr).map (fun r => (r.1, leBytes 4 r.2.toNat, false))
    else if msixPair addr n then
      (s.regRead o addr).bind (fun r => (r.1.regRead o (addr + 4)).map (fun q =>
        (q.1, leBytes 4 r.2.toNat ++ leBytes 4 q.2.toNat, false)))
    else some (s.badWidth, List.replicate n 0, false)
  else if s.memStalls o addr n then none
  else some (s.memRead o addr n)

/-- The word of four enabled bytes. -/
def wordBytes (vs : List (Option Byte)) : Word := word (leNat (vs.map (fun v => v.getD 0)))

/-- Bytes written by an access; none while it stalls. In the register range an access that is not one aligned word with every byte enabled, nor
a pair of R479, is taken as one of another width (DESIGN CHOICE, log 143). -/
def State.busPut (s : State) (o : Origin) (addr : Nat) (vs : List (Option Byte)) : Option State :=
  let all := vs.all (fun v => v.isSome)
  if inRegs addr then
    if vs.length = 4 ∧ addr % 4 = 0 ∧ all then s.regStore o addr (wordBytes vs)
    else if msixPair addr vs.length && all then
      (s.regStore o addr (wordBytes (vs.take 4))).bind (fun u => u.regStore o (addr + 4) (wordBytes (vs.drop 4)))
    else some s.badWidth
  else if s.memStalls o addr vs.length then none
  else some (s.memStore o addr vs)

/-- A 32-bit word read at a device address. -/
def State.busWord (s : State) (o : Origin) (addr : Nat) : Option (State × Word × Bool) :=
  (s.busGet o addr 4).map (fun g => (g.1, word (leNat g.2.1), g.2.2))

/-- A 32-bit word written at a device address. -/
def State.busSet (s : State) (o : Origin) (addr : Nat) (v : Word) : Option State :=
  s.busPut o addr ((leBytes 4 v.toNat).map some)

/-! Messages of a peer (R362). -/

/-- Whether an access of a peer is denied: bit 63, a write while PEER_WR is 0, the SEC and AUD blocks, the secure region. -/
def State.peerDenied (s : State) (addr : Nat) (write : Bool) : Bool :=
  decide (2 ^ 63 ≤ addr) || (write && !s.bit IAT_CFG_PEER_WR) || rangesMeet addr 4 0x20000 0x20000 || (secureAt addr 4).isSome

/-- The status bits of a denied access of a peer to a protected resource (R414, R531). -/
def State.peerDeny (s : State) (addr : Nat) : State :=
  match secureAt addr 4 with
  | some x => s.secureDenied (x - ocmBase)
  | none => if rangesMeet addr 4 0x20000 0x20000 then s.regDeny .peer else s

/-- Whether a device address is unmapped. -/
def State.addrUnmapped (s : State) (addr : Nat) : Bool := decide (s.region addr = .unmapped addr)

/-- The answer of a message: MSG_RSP with the data and the result. -/
def State.msgAnswer (s : State) (src : Nat) (data : Word) (result : Nat) : State :=
  s.route ⟨ftMsgRsp, 0, s.get IAT_CFG_ADDR, src, 0, [data.toNat + 2 ^ 32 * result]⟩

/-- A message performed and answered; none while its access stalls. -/
def State.peerAccess (s : State) (src addr : Nat) (data : Option Word) : Option State :=
  if s.peerDenied addr data.isSome then some ((s.peerDeny addr).msgAnswer src 0 1)
  else
    let res := if s.addrUnmapped addr then 2 else 0
    match data with
    | none => (s.busWord .peer addr).map (fun r => r.1.msgAnswer src r.2.1 res)
    | some v => (s.busSet .peer addr v).map (fun u => u.msgAnswer src 0 res)

/-! Accesses that come from outside. -/

/-- An access performed, with what leaves the device; none while it stalls. -/
def State.busPerform (s : State) (o : Origin) (op : BusOp) : Option State :=
  match op with
  | .read a => (s.busWord o a).map (fun r => r.1.emit (.read o a r.2.1))
  | .write a v => s.busSet o a v
  | .get a n =>
    (s.busGet o a n).map (fun g =>
      let s1 := g.1.emit (.data o a g.2.1 g.2.2)
      if o = .host then (s1.flagIf g.2.2 SYS_HOST_STATUS_POISONED).emit (.completion cplSc) else s1)
  | .put a vs => s.busPut o a vs
  | .peer src a data => s.peerAccess src a data

/-- The device address of an access. -/
def BusOp.addr : BusOp → Nat
  | .read a => a
  | .write a _ => a
  | .get a _ => a
  | .put a _ => a
  | .peer _ a _ => a

end Sys2Proof.Machine
end

