-- ==== Sys2Proof/Machine/DmaMove.lean ====
section
/-! DEFINITION. The data that DMA descriptors move, and how they end (R458, R460, R462, R465). -/
namespace Sys2Proof.Machine

/-- What a source read gives: the state, the bytes, and whether a word is uncorrectable; none while it stalls. -/
def State.dmaRead (s : State) (o : Origin) (addr n : Nat) (host : List Byte) : Option Got :=
  if 2 ^ 63 ≤ addr then some (s, host.take n, false)
  else if inRegs addr then
    (List.range (n / 4)).foldl
      (fun g k => g.bind (fun x =>
        (x.1.busWord o (addr + 4 * k)).map (fun r => (r.1, x.2.1 ++ leBytes 4 r.2.1.toNat, x.2.2)))) (some (s, [], false))
  else s.busGet o addr n

/-- A destination write, of bytes with enables; in the register range it writes the words of which every byte is enabled. -/
def State.dmaWriteTo (s : State) (o : Origin) (addr : Nat) (vs : List (Option Byte)) : Option State :=
  if 2 ^ 63 ≤ addr then
    some (if vs.all (fun v => v.isSome) then s.emit (.hostWrite (addr - 2 ^ 63) (vs.map (fun v => v.getD 0))) else s)
  else if inRegs addr then
    (List.range (vs.length / 4)).foldl
      (fun g k => g.bind (fun u =>
        let w := (vs.drop (4 * k)).take 4
        if w.all (fun v => v.isSome) then u.busPut o (addr + 4 * k) w else some u)) (some s)
  else s.busPut o addr vs

/-- Whether SRC and DST of a COPY overlap (R460). -/
def DmaDesc.overlaps (d : DmaDesc) : Bool := decide (d.op = 0) && rangesMeet d.src d.length d.dst d.length

/-- The bytes that a descriptor writes at an offset, with the length it asks for: of a FILL, its pattern; of a COPY what SRC holds, a free
value where the ranges overlap. `host` are the bytes that host memory delivers. -/
def State.dmaData (s : State) (o : Origin) (d : DmaDesc) (off n : Nat) (host : List Byte) : Option Got :=
  if d.op = 1 then some (s, (List.range n).map (fun j => (leBytes 4 d.pattern).getD ((off + j) % 4) 0), false)
  else
    (s.dmaRead o (d.src + off) n host).map (fun g =>
      if d.overlaps then
        (g.1.skipFresh n, (List.range g.2.1.length).map (fun j => Config.freeByte (g.1.fresh + j)), g.2.2)
      else g)

/-- The length of the next part of a descriptor: up to the end of a 32 B line of the source (of DST for a FILL), of the descriptor, and of
what is asked for. -/
def DmaDesc.part (d : DmaDesc) (asked : Nat) : Nat :=
  let at_ := (if d.op = 1 then d.dst else d.src) + d.done
  min (min (32 - at_ % 32) (d.length - d.done)) asked

/-- The source line that holds the next byte of a COPY, as far as it lies in the range. -/
def DmaDesc.line (d : DmaDesc) : Nat × Nat :=
  let a := d.src + d.done
  let lo := max d.src (a / 32 * 32)
  (lo, min (d.src + d.length) (a / 32 * 32 + 32) - lo)

/-- Whether the source line of the next byte holds an uncorrectable word (R462). -/
def State.lineBad (s : State) (d : DmaDesc) : Bool := decide (d.op = 0) && s.badRegion (s.region d.line.1) d.line.2

/-- The uncorrectable words of that line reported (R407, R430). -/
def State.lineReport (s : State) (d : DmaDesc) : State := s.checkRegion (s.region d.line.1) d.line.2

/-- A part of the descriptor of channel n stalls at an address: it waits, with those that arrived before it (R24, R413, R445, R549). -/
def State.dmaAwait (s : State) (n asked : Nat) (host : List Byte) (addr : Nat) : State :=
  let o := (s.chan n).origin
  (s.updHost (fun h => { h with waiting := h.waiting ++ [⟨o, .dma n asked host, s.now⟩] })).emit (.stalled o addr)

/-- Whether a part of the descriptor of channel n waits. -/
def State.dmaWaits (s : State) (n : Nat) : Bool :=
  s.host.waiting.any (fun w => match w.op with
    | .dma m _ _ => decide (m = n)
    | _ => false)

/-- The descriptor of channel n moves up to `asked` more bytes, a line at a time, in ascending order (R460, R462); what it reads and writes in DRAM asks
the controller (R196). -/
def State.dmaMove (n : Nat) : Nat → State → Nat → List Byte → State
  | 0, s, _, _ => s
  | fuel + 1, s, asked, host =>
    match (s.chan n).cur with
    | none => s
    | some d =>
      let k := d.part asked
      if k = 0 ∨ d.status.isSome then s
      else if s.lineBad d then (s.lineReport d).updDesc n (fun e => { e with status := some 4 })
      else
        match s.dmaData (s.chan n).origin d d.done k host with
        | none => s.dmaAwait n asked host (d.src + d.done)
        | some g =>
          let m := g.2.1.length / 4 * 4
          if m = 0 then s
          else
            match g.1.dmaWriteTo (s.chan n).origin (d.dst + d.done) ((g.2.1.take m).map some) with
            | none => s.dmaAwait n asked host (d.dst + d.done)
            | some u =>
              let u1 := (u.updDesc n (fun e => { e with done := e.done + m })).set (DMA_CH_CUR_DONE_BYTES n) (d.done + m)
              let u2 := (if d.op = 1 then u1 else u1.dramAsk .other (u1.region (d.src + d.done)) m).dramAsk .other
                (u1.region (d.dst + d.done)) m
              State.dmaMove n fuel u2 (asked - m) (if 2 ^ 63 ≤ d.src + d.done then host.drop m else host)

/-- The checks of R460, made once, before a descriptor moves data. -/
def State.dmaCheck (s : State) (n : Nat) (d : DmaDesc) : State :=
  if d.checked || d.status.isSome then s
  else
    let r := s.descCheck n d
    r.1.updDesc n (fun e => { e with checked := r.2.isNone, status := r.2 })

/-- A descriptor of one operation goes on, unless a part of it waits: its checks, then up to `asked` bytes. `host` is what host memory delivers, none where a host
request fails (R462). -/
def State.dmaRun (s : State) (n : Nat) (fill : Bool) (asked : Nat) (host : Option (List Byte)) : State :=
  match (s.chan n).cur with
  | none => s
  | some d =>
    if decide (d.op = 1) ≠ fill ∨ s.dmaWaits n = true then s
    else
      let s1 := s.dmaCheck n d
      let asked4 := asked / 4 * 4
      match host with
      | some bs => State.dmaMove n (asked4 / 4) s1 asked4 bs
      | none =>
        if d.ranges.any (fun r => reachesHost r.1 r.2) then
          s1.updDesc n (fun e => { e with status := some (e.status.getD 6) })
        else State.dmaMove n (asked4 / 4) s1 asked4 []

/-- What an aborted descriptor leaves in the 4 KiB from DONE_LEN on (R465): every byte is written or not, by free values, but for a part
whose data does not come. -/
def State.dmaAbortData (s : State) (n : Nat) (d : DmaDesc) (host : List Byte) : State :=
  let len := min 4096 (d.length - d.done)
  if !d.checked then s
  else
    match s.dmaData (s.chan n).origin d d.done len host with
    | none => s
    | some g =>
      let vs := g.2.1.zipIdx.map (fun x => if Config.freeBit (g.1.fresh + x.2) then some x.1 else none)
      let u := g.1.skipFresh len
      (u.dmaWriteTo (s.chan n).origin (d.dst + d.done) vs).getD u

/-- A descriptor ends (R458, R465): it is written back once it has a status or all its bytes are written. -/
def State.dmaDone (s : State) (n : Nat) (host : List Byte) : State :=
  match (s.chan n).cur with
  | none => s
  | some d =>
    match d.status, decide (d.done = d.length ∧ d.checked = true) with
    | some st, _ => (if st = 8 then s.dmaAbortData n d host else s).descWriteBack n d st
    | none, true => s.descWriteBack n d 0
    | none, false => s

/-- The on-chip bytes that a descriptor writes between two of its counts, as a port B write (R406). -/
def State.dmaWrote (s : State) (d : DmaDesc) (from_ to_ : Nat) : Option PortBRange :=
  match s.region (d.dst + from_) with
  | .ocm x => some ⟨false, x, to_ - from_, fun _ => true⟩
  | .setAlias x => some ⟨true, x, to_ - from_, fun _ => true⟩
  | .clearAlias x => some ⟨true, x, to_ - from_, fun _ => true⟩
  | _ => none

/-- A descriptor goes on; `a` are the words that port A writes in the bank operations of its writes (R406). -/
def State.dmaGo (s : State) (n : Nat) (fill : Bool) (asked : Nat) (host : Option (List Byte)) (a : PortAWords) : State :=
  let s1 := s.dmaRun n fill asked host
  match (s.chan n).cur, (s1.chan n).cur with
  | some d, some d' =>
    match s.dmaWrote d d.done d'.done with
    | some r => s1.portAMeets s true r a
    | none => s1
  | _, _ => s1

/-- DMA_COPY: channel n goes on with its COPY descriptor for up to `bytes` bytes (R460); `meets` tells what host memory delivers
and what port A writes at the same time (R406). -/
def execDmaCopy (n : Fin 16) (bytes : Word) (meets : DmaMeets) (s : State) : Host.Outcome State Fault Refusal :=
  .next (s.dmaGo n false bytes.toNat meets.host meets.portA.words)

/-- DMA_FILL: channel n goes on with its FILL descriptor for up to `bytes` bytes (R460). -/
def execDmaFill (n : Fin 16) (bytes : Word) (meets : DmaMeets) (s : State) : Host.Outcome State Fault Refusal :=
  .next (s.dmaGo n true bytes.toNat meets.host meets.portA.words)

/-- DMA_DESC_DONE: the descriptor of channel n is written back (R458); `host` is what host memory delivered beyond DONE_LEN. -/
def execDmaDescDone (n : Fin 16) (host : List Byte) (s : State) : Host.Outcome State Fault Refusal := .next (s.dmaDone n host)

end Sys2Proof.Machine
end

