-- ==== Sys2Proof/Machine/Waiting.lean ====
section
/-! DEFINITION. Accesses that wait in order while they stall (R24, R413, R445, R478, R480, R549): of the host, of messages, of the steps of
flows, and of DMA channels. -/
namespace Sys2Proof.Machine

/-- Whether an access waits behind others of its origin: a DMA channel moves its own data in order. -/
def WaitOp.ordered : WaitOp → Bool
  | .bus _ => true
  | .flow _ _ => true
  | .dma _ _ _ => false

/-- Whether an access of an origin waits. -/
def waitsFor (l : List Waiting) (o : Origin) : Bool := l.any (fun w => w.op.ordered && decide (w.origin.code = o.code))

/-- An access joins those that wait. -/
def State.await (s : State) (w : Waiting) : State := s.updHost (fun h => { h with waiting := h.waiting ++ [w] })

/-- An access arrives: it is performed, or waits behind those of its origin. -/
def State.busAccess (s : State) (o : Origin) (op : BusOp) : State :=
  if s.heldReset then s
  else
    match if waitsFor s.host.waiting o then none else s.busPerform o op with
    | some s1 => s1
    | none => (s.await ⟨o, .bus op, s.now⟩).emit (.stalled o op.addr)

/-! Steps of flows that read or write a device address (R338, R339). -/

/-- The device address of a step's access. -/
def FlowOp.addr : FlowOp → Nat
  | .read a _ _ => a
  | .write a _ => a

/-- The access of a step performed: a read gives the step's variable, and the run goes on at the next step, unless a write has ended it or
started a new one; none while it stalls. -/
def State.flowPerform (s : State) (i : Nat) (op : FlowOp) : Option State :=
  match op with
  | .read a vd signed =>
    (s.busWord (.flow i) a).map (fun r => (r.1.setVar i vd (if signed then signedOf 32 r.2.1.toNat else r.2.1.toNat) true).flowNext i)
  | .write a v =>
    (s.busSet (.flow i) a v).map (fun u =>
      if u.flowSt i = s.flowSt i ∧ u.get (SVC_RUN i) = s.get (SVC_RUN i) then u.flowNext i else u)

/-- The access of a step arrives: it is performed, or the step waits. -/
def State.flowAccess (s : State) (i : Nat) (op : FlowOp) : State :=
  match if waitsFor s.host.waiting (.flow i) then none else s.flowPerform i op with
  | some s1 => s1
  | none =>
    ((s.updFlow i (fun f => { f with wait := .access })).await ⟨.flow i, .flow i op, s.now⟩).emit (.stalled (.flow i) op.addr)

/-! What waits goes on. -/

/-- An access that waits tried again. -/
def State.waitTry (s : State) (w : Waiting) : State :=
  match w.op with
  | .bus op => ((if waitsFor s.host.waiting w.origin then none else s.busPerform w.origin op)).getD (s.await w)
  | .flow i op =>
    if (s.flow i).wait ≠ .access then s
    else ((if waitsFor s.host.waiting w.origin then none else s.flowPerform i op)).getD (s.await w)
  | .dma n asked host => State.dmaMove n (asked / 4) s asked host

/-- The host request that waits first. -/
def hostFront (l : List Waiting) : Option Waiting := l.find? (fun w => w.op.ordered && decide (w.origin = .host))

/-- The stall of the host request that waits first begins at a time. -/
def restartHost (t : Nat) : List Waiting → List Waiting
  | [] => []
  | w :: ws => if w.op.ordered = true ∧ w.origin = .host then { w with since := t } :: ws else w :: restartHost t ws

/-- A domain serves again: the accesses that wait are tried in the order of their arrival, each origin's in order. The stall of a host request
that comes to the front begins now. -/
def State.busRetry (s : State) : State :=
  let s1 := s.host.waiting.foldl State.waitTry (s.updHost (fun h => { h with waiting := [] }))
  if hostFront s1.host.waiting = hostFront s.host.waiting then s1
  else s1.updHost (fun h => { h with waiting := restartHost s1.now h.waiting })

/-- The host request that stalls reaches its limit (R478): a read completes with Completer Abort, a write is discarded; then the next
one is tried. -/
def State.stallTimeout (s0 : State) : State :=
  match hostFront s0.host.waiting with
  | none => s0
  | some w =>
    let s := s0.at_ (w.since + max 1 (s0.get SYS_HOST_CFG_STALL_LIMIT) * us)
    let s1 := (s.count SYS_HOST_STALL_COUNT 1).flag SYS_HOST_STATUS_STALL_ABORT
    let s2 := match w.op with
      | .bus (.get _ _) => s1.emit (.completion cplCa)
      | _ => s1
    (s2.updHost (fun h => { h with waiting := restartHost s2.now (h.waiting.erase w) })).busRetry

/-! Host requests (R475, R476, R478 to R480). -/

/-- The device address of BAR offset 0 and the size of the BAR (R475). -/
def barWindow (bar : Nat) : Option (Nat × Nat) :=
  if bar = 0 then some (0, 0x10000000)
  else if bar = 2 then some (0x40000000, 0x40000000)
  else if bar = 4 then some (dramBase, 0x1000000000)
  else none

/-- Whether the device refuses BAR accesses: in D3hot (R474), and before READY or FAULT. -/
def State.barRefused (s : State) : Bool := s.host.d3hot || decide (s.get PWR_STATUS_DEV_STATE = 1)

/-- A BAR request (R480). One that the link does not bring, or that does not lie in a BAR, does not reach the device. -/
def State.hostRequest (s : State) (q : HostReq) : State :=
  if s.heldReset || !s.bit SYS_HOST_STATUS_LINK_UP then s
  else
    match q with
    | .read bar off n =>
      match barWindow bar with
      | none => s
      | some (base, size) =>
        if size < off + n then s
        else if s.barRefused then s.emit (.completion cplUr)
        else s.busAccess .host (.get (base + off) n)
    | .write bar off data =>
      match barWindow bar with
      | none => s
      | some (base, size) =>
        if size < off + data.length || s.barRefused then s else s.busAccess .host (.put (base + off) data)

end Sys2Proof.Machine
end

