-- ==== Sys2Proof/Machine/BusRows.lean ====
section
/-! DEFINITION. The commands that access the bus: registers and memory from outside (R4, R23, R404, R409, R479, R480, R532), steps of flows
that read and write device addresses (R338, R339), routed messages (R362), and the domains that serve again (R413, R440, R441, R447, R549). -/
namespace Sys2Proof.Machine

/-! Port B with what its check meets, and collisions (R404, R406, R407). -/

/-- Whether port B serves an access of on-chip memory at once. -/
def State.portBOpen (s : State) (o : Origin) (x : Nat) : Bool :=
  !waitsFor s.host.waiting o && !(inSecure x && s.secureDenies o) && decide (s.bankServed (bankOf x) = .ok)

/-- A port B read of `n` bytes. -/
def State.portBRead (s : State) (o : Origin) (x n : Nat) (e : Ecc) : State :=
  (if s.portBOpen o x then s.ocmUpset e x else s).busAccess o (.get (ocmBase + x) n)

/-- A port B write of bytes at on-chip offset x, by its address or through an alias; `a` are the words that port A writes in the same bank
operations. -/
def State.portBWrite (s : State) (o : Origin) (aliased : Bool) (base x : Nat) (vs : List (Option Byte)) (e : Ecc) (a : PortAWords) : State :=
  let s1 := if s.portBOpen o x then s.ocmUpset e x else s
  let s2 := s1.busAccess o (.put (base + x) vs)
  s2.portAMeets s1 (s.portBOpen o x) ⟨aliased, x, vs.length, fun k => ((vs[k]?).getD none).isSome⟩ a

/-! Steps of flows. -/

/-- A signed 64-bit value of two register words. -/
def State.long (s : State) (lo hi : Fld) : Int := signedOf 64 (s.get64 lo hi)

/-- A measured value and its validity. -/
abbrev Measured := Int × Bool

/-- Accumulator a (R339). -/
def State.measAcc (s : State) (a field : Nat) : Option Measured :=
  let c := s.acc a
  let some_ := decide (c.total.n ≠ 0)
  match field with
  | 0 => some (signedOf 64 c.total.n, true)
  | 1 => some (c.total.mean, some_)
  | 2 => some (signedOf 64 c.total.sd, some_)
  | 3 => some (c.total.mn, some_)
  | 4 => some (c.total.mx, some_)
  | 5 => some (signedOf 64 c.dropped, true)
  | _ => none

/-- The single-interval measurement of pin p (R339); the registers of an unpowered pin read 0, so it is not DONE. -/
def State.measPin (s : State) (p field : Nat) : Option Measured :=
  let ok := !s.octOff (p / 64) && decide (s.tdcSt p = 3) && !s.bit (PIN_TDC_STAT_TIMEOUT_START p) && !s.bit (PIN_TDC_STAT_TIMEOUT_STOP p)
  let shown (v : Int) : Int := if s.octOff (p / 64) then 0 else v
  match field with
  | 0 => some (shown (s.long (PIN_TDC_RESULT_LO_RESULT p) (PIN_TDC_RESULT_HI_RESULT p)), ok)
  | 1 => some (shown (s.get (PIN_TDC_COUNT p)), ok)
  | _ => none

/-- The capture counts of site i (R339). -/
def State.measCap (s : State) (i field : Nat) : Option Measured :=
  match field with
  | 0 => some (s.long (SITE_CAP_FAILS_LO_FAILS i) (SITE_CAP_FAILS_HI_FAILS i), true)
  | 1 => some (s.long (SITE_CAP_FVEC_LO_FVEC i) (SITE_CAP_FVEC_HI_FVEC i), true)
  | 2 => some (s.long (SITE_CAP_FIRST_LO_FIRST i) (SITE_CAP_FIRST_HI_FIRST i),
      decide (s.get64 (SITE_CAP_FIRST_LO_FIRST i) (SITE_CAP_FIRST_HI_FIRST i) ≠ 2 ^ 64 - 1))
  | 3 => some (s.long (SITE_CAP_GFAIL_LO_GFAIL i) (SITE_CAP_GFAIL_HI_GFAIL i), true)
  | _ => none

/-- The last burst result of site i (R152, R339). -/
def State.measBurst (s : State) (i field : Nat) : Option Measured :=
  let ok := decide ((s.site i).bursts ≠ 0)
  let w (k : Nat) : Int := s.resultWord i k
  let two (k : Nat) : Int := signedOf 64 (s.resultWord i k + 2 ^ 32 * s.resultWord i (k + 1))
  match field with
  | 0 => some (two 8, ok)
  | 1 => some (w 3, ok)
  | 2 => some (two 10, ok)
  | 3 => some (two 12, ok)
  | 4 => some (w 0, ok)
  | _ => none

/-- A source of R339 other than a device address: its value and validity; none where the source or the field is reserved. -/
def State.measure (s : State) (i src field idx : Nat) : Option Measured :=
  match src with
  | 0 => s.measAcc idx field
  | 1 => s.measPin (idx % 512) field
  | 2 => s.measCap i field
  | 3 => if field = 0 then some (s.get (SITE_PIN_FCNT i (idx % 512)), true) else none
  | 4 => if field = 0 then some (s.get (XE_SITE_OK_COUNT i), true) else if field = 1 then some (s.get (XE_SITE_ERR_COUNT i), true) else none
  | 5 => s.measBurst i field
  | 7 => if field = 0 then some (signedOf 64 s.tick, true) else none
  | _ => none

/-- The device address of a MEAS or WRITE step. -/
def State.stepAddr (s : State) (i : Nat) : Nat := s.flowWord i 2 + 2 ^ 32 * s.flowWord i 3

/-- MEAS (R339); a reserved source or field faults (R336). -/
def State.stepMeas (s : State) (i : Nat) : State :=
  let w1 := s.flowWord i 1
  let vd := bitsOf (s.flowWord i 0) 4 4
  let field := bitsOf w1 4 4
  if bitsOf w1 0 4 = 6 then
    if 1 < field then s.flowFault i else s.flowAccess i (.read (s.stepAddr i) vd (decide (field = 1)))
  else
    match s.measure i (bitsOf w1 0 4) field (bitsOf w1 16 10) with
    | none => s.flowFault i
    | some (x, ok) => (s.setVar i vd x ok).flowNext i

/-- WRITE (R338). -/
def State.stepWrite (s : State) (i : Nat) : State :=
  s.flowAccess i (.write (s.stepAddr i)
    (if bitOf (s.flowWord i 1) 0 then word (unsignedOf 64 (s.var i (bitsOf (s.flowWord i 0) 8 4))) else word (s.flowWord i 4)))

/-! Messages (R361, R362). -/

/-- A message frame that has arrived: performed by the device it names, else routed on. -/
def State.msgFrame (s : State) (src dest : Nat) (type addr : Nat) (data : Option Word) : State :=
  if dest = s.get IAT_CFG_ADDR then s.busAccess .peer (.peer src addr data)
  else s.route ⟨type, 0, src, dest, 0, match data with | none => [addr] | some v => [addr, v.toNat]⟩

/-- A message of the device to itself performed. -/
def State.msgLoop (s : State) (type : Nat) : State :=
  match s.iat.loop with
  | none => s
  | some f =>
    if f.type ≠ type then s
    else
      (s.updIat (fun t => { t with loop := none })).msgFrame f.src f.dest type (f.data.getD 0 0)
        (if type = ftMsgWr then some (word (f.data.getD 1 0)) else none)

/-! Domains that serve again. -/

/-- Memory or an octant serves again: what the device itself had to write is written (R413), then held audit records (R537), and accesses that wait
go on. -/
def State.serveAgain (s : State) : State := s.storeLate.audDrain.busRetry

/-! Debug (R532). -/

/-- An access of the debug port; while debug is not available it is ignored and returns zeros. -/
def State.debugAccess (s : State) (op : BusOp) : State :=
  match op with
  | .peer _ _ _ => s
  | .read a => if s.debugOk then s.busAccess .dbg op else s.emit (.read .dbg a 0)
  | .get a n => if s.debugOk then s.busAccess .dbg op else s.emit (.data .dbg a (List.replicate n 0) false)
  | .write _ _ => if s.debugOk then s.busAccess .dbg op else s
  | .put _ _ => if s.debugOk then s.busAccess .dbg op else s

/-! The commands. -/

/-- REGISTER_WRITE: a 32-bit write of a register (R4, R5). -/
def execRegisterWrite (o : Origin) (a : Fin 0x4000000) (v : Word) (s : State) : Host.Outcome State Fault Refusal :=
  .next (s.busAccess o (.write (4 * a) v))

/-- LOW_WORD_READ: a read of the low word of a 64-bit value, which latches its high word (R4). -/
def execLowWordRead (o : Origin) (a : Fin 0x4000000) (s : State) : Host.Outcome State Fault Refusal :=
  .next (s.busAccess o (.read (4 * a)))

/-- HIGH_WORD_READ: a read of the high word: what is latched for the origin, else the present word (R4). -/
def execHighWordRead (o : Origin) (a : Fin 0x4000000) (s : State) : Host.Outcome State Fault Refusal :=
  .next (s.busAccess o (.read (4 * a)))

/-- LOW_WORD_WRITE: a write of the low word of a 64-bit value, held for its origin (R4). -/
def execLowWordWrite (o : Origin) (a : Fin 0x4000000) (v : Word) (s : State) : Host.Outcome State Fault Refusal :=
  .next (s.busAccess o (.write (4 * a) v))

/-- HIGH_WORD_WRITE: a write of the high word, with which the value takes effect as a whole (R4). -/
def execHighWordWrite (o : Origin) (a : Fin 0x4000000) (v : Word) (s : State) : Host.Outcome State Fault Refusal :=
  .next (s.busAccess o (.write (4 * a) v))

/-- BAD_WIDTH_ACCESS: a read of `n` bytes, or a write of bytes, at BAR0 offset `a` (R4, R479). -/
def execBadWidthAccess (o : Origin) (a : Fin 0x10000000) (n : Fin 4097) (data : Option (List (Option Byte))) (s : State) :
    Host.Outcome State Fault Refusal :=
  .next (match data with
    | none => s.busAccess o (.get a n)
    | some vs => s.busAccess o (.put a vs))

/-- BROADCAST_WRITE: a write at an offset of the broadcast block of a group, or with none of the all-pin block (R23). -/
def execBroadcastWrite (o : Origin) (g : Option (Fin 64)) (off : Fin 0x4000) (v : Word) (s : State) : Host.Outcome State Fault Refusal :=
  .next (s.busAccess o (.write ((match g with | none => 0xB000000 | some k => 0xA000000 + 0x10000 * k.val) + 4 * off.val) v))

/-- FLOW_MEAS: the MEAS step of the flow of site i (R339). -/
def execFlowMeas (i : Fin 16) (s : State) : Host.Outcome State Fault Refusal := .next (s.flowStep i 0x3 (fun u => u.stepMeas i))

/-- FLOW_WRITE: the WRITE step of the flow of site i (R338). -/
def execFlowWrite (i : Fin 16) (s : State) : Host.Outcome State Fault Refusal := .next (s.flowStep i 0x9 (fun u => u.stepWrite i))

/-- MSG_RD: an MSG_RD frame arrives on port p; port 6 stands for a message of the device to itself (R361, R362). -/
def execMsgRd (p : Fin 7) (x : Rx) (addr : DWord) (s : State) : Host.Outcome State Fault Refusal :=
  .next
    (if p.val = 6 then s.msgLoop ftMsgRd
    else s.onFrame p x ftMsgRd (fun u => u.msgFrame x.src.toNat x.dest.toNat ftMsgRd addr.toNat none))

/-- MSG_WR: an MSG_WR frame arrives on port p; port 6 stands for a message of the device to itself (R361, R362). -/
def execMsgWr (p : Fin 7) (x : Rx) (addr : DWord) (v : Word) (s : State) : Host.Outcome State Fault Refusal :=
  .next
    (if p.val = 6 then s.msgLoop ftMsgWr
    else s.onFrame p x ftMsgWr (fun u => u.msgFrame x.src.toNat x.dest.toNat ftMsgWr addr.toNat (some v)))

/-- PORT_B_ACCESS: a read of `n` bytes, or a write of bytes, of on-chip memory at offset x; `e` is what the check of its first word
meets, and `a` the words that port A writes in the same bank operations, by word number (R404, R406, R407). -/
def execPortBAccess (o : Origin) (x : Fin 0x4000000) (n : Fin 4097) (data : Option (List (Option Byte))) (e : Ecc) (a : PortAOps)
    (s : State) : Host.Outcome State Fault Refusal :=
  .next (match data with
    | none => s.portBRead o x n e
    | some vs => s.portBWrite o false ocmBase x vs e a.words)

/-- ALIAS_SET_WRITE: a write of bytes to the bit-set alias of on-chip offset x (R409). -/
def execAliasSetWrite (o : Origin) (x : Fin 0x4000000) (data : AliasData) (s : State) : Host.Outcome State Fault Refusal :=
  .next (s.portBWrite o true 0x50000000 x data.bytes .ok data.portA.words)

/-- ALIAS_CLEAR_WRITE: a write of bytes to the bit-clear alias of on-chip offset x (R409). -/
def execAliasClearWrite (o : Origin) (x : Fin 0x4000000) (data : AliasData) (s : State) : Host.Outcome State Fault Refusal :=
  .next (s.portBWrite o true 0x60000000 x data.bytes .ok data.portA.words)

/-- HOST_REQUEST (R480). -/
def execHostRequest (q : HostReq) (s : State) : Host.Outcome State Fault Refusal := .next (s.hostRequest q)

/-- HOST_STALL_TIMEOUT (R478). -/
def execHostStallTimeout (s : State) : Host.Outcome State Fault Refusal := .next s.stallTimeout

/-- DEBUG_ACCESS (R532). -/
def execDebugAccess (op : BusOp) (s : State) : Host.Outcome State Fault Refusal := .next (s.debugAccess op)

/-- BANK_WAKE_DONE: bank b has woken from Retain (R413). -/
def execBankWakeDone (b : Fin 64) (s : State) : Host.Outcome State Fault Refusal := .next (s.bankWoken b).serveAgain

/-- BANK_CLEARED: bank b has been cleared after Off (R413). -/
def execBankCleared (b : Fin 64) (s : State) : Host.Outcome State Fault Refusal := .next (s.bankCleared b).serveAgain

/-- FSP_CHANGE_DONE (R440). -/
def execFspChangeDone (s : State) : Host.Outcome State Fault Refusal := .next s.fspDone.serveAgain

/-- TRAIN_STEP_DONE (R441): a channel, and the read and write eyes in ps and mV. -/
def execTrainStepDone (ch : Fin 16) (rdW rdH wrW wrH : Fin 65536) (s : State) : Host.Outcome State Fault Refusal :=
  .next (s.trainStep ch rdW rdH wrW wrH).serveAgain

/-- DRAM_POWER_CHANGE (R444). -/
def execDramPowerChange (s : State) : Host.Outcome State Fault Refusal := .next s.dramPowerChange.serveAgain

/-- SELF_REFRESH_EXIT (R447). -/
def execSelfRefreshExit (lost : Bool) (s : State) : Host.Outcome State Fault Refusal := .next (s.selfRefreshExit lost).serveAgain

/-- DRAM_SEGMENT_CLEARED (R447). -/
def execDramSegmentCleared (s : State) : Host.Outcome State Fault Refusal := .next s.segmentCleared.serveAgain

/-- OCTANT_ON_DONE: octant k is powered; `pins` lists those of its pins, 0 to 63, whose input is no longer at the voltage last reported, and
`volts` where they are, in µV (R101, R549). -/
def execOctantOnDone (k : Fin 8) (pins : List (Fin 64)) (volts : List Int) (s : State) : Host.Outcome State Fault Refusal :=
  .next (s.octOnDone k (List.zip (pins.map (fun q => q.val)) volts)).serveAgain

end Sys2Proof.Machine
end

