-- ==== Sys2Proof/Machine/Boot.lean ====
section
/-! DEFINITION. The boot sequence (R498 to R510) and the application and storage of amendments (R512 to R514). -/
namespace Sys2Proof.Machine

/-! Stages (R498). -/

/-- The stage shown in NVM_STATUS; 0 stands for WAIT_REF before it (R498, R516). -/
def State.stage (s : State) : Nat := s.get NVM_STATUS_STAGE

/-- The stage set. -/
def State.setStage (s : State) (k : Nat) : State := s.set NVM_STATUS_STAGE k

/-- Whether the device boots at a stage. -/
def State.atStage (s : State) (k : Nat) : Bool := !s.heldReset && decide (s.stage = k)

/-- The detected frequency of an input loaded (R32, R498). -/
def State.loadFreq (s : State) (f : Fld) (c : Option (Fin 4)) : State :=
  match c with
  | none => s
  | some k => s.set f k.val

/-- The timebase locks first (R39, R498): Meridian time starts, and the memory test begins. -/
def State.firstLock (s : State) (a b : Option (Fin 4)) : State :=
  if s.heldReset || decide (1 < s.stage) then s
  else
    match s.refChoice with
    | none => s
    | some n =>
      let s1 := (s.loadFreq TB_REF_CFG_FREQ_A a).loadFreq TB_REF_CFG_FREQ_B b
      let s2 := (s1.refUse n false).flag TB_REF_STATUS_LOCKED
      (s2.updTb (fun t => { t with zero := some s.now, pullUntil := s.now })).setStage 2

/-- The boot ends in FAULT (R510): every bank is clear, and the DRAM, if brought up, is cleared. -/
def State.bootFault (s : State) : State :=
  let st := s.get DRC_STATUS_STATE
  let s1 := s.memGone
  let s2 := if st = 2 ∨ st = 3 ∨ st = 5 ∨ st = 7 then s1.clearStart 0 else s1
  let s3 := ((s2.setStage 0xF).set PWR_STATUS_DEV_STATE 5).set NVM_IMG_SEQ 0
  (s3.raise 0xF082 noSource (s3.reg NVM_BOOT_STAT_PRIMARY.addr).toNat).avsBase

/-- The boot march test ends (R418): more than four failing banks end the boot in FAULT. -/
def State.bootMarched (s : State) (bad : List Nat) : State :=
  if !s.atStage 2 then s
  else if 4 < bad.eraseDups.length then s.bootFault
  else ((s.bootMarch bad).setStage 3).audDrain

/-- The flash is identified (R499): whether it is octal and its size in MiB, none without SFDP; the headers of the two copies are what it
holds. -/
def State.flashFound (s : State) (sfdp : Option (Bool × Nat)) (h0 h1 : List Byte) : State :=
  if !s.atStage 3 then s
  else
    match sfdp.filter (fun x => decide (64 ≤ x.2)) with
    | none => (s.set NVM_BOOT_STAT_PRIMARY 4).bootFault
    | some (octal, size) =>
      (((s.set NVM_FLASH_INFO_SIZE size).set NVM_STATUS_MODE (if octal then 2 else 1)).updBoot (fun b =>
        { b with headers := (h0.take 256, h1.take 256) })).setStage 4

/-! Reading a copy (R503). -/

/-- The header of the copy in progress. -/
def State.header (s : State) : List Byte := if s.stage = 5 then s.boot.headers.2 else s.boot.headers.1

/-- Whether a copy is being read, and nothing has failed in it. -/
def State.reading (s : State) : Bool :=
  (s.atStage 4 || s.atStage 5) && (s.hdrBad s.header false).isNone && s.boot.bad.isNone

/-- The banks of the staging area (R503): STAGE banks, 0 acting as 1. -/
def State.stageCount (s : State) : Nat := max 1 (min 32 (bitsOf (leAt s.header 0x24 4) 0 6))

/-- Bank 59 and, with STAGE = n > 1, banks 59 - n to 57. -/
def State.stageBanks (s : State) : List Nat :=
  let n := s.stageCount
  59 :: (if n = 1 then [] else (List.range (n - 1)).map (fun k => 59 - n + k))

/-- A check fails: nothing more of the copy is read (R504). -/
def State.copyBad (s : State) (code index : Nat) : State := s.updBoot (fun b => { b with bad := some (code, index) })

/-- A record staged (R503): it takes the bytes that it takes in the copy. -/
def State.stageRecord (s : State) (r : ImgRecord) (len index : Nat) : State :=
  if s.stageCount * 0x100000 < s.boot.stagedLen + len then s.copyBad 0xE index
  else s.updBoot (fun b => { b with staged := b.staged ++ [r], stagedLen := b.stagedLen + len })

/-- The usable capacity that MEM and FILL records see: that of the DRAM record in force (R503). -/
def State.recUsable (s : State) : Nat := if s.boot.dram.isSome then drcUsable s.drc.cfg else s.usable

/-- A MEM or FILL record (R503): skipped where its DRAM has failed, refused where it may not write, else written at once. -/
def State.loadRecord (s : State) (r : ImgRecord) (index : Nat) : State :=
  match r.range with
  | none => s
  | some (a, n) =>
    if !r.placed s.recUsable s.stageBanks then s.copyBad 5 index
    else if inDram s.recUsable a n && decide (s.get DRC_STATUS_STATE = 6) then s.count NVM_DRAM_SKIP_COUNT 1
    else
      (s.memStore .img a (r.data.map some)).updBoot (fun b =>
        if inDram s.recUsable a n then { b with wroteDram := true }
        else { b with wrote := ((List.range 64).filter (fun k => b.wrote.contains k || reachesBank a n k)) })

/-- The registers that a DRAM record carries: DRC_CFG, DRC_SP0 to DRC_SP3, DRC_REF_CFG, DRC_TRAIN_LIMIT, DRC_PWR_CTRL. -/
def dramRegs : List Nat := [0x70000, 0x70010, 0x70014, 0x70018, 0x7001C, 0x7002C, 0x70028, 0x70030]

/-- A DRAM record (R503): the registers are written with origin IMG and the DRAM is brought up; after a primary whose record is in force,
only what differs is applied (R505). -/
def State.dramRecord (s : State) (ws : List Word) : State :=
  let old := s.boot.dram
  let s1 := (dramRegs.zip ws).zipIdx.foldl
    (fun u x => if (old.bind (fun l => l[x.2]?)) = some x.1.2 then u else u.regWrite .img x.1.1 x.1.2) s
  let s2 := s1.updBoot (fun b => { b with dram := some ws })
  if s2.get DRC_STATUS_STATE = 0 then s2.bringUp else s2

/-- A record in its place acts (R502, R503). -/
def State.actRecord (s : State) (r : ImgRecord) (len index : Nat) : State :=
  match r with
  | .host _ _ => if s.boot.staged.any (fun x => match x with | .host _ _ => true | _ => false) then s.copyBad 5 index else s.stageRecord r len index
  | .dram ws => if index = 0 then s.dramRecord ws else s.copyBad 5 index
  | .reg _ => s.stageRecord r len index
  | .lock _ => s.stageRecord r len index
  | .mem _ _ => s.loadRecord r index
  | .fill _ _ _ => s.loadRecord r index
  | .end_ => s.updBoot (fun b => { b with ended := true })

/-- Whether a record stalls: its bank is being cleared, or its DRAM is training or its segment not yet clear (R503, R505). -/
def State.recordStalls (s : State) (r : ImgRecord) : Bool :=
  match r.range with
  | none => false
  | some (a, n) =>
    r.placed s.recUsable s.stageBanks &&
      (if inDram s.recUsable a n then decide (s.get DRC_STATUS_STATE = 1) || s.memStalls .img a n else s.memStalls .img a n)

/-- A record that is read takes its place in the copy (R502, R504): its CRC, its contents, and its place are checked, and it acts. -/
def State.placeRecord (s : State) (kind : Nat) (pay : List Byte) (r : Option ImgRecord) (ok : Bool) : State :=
  let index := s.boot.count
  let bs := recordBytes kind pay
  let s1 := s.updBoot (fun b => { b with bytes := b.bytes ++ bs, count := index + 1 })
  match r with
  | none => s1.copyBad 5 index
  | some x =>
    if !ok ∨ s.boot.ended = true ∨ hdrLength s.header < s1.boot.bytes.length then s1.copyBad 5 index
    else s1.actRecord x bs.length index

/-- A record of a kind with a payload is read, and its CRC found as `crc` tells (R499, R503); one that stalls is read again later. -/
def State.readRecord (s : State) (kind : Nat) (pay : List Byte) (crc : RecordCrc) : State :=
  if !s.reading then s
  else
    let r := recordOf kind pay
    match crc with
    | .bad => s.placeRecord kind pay none false
    | .reread =>
      if s.get NVM_STATUS_MODE = 2 then
        let s1 := s.set NVM_STATUS_MODE 1
        if r.any (fun x => s.recordStalls x) then s1 else s1.placeRecord kind pay r true
      else s.placeRecord kind pay none false
    | .ok => if r.any (fun x => s.recordStalls x) then s else s.placeRecord kind pay r true

/-! The end of a copy (R504, R505). -/

/-- The result of the copy in progress (R504), with the number of the record at fault. -/
def State.copyResult (s : State) (e : CopyEnd) : Nat × Option Nat :=
  let h := s.header
  match s.hdrBad h false, s.boot.bad with
  | some r, _ => (r, none)
  | none, some (r, k) => (r, some k)
  | none, none =>
    match e with
    | .readErr => (4, none)
    | .badRecord => (5, some s.boot.count)
    | .ok =>
      if !s.boot.ended ∨ s.boot.bytes.length ≠ hdrLength h ∨ s.boot.count ≠ hdrCount h then (5, some (s.boot.count - 1))
      else
        match s.sigBad h s.boot.bytes with
        | some r => (r, none)
        | none => (0, none)

/-- A bank cleared by hardware, as it is after Off (R413). -/
def State.bankClear (s : State) (b : Nat) : State := s.setBank b { s.bank b with power := .clearing }

/-- The mirror is read next (R505): the staged records are discarded, and what MEM and FILL records have written is cleared. -/
def State.toMirror (s : State) : State :=
  let st := s.get DRC_STATUS_STATE
  let s1 := s.boot.wrote.foldl State.bankClear s
  let s2 := if s.boot.wroteDram && (decide (st = 2) || decide (st = 3) || decide (st = 5) || decide (st = 7)) then s1.clearStart 0 else s1
  (s2.updBoot (fun b =>
    { b with bytes := [], count := 0, staged := [], stagedLen := 0, ended := false, bad := none, wrote := [], wroteDram := false })).setStage 5

/-- The check of a copy ends (R504, R505, R510). -/
def State.copyChecked (s : State) (e : CopyEnd) : State :=
  if !(s.atStage 4 || s.atStage 5) then s
  else
    let mirror := decide (s.stage = 5)
    let r := s.copyResult e
    let s1 := s.set (if mirror then NVM_BOOT_STAT_MIRROR else NVM_BOOT_STAT_PRIMARY) r.1
    let s2 := match r.2 with
      | none => s1
      | some k => s1.set NVM_RECORD_ERR_INDEX k
    if r.1 = 0 then (s2.set NVM_STATUS_SOURCE (ofBool mirror)).setStage 6
    else if mirror then s2.bootFault
    else s2.toMirror

/-! Records that act (R506, R512). -/

/-- The bits of the RWL fields of a register. -/
def RegDesc.rwlMask (d : RegDesc) : Word :=
  d.fields.foldl (fun w f => if f.acc = .rwl then w ||| maskAt f.lo f.len else w) 0

/-- A register locked: its RWL fields (R5, R506). -/
def State.lockReg (s : State) (a : Nat) : State :=
  match lookupReg a with
  | none => s
  | some d =>
    if d.rwlMask = 0 then s
    else { s with locks := Sparse.set (fun _ => 0) s.locks a (Sparse.get (fun _ => 0) s.locks a ||| d.rwlMask) }

/-- The offsets of the registers of a block that have RWL fields. -/
def rwlOffs (base : Nat) (ds : List RegDesc) : List Nat :=
  ds.flatMap (fun d =>
    if d.rwlMask = 0 then []
    else (List.range d.n1).flatMap (fun i => (List.range d.n2).map (fun j => base + d.off + d.s1 * i + d.s2 * j)))

/-- Every register that has RWL fields (R506): those of the unit blocks and of the SITE blocks; the PIN blocks have none. -/
def allRwl : List Nat :=
  (List.range 15).flatMap (fun k => match unitBlock k with | none => [] | some b => rwlOffs (0x10000 * k) b.regs) ++
    (List.range 16).flatMap (fun i => rwlOffs (0x1000000 + 0x100000 * i) siteRegs)

/-- A LOCK record (R502, R506). -/
def State.lockAll (s : State) (offs : List Nat) : State :=
  (offs.flatMap (fun a => if a = 0xFFFFFFFF then allRwl else [a])).foldl State.lockReg s

/-- A pair of a REG record (R506): a write to an unmapped offset is discarded, and one of the image is counted. A reset in the middle ends it. -/
def State.regPair (o : Origin) (k : Nat) (s : State) (p : Nat × Word) : State :=
  if s.stage ≠ k then s
  else if inRegs p.1 && (decodeReg p.1).isSome then (s.busSet o p.1 p.2).getD s
  else
    let s1 := s.unmapped p.1
    if o = .img then s1.count NVM_BOOT_STAT_REG_UNMAPPED 1 else s1

/-- A record applied with an origin (R506, R512). -/
def State.applyRecord (o : Origin) (k : Nat) (s : State) (r : ImgRecord) : State :=
  if s.stage ≠ k then s
  else
    match r with
    | .host ids sub => s.updHost (fun h => { h with ids := some (fieldGet 0 16 ids, fieldGet 16 16 ids, fieldGet 0 16 sub) })
    | .dram _ => s
    | .reg ps => ps.foldl (State.regPair o k) s
    | .mem a _ => s.memStore o a (r.data.map some)
    | .fill a _ _ => s.memStore o a (r.data.map some)
    | .lock offs => s.lockAll offs
    | .end_ => s

/-- APPLY ends (R506): the staged records have acted, and the staging area is clear and in service. -/
def State.applied (s : State) : State :=
  if !s.atStage 6 then s
  else
    let s1 := s.boot.staged.foldl (State.applyRecord .img 6) s
    if s1.stage ≠ 6 then s1
    else
      let h := if s.get NVM_STATUS_SOURCE = 1 then s.boot.headers.2 else s.boot.headers.1
      let n := max 1 (min 32 (bitsOf (leAt h 0x24 4) 0 6))
      let banks := 59 :: (if n = 1 then [] else (List.range (n - 1)).map (fun k => 59 - n + k))
      let s2 := banks.foldl (fun u b => (u.physErase (u.phys b)).raise 0xB004 noSource b) s1
      let s3 := (s2.set NVM_IMG_SEQ (hdrSeq h)).set64 NVM_IMG_BUILD_LO_BUILD NVM_IMG_BUILD_HI_BUILD (hdrBuild h)
      ((s3.audit 7 .img 0 0 (hdrSeq h) (s3.get NVM_STATUS_SOURCE)).updBoot (fun b => { b with staged := [], bytes := [] })).setStage 7

/-- An amendment has been applied: NVM_AMD_SEQ takes its SEQ, with the audit record and event 0xF083 (R512, R535). -/
def State.amdApplied (s : State) (seq : Nat) : State :=
  ((s.audit 8 .amd 0 (s.get NVM_AMD_SEQ) seq 0).set NVM_AMD_SEQ seq).raise 0xF083 noSource seq

/-- A stored entry at boot (R514): applied if it is valid, else skipped. -/
def State.amendEntry (s : State) (bs : List Byte) : State :=
  if !s.atStage 7 then s
  else if (s.amdResult bs (s.get NVM_AMD_SEQ)).1 ≠ 0 then s.count NVM_BOOT_STAT_AMD_SKIP 1
  else if (amdRecords bs).1.any (fun r => match r.range with | none => false | some (a, n) => s.memStalls .amd a n) then s
  else
    let s1 := (amdRecords bs).1.foldl (State.applyRecord .amd 7) s
    if s1.stage ≠ 7 then s1 else s1.amdApplied (hdrSeq bs)

/-- The Almanac stage (R395, R498). -/
def State.almStage (s : State) (b0 b1 : List Byte) : State := if s.atStage 7 then (s.almLoad b0 b1).setStage 9 else s

/-- A pin with a failing converter (R508): bit 0 and bit 1 of `m` name the converters. -/
def State.selfFail (s : State) (p m : Nat) : State :=
  if m = 0 || s.octOff (p / 64) then s
  else
    let f := NVM_STFAIL_FAIL (p / 32)
    (s.set f (s.get f ||| 2 ^ (p % 32))).raise 0x6010 p m

/-- The self-test ends (R508, R509): READY, and the flows with AUTO start. In Twilight it is discarded, and repeats later. -/
def State.selfTested (s : State) (fails : List (Nat × Nat)) : State :=
  if !s.atStage 9 || s.bit PWR_STATUS_TWILIGHT then s
  else
    let s1 := fails.foldl (fun u x => u.selfFail x.1 x.2) s
    let s2 := ((s1.setStage 0xA).set PWR_STATUS_DEV_STATE 2).set NVM_BOOT_TIME ((s.now - s.boot.start) / (100 * us))
    let s3 := (s2.avsBase.raise 0xF081 noSource (s2.reg NVM_STATUS_STAGE.addr).toNat).treeEval []
    (List.range 16).foldl (fun u i => if u.level i = 2 && u.bit (SVC_CFG_AUTO i) then u.flowRun i else u) s3

/-! Amendments in service (R512, R513). -/

/-- Whether the sites that an amendment names have come to rest (R512): IDLE, or in an arm that waits for it. -/
def State.amdQuiet (s : State) (bs : List Byte) : Bool :=
  (List.range 16).all (fun i =>
    !bitOf (leAt bs 0x20 4) i || s.idle i || (decide (s.siteSt i = stArming) && (s.site i).burst.held))

/-- Whether a record of an amendment stalls. -/
def State.amdStalls (s : State) (r : ImgRecord) : Bool :=
  match r with
  | .reg ps => ps.any (fun p => decide (s.regServed p.1 = .stall))
  | .mem a d => s.memStalls .amd a d.length
  | .fill a n _ => s.memStalls .amd a n
  | _ => false

/-- The amendment is applied (R512), and stored next if it is PERSIST and there is an area (R513, R519). -/
def State.amdApply (s : State) : State :=
  match s.boot.amd with
  | none => s
  | some a =>
    if a.phase ≠ .waiting ∨ !s.amdQuiet a.bytes ∨ (amdRecords a.bytes).1.any (fun r => s.amdStalls r) then s
    else
      let k := s.stage
      let s1 := (amdRecords a.bytes).1.foldl (State.applyRecord .amd k) s
      if s1.boot.amd.isNone then s1
      else
        let s2 := s1.amdApplied (hdrSeq a.bytes)
        if hdrPersist a.bytes && decide (s2.get NVM_AMD_SIZE ≠ 0) then
          ((s2.set NVM_AMD_STAT_STATE 3).updBoot (fun b =>
            { b with amd := some { a with phase := .storing, afterSave := s2.bit CAL_ALM_STAT_BUSY } })).releaseArms
        else
          (((s2.set NVM_AMD_STAT_STATE 0).set NVM_AMD_STAT_RESULT 0).updBoot (fun b => { b with amd := none })).releaseArms

/-- The length of an area up to its last byte that is not erased. -/
def usedLen : List Byte → Nat
  | [] => 0
  | b :: bs =>
    let n := usedLen bs
    if n = 0 ∧ b = 0xFF then 0 else n + 1

/-- The TARGET of every entry of an area, in flash order (R513): one whose records match its hash takes its length, a torn one is passed
in steps of 8 bytes. -/
def areaTargets : Nat → List Byte → List Nat
  | 0, _ => []
  | fuel + 1, bs =>
    if bs.length < 256 then []
    else if hdrMagic bs ≠ 0x41444E4F then areaTargets fuel (bs.drop 8)
    else
      let n := hdrLength bs
      let whole := decide ((bs.drop 0x58).take 48 = sha384 ((bs.drop 256).take n))
      hdrTarget bs :: areaTargets fuel (bs.drop (if whole then 256 + (n + 7) / 8 * 8 else 8))

/-- The place in the area where an amendment of a length goes, and whether the area is erased first; none where it does not fit (R513). -/
def State.areaPlace (s : State) (area : List Byte) (len : Nat) : Option (Nat × Bool) :=
  let size := s.get NVM_AMD_SIZE / 65536 * 65536
  let pos := (usedLen (area.take size) + 7) / 8 * 8
  if pos + len ≤ size then some (pos, false)
  else if (areaTargets size (area.take size)).any (fun t => decide (t = s.get NVM_IMG_SEQ)) then none
  else if len ≤ size then some (0, true)
  else none

/-- The amendment unit returns to IDLE with a result; an Almanac save that has waited for the flash begins (R394). -/
def State.amdEnd (s : State) (r : Nat) : State :=
  (((s.set NVM_AMD_STAT_STATE 0).set NVM_AMD_STAT_RESULT r).updBoot (fun b => { b with amd := none })).almNext

/-- The storing of an amendment ends (R513): `area` is what the amendment area holds, `back` what is read back, none where the flash
failed. It waits for an Almanac save that was asked for before it (R394). -/
def State.amdStored (s : State) (area : List Byte) (back : Option (List Byte)) : State :=
  match s.boot.amd with
  | none => s
  | some a =>
    if a.phase ≠ .storing ∨ (a.afterSave = true ∧ s.bit CAL_ALM_STAT_BUSY = true) then s
    else
      let bs := a.bytes.take (256 + hdrLength a.bytes)
      let base := s.get NVM_AMD_AREA / 65536 * 65536
      match s.areaPlace area bs.length with
      | none => s.amdEnd 0xB
      | some (pos, erase) =>
        let s1 := if erase then s.emit (.flash base (List.replicate (s.get NVM_AMD_SIZE / 65536 * 65536) 0xFF)) else s
        (s1.emit (.flash (base + pos) bs)).amdEnd (if back = some bs then 0 else 0xC)

/-! The commands. -/

/-- The bytes of words. -/
def wordsBytes (ws : List Word) : List Byte := ws.flatMap (fun w => leBytes 4 w.toNat)

/-- TIMEBASE_LOCK: an input has qualified before the first lock; `fa` and `fb` are the frequency codes detected at the inputs (R39, R498). -/
def execTimebaseLock (fa fb : Option (Fin 4)) (s : State) : Host.Outcome State Fault Refusal := .next (s.firstLock fa fb)

/-- BOOT_MARCH_DONE: the march test ends; `bad` lists the failing physical banks (R418). -/
def execBootMarchDone (bad : List (Fin 68)) (s : State) : Host.Outcome State Fault Refusal :=
  .next (s.bootMarched (bad.map (fun j => j.val)))

/-- FLASH_ID_DONE (R499): whether the flash is octal and its size in MiB, none without SFDP, and the headers of the primary and the mirror. -/
def execFlashIdDone (sfdp : Option (Bool × Fin 65536)) (primary mirror : List Byte) (s : State) : Host.Outcome State Fault Refusal :=
  .next (s.flashFound (sfdp.map (fun x => (x.1, x.2.val))) primary mirror)

/-- HOST_RECORD (R502). -/
def execHostRecord (w0 w1 : Word) (crc : RecordCrc) (s : State) : Host.Outcome State Fault Refusal :=
  .next (s.readRecord 1 (wordsBytes [w0, w1]) crc)

/-- DRAM_RECORD, with the words of its payload (R502, R503). -/
def execDramRecord (ws : List Word) (crc : RecordCrc) (s : State) : Host.Outcome State Fault Refusal :=
  .next (s.readRecord 2 (wordsBytes ws) crc)

/-- REG_RECORD, with its pairs of offset and value (R502). -/
def execRegRecord (pairs : List (Word × Word)) (crc : RecordCrc) (s : State) : Host.Outcome State Fault Refusal :=
  .next (s.readRecord 3 (wordsBytes (pairs.flatMap (fun p => [p.1, p.2]))) crc)

/-- MEM_RECORD: data from a device address on (R502, R503). -/
def execMemRecord (addr : DWord) (data : List Word) (crc : RecordCrc) (s : State) : Host.Outcome State Fault Refusal :=
  .next (s.readRecord 4 (leBytes 8 addr.toNat ++ wordsBytes data) crc)

/-- FILL_RECORD: a range filled with a pattern (R502, R503). -/
def execFillRecord (addr : DWord) (len pattern : Word) (crc : RecordCrc) (s : State) : Host.Outcome State Fault Refusal :=
  .next (s.readRecord 5 (leBytes 8 addr.toNat ++ wordsBytes [len, pattern]) crc)

/-- LOCK_RECORD, with its register offsets (R502). -/
def execLockRecord (offs : List Word) (crc : RecordCrc) (s : State) : Host.Outcome State Fault Refusal :=
  .next (s.readRecord 6 (wordsBytes offs) crc)

/-- END_RECORD (R502). -/
def execEndRecord (crc : RecordCrc) (s : State) : Host.Outcome State Fault Refusal := .next (s.readRecord 7 [] crc)

/-- IMAGE_COPY_CHECKED (R504). -/
def execImageCopyChecked (e : CopyEnd) (s : State) : Host.Outcome State Fault Refusal := .next (s.copyChecked e)

/-- APPLY_DONE (R506). -/
def execApplyDone (s : State) : Host.Outcome State Fault Refusal := .next s.applied

/-- AMEND_ENTRY: the next entry of the amendment area (R514). -/
def execAmendEntry (entry : List Byte) (s : State) : Host.Outcome State Fault Refusal := .next (s.amendEntry entry)

/-- ALMANAC_LOAD: what the two slots hold (R395). -/
def execAlmanacLoad (slot0 slot1 : List Byte) (s : State) : Host.Outcome State Fault Refusal := .next (s.almStage slot0 slot1)

/-- SELFTEST_DONE: the pins with failing converters, bit 0 and bit 1 naming converter 0 and 1 (R508). -/
def execSelftestDone (fails : List (Fin 512 × Fin 4)) (s : State) : Host.Outcome State Fault Refusal :=
  .next (s.selfTested (fails.map (fun x => (x.1.val, x.2.val))))

/-- AMD_APPLY (R512). -/
def execAmdApply (s : State) : Host.Outcome State Fault Refusal := .next s.amdApply

/-- AMD_PERSIST_DONE (R513). -/
def execAmdPersistDone (area : List Byte) (back : Option (List Byte)) (s : State) : Host.Outcome State Fault Refusal :=
  .next (s.amdStored area back)

end Sys2Proof.Machine
end

