-- ==== Sys2Proof/Machine/Dispatch.lean ====
section
/-! DEFINITION. One arm per command, each a direct call of its meaning. -/
namespace Sys2Proof.Machine

/-- The effect of a command on everything but the queue. -/
def exec (i : Instr) (s : State) : Host.Outcome State Fault Refusal :=
  match i with
  | .registerWrite o a v => Sys2Proof.Machine.execRegisterWrite o a v s
  | .lowWordRead o a => Sys2Proof.Machine.execLowWordRead o a s
  | .highWordRead o a => Sys2Proof.Machine.execHighWordRead o a s
  | .lowWordWrite o a v => Sys2Proof.Machine.execLowWordWrite o a v s
  | .highWordWrite o a v => Sys2Proof.Machine.execHighWordWrite o a v s
  | .badWidthAccess o a n data => Sys2Proof.Machine.execBadWidthAccess o a n data s
  | .broadcastWrite o g off v => Sys2Proof.Machine.execBroadcastWrite o g off v s
  | .groupMapWrite o a v => Sys2Proof.Machine.execGroupMapWrite o a v s
  | .siteLevelWrite o v => Sys2Proof.Machine.execSiteLevelWrite o v s
  | .paceWindowEnd busy => Sys2Proof.Machine.execPaceWindowEnd busy s
  | .blockDecode j ecc => Sys2Proof.Machine.execBlockDecode j ecc s
  | .vec j => Sys2Proof.Machine.execVec j s
  | .rpt j => Sys2Proof.Machine.execRpt j s
  | .lbeg j => Sys2Proof.Machine.execLbeg j s
  | .lend j => Sys2Proof.Machine.execLend j s
  | .mloop j => Sys2Proof.Machine.execMloop j s
  | .jmp j => Sys2Proof.Machine.execJmp j s
  | .jc j => Sys2Proof.Machine.execJc j s
  | .call j => Sys2Proof.Machine.execCall j s
  | .ret j => Sys2Proof.Machine.execRet j s
  | .hold j => Sys2Proof.Machine.execHold j s
  | .holdCountEnd j => Sys2Proof.Machine.execHoldCountEnd j s
  | .next j => Sys2Proof.Machine.execNext j s
  | .lvl j => Sys2Proof.Machine.execLvl j s
  | .retime j => Sys2Proof.Machine.execRetime j s
  | .frame j => Sys2Proof.Machine.execFrame j s
  | .mark j => Sys2Proof.Machine.execMark j s
  | .sync j => Sys2Proof.Machine.execSync j s
  | .waitf j => Sys2Proof.Machine.execWaitf j s
  | .xact j => Sys2Proof.Machine.execXact j s
  | .stop j => Sys2Proof.Machine.execStop j s
  | .halt j => Sys2Proof.Machine.execHalt j s
  | .vectorIssue j ecc => Sys2Proof.Machine.execVectorIssue j ecc s
  | .vectorCycle j => Sys2Proof.Machine.execVectorCycle j s
  | .driveEdge p => Sys2Proof.Machine.execDriveEdge p s
  | .strobeSample p => Sys2Proof.Machine.execStrobeSample p s
  | .clockToggle p => Sys2Proof.Machine.execClockToggle p s
  | .resultReturn j parity => Sys2Proof.Machine.execResultReturn j parity s
  | .decisionResolve j => Sys2Proof.Machine.execDecisionResolve j s
  | .failLogWrite j => Sys2Proof.Machine.execFailLogWrite j s
  | .drainComplete j => Sys2Proof.Machine.execDrainComplete j s
  | .idleApply j p => Sys2Proof.Machine.execIdleApply j p s
  | .seqStart o j => Sys2Proof.Machine.execSeqStart o j s
  | .siteArmed j => Sys2Proof.Machine.execSiteArmed j s
  | .seqAbort j => Sys2Proof.Machine.execSeqAbort j s
  | .seqResume j => Sys2Proof.Machine.execSeqResume j s
  | .segPublish j id e => Sys2Proof.Machine.execSegPublish j id e s
  | .segUnpublish j id => Sys2Proof.Machine.execSegUnpublish j id s
  | .segtabWrite o j range v => Sys2Proof.Machine.execSegtabWrite o j range v s
  | .flagSet j v => Sys2Proof.Machine.execFlagSet j v s
  | .flagClear j v => Sys2Proof.Machine.execFlagClear j v s
  | .resultRingWrite o j v => Sys2Proof.Machine.execResultRingWrite o j v s
  | .result0Read o j => Sys2Proof.Machine.execResult0Read o j s
  | .refMissingEdge n => Sys2Proof.Machine.execRefMissingEdge n s
  | .freqWindowCheck a b => Sys2Proof.Machine.execFreqWindowCheck a b s
  | .refQualifyTimer n => Sys2Proof.Machine.execRefQualifyTimer n s
  | .holdoverSwitch => Sys2Proof.Machine.execHoldoverSwitch s
  | .refCfgWrite o v => Sys2Proof.Machine.execRefCfgWrite o v s
  | .refCfgDeferredApply => Sys2Proof.Machine.execRefCfgDeferredApply s
  | .timebaseLock fa fb => Sys2Proof.Machine.execTimebaseLock fa fb s
  | .meridianLoRead o => Sys2Proof.Machine.execMeridianLoRead o s
  | .armEstablish => Sys2Proof.Machine.execArmEstablish s
  | .softEpoch => Sys2Proof.Machine.execSoftEpoch s
  | .epochInQualify => Sys2Proof.Machine.execEpochInQualify s
  | .epochInGlitch => Sys2Proof.Machine.execEpochInGlitch s
  | .epochAct => Sys2Proof.Machine.execEpochAct s
  | .epochNextWrite o v => Sys2Proof.Machine.execEpochNextWrite o v s
  | .epochTimeout => Sys2Proof.Machine.execEpochTimeout s
  | .fsyncEdge n rising => Sys2Proof.Machine.execFsyncEdge n rising s
  | .fsyncLate j => Sys2Proof.Machine.execFsyncLate j s
  | .gridWrite o off v => Sys2Proof.Machine.execGridWrite o off v s
  | .pinIdleWrite o p v => Sys2Proof.Machine.execPinIdleWrite o p v s
  | .clockCfgWrite o p phase v => Sys2Proof.Machine.execClockCfgWrite o p phase v s
  | .timingTableWrite o p off v => Sys2Proof.Machine.execTimingTableWrite o p off v s
  | .levelSample volts amps => Sys2Proof.Machine.execLevelSample volts amps s
  | .levelApplyCmd o p v => Sys2Proof.Machine.execLevelApplyCmd o p v s
  | .clampWrite o p v => Sys2Proof.Machine.execClampWrite o p v s
  | .tripRearm o p => Sys2Proof.Machine.execTripRearm o p s
  | .twilightLevelCheck dev => Sys2Proof.Machine.execTwilightLevelCheck dev s
  | .streamRequest j => Sys2Proof.Machine.execStreamRequest j s
  | .streamDataArrive j e => Sys2Proof.Machine.execStreamDataArrive j e s
  | .grantInterval => Sys2Proof.Machine.execGrantInterval s
  | .crossing p t x => Sys2Proof.Machine.execCrossing p t x s
  | .eventCloseTimeout p => Sys2Proof.Machine.execEventCloseTimeout p s
  | .stampDone p => Sys2Proof.Machine.execStampDone p s
  | .triggerTimeout p u t => Sys2Proof.Machine.execTriggerTimeout p u t s
  | .tdcArm p => Sys2Proof.Machine.execTdcArm p s
  | .tdcCancel p => Sys2Proof.Machine.execTdcCancel p s
  | .tdcArmInstant p => Sys2Proof.Machine.execTdcArmInstant p s
  | .tdcResult p => Sys2Proof.Machine.execTdcResult p s
  | .tdcTimeout p => Sys2Proof.Machine.execTdcTimeout p s
  | .tdcRepeatArm p => Sys2Proof.Machine.execTdcRepeatArm p s
  | .redOperand => Sys2Proof.Machine.execRedOperand s
  | .redSnap a snap => Sys2Proof.Machine.execRedSnap a snap s
  | .redSnapDone => Sys2Proof.Machine.execRedSnapDone s
  | .redDump first last go => Sys2Proof.Machine.execRedDump first last go s
  | .redDumpDone => Sys2Proof.Machine.execRedDumpDone s
  | .redClear first last clr => Sys2Proof.Machine.execRedClear first last clr s
  | .ivlRingWrite o k v => Sys2Proof.Machine.execIvlRingWrite o k v s
  | .portWrite o n k v => Sys2Proof.Machine.execPortWrite o n k v s
  | .listBurstRun o j l => Sys2Proof.Machine.execListBurstRun o j l s
  | .xactDispatch j => Sys2Proof.Machine.execXactDispatch j s
  | .xactEngineVisit => Sys2Proof.Machine.execXactEngineVisit s
  | .tplEmit n => Sys2Proof.Machine.execTplEmit n s
  | .tplShift n => Sys2Proof.Machine.execTplShift n s
  | .tplLoop n => Sys2Proof.Machine.execTplLoop n s
  | .tplBranch n => Sys2Proof.Machine.execTplBranch n s
  | .tplWaithi n => Sys2Proof.Machine.execTplWaithi n s
  | .tplFail n => Sys2Proof.Machine.execTplFail n s
  | .tplEnd n => Sys2Proof.Machine.execTplEnd n s
  | .captureBitReturn => Sys2Proof.Machine.execCaptureBitReturn s
  | .flowRun j => Sys2Proof.Machine.execFlowRun j s
  | .flowStopCmd j abort => Sys2Proof.Machine.execFlowStopCmd j abort s
  | .clrBins j => Sys2Proof.Machine.execClrBins j s
  | .dlogFlush j => Sys2Proof.Machine.execDlogFlush j s
  | .flowEnd j => Sys2Proof.Machine.execFlowEnd j s
  | .flowBurst j => Sys2Proof.Machine.execFlowBurst j s
  | .flowXlist j => Sys2Proof.Machine.execFlowXlist j s
  | .flowMeas j => Sys2Proof.Machine.execFlowMeas j s
  | .flowCalc j => Sys2Proof.Machine.execFlowCalc j s
  | .flowLimit j => Sys2Proof.Machine.execFlowLimit j s
  | .flowBin j => Sys2Proof.Machine.execFlowBin j s
  | .flowJump j => Sys2Proof.Machine.execFlowJump j s
  | .flowWait j => Sys2Proof.Machine.execFlowWait j s
  | .flowWaitDone j => Sys2Proof.Machine.execFlowWaitDone j s
  | .flowWrite j => Sys2Proof.Machine.execFlowWrite j s
  | .flowLog j => Sys2Proof.Machine.execFlowLog j s
  | .flowHret j => Sys2Proof.Machine.execFlowHret j s
  | .handlerStart j => Sys2Proof.Machine.execHandlerStart j s
  | .batchSigned => Sys2Proof.Machine.execBatchSigned s
  | .dlogTailWrite o j v => Sys2Proof.Machine.execDlogTailWrite o j v s
  | .dlogRingWrite o j k v => Sys2Proof.Machine.execDlogRingWrite o j k v s
  | .epoch p x w1 w2 w3 => Sys2Proof.Machine.execEpoch p x w1 w2 w3 s
  | .event p x w1 w2 => Sys2Proof.Machine.execEvent p x w1 w2 s
  | .evtState p x vector => Sys2Proof.Machine.execEvtState p x vector s
  | .probe p x id turn => Sys2Proof.Machine.execProbe p x id turn s
  | .probeReply p x id turn => Sys2Proof.Machine.execProbeReply p x id turn s
  | .nak p x => Sys2Proof.Machine.execNak p x s
  | .hello p x w => Sys2Proof.Machine.execHello p x w s
  | .msgRd p x addr => Sys2Proof.Machine.execMsgRd p x addr s
  | .msgWr p x addr v => Sys2Proof.Machine.execMsgWr p x addr v s
  | .msgRsp p x w => Sys2Proof.Machine.execMsgRsp p x w s
  | .idle p x => Sys2Proof.Machine.execIdle p x s
  | .linkSilence p => Sys2Proof.Machine.execLinkSilence p s
  | .blockLockLost p => Sys2Proof.Machine.execBlockLockLost p s
  | .replayTimeout p => Sys2Proof.Machine.execReplayTimeout p s
  | .linkUp p => Sys2Proof.Machine.execLinkUp p s
  | .linkQualified p => Sys2Proof.Machine.execLinkQualified p s
  | .helloTimer => Sys2Proof.Machine.execHelloTimer s
  | .probeTimer => Sys2Proof.Machine.execProbeTimer s
  | .probeTimeout p => Sys2Proof.Machine.execProbeTimeout p s
  | .idleTimer p => Sys2Proof.Machine.execIdleTimer p s
  | .msgGo v => Sys2Proof.Machine.execMsgGo v s
  | .msgTimeout => Sys2Proof.Machine.execMsgTimeout s
  | .rootEpoch o tag => Sys2Proof.Machine.execRootEpoch o tag s
  | .commitNext o tag => Sys2Proof.Machine.execCommitNext o tag s
  | .evtSet v => Sys2Proof.Machine.execEvtSet v s
  | .evtClear v => Sys2Proof.Machine.execEvtClear v s
  | .eventApply => Sys2Proof.Machine.execEventApply s
  | .calRun o tag => Sys2Proof.Machine.execCalRun o tag s
  | .calCancel o tag => Sys2Proof.Machine.execCalCancel o tag s
  | .calCommit o tag => Sys2Proof.Machine.execCalCommit o tag s
  | .calCommitEpoch o tag => Sys2Proof.Machine.execCalCommitEpoch o tag s
  | .calDisarm o tag => Sys2Proof.Machine.execCalDisarm o tag s
  | .calCopy o tag => Sys2Proof.Machine.execCalCopy o tag s
  | .calStepStart k => Sys2Proof.Machine.execCalStepStart k s
  | .calStepDone k m => Sys2Proof.Machine.execCalStepDone k m s
  | .almanacSave slot0 slot1 => Sys2Proof.Machine.execAlmanacSave slot0 slot1 s
  | .almanacSaveDone back => Sys2Proof.Machine.execAlmanacSaveDone back s
  | .portBAccess o x n data e a => Sys2Proof.Machine.execPortBAccess o x n data e a s
  | .aliasSetWrite o x data => Sys2Proof.Machine.execAliasSetWrite o x data s
  | .aliasClearWrite o x data => Sys2Proof.Machine.execAliasClearWrite o x data s
  | .scrubRead e => Sys2Proof.Machine.execScrubRead e s
  | .bankPowerRequest o n v => Sys2Proof.Machine.execBankPowerRequest o n v s
  | .bankPowerChange b => Sys2Proof.Machine.execBankPowerChange b s
  | .bankWakeDone b => Sys2Proof.Machine.execBankWakeDone b s
  | .bankCleared b => Sys2Proof.Machine.execBankCleared b s
  | .secureWiped => Sys2Proof.Machine.execSecureWiped s
  | .bistBankStart => Sys2Proof.Machine.execBistBankStart s
  | .bistCopyDone b => Sys2Proof.Machine.execBistCopyDone b s
  | .bistMarchDone pass => Sys2Proof.Machine.execBistMarchDone pass s
  | .memRepair b => Sys2Proof.Machine.execMemRepair b s
  | .spareExhausted => Sys2Proof.Machine.execSpareExhausted s
  | .memClrCounts => Sys2Proof.Machine.execMemClrCounts s
  | .dramPick ch => Sys2Proof.Machine.execDramPick ch s
  | .dramRefresh => Sys2Proof.Machine.execDramRefresh s
  | .dramScrub e => Sys2Proof.Machine.execDramScrub e s
  | .dramTempRead need hot => Sys2Proof.Machine.execDramTempRead need hot s
  | .fspGo k => Sys2Proof.Machine.execFspGo k s
  | .fspChangeBegin => Sys2Proof.Machine.execFspChangeBegin s
  | .dramTrainGo => Sys2Proof.Machine.execDramTrainGo s
  | .trainStepDone ch rdW rdH wrW wrH => Sys2Proof.Machine.execTrainStepDone ch rdW rdH wrW wrH s
  | .laneCheck eyes => Sys2Proof.Machine.execLaneCheck eyes s
  | .dramPowerRequest o v => Sys2Proof.Machine.execDramPowerRequest o v s
  | .dramPowerChange => Sys2Proof.Machine.execDramPowerChange s
  | .selfRefreshExit lost => Sys2Proof.Machine.execSelfRefreshExit lost s
  | .dramSegmentCleared => Sys2Proof.Machine.execDramSegmentCleared s
  | .drcClrCounts => Sys2Proof.Machine.execDrcClrCounts s
  | .dmaEnable o n halt prio => Sys2Proof.Machine.execDmaEnable o n halt prio s
  | .dmaDisable o n halt prio => Sys2Proof.Machine.execDmaDisable o n halt prio s
  | .dmaStop o n halt prio => Sys2Proof.Machine.execDmaStop o n halt prio s
  | .dmaDoorbell n => Sys2Proof.Machine.execDmaDoorbell n s
  | .dmaDescRead n e => Sys2Proof.Machine.execDmaDescRead n e s
  | .dmaCopy n bytes meets => Sys2Proof.Machine.execDmaCopy n bytes meets s
  | .dmaFill n bytes meets => Sys2Proof.Machine.execDmaFill n bytes meets s
  | .dmaDescDone n host => Sys2Proof.Machine.execDmaDescDone n host s
  | .dmaRingWrite o n k v => Sys2Proof.Machine.execDmaRingWrite o n k v s
  | .hostPortReset r => Sys2Proof.Machine.execHostPortReset r s
  | .configRequest q => Sys2Proof.Machine.execConfigRequest q s
  | .hostRequest q => Sys2Proof.Machine.execHostRequest q s
  | .hostStallTimeout => Sys2Proof.Machine.execHostStallTimeout s
  | .eventEnter => Sys2Proof.Machine.execEventEnter s
  | .evtEnable o v => Sys2Proof.Machine.execEvtEnable o v s
  | .evtTailWrite v => Sys2Proof.Machine.execEvtTailWrite v s
  | .vectorArm n v => Sys2Proof.Machine.execVectorArm n v s
  | .h2dPost => Sys2Proof.Machine.execH2dPost s
  | .d2hPost => Sys2Proof.Machine.execD2hPost s
  | .porNLow lowNs => Sys2Proof.Machine.execPorNLow lowNs s
  | .nvmReset v => Sys2Proof.Machine.execNvmReset v s
  | .bootMarchDone bad => Sys2Proof.Machine.execBootMarchDone bad s
  | .flashIdDone sfdp primary mirror => Sys2Proof.Machine.execFlashIdDone sfdp primary mirror s
  | .hostRecord w0 w1 crc => Sys2Proof.Machine.execHostRecord w0 w1 crc s
  | .dramRecord ws crc => Sys2Proof.Machine.execDramRecord ws crc s
  | .regRecord pairs crc => Sys2Proof.Machine.execRegRecord pairs crc s
  | .memRecord addr data crc => Sys2Proof.Machine.execMemRecord addr data crc s
  | .fillRecord addr len pattern crc => Sys2Proof.Machine.execFillRecord addr len pattern crc s
  | .lockRecord offs crc => Sys2Proof.Machine.execLockRecord offs crc s
  | .endRecord crc => Sys2Proof.Machine.execEndRecord crc s
  | .imageCopyChecked e => Sys2Proof.Machine.execImageCopyChecked e s
  | .applyDone => Sys2Proof.Machine.execApplyDone s
  | .amendEntry entry => Sys2Proof.Machine.execAmendEntry entry s
  | .almanacLoad slot0 slot1 => Sys2Proof.Machine.execAlmanacLoad slot0 slot1 s
  | .selftestDone fails => Sys2Proof.Machine.execSelftestDone fails s
  | .amdSubmit => Sys2Proof.Machine.execAmdSubmit s
  | .amdCheckDone => Sys2Proof.Machine.execAmdCheckDone s
  | .amdApply => Sys2Proof.Machine.execAmdApply s
  | .amdPersistDone area back => Sys2Proof.Machine.execAmdPersistDone area back s
  | .secKeygen o => Sys2Proof.Machine.execSecKeygen o s
  | .keygenDone => Sys2Proof.Machine.execKeygenDone s
  | .secNonce o => Sys2Proof.Machine.execSecNonce o s
  | .tokenSubmit o => Sys2Proof.Machine.execTokenSubmit o s
  | .tokenCheckDone => Sys2Proof.Machine.execTokenCheckDone s
  | .lifecycleCommit => Sys2Proof.Machine.execLifecycleCommit s
  | .tamperEvent => Sys2Proof.Machine.execTamperEvent s
  | .audCkpt o => Sys2Proof.Machine.execAudCkpt o s
  | .checkpointSigned => Sys2Proof.Machine.execCheckpointSigned s
  | .audRingMove o size v => Sys2Proof.Machine.execAudRingMove o size v s
  | .audTailWrite o v => Sys2Proof.Machine.execAudTailWrite o v s
  | .debugAccess op => Sys2Proof.Machine.execDebugAccess op s
  | .tapReset => Sys2Proof.Machine.execTapReset s
  | .extestLoad => Sys2Proof.Machine.execExtestLoad s
  | .standby => Sys2Proof.Machine.execStandby s
  | .standbyEnter => Sys2Proof.Machine.execStandbyEnter s
  | .wake => Sys2Proof.Machine.execWake s
  | .standbyExit => Sys2Proof.Machine.execStandbyExit s
  | .domainRequest o v => Sys2Proof.Machine.execDomainRequest o v s
  | .octantOffDone k => Sys2Proof.Machine.execOctantOffDone k s
  | .octantOnDone k pins volts => Sys2Proof.Machine.execOctantOnDone k pins volts s
  | .supplySample mv => Sys2Proof.Machine.execSupplySample mv s
  | .twilightExit => Sys2Proof.Machine.execTwilightExit s
  | .avsResponseTimeout read => Sys2Proof.Machine.execAvsResponseTimeout read s
  | .avsReadback mv => Sys2Proof.Machine.execAvsReadback mv s
  | .tempSample temp => Sys2Proof.Machine.execTempSample temp s
  | .heartbeatTimeout k => Sys2Proof.Machine.execHeartbeatTimeout k s
  | .extestRelease => Sys2Proof.Machine.execExtestRelease s
  | .pcieLinkUp speed w => Sys2Proof.Machine.execPcieLinkUp speed w s
  | .tamperNRelease => Sys2Proof.Machine.execTamperNRelease s
  | .powerRemoved => Sys2Proof.Machine.execPowerRemoved s
  | .fspChangeDone => Sys2Proof.Machine.execFspChangeDone s

end Sys2Proof.Machine
end

