-- ==== Sys2Proof/Safety.lean ====
section
/-! DEFINITION. What the statements call a good state: the sparse parts of the state in their canonical form, and what a step may do. -/
namespace Sys2Proof.Machine

/-- On-chip memory is in canonical form: its addresses rise strictly, and no entry equals what an unlisted byte reads as. -/
def Memory.wf (m : Sparse Byte) : Bool := Sparse.wf memDefault m

/-- Both memories are in canonical form. -/
def State.memWf (s : State) : Bool := Memory.wf s.mem && Memory.wf s.dram

/-- The registers are in canonical form: only words that differ from their reset words are listed. -/
def State.regsWf (s : State) : Bool := Sparse.wf resetWord s.regs

/-- The canonical form of the tables of the state. -/
def State.canon (s : State) : Bool :=
  s.memWf && s.regsWf && Sparse.wf (fun _ => Pin.reset) s.pins && Sparse.wf (fun _ => Site.reset) s.sites

/-- The saturating counts of the key store are 32 bits wide (R542). -/
def KeyStore.sound (a : KeyStore) : Bool := decide (a.bootCount < 2 ^ 32) && decide (a.tamperCount < 2 ^ 32)

/-- A good state: its tables are in canonical form, and the counts of the key store fit their registers. -/
def State.good (s : State) : Bool := s.canon && s.nv.sound

/-- Whether a register is one that a write to memory or a check of memory may change: the status bits, error counters and error addresses of the
MEM and DRC blocks, and UNMAPPED and its address. -/
def putReg (a : Nat) : Bool :=
  [MEM_STATUS_CE.addr, MEM_CE_COUNT.addr, MEM_UE_COUNT.addr, MEM_UE_ADDR.addr, DRC_STATUS_CE.addr, DRC_CE_COUNT.addr, DRC_UE_COUNT.addr,
    DRC_UE_ADDR_LO_ADDR.addr, DRC_UE_ADDR_HI_ADDR.addr, SYS_ARCH_STATUS_UNMAPPED.addr, SYS_UNMAPPED_ADDR_LO_ADDR.addr,
    SYS_UNMAPPED_ADDR_HI_ADDR.addr].contains a

/-- Whether a register is one of those, or one that an audit record may change: HEAD, TAIL, STATUS, SEQ, LOST and CHAIN of the AUD block. -/
def storeReg (a : Nat) : Bool :=
  putReg a || ([AUD_RING_HEAD.addr, AUD_RING_TAIL.addr, AUD_STATUS_LOSS.addr, AUD_SEQ.addr, AUD_LOST.addr].contains a ||
    (decide ((AUD_CHAIN 0).addr ≤ a) && decide (a ≤ (AUD_CHAIN 11).addr)))

/-- The state without what a write to memory, a check of memory or an audit record may change: registers, both memories with their error
marks, the memory and audit units, the sites and the events raised. -/
def State.rest (s : State) : State :=
  { s with regs := [], mem := [], memUe := [], memCarried := [], dram := [], dramUe := [], events := [], memory := MemState.reset,
           aud := AudState.reset, sites := [] }

/-- A site without the marks of R131 and R326: that a write met what it is using. -/
def Site.unmarked (t : Site) : Site := { t with unsure := false, burst := { t.burst with undef := false } }

/-- The sites of two states differ at most in those marks. -/
abbrev sameSites (s t : State) : Prop := ∀ i, (t.site i).unmarked = (s.site i).unmarked

/-- Two states differ at most in what a write to memory, a check of memory or an audit record may change. -/
def sameRest (s t : State) : Prop := t.rest = s.rest ∧ sameSites s t

/-- The registers outside a list of offsets read the same words in both states. -/
def sameRegs (l : List Nat) (s t : State) : Prop := ∀ a, a ∉ l → t.reg a = s.reg a

/-- The registers outside a list of offsets, but for those of `storeReg`, read the same words in both states. -/
def sameRegsBut (l : List Nat) (s t : State) : Prop := ∀ a, a ∉ l → storeReg a = false → t.reg a = s.reg a

end Sys2Proof.Machine
end

