-- ==== Sys2Proof/Certificates/Slice0/Obligations.lean ====
section
/-! DEFINITION. The statements about the model, one definition of a proposition each, with the notions they are stated in. -/

open Sys2Proof Sys2Proof.Machine
/-! The queue, time, and what every command keeps. -/

/-- A step with a command at the front of the queue is that command's effect with the rest of the queue. With no command waiting it lets one timing
unit of 1,250 quarter picoseconds pass (R3) and changes nothing else: the model's choice of log 1. -/
def Obligations.StepRunsFront : Prop :=
  (∀ (s : State) (c : Instr) (rest : List Instr), s.pending = c :: rest → step s = exec c { s with pending := rest }) ∧
    ∀ s : State, s.pending = [] → step s = .next { s with now := s.now + 1250 }

/-- Right after reset the state is good, nothing waits, every site is IDLE and every segment INACTIVE (R129), and every register reads the reset word
of its table. What has no register is empty, idle and in place then: the model's choice of log 15. -/
def Obligations.ResetIsGood : Prop :=
  State.reset.good = true ∧ State.reset.pending = [] ∧ (∀ i, i < 16 → State.reset.idle i = true) ∧
    (∀ i id, (State.reset.seg i id).state = .inactive) ∧ (∀ a, State.reset.reg a = resetWord a) ∧ State.reset.get NVM_STATUS_STAGE = 0 ∧
    (∀ b, b < 64 → State.reset.phys b = b)

/-- Every step from a good state gives a good state: memories, registers, pins and sites stay in canonical form, and the counts of the key store
stay 32 bits wide. -/
def Obligations.StepKeepsGood : Prop := ∀ s t : State, s.good = true → step s = .next t → t.good = true

/-- No command takes back what came before it: it leaves the queue of the other commands alone, time never runs back, what has left the device stays,
and in a state whose counts fit their registers the counts of boots, of tamper events and of identity keys made never fall. -/
def Obligations.CommandsKeepHistory : Prop :=
  ∀ (c : Instr) (s t : State), exec c s = .next t →
    t.pending = s.pending ∧ s.now ≤ t.now ∧ s.out <+: t.out ∧
      (s.nv.sound = true → s.nv.bootCount ≤ t.nv.bootCount ∧ s.nv.tamperCount ≤ t.nv.tamperCount ∧ s.nv.keysMade ≤ t.nv.keysMade)

/-- Every command but SUPPLY_SAMPLE and TEMP_SAMPLE gives a next state, in every state and with every operand. -/
def Obligations.OnlySamplesStop : Prop :=
  ∀ (c : Instr) (s : State), (∀ mv, c ≠ .supplySample mv) → (∀ temp, c ≠ .tempSample temp) → ∃ t, exec c s = .next t

/-! Reset (R497, R517, R532, R546, R582, R585). -/

/-- The state after a full reset of state `s` by a cause (R497, R535): everything at its reset value but the cause in NVM_RESET_CAUSE, the RESET record
that waits for the audit ring, and the key store with the boot counted; the queue, the time, the voltages at the pins and what has left the device
stay. -/
def resetTo (s t : State) (cause : Nat) : Prop :=
  let n := min (s.nv.bootCount + 1) (2 ^ 32 - 1)
  t = { State.reset with
          pending := s.pending, now := s.now, out := s.out, fresh := s.fresh, regs := t.regs, nv := { s.nv with bootCount := n },
          pins := resetPins s.pins, aud := { AudState.reset with hold := [resetRecord cause n] }, boot := { BootState.reset with start := s.now } } ∧
    t.get NVM_RESET_CAUSE = cause ∧ ∀ a, a ≠ NVM_RESET_CAUSE.addr → t.reg a = resetWord a

/-- A low pulse of at least 1 µs on POR_N, NVM_RESET with its key, the reset instruction of the test access port and EXTEST reset the device with the
causes 1, 4, 5 and 5; a shorter pulse than 0.5 µs and NVM_RESET without GO or its key change nothing; the end of EXTEST starts the boot; and with
the removal of all supplies only the key store remains, until POR_N. That what has no register is as after the first reset is the model's choice of
logs 2 and 15.
Each of these commands completes here, on conditions on the state and its operands alone: POR_N_LOW, NVM_RESET, TAP_RESET, EXTEST_LOAD,
EXTEST_RELEASE, POWER_REMOVED. -/
def Obligations.FullResets : Prop :=
  ∀ s : State,
    (∀ ns, 1000 ≤ ns → s.heldReset = false ∨ s.pwr.removed = true → ∃ t, exec (.porNLow ns) s = .next t ∧ resetTo s t 1) ∧
    (∀ ns, ns < 500 → exec (.porNLow ns) s = .next s) ∧
    (∀ v, fieldGet 0 1 v = 1 → fieldGet 16 16 v = 0x5EB0 → s.heldReset = false → ∃ t, exec (.nvmReset v) s = .next t ∧ resetTo s t 4) ∧
    (∀ v, fieldGet 0 1 v ≠ 1 ∨ fieldGet 16 16 v ≠ 0x5EB0 → exec (.nvmReset v) s = .next s) ∧
    (s.debugOk = true → s.heldReset = false → ∃ t, exec .tapReset s = .next t ∧ resetTo s t 5) ∧
    (s.debugOk = false → exec .tapReset s = .next s) ∧
    (s.heldReset = false → ∃ t u, exec .extestLoad s = .next t ∧ resetTo s u 5 ∧ t = { u with pwr := { u.pwr with extest := true } }) ∧
    (s.pwr.extest = true →
      exec .extestRelease s = .next { s with pwr := { s.pwr with extest := false }, boot := { s.boot with start := s.now } }) ∧
    (∃ t, exec .powerRemoved s = .next t ∧ t.nv = s.nv ∧ t.pwr.removed = true ∧ t.mem = [] ∧ t.dram = [] ∧ t.events = [] ∧
      (∀ a, t.reg a = resetWord a) ∧ (∀ i, t.site i = Site.reset) ∧ (s.canon = true → ∀ p, t.pin p = Pin.resetAt (s.pin p).volt))

/-! Identity and life cycle (R521, R526 to R530). -/

/-- KEYGEN in BLANK without a key sets the security unit to KEYGEN, and its end makes the identity key of the next number; elsewhere KEYGEN is ignored
with BAD_KIND. NONCE loads a value of the random source, which is free. SUBMIT reads the token, consumes the nonce and goes to CHECKING; while
another is in progress it is refused with BUSY. A write that the life-cycle state does not allow the origin sets DENY (R531).
Each of these commands completes here, on conditions on the state and its operands alone: SEC_KEYGEN, KEYGEN_DONE, SEC_NONCE, TOKEN_SUBMIT. -/
def Obligations.KeysAndTokens : Prop :=
  ∀ (s : State) (o : Origin),
    (s.secWriteAllowed o = true → s.nv.lc = .blank → s.nv.identity = none → s.get SEC_STATUS_STATE = 0 →
      ∃ t, exec (.secKeygen o) s = .next t ∧ t = { s with regs := t.regs, sec := { s.sec with keygen := true } } ∧
        t.get SEC_STATUS_STATE = 3 ∧ sameRegs [SEC_STATUS_STATE.addr] s t) ∧
    (s.secWriteAllowed o = true → s.nv.lc ≠ .blank ∨ s.nv.identity ≠ none →
      ∃ t, exec (.secKeygen o) s = .next t ∧ t = { s with regs := t.regs } ∧ t.get SEC_STATUS_RESULT = 2 ∧
        sameRegs [SEC_STATUS_STATE.addr] s t) ∧
    (s.sec.keygen = true →
      ∃ t, exec .keygenDone s = .next t ∧ t.nv = { s.nv with identity := some s.nv.keysMade, keysMade := s.nv.keysMade + 1 } ∧
        t.sec = { s.sec with keygen := false } ∧ t.get SEC_STATUS_STATE = 0 ∧ t.get SEC_STATUS_RESULT = 0 ∧
        sameRegs [SEC_STATUS_STATE.addr] s t) ∧
    (s.secWriteAllowed o = true →
      ∃ t, exec (.secNonce o) s = .next t ∧ t.get64 SEC_NONCE_LO_NONCE SEC_NONCE_HI_NONCE = (Config.nonce s.fresh).toNat ∧
        t.sec = { s.sec with nonceUsed := false } ∧ t.nv = s.nv ∧
        sameRegs [SEC_NONCE_LO_NONCE.addr, SEC_NONCE_HI_NONCE.addr] s t) ∧
    (s.secWriteAllowed o = true → s.get SEC_STATUS_STATE = 0 → inOcm s.tokenBase 0x100 = true → s.sec.nonceUsed = false →
      ∃ t, exec (.tokenSubmit o) s = .next t ∧ t.get SEC_STATUS_STATE = 1 ∧ t.get64 SEC_NONCE_LO_NONCE SEC_NONCE_HI_NONCE = 0 ∧
        t.sec = { s.sec with nonceUsed := true, checking := some ⟨s.get64 SEC_NONCE_LO_NONCE SEC_NONCE_HI_NONCE, s.tokenBase,
          s.tokenBytes s.tokenBase, o⟩ } ∧ t.nv = s.nv ∧
        sameRegsBut [SEC_STATUS_STATE.addr, SEC_NONCE_LO_NONCE.addr, SEC_NONCE_HI_NONCE.addr] s t) ∧
    (s.secWriteAllowed o = true → s.get SEC_STATUS_STATE ≠ 0 →
      ∃ t, exec (.tokenSubmit o) s = .next t ∧ t = { s with regs := t.regs } ∧ t.get SEC_STATUS_RESULT = 7) ∧
    (s.secWriteAllowed o = false →
      ∃ t, exec (.secKeygen o) s = .next t ∧ exec (.secNonce o) s = .next t ∧ exec (.tokenSubmit o) s = .next t ∧
        t.bit SEC_STATUS_DENY = true ∧ t = { s with regs := t.regs, events := t.events } ∧ sameRegs [SEC_STATUS_DENY.addr] s t)

/-- The end of a token check, for a token that has not changed meanwhile (R527): the first failed check of R527 in RESULT and event 0xF002; a
DEBUG_UNLOCK opens debug at once, with event 0xF006; any other accepted token waits for the sites. Once they are idle it takes effect (R528): the
key store becomes what its kind makes of it, the secure wipe is complete, and event 0xF001 gives the new state.
Each of these commands completes here, on conditions on the state and its operands alone: TOKEN_CHECK_DONE, LIFECYCLE_COMMIT. -/
def Obligations.TokensTakeEffect : Prop :=
  ∀ s : State,
    (∀ c : TokenCheck, s.sec.checking = some c → s.getRegion (s.region c.base) c.bytes.length = c.bytes →
      ∃ t, exec .tokenCheckDone s = .next t ∧ t.get SEC_STATUS_RESULT = s.tokenResult c.nonce c.bytes ∧ t.sec.checking = none ∧ t.nv = s.nv ∧
        (s.tokenResult c.nonce c.bytes ≠ 0 → t.get SEC_STATUS_STATE = 0 ∧ t.sec.waiting = s.sec.waiting ∧
          t.events = s.events ++ [⟨0xF002, noSource, s.tokenResult c.nonce c.bytes, s.tick⟩]) ∧
        (s.tokenResult c.nonce c.bytes = 0 → leAt c.bytes 4 4 % 256 = 5 → t.get SEC_STATUS_STATE = 0 ∧ t.sec.debugOpen = true ∧
          (⟨0xF006, noSource, 0, s.tick⟩ : EventRec) ∈ t.events) ∧
        (s.tokenResult c.nonce c.bytes = 0 → leAt c.bytes 4 4 % 256 ≠ 5 → t.get SEC_STATUS_STATE = 2 ∧
          t.sec.waiting = some ⟨leAt c.bytes 4 4 % 256, (c.bytes.drop 0x100).take (leAt c.bytes 0x20 4), c.origin⟩)) ∧
    (∀ w : TokenWait, s.sec.waiting = some w → s.allQuiet = true →
      ∃ t, exec .lifecycleCommit s = .next t ∧ t.nv = s.nv.commit w.kind w.payload ∧ t.sec = { s.sec with waiting := none } ∧
        t.get SEC_STATUS_STATE = 0 ∧ (⟨0xF001, noSource, t.nv.lc.code, s.tick⟩ : EventRec) ∈ t.events ∧
        (w.kind = 1 → t.nv.lc = .provisioned ∧ t.nv.cert = w.payload) ∧
        (w.kind = 2 → t.nv.lc = .owned ∧ t.nv.ownerKey = some (sec1Point w.payload)) ∧
        (w.kind = 3 → t.nv.lc = .provisioned ∧ t.nv.ownerKey = none) ∧
        (w.kind = 4 → t.nv.lc = .decommissioned ∧ t.nv.identity = none ∧ t.nv.ownerKey = none ∧ t.nv.cert = [])) ∧
    (∀ w : TokenWait, s.sec.waiting = some w → s.allQuiet = false → exec .lifecycleCommit s = .next s)

/-- A tamper event (R529, R530), where TAMPER_N is acted on and was high: the wipe of the secure region starts, OWNED falls back to PROVISIONED
without the owner key, debug closes if it was owned, TAMPER is set, the count saturates, and event 0xF003 gives it; the end of the low lets a later
low form a new event; with TAMPER_EN 0 nothing happens.
Each of these commands completes here, on conditions on the state and its operands alone: TAMPER_EVENT, TAMPER_N_RELEASE. -/
def Obligations.TamperDropsOwnership : Prop :=
  ∀ s : State,
    (s.bit SEC_CFG_TAMPER_EN = true → s.sec.tamperLow = false →
      ∃ t, exec .tamperEvent s = .next t ∧
        t.nv = { s.nv with
          lc := if s.nv.lc = .owned then .provisioned else s.nv.lc
          ownerKey := if s.nv.lc = .owned then none else s.nv.ownerKey
          tamperCount := min (s.nv.tamperCount + 1) (2 ^ 32 - 1) } ∧
        t.sec = { s.sec with tamperLow := true, debugOpen := s.sec.debugOpen && !decide (s.nv.lc = .owned) } ∧
        t.bit SEC_STATUS_TAMPER = true ∧ t.events.getLast? = some ⟨0xF003, noSource, t.nv.tamperCount % 2 ^ 32, s.tick⟩ ∧
        sameRegsBut [SEC_STATUS_TAMPER.addr] s t) ∧
    (s.bit SEC_CFG_TAMPER_EN = false → exec .tamperEvent s = .next s) ∧
    (exec .tamperNRelease s = .next { s with sec := { s.sec with tamperLow := false } })

/-! The audit log (R533, R537, R539). -/

/-- A checkpoint written where nothing is held and it fits takes 192 bytes, the next SEQ and the record count back to 0, and waits for its signature;
the signature of the only one outstanding ends SIGNING and HEAD follows the write position.
Each of these commands completes here, on conditions on the state and its operands alone: AUD_CKPT, CHECKPOINT_SIGNED, AUD_TAIL_WRITE. -/
def Obligations.Checkpoints : Prop :=
  ∀ (s : State) (o : Origin),
    (s.audWriteAllowed o = true → s.aud.hold = [] → s.audOpen = true → 192 ≤ s.audSize - s.aud.used →
      ∃ t, exec (.audCkpt o) s = .next t ∧ t.bit AUD_STATUS_SIGNING = true ∧ t.get AUD_SEQ = (s.get AUD_SEQ + 1) % 2 ^ 32 ∧
        t.aud.wpos = (s.aud.wpos + 192) % s.audSize ∧ t.aud.used = s.aud.used + 192 ∧ t.aud.ckptCount = 0 ∧
        t.aud.signing.length = s.aud.signing.length + 1 ∧ sameRest s t ∧ sameRegsBut [] s t) ∧
    (∀ c, s.aud.signing = [c] →
      ∃ t, exec .checkpointSigned s = .next t ∧ t.aud = { s.aud with signing := [] } ∧ t.bit AUD_STATUS_SIGNING = false ∧
        t.get AUD_RING_HEAD = s.aud.wpos % 2 ^ 32 ∧ sameRest s t ∧ sameRegsBut [] s t) ∧
    (∀ v, s.audWriteAllowed o = false → ∃ t, exec (.audCkpt o) s = .next t ∧ exec (.audTailWrite o v) s = .next t ∧ t.bit SEC_STATUS_DENY = true ∧
      t = { s with regs := t.regs, events := t.events } ∧ sameRegs [SEC_STATUS_DENY.addr] s t)

/-- A write of BASE or SIZE of the audit ring, where the write is allowed and its field is not locked, leaves the new value. A change of SIZE, where
nothing is held or lost, the record of the change fits the old ring and no automatic checkpoint is set, leaves an empty ring with HEAD and TAIL 0. A
write of TAIL with nothing held frees the bytes behind it.
Each of these commands completes here, on conditions on the state and its operands alone: AUD_RING_MOVE, AUD_TAIL_WRITE. -/
def Obligations.AuditRingMoves : Prop :=
  ∀ (s : State) (o : Origin) (v : DWord), s.audWriteAllowed o = true →
    (s.lockOf o AUD_RING_SIZE.addr = 0 →
      ∃ t, exec (.audRingMove o true v) s = .next t ∧ t.reg AUD_RING_SIZE.addr = word v.toNat ∧ sameRest s t ∧
        sameRegsBut [AUD_RING_SIZE.addr] s t ∧
        (s.aud.hold = [] → s.aud.lossOwed = 0 → s.audOpen = true → 32 ≤ s.audSize - s.aud.used → s.get AUD_CKPT_N = 0 →
          s.reg AUD_RING_SIZE.addr ≠ word v.toNat →
          t.get AUD_RING_HEAD = 0 ∧ t.get AUD_RING_TAIL = 0 ∧ t.aud.wpos = 0 ∧ t.aud.used = 0)) ∧
    (s.lockOf o AUD_RING_BASE_LO_BASE.addr = 0 → s.lockOf o AUD_RING_BASE_HI_BASE.addr = 0 →
      ∃ t, exec (.audRingMove o false v) s = .next t ∧ t.get64 AUD_RING_BASE_LO_BASE AUD_RING_BASE_HI_BASE = v.toNat ∧ sameRest s t ∧
        sameRegsBut [AUD_RING_BASE_LO_BASE.addr, AUD_RING_BASE_HI_BASE.addr] s t) ∧
    (∀ w : Word, s.aud.hold = [] → s.aud.lossOwed = 0 → s.audSize ≠ 0 →
      ∃ t, exec (.audTailWrite o w) s = .next t ∧ t.get AUD_RING_TAIL = w.toNat ∧
        t.aud = { s.aud with used := (s.aud.wpos + s.audSize - w.toNat % s.audSize) % s.audSize } ∧
        t = { s with regs := t.regs, aud := t.aud } ∧ sameRegs [AUD_RING_TAIL.addr] s t)

/-! The event queue, MSI-X, the mailbox and the host port (R473, R474, R482 to R487, R490). -/

/-- EVENT_ENTER with sites below service level (R483): the oldest record raised leaves the list and takes the next EVT_SEQ; with the ring enabled, well
placed and not full it is stored and HEAD moves on, and with the ring full in STOP mode it is dropped, counted, and sets OVERFLOW. EVT_CFG.EN changing
to 1 empties the queue and checks the ring. A write of EVT_Q_TAIL below SIZE is taken, any other is discarded.
Each of these commands completes here, on conditions on the state and its operands alone: EVENT_ENTER, EVT_ENABLE, EVT_TAIL_WRITE. -/
def Obligations.EventQueue : Prop :=
  ∀ s : State,
    (∀ e rest, s.events = e :: rest → (∀ i, i < 16 → s.level i ≠ 2) →
      ∃ t, exec .eventEnter s = .next t ∧ rest <+: t.events ∧ t.get EVT_SEQ = (s.get EVT_SEQ + 1) % 2 ^ 32 ∧
        (s.bit EVT_CFG_EN = true → s.host.evtOk = true → s.evtSize ≠ 0 → (s.get EVT_Q_HEAD + 1) % s.evtSize ≠ s.get EVT_Q_TAIL →
          t.get EVT_Q_HEAD = (s.get EVT_Q_HEAD + 1) % s.evtSize ∧ t.get EVT_Q_TAIL = s.get EVT_Q_TAIL ∧ t.bit EVT_STATUS_NONEMPTY = true) ∧
        (s.bit EVT_CFG_EN = true → s.host.evtOk = true → s.evtSize ≠ 0 → (s.get EVT_Q_HEAD + 1) % s.evtSize = s.get EVT_Q_TAIL →
          s.bit EVT_CFG_MODE = false →
          t.get EVT_DROPPED_COUNT = min (s.get EVT_DROPPED_COUNT + 1) (2 ^ 32 - 1) ∧ t.bit EVT_STATUS_OVERFLOW = true ∧
            t.get EVT_Q_HEAD = s.get EVT_Q_HEAD ∧ t.get EVT_Q_TAIL = s.get EVT_Q_TAIL)) ∧
    (∀ (o : Origin) (v : Word), s.bit EVT_CFG_EN = false → fieldGet 0 1 v = 1 →
      ∃ t, exec (.evtEnable o v) s = .next t ∧ t.bit EVT_CFG_EN = true ∧ t.get EVT_Q_HEAD = 0 ∧ t.get EVT_Q_TAIL = 0 ∧
        t.bit EVT_STATUS_NONEMPTY = false ∧ t.host.evtOk = (decide (s.evtSize = 0) || inOcm s.evtBase (16 * s.evtSize)) ∧
        t.bit EVT_STATUS_BAD_RING = (s.bit EVT_STATUS_BAD_RING || !t.host.evtOk) ∧
        sameRegsBut [EVT_CFG_EN.addr, EVT_Q_HEAD.addr, EVT_Q_TAIL.addr, EVT_STATUS_BAD_RING.addr] s t) ∧
    (∀ v : Word, fieldGet 0 16 v < s.evtSize →
      ∃ t, exec (.evtTailWrite v) s = .next t ∧ t = { s with regs := t.regs } ∧ t.get EVT_Q_TAIL = fieldGet 0 16 v ∧
        t.bit EVT_STATUS_NONEMPTY = decide (s.get EVT_Q_HEAD ≠ fieldGet 0 16 v) ∧ sameRegs [EVT_Q_TAIL.addr, EVT_STATUS_NONEMPTY.addr] s t) ∧
    (∀ v : Word, s.evtSize ≤ fieldGet 0 16 v → s.evtSize ≠ 0 → exec (.evtTailWrite v) s = .next s)

/-- A write of 1 to bit j of EVT_ARMn arms a vector that is not owed a message (R485); one that is owed sends its message, or sets its pending bit
where the mask rules of the standard hold it back, and is not armed. H2D_POST and D2H_POST set their pending bits, and their overrun bits where one was
pending (R487).
Each of these commands completes here, on conditions on the state and its operands alone: VECTOR_ARM, H2D_POST, D2H_POST. -/
def Obligations.VectorsAndMailbox : Prop :=
  ∀ s : State,
    (∀ (n : Fin 2) (j : Nat), j < 32 → s.host.owed.contains (32 * n.val + j) = false →
      ∃ t, exec (.vectorArm n (word (2 ^ j))) s = .next t ∧ t = { s with regs := t.regs } ∧
        t.get (EVT_ARM n.val) = s.get (EVT_ARM n.val) ||| 2 ^ j ∧ sameRegs [(EVT_ARM n.val).addr] s t) ∧
    (∀ (n : Fin 2) (j : Nat), j < 32 → s.host.owed.contains (32 * n.val + j) = true →
      ∃ t, exec (.vectorArm n (word (2 ^ j))) s = .next t ∧ t.host.owed.contains (32 * n.val + j) = false ∧
        t.armed (32 * n.val + j) = false ∧
        (s.msixOpen (32 * n.val + j) = true → t.out = s.out ++ [.msix (32 * n.val + j)]) ∧
        (s.msixOpen (32 * n.val + j) = false →
          t.out = s.out ∧ t.get (SYS_MSIX_PBA_PENDING n.val) = s.get (SYS_MSIX_PBA_PENDING n.val) ||| 2 ^ j) ∧
        sameRegs [(EVT_ARM n.val).addr, (SYS_MSIX_PBA_PENDING n.val).addr] s t) ∧
    (∃ t, exec .h2dPost s = .next t ∧ t = { s with regs := t.regs } ∧ t.bit EVT_MBOX_STAT_H2D_PENDING = true ∧
      t.bit EVT_MBOX_STAT_H2D_OVERRUN = (s.bit EVT_MBOX_STAT_H2D_PENDING || s.bit EVT_MBOX_STAT_H2D_OVERRUN) ∧
      t.bit EVT_MBOX_STAT_D2H_PENDING = s.bit EVT_MBOX_STAT_D2H_PENDING ∧ sameRegs [EVT_MBOX_STAT_H2D_PENDING.addr] s t) ∧
    (∃ t, exec .d2hPost s = .next t ∧ t.bit EVT_MBOX_STAT_D2H_PENDING = true ∧
      t.bit EVT_MBOX_STAT_D2H_OVERRUN = (s.bit EVT_MBOX_STAT_D2H_PENDING || s.bit EVT_MBOX_STAT_D2H_OVERRUN) ∧
      t.bit EVT_MBOX_STAT_H2D_PENDING = s.bit EVT_MBOX_STAT_H2D_PENDING ∧
      (s.bit EVT_MBOX_VEC_EN = false → t = { s with regs := t.regs } ∧ sameRegs [EVT_MBOX_STAT_D2H_PENDING.addr] s t))

/-- A reset of the host port brings its link down, disables MSI-X and returns the MSI-X table and pending bits to reset (R474); a function-level reset
sets FLR. The link comes up with its speed and width only after the host record and while the HOST domain is On (R490). A configuration request gets
retry status before READY or FAULT, and else completes (R473).
Each of these commands completes here, on conditions on the state and its operands alone: HOST_PORT_RESET, PCIE_LINK_UP, CONFIG_REQUEST. -/
def Obligations.HostPort : Prop :=
  ∀ s : State,
    (∀ r : HostReset, s.canon = true → ∃ t, exec (.hostPortReset r) s = .next t ∧ t.bit SYS_HOST_STATUS_LINK_UP = false ∧ t.get SYS_HOST_STATUS_SPEED = 0 ∧
      t.get SYS_HOST_STATUS_WIDTH = 0 ∧ t.bit SYS_HOST_STATUS_FLR = (decide (r = .flr) || s.bit SYS_HOST_STATUS_FLR) ∧
      t.host = { s.host with msixEn := false, msixMask := false, d3hot := false } ∧
      (∀ a, a ≠ SYS_HOST_STATUS_FLR.addr →
        t.reg a = if (0x8000 ≤ a ∧ a < 0x8400) ∨ (0x9000 ≤ a ∧ a < 0x9008) then resetWord a else s.reg a) ∧
      t = { s with regs := t.regs, host := t.host, dma := t.dma }) ∧
    (∀ (speed : Fin 5) (w : Fin 4), s.host.ids ≠ none → s.get PWR_DOM_STATE_HOST = 0 →
      ∃ t, exec (.pcieLinkUp speed w) s = .next t ∧ t = { s with regs := t.regs } ∧ t.bit SYS_HOST_STATUS_LINK_UP = true ∧
        t.get SYS_HOST_STATUS_SPEED = speed.val + 1 ∧ t.get SYS_HOST_STATUS_WIDTH = 2 ^ w.val ∧ sameRegs [SYS_HOST_STATUS_LINK_UP.addr] s t) ∧
    (∀ (speed : Fin 5) (w : Fin 4), s.host.ids = none → exec (.pcieLinkUp speed w) s = .next s) ∧
    (∀ q : CfgReq, s.get PWR_STATUS_DEV_STATE = 1 → exec (.configRequest q) s = .next { s with out := s.out ++ [.completion cplCrs] }) ∧
    (s.get PWR_STATUS_DEV_STATE ≠ 1 →
      (∀ ids, s.host.ids = some ids → exec (.configRequest (.read 0)) s =
        .next { s with out := s.out ++ [.config 0 (word (ids.1 + 2 ^ 16 * 0x5128))] ++ [.completion cplSc] }) ∧
      (∀ on, exec (.configRequest (.d3hot on)) s =
        .next { s with host := { s.host with d3hot := on }, out := s.out ++ [.completion cplSc] }) ∧
      (∀ high, ∃ w, exec (.configRequest (.serial high)) s =
        .next { s with out := s.out ++ [.config (if high then 4 else 0) w] ++ [.completion cplSc] } ∧ w = s.serialWord high) ∧
      (∀ off v, exec (.configRequest (.write off v)) s = .next { s with out := s.out ++ [.completion cplSc] }) ∧
      (∀ e m, ∃ t, exec (.configRequest (.msix e m)) s = .next t ∧ t.host = { s.host with msixEn := e, msixMask := m } ∧
        t.out.getLast? = some (.completion cplSc)))

/-! DMA channels (R457 to R466). -/

/-- EN changing to 1 starts a channel whose ring has 1 to 65,536 descriptors in on-chip memory outside the secure region, else puts it in ERROR with
RING_BAD and event 0xD003 (R457). EN = 0 and STOP disable a channel without a descriptor in progress; STOP lets one in progress end, and EN = 0 aborts it
(R465). A doorbell wakes an IDLE channel (R459). Writes of the ring are taken while the channel is DISABLED, BASE and SIZE setting POS to 0, and
discarded else (R466).
Each of these commands completes here, on conditions on the state and its operands alone: DMA_ENABLE, DMA_DISABLE, DMA_STOP, DMA_DOORBELL,
DMA_RING_WRITE. -/
def Obligations.DmaChannels : Prop :=
  ∀ (s : State) (o : Origin) (n : Fin 16),
    (∀ halt prio, s.bit (DMA_CH_CTRL_EN n.val) = false → 1 ≤ s.chSize n.val → inOcm (s.chBase n.val) (32 * s.chSize n.val) = true →
      ∃ t, exec (.dmaEnable o n halt prio) s = .next t ∧ t.bit (DMA_CH_CTRL_EN n.val) = true ∧ t.chSt n.val = 2 ∧
        t.chan n.val = { s.chan n.val with origin := o, rung := false } ∧ t.bit (DMA_CH_CTRL_HALT_ON_ERR n.val) = halt ∧
        t.get (DMA_CH_CTRL_PRIO n.val) = prio.val ∧ sameRegsBut [(DMA_CH_CTRL_EN n.val).addr, (DMA_CH_STATUS_STATE n.val).addr] s t) ∧
    (∀ halt prio, s.bit (DMA_CH_CTRL_EN n.val) = false → s.chSize n.val = 0 ∨ inOcm (s.chBase n.val) (32 * s.chSize n.val) = false →
      ∃ t, exec (.dmaEnable o n halt prio) s = .next t ∧ t.chSt n.val = 4 ∧ t.bit (DMA_CH_STATUS_RING_BAD n.val) = true ∧
        t.events.getLast? = some ⟨0xD003, n.val, 0, s.tick⟩) ∧
    (∀ halt prio, s.bit (DMA_CH_CTRL_EN n.val) = true → (s.chan n.val).cur = none →
      ∃ t, exec (.dmaDisable o n halt prio) s = .next t ∧ t.bit (DMA_CH_CTRL_EN n.val) = false ∧ t.chSt n.val = 0 ∧ t.chan n.val = s.chan n.val) ∧
    (∀ halt prio d, s.bit (DMA_CH_CTRL_EN n.val) = true → (s.chan n.val).cur = some d →
      ∃ t, exec (.dmaDisable o n halt prio) s = .next t ∧ t.bit (DMA_CH_CTRL_EN n.val) = false ∧ t.chSt n.val = s.chSt n.val ∧
        (t.chan n.val).cur = some { d with status := some (d.status.getD 8) }) ∧
    (∀ halt prio, s.bit (DMA_CH_CTRL_EN n.val) = true → s.chSt n.val = 1 ∨ s.chSt n.val = 2 →
      ∃ t, exec (.dmaStop o n halt prio) s = .next t ∧
        ((s.chan n.val).cur = none → t.bit (DMA_CH_CTRL_EN n.val) = false ∧ t.chSt n.val = 0) ∧
        ((s.chan n.val).cur ≠ none → t.bit (DMA_CH_CTRL_EN n.val) = true ∧ t.chSt n.val = 3)) ∧
    (∃ t, exec (.dmaDoorbell n) s = .next t ∧ t.chan n.val = { s.chan n.val with rung := true } ∧
      t.chSt n.val = (if s.chSt n.val = 1 then 2 else s.chSt n.val) ∧ sameRegs [(DMA_CH_STATUS_STATE n.val).addr] s t) ∧
    (∀ v, s.bit (DMA_CH_CTRL_EN n.val) = false → s.chSt n.val = 0 →
      (∃ t, exec (.dmaRingWrite o n 0 v) s = .next t ∧ t.get (DMA_CH_RING_BASE n.val) = v.toNat ∧ t.get (DMA_CH_POS n.val) = 0) ∧
      (∃ t, exec (.dmaRingWrite o n 1 v) s = .next t ∧ t.get (DMA_CH_RING_SIZE n.val) = fieldGet 0 17 v ∧ t.get (DMA_CH_POS n.val) = 0) ∧
      (∃ t, exec (.dmaRingWrite o n 2 v) s = .next t ∧ t.get (DMA_CH_POS n.val) = fieldGet 0 16 v ∧
        t.get (DMA_CH_RING_BASE n.val) = s.get (DMA_CH_RING_BASE n.val))) ∧
    (∀ k v, s.bit (DMA_CH_CTRL_EN n.val) = true ∨ s.chSt n.val ≠ 0 → exec (.dmaRingWrite o n k v) s = .next s)

/-! The bus (R4, R5, R23, R404, R406, R409, R478, R480, R532). -/

/-- Whether an access of an origin that reaches no sleeping domain is performed at once: the device is not held in reset and nothing of that origin
waits. -/
def busFree (s : State) (o : Origin) : Prop := s.heldReset = false ∧ waitsFor s.host.waiting o = false

/-- The registers below the PIN blocks whose write does more than R5 says; the channels of DMA and the lists and ports of XE are left out whole. -/
def actsOnWrite (a : Nat) : Bool :=
  let b := a / 0x10000
  let o := a % 0x10000
  let so := a % 0x100000
  if 0x1000000 ≤ a then so = 0 || (0x10 ≤ so && so < 0x28) || so = 0x38 || so = 0x1390
  else if b = 0 then (0x100 ≤ o && o < 0x12C) || 0x8000 ≤ o
  else if b = 1 then o ≤ 0x10 || o = 0x80 || o = 0x84 || o = 0xA4
  else if b = 2 then o = 8
  else if b = 3 then o = 0 || o = 0xC || o = 0x14 || o = 0x1C
  else if b = 4 then o = 4 || o = 8 || o = 0x20 || (0x40 ≤ o && o < 0x64) || o = 0x100
  else if b = 5 then o = 0 || o = 0x24 || o = 0x70 || (0x80 ≤ o && o < 0xC0)
  else if b = 6 then o = 0x28 || (0x40 ≤ o && o < 0x50)
  else if b = 7 then o = 0x20 || o = 0x24 || o = 0x30 || o = 0x50
  else if b = 8 || b = 9 then 0x100 ≤ o
  else if b = 10 then o = 0x10 || o = 0x60 || o = 0x70 || o = 0x88 || o = 0x90
  else if b = 11 then 0x1000 ≤ o && o < 0x2000
  else if b = 12 then o < 0x10 || o = 0x18 || o = 0x1C || o = 0x24 || o = 0x3C || (0x100 ≤ o && o < 0x1C0)
  else if b = 13 then o = 8 || o = 0x48
  else o = 0x10 || o = 0x34

/-- A write of a register that is a word of its own and only stores, by an origin the register accepts: every field of type RO, RW, RWL or W1C takes
what its type gives it (R5), a locked field keeps its value, and no other register changes but those of the audit log. Such a register has no field
of another type.
Each of these commands completes here, on conditions on the state and its operands alone: REGISTER_WRITE. -/
def Obligations.RegisterFields : Prop :=
  ∀ (s : State) (o : Origin) (k : Fin 0x4000000) (v : Word) (d : RegDesc), 4 * k.val < 0x8000000 → busFree s o →
    lookupReg (4 * k.val) = some d → d.pair = .single → actsOnWrite (4 * k.val) = false → storeReg (4 * k.val) = false →
    s.regDenied o (4 * k.val) true = false →
    ∃ t, exec (.registerWrite o k v) s = .next t ∧ sameRest s t ∧ sameRegsBut [4 * k.val] s t ∧
      ∀ f ∈ d.fields,
        let old := fieldGet f.lo f.len (s.reg (4 * k.val))
        let new := fieldGet f.lo f.len (t.reg (4 * k.val))
        (f.acc = .ro → new = old) ∧
        (f.acc = .rwl → fieldGet f.lo f.len (s.lockOf o (4 * k.val)) ≠ 0 → new = old) ∧
        (f.acc = .rw ∨ (f.acc = .rwl ∧ fieldGet f.lo f.len (s.lockOf o (4 * k.val)) = 0) → f.adj = .plain → new = fieldGet f.lo f.len v) ∧
        (f.acc = .w1c → ∀ j, new.testBit j = (old.testBit j && !(fieldGet f.lo f.len v).testBit j))

/-- A read of the low word of a 64-bit value returns it and latches its high word for the origin; a read of the high word returns what is latched for
the origin, else the present word (R4).
Each of these commands completes here, on conditions on the state and its operands alone: LOW_WORD_READ, HIGH_WORD_READ. -/
def Obligations.PairReads : Prop :=
  ∀ (s : State) (o : Origin) (k : Fin 0x4000000) (d : RegDesc), 4 * k.val < 0x8000000 → busFree s o → lookupReg (4 * k.val) = some d →
    s.regDenied o (4 * k.val) false = false → 4 * k.val ≠ TB_MERIDIAN_LO_TICK_LO.addr → (∀ i, i < 16 → 4 * k.val ≠ 0x1000040 + 0x100000 * i) →
    (d.pair = .low → s.latched o (4 * k.val) = none →
      ∃ t, exec (.lowWordRead o k) s = .next t ∧ t = { s with out := t.out, latches := t.latches } ∧
        t.out = s.out ++ [.read o (4 * k.val) (s.regShown (4 * k.val))] ∧ t.latched o (4 * k.val + 4) = some (s.regShown (4 * k.val + 4)) ∧
        ∀ o' b, o'.code ≠ o.code ∨ b ≠ 4 * k.val + 4 → t.latched o' b = s.latched o' b) ∧
    (d.pair = .high → exec (.highWordRead o k) s =
      .next { s with out := s.out ++ [.read o (4 * k.val) ((s.latched o (4 * k.val)).getD (s.regShown (4 * k.val)))] })

/-- A write of the low word of a 64-bit value is held for its origin and changes no register; the write of the high word makes the value take effect
as a whole, with the low word held, else the present one (R4): here for the dump address, the message address and the base of each fail log, which
resets HEAD, TAIL, COUNT and DROPPED of the log too (R230).
Each of these commands completes here, on conditions on the state and its operands alone: LOW_WORD_WRITE, HIGH_WORD_WRITE. -/
def Obligations.PairWrites : Prop :=
  ∀ (s : State) (o : Origin) (k : Fin 0x4000000) (v : Word), 4 * k.val < 0x8000000 → busFree s o → s.regDenied o (4 * k.val) true = false →
    ((∃ d, lookupReg (4 * k.val) = some d ∧ d.pair = .low) →
      ∃ t, exec (.lowWordWrite o k v) s = .next t ∧ t = { s with lows := t.lows } ∧ t.heldLow o (4 * k.val) = some v ∧
        ∀ o' b, o'.code ≠ o.code ∨ b ≠ 4 * k.val → t.heldLow o' b = s.heldLow o' b) ∧
    (∀ lo, 4 * k.val = lo + 4 → lo = RED_DUMP_ADDR_LO_ADDR.addr ∨ lo = IAT_MSG_ADDR_LO_ADDR.addr →
      ∃ t, exec (.highWordWrite o k v) s = .next t ∧ t.reg lo = (s.heldLow o lo).getD (s.reg lo) ∧ t.reg (lo + 4) = v ∧ t.heldLow o lo = none ∧
        sameRegsBut [lo, lo + 4] s t) ∧
    (∀ i : Fin 16, 4 * k.val = (SITE_FLOG_BASE_HI_BASE i.val).addr → let lo := (SITE_FLOG_BASE_LO_BASE i.val).addr
      ∃ t, exec (.highWordWrite o k v) s = .next t ∧ t.reg lo = (s.heldLow o lo).getD (s.reg lo) ∧ t.reg (lo + 4) = v ∧ t.heldLow o lo = none ∧
        t.get (SITE_FLOG_HEAD i) = 0 ∧ t.get (SITE_FLOG_TAIL i) = 0 ∧ t.get (SITE_FLOG_COUNT i) = 0 ∧ t.get (SITE_FLOG_DROPPED_COUNT i) = 0 ∧
        sameRegsBut [lo, lo + 4, (SITE_FLOG_HEAD i).addr, (SITE_FLOG_TAIL i).addr, (SITE_FLOG_COUNT i).addr, (SITE_FLOG_DROPPED_COUNT i).addr] s t)

/-- A register access of another width than 32 bits is not performed: it is counted, a read returns zeros and a write changes nothing (R4, R479); a
host read completes with its zeros. That a write of one aligned word without all its bytes enabled is such an access is the model's choice of log 143.
An aligned 64-bit access of an entry of the MSI-X table is performed as its two words (R479): a read returns both, a write leaves both.
Each of these commands completes here, on conditions on the state and its operands alone: BAD_WIDTH_ACCESS. -/
def Obligations.BadWidths : Prop :=
  ∀ (s : State) (o : Origin) (a : Fin 0x10000000) (n : Fin 4097), busFree s o →
    let counted (t : State) : Prop :=
      t.get SYS_BAD_WIDTH_COUNT = min (s.get SYS_BAD_WIDTH_COUNT + 1) (2 ^ 32 - 1) ∧ t.bit SYS_HOST_STATUS_BAD_WIDTH = true ∧
        sameRegs [SYS_BAD_WIDTH_COUNT.addr, SYS_HOST_STATUS_BAD_WIDTH.addr] s t
    let read (bs : List Byte) : List Out := .data o a.val bs false :: (if o = .host then [.completion cplSc] else [])
    (n.val ≠ 4 ∨ a.val % 4 ≠ 0 → msixPair a.val n.val = false →
      ∃ t, exec (.badWidthAccess o a n none) s = .next t ∧ t = { s with regs := t.regs, out := t.out } ∧
        t.out = s.out ++ read (List.replicate n.val 0) ∧ counted t) ∧
    (∀ vs : List (Option Byte), vs.length = n.val → (n.val ≠ 4 ∨ a.val % 4 ≠ 0) ∧ msixPair a.val n.val = false ∨ none ∈ vs →
      ∃ t, exec (.badWidthAccess o a n (some vs)) s = .next t ∧ t = { s with regs := t.regs } ∧ counted t) ∧
    (0x8000 ≤ a.val → a.val < 0x8400 → a.val % 8 = 0 → n.val = 8 →
      (s.latched o a.val = none → s.latched o (a.val + 4) = none →
        exec (.badWidthAccess o a n none) s =
          .next { s with out := s.out ++ read (leBytes 4 (s.regShown a.val).toNat ++ leBytes 4 (s.regShown (a.val + 4)).toNat) }) ∧
      (∀ v w : Word,
        ∃ t, exec (.badWidthAccess o a n (some ((leBytes 4 v.toNat ++ leBytes 4 w.toNat).map some))) s = .next t ∧ t.reg a.val = v ∧
          (a.val % 16 = 0 → t.reg (a.val + 4) = w) ∧ (a.val % 16 = 8 → fieldGet 0 1 (t.reg (a.val + 4)) = fieldGet 0 1 w) ∧
          sameRegs [a.val, a.val + 4, (SYS_MSIX_PBA_PENDING 0).addr, (SYS_MSIX_PBA_PENDING 1).addr] s t))

/-- A broadcast write of a register that only stores writes the same value to it in every target whose octant serves, and changes no other register
but those of the audit log (R23, R549). Where no calibration step is in progress on a target (R382). Of PIN_LVL_CFG each target remembers, beside its
register, what the slew limiter goes on with until the next sample instant (R109, R113).
Each of these commands completes here, on conditions on the state and its operands alone: BROADCAST_WRITE. -/
def Obligations.Broadcasts : Prop :=
  ∀ (s : State) (o : Origin) (g : Option (Fin 64)) (off : Fin 0x4000) (v : Word) (d : RegDesc), busFree s o →
    pinRegs.find? (fun d => d.covers (4 * off.val)) = some d → d.pair = .single →
    (4 * off.val = 0x2000 ∨ 4 * off.val = 0x2008 ∨ (0x2100 ≤ 4 * off.val ∧ 4 * off.val < 0x4010)) →
    (∀ p, p < 512 → (∀ k, g = some k → p / 8 = k.val) → s.octServed p ≠ .stall ∧ s.inStep p = false) →
    ∃ t, exec (.broadcastWrite o g off v) s = .next t ∧ sameRest { s with pins := t.pins } t ∧ (4 * off.val ≠ 0x2008 → t.pins = s.pins) ∧
      (∀ p, p < 512 → t.reg (pinReg p (4 * off.val)) =
        if (∀ k, g = some k → p / 8 = k.val) ∧ s.octServed p = .ok then
          d.store (s.lockOf o (pinReg p (4 * off.val))) (s.reg (pinReg p (4 * off.val))) v
        else s.reg (pinReg p (4 * off.val))) ∧
      ∀ a, storeReg a = false → (∀ p, p < 512 → a ≠ pinReg p (4 * off.val)) → t.reg a = s.reg a

/-- Whether an access of `n` bytes of on-chip memory from offset x is served at once: nothing of its origin waits, and every bank it reaches is On
and, in the secure region, accepts the origin. -/
def portBFree (s : State) (o : Origin) (x n : Nat) : Prop :=
  busFree s o ∧ x + n ≤ 0x4000000 ∧
    ∀ y, x ≤ y → y < x + n → (s.bank (bankOf y)).power = .on ∧ (inSecure y = true → s.secureDenies o = false)

/-- On-chip memory without an uncorrectable word or a bank copy, and with every logical bank in a physical bank of its own. -/
def memPlain (s : State) : Prop :=
  s.memUe = [] ∧ s.memCarried = [] ∧ s.memory.copies = [] ∧ ∀ b c, b < 64 → c < 64 → s.phys b = s.phys c → b = c

/-- Port B returns the bytes that stand in memory, and a write puts its enabled bytes there; the bit-set alias ORs them into memory and the bit-clear
alias clears their ones. Every other byte keeps its value (R404, R409). A site that is using a byte of a write is marked: its waveform and results are
undefined until its burst ends, or until the end of its next burst where it is IDLE (R131, R326).
Each of these commands completes here, on conditions on the state and its operands alone: PORT_B_ACCESS, ALIAS_SET_WRITE, ALIAS_CLEAR_WRITE. -/
def Obligations.PortBMemory : Prop :=
  ∀ (s : State) (o : Origin) (x : Fin 0x4000000), memPlain s →
    (∀ n : Fin 4097, portBFree s o x.val n.val → o ≠ .host → exec (.portBAccess o x n none .ok []) s =
      .next { s with out := s.out ++ [.data o (ocmBase + x.val) (s.ocmRead x.val n.val) false] }) ∧
    (∀ (n : Fin 4097) (vs : List (Option Byte)), portBFree s o x.val vs.length →
      ∃ t, exec (.portBAccess o x n (some vs) .ok []) s = .next t ∧ t = { s.touch (ocmBase + x.val) vs.length with mem := t.mem } ∧
        ∀ y, y < 0x4000000 → t.ocmByte y = if x.val ≤ y ∧ y < x.val + vs.length then (vs[y - x.val]?.getD none).getD (s.ocmByte y) else s.ocmByte y) ∧
    (∀ vs : List (Option Byte), portBFree s o x.val vs.length →
      ∃ t, exec (.aliasSetWrite o x ⟨vs, []⟩) s = .next t ∧ t = { s.touch (ocmBase + x.val) vs.length with mem := t.mem } ∧
        ∀ y, y < 0x4000000 → t.ocmByte y =
          if x.val ≤ y ∧ y < x.val + vs.length then s.ocmByte y ||| (vs[y - x.val]?.getD none).getD 0 else s.ocmByte y) ∧
    (∀ vs : List (Option Byte), portBFree s o x.val vs.length →
      ∃ t, exec (.aliasClearWrite o x ⟨vs, []⟩) s = .next t ∧ t = { s.touch (ocmBase + x.val) vs.length with mem := t.mem } ∧
        ∀ y, y < 0x4000000 → t.ocmByte y =
          if x.val ≤ y ∧ y < x.val + vs.length then s.ocmByte y &&& ~~~((vs[y - x.val]?.getD none).getD 0) else s.ocmByte y) ∧
    (∀ (n : Fin 4097) (vs : List (Option Byte)) (i : Fin 16), portBFree s o x.val vs.length → anyMeet [(ocmBase + x.val, vs.length)] (s.liveSpans i) = true →
      0 < vs.length → s.site i ≠ Site.reset →
      ∃ t, exec (.portBAccess o x n (some vs) .ok []) s = .next t ∧
        (if s.idle i = true then (t.site i).unsure = true else (t.site i).burst.undef = true))

/-- A host request in one of the three windows is the access of the device address it names, by origin HOST (R475, R480); one that the device refuses
completes with Unsupported Request. The debug port accesses the bus where debug is available, and else is ignored and returns zeros (R532). A host
read that has stalled too long completes with Completer Abort and is counted (R478).
Each of these commands completes here, on conditions on the state and its operands alone: HOST_REQUEST, DEBUG_ACCESS, HOST_STALL_TIMEOUT. -/
def Obligations.HostAndDebug : Prop :=
  ∀ s : State,
    (∀ bar off n base size, s.heldReset = false → s.bit SYS_HOST_STATUS_LINK_UP = true → barWindow bar = some (base, size) → off + n ≤ size →
      (s.barRefused = false → exec (.hostRequest (.read bar off n)) s = .next (s.busAccess .host (.get (base + off) n))) ∧
      (s.barRefused = true → exec (.hostRequest (.read bar off n)) s = .next { s with out := s.out ++ [.completion cplUr] }) ∧
      (∀ vs : List (Option Byte), vs.length = n → s.barRefused = false →
        exec (.hostRequest (.write bar off vs)) s = .next (s.busAccess .host (.put (base + off) vs)))) ∧
    (∀ x : Nat, ∀ n : Fin 4097, s.heldReset = false → s.bit SYS_HOST_STATUS_LINK_UP = true → s.barRefused = false → memPlain s →
      portBFree s .host x n.val → exec (.hostRequest (.read 2 x n.val)) s =
        .next { s with out := s.out ++ [.data .host (ocmBase + x) (s.ocmRead x n.val) false] ++ [.completion cplSc] }) ∧
    (∀ a, s.debugOk = true → exec (.debugAccess (.read a)) s = .next (s.busAccess .dbg (.read a))) ∧
    (∀ a v, s.debugOk = true → exec (.debugAccess (.write a v)) s = .next (s.busAccess .dbg (.write a v))) ∧
    (∀ a, s.debugOk = false → exec (.debugAccess (.read a)) s = .next { s with out := s.out ++ [.read .dbg a 0] }) ∧
    (∀ a v, s.debugOk = false → exec (.debugAccess (.write a v)) s = .next s) ∧
    (∀ a n t0, s.host.waiting = [⟨.host, .bus (.get a n), t0⟩] →
      ∃ t, exec .hostStallTimeout s = .next t ∧ t.out = s.out ++ [.completion cplCa] ∧ t.host = { s.host with waiting := [] } ∧
        t.get SYS_HOST_STALL_COUNT = min (s.get SYS_HOST_STALL_COUNT + 1) (2 ^ 32 - 1) ∧ t.bit SYS_HOST_STATUS_STALL_ABORT = true ∧
        s.now ≤ t.now ∧ t.mem = s.mem ∧ t.dram = s.dram ∧ sameRegs [SYS_HOST_STALL_COUNT.addr, SYS_HOST_STATUS_STALL_ABORT.addr] s t)

/-! Sites and groups, DMA data, messages (R25, R28, R459, R460, R458, R361, R362). -/

/-- A write of SYS_GROUP_SITE or SYS_GROUP_OWNED changes the group fields whose present and new owners are absent or IDLE, and refuses the others with
MAP_BUSY; a write of SYS_SITE_LEVEL changes the level of the sites that are IDLE, 0b11 leaving a field as it is, and refuses the others with
LEVEL_BUSY (R25, R28). Where no lock holds the fields. The flow of a site that is not at service level then does not run (R10); that a run of it ends
STOPPED, with what waited for it, is the model's choice (log 135).
Each of these commands completes here, on conditions on the state and its operands alone: GROUP_MAP_WRITE, SITE_LEVEL_WRITE. -/
def Obligations.SiteMaps : Prop :=
  ∀ (s : State) (o : Origin) (v : Word),
    (∀ n : Fin 8, s.lockOf o (0x100 + 4 * n.val) = 0 →
      ∃ t, exec (.groupMapWrite o (0x100 + 4 * n.val) v) s = .next t ∧ sameRest s t ∧
        (∀ k, k < 8 → t.get (SYS_GROUP_SITE_SITE_G n.val k) =
          if s.mapAllowed (8 * n.val + k) (s.newSiteOwner (8 * n.val + k) (fieldGet (4 * k) 4 v)) then fieldGet (4 * k) 4 v
          else s.get (SYS_GROUP_SITE_SITE_G n.val k)) ∧
        ((∀ k, k < 8 → s.mapAllowed (8 * n.val + k) (s.newSiteOwner (8 * n.val + k) (fieldGet (4 * k) 4 v)) = true) →
          t.bit SYS_ARCH_STATUS_MAP_BUSY = s.bit SYS_ARCH_STATUS_MAP_BUSY) ∧
        (∀ k, k < 8 → s.mapAllowed (8 * n.val + k) (s.newSiteOwner (8 * n.val + k) (fieldGet (4 * k) 4 v)) = false →
          s.get (SYS_GROUP_SITE_SITE_G n.val k) ≠ fieldGet (4 * k) 4 v → t.bit SYS_ARCH_STATUS_MAP_BUSY = true) ∧
        sameRegsBut [0x100 + 4 * n.val, SYS_ARCH_STATUS_MAP_BUSY.addr] s t) ∧
    (∀ n : Fin 2, s.lockOf o (0x120 + 4 * n.val) = 0 →
      ∃ t, exec (.groupMapWrite o (0x120 + 4 * n.val) v) s = .next t ∧ sameRest s t ∧
        (∀ k, k < 32 → fieldGet k 1 (t.reg (0x120 + 4 * n.val)) =
          let g := 32 * n.val + k
          if s.mapAllowed g (if fieldGet k 1 v ≠ 0 then some (s.get (SYS_GROUP_SITE_SITE_G (g / 8) (g % 8))) else none) then fieldGet k 1 v
          else ofBool (s.owned g)) ∧
        sameRegsBut [0x120 + 4 * n.val, SYS_ARCH_STATUS_MAP_BUSY.addr] s t) ∧
    (s.lockOf o 0x128 = 0 →
      ∃ t, exec (.siteLevelWrite o v) s = .next t ∧ sameRest { s with svc := t.svc } t ∧ t.svc = { s.svc with flows := t.svc.flows } ∧
        (∀ k, k < 16 → t.level k = if fieldGet (2 * k) 2 v = 3 ∨ s.idle k = false then s.level k else fieldGet (2 * k) 2 v) ∧
        (∀ k, k < 16 → fieldGet (2 * k) 2 v ≠ 3 → s.idle k = false → s.level k ≠ fieldGet (2 * k) 2 v →
          t.bit SYS_ARCH_STATUS_LEVEL_BUSY = true) ∧
        (∀ k, k < 16 → (t.level k = 2 ∨ s.flowSt k = 5 → t.flow k = s.flow k ∧ t.flowSt k = s.flowSt k) ∧
          (t.level k ≠ 2 → s.flowSt k ≠ 5 → t.flowSt k = 0 ∧ (t.flow k).queue = [] ∧ (t.flow k).cfg = (s.flow k).cfg)) ∧
        sameRegsBut ([0x128, SYS_ARCH_STATUS_LEVEL_BUSY.addr] ++ (List.range 16).map (fun k => (SVC_STAT_STATE k).addr)) s t)

/-- The engine reads the descriptor of a RUNNING channel: one that is not owned makes the channel IDLE; an owned one, which a free mover picks, is in
progress from then on (R459, R467). A FILL writes its pattern and a COPY what stands at SRC, a 32-byte line at a time, and only there; DONE_LEN counts
the bytes (R460). A descriptor whose bytes are all written is written back with OWN 0 and STATUS 0, POS moves on, and it is counted (R458, R462).
Each of these commands completes here, on conditions on the state and its operands alone: DMA_DESC_READ, DMA_FILL, DMA_COPY, DMA_DESC_DONE. -/
def Obligations.DmaData : Prop :=
  ∀ (s : State) (n : Fin 16), memPlain s → s.heldReset = false →
    (s.chSt n.val = 2 → (s.chan n.val).cur = none → (∃ x, s.region (s.descAddr n.val (s.get (DMA_CH_POS n.val))) = .ocm x ∧
        s.rangeServed (.ocm x) 4 = .ok) →
      (bitOf (s.descNow n.val).w0 0 = false →
        ∃ t, exec (.dmaDescRead n .ok) s = .next t ∧ t.chSt n.val = 1 ∧ (t.chan n.val).cur = none ∧
          sameRegs [(DMA_CH_STATUS_STATE n.val).addr] s t ∧ t.mem = s.mem) ∧
      (∀ m, bitOf (s.descNow n.val).w0 0 = true → (s.updChan n.val (fun c => { c with rung := false })).freeMover = some m →
        (s.updChan n.val (fun c => { c with rung := false })).moverPick m = some n.val →
        ∃ t, exec (.dmaDescRead n .ok) s = .next t ∧ t.chSt n.val = 2 ∧ (t.chan n.val).cur = some { s.descNow n.val with mover := m } ∧
          t.get (DMA_CH_CUR_DONE_BYTES n.val) = 0 ∧ t.mem = s.mem ∧
          sameRegs [(DMA_CH_CUR_DONE_BYTES n.val).addr, DMA_STATUS_ACTIVE.addr] s t)) ∧
    (∀ (d : DmaDesc) (k : Word) (y : Nat), (s.chan n.val).cur = some d → d.checked = true → d.status = none → s.dmaWaits n.val = false → 0 < k.toNat →
      k.toNat % 4 = 0 → d.part k.toNat = k.toNat → d.dst + d.done = ocmBase + y → y % 4 = 0 → portBFree s (s.chan n.val).origin y k.toNat →
      (d.op = 1 →
        ∃ t, exec (.dmaFill n k ⟨some [], []⟩) s = .next t ∧ (t.chan n.val).cur = some { d with done := d.done + k.toNat } ∧
          t.get (DMA_CH_CUR_DONE_BYTES n.val) = (d.done + k.toNat) % 2 ^ 32 ∧ sameRegs [(DMA_CH_CUR_DONE_BYTES n.val).addr] s t ∧
          ∀ z, z < 0x4000000 → t.ocmByte z =
            if y ≤ z ∧ z < y + k.toNat then (leBytes 4 d.pattern).getD ((d.done + (z - y)) % 4) 0 else s.ocmByte z) ∧
      (∀ x, d.op = 0 → d.overlaps = false → d.src + d.done = ocmBase + x → portBFree s (s.chan n.val).origin x k.toNat →
        ∃ t, exec (.dmaCopy n k ⟨some [], []⟩) s = .next t ∧ (t.chan n.val).cur = some { d with done := d.done + k.toNat } ∧
          t.get (DMA_CH_CUR_DONE_BYTES n.val) = (d.done + k.toNat) % 2 ^ 32 ∧ sameRegs [(DMA_CH_CUR_DONE_BYTES n.val).addr] s t ∧
          ∀ z, z < 0x4000000 → t.ocmByte z = if y ≤ z ∧ z < y + k.toNat then s.ocmByte (x + (z - y)) else s.ocmByte z)) ∧
    (∀ (d : DmaDesc) (host : List Byte), (s.chan n.val).cur = some d → d.checked = true → d.status = none → d.done = d.length →
      s.dma.publishes = [] → s.chSt n.val = 2 → s.bit (DMA_CH_CTRL_EN n.val) = true →
      ∃ t, exec (.dmaDescDone n host) s = .next t ∧ (t.chan n.val).cur = none ∧ t.chSt n.val = 2 ∧
        t.get (DMA_CH_STATUS_LAST_STATUS n.val) = 0 ∧ t.get (DMA_CH_POS n.val) = (d.pos + 1) % max 1 (s.chSize n.val) ∧
        t.get (DMA_CH_DONE_CNT_COUNT n.val) = min (s.get (DMA_CH_DONE_CNT_COUNT n.val) + 1) (2 ^ 32 - 1) ∧
        t.get (DMA_CH_CUR_DONE_BYTES n.val) = 0 ∧ t.get (DMA_CH_ERR_CNT_COUNT n.val) = s.get (DMA_CH_ERR_CNT_COUNT n.val) ∧
        (bitOf d.w0 1 = true → t.events.getLast? = some ⟨0xD001, n.val, bitsOf d.w6 16 16, s.tick⟩))

/-- MSG_GO, while no message is outstanding, makes one outstanding and sends it on the link that R361 chooses; while one is, nothing happens. A message
for this device is the access of a peer, a response ends the outstanding message with its data and result, and 100 µs without one end it with result
3 and event 0x9009 (R362).
Each of these commands completes here, on conditions on the state and its operands alone: MSG_GO, MSG_RD, MSG_WR, MSG_RSP, MSG_TIMEOUT. -/
def Obligations.Messages : Prop :=
  ∀ s : State,
    (∀ (v : Word) (p : Nat), fieldGet 17 1 v = 1 → s.get IAT_MSG_STAT_STATE ≠ 1 → fieldGet 0 14 v ≠ s.get IAT_CFG_ADDR →
      s.routeDown (fieldGet 0 14 v) = some p →
      ∃ t, exec (.msgGo v) s = .next t ∧ t.get IAT_MSG_STAT_STATE = 1 ∧ t.iat.msgDest = fieldGet 0 14 v ∧
        t.iat.msgRd = decide (fieldGet 16 1 v = 0) ∧ t.iat.msgAt = s.now ∧ sameRegs [IAT_MSG_STAT_STATE.addr] s t ∧
        t.out = s.out ++ [.frame p (Frame.mk (if fieldGet 16 1 v = 0 then ftMsgRd else ftMsgWr) (s.port p).nextSeq (s.get IAT_CFG_ADDR) (fieldGet 0 14 v)
          (((s.port p).expect + 4095) % 4096) (if fieldGet 16 1 v = 0 then [s.get64 IAT_MSG_ADDR_LO_ADDR IAT_MSG_ADDR_HI_ADDR]
            else [s.get64 IAT_MSG_ADDR_LO_ADDR IAT_MSG_ADDR_HI_ADDR, s.get IAT_MSG_DATA])).words]) ∧
    (∀ v, s.get IAT_MSG_STAT_STATE = 1 → exec (.msgGo v) s = .next s) ∧
    (∀ (p : Fin 6) (x : Rx) (addr : DWord), s.portUp p.val = true → x.check = .ok → x.seq.toNat = (s.port p.val).expect →
      x.dest.toNat = s.get IAT_CFG_ADDR →
      ∃ u : State, u = { s with iat := u.iat } ∧ (u.port p.val).expect = ((s.port p.val).expect + 1) % 4096 ∧
        exec (.msgRd ⟨p.val, by omega⟩ x addr) s = .next (u.busAccess .peer (.peer x.src.toNat addr.toNat none)) ∧
        ∀ v, exec (.msgWr ⟨p.val, by omega⟩ x addr v) s = .next (u.busAccess .peer (.peer x.src.toNat addr.toNat (some v)))) ∧
    (∀ (p : Fin 6) (x : Rx) (w : DWord), s.portUp p.val = true → x.check = .ok → x.seq.toNat = (s.port p.val).expect →
      x.dest.toNat = s.get IAT_CFG_ADDR → s.get IAT_MSG_STAT_STATE = 1 → s.iat.msgDest = x.src.toNat →
      ∃ t, exec (.msgRsp p x w) s = .next t ∧ t.get IAT_MSG_STAT_STATE = 2 ∧ t.get IAT_MSG_STAT_RESULT = bitsOf w.toNat 32 3 ∧
        t.get IAT_MSG_DATA = (if s.iat.msgRd then bitsOf w.toNat 0 32 else s.get IAT_MSG_DATA) ∧ t = { s with regs := t.regs, iat := t.iat } ∧
        sameRegs [IAT_MSG_STAT_STATE.addr, IAT_MSG_DATA.addr] s t) ∧
    (s.get IAT_MSG_STAT_STATE = 1 →
      ∃ t, exec .msgTimeout s = .next t ∧ t.get IAT_MSG_STAT_STATE = 2 ∧ t.get IAT_MSG_STAT_RESULT = 3 ∧
        t.now = max s.now (s.iat.msgAt + 100 * us) ∧ t.events = s.events ++ [⟨0x9009, noSource, s.iat.msgDest % 2 ^ 32, t.tick⟩] ∧
        t = { s with now := t.now, regs := t.regs, events := t.events } ∧ sameRegs [IAT_MSG_STAT_STATE.addr] s t) ∧
    (s.get IAT_MSG_STAT_STATE ≠ 1 → exec .msgTimeout s = .next s)

/-! The Constellation (R356 to R369, R374 to R377). -/

/-- That a frame which passes the checks of R359 has been taken on a port: its acknowledgement is noted, and a sequenced frame moves on the number
expected; the other ports are as they were. -/
def took (s t : State) (p : Nat) (x : Rx) (type : Nat) : Prop :=
  let q := s.port p
  t.port p = { q with lastRecv := s.now, unacked := ackFrames x.ack.toNat q.unacked, expect := if sequenced type then (q.expect + 1) % 4096 else q.expect } ∧
    ∀ r, r ≠ p → t.port r = s.port r

/-- Whether a frame arrives on a port that is up and passes the checks of R359. -/
def arrives (s : State) (p : Nat) (x : Rx) (type : Nat) : Prop :=
  s.portUp p = true ∧ x.check = .ok ∧ (sequenced type = true → x.seq.toNat = (s.port p).expect)

/-- IDLE is only taken. A PROBE is answered with its id and turn-around time, and a PROBE_REPLY gives the latency of R364. A NAK makes every frame not
acknowledged go out again. A HELLO is what its peer announces, and one that announces a depth of 8 or more on an upstream port is refused with event
0x9007 (R360). A frame with a CRC error is counted and answered with NAK.
Each of these commands completes here, on conditions on the state and its operands alone: IDLE, PROBE, PROBE_REPLY, NAK, HELLO. -/
def Obligations.LinkFrames : Prop :=
  ∀ (s : State) (p : Fin 6) (x : Rx),
    (arrives s p.val x ftIdle → ∃ t, exec (.idle p x) s = .next t ∧ t = { s with iat := t.iat } ∧ took s t p.val x ftIdle) ∧
    (∀ id turn, arrives s p.val x ftProbe →
      ∃ t, exec (.probe p x id turn) s = .next t ∧ t = { s with iat := t.iat, out := t.out } ∧ t.out = s.out ++ [.frame p.val
        (Frame.mk ftProbeReply 0 (s.get IAT_CFG_ADDR) 0 (((s.port p.val).expect + 4095) % 4096) [id.toNat + 2 ^ 32 * turn.toNat]).words]) ∧
    (∀ id turn n t1, arrives s p.val x ftProbeReply →
      ((s.port p.val).probes.filter (fun q => decide (s.now ≤ q.2 + us))).find? (fun q => decide (q.1 = id.toNat)) = some (n, t1) →
      ∃ t, exec (.probeReply p x id turn) s = .next t ∧ t = { s with regs := t.regs, iat := t.iat } ∧ sameRegs [(IAT_PORT_LAT p.val).addr] s t ∧
        let all := (s.port p.val).lats ++ [((s.now - t1 : Nat) : Int) - turn.toNat]
        let kept := all.drop (all.length - 1024)
        let use := kept.drop (kept.length - 2 ^ min 10 (s.get IAT_PROBE_CFG_AVG))
        (t.port p.val).lats = kept ∧ t.get (IAT_PORT_LAT p.val) =
          unsignedOf 32 ((sumInts use + (use.length : Int)) / (2 * use.length) + signedOf 16 (s.get (IAT_PORT_CFG_ASYM p.val))) % 2 ^ 32) ∧
    (arrives s p.val x ftNak → (∀ y ∈ ackFrames x.ack.toNat (s.port p.val).unacked, y.replays < 3) →
      ∃ t, exec (.nak p x) s = .next t ∧ t = { s with regs := t.regs, iat := t.iat, out := t.out } ∧
        sameRegs [(IAT_PORT_REPLAYS_COUNT p.val).addr] s t ∧
        t.out = s.out ++ (ackFrames x.ack.toNat (s.port p.val).unacked).map (fun y => .frame p.val
          ({ y.frame with ack := ((s.port p.val).expect + 4095) % 4096 } : Frame).words) ∧
        (t.port p.val).unacked = (ackFrames x.ack.toNat (s.port p.val).unacked).map (fun y =>
          { y with frame := { y.frame with ack := ((s.port p.val).expect + 4095) % 4096 }, at_ := s.now, replays := y.replays + 1 })) ∧
    (∀ w : DWord, arrives s p.val x ftHello →
      ∃ t, exec (.hello p x w) s = .next t ∧ t.get (IAT_PORT_STAT_PEER p.val) = x.src.toNat ∧
        (t.port p.val).hello = some ⟨x.src.toNat, bitsOf w.toNat 0 14, bitsOf w.toNat 14 4, bitsOf w.toNat 18 2, bitsOf w.toNat 20 14, bitsOf w.toNat 34 14⟩ ∧
        (2 ≤ s.role p.val → 8 ≤ bitsOf w.toNat 14 4 → t.bit IAT_STATUS_DEPTH_REFUSED = true ∧
          (⟨0x9007, p.val, bitsOf w.toNat 14 4, s.tick⟩ : EventRec) ∈ t.events)) ∧
    (s.portUp p.val = true → x.check = .crc →
      ∃ t, exec (.idle p x) s = .next t ∧ t = { s with regs := t.regs, iat := t.iat, out := t.out } ∧
        t.get (IAT_PORT_CRC_ERR_COUNT p.val) = min (s.get (IAT_PORT_CRC_ERR_COUNT p.val) + 1) (2 ^ 32 - 1) ∧
        t.out = s.out ++ [.frame p.val (Frame.mk ftNak 0 (s.get IAT_CFG_ADDR) 0 (((s.port p.val).expect + 4095) % 4096) []).words])

/-- A trained port comes UP, with event 0x9001; after 1 ms without a CRC error it is qualified, and the only primary upstream port becomes the active
parent of a device without one, with the depth that follows (R359, R360, R363). Silence or the loss of block lock puts a port DOWN with event
0x9002.
Each of these commands completes here, on conditions on the state and its operands alone: LINK_UP, LINK_QUALIFIED, BLOCK_LOCK_LOST, LINK_SILENCE. -/
def Obligations.LinkStates : Prop :=
  ∀ (s : State) (p : Fin 6),
    (s.role p.val ≠ 0 → s.portUp p.val = false → s.get PWR_DOM_STATE_LINK = 0 →
      ∃ t, exec (.linkUp p) s = .next t ∧ t.get (IAT_PORT_STAT_STATE p.val) = 2 ∧ t.bit (IAT_PORT_STAT_QUALIFIED p.val) = false ∧
        t.events = s.events ++ [⟨0x9001, p.val, p.val, s.tick⟩] ∧ (t.port p.val).cleanSince = s.now ∧
        sameRegs [(IAT_PORT_STAT_STATE p.val).addr] s t) ∧
    (∀ h : Hello, s.portUp p.val = true → s.bit (IAT_PORT_STAT_QUALIFIED p.val) = false → s.parent = none → s.role p.val = 2 →
      (∀ q, q < 6 → s.role q = 2 → q = p.val) → (s.port p.val).hello = some h → h.depth ≤ 7 →
      ∃ t, exec (.linkQualified p) s = .next t ∧ t.bit (IAT_PORT_STAT_QUALIFIED p.val) = true ∧ t.get IAT_STATUS_PARENT = p.val ∧
        t.get IAT_STATUS_DEPTH = h.depth + 1 ∧ t.bit IAT_STATUS_ORPHAN = false ∧ t.bit IAT_STATUS_ROOT = false ∧
        t.get (IAT_PORT_STAT_STATE p.val) = 3 ∧ t.now = max s.now ((s.port p.val).cleanSince + ms)) ∧
    (s.portUp p.val = true →
      ∃ t, exec (.blockLockLost p) s = .next t ∧ t.get (IAT_PORT_STAT_STATE p.val) = 0 ∧ t.bit (IAT_PORT_STAT_QUALIFIED p.val) = false ∧
        t.port p.val = LinkPort.reset ∧ (⟨0x9002, p.val, 0, s.tick⟩ : EventRec) ∈ t.events) ∧
    (s.portUp p.val = true →
      ∃ t, exec (.linkSilence p) s = .next t ∧ t.get (IAT_PORT_STAT_STATE p.val) = 0 ∧ t.bit (IAT_PORT_STAT_QUALIFIED p.val) = false ∧
        t.port p.val = LinkPort.reset ∧ t.now = max s.now ((s.port p.val).lastRecv + us) ∧ (⟨0x9002, p.val, 1, t.tick⟩ : EventRec) ∈ t.events)

/-- The timers of the links (R356, R359, R360, R364): a HELLO and a PROBE go out on every port that is UP, an IDLE on a port with nothing to send, a
frame not acknowledged for 2 µs goes out again and is counted, and a PROBE without a reply within 1 µs is forgotten.
Each of these commands completes here, on conditions on the state and its operands alone: HELLO_TIMER, PROBE_TIMER, PROBE_TIMEOUT, IDLE_TIMER,
REPLAY_TIMEOUT. -/
def Obligations.LinkTimers : Prop :=
  ∀ s : State,
    (∃ t, exec .helloTimer s = .next t ∧ t = { s with iat := t.iat, out := t.out } ∧ t.out = s.out ++ s.upPorts.map (fun p =>
        .frame p (Frame.mk ftHello 0 (s.get IAT_CFG_ADDR) 0 (((s.port p).expect + 4095) % 4096) [s.helloWord p]).words)) ∧
    (∃ t, exec .probeTimer s = .next t ∧ t = { s with iat := t.iat, out := t.out } ∧ (t.out = s.out ++ s.upPorts.map (fun p =>
        .frame p (Frame.mk ftProbe 0 (s.get IAT_CFG_ADDR) 0 (((s.port p).expect + 4095) % 4096) [(s.port p).nextProbe]).words)) ∧
        ∀ p ∈ s.upPorts, (t.port p).probes = (s.port p).probes ++ [((s.port p).nextProbe, s.now)]) ∧
    (∀ p : Fin 6, ∃ t, exec (.probeTimeout p) s = .next t ∧ t = { s with iat := t.iat } ∧
        t.port p.val = { s.port p.val with probes := (s.port p.val).probes.filter (fun q => decide (s.now ≤ q.2 + us)) } ∧
        ∀ q, q ≠ p.val → t.port q = s.port q) ∧
    (∀ p : Fin 6, s.portUp p.val = true →
      ∃ t, exec (.idleTimer p) s = .next t ∧ t = { s with now := t.now, iat := t.iat, out := t.out } ∧
        t.now = max s.now ((s.port p.val).lastSend + 256 * ns) ∧
        t.out = s.out ++ [.frame p.val (Frame.mk ftIdle 0 (s.get IAT_CFG_ADDR) 0 (((s.port p.val).expect + 4095) % 4096) []).words]) ∧
    (∀ (p : Fin 6) (y : Sent), s.portUp p.val = true → (s.port p.val).unacked = [y] → y.replays < 3 →
      ∃ t, exec (.replayTimeout p) s = .next t ∧ t = { s with now := t.now, regs := t.regs, iat := t.iat, out := t.out } ∧
        t.now = max s.now (y.at_ + 2 * us) ∧ (t.port p.val).unacked.map (fun z => z.replays) = [y.replays + 1] ∧
        t.get (IAT_PORT_REPLAYS_COUNT p.val) = min (s.get (IAT_PORT_REPLAYS_COUNT p.val) + 1) (2 ^ 32 - 1) ∧
        t.out = s.out ++ [.frame p.val ({ y.frame with ack := ((s.port p.val).expect + 4095) % 4096 } : Frame).words])

/-- No site waits in ARMED for an event and no flow waits for a signal. -/
def nobodyWaits (s : State) : Prop := ∀ i, i < 16 → s.siteSt i ≠ stArmed ∧ ∀ w k, s.flowWaits i w k = false

/-- No EVENT frame has acted at this instant, or at this APPLY tick. -/
def notWith (s : State) (t apply : Nat) : Prop := ∀ m, s.iat.together = some m → m.at_ ≠ t ∧ (apply = 0 ∨ m.apply ≠ apply)

/-- An event with APPLY 0 acts on arrival: it goes out on every other active link and sets and clears bits of the event vector, clears first; one with an
APPLY tick in the future waits for it (R368, R369). Frames of one instant act together: all clears, then all sets, on the vector before them.
EVT_STATE gives the vector as it is. IAT_EVT_SET and IAT_EVT_CLEAR originate events. Here where nobody waits and bit 0 does not rise.
Each of these commands completes here, on conditions on the state and its operands alone: EVT_STATE, EVENT, EVT_SET, EVT_CLEAR, EVENT_APPLY. -/
def Obligations.ConstellationEvents : Prop :=
  ∀ s : State,
    (∀ (p : Fin 6) (x : Rx) (v : Word), nobodyWaits s → arrives s p.val x ftEvtState → v.toNat.testBit 0 = false →
      ∃ t, exec (.evtState p x v) s = .next t ∧ t = { s with regs := t.regs, iat := t.iat } ∧ took s t p.val x ftEvtState ∧ t.get IAT_EVT_STATE = v.toNat ∧
        sameRegs [IAT_EVT_STATE.addr] s t) ∧
    (∀ (p : Fin 6) (x : Rx) (set clear : Word), nobodyWaits s → arrives s p.val x ftEvent → set.toNat.testBit 0 = false →
      s.activeLinks.filter (fun q => decide (q ≠ p.val)) = [] → (∀ m, s.iat.together = some m → m.set.testBit 0 = false) →
      (∃ t, exec (.event p x (BitVec.ofNat 64 (set.toNat + 2 ^ 32 * clear.toNat)) 0) s = .next t ∧ t = { s with regs := t.regs, iat := t.iat } ∧ took s t p.val x ftEvent ∧
        (notWith s s.now 0 → t.get IAT_EVT_STATE = evtBits (s.get IAT_EVT_STATE) clear.toNat set.toNat) ∧
        (∀ m, s.iat.together = some m → m.at_ = s.now → t.get IAT_EVT_STATE = evtBits m.base (m.clear ||| clear.toNat) (m.set ||| set.toNat)) ∧
        sameRegs [IAT_EVT_STATE.addr] s t) ∧
      (∀ apply : DWord, s.tick < apply.toNat →
        ∃ t, exec (.event p x (BitVec.ofNat 64 (set.toNat + 2 ^ 32 * clear.toNat)) apply) s = .next t ∧ t.regs = s.regs ∧
          t.iat.applies = s.iat.applies ++ [⟨apply.toNat, set.toNat, clear.toNat⟩])) ∧
    (∀ v : Word, v ≠ 0 → nobodyWaits s → s.activeLinks = [] → s.bit IAT_CFG_EVT_ALIGN = false → notWith s s.now 0 → v.toNat.testBit 0 = false →
      (∃ t, exec (.evtSet v) s = .next t ∧ t = { s with regs := t.regs, iat := t.iat } ∧ t.get IAT_EVT_STATE = s.get IAT_EVT_STATE ||| v.toNat ∧
        sameRegs [IAT_EVT_STATE.addr] s t) ∧
      (∃ t, exec (.evtClear v) s = .next t ∧ t = { s with regs := t.regs, iat := t.iat } ∧
        t.get IAT_EVT_STATE = s.get IAT_EVT_STATE &&& ((2 ^ 32 - 1) ^^^ v.toNat) ∧ sameRegs [IAT_EVT_STATE.addr] s t)) ∧
    (∀ a : EvtApply, s.iat.applies = [a] → nobodyWaits s → notWith s (max s.now (s.ofMer (a.apply * tickLsb))) a.apply → a.set.testBit 0 = false →
      ∃ t, exec .eventApply s = .next t ∧ t.iat.applies = [] ∧ t.now = max s.now (s.ofMer (a.apply * tickLsb)) ∧
        t.get IAT_EVT_STATE = evtBits (s.get IAT_EVT_STATE) a.clear a.set ∧ sameRegs [IAT_EVT_STATE.addr] s t)

/-- An EPOCH frame from the active parent that is in time is forwarded and, where Iatipin is the epoch source, pended with its instant corrected by the
link's latency; one that is late sets EPOCH_LATE with event 0x9005 (R366). The root's epoch lies EPOCH_LEAD after the next reference edge and
carries the pending COMMIT_NEXT, which COMMIT_NEXT with a TAG makes pending on the root (R365).
Each of these commands completes here, on conditions on the state and its operands alone: EPOCH, ROOT_EPOCH, COMMIT_NEXT. -/
def Obligations.ConstellationEpochs : Prop :=
  ∀ s : State,
    (∀ (p : Fin 6) (x : Rx) (w1 w2 w3 : DWord), arrives s p.val x ftEpoch → s.parent = some p.val →
      let e : Int := s.now + bitsOf w2.toNat 0 32 - signedOf 32 (s.get (IAT_PORT_LAT p.val))
      (s.now + 100 * ns ≤ e → s.children = [] →
        ∃ t, exec (.epoch p x w1 w2 w3) s = .next t ∧ t.regs = s.regs ∧
          t.iat.forwarded.getLast? = some ⟨e.toNat, w1.toNat, bitsOf w2.toNat 32 11, bitOf w2.toNat 48, bitOf w2.toNat 49, bitsOf w3.toNat 0 16, bitsOf w3.toNat 16 16⟩ ∧
          t.tb.epochs = s.tb.epochs ++ (if s.get TB_EPOCH_CFG_SOURCE = 2 then
            [⟨.link, e.toNat, e.toNat, bitOf w2.toNat 48, bitOf w2.toNat 49, bitsOf w3.toNat 0 16, some w1.toNat⟩] else [])) ∧
      (e < s.now + 100 * ns →
        ∃ t, exec (.epoch p x w1 w2 w3) s = .next t ∧ t.bit IAT_STATUS_EPOCH_LATE = true ∧ t.tb.epochs = s.tb.epochs ∧
          (⟨0x9005, p.val, min (2 ^ 32 - 1) (((s.now : Int) + 100 * ns - e) / ns).toNat % 2 ^ 32, s.tick⟩ : EventRec) ∈ t.events)) ∧
    (∀ (o : Origin) (tag : BitVec 16), s.bit IAT_STATUS_ROOT = true → s.get IAT_CFG_ROOT_SRC = 0 → s.tb.zero.isSome = true →
      ∃ t, exec (.rootEpoch o tag) s = .next t ∧ t.now = max s.now (s.refEdge (s.now + 1)) ∧ t.get IAT_CMD_TAG = tag.toNat ∧
        t.bit IAT_CMD_COMMIT_NEXT = false ∧ t.iat.epochSeq = (s.iat.epochSeq + 1) % 2 ^ 16 ∧
        t.tb.epochs = s.tb.epochs ++ (if s.get TB_EPOCH_CFG_SOURCE = 2 then
          [⟨.link, s.refEdge (s.now + 1) + s.get IAT_TIMING_EPOCH_LEAD * us, s.refEdge (s.now + 1), s.bit TB_EPOCH_CMD_ARM_ESTABLISH,
            s.bit IAT_CMD_COMMIT_NEXT, tag.toNat, none⟩] else [])) ∧
    (∀ (o : Origin) (tag : BitVec 16), s.bit IAT_STATUS_ROOT = true →
      ∃ t, exec (.commitNext o tag) s = .next t ∧ sameRest s t ∧ t.bit IAT_CMD_COMMIT_NEXT = true ∧ t.get IAT_CMD_TAG = tag.toNat ∧
        sameRegsBut [IAT_CMD_TAG.addr] s t)

/-! The boot sequence and amendments (R498 to R514). -/

/-- The device is out of reset, at a stage of its boot. -/
def boots (s : State) (k : Nat) : Prop := s.heldReset = false ∧ s.get NVM_STATUS_STAGE = k

/-- The first lock starts Meridian time and the memory test, which retires the failing banks and gives each logical bank the lowest good physical
bank; flash identification finds SIZE, MODE and the headers. ALMANAC_LOAD without a valid slot zeroes every set and sets NONE and UNCAL, and the
self-test makes the device READY (R418, R498, R499, R395, R508, R509).
Each of these commands completes here, on conditions on the state and its operands alone: TIMEBASE_LOCK, BOOT_MARCH_DONE, FLASH_ID_DONE, ALMANAC_LOAD,
SELFTEST_DONE. -/
def Obligations.BootStages : Prop :=
  ∀ s : State,
    (∀ (a b : Option (Fin 4)) (n : Nat), s.heldReset = false → s.get NVM_STATUS_STAGE ≤ 1 → s.refChoice = some n →
      ∃ t, exec (.timebaseLock a b) s = .next t ∧ t = { s with regs := t.regs, tb := t.tb, fresh := t.fresh } ∧
        sameRegs [TB_REF_CFG_FREQ_A.addr, TB_REF_STATUS_LOCKED.addr, NVM_STATUS_STAGE.addr] s t ∧
        t.bit TB_REF_STATUS_LOCKED = true ∧ t.get TB_REF_STATUS_ACTIVE = n ∧ t.tb.zero = some s.now ∧ t.get NVM_STATUS_STAGE = 2 ∧
        t.get TB_REF_CFG_FREQ_A = (a.map Fin.val).getD (s.get TB_REF_CFG_FREQ_A) ∧
        t.get TB_REF_CFG_FREQ_B = (b.map Fin.val).getD (s.get TB_REF_CFG_FREQ_B)) ∧
    (∀ bad : List (Fin 68), boots s 2 → (bad.map Fin.val).eraseDups.length ≤ 4 → s.audPlaced = false →
      ∃ t, exec (.bootMarchDone bad) s = .next t ∧ t = { s with regs := t.regs, mem := [], memUe := [], memCarried := [] } ∧
        t.get NVM_STATUS_STAGE = 3 ∧
        (∀ b : Fin 64, t.phys b.val = ((List.range 68).filter (fun j => !(bad.map Fin.val).contains j)).getD b.val b.val) ∧
        ∀ j : Fin 68, bitOf (t.get (MEM_RETIRED (j.val / 32))) (j.val % 32) =
          (bad.contains j || bitOf (s.get (MEM_RETIRED (j.val / 32))) (j.val % 32))) ∧
    (∀ (octal : Bool) (size : Fin 65536) (h0 h1 : List Byte), boots s 3 → 64 ≤ size.val →
      ∃ t, exec (.flashIdDone (some (octal, size)) h0 h1) s = .next t ∧ t = { s with regs := t.regs, boot := t.boot } ∧
        sameRegs [NVM_FLASH_INFO_SIZE.addr, NVM_STATUS_STAGE.addr] s t ∧ t.get NVM_STATUS_STAGE = 4 ∧
        t.get NVM_FLASH_INFO_SIZE = size.val ∧ t.get NVM_STATUS_MODE = (if octal then 2 else 1) ∧
        t.boot = { s.boot with headers := (h0.take 256, h1.take 256) }) ∧
    (∀ h0 h1 : List Byte, boots s 3 →
      ∃ t, exec (.flashIdDone none h0 h1) s = .next t ∧ t.get NVM_BOOT_STAT_PRIMARY = 4 ∧ t.get NVM_STATUS_STAGE = 15 ∧
        t.get PWR_STATUS_DEV_STATE = 5 ∧ t.mem = [] ∧ t.events.any (fun e => decide (e.code = 0xF082)) = true) ∧
    (∀ b0 b1 : List Byte, boots s 7 → s.almValid b0 = false → s.almValid b1 = false →
      ∃ t, exec (.almanacLoad b0 b1) s = .next t ∧ t.get NVM_STATUS_STAGE = 9 ∧ t.bit CAL_ALM_STAT_NONE = true ∧ t.bit CAL_STATUS_UNCAL = true ∧
        t = { s with regs := t.regs, cal := t.cal, events := s.events ++ [⟨0xA007, noSource, 0xFF, s.tick⟩] } ∧
        t.cal = { s.cal with committed := [], pending := [], temps := [], pendTemps := [], commTemps := [], setTag := 0 } ∧
        (s.canon = true → ∀ a, a ∉ [CAL_ALM_STAT_NONE.addr, CAL_STATUS_UNCAL.addr, NVM_STATUS_STAGE.addr] →
          t.reg a = if 0xD4000 ≤ a ∧ a < 0xE0000 then resetWord a else s.reg a)) ∧
    (∀ b0 b1 : List Byte, boots s 7 → s.almValid b0 = true → s.almValid b1 = true →
      ∃ t, exec (.almanacLoad b0 b1) s = .next t ∧ t.get NVM_STATUS_STAGE = 9 ∧ t.bit CAL_STATUS_UNCAL = false ∧
        t.cal.committed = almSet (if almSeq b0 < almSeq b1 then b1 else b0) ∧
        t.get CAL_ALM_STAT_SLOT = (if almSeq b0 < almSeq b1 then 1 else 0) ∧ t.get CAL_ALM_SEQ = max (almSeq b0) (almSeq b1)) ∧
    (∀ fails : List (Fin 512 × Fin 4), boots s 9 → s.bit PWR_STATUS_TWILIGHT = false → (∀ i, i < 16 → s.level i ≠ 2) →
      ∃ t, exec (.selftestDone fails) s = .next t ∧ t.get NVM_STATUS_STAGE = 10 ∧ t.get PWR_STATUS_DEV_STATE = 2 ∧
        t.get NVM_BOOT_TIME = (s.now - s.boot.start) / (100 * us) % 2 ^ 32 ∧ t.events.any (fun e => decide (e.code = 0xF081)) = true ∧
        ∀ (p : Fin 512) (m : Fin 4), fails = [(p, m)] → m.val ≠ 0 → s.octOff (p.val / 64) = false →
          bitOf (t.get (NVM_STFAIL_FAIL (p.val / 32))) (p.val % 32) = true)

/-- A copy of the image is being read and nothing has failed in it, END has not been read, and a record of `n` bytes still fits in it. -/
def copyAt (s : State) (n : Nat) : Prop :=
  s.reading = true ∧ s.boot.ended = false ∧ s.boot.bytes.length + n ≤ hdrLength s.header

/-- A record of an image that is read takes its place in it (R502, R503): HOST, REG and LOCK records are staged, MEM and FILL records are written at
once, a DRAM record as the first brings the DRAM up, END ends the copy. One with a wrong CRC is a bad record (R504).
Each of these commands completes here, on conditions on the state and its operands alone: HOST_RECORD, REG_RECORD, LOCK_RECORD, END_RECORD,
MEM_RECORD, FILL_RECORD, DRAM_RECORD. -/
def Obligations.ImageRecords : Prop :=
  ∀ s : State,
    (∀ w0 w1 : Word, copyAt s 24 → s.boot.staged = [] → s.boot.stagedLen = 0 →
      ∃ t, exec (.hostRecord w0 w1 .ok) s = .next t ∧ t = { s with boot := t.boot } ∧ t.boot = { s.boot with
        bytes := s.boot.bytes ++ recordBytes 1 (wordsBytes [w0, w1]), count := s.boot.count + 1, staged := [.host w0 w1], stagedLen := 24 }) ∧
    (∀ ps : List (Word × Word), copyAt s (16 + 8 * ps.length) → s.boot.stagedLen + (16 + 8 * ps.length) ≤ s.stageCount * 0x100000 →
      ∃ t, exec (.regRecord ps .ok) s = .next t ∧ t = { s with boot := t.boot } ∧ t.boot.staged = s.boot.staged ++ [.reg (ps.map (fun p => (p.1.toNat, p.2)))] ∧
        t.boot.count = s.boot.count + 1 ∧ t.boot.bad = none) ∧
    (∀ l : List Word, copyAt s (8 * ((19 + 4 * l.length) / 8)) → s.boot.stagedLen + 8 * ((19 + 4 * l.length) / 8) ≤ s.stageCount * 0x100000 →
      ∃ t, exec (.lockRecord l .ok) s = .next t ∧ t = { s with boot := t.boot } ∧ t.boot.staged = s.boot.staged ++ [.lock (l.map BitVec.toNat)] ∧
        t.boot.count = s.boot.count + 1 ∧ t.boot.bad = none) ∧
    (copyAt s 16 → ∃ t, exec (.endRecord .ok) s = .next t ∧ t = { s with boot := t.boot } ∧ t.boot = { s.boot with
        bytes := s.boot.bytes ++ recordBytes 7 [], count := s.boot.count + 1, ended := true }) ∧
    (copyAt s 16 → ∃ t, exec (.endRecord .bad) s = .next t ∧ t = { s with boot := t.boot } ∧ t.boot.bad = some (5, s.boot.count) ∧ t.boot.ended = false) ∧
    (∀ (x : Nat) (ws : List Word), copyAt s (8 * ((27 + 4 * ws.length) / 8)) → x % 4 = 0 → x + 4 * ws.length ≤ 59 * 0x100000 → s.stageCount = 1 →
      portBFree s .img x (4 * ws.length) → memPlain s →
      ∃ t, exec (.memRecord (BitVec.ofNat 64 (ocmBase + x)) ws .ok) s = .next t ∧ t = { s.touch (ocmBase + x) (4 * ws.length) with mem := t.mem, boot := t.boot } ∧
        (∀ y, y < 0x4000000 → t.ocmByte y = if x ≤ y ∧ y < x + 4 * ws.length then (wordsBytes ws).getD (y - x) 0 else s.ocmByte y) ∧
        t.boot.count = s.boot.count + 1 ∧ t.boot.bad = none) ∧
    (∀ (x : Nat) (n w : Word), copyAt s 32 → x % 4 = 0 → n.toNat % 4 = 0 → x + n.toNat ≤ 59 * 0x100000 → s.stageCount = 1 →
      portBFree s .img x n.toNat → memPlain s →
      ∃ t, exec (.fillRecord (BitVec.ofNat 64 (ocmBase + x)) n w .ok) s = .next t ∧ t = { s.touch (ocmBase + x) n.toNat with mem := t.mem, boot := t.boot } ∧
        (∀ y, y < 0x4000000 → t.ocmByte y = if x ≤ y ∧ y < x + n.toNat then (leBytes 4 w.toNat).getD ((y - x) % 4) 0 else s.ocmByte y) ∧
        t.boot.count = s.boot.count + 1 ∧ t.boot.bad = none) ∧
    (∀ ws : List Word, copyAt s 48 → ws.length = 8 → s.boot.count = 0 → s.boot.dram = none → s.get DRC_STATUS_STATE = 0 →
      s.audPlaced = false →
      drcCfgOk (s.regWrite .img 0x70000 (ws.getD 0 0) |>.reg 0x70000) = true →
      ∃ t, exec (.dramRecord ws .ok) s = .next t ∧ t.boot.dram = some ws ∧ t.get DRC_STATUS_STATE = 1 ∧ t.boot.count = 1 ∧ t.boot.bad = none)

/-- The check of a copy ends APPLY or goes on to the mirror (R504, R505); APPLY leaves the staging bank clear and NVM_IMG_SEQ and
NVM_IMG_BUILD as the header gives them (R506).
Each of these commands completes here, on conditions on the state and its operands alone: IMAGE_COPY_CHECKED, APPLY_DONE. -/
def Obligations.ImageApplied : Prop :=
  ∀ s : State,
    (boots s 4 → s.hdrBad s.header false = none → s.boot.bad = none → s.boot.ended = true → s.boot.bytes.length = hdrLength s.header →
      s.boot.count = hdrCount s.header → s.sigBad s.header s.boot.bytes = none →
      ∃ t, exec (.imageCopyChecked .ok) s = .next t ∧ t = { s with regs := t.regs } ∧
        sameRegs [NVM_BOOT_STAT_PRIMARY.addr, NVM_STATUS_STAGE.addr] s t ∧ t.get NVM_BOOT_STAT_PRIMARY = 0 ∧ t.get NVM_STATUS_SOURCE = 0 ∧
        t.get NVM_STATUS_STAGE = 6) ∧
    (boots s 4 → s.hdrBad s.header false = none → s.boot.bad = none → s.boot.wrote = [] → s.boot.wroteDram = false →
      ∃ t, exec (.imageCopyChecked .readErr) s = .next t ∧ t = { s with regs := t.regs, boot := t.boot } ∧
        sameRegs [NVM_BOOT_STAT_PRIMARY.addr, NVM_STATUS_STAGE.addr] s t ∧ t.get NVM_BOOT_STAT_PRIMARY = 4 ∧ t.get NVM_STATUS_STAGE = 5 ∧
        t.boot.staged = [] ∧ t.boot.bytes = [] ∧ t.boot.count = 0 ∧ t.boot.dram = s.boot.dram) ∧
    (∀ ids sub : Word, boots s 6 → s.boot.staged = [.host ids sub] → s.get NVM_STATUS_SOURCE = 0 → bitsOf (leAt s.boot.headers.1 0x24 4) 0 6 ≤ 1 →
      s.audPlaced = false → s.canon = true →
      ∃ t, exec .applyDone s = .next t ∧ t.get NVM_STATUS_STAGE = 7 ∧ t.get NVM_IMG_SEQ = hdrSeq s.boot.headers.1 ∧
        t.get64 NVM_IMG_BUILD_LO_BUILD NVM_IMG_BUILD_HI_BUILD = hdrBuild s.boot.headers.1 ∧ t.boot.staged = [] ∧
        t.host.ids = some (fieldGet 0 16 ids, fieldGet 16 16 ids, fieldGet 0 16 sub) ∧ (∀ x, x < 0x100000 → t.ocmByte (59 * 0x100000 + x) = 0) ∧
        (⟨0xB004, noSource, 59, s.tick⟩ : EventRec) ∈ t.events)

/-- SUBMIT reads an amendment once; its check makes it wait or refuses it with event 0xF084 (R511); applying it moves NVM_AMD_SEQ on with event 0xF083 (R512),
and storing it appends its bytes to the area and reports the read-back (R513), behind an Almanac save that came before it (R394). A stored entry is applied at boot, or counted as skipped (R514).
Each of these commands completes here, on conditions on the state and its operands alone: AMD_SUBMIT, AMD_CHECK_DONE, AMD_APPLY, AMD_PERSIST_DONE,
AMEND_ENTRY. -/
def Obligations.Amendments : Prop :=
  ∀ s : State,
    (s.boot.amd = none → s.amdBytes (s.get NVM_AMD_BASE / 256 * 256) = [] →
      ∃ t, exec .amdSubmit s = .next t ∧ t = { s with regs := t.regs, boot := t.boot } ∧ t.get NVM_AMD_STAT_STATE = 1 ∧
        t.boot.amd = some ⟨s.get NVM_AMD_BASE / 256 * 256, [], .checking, false⟩ ∧ sameRegs [NVM_AMD_STAT_STATE.addr] s t) ∧
    (s.boot.amd = none → inOcm (s.get NVM_AMD_BASE / 256 * 256) 256 = true →
      ∃ t, exec .amdSubmit s = .next t ∧ sameRest { s with boot := t.boot } t ∧ t.get NVM_AMD_STAT_STATE = 1 ∧
        t.boot.amd = some ⟨s.get NVM_AMD_BASE / 256 * 256, s.amdBytes (s.get NVM_AMD_BASE / 256 * 256), .checking, false⟩) ∧
    (∀ a : Amendment, s.boot.amd = some a → a.phase = .checking → s.amdBytes a.base = a.bytes →
      ((s.amdResult a.bytes (s.get NVM_AMD_SEQ)).1 = 0 →
        ∃ t, exec .amdCheckDone s = .next t ∧ t = { s with regs := t.regs, boot := t.boot, fresh := t.fresh } ∧ t.get NVM_AMD_STAT_STATE = 2 ∧
          t.boot.amd = some { a with phase := .waiting } ∧ sameRegs [NVM_AMD_STAT_STATE.addr] s t) ∧
      ((s.amdResult a.bytes (s.get NVM_AMD_SEQ)).1 = 0xA →
        ∃ t, exec .amdCheckDone s = .next t ∧ t = { s with regs := t.regs, boot := t.boot, fresh := t.fresh, events := t.events } ∧
          t.get NVM_AMD_STAT_STATE = 0 ∧ t.get NVM_AMD_STAT_RESULT = 0xA ∧ t.boot.amd = none ∧
          t.events = s.events ++ [⟨0xF084, noSource, 0xA, s.tick⟩] ∧ sameRegs [NVM_AMD_STAT_STATE.addr] s t)) ∧
    (∀ a : Amendment, s.boot.amd = some a → a.phase = .waiting → s.amdQuiet a.bytes = true → (amdRecords a.bytes).1 = [.end_] →
      hdrPersist a.bytes = false →
      ∃ t, exec .amdApply s = .next t ∧ t.get NVM_AMD_SEQ = hdrSeq a.bytes ∧ t.get NVM_AMD_STAT_STATE = 0 ∧ t.get NVM_AMD_STAT_RESULT = 0 ∧
        t.boot.amd = none ∧ (⟨0xF083, noSource, hdrSeq a.bytes, s.tick⟩ : EventRec) ∈ t.events) ∧
    (∀ (a : Amendment) (area : List Byte) (back : Option (List Byte)), s.boot.amd = some a → a.phase = .storing → a.afterSave = true →
      s.bit CAL_ALM_STAT_BUSY = true → exec (.amdPersistDone area back) s = .next s) ∧
    (∀ (a : Amendment) (area : List Byte), s.boot.amd = some a → a.phase = .storing → a.afterSave = false ∨ s.bit CAL_ALM_STAT_BUSY = false →
      s.cal.saveWait = none →
      let bs := a.bytes.take (256 + hdrLength a.bytes)
      let pos := (usedLen (area.take (s.get NVM_AMD_SIZE / 65536 * 65536)) + 7) / 8 * 8
      pos + bs.length ≤ s.get NVM_AMD_SIZE / 65536 * 65536 →
      ∃ t, exec (.amdPersistDone area (some bs)) s = .next t ∧ t = { s with regs := t.regs, boot := t.boot, out := t.out } ∧
        t.out = s.out ++ [.flash (s.get NVM_AMD_AREA / 65536 * 65536 + pos) bs] ∧ t.get NVM_AMD_STAT_STATE = 0 ∧ t.get NVM_AMD_STAT_RESULT = 0 ∧
        t.boot.amd = none ∧ sameRegs [NVM_AMD_STAT_STATE.addr] s t) ∧
    (∀ bs : List Byte, boots s 7 → (s.amdResult bs (s.get NVM_AMD_SEQ)).1 = 0 → (amdRecords bs).1 = [.end_] →
      ∃ t, exec (.amendEntry bs) s = .next t ∧ t.get NVM_AMD_SEQ = hdrSeq bs ∧ t.get NVM_STATUS_STAGE = 7 ∧
        (⟨0xF083, noSource, hdrSeq bs, s.tick⟩ : EventRec) ∈ t.events) ∧
    (∀ bs : List Byte, boots s 7 → (s.amdResult bs (s.get NVM_AMD_SEQ)).1 ≠ 0 →
      ∃ t, exec (.amendEntry bs) s = .next t ∧ t = { s with regs := t.regs } ∧
        t.get NVM_BOOT_STAT_AMD_SKIP = satAdd 8 (s.get NVM_BOOT_STAT_AMD_SKIP) 1 ∧ sameRegs [NVM_BOOT_STAT_AMD_SKIP.addr] s t)

/-! On-chip memory beyond its accesses (R407, R408, R410 to R418). -/

/-- No audit ring has been placed, so that audit records wait in the hold queue, and no access of memory waits, nor a write of the device itself. -/
def atEase (s : State) : Prop := s.audPlaced = false ∧ s.host.waiting = [] ∧ s.memory.late = []

/-- A write to MEM_BANK_CTRL requests power states of banks that are On; a request takes effect once nothing holds its bank, Off loses the contents, and
a bank that wakes or is cleared is On again. A wipe leaves the secure region clear with event 0xB007 (R410, R411, R413, R415, R423). The scrubber reads
its next word and counts what it corrects (R407, R408). The background test copies a bank into a spare and tests the bank it releases; a bank that
fails is retired (R416). A repair does the same with its own bank and waits where there is no spare (R417).
Each of these commands completes here, on conditions on the state and its operands alone: BANK_POWER_REQUEST, BANK_POWER_CHANGE, BANK_WAKE_DONE,
BANK_CLEARED, SECURE_WIPED, MEM_CLR_COUNTS, SCRUB_READ, BIST_BANK_START, BIST_COPY_DONE, BIST_MARCH_DONE, MEM_REPAIR, SPARE_EXHAUSTED. -/
def Obligations.BanksAndTests : Prop :=
  (∀ s : State, atEase s →
    (∀ (o : Origin) (n : Fin 4) (v : Word), (∀ k, k < 16 → (s.bank (16 * n.val + k)).power = .on) →
      ∃ t, exec (.bankPowerRequest o n v) s = .next t ∧
        t = { s with regs := t.regs, events := t.events, aud := t.aud, memory := { s.memory with banks := t.memory.banks } } ∧
        sameRegsBut [(MEM_BANK_CTRL_REQ_B n.val 0).addr, (MEM_BANK_STATE_STATE_B n.val 0).addr] s t ∧
        (∀ b, (b < 16 * n.val ∨ 16 * n.val + 16 ≤ b) → t.bank b = s.bank b) ∧
        ∀ k : Fin 16,
          (fieldGet (2 * k.val) 2 v = 3 → t.bank (16 * n.val + k.val) = s.bank (16 * n.val + k.val)) ∧
          (fieldGet (2 * k.val) 2 v = 0 → t.bank (16 * n.val + k.val) = { s.bank (16 * n.val + k.val) with wants := none } ∧
            t.get (MEM_BANK_STATE_STATE_B n.val k.val) = 0) ∧
          (fieldGet (2 * k.val) 2 v = 1 → t.bank (16 * n.val + k.val) = { s.bank (16 * n.val + k.val) with wants := some .retain } ∧
            t.get (MEM_BANK_STATE_STATE_B n.val k.val) = 3 ∧ t.bit MEM_STATUS_REQ_WAIT = true) ∧
          (fieldGet (2 * k.val) 2 v = 2 → t.bank (16 * n.val + k.val) = { s.bank (16 * n.val + k.val) with wants := some .off } ∧
            t.get (MEM_BANK_STATE_STATE_B n.val k.val) = 3 ∧ t.bit MEM_STATUS_REQ_WAIT = true)) ∧
    (∀ (b : Fin 64) (w : BankPower), (s.bank b.val).wants = some w → s.dmaOnBank b.val = false → s.portAHolds b.val = false →
      ∃ t, exec (.bankPowerChange b) s = .next t ∧ t.bank b.val = { s.bank b.val with power := w, wants := none } ∧ sameRest s t ∧
        (∀ c, c ≠ b.val → t.bank c = s.bank c) ∧ sameRegs [(MEM_BANK_STATE_STATE_B (b.val / 16) 0).addr, MEM_STATUS_REQ_WAIT.addr] s t ∧
        (w = .retain → t.mem = s.mem) ∧ (w = .off → s.canon = true → ∀ x, x < 0x100000 → t.ocmByte (b.val * 0x100000 + x) = 0)) ∧
    (∀ b : Fin 64, (s.bank b.val).power = .waking → (s.bank b.val).held = none →
      ∃ t, exec (.bankWakeDone b) s = .next t ∧ t = { s with regs := t.regs, memory := { s.memory with banks := t.memory.banks } } ∧
        t.bank b.val = { s.bank b.val with power := .on } ∧ (∀ c, c ≠ b.val → t.bank c = s.bank c) ∧
        sameRegs [(MEM_BANK_STATE_STATE_B (b.val / 16) 0).addr, MEM_STATUS_REQ_WAIT.addr] s t) ∧
    (∀ b : Fin 64, (s.bank b.val).power = .clearing → (s.bank b.val).held = none → s.canon = true →
      ∃ t, exec (.bankCleared b) s = .next t ∧ t.bank b.val = { s.bank b.val with power := .on } ∧ (∀ c, c ≠ b.val → t.bank c = s.bank c) ∧
        (∀ x, x < 0x100000 → t.ocmByte (b.val * 0x100000 + x) = 0) ∧ t.events = s.events ++ [⟨0xB004, noSource, b.val, s.tick⟩] ∧
        sameRest s t ∧ sameRegs [(MEM_BANK_STATE_STATE_B (b.val / 16) 0).addr, MEM_STATUS_REQ_WAIT.addr] s t) ∧
    (s.bit MEM_STATUS_WIPING = true → s.canon = true →
      ∃ t, exec .secureWiped s = .next t ∧ t.bit MEM_STATUS_WIPING = false ∧ t.events = s.events ++ [⟨0xB007, noSource, 0, s.tick⟩] ∧
        (∀ x, 0x3C00000 ≤ x → x < 0x4000000 → t.ocmByte x = 0) ∧ sameRest s t ∧ sameRegs [MEM_STATUS_WIPING.addr] s t) ∧
    (∃ t, exec .memClrCounts s = .next t ∧ t = { s with regs := t.regs } ∧ t.get MEM_CE_COUNT = 0 ∧ t.get MEM_UE_COUNT = 0 ∧ t.get MEM_COLL_COUNT = 0 ∧
      sameRegs [MEM_CE_COUNT.addr, MEM_UE_COUNT.addr, MEM_COLL_COUNT.addr] s t)) ∧
  ∀ s : State,
    (∀ w, s.bit MEM_CFG_SCRUB_EN = true → s.scrubWord 69 s.memory.scrubAt = some w →
      (s.memUe = [] →
        ∃ t, exec (.scrubRead .ok) s = .next t ∧ t = { s with memory := { s.memory with scrubAt := (w + 1) % (68 * 0x40000) } }) ∧
      (∀ b, s.memUe = [] → s.logical (w / 0x40000) = some b → s.bit MEM_STATUS_CE = false →
        ∃ t, exec (.scrubRead .single) s = .next t ∧ t.get MEM_CE_COUNT = min (s.get MEM_CE_COUNT + 1) (2 ^ 32 - 1) ∧ t.bit MEM_STATUS_CE = true ∧
          t.events = s.events ++ [⟨0xB001, noSource, ocmBase + (b * 0x100000 + w % 0x40000 * 4), s.tick⟩] ∧
          t.memory = { s.memory with scrubAt := (w + 1) % (68 * 0x40000) } ∧ t.mem = s.mem ∧
          sameRegs [MEM_CE_COUNT.addr, MEM_STATUS_CE.addr] s t)) ∧
    (∀ b j l, s.bit MEM_BIST_CFG_EN = true → s.bistBusy = false → s.memory.wait = none →
      (s.bistBanks.filter (fun k => decide (s.memory.bistNext ≤ k))).head? = some b → s.spares = j :: l →
      ∃ t, exec .bistBankStart s = .next t ∧ t = { s with now := t.now, regs := t.regs, memory := t.memory } ∧
        t.now = max s.now s.memory.bistAt ∧ t.memory = { s.memory with copies := s.memory.copies ++ [⟨b, j, false⟩] } ∧
        t.get MEM_BIST_STAT_STATE = 1 ∧ t.get MEM_BIST_STAT_BANK = b ∧ t.get MEM_BIST_STAT_PHYS = s.phys b ∧
        sameRegs [MEM_BIST_STAT_STATE.addr, MEM_STATUS_SPARES_FREE.addr] s t) ∧
    (∀ (b : Fin 64) (j : Fin 68), s.memory.copies = [⟨b.val, j.val, false⟩] → s.phys b.val ≠ j.val → s.canon = true →
      ∃ t, exec (.bistCopyDone b) s = .next t ∧ sameRest s t ∧ t.phys b.val = j.val ∧ t.memory.testing = some (b.val, s.phys b.val) ∧
        t.memory.copies = [] ∧ t.get MEM_BIST_STAT_STATE = 2 ∧ (∀ x, x < 0x100000 → t.ocmByte (b.val * 0x100000 + x) = s.ocmByte (b.val * 0x100000 + x)) ∧
        t.events = s.events ++ [⟨0xB005, noSource, b.val + 2 ^ 8 * j.val, s.tick⟩] ∧
        sameRegs [(MEM_MAP_PHYS b.val).addr, MEM_BIST_STAT_STATE.addr, MEM_STATUS_SPARES_FREE.addr] s t) ∧
    (∀ b j, s.memory.testing = some (b, j) → s.memory.repairs = [] →
      (∃ t, exec (.bistMarchDone true) s = .next t ∧ sameRest s t ∧ t.events = s.events ∧ t.memory.testing = none ∧ t.get MEM_BIST_STAT_STATE = 0 ∧
        t.memory.bistAt = s.now + s.get MEM_BIST_CFG_INTERVAL * ms ∧
        t.get MEM_BIST_STAT_PASSES = (if s.bistBanks.any (fun k => decide (b < k)) then s.get MEM_BIST_STAT_PASSES
          else min (s.get MEM_BIST_STAT_PASSES + 1) (2 ^ 16 - 1)) ∧
        sameRegs [MEM_BIST_STAT_STATE.addr, MEM_STATUS_SPARES_FREE.addr] s t) ∧
      (∃ t, exec (.bistMarchDone false) s = .next t ∧ sameRest s t ∧ t.memory.testing = none ∧
        t.get (MEM_RETIRED (j / 32)) = s.get (MEM_RETIRED (j / 32)) ||| 2 ^ (j % 32) ∧ t.events = s.events ++ [⟨0xB006, noSource, j % 2 ^ 32, s.tick⟩])) ∧
    (∀ (b : Fin 64) (j : Nat) (l : List Nat), s.repairNew b.val = true → s.memory.wait = none → s.spares = j :: l →
      ∃ t, exec (.memRepair b) s = .next t ∧ t = { s with regs := t.regs, memory := { s.memory with copies := s.memory.copies ++ [⟨b.val, j, true⟩] } } ∧
        sameRegs [MEM_STATUS_SPARES_FREE.addr] s t) ∧
    (∀ b : Fin 64, s.repairNew b.val = true → s.spares = [] →
      ∃ t, exec (.memRepair b) s = .next t ∧ t.bit MEM_STATUS_NO_SPARE = true ∧ t.memory.repairs = s.memory.repairs ++ [b.val] ∧
        t.memory.copies = s.memory.copies ∧ sameRest s t ∧ sameRegs [MEM_STATUS_NO_SPARE.addr] s t) ∧
    (∀ at_ b, s.memory.wait = some (at_, b) →
      ∃ t, exec .spareExhausted s = .next t ∧ t.regs = s.regs ∧ t.now = max s.now (at_ + 1000 * ms) ∧ t.memory.wait = none ∧
        t.memory.repairs = s.memory.repairs.erase b ∧
        (s.bit MEM_STATUS_NO_SPARE = false → (⟨0xB008, noSource, b % 2 ^ 32, t.tick⟩ : EventRec) ∈ t.events))

/-! The DRAM controller (R427 to R456). -/

/-- A request for On brings an Off DRAM up by training; one for Retain or Off waits until nothing uses the DRAM. Retain keeps the segments that PASR names,
Off none; the segments lost are cleared one by one on the way back, with event 0xC008 after the last (R443, R444, R446, R447, R455).
Each of these commands completes here, on conditions on the state and its operands alone: DRAM_POWER_REQUEST, DRAM_POWER_CHANGE, SELF_REFRESH_EXIT,
DRAM_SEGMENT_CLEARED, DRC_CLR_COUNTS. -/
def Obligations.DramPowerStates : Prop :=
  ∀ s : State, atEase s →
    (∀ (o : Origin) (v : Word), s.get DRC_STATUS_STATE = 0 → fieldGet 0 2 v = 0 → drcCfgOk (s.reg DRC_CFG_ORDER.addr) = true →
      ∃ t, exec (.dramPowerRequest o v) s = .next t ∧ sameRest { s with drc := t.drc } t ∧ t.get DRC_STATUS_STATE = 1 ∧
        t.get DRC_STATUS_SP = s.get DRC_CFG_BOOT_SP ∧ t.get DRC_PWR_CTRL_REQ = 0 ∧ t.drc.cfg = s.reg DRC_CFG_ORDER.addr ∧
        t.drc.train = some ⟨s.get DRC_CFG_BOOT_SP ::
          (List.range 4).filter (fun k => decide (k ≠ s.get DRC_CFG_BOOT_SP) && s.bit (DRC_SP_EN k)), .bringUp, [], false⟩ ∧
        sameRegsBut [DRC_PWR_CTRL_REQ.addr, DRC_TRAIN_CMD_GO.addr] s t) ∧
    (∀ (o : Origin) (v : Word), s.get DRC_STATUS_STATE = 2 → (fieldGet 0 2 v = 1 ∨ fieldGet 0 2 v = 2) →
      ∃ t, exec (.dramPowerRequest o v) s = .next t ∧ sameRest { s with drc := { s.drc with want := some (fieldGet 0 2 v) } } t ∧
        t.get DRC_STATUS_STATE = 3 ∧ t.get DRC_PWR_CTRL_REQ = fieldGet 0 2 v ∧ t.dram = s.dram ∧ sameRegsBut [DRC_PWR_CTRL_REQ.addr] s t) ∧
    (s.get DRC_STATUS_STATE = 3 → s.dmaOnDram = false → (∀ i, i < 16 → s.readDram i = false) → s.canon = true →
      (s.drc.want = some 1 →
        ∃ t, exec .dramPowerChange s = .next t ∧ sameRest { s with drc := t.drc } t ∧ t.get DRC_STATUS_STATE = 4 ∧ t.drc.want = none ∧
          sameRegs [DRC_STATUS_STATE.addr] s t ∧ ∀ k, k < 7 → ∀ x, k * s.usable / 7 ≤ x → x < (k + 1) * s.usable / 7 →
            t.dramByte x = if bitOf (s.get DRC_PWR_CTRL_PASR) k then s.dramByte x else 0) ∧
      (s.drc.want = some 2 →
        ∃ t, exec .dramPowerChange s = .next t ∧ sameRest { s with drc := t.drc } t ∧ t.get DRC_STATUS_STATE = 0 ∧ t.drc.want = none ∧
          sameRegs [DRC_STATUS_STATE.addr] s t ∧ ∀ x, x < s.usable → t.dramByte x = 0)) ∧
    (s.get DRC_STATUS_STATE = 4 → s.drc.want = some 0 →
      (∃ t, exec (.selfRefreshExit true) s = .next t ∧ t = { s with regs := t.regs, drc := t.drc } ∧ t.get DRC_STATUS_STATE = 1 ∧ t.drc.want = none ∧
        t.drc.train = some ⟨[s.get DRC_STATUS_SP], .retained, [], false⟩ ∧ sameRegs [DRC_STATUS_STATE.addr, DRC_TRAIN_CMD_GO.addr] s t) ∧
      (s.drc.retained ≤ 0xFF →
        ∃ t, exec (.selfRefreshExit false) s = .next t ∧ t = { s with regs := t.regs, drc := t.drc } ∧ t.get DRC_STATUS_CLEAR_SEG = s.drc.retained ∧
          t.get DRC_STATUS_STATE = (if s.drc.retained = 0xFF then 2 else 5) ∧ t.drc.clearing = 0xFF - s.drc.retained ∧
          sameRegs [DRC_STATUS_STATE.addr] s t)) ∧
    (∀ k, s.get DRC_STATUS_STATE = 5 → nextClear (0xFF - s.get DRC_STATUS_CLEAR_SEG) = some k → s.canon = true →
      ∃ t, exec .dramSegmentCleared s = .next t ∧ sameRest s t ∧ t.get DRC_STATUS_CLEAR_SEG = s.get DRC_STATUS_CLEAR_SEG ||| 2 ^ k ∧
        (k < 7 → ∀ x, k * s.usable / 7 ≤ x → x < (k + 1) * s.usable / 7 → t.dramByte x = 0) ∧ sameRegs [DRC_STATUS_STATE.addr] s t ∧
        (s.get DRC_STATUS_CLEAR_SEG ||| 2 ^ k = 0xFF → s.drc.want = none → t.get DRC_STATUS_STATE = 2 ∧
          t.events = s.events ++ [⟨0xC008, noSource, s.drc.clearing % 2 ^ 32, s.tick⟩])) ∧
    (∃ t, exec .drcClrCounts s = .next t ∧ t = { s with regs := t.regs } ∧ t.get DRC_CE_COUNT = 0 ∧ t.get DRC_UE_COUNT = 0 ∧
      sameRegs [DRC_CE_COUNT.addr, DRC_UE_COUNT.addr] s t)

/-- GO asks for a set point that is enabled and has not failed; the change begins at the end of a refresh stall and takes force with event 0xC005, after
training where the set point has none (R440). Training steps each channel's lanes: three steps, then the eye, three retries (R441, R442).
Each of these commands completes here, on conditions on the state and its operands alone: FSP_GO, FSP_CHANGE_BEGIN, FSP_CHANGE_DONE, DRAM_TRAIN_GO,
TRAIN_STEP_DONE, LANE_CHECK. -/
def Obligations.DramTraining : Prop :=
  ∀ s : State,
    (∀ k : Fin 4, s.bit (DRC_SP_EN k.val) = true → s.bit (DRC_SP_FAILED k.val) = false →
      ∃ t, exec (.fspGo k) s = .next t ∧ t = { s with regs := t.regs, drc := { s.drc with fspGo := some k.val, refreshed := false } } ∧
        sameRegs [DRC_STATUS_FSP_DEFERRED.addr] s t ∧ t.bit DRC_STATUS_FSP_DEFERRED = (s.drc.train.isSome || s.bit DRC_STATUS_FSP_DEFERRED)) ∧
    (∀ k : Fin 4, s.bit (DRC_SP_EN k.val) = false →
      ∃ t, exec (.fspGo k) s = .next t ∧ t = { s with regs := t.regs } ∧ sameRegs [DRC_STATUS_FSP_BAD.addr] s t ∧ t.bit DRC_STATUS_FSP_BAD = true) ∧
    (∀ k, s.drc.fspGo = some k → (s.bit DRC_CFG_IDLE_ONLY = true → s.allIdle = true) → s.drc.refreshed = true → s.drcServes = true →
      ∃ t, exec .fspChangeBegin s = .next t ∧ t = { s with now := t.now, regs := t.regs, drc := { s.drc with fspGo := none, fspNow := some k } } ∧
        t.now = max s.now s.drc.stallEnd ∧ t.get DRC_STATUS_STATE = 7 ∧ sameRegs [DRC_STATUS_STATE.addr] s t) ∧
    (∀ k, atEase s → k < 4 → s.drc.fspNow = some k → s.drc.train = none → s.drc.want = none → 
      (s.bit (DRC_SP_TRAINED k) = true → ∃ t, exec .fspChangeDone s = .next t ∧ t.get DRC_STATUS_SP = k ∧ t.get DRC_STATUS_STATE = 2 ∧
        t.drc = { s.drc with fspNow := none } ∧ t.mem = s.mem ∧ t.dram = s.dram ∧ t.sites = s.sites ∧ t.pins = s.pins ∧
        (⟨0xC005, noSource, k, s.tick⟩ : EventRec) ∈ t.events) ∧
      (s.bit (DRC_SP_TRAINED k) = false → ∃ t, exec .fspChangeDone s = .next t ∧ t.get DRC_STATUS_STATE = 1 ∧
        t = { s with regs := t.regs, drc := { s.drc with train := some ⟨[k], .change k, [], false⟩ } } ∧
        sameRegs [DRC_STATUS_STATE.addr, DRC_TRAIN_CMD_GO.addr] s t)) ∧
    (s.drc.train = none → s.get DRC_STATUS_STATE = 2 →
      ∃ t, exec .dramTrainGo s = .next t ∧ t = { s with regs := t.regs, drc := { s.drc with train := some ⟨[s.get DRC_STATUS_SP], .retrain, [], false⟩ } } ∧
        t.get DRC_STATUS_STATE = 1 ∧ t.bit DRC_TRAIN_CMD_GO = true ∧ sameRegs [DRC_STATUS_STATE.addr, DRC_TRAIN_CMD_GO.addr] s t) ∧
    (∀ (ch : Fin 16) (rdW rdH wrW wrH : Fin 65536) (t0 : Train) (sp : Nat) (rest : List Nat), atEase s → s.drc.train = some t0 → t0.sps = sp :: rest →
      ch.val < s.channels → s.drc.fspGo = none →
      let pos (t : State) : Option TrainPos := t.drc.train.map (fun r => Sparse.get (fun _ => ⟨0, 0, 0⟩) r.pos ch.val)
      ∀ q : TrainPos, pos s = some q → q.lane < 2 →
      (q.step < 3 →
        ∃ t, exec (.trainStepDone ch rdW rdH wrW wrH) s = .next t ∧ t = { s with drc := t.drc } ∧ pos t = some { q with step := q.step + 1 }) ∧
      (3 ≤ q.step → q.lane = 0 → s.eyeOk sp rdW.val rdH.val = true → s.eyeOk sp wrW.val wrH.val = true →
        ∃ t, exec (.trainStepDone ch rdW rdH wrW wrH) s = .next t ∧ t = { s with drc := t.drc } ∧ pos t = some ⟨1, 0, 0⟩ ∧
          t.eyeOf sp (2 * ch.val) = (word (rdW.val + 2 ^ 16 * rdH.val), word (wrW.val + 2 ^ 16 * wrH.val))) ∧
      (3 ≤ q.step → q.tries < 3 → (s.eyeOk sp rdW.val rdH.val && s.eyeOk sp wrW.val wrH.val) = false →
        ∃ t, exec (.trainStepDone ch rdW rdH wrW wrH) s = .next t ∧ t = { s with drc := t.drc } ∧ pos t = some ⟨q.lane, 0, q.tries + 1⟩)) ∧
    (∀ (l : Fin 32) (rdW rdH wrW wrH : Fin 65536), s.drcServes = true →
      ∃ t, exec (.laneCheck [(l, rdW, rdH, wrW, wrH)]) s = .next t ∧ t = { s with regs := t.regs, drc := t.drc, events := t.events } ∧
        t.get (DRC_EYE_RD_RD_W l.val) = rdW.val ∧ t.get (DRC_EYE_RD_RD_H l.val) = rdH.val ∧ t.get (DRC_EYE_WR_WR_W l.val) = wrW.val ∧
        t.get (DRC_EYE_WR_WR_H l.val) = wrH.val ∧ sameRegs [(DRC_EYE_RD_RD_W l.val).addr, (DRC_EYE_WR_WR_W l.val).addr] s t ∧
        t.events = s.events ++ (if s.eyeOk (s.get DRC_STATUS_SP) rdW.val rdH.val && s.eyeOk (s.get DRC_STATUS_SP) wrW.val wrH.val then []
          else [⟨0xC00B, noSource, l.val, s.tick⟩]))

/-- A channel serves the only request that waits for it; a stream request charges its site with 32 bytes, a capture write the capture reserve (R196, R434);
each microsecond renews the grants. A refresh comes at the next tick whose remainder is PHASE and stalls the DRAM (R437). The scrubber goes on by a
line (R431), and a hot DRAM doubles its refresh rate until four reads in a row find it cool (R438).
Each of these commands completes here, on conditions on the state and its operands alone: GRANT_INTERVAL, DRAM_PICK, DRAM_REFRESH, DRAM_SCRUB,
DRAM_TEMP_READ. -/
def Obligations.DramService : Prop :=
  ∀ s : State,
    (∃ t, exec .grantInterval s = .next t ∧ t = { s with now := t.now, sites := t.sites, drc := { s.drc with captured := 0 } } ∧
      t.now = max s.now (s.ofMer ((s.merAt s.now / us + 1) * us)) ∧
      ∀ i, i < 16 → t.site i = { s.site i with str := { (s.site i).str with granted := 0 } }) ∧
    (∀ (ch : Fin 16) (r : DrcReq), s.drcServes = true → s.drc.queue = [r] → s.drc.input = [] → r.chan = ch.val → r.bank < 32 →
      ∃ t, exec (.dramPick ch) s = .next t ∧ t = { s with now := t.now, sites := t.sites, drc := t.drc } ∧ t.now = max s.now s.drc.stallEnd ∧
        t.drc.queue = [] ∧ t.drc.input = [] ∧ Sparse.get (fun _ => 31) t.drc.last ch.val = r.bank ∧
        (r.kind = .stream → t.drc.captured = s.drc.captured ∧ (∀ i, i ≠ r.site → t.site i = s.site i) ∧
          t.site r.site = { s.site r.site with str := { (s.site r.site).str with granted := (s.site r.site).str.granted + 32 } }) ∧
        (r.kind ≠ .stream → t.sites = s.sites ∧ t.drc.captured = s.drc.captured + (if r.kind = .capture then 32 else 0))) ∧
    ((s.get DRC_STATUS_STATE = 2 ∨ s.get DRC_STATUS_STATE = 3 ∨ s.get DRC_STATUS_STATE = 5) →
      ∃ t k, exec .dramRefresh s = .next t ∧ t = { s with now := t.now, drc := { s.drc with stallEnd := t.now + s.refStall, refreshed := true } } ∧
        t.now = max s.now (s.ofMer (k * tickLsb)) ∧ k % s.refPeriodTicks = s.get DRC_REF_CFG_PHASE % s.refPeriodTicks ∧
        s.merAt s.now / tickLsb < k ∧ k ≤ s.merAt s.now / tickLsb + s.refPeriodTicks) ∧
    (s.bit DRC_CFG_SCRUB_EN = true → s.drcServes = true → s.usable ≠ 0 → s.dramUe = [] →
      ∃ t, exec (.dramScrub .ok) s = .next t ∧
        t = { s with drc := { s.drc with scrub := if 32 * s.drc.scrub + 32 < s.usable then s.drc.scrub + 1 else 0 } }) ∧
    (s.bit DRC_STATUS_REF_2X = false → ∃ t, exec (.dramTempRead [] []) s = .next t ∧ t = { s with drc := { s.drc with calm := s.drc.calm + 1 } }) ∧
    (s.bit DRC_STATUS_REF_2X = true → 3 ≤ s.drc.calm →
      ∃ t, exec (.dramTempRead [] []) s = .next t ∧ t.bit DRC_STATUS_REF_2X = false ∧ sameRegs [DRC_STATUS_REF_2X.addr] s t ∧
        t = { s with regs := t.regs, drc := { s.drc with calm := s.drc.calm + 1 }, events := s.events ++ [⟨0xC006, noSource, 0, s.tick⟩] }) ∧
    (∀ need : List (Fin 16), need ≠ [] →
      ∃ t, exec (.dramTempRead need []) s = .next t ∧ t.bit DRC_STATUS_REF_2X = true ∧ t.drc = { s.drc with calm := 0 } ∧
        (s.bit DRC_STATUS_REF_2X = false → (⟨0xC006, noSource, 1, s.tick⟩ : EventRec) ∈ t.events) ∧ t.mem = s.mem ∧ t.dram = s.dram)

/-! Supplies, temperature, pace and power domains (R12, R210, R546 to R558). -/

/-- Good samples leave the device as it is; four in a row below WARN begin Twilight with event 0xE001, ten below RESET reset the device with cause 2, and
10 µs of good supplies end Twilight with event 0xE002 (R551, R552). A sensor at 115 °C resets it with cause 3 (R556). A voltage read back must lie within
25 mV of the request, and an answer must come (R554). The pace of each running site is reported at the end of a window of 65,536 ticks, from what its
lanes were fed and drew in it (R12, R210), and the next window begins with nothing counted.
Each of these commands completes here, on conditions on the state and its operands alone: SUPPLY_SAMPLE, TWILIGHT_EXIT, TEMP_SAMPLE, AVS_READBACK,
AVS_RESPONSE_TIMEOUT, PACE_WINDOW_END. -/
def Obligations.SuppliesAndAvs : Prop :=
  ∀ s : State, s.heldReset = false →
    (∀ mv : Vector (BitVec 13) 9, (∀ i : Fin 9, mv[i].toNat ≤ supplyMax i.val) →
      ((∀ i : Fin 9, s.get (PWR_SUP_CFG_WARN i.val) ≤ mv[i].toNat ∧ s.get (PWR_SUP_CFG_RESET i.val) ≤ mv[i].toNat) →
        ∃ t, exec (.supplySample mv) s = .next t ∧ t = { s with regs := t.regs, pwr := t.pwr } ∧ t.get PWR_SUP_STAT_BELOW = 0 ∧
          t.pwr.twilight = s.pwr.twilight.map (fun w => { w with goodSince := some (w.goodSince.getD s.now) }) ∧
          (∀ i : Fin 9, t.get (PWR_SUP_MV i.val) = mv[i].toNat ∧ Sparse.get (fun _ => 0) t.pwr.belowWarn i.val = 0 ∧
            Sparse.get (fun _ => 0) t.pwr.belowReset i.val = 0) ∧
          sameRegs (PWR_SUP_STAT_BELOW.addr :: (List.range 9).map (fun i => (PWR_SUP_MV i).addr)) s t) ∧
      (∀ k : Fin 9, s.pwr.twilight = none → mv[k].toNat < s.get (PWR_SUP_CFG_WARN k.val) → 3 ≤ Sparse.get (fun _ => 0) s.pwr.belowWarn k.val →
        (∀ i : Fin 9, s.get (PWR_SUP_CFG_RESET i.val) ≤ mv[i].toNat) →
        ∃ t, exec (.supplySample mv) s = .next t ∧ t.bit PWR_STATUS_TWILIGHT = true ∧ t.pwr.twilight.isSome = true ∧
          t.get PWR_TWI_COUNT = min (s.get PWR_TWI_COUNT + 1) (2 ^ 32 - 1) ∧ t.events.any (fun e => decide (e.code = 0xE001)) = true) ∧
      (∀ k : Fin 9, mv[k].toNat < s.get (PWR_SUP_CFG_RESET k.val) → 9 ≤ Sparse.get (fun _ => 0) s.pwr.belowReset k.val →
        ∃ t, exec (.supplySample mv) s = .next t ∧ resetTo s t 2)) ∧
    (∀ (w : Twilight) (g : Nat), s.pwr.twilight = some w → w.goodSince = some g →
      ∃ t, exec .twilightExit s = .next t ∧ t.bit PWR_STATUS_TWILIGHT = false ∧ t.pwr = { s.pwr with twilight := none } ∧ t.now = max s.now (g + 10 * us) ∧
        t.events.any (fun e => decide (e.code = 0xE002)) = true ∧ sameRegsBut [PWR_STATUS_TWILIGHT.addr, PWR_TWI_TIME.addr] s t) ∧
    (∀ temp : Vector (BitVec 8) 9,
      ((∀ k : Fin 9, temp[k].toInt < s.get PWR_THERM_CFG_WARN ∧ temp[k].toInt < s.get PWR_THERM_CFG_HOT ∧ temp[k].toInt < 115) →
        (∀ k ∈ s.pwr.sampled, k < 9) →
        ∃ t, exec (.tempSample temp) s = .next t ∧ (∀ k : Fin 9, t.get (PWR_TEMP_NOW k.val) = temp[k].toNat) ∧
          t.bit PWR_STATUS_THERM_WARN = false ∧ t.bit PWR_STATUS_THERM_HOT = false ∧
          t.pins = s.pins ∧ t.sites = s.sites ∧ t.mem = s.mem ∧ t.dram = s.dram ∧ t.now = s.now) ∧
      (∀ k : Fin 9, 115 ≤ temp[k].toInt → (∀ i : Fin 9, temp[i].toInt ≤ 125) →
        ∃ t u, exec (.tempSample temp) s = .next t ∧ resetTo s u 3 ∧ t = { u with pwr := { u.pwr with tooHot := true } })) ∧
    (∀ (x : Nat) (l : List Nat) (mv : Fin 1024), s.pwr.avsWait = x :: l →
      (∃ t, exec (.avsReadback mv) s = .next t ∧ t.get PWR_AVS_STAT_READ = mv.val ∧ t.pwr = { s.pwr with avsWait := l } ∧ t.now = max s.now (x + ms) ∧
        t.bit PWR_STATUS_AVS_ERR = (s.bit PWR_STATUS_AVS_ERR || decide (25 < (mv.val - s.get PWR_AVS_STAT_REQ) + (s.get PWR_AVS_STAT_REQ - mv.val))) ∧
        sameRegs [PWR_AVS_STAT_READ.addr, PWR_STATUS_AVS_ERR.addr] s t) ∧
      (∀ read : Bool, ∃ t, exec (.avsResponseTimeout read) s = .next t ∧ t = { s with regs := t.regs, pwr := t.pwr, events := t.events } ∧
        t.bit PWR_STATUS_AVS_ERR = true ∧ t.pwr.avsWait = (if read then l else x :: l) ∧ sameRegs [PWR_STATUS_AVS_ERR.addr] s t ∧
        t.events = s.events ++ (if s.bit PWR_STATUS_AVS_ERR then [] else [⟨0xE030, noSource, s.get PWR_AVS_STAT_REQ, s.tick⟩]))) ∧
    (∀ busy : List (Fin 64 × Nat), s.bit PWR_AVS_CFG_EN = false →
      let lanes := s.lanes (busy.map (fun b => (b.1.val, b.2)))
      ∃ t, exec (.paceWindowEnd busy) s = .next t ∧ t.now = max s.now s.windowEnd ∧ t.pwr = { s.pwr with windows := s.pwr.windows + 1, fed := [], drawn := [] } ∧ t.get XE_RATE_LAST = min 65535 (s.xe.steps * 25 / 512) ∧ t.xe = { s.xe with steps := 0 } ∧
        t.pins = s.pins ∧ t.mem = s.mem ∧ t.out = s.out ∧ ∀ i : Fin 16,
          t.get (SITE_STR_RATE_LAST i.val) = min 65535 ((s.site i.val).str.windowBytes * 5 / 1024) ∧ (t.site i.val).str.windowBytes = 0 ∧
          (s.inBurst i.val = false → t.get (SITE_PACE_LAST i.val) = s.get (SITE_PACE_LAST i.val)) ∧
          ∀ x g, s.inBurst i.val = true → s.sitePace i.val lanes = some (x, g) →
            t.get (SITE_PACE_LAST i.val) = unsignedOf 16 x ∧ t.get (SITE_PACE_LANE i.val) = g % 64)

/-- A write to PWR_DOM_CTRL requests Off of an octant that is On, and On of one that is Off; Off takes effect once nothing holds the octant and releases its
pins, On leaves its pins at reset, their comparators at the plain comparison of the input with the reset thresholds (R101), each with event 0xE020; an octant without a heartbeat is in FAULT (R548, R549, R558).
Each of these commands completes here, on conditions on the state and its operands alone: DOMAIN_REQUEST, OCTANT_OFF_DONE, OCTANT_ON_DONE,
HEARTBEAT_TIMEOUT. -/
def Obligations.OctantPower : Prop :=
  ∀ s : State,
    (∀ (o : Origin) (v : Word), (∀ k, k < 8 → s.oct k = .on ∧ s.bit (PWR_DOM_CTRL_OCT k) = false) → fieldGet 8 1 v = s.get PWR_DOM_CTRL_HOST →
      fieldGet 9 1 v = s.get PWR_DOM_CTRL_LINK →
      ∃ t, exec (.domainRequest o v) s = .next t ∧ (∀ k : Fin 8, t.bit (PWR_DOM_CTRL_OCT k.val) = v.getLsbD k.val ∧
        t.oct k.val = (if v.getLsbD k.val then .pendingOff else .on) ∧ t.get (PWR_DOM_STATE_OCT k.val) = (if v.getLsbD k.val then 3 else s.get (PWR_DOM_STATE_OCT k.val)))) ∧
    (∀ (o : Origin) (v : Word), (∀ k, k < 8 → s.oct k = .off ∧ s.bit (PWR_DOM_CTRL_OCT k) = true) → fieldGet 8 1 v = s.get PWR_DOM_CTRL_HOST →
      fieldGet 9 1 v = s.get PWR_DOM_CTRL_LINK →
      ∃ t, exec (.domainRequest o v) s = .next t ∧ t.pins = s.pins ∧ (∀ k : Fin 8, t.oct k.val = (if v.getLsbD k.val then .off else .waking))) ∧
    (∀ k : Fin 8, s.oct k.val = .pendingOff → s.octHeld k.val = false →
      ∃ t, exec (.octantOffDone k) s = .next t ∧ t.oct k.val = .off ∧ t.get (PWR_DOM_STATE_OCT k.val) = 2 ∧ t.octOff k.val = true ∧
        (⟨0xE020, noSource, k.val + 1 + 2 ^ 8, s.tick⟩ : EventRec) ∈ t.events ∧ ∀ j, j < 64 → (t.pin (64 * k.val + j)).drv.enable = false ∧
          (.disconnect (64 * k.val + j)) ∈ t.out) ∧
    (∀ (k : Fin 8) (pins : List (Fin 64)) (volts : List Int), atEase s → s.oct k.val = .waking → s.octOffWanted k.val = false → s.canon = true →
      ∃ t, exec (.octantOnDone k pins volts) s = .next t ∧ t.oct k.val = .on ∧ t.get (PWR_DOM_STATE_OCT k.val) = 0 ∧
        t.events = s.events ++ [⟨0xE020, noSource, k.val + 1, s.tick⟩] ∧ ∀ j : Fin 64,
          let v := (((List.zip pins volts).find? (fun e => decide (e.1 = j))).map (fun e => e.2)).getD (s.pin (64 * k.val + j.val)).volt
          (t.pin (64 * k.val + j.val)).volt = v ∧ (t.pin (64 * k.val + j.val)).lowFlag = decide (overCode v 0x0CCD < 0) ∧
          (t.pin (64 * k.val + j.val)).highFlag = decide (0 < overCode v 0x0CCD) ∧
          ∀ x, x < 0x1000 → t.reg (0x8002000 + (64 * k.val + j.val) * 0x10000 + x) = resetWord (0x8002000 + (64 * k.val + j.val) * 0x10000 + x)) ∧
    (∀ k : Fin 8, s.octOff k.val = false →
      ∃ t, exec (.heartbeatTimeout k) s = .next t ∧ t.oct k.val = .fault ∧ t.get (PWR_DOM_STATE_OCT k.val) = 1 ∧
        t.events.any (fun e => decide (e.code = 0xE033)) = true ∧ t.events.any (fun e => decide (e.code = 0xE020 ∧ e.data = k.val + 1 + 2 ^ 9)) = true)

/-- STANDBY waits for every site, asks the domains and enters STANDBY with event 0xE021; WAKE brings them back, and READY comes with event 0xE022 (R547).
Each of these commands completes here, on conditions on the state and its operands alone: STANDBY, STANDBY_ENTER, WAKE, STANDBY_EXIT. -/
def Obligations.StandbyModes : Prop :=
  ∀ s : State,
    (s.get PWR_STATUS_DEV_STATE = 2 → s.pwr.standby = .none → s.allQuiet = false →
      exec .standby s = .next { s with pwr := { s.pwr with standby := .waitSites } }) ∧
    (s.get PWR_STATUS_DEV_STATE = 2 → s.pwr.standby = .none → s.allQuiet = true →
      ∃ t, exec .standby s = .next t ∧ t.pwr.standby = .waitDomains ∧
        ∀ k, k < 8 → s.oct k = .on → t.oct k = if bitOf (s.get PWR_STBY_CFG_OCT_OFF) k then .pendingOff else .on) ∧
    (s.get PWR_STATUS_DEV_STATE ≠ 2 → s.get PWR_STATUS_DEV_STATE ≠ 3 →
      ∃ t, exec .standby s = .next t ∧ t = { s with regs := t.regs } ∧ t.bit PWR_STATUS_STBY_BUSY = true ∧ sameRegs [PWR_STATUS_STBY_BUSY.addr] s t) ∧
    (s.pwr.standby = .waitDomains → s.standbyReady = true →
      ∃ t, exec .standbyEnter s = .next t ∧ t.pwr = { s.pwr with standby := .entered } ∧ t.get PWR_STATUS_DEV_STATE = 4 ∧
        t = { s with regs := t.regs, pwr := t.pwr, events := s.events ++ [⟨0xE021, noSource, 0, s.tick⟩] } ∧ sameRegs [PWR_STATUS_DEV_STATE.addr] s t) ∧
    (s.pwr.standby = .entered →
      ∃ t, exec .wake s = .next t ∧ t.pwr.standby = .waking ∧
        (∀ k, k < 8 → s.oct k = .off → t.oct k = if s.bit (PWR_DOM_CTRL_OCT k) then .off else .waking) ∧
        ∀ b, b < 64 → (s.bank b).power = .retain → s.get (MEM_BANK_CTRL_REQ_B (b / 16) (b % 16)) = 0 → (t.bank b).power = .waking) ∧
    (s.pwr.standby = .waking → s.woken = true → s.allIdle = true →
      ∃ t, exec .standbyExit s = .next t ∧ t.pwr = { s.pwr with standby := .none } ∧ t.get PWR_STATUS_DEV_STATE = 2 ∧
        t.events = s.events ++ [⟨0xE022, noSource, 0, s.tick⟩] ∧ t.mem = s.mem ∧ sameRegs [PWR_STATUS_DEV_STATE.addr] s t)

/-! The timebase: reference inputs, epochs, FSYNC inputs and grids (R31 to R60). -/

/-- An input that misses edges is lost with event 0x1001, and the loss of the input in use begins holdover with event 0x1004 (R32, R34). An input in its window
for 10 ms qualifies with event 0x1002 (R33). Holdover is left onto an allowed qualified input with event 0x1005 (R34). TB_REF_CFG takes effect at once, or
after a TIMING step in progress (R38).
Each of these commands completes here, on conditions on the state and its operands alone: REF_MISSING_EDGE, FREQ_WINDOW_CHECK, REF_QUALIFY_TIMER,
HOLDOVER_SWITCH, REF_CFG_WRITE, REF_CFG_DEFERRED_APPLY. -/
def Obligations.ReferenceInputs : Prop :=
  ∀ s : State,
    (∀ n : Fin 2, s.refOk n.val = true → ¬ (s.onRef = true ∧ s.active = n.val) →
      ∃ t, exec (.refMissingEdge n) s = .next t ∧ t = { s with regs := t.regs, tb := t.tb, events := s.events ++ [⟨0x1001, n.val, n.val, s.tick⟩] } ∧
        t.refIn n.val = { s.refIn n.val with qualified := false, okSince := none } ∧ t.bit (if n.val = 0 then TB_REF_STATUS_A_OK else TB_REF_STATUS_B_OK) = false ∧
        t.bit (if n.val = 0 then TB_REF_STATUS_A_LOST else TB_REF_STATUS_B_LOST) = true ∧ sameRegs [TB_REF_STATUS_A_OK.addr] s t) ∧
    (∀ n : Fin 2, s.onRef = true → s.active = n.val →
      ∃ t, exec (.refMissingEdge n) s = .next t ∧ t.bit TB_REF_STATUS_HOLDOVER = true ∧ t.tb.holdover = some s.now ∧ t.refOk n.val = false ∧
        (⟨0x1001, n.val, n.val, s.tick⟩ : EventRec) ∈ t.events ∧ (⟨0x1004, noSource, n.val, s.tick⟩ : EventRec) ∈ t.events ∧
        sameRegs [TB_REF_STATUS_HOLDOVER.addr] s t) ∧
    (∀ a b : Int, s.refOk 0 = true → s.refOk 1 = true → a.natAbs ≤ 1000000 → b.natAbs ≤ 1000000 →
      ∃ t, exec (.freqWindowCheck (some a) (some b)) s = .next t ∧ t.refOk 0 = true ∧ t.refOk 1 = true ∧ t.tb.refA.lastPpb = some a ∧ t.tb.refB.lastPpb = some b ∧
        t.bit TB_REF_STATUS_DISAGREE = decide (20000 < (a - b).natAbs) ∧ sameRegs [TB_REF_STATUS_A_OK.addr] s t ∧
        (20000 < (a - b).natAbs → s.bit TB_REF_STATUS_DISAGREE = false → t.events = s.events ++ [⟨0x1007, noSource, (a - b).natAbs / 1000, s.tick⟩])) ∧
    (∀ (n : Fin 2) (x : Nat), (s.refIn n.val).okSince = some x → s.refOk n.val = false → s.bit TB_REF_STATUS_HOLDOVER = false → s.bit TB_REF_CFG_REVERT = false →
      ∃ t, exec (.refQualifyTimer n) s = .next t ∧ t.refOk n.val = true ∧ t.bit (if n.val = 0 then TB_REF_STATUS_A_OK else TB_REF_STATUS_B_OK) = true ∧
        t.now = max s.now (x + 10 * ms) ∧ (⟨0x1002, n.val, n.val, t.tick⟩ : EventRec) ∈ t.events ∧ sameRegs [TB_REF_STATUS_A_OK.addr] s t) ∧
    (∀ x n : Nat, s.tb.holdover = some x → s.refChoice = some n →
      ∃ t, exec .holdoverSwitch s = .next t ∧ t.bit TB_REF_STATUS_HOLDOVER = false ∧ t.tb.holdover = none ∧ t.get TB_REF_STATUS_ACTIVE = n ∧
        t.now = max s.now (x + us) ∧ t.events.any (fun e => decide (e.code = 0x1005)) = true ∧ sameRegs [TB_REF_STATUS_HOLDOVER.addr] s t ∧
        (n ≠ s.active → t.bit TB_REF_STATUS_SWITCHED = true ∧ (⟨0x1003, noSource, n, t.tick⟩ : EventRec) ∈ t.events)) ∧
    (∀ (o : Origin) (v : Word), s.timingStep = true → s.refCfgChanges o v = true →
      ∃ t, exec (.refCfgWrite o v) s = .next t ∧ t = { s with regs := t.regs, tb := { s.tb with deferred := some (o, v) }, cal := t.cal } ∧
        t.bit TB_REF_STATUS_DEFERRED = true ∧ sameRegs [TB_REF_STATUS_DEFERRED.addr] s t) ∧
    (∀ (o : Origin) (v : Word), s.timingStep = false → s.lockOf o 0x50000 = 0 → s.onRef = false →
      ∃ t, exec (.refCfgWrite o v) s = .next t ∧ t.get TB_REF_CFG_FREQ_A = fieldGet 0 2 v ∧ t.get TB_REF_CFG_FREQ_B = fieldGet 2 2 v ∧
        t.get TB_REF_CFG_SELECT = fieldGet 4 2 v ∧ t.get TB_REF_CFG_REVERT = fieldGet 6 1 v ∧
        (fieldGet 0 6 v ≠ fieldGet 0 6 (s.reg 0x50000) → t.refOk 0 = false ∧ t.refOk 1 = false) ∧
        sameRegsBut [TB_REF_CFG_FREQ_A.addr, TB_REF_STATUS_A_OK.addr] s t) ∧
    (∀ (o : Origin) (v : Word), s.tb.deferred = some (o, v) → s.timingStep = false → s.lockOf o 0x50000 = 0 → s.onRef = false →
      ∃ t, exec .refCfgDeferredApply s = .next t ∧ t.tb.deferred = none ∧ t.get TB_REF_CFG_FREQ_A = fieldGet 0 2 v ∧ t.get TB_REF_CFG_FREQ_B = fieldGet 2 2 v ∧
        t.get TB_REF_CFG_SELECT = fieldGet 4 2 v ∧ t.get TB_REF_CFG_REVERT = fieldGet 6 1 v)

/-- A pulse or a soft epoch is pended at its reference edge; the epoch that acts first gives Meridian time its zero if one is to be established and every
site is IDLE, else it is a marker whose deviation from TB_EPOCH_NEXT is reported; without a marker in time event 0x1012 follows (R39 to R43). A read of
TB_MERIDIAN_LO returns the tick and latches its upper words (R4, R39).
Each of these commands completes here, on conditions on the state and its operands alone: ARM_ESTABLISH, SOFT_EPOCH, EPOCH_IN_QUALIFY,
EPOCH_IN_GLITCH, EPOCH_ACT, EPOCH_NEXT_WRITE, EPOCH_TIMEOUT, MERIDIAN_LO_READ. -/
def Obligations.Epochs : Prop :=
  ∀ s : State,
    (∃ t, exec .armEstablish s = .next t ∧ t = { s with regs := t.regs } ∧ t.bit TB_EPOCH_CMD_ARM_ESTABLISH = true ∧ sameRegs [TB_EPOCH_CMD_ARM_ESTABLISH.addr] s t) ∧
    (s.get TB_EPOCH_CFG_SOURCE = 0 → s.tb.zero.isSome = true → exec .softEpoch s = .next { s with tb := { s.tb with
      epochs := s.tb.epochs ++ [⟨.soft, s.refEdge (s.now + 1), s.refEdge (s.now + 1), false, false, 0, none⟩] } }) ∧
    (s.get TB_EPOCH_CFG_SOURCE = 1 → s.tb.zero.isSome = true → (s.bit IAT_STATUS_ROOT && s.bit IAT_CFG_ROOT_SRC) = false → exec .epochInQualify s = .next { s with now := max s.now (s.refEdge s.now), tb := { s.tb with
      epochs := s.tb.epochs ++ [⟨.input, (((s.refEdge s.now - 2 * s.refPeriod : Nat) : Int) + signedOf 32 (s.get TB_EPOCH_OFFSET)).toNat, s.refEdge s.now,
        false, false, 0, none⟩] } }) ∧
    (s.tb.zero.isSome = true → ∃ t, exec .epochInGlitch s = .next t ∧ t = { s with regs := t.regs } ∧ t.bit TB_EPOCH_STATUS_GLITCH = true ∧
      sameRegs [TB_EPOCH_STATUS_GLITCH.addr] s t) ∧
    (∀ e : EpochPend, s.tb.epochs = [e] → e.commit = false → e.next = none →
      ((e.establish = true ∨ s.bit TB_EPOCH_CMD_ARM_ESTABLISH = true) → s.allIdle = true →
        ∃ t, exec .epochAct s = .next t ∧ t.tb = { s.tb with zero := some e.instant, timedOut := none, epochs := [] } ∧
          t.now = max s.now (max e.instant e.qualify) ∧ t.bit TB_EPOCH_STATUS_ESTABLISHED = true ∧ t.bit TB_EPOCH_CMD_ARM_ESTABLISH = false ∧
          t.events.any (fun r => decide (r.code = 0x1010 ∧ r.data = e.source.code)) = true ∧
          sameRegs [TB_EPOCH_CMD_ARM_ESTABLISH.addr, TB_EPOCH_STATUS_ESTABLISHED.addr] s t) ∧
      (e.establish = false → s.bit TB_EPOCH_CMD_ARM_ESTABLISH = false → s.tb.timedOut = none →
        let dev := clampInt (-(2 ^ 31)) (2 ^ 31 - 1) ((s.merAt e.instant : Int) - ((s.epochNext * tickLsb : Nat) : Int))
        ∃ t, exec .epochAct s = .next t ∧ t.tb.zero = s.tb.zero ∧ t.tb.epochs = [] ∧ t.get TB_EPOCH_DEV = unsignedOf 32 dev ∧
          t.now = max s.now (max e.instant e.qualify) ∧
          t.bit TB_EPOCH_STATUS_MISMATCH = (s.bit TB_EPOCH_STATUS_MISMATCH || decide (s.get TB_EPOCH_CFG_TOL * tickLsb < dev.natAbs)) ∧
          (s.bit TB_EPOCH_STATUS_NEXT_ARMED = true → s.get TB_EPOCH_INTERVAL ≠ 0 →
            t.epochNext = (s.epochNext + s.get TB_EPOCH_INTERVAL) % 2 ^ 64 ∧ t.bit TB_EPOCH_STATUS_NEXT_ARMED = true) ∧
          (s.get TB_EPOCH_INTERVAL = 0 → t.epochNext = s.epochNext ∧ t.bit TB_EPOCH_STATUS_NEXT_ARMED = false) ∧
          sameRegsBut [TB_EPOCH_DEV.addr, TB_EPOCH_STATUS_MISMATCH.addr, TB_EPOCH_NEXT_LO_NEXT.addr, TB_EPOCH_NEXT_HI_NEXT.addr] s t)) ∧
    (∀ (o : Origin) (v : DWord), ∃ t, exec (.epochNextWrite o v) s = .next t ∧ t.epochNext = v.toNat ∧ t.bit TB_EPOCH_STATUS_NEXT_ARMED = true ∧
      t.tb = { s.tb with timedOut := none } ∧ t.iat = { s.iat with nextWritten := true } ∧
      sameRegsBut [TB_EPOCH_STATUS_NEXT_ARMED.addr, TB_EPOCH_NEXT_LO_NEXT.addr, TB_EPOCH_NEXT_HI_NEXT.addr] s t) ∧
    (s.bit TB_EPOCH_STATUS_NEXT_ARMED = true → s.tb.zero.isSome = true → (∀ i, i < 16 → s.inSync i (max s.now s.epochLimit) = false) →
      ∃ t, exec .epochTimeout s = .next t ∧ t.bit TB_EPOCH_STATUS_TIMEOUT = true ∧ t.now = max s.now s.epochLimit ∧
        (⟨0x1012, noSource, 0, t.tick⟩ : EventRec) ∈ t.events ∧
        (s.get TB_EPOCH_INTERVAL = 0 → t.bit TB_EPOCH_STATUS_NEXT_ARMED = false ∧ t.tb = { s.tb with timedOut := none }) ∧
        (s.get TB_EPOCH_INTERVAL ≠ 0 → t.epochNext = (s.epochNext + s.get TB_EPOCH_INTERVAL) % 2 ^ 64 ∧ t.tb = { s.tb with timedOut := some (s.epochNext, s.epochNext + s.get TB_EPOCH_INTERVAL / 2) }) ∧
        sameRegsBut [TB_EPOCH_STATUS_TIMEOUT.addr, TB_EPOCH_NEXT_LO_NEXT.addr, TB_EPOCH_NEXT_HI_NEXT.addr] s t) ∧
    (∀ o : Origin, ∃ t, exec (.meridianLoRead o) s = .next t ∧ t = { s with latches := t.latches, out := s.out ++ [.read o 0x50010 (word s.tick)] } ∧
      t.latched o 0x50014 = some (word (s.tick / 2 ^ 32)) ∧ t.latched o 0x50018 = some (word (s.merAt s.now % tickLsb)))

/-- An accepted FSYNC edge releases the sites whose WAITF waits for its input; one that nothing uses sets STRAY with event 0x1022; an input that is not
enabled has no effect (R50, R52). A pad region at its upper limit starts the frame late, with event 0x1021 (R51). A grid register changes only while its
site is IDLE, else GRID_BUSY is set (R55, R606).
Each of these commands completes here, on conditions on the state and its operands alone: FSYNC_EDGE, FSYNC_LATE, GRID_WRITE. -/
def Obligations.FsyncAndGrids : Prop :=
  ∀ s : State,
    (∀ (n : Fin 4) (rising : Bool), s.tb.zero.isSome = true → s.tb.fsync.getD n.val false = !rising →
      (s.bit (TB_FSYNC_CFG_ENABLE n.val) = false ∨ s.bit (TB_FSYNC_CFG_EDGE n.val) = rising →
        exec (.fsyncEdge n rising) s = .next { s with tb := { s.tb with fsync := s.tb.fsync.set n.val rising } }) ∧
      (s.bit (TB_FSYNC_CFG_ENABLE n.val) = true → s.bit (TB_FSYNC_CFG_EDGE n.val) = !rising → nobodyWaits s →
        (∀ i, i < 16 → (s.site i).lane = [] ∧ (s.site i).burst.padClosed = none ∧ (s.site i).spec.decisions = []) →
        ∃ t, exec (.fsyncEdge n rising) s = .next t ∧ t.tb.fsync = s.tb.fsync.set n.val rising ∧ t.bit (TB_FSYNC_STATUS_STRAY n.val) = true ∧
          t.events.map (fun e => (e.code, e.source)) = s.events.map (fun e => (e.code, e.source)) ++ [(0x1022, n.val)] ∧
          t.sites = s.sites ∧ sameRegs [(TB_FSYNC_STATUS_STRAY n.val).addr] s t) ∧
      (∀ (i : Fin 16) (t0 : Nat) (rest : List LaneItem), s.bit (TB_FSYNC_CFG_ENABLE n.val) = true → s.bit (TB_FSYNC_CFG_EDGE n.val) = !rising → nobodyWaits s →
        s.inBurst i.val = true → (s.site i.val).lane = .waitf n.val (some t0) none :: rest →
        t0 + s.get (TB_FSYNC_CFG_FILTER n.val) * tickLsb ≤ s.tickFloor s.now →
        ∃ t, exec (.fsyncEdge n rising) s = .next t ∧ t.regs = s.regs ∧ t.events = s.events ∧ (t.site i.val).lane = .waitf n.val (some t0)
          (some (s.tickFloor s.now - s.get (TB_FSYNC_CFG_FILTER n.val) * tickLsb + s.get (TB_FSYNC_CFG_OFFSET n.val) * tickLsb)) :: rest)) ∧
    (∀ (i : Fin 16) (inp : Fin 4) (n k t0 : Nat) (v : Vec) (rest : List LaneItem), (s.site i.val).lane = .frame inp.val n v k (some t0) none :: rest →
      s.inBurst i.val = true → n + 255 ≤ k → k - n < 2 ^ 15 →
      ∃ t, exec (.fsyncLate i) s = .next t ∧ (t.site i.val).lane = rest ∧ t.bit (TB_FSYNC_STATUS_LATE inp.val) = true ∧
        t.get (TB_FSYNC_DELTA_APPLIED inp.val) = k - n ∧ t.events = s.events ++ [⟨0x1021, inp.val, 0, s.tick⟩] ∧
        (t.site i.val).burst.padClosed = some (inp.val, t0, (s.site i.val).burst.cycleEnd) ∧ (∀ j, j ≠ i.val → t.site j = s.site j) ∧
        sameRegs [(TB_FSYNC_STATUS_LATE inp.val).addr, (TB_FSYNC_DELTA_APPLIED inp.val).addr] s t) ∧
    (∀ (o : Origin) (i : Fin 16) (v : Word),
      (s.idle i.val = true → s.lockOf o (TB_GRID_ANCHOR i.val).addr = 0 →
        ∃ t, exec (.gridWrite o (0x80 + 4 * i.val) v) s = .next t ∧ t.reg (TB_GRID_ANCHOR i.val).addr = v ∧ sameRest s t ∧
          sameRegsBut [(TB_GRID_ANCHOR i.val).addr] s t) ∧
      (s.idle i.val = false →
        ∃ t, exec (.gridWrite o (0x80 + 4 * i.val) v) s = .next t ∧ sameRest s t ∧ sameRegsBut [TB_EPOCH_STATUS_GRID_BUSY.addr] s t ∧
          (s.wouldStore o (TB_GRID_ANCHOR i.val).addr v ≠ s.reg (TB_GRID_ANCHOR i.val).addr → t.bit TB_EPOCH_STATUS_GRID_BUSY = true))) ∧
    (∀ (o : Origin) (v : Word), s.lockOf o 0x50070 = 0 →
      ∃ t, exec (.gridWrite o 0x70 v) s = .next t ∧ sameRest s t ∧ sameRegsBut [(TB_GRID_MODE_COHERENT_S 0).addr, TB_EPOCH_STATUS_GRID_BUSY.addr] s t ∧
        ∀ k : Fin 16, t.get (TB_GRID_MODE_COHERENT_S k.val) = if s.idle k.val then fieldGet k.val 1 v else s.get (TB_GRID_MODE_COHERENT_S k.val))

/-! Pins: their registers with a behaviour of their own, protection and levels (R82, R84, R86, R102 to R114). -/

/-- A write to a PIN block that a calibration step holds is stored with the step (R382). PIN_IDLE acts at once on an idle pin (R82, R83); the clock registers change only while the pin's site is IDLE (R84); a waveset or timeset word changes
at any time and leaves the vectors of a running burst that use it undefined on the pin (R86); PIN_CLAMP of any pin sets its group's clamps (R102); a
tripped pin is re-armed while its site is IDLE (R106).
Each of these commands completes here, on conditions on the state and its operands alone: PIN_IDLE_WRITE, CLOCK_CFG_WRITE, TIMING_TABLE_WRITE,
CLAMP_WRITE, TRIP_REARM. -/
def Obligations.PinRegisters : Prop :=
  ∀ (s : State) (o : Origin) (p : Fin 512) (v : Word),
    (∀ x ∈ [(Instr.pinIdleWrite o p v, 0, v), (.clockCfgWrite o p false v, 4, v), (.clockCfgWrite o p true v, 8, v), (.levelApplyCmd o p v, 0x200C, v),
        (.clampWrite o p v, 0x2004, v), (.tripRearm o p, 0x2014, 1)],
      ∀ c, s.cal.steps.find? (stepHolds p.val x.2.1) = some c → exec x.1 s = .next { s with cal := { s.cal with steps := s.cal.steps.map (fun y =>
        if y.pin = c.pin then { y with held := y.held ++ [⟨o, false, p.val, x.2.1, x.2.2⟩] } else y) } }) ∧
    (fieldGet 0 3 v < 4 → s.inStep p.val = false →
      ((s.pin p.val).idle = true → s.disconnected p.val = false → (s.pin p.val).cluster = none →
        let d := idleDrive (fieldGet 0 3 v) (s.pin p.val).drv
        ∃ t, exec (.pinIdleWrite o p v) s = .next t ∧ t.get (PIN_IDLE_DRIVE p.val) = fieldGet 0 3 v ∧ (t.pin p.val).drv = d ∧ (t.pin p.val).idle = true ∧
          (∀ q, q ≠ p.val → t.pin q = s.pin q) ∧ sameRegsBut [(PIN_IDLE_DRIVE p.val).addr, (PIN_FESTAT_SWING p.val).addr] s t ∧
          t.out = s.out ++ (if d = (s.pin p.val).drv then [] else
            [.drive p.val (match (s.pin p.val).lastDriven with | none => s.now | some l => max s.now (l + 600)) d])) ∧
      ((s.pin p.val).idle = false →
        ∃ t, exec (.pinIdleWrite o p v) s = .next t ∧ t.get (PIN_IDLE_DRIVE p.val) = fieldGet 0 3 v ∧ sameRest s t ∧
          sameRegsBut [(PIN_IDLE_DRIVE p.val).addr] s t)) ∧
    (s.inStep p.val = false → s.pinFree p.val = true →
      (∃ t, exec (.clockCfgWrite o p false v) s = .next t ∧ sameRest s t ∧ t.get (PIN_CLK_CFG_ENABLE p.val) = fieldGet 0 1 v ∧
        t.get (PIN_CLK_CFG_MUL p.val) = fieldGet 4 4 v ∧ t.get (PIN_CLK_CFG_DIV p.val) = fieldGet 8 4 v ∧ sameRegsBut [(PIN_CLK_CFG_MUL p.val).addr] s t) ∧
      (∃ t, exec (.clockCfgWrite o p true v) s = .next t ∧ sameRest s t ∧ t.reg (PIN_CLK_PHASE p.val).addr = v ∧
        sameRegsBut [(PIN_CLK_PHASE p.val).addr] s t)) ∧
    (∀ phase : Bool, s.inStep p.val = false → s.pinFree p.val = false →
      ∃ t, exec (.clockCfgWrite o p phase v) s = .next t ∧ sameRest s t ∧ sameRegsBut [(PIN_TSTAT_CLK_BUSY p.val).addr] s t ∧
        (phase = true → v ≠ s.reg (PIN_CLK_PHASE p.val).addr → t.bit (PIN_TSTAT_CLK_BUSY p.val) = true)) ∧
    (∀ (i : Fin 4) (j : Fin 16), s.inStep p.val = false →
      ∃ t, exec (.timingTableWrite o p (0x400 + 64 * i.val + 4 * j.val) v) s = .next t ∧ t.get (PIN_WS_ENTRY p.val i.val j.val) = fieldGet 0 21 v ∧
        t.out = s.out ∧ sameSites s t ∧ (∀ q, q ≠ p.val → t.pin q = s.pin q) ∧ sameRegsBut [(PIN_WS_ENTRY p.val i.val j.val).addr] s t ∧
        ((s.pinOwner p.val).all (fun k => !s.inBurst k) = true → t.pin p.val = s.pin p.val)) ∧
    (∀ (i : Fin 64) (j : Fin 8), s.inStep p.val = false →
      ∃ t, exec (.timingTableWrite o p (0x1000 + 64 * i.val + 4 * j.val) v) s = .next t ∧ t.get (PIN_TS_E_TIME p.val i.val j.val) = v.toNat ∧
        t.out = s.out ∧ sameSites s t ∧ (∀ q, q ≠ p.val → t.pin q = s.pin q) ∧ sameRegsBut [(PIN_TS_E_TIME p.val i.val j.val).addr] s t ∧
        ∀ k x, s.pinOwner p.val = some k → s.inBurst k = true → x ∈ (s.site k).spec.window → x.vec.ts = i.val →
          ∀ y ∈ (s.site k).spec.window, y.vec.id ∈ (t.pin p.val).undefVecs) ∧
    ((∀ c ∈ s.cal.steps, c.pin / 8 ≠ p.val / 8) → ∃ t, exec (.clampWrite o p v) s = .next t ∧ t.get (PIN_CLAMP_EN (p.val / 8 * 8)) = fieldGet 31 1 v ∧ t.get (PIN_CLAMP_CLL (p.val / 8 * 8)) = fieldGet 0 14 v ∧
      t.get (PIN_CLAMP_CLH (p.val / 8 * 8)) = fieldGet 16 14 v ∧ t.pin (p.val / 8 * 8) = { s.pin (p.val / 8 * 8) with
        clampAt := (s.pin (p.val / 8 * 8)).clampAt ++ [(s.now, t.reg (PIN_CLAMP_EN (p.val / 8 * 8)).addr)] } ∧
      (∀ q, q ≠ p.val / 8 * 8 → t.pin q = s.pin q) ∧ t.out = s.out ∧ sameSites s t ∧ sameRegsBut [(PIN_CLAMP_EN (p.val / 8 * 8)).addr] s t) ∧
    (s.inStep p.val = false → s.bit (PIN_FESTAT_TRIP p.val) = true → (s.pin p.val).cluster = none →
      (s.pinFree p.val = true →
        ∃ t, exec (.tripRearm o p) s = .next t ∧ t.bit (PIN_FESTAT_TRIP p.val) = false ∧ t.pin p.val = { s.pin p.val with rearm := some s.now } ∧
          (∀ q, q ≠ p.val → t.pin q = s.pin q) ∧ t.out = s.out ∧ sameRegsBut [(PIN_FESTAT_TRIP p.val).addr] s t) ∧
      (s.pinFree p.val = false →
        ∃ t, exec (.tripRearm o p) s = .next t ∧ t.bit (PIN_FESTAT_TRIP p.val) = true ∧ t.bit (PIN_FESTAT_REARM_BUSY p.val) = true ∧ sameRest s t ∧
          sameRegsBut [(PIN_FESTAT_TRIP p.val).addr] s t))

/-- PIN_LVL_CMD enters a level set into the pin's queue of eight, or in place of the tail of a full one, with COALESCED (R108, R110). At a sample instant
each pin trips on what its detectors found of the voltage and current given (R104, R105) and steps its levels; an entry made 20 ticks earlier, without a slew limit, takes force at once
(R109, R112). In Twilight a DAC that deviates by more than 8 mV sets EXCURSION with event 0xE043 (R114).
Each of these commands completes here, on conditions on the state and its operands alone: LEVEL_APPLY_CMD, LEVEL_SAMPLE, TWILIGHT_LEVEL_CHECK. -/
def Obligations.LevelsAndTrips : Prop :=
  ∀ s : State,
    (∀ (o : Origin) (p : Fin 512) (v : Word),
      (fieldGet 8 1 v = 0 → s.inStep p.val = false → exec (.levelApplyCmd o p v) s = .next s) ∧
      (fieldGet 8 1 v = 1 → s.inStep p.val = false → (s.pin p.val).lvl.queue.length < 8 →
        ∃ t, exec (.levelApplyCmd o p v) s = .next t ∧ t = { s with regs := t.regs, pins := t.pins } ∧ t.pin p.val = { s.pin p.val with lvl := { (s.pin p.val).lvl with
          queue := (s.pin p.val).lvl.queue ++ [⟨fieldGet 0 3 v, s.setCodes p.val (fieldGet 0 3 v), s.now, true⟩] } } ∧ (∀ q, q ≠ p.val → t.pin q = s.pin q) ∧
          t.get (PIN_LVL_STAT_DEPTH p.val) = (s.pin p.val).lvl.queue.length + 1 ∧ sameRegs [(PIN_LVL_STAT_DEPTH p.val).addr] s t) ∧
      (fieldGet 8 1 v = 1 → s.inStep p.val = false → (s.pin p.val).lvl.queue.length = 8 →
        ∃ t, exec (.levelApplyCmd o p v) s = .next t ∧ t = { s with regs := t.regs, pins := t.pins, events := t.events } ∧ (t.pin p.val).lvl.queue =
          (s.pin p.val).lvl.queue.dropLast ++ [⟨fieldGet 0 3 v, s.setCodes p.val (fieldGet 0 3 v), s.now, true⟩] ∧ (∀ q, q ≠ p.val → t.pin q = s.pin q) ∧
          t.bit (PIN_LVL_STAT_COALESCED p.val) = true ∧ sameRegs [(PIN_LVL_STAT_COALESCED p.val).addr] s t)) ∧
    (∀ (volts : List (Fin 512 × Int)) (amps : List (Fin 512 × Nat)), s.tb.zero.isSome = true →
      ∃ t, exec (.levelSample volts amps) s = .next t ∧ t.now = max s.now s.sampleInstant ∧ t.tb = { s.tb with lastSample := some s.sampleInstant } ∧ t.mem = s.mem ∧
        (∀ (p : Fin 512) (b : Bool), s.octOff (p.val / 64) = false → (s.pin p.val).tripDue = .ov b →
          t.bit (PIN_FESTAT_TRIP p.val) = true ∧ t.bit (PIN_FESTAT_OV p.val) = true ∧ (t.pin p.val).tripDue = .none ∧ .disconnect p.val ∈ t.out ∧
          t.events.any (fun e => decide (e.code = 0xE040 ∧ e.source = p.val ∧ e.data = ofBool b)) = true) ∧
        (∀ p : Fin 512, (s.pin p.val).tripDue = .none → (s.pin p.val).rearm = none → s.disconnected p.val = false →
          (t.pin p.val).ovCount = (if (volts.find? (fun e => decide (e.1 = p))).any (fun e => overVolt e.2) then min ((s.pin p.val).ovCount + 1) 256 else 0) ∧
          (t.pin p.val).ocCount = (if (amps.find? (fun e => decide (e.1 = p))).any (fun e => s.overCurrent p.val e.2) then min ((s.pin p.val).ocCount + 1) 256 else 0)) ∧
        ∀ (p : Fin 512) (e : LevelEntry) (a b c d f : Fin 16384), s.octOff (p.val / 64) = false → (s.pin p.val).lvl.queue = [e] → (s.pin p.val).lvl.busy = false →
          e.made + 20 * tickLsb ≤ s.sampleInstant → fieldGet 20 1 (s.lvlCfgAt p.val s.sampleInstant) = 0 → e.codes = [a.val, b.val, c.val, d.val, f.val] → e.set < 8 →
          t.get (PIN_LVL_OUT0_VIH p.val) = a.val ∧ t.get (PIN_LVL_OUT0_VIL p.val) = b.val ∧ t.get (PIN_LVL_OUT1_VOH p.val) = c.val ∧
          t.get (PIN_LVL_OUT1_VOL p.val) = d.val ∧ t.get (PIN_LVL_OUT2_VTT p.val) = f.val ∧ t.get (PIN_LVL_STAT_CURRENT p.val) = e.set ∧
          (t.pin p.val).lvl.queue = [] ∧ t.get (PIN_LVL_STAT_DEPTH p.val) = 0) ∧
    (∀ (p : Fin 512) (k : Fin 7), s.bit PWR_STATUS_TWILIGHT = true →
      ∃ t, exec (.twilightLevelCheck [(p, k)]) s = .next t ∧ t = { s with regs := t.regs, events := s.events ++ [⟨0xE043, p.val, k.val, s.tick⟩] } ∧
        t.bit (PIN_FESTAT_EXCURSION p.val) = true ∧ sameRegs [(PIN_FESTAT_EXCURSION p.val).addr] s t) ∧
    (∀ l, s.bit PWR_STATUS_TWILIGHT = false → exec (.twilightLevelCheck l) s = .next s)

/-! Segments, flags and burst results (R126 to R130, R147, R160, R164, R165), streaming (R199), and stamps (R245 to R254). -/

/-- A publish of an INACTIVE segment with a good entry makes it QUEUED with the entry latched, and STATE of its entry reads 1; an unpublish of a QUEUED
one makes it INACTIVE again. Each refused command reports its code, with event 0x2004 for the codes 1 to 3, and changes no segment (R130). The table
registers change only while the site is IDLE (R160); flags are set and cleared (R147); a write of the size of the result ring sets its index to 0
(R164); and a read of the first result word latches the others (R165).
Each of these commands completes here, on conditions on the state and its operands alone: SEG_PUBLISH, SEG_UNPUBLISH, SEGTAB_WRITE, FLAG_SET,
FLAG_CLEAR, RESULT_RING_WRITE, RESULT_0_READ. -/
def Obligations.SegmentsAndResults : Prop :=
  ∀ (s : State) (i : Fin 16),
    let st (t : State) (id r : Nat) : Prop :=
      t.get (SITE_SEG_STATUS_RESULT i) = r ∧ t.get (SITE_SEG_STATUS_ID i) = id ∧ sameRegs [(SITE_SEG_STATUS_RESULT i).addr] s t
    let refused (t : State) (id r : Nat) : Prop :=
      st t id r ∧ t = { s with regs := t.regs, events := if r = 4 then s.events else s.events ++ [⟨0x2004, i.val, id + 2 ^ 16 * r, s.tick⟩] }
    (∀ (id : Fin 65536) (e : Ecc), s.segInRange i id = false → s.claimed i id = false →
      ∃ t, exec (.segPublish i id e) s = .next t ∧ exec (.segUnpublish i id) s = .next t ∧ refused t id.val 1) ∧
    (∀ (id : Fin 65536) (e : Ecc), s.segInRange i id = true → s.claimed i id = false → (s.seg i id).state ≠ .inactive →
      ∃ t, exec (.segPublish i id e) s = .next t ∧ refused t id.val 4) ∧
    (∀ (id : Fin 65536) (x : Nat), memPlain s → s.segInRange i id = true → s.claimed i id = false → (s.seg i id).state = .inactive →
      s.region (s.segEntryAddr i id) = .ocm x → s.rangeServed (.ocm x) 32 = .ok →
      let e := segEntryOf (s.segEntryAddr i id) (s.ocmRead x 32)
      (s.segEntryOk i e = true → (s.site i).str.path.waits ≠ some id.val → (s.site i).seq.waitSeg = none →
        ∃ t, exec (.segPublish i id .ok) s = .next t ∧ t.seg i id = ⟨.queued, e⟩ ∧ (∀ k, k ≠ id.val → t.seg i k = s.seg i k) ∧
          (∀ k, k ≠ i.val → (t.site k).unmarked = (s.site k).unmarked) ∧ st t id.val 0 ∧ t = { s with regs := t.regs, mem := t.mem, sites := t.sites } ∧
          ∀ y, y < 0x4000000 →
            t.ocmByte y = if x ≤ y ∧ y < x + 4 then (leBytes 4 (fieldPut 0 2 e.word0 1).toNat).getD (y - x) 0 else s.ocmByte y) ∧
      (s.segEntryOk i e = false → ∃ t, exec (.segPublish i id .ok) s = .next t ∧ refused t id.val 2)) ∧
    (∀ (id : Fin 65536) (x : Nat), memPlain s → s.segInRange i id = true → (s.seg i id).state = .queued →
      s.region (s.seg i id).entry.tabAddr = .ocm (4 * x) → s.rangeServed (.ocm (4 * x)) 4 = .ok →
      ∃ t, exec (.segUnpublish i id) s = .next t ∧ t.seg i id = { s.seg i id with state := .inactive } ∧
        (∀ k, k ≠ id.val → t.seg i k = s.seg i k) ∧ (∀ k, k ≠ i.val → (t.site k).unmarked = (s.site k).unmarked) ∧ st t id.val 0 ∧
        t = { s with regs := t.regs, mem := t.mem, sites := t.sites } ∧
        ∀ y, y < 0x4000000 → t.ocmByte y = if 4 * x ≤ y ∧ y < 4 * x + 4 then
          (leBytes 4 (fieldPut 0 2 (s.seg i id).entry.word0 0).toNat).getD (y - 4 * x) 0 else s.ocmByte y) ∧
    (∀ id : Fin 65536, s.segInRange i id = true →
      ((s.seg i id).state = .active → ∃ t, exec (.segUnpublish i id) s = .next t ∧ refused t id.val 3) ∧
      ((s.seg i id).state = .inactive → ∃ t, exec (.segUnpublish i id) s = .next t ∧ refused t id.val 4)) ∧
    (∀ (o : Origin) (v : Word), s.idle i = true →
      (s.lockOf o (SITE_SEGTAB_BASE i).addr = 0 → ∃ t, exec (.segtabWrite o i false v) s = .next t ∧ sameRest s t ∧
        t.get (SITE_SEGTAB_BASE i) = v.toNat ∧ sameRegsBut [(SITE_SEGTAB_BASE i).addr] s t) ∧
      (s.lockOf o (SITE_SEGTAB_RANGE_FIRST i).addr = 0 → ∃ t, exec (.segtabWrite o i true v) s = .next t ∧ sameRest s t ∧
        t.get (SITE_SEGTAB_RANGE_FIRST i) = fieldGet 0 16 v ∧ t.get (SITE_SEGTAB_RANGE_LAST i) = fieldGet 16 16 v ∧
        sameRegsBut [(SITE_SEGTAB_RANGE_FIRST i).addr] s t)) ∧
    (∀ (o : Origin) (range : Bool) (v : Word), s.idle i = false →
      ∃ t, exec (.segtabWrite o i range v) s = .next t ∧ sameRest s t ∧ sameRegsBut [(SITE_SEQ_STATUS_TAB_BUSY i).addr] s t ∧
        (range = false → s.lockOf o (SITE_SEGTAB_BASE i).addr = 0 → s.get (SITE_SEGTAB_BASE i) ≠ v.toNat →
          t.bit (SITE_SEQ_STATUS_TAB_BUSY i) = true)) ∧
    (∀ v : Word, (s.bit (IAT_EVT_MAP_EN i) = true → bitOf v.toNat (s.get (IAT_EVT_MAP_FLAG i)) = true →
          bitOf (s.get (SITE_FLAGS_FLAG i)) (s.get (IAT_EVT_MAP_FLAG i)) = true) →
      ∃ t, exec (.flagSet i v) s = .next t ∧ t = { s with regs := t.regs } ∧ sameRegs [(SITE_FLAGS_FLAG i).addr] s t ∧
        ∀ n, n < 16 → bitOf (t.get (SITE_FLAGS_FLAG i)) n = (bitOf (s.get (SITE_FLAGS_FLAG i)) n || bitOf v.toNat n)) ∧
    (∀ v : Word,
      ∃ t, exec (.flagClear i v) s = .next t ∧ t = { s with regs := t.regs } ∧ sameRegs [(SITE_FLAGS_FLAG i).addr] s t ∧
        ∀ n, n < 16 → bitOf (t.get (SITE_FLAGS_FLAG i)) n = (bitOf (s.get (SITE_FLAGS_FLAG i)) n && !bitOf v.toNat n)) ∧
    (∀ (o : Origin) (v : Word),
      ∃ t, exec (.resultRingWrite o i v) s = .next t ∧ sameRest s t ∧ t.get (SITE_RESULT_RING_SIZE i) = fieldGet 0 16 v ∧
        t.get (SITE_RESULT_RING_WRITE_INDEX i) = 0 ∧ sameRegsBut [(SITE_RESULT_RING_SIZE i).addr] s t) ∧
    (∀ o : Origin,
      ∃ t, exec (.result0Read o i) s = .next t ∧ t = { s with out := t.out, latches := t.latches } ∧
        t.out = s.out ++ [.read o (SITE_RESULT_WORD i 0).addr (s.reg (SITE_RESULT_WORD i 0).addr)] ∧
        ∀ k, 0 < k → k < 16 → t.latched o (SITE_RESULT_WORD i k).addr = some (s.reg (SITE_RESULT_WORD i k).addr))

/-- Whether nothing more of a site can commit now: the oldest vector of its window has not started or still waits for strobe results, every result that waits belongs to a vector of the
window, and no transaction runs. -/
def commitsNothing (s : State) (i : Nat) : Prop :=
  (∃ e rest, (s.site i).spec.window = e :: rest ∧ (e.started = none ∨ e.pending ≠ 0) ∧
      ∀ p, s.pinOwner p = some i → ∀ x ∈ (s.pin p).acq.items, e.vec.id ≤ x.vec) ∧
    s.xe.runs = [] ∧ s.siteSt i ≠ stXact

/-- The stream engine asks for the next 2,048 bytes of its path, with at most 32 requests in flight and room in the buffer; once the controller has
served the oldest request, its bytes stand in the buffer (R199). A crossing changes its flag and opens an edge event on a pin that stamps; the pair
crossing within 4.0 ns closes it, or the end of that time does; its stamps then wait for their vector. A unit whose time is over gives a result of its
own (R246 to R249, R254).
Each of these commands completes here, on conditions on the state and its operands alone: STREAM_REQUEST, STREAM_DATA_ARRIVE, CROSSING,
EVENT_CLOSE_TIMEOUT, STAMP_DONE, TRIGGER_TIMEOUT. -/
def Obligations.StreamsAndStamps : Prop :=
  ∀ s : State,
    let turns (p : Fin 512) (x : CrossTo) : Bool :=
      flagAfter (s.hyst p) (s.threshold p x.high) x.volt x.high (if x.high then (s.pin p).highFlag else (s.pin p).lowFlag) !=
        (if x.high then (s.pin p).highFlag else (s.pin p).lowFlag)
    (∀ i : Fin 16, let u := (s.engineDecode i 256).flowTry i; let g := (u.site i).str; let e := (u.seg i g.path.seg).entry
      s.siteSt i ≠ stIdle → (s.site i).burst.end_ = none →
      ((s.site i).str.inflight.length < 32 → g.path.stopped = false → g.path.resident = false → g.path.waits = none → e.loc = true →
        g.path.req < 8 * e.length → g.cache.has g.path.seg g.path.req 8 = false → g.level < 1024 * g.high →
        u.bufRoom i (min 2048 (8 * e.length - g.path.req)) = true →
        ∃ t, exec (.streamRequest i) s = .next t ∧ t = { u with sites := t.sites, drc := t.drc } ∧ (∀ k, k ≠ i.val → t.site k = u.site k) ∧
          t.site i = { u.site i with str := { g with
            readDram := true
            inflight := g.inflight ++ [⟨g.path.seg, g.path.req, min 2048 (8 * e.length - g.path.req), none, g.path.run⟩]
            path := { g.path with req := min (g.path.req + 2048) (8 * e.length) } } }) ∧
      (32 ≤ (s.site i).str.inflight.length → exec (.streamRequest i) s = .next s)) ∧
    (∀ (i : Fin 16) (r : StreamReq) (rest : List StreamReq), let g := (s.site i).str
      g.inflight = r :: rest → (∀ q ∈ s.drc.queue ++ s.drc.input, q.kind = .stream → q.site ≠ i.val) → memPlain s → (∀ b, b < 64 → s.bankServed b = .ok) → s.dramUe = [] → s.dramServed ((s.seg i r.seg).entry.dramAt r.off) ≠ .off →
      (g.path.stopped = true ∨ g.path.resident = true ∨ g.path.waits ≠ none) → s.get (SITE_STR_STATUS_STATE i) ≠ 3 →
      ∃ t, exec (.streamDataArrive i .ok) s = .next t ∧ t = { s with regs := t.regs, mem := t.mem, sites := t.sites } ∧
        (∀ k, k ≠ i.val → (t.site k).unmarked = (s.site k).unmarked) ∧
        (t.site i).str = { g with inflight := rest, chunks := addChunk r g.chunks, windowBytes := g.windowBytes + r.len, fill := g.fill + r.len } ∧
        t.mem = (s.portAFill (s.cfg i (SITE_STR_BUF_BASE i)) (1024 * s.cfg i (SITE_STR_BUF_SIZE i)) (g.fill % (1024 * s.cfg i (SITE_STR_BUF_SIZE i)))
          (s.segBytes i r.seg r.off r.len)).mem ∧
        t.get (SITE_STR_LEVEL i) = (t.site i).str.level / 1024 % 2 ^ 16 ∧ sameRegs [(SITE_STR_LEVEL i).addr, (SITE_STR_STATUS_STATE i).addr] s t) ∧
    (∀ (p : Fin 512) (t0 : Nat) (x : CrossTo), turns p x = false → exec (.crossing p t0 x) s = .next s) ∧
    (∀ (p : Fin 512) (t0 : Nat) (x : CrossTo), s.pinOwner p = none → (s.pin p).tdc.lentTo = none → s.tdcSt p ≠ 2 → (s.pin p).windows = [] → turns p x = true →
      ∃ t, exec (.crossing p t0 x) s = .next t ∧ t = { s with now := max s.now t0, pins := t.pins } ∧ (∀ q, q ≠ p.val → t.pin q = s.pin q) ∧
        t.pin p = { s.pin p with volt := x.volt, lowFlag := (s.pin p).lowFlag != !x.high, highFlag := (s.pin p).highFlag != x.high }) ∧
    (∀ (p : Fin 512) (i : Fin 16) (t0 : Nat) (x : CrossTo), s.pinOwner p = some i.val → (s.pin p).tdc.lentTo = none → s.tdcSt p ≠ 2 →
      (s.pin p).windows = [] → turns p x = true → s.stampsAt i p (s.atPlane p t0) = true → commitsNothing s i →
      let at_ := s.atPlane p t0
      let lf := (s.pin p).lowFlag != !x.high
      let hf := (s.pin p).highFlag != x.high
      let k : CrossKind := ⟨x.high, if x.high then hf else !lf⟩
      let flags (a : AcqState) : Pin := { s.pin p with volt := x.volt, lowFlag := lf, highFlag := hf, acq := a }
      ((s.pin p).acq.open_ = none → s.missWhy p at_ = none →
        ∃ t, exec (.crossing p t0 x) s = .next t ∧ t = { s with now := max s.now t0, pins := t.pins } ∧ (∀ q, q ≠ p.val → t.pin q = s.pin q) ∧
          t.pin p = flags { (s.pin p).acq with lastStamped := some at_, open_ := some ⟨k, at_, lf, hf, none, none, s.crossVec i at_, s.refFlagged at_⟩ }) ∧
      (∀ e, (s.pin p).acq.open_ = some e → e.missed = none → pairs e.first k = true → at_ ≤ e.firstAt + pairLimit →
        ∃ t, exec (.crossing p t0 x) s = .next t ∧ t = { s with now := max s.now t0, pins := t.pins } ∧ (∀ q, q ≠ p.val → t.pin q = s.pin q) ∧
          t.pin p = flags { (s.pin p).acq with open_ := none, stamping := (s.pin p).acq.stamping ++ [{ e with pair := some (at_, lf, hf, s.refFlagged at_, s.crossVec i at_) }] })) ∧
    (∀ (p : Fin 512) (i : Fin 16) (e : EdgeEvent), s.pinOwner p = some i.val → commitsNothing s i → (s.pin p).acq.open_ = some e → e.missed = none →
      ∃ t, exec (.eventCloseTimeout p) s = .next t ∧ t = { s with now := t.now, pins := t.pins } ∧
        t.now = max s.now ((e.firstAt + pairLimit : Nat) + s.rxDeskew p).toNat ∧ (∀ q, q ≠ p.val → t.pin q = s.pin q) ∧
        t.pin p = { s.pin p with acq := { (s.pin p).acq with open_ := none, stamping := (s.pin p).acq.stamping ++ [e] } }) ∧
    (∀ (p : Fin 512) (i : Fin 16) (e : EdgeEvent) (rest : List EdgeEvent), s.pinOwner p = some i.val → commitsNothing s i →
      (s.pin p).acq.stamping = e :: rest → e.missed = none → e.pair = none → s.storeFull i p e = false →
      (∀ w tail v, (s.site i).spec.window = w :: tail → e.vec = some v → w.vec.id ≤ v) →
      ∃ t, exec (.stampDone p) s = .next t ∧ t = { s with pins := t.pins } ∧ (∀ q, q ≠ p.val → t.pin q = s.pin q) ∧
        t.pin p = { s.pin p with acq := { (s.pin p).acq with
          stamping := rest
          items := (s.pin p).acq.items ++ (e.vec.map (fun v => ⟨v, e.firstAt, .stamp e.first e.firstLf e.firstHf false e.ref none⟩)).toList } }) ∧
    (∀ (p : Fin 512) (i : Fin 16) (u : Fin 4) (at_ v : Nat), s.pinOwner p = some i.val → commitsNothing s i → s.stampsAt i p at_ = true →
      s.vecAt i at_ = some (v, false) → (∀ w tail, (s.site i).spec.window = w :: tail → w.vec.id ≤ v) →
      ∃ t, exec (.triggerTimeout p u at_) s = .next t ∧ t = { s with now := max s.now at_, pins := t.pins } ∧ (∀ q, q ≠ p.val → t.pin q = s.pin q) ∧
        t.pin p = { s.pin p with acq := { (s.pin p).acq with items := (s.pin p).acq.items ++ [⟨v, at_, .timeout u.val⟩] } })

/-! Single-interval measurement (R275 to R282). -/

/-- ARM takes the configuration and waits for the arm instant or begins at once, with a start pin of its own lent to it; an arm that is refused sets
BUSY. The result is the time from start to stop in ps, positive where the stop is later; the last of a series ends it, and the others wait 8.0 ns,
be the result before them readable or not. A
measurement without start or stop ends at its timeout with event 0x6002, and CANCEL ends it with event 0x6003 (R275 to R280).
Each of these commands completes here, on conditions on the state and its operands alone: TDC_ARM, TDC_ARM_INSTANT, TDC_RESULT, TDC_REPEAT_ARM,
TDC_TIMEOUT, TDC_CANCEL. -/
def Obligations.SingleIntervals : Prop :=
  ∀ (s : State) (p : Fin 512),
    let m := (s.pin p).tdc
    let begun (t : State) (b : TdcState) (at_ : Nat) : Prop :=
      t.tdcSt p = 2 ∧ (t.pin p).tdc = { b with
        armAt := at_, waiting := false, stop := none, switched := false, start := if b.src = 1 then some (at_, s.refFlagged at_) else none }
    (let q := s.get (PIN_TDC_CFG_START_PIN p)
      let w := (s.reg (PIN_TDC_CFG_START_PIN p).addr).toNat
      let fresh : TdcState := { TdcState.reset with
        cfg := w
        timeout := max 1 (s.get (PIN_TDC_TIMEOUT p))
        armAt := s.tdcArmTime p
        left := if s.get (PIN_TDC_CFG_START_SRC p) = 1 then 0 else s.get (PIN_TDC_REPEAT p) }
      (s.tdcRefused p q = true →
        ∃ t, exec (.tdcArm p) s = .next t ∧ t = { s with regs := t.regs } ∧ t.bit (PIN_TDC_STAT_BUSY p) = true ∧
          sameRegs [(PIN_TDC_STAT_STATE p).addr] s t) ∧
      (s.tdcRefused p q = false →
        ∃ t, exec (.tdcArm p) s = .next t ∧ t = { s with regs := t.regs, pins := t.pins } ∧ t.get (PIN_TDC_COUNT p) = 0 ∧
          (s.bit (PIN_TDC_CFG_ARM_AT p) = true → s.now < s.tdcArmTime p → t.tdcSt p = 1 ∧ (t.pin p).tdc = fresh) ∧
          (s.bit (PIN_TDC_CFG_ARM_AT p) = false ∨ s.tdcArmTime p ≤ s.now → begun t fresh s.now) ∧
          (q ≠ p.val → t.tdcSt q = 4 ∧ (t.pin q).tdc = { (s.pin q).tdc with lentTo := some p.val }) ∧
          (∀ k, k ≠ p.val → k ≠ q → k ≠ m.q → t.pin k = s.pin k) ∧
          sameRegs [(PIN_TDC_STAT_STATE p).addr, (PIN_TDC_COUNT p).addr, (PIN_TDC_STAT_STATE q).addr, (PIN_TDC_STAT_STATE m.q).addr] s t)) ∧
    (s.tdcSt p = 1 →
      ∃ t, exec (.tdcArmInstant p) s = .next t ∧ t = { s with now := max s.now m.armAt, regs := t.regs, pins := t.pins } ∧ begun t m m.armAt ∧
        (∀ k, k ≠ p.val → t.pin k = s.pin k) ∧ sameRegs [(PIN_TDC_STAT_STATE p).addr] s t) ∧
    (∀ (t0 t1 : Nat) (f0 f1 w : Bool), s.tdcSt p = 2 →
      (m.ready = [] ∧ m.start = some (t0, f0) ∧ m.stop = some (t1, f1) ∧ w = m.switched ∨ ∃ rest, m.ready = ((t0, f0), (t1, f1), w) :: rest) →
      (m.accEn = true → (s.pin p).operands.length < 8) →
      let x : Int := (t1 : Int) - t0
      ∃ t, exec (.tdcResult p) s = .next t ∧ t = { s with regs := t.regs, pins := t.pins, events := t.events } ∧
        t.get64 (PIN_TDC_RESULT_LO_RESULT p) (PIN_TDC_RESULT_HI_RESULT p) = unsignedOf 64 (intervalPs x) ∧
        t.get64 (PIN_TDC_START_LO_START p) (PIN_TDC_START_HI_START p) = s.tickAt t0 ∧
        t.bit (PIN_TDC_STAT_ORDER p) = decide (x ≤ -4) ∧ t.bit (PIN_TDC_STAT_NEAR p) = decide (x.natAbs < 4) ∧
        t.bit (PIN_TDC_STAT_REF p) = (f0 || f1 || w) ∧
        t.get (PIN_TDC_COUNT p) = min (s.get (PIN_TDC_COUNT p) + 1) (2 ^ 32 - 1) ∧
        (m.accEn = true → -(2 ^ 31) ≤ intervalPs x → intervalPs x < 2 ^ 31 →
          (t.pin p).operands = (s.pin p).operands ++ [(m.accNo, intervalPs x, f0 || f1 || w)]) ∧
        (m.accEn = false → (t.pin p).operands = (s.pin p).operands) ∧
        (m.ready ≠ [] → t.tdcSt p = 2 ∧ t.events = s.events ∧ (t.pin p).tdc = { m with ready := m.ready.tail }) ∧
        (m.ready = [] → m.left = 0 → t.tdcSt p = 3 ∧ (t.pin p).tdc = m) ∧
        (m.ready = [] → m.left ≠ 0 → t.tdcSt p = 2 ∧ t.events = s.events ∧ (∀ k, k ≠ p.val → t.pin k = s.pin k) ∧ (t.pin p).tdc = { m with
          left := m.left - 1, waiting := true, start := none, stop := none, switched := false, armAt := max t0 t1 + 32000 })) ∧
    (s.tdcSt p = 2 → m.waiting = true →
      ∃ t, exec (.tdcRepeatArm p) s = .next t ∧ t = { s with now := max s.now m.armAt, regs := t.regs, pins := t.pins } ∧ begun t m m.armAt ∧
        (∀ k, k ≠ p.val → t.pin k = s.pin k) ∧ sameRegs [(PIN_TDC_STAT_STATE p).addr] s t) ∧
    (∀ a b, s.tdcSt p = 2 → m.waiting = false → m.start = some a → m.stop = some b → m.left ≠ 0 →
      let n : TdcState := { m.next a.1 b.1 with ready := m.ready ++ [(a, b, m.switched)] }
      ∃ t, exec (.tdcRepeatArm p) s = .next t ∧ t = { s with now := max s.now n.armAt, regs := t.regs, pins := t.pins } ∧ begun t n n.armAt ∧
        n.armAt = max a.1 b.1 + 32000 ∧ (∀ k, k ≠ p.val → t.pin k = s.pin k) ∧ sameRegs [(PIN_TDC_STAT_STATE p).addr] s t) ∧
    (s.tdcSt p = 2 → m.waiting = false → m.start = none ∨ m.stop = none →
      ∃ t, exec (.tdcTimeout p) s = .next t ∧ t = { s with now := t.now, regs := t.regs, pins := t.pins, events := t.events } ∧
        t.now = max s.now (m.armAt + m.timeout * 4000000) ∧ t.tdcSt p = 3 ∧ (t.pin p).tdc = m ∧
        t.get64 (PIN_TDC_RESULT_LO_RESULT p) (PIN_TDC_RESULT_HI_RESULT p) = 0 ∧
        t.bit (PIN_TDC_STAT_TIMEOUT_START p) = m.start.isNone ∧ t.bit (PIN_TDC_STAT_TIMEOUT_STOP p) = m.stop.isNone ∧
        (⟨0x6002, p.val, if m.start.isNone then (if m.stop.isNone then 2 else 0) else 1, t.tick⟩ : EventRec) ∈ t.events) ∧
    ((s.tdcSt p = 1 ∨ s.tdcSt p = 2) →
      ∃ t, exec (.tdcCancel p) s = .next t ∧ t = { s with regs := t.regs, pins := t.pins, events := s.events ++ [⟨0x6003, p.val, 0, s.tick⟩] } ∧
        t.tdcSt p = 3 ∧ t.bit (PIN_TDC_STAT_CANCELLED p) = true ∧ (t.pin p).tdc = { m with ready := [] } ∧
        (m.q ≠ p.val → (s.pin m.q).tdc.lentTo = some p.val → t.tdcSt m.q = 0 ∧ (t.pin m.q).tdc.lentTo = none) ∧
        (∀ k, k ≠ p.val → k ≠ m.q → t.pin k = s.pin k) ∧ sameRegs [(PIN_TDC_STAT_STATE p).addr, (PIN_TDC_STAT_STATE m.q).addr] s t) ∧
    (s.tdcSt p = 4 →
      ∃ t, exec (.tdcCancel p) s = .next t ∧ t = { s with regs := t.regs } ∧ t.bit (PIN_TDC_STAT_BUSY p) = true ∧
        sameRegs [(PIN_TDC_STAT_STATE p).addr] s t) ∧
    ((s.tdcSt p = 0 ∨ s.tdcSt p = 3) → exec (.tdcCancel p) s = .next s)

/-! The reduction engine (R283 to R290, R302). -/

/-- The engine takes one operand from the next pin in the rotation whose queue is not empty, and its accumulator adds it to its exact sums; at the count
limit it is dropped; with NBLK operands an interval closes and its record goes to the ring. A snapshot and a dump give the accumulators as they stood
at the command; a clear resets them; a write of the ring's place empties the ring, its base as a whole with the write
of the high word (R4, R284 to R290, R302).
Each of these commands completes here, on conditions on the state and its operands alone: RED_OPERAND, RED_SNAP, RED_SNAP_DONE, RED_DUMP,
RED_DUMP_DONE, RED_CLEAR, IVL_RING_WRITE. -/
def Obligations.Reduction : Prop :=
  ∀ s : State,
    (∀ (p n : Nat) (a : Nat) (v : Int) (ref : Bool) (rest : List (Nat × Int × Bool)), n < 512 → p = (s.red.served + 1 + n) % 512 →
      (∀ j, j < n → (s.pin ((s.red.served + 1 + j) % 512)).operands = []) → (s.pin p).operands = (a, v, ref) :: rest →
      let c := s.acc a
      let k := s.get (RED_ACC_CFG_NBLK a)
      let c1 := { c with total := c.total.add v ref, ivl := if k = 0 then Sums.reset else c.ivl.add v ref }
      let took (t : State) : Prop :=
        t.pin p = { s.pin p with operands := rest } ∧ (∀ q, q ≠ p → t.pin q = s.pin q) ∧ t.red.served = p ∧ ∀ b, b ≠ a → t.acc b = s.acc b
      (c.total.n ≠ 2 ^ 40 - 1 → (k = 0 ∨ c.ivl.n + 1 < k) →
        ∃ t, exec .redOperand s = .next t ∧ took t ∧ t.acc a = c1 ∧ t = { s with pins := t.pins, red := t.red }) ∧
      (c.total.n = 2 ^ 40 - 1 → a < 2 ^ 16 →
        ∃ t, exec .redOperand s = .next t ∧ took t ∧ t.acc a = { c with dropped := min (c.dropped + 1) (2 ^ 64 - 1), full := true } ∧
          t = { s with pins := t.pins, red := t.red, events := s.events ++ [⟨0x6006, a, 0, s.tick⟩] }) ∧
      (c.total.n ≠ 2 ^ 40 - 1 → k ≠ 0 → k ≤ c.ivl.n + 1 → s.get RED_IVL_SIZE = 0 →
        ∃ t, exec .redOperand s = .next t ∧ took t ∧ t.acc a = { c1 with ivl := Sums.reset, index := (c.index + 1) % 2 ^ 32 } ∧
          t = { s with pins := t.pins, red := t.red }) ∧
      (∀ x, memPlain s → c.total.n ≠ 2 ^ 40 - 1 → k ≠ 0 → k ≤ c.ivl.n + 1 → s.ivlBase = ocmBase + 4 * x → s.ringPlaced s.ivlBase (s.get RED_IVL_SIZE) = true →
        s.rangeServed (.ocm (4 * x)) s.ivlBytes = .ok → s.red.ivlFull = false → s.get RED_IVL_HEAD % 4 = 0 → s.get RED_IVL_HEAD + 48 ≤ s.ivlBytes →
        let h := s.get RED_IVL_HEAD
        ∃ t, exec .redOperand s = .next t ∧ took t ∧ t.acc a = { c1 with ivl := Sums.reset, index := (c.index + 1) % 2 ^ 32 } ∧
          t = { s with regs := t.regs, mem := t.mem, sites := t.sites, pins := t.pins, red := t.red } ∧ sameSites s t ∧ sameRegs [RED_IVL_HEAD.addr] s t ∧
          t.get RED_IVL_HEAD = (h + 48) % s.ivlBytes ∧ t.red.ivlFull = decide ((h + 48) % s.ivlBytes = s.get RED_IVL_TAIL) ∧
          ∀ y, y < 0x4000000 →
            t.ocmByte y = if 4 * x + h ≤ y ∧ y < 4 * x + h + 48 then (ivlRecord a c.index s.tick c1.ivl).getD (y - (4 * x + h)) 0 else s.ocmByte y)) ∧
    (∀ a : Fin 1024, s.bit RED_SNAP_STAT_BUSY = false →
      ∃ t, exec (.redSnap a true) s = .next t ∧ t = { s with regs := t.regs, red := { s.red with snap := some (a.val, s.acc a) } } ∧
        t.bit RED_SNAP_STAT_BUSY = true ∧ t.bit RED_SNAP_STAT_VALID = false ∧ t.get RED_SNAP_STAT_ACC = a.val ∧ sameRegs [RED_SNAP_STAT_BUSY.addr] s t) ∧
    (∀ a : Fin 1024, s.bit RED_SNAP_STAT_BUSY = true →
      ∃ t, exec (.redSnap a true) s = .next t ∧ t = { s with regs := t.regs } ∧ t.bit RED_STATUS_CMD_BUSY = true ∧ sameRegs [RED_STATUS_CMD_BUSY.addr] s t) ∧
    (∀ a c, s.red.snap = some (a, c) →
      ∃ t, exec .redSnapDone s = .next t ∧ t = { s with regs := t.regs, red := { s.red with snap := none } } ∧
        t.get64 RED_SNAP_COUNT_LO_COUNT RED_SNAP_COUNT_HI_COUNT = c.total.n % 2 ^ 64 ∧
        t.get64 RED_SNAP_MEAN_LO_MEAN RED_SNAP_MEAN_HI_MEAN = unsignedOf 64 c.total.mean ∧
        t.get64 RED_SNAP_SD_LO_SD RED_SNAP_SD_HI_SD = c.total.sd % 2 ^ 64 ∧
        t.get64 RED_SNAP_MIN_LO_MIN RED_SNAP_MIN_HI_MIN = unsignedOf 64 c.total.mn ∧
        t.get64 RED_SNAP_MAX_LO_MAX RED_SNAP_MAX_HI_MAX = unsignedOf 64 c.total.mx ∧
        t.get64 RED_SNAP_DROPPED_LO_DROPPED RED_SNAP_DROPPED_HI_DROPPED = c.dropped % 2 ^ 64 ∧
        t.bit RED_SNAP_FLAGS_REF = c.total.ref ∧ t.bit RED_SNAP_FLAGS_FULL = c.full ∧ t.bit RED_SNAP_FLAGS_EMPTY = decide (c.total.n = 0) ∧
        t.bit RED_SNAP_STAT_BUSY = false ∧ t.bit RED_SNAP_STAT_VALID = true ∧
        ∀ b, b < RED_SNAP_STAT_BUSY.addr ∨ RED_SNAP_FLAGS_REF.addr < b → t.reg b = s.reg b) ∧
    (∀ first last : Fin 1024, s.bit RED_STATUS_DUMP_RUN = false → s.placed s.dumpAddr (64 * (last.val + 1 - first.val)) = true ∨
        2 ^ 63 ≤ s.dumpAddr ∧ s.dumpAddr + 64 * (last.val + 1 - first.val) ≤ 2 ^ 64 →
      ∃ t, exec (.redDump first last true) s = .next t ∧ t.bit RED_STATUS_DUMP_RUN = true ∧ sameRegs [RED_STATUS_DUMP_RUN.addr] s t ∧
        t = { s with regs := t.regs, red := { s.red with dump := t.red.dump } } ∧
        t.red.dump = some (s.dumpAddr, first.val, (List.range (last.val + 1 - first.val)).map (fun k => s.acc (first.val + k)))) ∧
    (∀ first last : Fin 1024, s.bit RED_STATUS_DUMP_RUN = true →
      ∃ t, exec (.redDump first last true) s = .next t ∧ t = { s with regs := t.regs } ∧ t.bit RED_STATUS_CMD_BUSY = true ∧
        sameRegs [RED_STATUS_CMD_BUSY.addr] s t) ∧
    (∀ addr first (cs : List Accum), s.red.dump = some (addr, first, cs) →
      let bs := cs.zipIdx.flatMap (fun c => dumpBytes (first + c.2) c.1)
      let done (t : State) : Prop :=
        t.red = { s.red with dump := none } ∧ t.bit RED_STATUS_DUMP_RUN = false ∧ t.bit RED_STATUS_DUMP_DONE = true ∧ sameRegs [RED_STATUS_DUMP_RUN.addr] s t
      (2 ^ 63 ≤ addr → ∃ t, exec .redDumpDone s = .next t ∧ done t ∧ t = { s with regs := t.regs, red := t.red, out := s.out ++ [.hostWrite (addr - 2 ^ 63) bs] }) ∧
      (∀ x, memPlain s → addr = ocmBase + 4 * x → 4 * x + 64 * cs.length ≤ 0x4000000 → s.rangeServed (.ocm (4 * x)) (64 * cs.length) = .ok →
        cs ≠ [] →
        ∃ t, exec .redDumpDone s = .next t ∧ done t ∧ t = { s with regs := t.regs, red := t.red, mem := t.mem, sites := t.sites } ∧ sameSites s t ∧
          ∀ y, y < 0x4000000 → t.ocmByte y = if 4 * x ≤ y ∧ y < 4 * x + 64 * cs.length then bs.getD (y - 4 * x) 0 else s.ocmByte y)) ∧
    (∀ first last : Fin 1024,
      ∃ t, exec (.redClear first last true) s = .next t ∧ t = { s with red := { s.red with accs := t.red.accs } } ∧
        ∀ a, t.acc a = if first.val ≤ a ∧ a ≤ last.val then Accum.reset else s.acc a) ∧
    (∀ first last : Fin 1024, exec (.redSnap first false) s = .next s ∧ exec (.redDump first last false) s = .next s ∧
      exec (.redClear first last false) s = .next s) ∧
    (∀ (o : Origin) (v : Word), exec (.ivlRingWrite o 0 v) s = .next (s.holdLow o RED_IVL_BASE_LO_BASE.addr v)) ∧
    (∀ (o : Origin) (k : Fin 3) (v : Word), k ≠ 0 →
      ∃ t, exec (.ivlRingWrite o k v) s = .next t ∧ t.reg (RED_IVL_BASE_LO_BASE.addr + 4 * k.val) = v ∧
        (k = 1 → t.reg RED_IVL_BASE_LO_BASE.addr = (s.heldLow o RED_IVL_BASE_LO_BASE.addr).getD (s.reg RED_IVL_BASE_LO_BASE.addr)) ∧ t.get RED_IVL_HEAD = 0 ∧ t.get RED_IVL_TAIL = 0 ∧
        t.red = { s.red with ivlFull := false } ∧ t.out = s.out ∧ t.pins = s.pins ∧ sameSites s t ∧
        sameRegsBut [RED_IVL_BASE_LO_BASE.addr, RED_IVL_BASE_LO_BASE.addr + 4 * k.val, RED_IVL_HEAD.addr, RED_IVL_TAIL.addr] s t)

/-! The transaction engine (R304 to R320). -/

/-- Whether neither a vector, nor a transaction, nor a list of a site ends by itself now: its oldest vector has not started, every result that waits is
that of a vector of the window, no transaction has ended, and one runs or is still to be dispatched. -/
def engineQuiet (s : State) (i : Nat) : Prop :=
  (∃ e rest, (s.site i).spec.window = e :: rest ∧ e.started = none ∧ e.vec.id ≤ s.lastIssued i ∧
    ∀ p, s.pinOwner p = some i → ∀ x ∈ (s.pin p).acq.items, e.vec.id ≤ x.vec) ∧
  (∀ r ∈ s.xe.runs, r.site = i → r.ended = none ∨ r.unsent ≠ 0) ∧
  ((∃ r ∈ s.xe.runs, r.site = i) ∨ ((s.xeSite i).next < (s.xeSite i).count ∧ (s.xeSite i).stop = false))

/-- Whether a table that the device reads is empty, or lies in on-chip memory that answers without an uncorrectable word. -/
def tableOk (s : State) (addr n : Nat) : Prop := n = 0 ∨ ∃ x, s.region addr = .ocm x ∧ s.rangeServed (.ocm x) n ≠ .off ∧ s.ocmBad x n = []

/-- Whether step k of the template of a transaction can be read: that of a ROM template, or one in on-chip memory. -/
def stepOk (s : State) (q : XeTxn) (k : Nat) : Prop :=
  q.tpl < 0x40 ∨
    let e := s.get XE_TPL_BASE / 8 * 8 + 8 * (q.tpl - 0x40)
    tableOk s e 8 ∧ tableOk s (s.ocmAt e + 16 * k) 16

/-- Whether a transaction has come to a step of its template that the engine can process on its port. -/
def atStep (s : State) (n : Nat) (r : XeRun) (x : XeStep) (op : Nat) : Prop :=
  s.portRun n = some r ∧ r.site = s.get (XE_PORT_CFG_SITE n) ∧ s.xeEligible n = true ∧ s.templateStep r.txn r.pc = some x ∧ x.bad = false ∧
    x.op = op ∧ stepOk s r.txn r.pc ∧ engineQuiet s r.site

/-- What a number of processed steps of one transaction changes: the transaction, its port, and the count of steps. -/
def stepped (s t : State) (n : Nat) (r r1 : XeRun) (steps : Nat) : Prop :=
  t = { s with regs := t.regs, xe := t.xe } ∧ t.xeRun r.num = some r1 ∧ (∀ k, k ≠ r.num → t.xeRun k = s.xeRun k) ∧
    (∀ k, k ≠ n → t.xePort k = s.xePort k) ∧ (∀ i, t.xeSite i = s.xeSite i) ∧
    t.get (XE_PORT_STEPS_COUNT n) = min (s.get (XE_PORT_STEPS_COUNT n) + steps) (2 ^ 32 - 1) ∧
    sameRegs [(XE_PORT_STEPS_COUNT n).addr, (XE_PORT_STAT_BUSY n).addr] s t

/-- The steps of a template on a port whose step can be processed (R314): EMIT gives its vectors while the buffer has room, SHIFT its bits, LOOP
counts or jumps back, BRANCH follows the bit that returned, WAITHI begins to wait, FAIL and END end the transaction.
Each of these commands completes here, on conditions on the state and its operands alone: TPL_EMIT, TPL_SHIFT, TPL_LOOP, TPL_BRANCH, TPL_WAITHI,
TPL_FAIL, TPL_END. -/
def Obligations.TemplateSteps : Prop :=
  ∀ (s : State) (n : Fin 128) (r : XeRun) (x : XeStep),
    let buf := (s.xePort n).buf
    let vec (syms : List Nat) : XeVec := ⟨r.num, syms, if x.pts then s.get (XE_PORT_CFG_TS n) else x.ts, x.pause, []⟩
    let ended (t : State) (status : Nat) : Prop :=
      (∃ u, stepped s t n r u 1 ∧ u.ended = some status ∧ u.last = s.lastIssued r.site ∧ u.txn = r.txn) ∧ t.bit (XE_PORT_STAT_BUSY n) = false ∧
        t.xePort n = { s.xePort n with cur := none, holdCs := r.txn.holdCs && isSpi r.txn.tpl }
    (atStep s n r x 0 → x.cap = false → x.lastSel = false → r.at_ < max 1 (bitsOf x.arg 0 16) →
      let total := max 1 (bitsOf x.arg 0 16)
      let m := min (total - r.at_) (64 - buf.length)
      ∃ t, exec (.tplEmit n) s = .next t ∧ t.xePort n = { s.xePort n with buf := buf ++ List.replicate m (vec x.symList) } ∧
        stepped s t n r (if r.at_ + m = total then { r.advance with unsent := r.unsent + m }
          else { r with unsent := r.unsent + m, at_ := r.at_ + m }) m) ∧
    (atStep s n r x 1 → x.cap = false → x.wid = 0 →
      let total := x.count r.txn.bits
      let src := bitsOf x.arg 14 2
      let bad := (src = 1 ∧ 32 < total) ∨ (src = 2 ∧ 16 < total)
      (¬bad → total = r.at_ + 1 → (src = 0 → tableOk s ((r.txn.dout + r.cursor / 8) / 4 * 4) (r.txn.dout + (r.cursor + total + 7) / 8 - (r.txn.dout + r.cursor / 8) / 4 * 4)) →
        let b := s.shiftBit r x (if x.msbf then 0 else r.at_)
        ∃ t, exec (.tplShift n) s = .next t ∧ t.xePort n = { s.xePort n with buf := buf ++ [vec (x.symList.set x.drole (if b then x.sym1 else x.sym0))] } ∧
          stepped s t n r { r.advance with
            unsent := r.unsent + 1
            cursor := if src = 0 then r.cursor + total else r.cursor } 1) ∧
      (¬bad → total = 0 → ∃ t, exec (.tplShift n) s = .next t ∧ stepped s t n r r.advance 1 ∧ t.xePort n = s.xePort n) ∧
      (bad → ∃ t, exec (.tplShift n) s = .next t ∧ ended t 4)) ∧
    (atStep s n r x 2 →
      let level := ofBool (bitOf x.arg 10)
      let c := if bitOf x.arg 11 then ceilDiv r.txn.bits 8 else bitsOf x.arg 16 16
      let left := (r.ctr.getD level none).getD (max 1 c - 1)
      (left = 0 → ∃ t, exec (.tplLoop n) s = .next t ∧ t.xePort n = s.xePort n ∧
        stepped s t n r { r.advance with ctr := r.ctr.set level none, loops := r.loops.filter (fun l => decide (l ≠ level)) } 1) ∧
      (left ≠ 0 → bitsOf x.arg 0 10 ≠ r.pc → ∃ t, exec (.tplLoop n) s = .next t ∧ t.xePort n = s.xePort n ∧
        stepped s t n r { r.jump (bitsOf x.arg 0 10) with
          ctr := r.ctr.set level (some (left - 1))
          loops := if (r.ctr.getD level none).isSome then r.loops else level :: r.loops.filter (fun l => decide (l ≠ level)) } 1)) ∧
    (atStep s n r x 3 →
      (∀ b : Bool, r.mark ≠ 0 → r.lastBit = some b → bitsOf x.arg 0 10 ≠ r.pc → ∃ t, exec (.tplBranch n) s = .next t ∧ t.xePort n = s.xePort n ∧
        stepped s t n r (if b = bitOf x.arg 16 then r.jump (bitsOf x.arg 0 10) else r.advance) 1) ∧
      (r.mark = 0 → ∃ t, exec (.tplBranch n) s = .next t ∧ ended t 4)) ∧
    (atStep s n r x 4 → ∃ t, exec (.tplWaithi n) s = .next t ∧ t.xePort n = s.xePort n ∧
      stepped s t n r { r with at_ := 1, waitNo := r.waitNo + 1, waitSent := 0, waitGot := 0 } 1) ∧
    (atStep s n r x 5 → ∃ t, exec (.tplFail n) s = .next t ∧ ended t (max 0x10 (bitsOf x.arg 0 8))) ∧
    (atStep s n r x 6 → ∃ t, exec (.tplEnd n) s = .next t ∧ ended t 0)

/-- The registers of a port change only while the site of an enabled port is not in XACT (R306). A good entry goes to the queue of its port, which holds
16 (R308 to R310). The engine visits the next port that has something to do and processes one step more than SLICE says, starting the transaction at
the head of the queue on an idle port (R310, R320). A captured bit returns to its transaction (R316).
Each of these commands completes here, on conditions on the state and its operands alone: PORT_WRITE, XACT_DISPATCH, XACT_ENGINE_VISIT,
CAPTURE_BIT_RETURN. -/
def Obligations.EnginePorts : Prop :=
  ∀ s : State,
    (∀ (o : Origin) (n : Fin 128) (v : Word),
      let free := s.bit (XE_PORT_CFG_EN n) = false ∨ s.siteSt (s.get (XE_PORT_CFG_SITE n)) ≠ stXact
      (free → ∃ t, exec (.portWrite o n 0 v) s = .next t ∧ sameRest s t ∧ t.get (XE_PORT_CFG_EN n) = fieldGet 0 1 v ∧
        t.get (XE_PORT_CFG_SITE n) = fieldGet 1 4 v ∧ t.get (XE_PORT_CFG_ROLE_EN n) = fieldGet 5 8 v ∧ t.get (XE_PORT_CFG_SLICE n) = fieldGet 13 4 v ∧
        t.get (XE_PORT_CFG_TS n) = fieldGet 17 6 v ∧ sameRegsBut [(XE_PORT_CFG_EN n).addr] s t) ∧
      (free → ∃ t, exec (.portWrite o n 1 v) s = .next t ∧ sameRest s t ∧ t.reg (XE_PORT_PARK n 0).addr = v ∧
        sameRegsBut [(XE_PORT_PARK n 0).addr] s t) ∧
      (∀ (j : Fin 4) (k : Fin 6), free → k.val = 2 + j.val → ∃ t, exec (.portWrite o n k v) s = .next t ∧ sameRest s t ∧
        t.get (XE_PORT_ROLE_PIN n j 0) = fieldGet 0 9 v ∧ t.get (XE_PORT_ROLE_PIN n j 1) = fieldGet 16 9 v ∧
        sameRegsBut [(XE_PORT_ROLE_PIN n j 0).addr] s t) ∧
      (∀ k : Fin 6, ¬free → ∃ t, exec (.portWrite o n k v) s = .next t ∧ sameRest s t ∧ sameRegsBut [XE_STATUS_PORT_BUSY.addr] s t ∧
        (k = 1 → s.reg (XE_PORT_PARK n 0).addr ≠ v → t.bit XE_STATUS_PORT_BUSY = true))) ∧
    (∀ (i : Fin 16) (y : Nat), let x := s.xeSite i
      s.siteSt i = stXact → x.stop = false → x.next < x.count → s.region (x.addr + 32 * x.next) = .ocm y → s.rangeServed (.ocm y) 32 = .ok →
      memPlain s → (∃ e rest, (s.site i).spec.window = e :: rest ∧ e.started = none ∧ e.vec.id ≤ s.lastIssued i ∧
        ∀ p, s.pinOwner p = some i.val → ∀ z ∈ (s.pin p).acq.items, e.vec.id ≤ z.vec) →
      (∀ r ∈ s.xe.runs, r.site = i.val → r.ended = none ∨ r.unsent ≠ 0) →
      let q := s.entryAt (x.addr + 32 * x.next)
      (s.badEntry i q = false → (s.xePort q.port).usable = true → (s.xePort q.port).queue.length < 16 →
        ∃ t, exec (.xactDispatch i) s = .next t ∧ t = { s with regs := t.regs, xe := t.xe } ∧ t.xeSite i = { x with next := x.next + 1 } ∧
          t.xePort q.port = { s.xePort q.port with queue := (s.xePort q.port).queue ++ [q] } ∧ (∀ k, k ≠ q.port → t.xePort k = s.xePort k) ∧
          t.xe.runs = s.xe.runs ∧ t.get (XE_PORT_STAT_QUEUE q.port) = (s.xePort q.port).queue.length + 1 ∧
          sameRegs [(XE_PORT_STAT_QUEUE q.port).addr] s t) ∧
      (s.badEntry i q = true →
        ∃ t u, exec (.xactDispatch i) s = .next t ∧ t = { s with xe := t.xe } ∧ t.xeSite i = { x with next := x.next + 1 } ∧
          t.xe.runs = s.xe.runs ++ [u] ∧ u.ended = some 3 ∧ u.txn = q ∧ u.site = i.val ∧
          ∀ k, t.xePort k = { s.xePort k with holdCs := (t.xePort k).holdCs } ∧ (k ≠ q.port → t.xePort k = s.xePort k)) ∧
      (s.badEntry i q = false → (s.xePort q.port).usable = true → 16 ≤ (s.xePort q.port).queue.length → exec (.xactDispatch i) s = .next s)) ∧
    (∀ (n k : Nat) (x : XeStep), k < 128 → n = (s.xe.visit + 1 + k) % 128 → (∀ j, j < k → s.xeEligible ((s.xe.visit + 1 + j) % 128) = false) →
      s.xeEligible n = true → s.get (XE_PORT_CFG_SLICE n) = 0 → (∀ i, i < 16 → s.siteSt i = stXact → engineQuiet s i) → x.bad = false → x.op = 0 →
      x.cap = false → x.lastSel = false → bitsOf x.arg 0 16 ≤ 1 →
      let v (num : Nat) : XeVec := ⟨num, x.symList, if x.pts then s.get (XE_PORT_CFG_TS n) else x.ts, x.pause, []⟩
      (∀ r : XeRun, s.portRun n = some r → r.site < 16 → s.templateStep r.txn r.pc = some x → stepOk s r.txn r.pc →
        ∃ t, exec .xactEngineVisit s = .next t ∧ t.xe.visit = n ∧ t.xePort n = { s.xePort n with buf := (s.xePort n).buf ++ [v r.num] } ∧
          stepped s t n r { r.advance with unsent := r.unsent + 1 } 1) ∧
      (∀ (q : XeTxn) (rest : List XeTxn), (s.xePort n).cur = none → (s.xePort n).queue = q :: rest → s.templateStep q 0 = some x → stepOk s q 0 →
        (∀ r ∈ s.xe.runs, r.num ≠ s.xe.nextNum) →
        let r0 := XeRun.start s.xe.nextNum (s.get (XE_PORT_CFG_SITE n)) q (s.lastIssued (s.get (XE_PORT_CFG_SITE n)))
        ∃ t, exec .xactEngineVisit s = .next t ∧ t.xe.visit = n ∧ t.xe.nextNum = s.xe.nextNum + 1 ∧ t.bit (XE_PORT_STAT_BUSY n) = true ∧
          t.xePort n = { s.xePort n with queue := rest, cur := some s.xe.nextNum, buf := (s.xePort n).buf ++ [v s.xe.nextNum] } ∧
          stepped s t n r0 { r0.advance with unsent := 1 } 1)) ∧
    (∀ (num : Nat) (use : CapTo) (high : Bool) (rest : List (Nat × CapTo × Bool)) (r : XeRun), s.xe.returns = (num, use, high) :: rest →
      s.xeRun num = some r → engineQuiet s r.site →
      let got (t : State) (r1 : XeRun) : Prop :=
        t = { s with xe := t.xe } ∧ t.xe.returns = rest ∧ t.xeRun num = some r1 ∧ (∀ k, k ≠ num → t.xeRun k = s.xeRun k) ∧
          ∀ k, t.xePort k = s.xePort k
      (∀ (k : Nat) (pos : Option Nat), use = .store k pos →
        ∃ t, exec .captureBitReturn s = .next t ∧ got t { r with
          outstanding := r.outstanding - 1
          got := (k, high) :: r.got.filter (fun g => decide (r.mark ≤ g.1 + 1))
          bits := (pos.map (fun x => (x, high))).toList ++ r.bits }) ∧
      (use = .wait r.waitNo → r.at_ ≠ 0 → r.ended = none → high = true →
        ∃ t, exec .captureBitReturn s = .next t ∧ got t r.advance) ∧
      (∀ k, use = .wait k → k ≠ r.waitNo → ∃ t, exec .captureBitReturn s = .next t ∧ got t r))

/-! How a burst starts and ends (R83, R144, R148 to R154, R311, R334). -/

/-- Whether nothing of a site's burst is still on its way to a result: its window, its transactions and its acquisition results are empty. -/
def nothingLeft (s : State) (i : Nat) : Prop :=
  (s.site i).spec.window = [] ∧ s.xe.runs = [] ∧
    ∀ p : Fin 512, s.pinOwner p = some i → (s.pin p).acq.items = [] ∧ (s.pin p).acq.open_ = none ∧ (s.pin p).acq.stamping = []

/-- START arms an IDLE site for its start segment: the site is ARMING, the burst takes its number, the fail registers are reset, and the segment is
ACTIVE; a site that is not IDLE refuses with START_BUSY, and a start that is refused otherwise writes a result with end reason ABORT and its detail
(R148, R149). At service level another origin's start is discarded and counted (R334). A site whose lanes are filled becomes ARMED, or its burst starts
at once where its trigger is the arm (R148); a list burst is in XACT from its start (R311).
Each of these commands completes here, on conditions on the state and its operands alone: SEQ_START, LIST_BURST_RUN, SITE_ARMED. -/
def Obligations.BurstsStart : Prop :=
  ∀ (s : State) (i : Fin 16),
    (∀ o : Origin, s.startForeign o i = false → s.idle i = true → s.inService = true →
      let seg := s.get (SITE_START_CFG_START_SEG i)
      (s.startRefusal i (some seg) = none → s.canon = true → ((s.seg i seg).entry.loc = true → s.get (SITE_STR_BUF_SIZE i) ≠ 0) →
        ∃ t, exec (.seqStart o i) s = .next t ∧ t.siteSt i = 1 ∧ (t.site i).bursts = (s.site i).bursts + 1 ∧
          (t.site i).burst.seqNo = (s.site i).bursts ∧ (t.site i).seq.pos = ⟨seg, 0⟩ ∧ (t.site i).lane = [] ∧ (t.site i).spec = SpecState.reset ∧
          (t.seg i seg).state = .active ∧ (∀ k, k ≠ i.val → (t.site k).unmarked = (s.site k).unmarked) ∧
          t.get64 (SITE_CAP_FAILS_LO_FAILS i) (SITE_CAP_FAILS_HI_FAILS i) = 0 ∧
          t.get64 (SITE_CAP_FIRST_LO_FIRST i) (SITE_CAP_FIRST_HI_FIRST i) = 2 ^ 64 - 1 ∧ t.bit (SITE_CAP_STATUS_SUMMARY_FAIL i) = false ∧
          (∀ p : Fin 512, t.get (SITE_PIN_FCNT i p) = 0) ∧
          (s.get PWR_STATUS_DEV_STATE = 2 → t.get PWR_STATUS_DEV_STATE = 3)) ∧
      (∀ d, s.startRefusal i (some seg) = some d → s.get (SITE_RESULT_RING_SIZE i) = 0 → (s.flow i).wait = .none →
        ∃ t, exec (.seqStart o i) s = .next t ∧ t.siteSt i = 0 ∧ t.bit (SITE_SEQ_STATUS_REFUSED i) = true ∧
          (t.site i).bursts = (s.site i).bursts + 1 ∧ bitsOf (t.get (SITE_RESULT_WORD i 0)) 4 3 = 5 ∧ bitsOf (t.get (SITE_RESULT_WORD i 1)) 0 8 = d ∧
          t.events = s.events ++ [⟨0x2002, i.val, 5 + 2 ^ 8 * d, s.tick⟩] ∧ (∀ k, k ≠ i.val → t.site k = s.site k) ∧ t.pins = s.pins ∧ t.mem = s.mem) ∧
      (∀ l : Fin 65536, s.startRefusal i none = none → s.canon = true → s.armHold i = false → s.hotHeld i = false → s.calHeld i = false →
        l.val < s.get (XE_SITE_LIST_COUNT i) →
        ∃ t, exec (.listBurstRun o i l) s = .next t ∧ t.siteSt i = 5 ∧ (t.site i).burst.listBurst = some l.val ∧
          (t.site i).burst.seqNo = (s.site i).bursts ∧ (t.site i).burst.started = true ∧ t.get (XE_SITE_STAT_CUR_LIST i) = l.val ∧
          t.bit (XE_SITE_STAT_ACTIVE i) = true ∧ (t.xeSite i).next = 0 ∧ ∀ k, k ≠ i.val → (t.site k).unmarked = (s.site k).unmarked)) ∧
    (∀ (o : Origin) (l : Fin 65536), s.startForeign o i = false → s.idle i = false →
      ∃ t, exec (.seqStart o i) s = .next t ∧ exec (.listBurstRun o i l) s = .next t ∧ t = { s with regs := t.regs } ∧
        t.bit (SITE_SEQ_STATUS_START_BUSY i) = true ∧ sameRegs [(SITE_SEQ_STATUS_START_BUSY i).addr] s t) ∧
    (∀ (o : Origin) (l : Fin 65536), s.startForeign o i = false → s.idle i = true → s.inService = false →
      exec (.seqStart o i) s = .next s ∧ exec (.listBurstRun o i l) s = .next s) ∧
    (∀ o : Origin, s.startForeign o i = true → (s.flow i).evented.contains 0x8005 = false →
      ∃ t, exec (.seqStart o i) s = .next t ∧ t = { s with regs := t.regs, svc := t.svc, events := s.events ++ [⟨0x8005, i.val, 2 ^ 8 * o.code, s.tick⟩] } ∧
        t.get (SVC_STAT_START_DISCARD i) = min (s.get (SVC_STAT_START_DISCARD i) + 1) (2 ^ (SVC_STAT_START_DISCARD i).len - 1) ∧
        sameRegs [(SVC_STAT_START_DISCARD i).addr] s t) ∧
    (s.siteSt i = 1 → s.armHeld i = false → (s.site i).burst.listBurst = none →
      (s.laneFull i = false → exec (.siteArmed i) s = .next s) ∧
      (s.laneFull i = true → s.startsAtOnce i = false →
        ∃ t, exec (.siteArmed i) s = .next t ∧ t = { s with regs := t.regs, sites := t.sites } ∧ t.siteSt i = 2 ∧
          t.site i = { s.site i with burst := { (s.site i).burst with armedAt := s.now } } ∧ (∀ k, k ≠ i.val → t.site k = s.site k) ∧
          sameRegs [(SITE_SEQ_STATUS_STATE i).addr] s t) ∧
      (s.laneFull i = true → s.startsAtOnce i = true →
        let c0 := if s.coherent i then s.gridAt i (s.site i).burst.period s.now else s.now
        ∃ t, exec (.siteArmed i) s = .next t ∧ t.siteSt i = (if (s.site i).burst.end_.isSome then 6 else 3) ∧ (t.site i).burst.started = true ∧
          (t.site i).burst.epoch = c0 ∧ (t.site i).burst.cycleEnd = c0 ∧ (t.site i).lane = (s.site i).lane ∧ t.get (SITE_FLAGS_FLAG i) = 0 ∧
          (⟨0x2001, i.val, s.cfg i (SITE_START_CFG_START_SEG i), s.tick⟩ : EventRec) ∈ t.events ∧
          (∀ p : Fin 512, s.pinOwner p = some i.val → (t.pin p).idle = false) ∧ (∀ k, k ≠ i.val → t.site k = s.site k) ∧ t.mem = s.mem)) ∧
    (∀ l, s.siteSt i = 1 → s.armHeld i = false → (s.site i).burst.listBurst = some l → s.cfg i (XE_SITE_LIST_COUNT i) ≤ l →
      (s.site i).burst.end_ = none →
      ∃ t, exec (.siteArmed i) s = .next t ∧ t.siteSt i = 6 ∧ (t.site i).burst.end_ = some ⟨.halt, 0x30⟩ ∧ t.bit (XE_SITE_STAT_BAD_LIST i) = true) ∧
    (s.siteSt i ≠ 1 ∨ s.armHeld i = true → exec (.siteArmed i) s = .next s)

/-- ABORT lets a site that has not started return to IDLE, without a result and without using up a burst number; a running burst ends with ABORT at its
next cycle boundary; it has no effect in IDLE and DRAINING. RESUME ends a HOLD that the pins have reached. At the end of a burst each pin applies its
idle state at the end of the last cycle, and once nothing is left the result is written, with event 0x2002, and the site is IDLE (R83, R144, R150 to
R155).
Each of these commands completes here, on conditions on the state and its operands alone: SEQ_ABORT, SEQ_RESUME, HOLD_COUNT_END, IDLE_APPLY,
DRAIN_COMPLETE. -/
def Obligations.BurstsEnd : Prop :=
  ∀ (s : State) (i : Fin 16),
    ((s.siteSt i = 1 ∨ s.siteSt i = 2) → bitOf (s.get CAL_STATUS_PENDING_SITES) i = false →
      ∃ t, exec (.seqAbort i) s = .next t ∧ t.siteSt i = 0 ∧ (t.site i).bursts = (s.site i).burst.seqNo ∧ (t.site i).lane = [] ∧
        (t.site i).seq.blk = none ∧ (t.site i).burst.end_ = none ∧ (∀ k, k ≠ i.val → t.site k = s.site k) ∧ t.pins = s.pins ∧ t.out = s.out) ∧
    (s.running i = true → (s.site i).burst.abort = none →
      ∃ t, exec (.seqAbort i) s = .next t ∧ t = { s with sites := t.sites } ∧ (∀ k, k ≠ i.val → t.site k = s.site k) ∧
        t.site i = { s.site i with burst := { (s.site i).burst with abort := some ⟨.abort, 1⟩ } }) ∧
    (s.siteSt i = 0 ∨ s.siteSt i = 6 → exec (.seqAbort i) s = .next s) ∧
    (∀ rest, (s.site i).lane = .hold none true :: rest →
      ∃ t, exec (.seqResume i) s = .next t ∧ t = { s with sites := t.sites } ∧ (∀ k, k ≠ i.val → t.site k = s.site k) ∧
        t.site i = { s.site i with lane := .hold (some 0) true :: rest }) ∧
    ((∀ rest, (s.site i).lane ≠ .hold none true :: rest) → exec (.seqResume i) s = .next s) ∧
    (∀ b rest, (s.site i).lane = .hold (some 0) b :: rest → s.inBurst i = true →
      ∃ t, exec (.holdCountEnd i) s = .next t ∧ t = { s with now := max s.now (s.site i).burst.cycleEnd, sites := t.sites } ∧
        (∀ k, k ≠ i.val → t.site k = s.site k) ∧ t.site i = { s.site i with lane := rest }) ∧
    (∀ p : Fin 512, s.siteSt i = 6 → (s.site i).laneVecs = 0 → nothingLeft s i → s.pinOwner p = some i.val → (s.pin p).idle = false →
      (s.pin p).edges = [] → (s.pin p).strobes = [] → (s.pin p).clock = none → s.disconnected p = false → (s.pin p).cluster = none →
      let c := (s.site i).burst.cycleEnd
      let d := idleDrive (s.get (PIN_IDLE_DRIVE p)) (s.pin p).drv
      ∃ t, exec (.idleApply i p) s = .next t ∧ t.now = max s.now c ∧ (t.pin p).idle = true ∧ (t.pin p).drv = d ∧ (t.pin p).windows = [] ∧
        (∀ q, q ≠ p.val → t.pin q = s.pin q) ∧ t.sites = s.sites ∧ t.mem = s.mem ∧
        t.out = s.out ++ (if d = (s.pin p).drv then [] else
          [.drive p.val (match (s.pin p).lastDriven with | none => c | some l => max c (l + 600)) d])) ∧
    (∀ e : EndRec, s.siteSt i = 6 → (s.site i).laneVecs = 0 → nothingLeft s i → (s.site i).spec.decisions = [] → (s.site i).spec.returns = [] →
      (s.site i).cap.queue = [] → (∀ p : Fin 512, s.pinOwner p = some i.val → (s.pin p).idle = true) → (s.site i).burst.end_ = some e →
      (s.flow i).wait = .none → bitOf (s.get CAL_STATUS_PENDING_SITES) i = false → s.get (SITE_RESULT_RING_SIZE i) = 0 →
      let r := s.resultOf i e
      ∃ t, exec (.drainComplete i) s = .next t ∧ t.siteSt i = 0 ∧ t.now = max s.now (s.site i).burst.cycleEnd ∧ (t.site i).burst.end_ = none ∧
        (∀ k, k < 16 → t.get (SITE_RESULT_WORD i k) = ((r.words i).getD k 0) % 2 ^ 32) ∧
        (⟨0x2002, i.val, (e.reason.code + 2 ^ 8 * e.detail + 2 ^ 16 * r.taint) % 2 ^ 32, t.tick⟩ : EventRec) ∈ t.events ∧
        (∀ k, k ≠ i.val → t.site k = s.site k) ∧ t.pins = s.pins ∧ t.out = s.out)

/-! Block decode and the opcodes (R133 to R146, R172, R308). -/

/-- What each opcode does once the vectors of its block are issued (R135, R137, R140 to R146): it moves the sequencer to the following block or elsewhere,
changes the loop and call stacks, puts what the pins wait for into the lane, predicts a decision, hands the site to the transaction engine, or ends
the burst. A fault of a block or a stack ends the burst with its ABORT detail (R136, R140, R142). BLOCK_DECODE reads the next block (R134), or carries
out the opcode of the one that is issued.
Each of these commands completes here, on conditions on the state and its operands alone: VEC, RPT, LBEG, LEND, MLOOP, JMP, JC, CALL, RET, NEXT, HOLD,
LVL, RETIME, FRAME, MARK, SYNC, WAITF, XACT, STOP, HALT, BLOCK_DECODE. -/
def Obligations.Opcodes : Prop :=
  ∀ (s : State) (i : Fin 16) (b : Block),
    let u := s.site i
    let q := u.seq
    let at_ (opc : Nat) : Prop := s.issuing i = true ∧ q.blk = some b ∧ b.hdr.opc = opc ∧ s.opReady i b = true
    let more : Prop := (s.nextPos i b.pos b.hdr).off < (s.seg i b.pos.seg).entry.length
    let clear : Prop := u.spec.decisions = [] ∧ u.lane.any LaneItem.waits = false
    let on (t : State) (v : Site) : Prop :=
      t = { s with regs := t.regs, sites := t.sites } ∧ t.site i = v ∧ (∀ k, k ≠ i.val → t.site k = s.site k) ∧ t.siteSt i = s.siteSt i ∧
        sameRegs [(SITE_SEQ_STATUS_STATE i).addr] s t
    let cont (r : SeqState) : SeqState := { r with pos := s.nextPos i b.pos b.hdr, blk := none, reentry := false }
    let jump (r : SeqState) (p : Pos) : SeqState := { r with pos := p, blk := none, reentry := false }
    let ended (t : State) (e : EndRec) : Prop :=
      (clear → t.siteSt i = (if s.running i then 6 else s.siteSt i) ∧ (t.site i).burst.end_ = some e) ∧
        (u.spec.decisions ≠ [] → (t.site i).burst.endPending = some e ∧ t.siteSt i = s.siteSt i) ∧
        (t.site i).seq.blk = none ∧ (t.site i).lane = u.lane ∧ (∀ k, k ≠ i.val → t.site k = s.site k) ∧ t.pins = s.pins ∧ t.mem = s.mem
    let push (x : LaneItem) : Site := { u with lane := u.lane ++ [x], seq := cont q }
    let seg := b.hdr.opnd % 2 ^ 16
    (at_ 0x00 → (more → ∃ t, exec (.vec i) s = .next t ∧ on t { u with seq := cont q }) ∧
      (¬more → ∃ t, exec (.vec i) s = .next t ∧ ended t ⟨.abort, 0x08⟩)) ∧
    (at_ 0x01 → (b.plays + 1 < b.hdr.opnd → ∃ t, exec (.rpt i) s = .next t ∧
        on t { u with seq := { q with blk := some { b with vix := 0, plays := b.plays + 1, firstVec := none, dec := none } } }) ∧
      (b.hdr.opnd ≤ b.plays + 1 → more → ∃ t, exec (.rpt i) s = .next t ∧ on t { u with seq := cont q })) ∧
    (at_ 0x02 → (b.reentry = true → more → ∃ t, exec (.lbeg i) s = .next t ∧ on t { u with seq := cont q }) ∧
      (b.reentry = false → q.loops.length < 8 → more →
        ∃ t, exec (.lbeg i) s = .next t ∧ on t { u with seq := cont { q with loops := ⟨b.pos, max 1 b.hdr.opnd - 1⟩ :: q.loops } } ∧
          t.get (SITE_SEQ_STATUS_LOOP_DEPTH i) = q.loops.length + 1) ∧
      (b.reentry = false → 8 ≤ q.loops.length → ∃ t, exec (.lbeg i) s = .next t ∧ ended t ⟨.abort, 0x0A⟩)) ∧
    (at_ 0x03 → (q.loops = [] → ∃ t, exec (.lend i) s = .next t ∧ ended t ⟨.abort, 0x0B⟩) ∧
      ∀ l r, q.loops = l :: r →
        (l.left ≠ 0 → ∃ t, exec (.lend i) s = .next t ∧
          on t { u with seq := { q with loops := { l with left := l.left - 1 } :: r, pos := l.pos, blk := none, reentry := true } }) ∧
        (l.left = 0 → more → u.str.cache.head ≠ some l.pos → l.pos.seg = b.pos.seg →
          ∃ t, exec (.lend i) s = .next t ∧ on t { u with seq := cont (q.closeLoop r) })) ∧
    (at_ 0x04 → let last := b.plays + 1 = b.hdr.limit
      let again : SeqState := { q with blk := some { b with vix := 0, plays := b.plays + 1, firstVec := none, dec := none } }
      (b.hdr.cond = 6 → ¬last → s.counterZero i b.hdr = false → ∃ t, exec (.mloop i) s = .next t ∧ on t { u with seq := again }) ∧
      (b.hdr.cond = 6 → more → s.counterZero i b.hdr = true → u.spec.window = [] → ∃ t, exec (.mloop i) s = .next t ∧ on t { u with seq := cont q }) ∧
      (∀ d, b.hdr.cond ≠ 6 → more → b.dec = some d → (last → bitOf b.hdr.opnd 29 = true) →
        ∃ t, exec (.mloop i) s = .next t ∧ on t { u with
          seq := if last then cont q else again
          spec := { u.spec with decisions := u.spec.decisions.map (fun x => if x.id = d then
            { x with lastVec := some (2 ^ 25 * (u.spec.nextVec - 1)), predTaken := false, alt := some (.go (cont q)) } else x) } }) ∧
      (b.hdr.cond = 6 → last → bitOf b.hdr.opnd 29 = false → s.counterZero i b.hdr = false →
        ∃ t, exec (.mloop i) s = .next t ∧ ended t ⟨.halt, 0x12⟩)) ∧
    (at_ 0x05 → (b.hdr.opnd < (s.seg i b.pos.seg).entry.length → s.blockStart i b.pos.seg b.hdr.opnd (b.hdr.opnd + 1) 0 = true →
        ∃ t, exec (.jmp i) s = .next t ∧ on t { u with seq := jump q ⟨b.pos.seg, b.hdr.opnd⟩ }) ∧
      ((s.seg i b.pos.seg).entry.length ≤ b.hdr.opnd → ∃ t, exec (.jmp i) s = .next t ∧ ended t ⟨.abort, 0x07⟩)) ∧
    (at_ 0x06 → more → b.hdr.opnd < (s.seg i b.pos.seg).entry.length → s.blockStart i b.pos.seg b.hdr.opnd (b.hdr.opnd + 1) 0 = true →
      let yes := jump q ⟨b.pos.seg, b.hdr.opnd⟩
      (b.hdr.cond = 6 → ∃ t, exec (.jc i) s = .next t ∧ on t { u with seq := if s.counterZero i b.hdr then yes else cont q }) ∧
      (∀ d, b.hdr.cond ≠ 6 → b.dec = some d →
        ∃ t, exec (.jc i) s = .next t ∧ on t { u with
          seq := if b.hdr.hint then yes else cont q
          spec := { u.spec with decisions := u.spec.decisions.map (fun x => if x.id = d then
            { x with
              lastVec := some (2 ^ 25 * (u.spec.nextVec - 1))
              predTaken := b.hdr.hint
              alt := some (.go (if b.hdr.hint then cont q else yes)) } else x) } })) ∧
    (at_ 0x07 → (8 ≤ q.calls.length → ∃ t, exec (.call i) s = .next t ∧ ended t ⟨.abort, 0x09⟩) ∧
      (q.calls.length < 8 → s.segInRange i seg = false → ∃ t, exec (.call i) s = .next t ∧ ended t ⟨.abort, 0x04⟩) ∧
      let calls := ⟨s.nextPos i b.pos b.hdr, q.loops.length⟩ :: q.calls
      (q.calls.length < 8 → s.segInRange i seg = true → (s.seg i seg).state = .inactive →
        ∃ t, exec (.call i) s = .next t ∧ on t { u with seq := { q with calls := calls, blk := none, waitSeg := some (seg, b.hdr.pause, true) } }) ∧
      (q.calls.length < 8 → s.segInRange i seg = true → (s.seg i seg).state = .active → (s.seg i seg).entry.loc = false →
        s.segPlayable i seg = true → ∃ t, exec (.call i) s = .next t ∧ on t { u with seq := jump { q with calls := calls } ⟨seg, 0⟩ } ∧
          t.get (SITE_SEQ_STATUS_CALL_DEPTH i) = q.calls.length + 1)) ∧
    (at_ 0x08 → (q.calls = [] → ∃ t, exec (.ret i) s = .next t ∧ ended t ⟨.abort, 0x0C⟩) ∧
      ∀ c r, q.calls = c :: r → q.loops.length ≤ c.loops → c.ret.off < (s.seg i c.ret.seg).entry.length → c.ret.seg = b.pos.seg →
        ∃ t, exec (.ret i) s = .next t ∧ on t { u with seq := jump { q with calls := r } c.ret }) ∧
    (at_ 0x0A → s.segInRange i seg = true →
      ((s.seg i seg).state = .inactive → ∃ t, exec (.next i) s = .next t ∧
        on t { u with seq := { q with blk := none, waitSeg := some (seg, b.hdr.pause, false) } }) ∧
      ((s.seg i seg).state = .active → (s.seg i seg).entry.loc = false → s.segPlayable i seg = true → q.pos.seg = seg →
        ∃ t, exec (.next i) s = .next t ∧ on t { u with seq := jump q ⟨seg, 0⟩ }) ∧
      ((s.seg i seg).state = .active → (s.seg i seg).entry.loc = false → s.segPlayable i seg = true → q.pos.seg ≠ seg →
        (s.seg i q.pos.seg).state = .active → q.calls = [] → q.loops = [] → u.spec.decisions = [] → u.spec.leaves = [] →
        ∃ t, exec (.next i) s = .next t ∧ (t.site i).seq = jump q ⟨seg, 0⟩ ∧ (t.seg i seg).state = .active ∧
          (t.seg i q.pos.seg).state = (if (s.seg i q.pos.seg).entry.retire then .inactive else .queued) ∧ (t.site i).lane = u.lane ∧
          (∀ k, k ≠ i.val → t.site k = s.site k) ∧ t.pins = s.pins)) ∧
    (more →
      (at_ 0x09 → ∃ t, exec (.hold i) s = .next t ∧ on t (push (.hold (if b.hdr.opnd = 0 then none else some b.hdr.opnd) false))) ∧
      (at_ 0x0B → ∃ t, exec (.lvl i) s = .next t ∧ on t (push (.lvl (b.hdr.opnd % 8)))) ∧
      (at_ 0x0C → ∃ t, exec (.retime i) s = .next t ∧ on t (push (.retime (b.hdr.opnd % 64) (s.tsp i (b.hdr.opnd % 64))))) ∧
      (at_ 0x0D → (s.seg i b.pos.seg).entry.loc = false →
        (u.burst.started = false ∨ s.get (SITE_STR_STATUS_STATE i) = 1 ∧ 1024 * u.str.low ≤ u.str.level) →
        ∃ t x, exec (.frame i) s = .next t ∧ x = LaneItem.frame (b.hdr.opnd % 4) (b.hdr.opnd / 4 % 2 ^ 24) (s.makeVec i b none) 0 none none ∧
          (t.site i).lane = u.lane ++ [x] ∧ (t.site i).seq = cont { q with last := lastAfter q.last (s.makeVec i b none).words, lastPos := some b.pos } ∧
          (t.site i).spec.nextVec = u.spec.nextVec + 1 ∧ t.siteSt i = s.siteSt i ∧ (∀ k, k ≠ i.val → t.site k = s.site k) ∧
          t = { s with regs := t.regs, sites := t.sites, pwr := { s.pwr with fed := t.pwr.fed } } ∧ sameRegs [(SITE_SEQ_STATUS_STATE i).addr] s t) ∧
      (at_ 0x0E → ∃ t, exec (.mark i) s = .next t ∧ on t { u with seq := cont q }) ∧
      (at_ 0x0F → ∃ t, exec (.sync i) s = .next t ∧ on t (push (.sync none none))) ∧
      (at_ 0x10 → ∃ t, exec (.waitf i) s = .next t ∧ on t (push (.waitf (b.hdr.opnd % 4) none none)))) ∧
    (at_ 0x11 →
      (s.level i = 0 → ∃ t, exec (.xact i) s = .next t ∧ ended t ⟨.halt, 0x11⟩) ∧
      (s.level i ≠ 0 → s.cfg i (XE_SITE_LIST_COUNT i) ≤ seg → ∃ t, exec (.xact i) s = .next t ∧ ended t ⟨.halt, 0x30⟩ ∧
        t.bit (XE_SITE_STAT_BAD_LIST i) = true) ∧
      (let e := s.cfg i (XE_SITE_LIST_BASE i) / 8 * 8 + 8 * seg;
        s.level i ≠ 0 → seg < s.cfg i (XE_SITE_LIST_COUNT i) → commitsNothing s i → bitsOf (s.ocmAt (e + 4)) 0 16 ≠ 0 →
        ∃ t, exec (.xact i) s = .next t ∧ t.siteSt i = 5 ∧ t.get (XE_SITE_STAT_CUR_LIST i) = seg ∧ t.bit (XE_SITE_STAT_ACTIVE i) = true ∧
          (t.xeSite i).addr = s.ocmAt e ∧ (t.xeSite i).count = bitsOf (s.ocmAt (e + 4)) 0 16 ∧ (t.xeSite i).next = 0 ∧
          t.site i = { u with spec := { u.spec with restart := .handOver, restartPause := none } } ∧ ∀ k, k ≠ i.val → t.site k = s.site k)) ∧
    (at_ 0x12 → ∃ t, exec (.stop i) s = .next t ∧ ended t ⟨.stop, 0⟩) ∧
    (at_ 0x13 → ∃ t, exec (.halt i) s = .next t ∧ ended t ⟨.halt, 0x10⟩) ∧
    (∀ ecc, s.get (SITE_STR_STATUS_STATE i) ≠ 3 →
      (at_ 0x00 → exec (.blockDecode i ecc) s = exec (.vec i) s) ∧ (at_ 0x05 → exec (.blockDecode i ecc) s = exec (.jmp i) s) ∧
      (at_ 0x12 → exec (.blockDecode i ecc) s = exec (.stop i) s)) ∧
    (let p := q.pos;
      let h := s.headerAt i p;
      s.get (SITE_STR_STATUS_STATE i) ≠ 3 → s.issuing i = true → q.blk = none → q.waitSeg = none → s.fenceWaits i = false →
      s.segReadable i p.seg (8 * p.off) 8 = true → (s.seg i p.seg).entry.loc = false → s.segWordBad i p.seg (8 * p.off) = false →
      s.segWordBad i p.seg (8 * p.off + 4) = false →
      (0x14 ≤ h.opc → ∃ t, exec (.blockDecode i .ok) s = .next t ∧ ended t ⟨.abort, 0x05⟩) ∧
      (s.headerFault i p h = none → h.opc ≠ 0x07 → h.opc ≠ 0x0A →
        ∃ t, exec (.blockDecode i .ok) s = .next t ∧
          (t.site i).seq = { q with blk := some ⟨h, p, 0, 0, s.tsp i h.ts, q.reentry, none, none⟩, reentry := false } ∧
          t.get (SITE_POS_SEG i) = p.seg % 2 ^ 16 ∧ t.get (SITE_POS_OFF_OFFSET i) = p.off % 2 ^ 30 ∧ (t.site i).lane = u.lane ∧
          t = { s with regs := t.regs, sites := t.sites } ∧ (∀ k, k ≠ i.val → t.site k = s.site k) ∧
          sameRegs [(SITE_POS_SEG i).addr, (SITE_POS_OFF_OFFSET i).addr] s t))

/-! What the pins play and what comes back (R69, R73 to R81, R144, R168 to R174, R205, R219, R231). -/

/-- The next vector of the block being issued goes to the lanes and the Transit window (R168), and during XACT the engine's (R317). A cycle boundary
starts the vector at the front of the lane and places the edges of its symbols (R69), plays a hold vector (R144), takes an ABORT (R150), or finds the
lane empty: UNDERRUN (R205). A drive-side edge changes the driver, those within 150 ps as one (R77 to R79); a clock toggles (R48); a strobe samples the
flags (R81), its results return (R169), and a decision resolves as predicted, or against its prediction, with every later vector an overrun vector
(R173, R174). The writer puts the oldest fail record into the ring (R231). That a site shows HOLDING from the
first hold vector to the next vector is the model's reading of log 90.
Each of these commands completes here, on conditions on the state and its operands alone: VECTOR_ISSUE, VECTOR_CYCLE, DRIVE_EDGE, CLOCK_TOGGLE,
STROBE_SAMPLE, RESULT_RETURN, DECISION_RESOLVE, FAIL_LOG_WRITE. -/
def Obligations.VectorsPlay : Prop :=
  ∀ (s : State) (i : Fin 16),
    let u := s.site i
    let c := u.burst.cycleEnd
    let steady : Prop := u.burst.started = false ∨ (s.get (SITE_STR_STATUS_STATE i) = 1 ∧ 1024 * u.str.low ≤ u.str.level)
    let others (t : State) : Prop := ∀ k, k ≠ i.val → t.site k = s.site k
    let issued (t : State) : Prop := t = { s with regs := t.regs, sites := t.sites, pwr := { s.pwr with fed := t.pwr.fed } }
    (∀ b : Block, s.siteSt i ≠ 5 → s.get (SITE_STR_STATUS_STATE i) ≠ 3 → s.issuing i = true → u.seq.blk = some b → b.vix < b.own →
      u.laneVecs < s.lead i → s.stopWhy i = .free → (s.seg i b.pos.seg).entry.loc = false → b.hdr.decides = false → steady →
      s.segReadable i b.pos.seg (8 * b.pos.off + 8 + 4 * maskCount (s.seg i b.pos.seg).entry.gmask * b.vix)
        (4 * maskCount (s.seg i b.pos.seg).entry.gmask) = true →
      (s.makeVec i b b.dec).words.all (fun w => w.bad.isNone) = true →
      let v := s.makeVec i b b.dec
      ∃ t, exec (.vectorIssue i .ok) s = .next t ∧ issued t ∧ others t ∧
        (t.site i).lane = u.lane ++ [.vec v] ∧ (t.site i).spec.window = u.spec.window ++ [WinEntry.of v] ∧
        (t.site i).spec.nextVec = u.spec.nextVec + 1 ∧ (t.site i).seq = { u.seq with
          blk := some { b with vix := b.vix + 1, firstVec := some (b.firstVec.getD v.id) }
          last := lastAfter u.seq.last v.words
          lastPos := some b.pos } ∧ sameRegs [(SITE_SPEC_STAT_OCCUPANCY i).addr] s t) ∧
    (s.siteSt i = 5 → u.burst.end_ = none → u.laneVecs < s.lead i → s.get (SITE_STR_STATUS_STATE i) ≠ 3 → u.occupancy < 2048 → steady →
      (∀ n, n < 128 → s.portOf n i = true → s.portRunning n = false) → (s.xeSite i).next < (s.xeSite i).count → (s.xeSite i).stop = false →
      ∃ t v, exec (.vectorIssue i .ok) s = .next t ∧ issued t ∧ others t ∧
        (t.site i).lane = u.lane ++ [.vec v] ∧ v.ts = s.cfg i (XE_SITE_TS_PARK_TS i) ∧ v.caps = [] ∧
        v.words = s.xeWords i [] ((s.sitePorts i).filter (fun n => (s.xePort n).usable)) ∧ (t.site i).spec.nextVec = u.spec.nextVec + 1) ∧
    (s.inBurst i = true → u.burst.started = true → u.burst.endPending = none → commitsNothing s i →
      (∀ (v : Vec) (rest : List LaneItem), u.burst.abort = none → u.lane = .vec v :: rest →
        (∀ e tail, u.spec.window = e :: tail → e.vec.id ≠ v.id) →
        let per := if s.coherent i then u.burst.period else v.period
        ∃ t, exec (.vectorCycle i) s = .next t ∧ t.now = max s.now c ∧ (t.site i).lane = rest ∧ (t.site i).burst.cycleEnd = c + per ∧ others t ∧
          (v.words.all (fun w => w.bad.isNone) = true → t.mem = s.mem ∧ t.out = s.out) ∧ t.siteSt i = (if s.siteSt i = 4 then 3 else s.siteSt i) ∧
          (∀ e ∈ (t.site i).spec.window, e.vec.id = v.id → e.started = some (c, per)) ∧
          (u.burst.undef = false → v.words.Pairwise (fun a b => a.group ≠ b.group) →
            ∀ (p : Fin 512) (w : GroupWord), w ∈ v.words → p.val / 8 = w.group → (s.pin p).clock = none →
              let es := entryEdges (s.entryOf p v.ts (symOf (s.wordSyms i w) (p.val % 8)))
              (∀ e ∈ es, s.get (PIN_TS_E_TIME p v.ts e.1) < 2 * per) →
              (t.pin p).edges = (s.pin p).edges ++
                es.map (fun e => ⟨placeAt c (s.get (PIN_TS_E_TIME p v.ts e.1)) (s.deskew p), v.id, e.1, e.2⟩))) ∧
      (∀ (n : Nat) (g : Bool) (rest : List LaneItem), u.burst.abort = none → u.burst.end_ = none → u.lane = .hold (some (n + 1)) g :: rest →
        ∃ t, exec (.vectorCycle i) s = .next t ∧ t.now = max s.now c ∧ (t.site i).lane = .hold (some n) true :: rest ∧ others t ∧ t.mem = s.mem ∧
          (t.site i).burst.cycleEnd = c + s.holdPeriod i ∧ (t.site i).burst.holds = u.burst.holds + 1 ∧
          (t.site i).burst.holdTime = u.burst.holdTime + s.holdPeriod i ∧ t.siteSt i = (if s.siteSt i = 3 then 4 else s.siteSt i)) ∧
      (∀ e, u.burst.abort = some e → u.lane = [] → u.burst.end_ = none → s.running i = true →
        ∃ t, exec (.vectorCycle i) s = .next t ∧ t.now = max s.now c ∧ t.siteSt i = 6 ∧ (t.site i).burst.end_ = some e ∧ others t ∧ t.pins = s.pins) ∧
      (u.burst.abort = none → u.lane = [] → u.burst.end_ = none → s.running i = true → s.stopWhy i = .free → u.spec.restart = .free →
        s.xactWaits i = false → ∃ t, exec (.vectorCycle i) s = .next t ∧ t.now = max s.now c ∧ t.siteSt i = 6 ∧ (t.site i).burst.end_ = some ⟨.underrun, 0⟩ ∧ others t ∧
          t.events = s.events ++ [⟨0x3003, i.val, u.str.level / 1024 % 2 ^ 32, t.tick⟩] ∧ t.pins = s.pins)) ∧
    (∀ (p : Fin 512) (x : Nat), s.disconnected p = false → firstEdge (s.pin p).edges = some x → x < s.edgeLimit p →
      (∀ e ∈ (s.pin p).edges, e.vec ∉ (s.pin p).undefVecs) →
      let q := s.pin p
      let d := applyEdges q.drv (q.edges.filter (fun e => decide (e.pos = x)))
      let rest := q.edges.filter (fun e => decide (e.pos ≠ x))
      let only (t : State) (r : Pin) : Prop := t.now = max s.now x ∧ t.pin p = r ∧ (∀ k, k ≠ p.val → t.pin k = s.pin k) ∧ t.sites = s.sites ∧ t.mem = s.mem
      (q.cluster = none →
        ∃ t, exec (.driveEdge p) s = .next t ∧ t.out = s.out ∧ t.regs = s.regs ∧
          only t (if d = q.drv then { q with edges := rest } else { q with edges := rest, drv := d, cluster := some ⟨x, q.drv, d, s.levelCodes p, q.lastLevel⟩ })) ∧
      (∀ k, q.cluster = some k → x < k.start + 600 →
        ∃ t, exec (.driveEdge p) s = .next t ∧ t.out = s.out ∧ t.bit (PIN_TSTAT_MERGED p) = true ∧
          t.get (PIN_MERGE_COUNT p) = min (s.get (PIN_MERGE_COUNT p) + 1) (2 ^ 32 - 1) ∧
          only t { q with edges := rest, drv := d, cluster := some { k with state := d } }) ∧
      (∀ k, q.cluster = some k → k.start + 600 ≤ x → k.state ≠ k.before →
        ∃ t, exec (.driveEdge p) s = .next t ∧ t.out = s.out ++ [.drive p.val k.start k.state] ∧ (t.pin p).drv = d ∧ (t.pin p).edges = rest ∧
          t.now = max s.now x ∧ (t.pin p).cluster.map (fun y => (y.start, y.before, y.state)) = (if d = q.drv then none else some (x, q.drv, d)) ∧ ∀ j, j ≠ p.val → t.pin j = s.pin j)) ∧
    (∀ (p : Fin 512) (r : ClockRun), s.pinOwner p = some i.val → s.inBurst i = true → (s.pin p).clock = some r → r.changes = [] → (∀ k, (s.pin p).cluster = some k → k.state = k.before) →
      let m := s.get (PIN_CLK_CFG_MUL p) + 1
      let d := s.get (PIN_CLK_CFG_DIV p) + 1
      let pos := (togglePos r m d r.next).toNat
      let high := decide (r.next % 2 = 0)
      pos < c → 1200 * d ≤ r.period * m →
      (high ≠ r.high → s.disconnected p = false → (∀ l, (s.pin p).lastDriven = some l → l + 560 ≤ pos) →
        ∃ t, exec (.clockToggle p) s = .next t ∧ t.now = max s.now pos ∧ (t.pin p).clock = some { r with next := r.next + 1, high := high } ∧
          (t.pin p).drv = ⟨true, if high then .high else .low⟩ ∧ t.out = s.out ++ [.drive p.val pos ⟨true, if high then .high else .low⟩] ∧
          (∀ k, k ≠ p.val → t.pin k = s.pin k) ∧ t.sites = s.sites) ∧
      (high = r.high → ∃ t, exec (.clockToggle p) s = .next t ∧ t = { s with now := max s.now pos, pins := t.pins } ∧
        t.pin p = { s.pin p with clock := some { r with next := r.next + 1 } } ∧ ∀ k, k ≠ p.val → t.pin k = s.pin k)) ∧
    (∀ (p : Fin 512) (x : Strobe), s.pinOwner p = some i.val → firstStrobe (s.pin p).strobes = some x → x.pos < s.edgeLimit p →
      s.disconnected p = false → x.vec ∉ (s.pin p).undefVecs →
      let q := s.pin p
      let ok := passes x.expect q.lowFlag q.highFlag
      let taken : Pin := { q with strobes := q.strobes.erase x, lastStrobe := some (x.pos, x.vec) }
      let gives (t : State) (r : Pin) (num : Nat) (fail : Bool) : Prop :=
        t = { s with now := max s.now x.pos, pins := t.pins, sites := t.sites } ∧ t.pin p = r ∧ (∀ k, k ≠ p.val → t.pin k = s.pin k) ∧ others t ∧
          t.site i = { u with spec := { u.spec with returns := u.spec.returns ++ [⟨p.val, x.vec, num, x.pos, fail, q.highFlag, false⟩] } }
      (x.kind = .edge → ∃ t, exec (.strobeSample p) s = .next t ∧ gives t taken x.num (!ok)) ∧
      (x.kind = .windowOpen → ∃ t, exec (.strobeSample p) s = .next t ∧ t = { s with now := max s.now x.pos, pins := t.pins } ∧
        t.pin p = { taken with windows := q.windows ++ [⟨x.vec, x.expect, !ok⟩] } ∧ ∀ k, k ≠ p.val → t.pin k = s.pin k) ∧
      (∀ w, x.kind = .windowClose → q.windows.find? (fun w => decide (w.vec = x.vec)) = some w →
        ∃ t, exec (.strobeSample p) s = .next t ∧ gives t { taken with windows := q.windows.filter (fun w => decide (w.vec ≠ x.vec)) } 0 (w.failed || !ok)) ∧
      (∀ num use, x.kind = .capture num use →
        ∃ t, exec (.strobeSample p) s = .next t ∧ t = { s with now := max s.now x.pos, pins := t.pins, xe := t.xe } ∧
          t.xe = { s.xe with returns := s.xe.returns ++ [(num, use, q.highFlag)] })) ∧
    (∀ (r : StrobeResult) (parity : Bool), u.spec.returns.find? (fun r => s.groupSampled (r.pin / 8) r.vec) = some r → commitsNothing s i →
      (∀ e tail, u.spec.window = e :: tail → e.vec.id ≠ r.vec) →
      let mine (x : StrobeResult) : Bool := decide (x.pin / 8 = r.pin / 8) && decide (x.vec = r.vec)
      let rs := (u.spec.returns.filter mine).map (fun x => { x with fail := x.fail || parity })
      let fails := rs.filter (fun x => x.fail && !s.masked i x.pin)
      ∃ t, exec (.resultReturn i parity) s = .next t ∧ t = { s with sites := t.sites, events := t.events } ∧ others t ∧
        (t.site i).spec.returns = u.spec.returns.filter (fun x => !mine x) ∧
        (t.site i).spec.window = u.spec.window.map (fun e => if e.vec.id = r.vec then
          { e with
            pending := e.pending - rs.length
            fails := e.fails ++ fails.map (fun x => (x.pin, x.num))
            trip := e.trip || fails.any (fun x => x.trip) } else e) ∧
        (parity = false → t.events = s.events) ∧ (parity = true → s.inBurst i = true → bitOf (t.site i).burst.taint taintFrontend = true)) ∧
    (∀ (d : Decision) (ds : List Decision) (last : Nat), u.spec.decisions = d :: ds → s.decisionKnown i d = true → d.lastVec = some last →
      commitsNothing s i → (∀ e tail, u.spec.window = e :: tail → e.vec.id ≤ last) → u.spec.leaves = [] → u.burst.end_ = none →
      let n := min 4095 (u.spec.nextVec - last / 2 ^ 25 - 1)
      let counted (t : State) : Prop :=
        t.now = max s.now (s.decisionAt d) ∧ t.get (SITE_SPEC_DL_LAST i) = n ∧ t.get (SITE_SPEC_DL_MAX i) = max n (s.get (SITE_SPEC_DL_MAX i)) ∧
          t.get (SITE_SPEC_DECISIONS_COUNT i) = min (s.get (SITE_SPEC_DECISIONS_COUNT i) + 1) (2 ^ 32 - 1) ∧ others t
      ((s.at_ (s.decisionAt d)).outcome i d = d.predTaken → u.burst.endPending = none → d.mloop = false →
        ∃ t, exec (.decisionResolve i) s = .next t ∧ counted t ∧ (t.site i).spec.decisions = ds ∧ (t.site i).seq = u.seq ∧ (t.site i).lane = u.lane ∧
          (t.site i).spec.window = u.spec.window) ∧
      (∀ q, (s.at_ (s.decisionAt d)).outcome i d ≠ d.predTaken → d.alt = some (.go q) → d.fenced = false → d.mloop = false →
        ∃ t, exec (.decisionResolve i) s = .next t ∧ counted t ∧ (t.site i).spec.decisions = [] ∧ (t.site i).seq = q ∧
          (t.site i).lane = dropHolds u.lane ∧ (t.site i).spec.window = u.spec.window.filter (fun e => decide (e.vec.id ≤ last)) ∧
          t.get (SITE_SPEC_MISPRED_COUNT i) = min (s.get (SITE_SPEC_MISPRED_COUNT i) + 1) (2 ^ 32 - 1) ∧
          (t.site i).spec.ovrTotal = min (u.spec.ovrTotal + (u.spec.window.filter (fun e => decide (last < e.vec.id))).length) (2 ^ 32 - 1))) ∧
    (∀ (r : LogRec) (rest : List LogRec) (x : Nat), u.cap.queue = r :: rest → commitsNothing s i → memPlain s → s.cfg i (SITE_FLOG_CFG_MODE i) = 1 →
      u.cap.closed = false → s.region (s.flogBase i) = .ocm (4 * x) → s.rangeServed (.ocm (4 * x)) (s.flogSize i) = .ok →
      4 * x + s.flogSize i ≤ 0x3C00000 → r.bytes.length % 4 = 0 → s.flogLimit i = false → r.bytes.length + s.flogUsed i ≤ s.flogSize i →
      let h := s.get (SITE_FLOG_HEAD i)
      h % 4 = 0 → h + r.bytes.length ≤ s.flogSize i → r.bytes ≠ [] →
      ∃ t, exec (.failLogWrite i) s = .next t ∧ t = { s with regs := t.regs, mem := t.mem, sites := t.sites } ∧
        (∀ k, k ≠ i.val → (t.site k).unmarked = (s.site k).unmarked) ∧
        (t.site i).unmarked = { u with cap := { u.cap with queue := rest, owed := false } }.unmarked ∧ t.get (SITE_FLOG_HEAD i) = (h + r.bytes.length) % s.flogSize i ∧
        t.get (SITE_FLOG_COUNT i) = min (s.get (SITE_FLOG_COUNT i) + 1) (2 ^ 32 - 1) ∧ sameRegs [(SITE_FLOG_HEAD i).addr, (SITE_FLOG_COUNT i).addr] s t ∧
        ∀ y, y < 0x4000000 →
          t.ocmByte y = if 4 * x + h ≤ y ∧ y < 4 * x + h + r.bytes.length then
            (r.withGap (r.gap || u.cap.owed)).getD (y - (4 * x + h)) 0 else s.ocmByte y)

/-! Flows of service-level sites, their handlers, and the datalog (R333 to R349, R354). -/

/-- Whether the next step of a flow runs now: it is at a step boundary with no handler pending, and the step stands whole in on-chip memory at
offset x and is of a kind. -/
def flowAtStep (s : State) (i x k : Nat) : Prop :=
  s.flowReady i = true ∧ (s.flow i).step < min 1024 (s.svcCfg i 2 (SVC_FLOW_COUNT i)) ∧ memPlain s ∧ s.region (s.flowAt i) = .ocm x ∧
    s.rangeServed (.ocm x) 32 = .ok ∧ bitsOf (s.flowWord i 0) 0 4 = k

/-- What a step boundary leaves of a flow: it goes on at a step, or a STOP that came ends the run (R335). -/
def flowBoundary (t : State) (i : Nat) (g : FlowState) (k : Nat) : Prop :=
  t.get (SVC_STAT_STATE i) = (if g.stop then 0 else if g.ret.isSome then 3 else 1) ∧ (g.stop = false → t.get (SVC_STAT_STEP i) = k % 1024) ∧
    t.flow i = if g.stop then
        { g with
          wait := .none
          ret := none
          queue := []
          stop := false
          aborted := false
          stall := none }
      else
        { g with
          step := k
          wait := .none
          stall := none
          aborted := false }

/-- Nothing but a flow and some registers has changed. -/
def flowOnly (l : List Nat) (s t : State) (i : Nat) : Prop :=
  t = { s with regs := t.regs, svc := t.svc } ∧ t.svc = { s.svc with flows := t.svc.flows } ∧ (∀ k, k ≠ i → t.flow k = s.flow k) ∧ sameRegs l s t

/-- Whether the datalog ring of a site, in on-chip memory from offset y on, takes one more record into its open batch without closing it, at n records
a batch. -/
def ringRoom (s : State) (i y n : Nat) : Prop :=
  memPlain s ∧ s.region (s.dlogBase i) = .ocm y ∧ y + s.dlogSize i ≤ 0x3C00000 ∧ s.ringPlaced (s.dlogBase i) (s.dlogSize i) = true ∧
    s.rangeServed (.ocm y) (s.dlogSize i) = .ok ∧ (s.dlog i).header.isSome = true ∧ 32 ≤ s.dlogFree i ∧ (s.dlog i).wpos % 4 = 0 ∧
    (s.dlog i).wpos + 32 ≤ s.dlogSize i ∧ (s.dlog i).recs.length / 32 + 1 < max 1 n

/-- The same at the batch size of the run. -/
def ringOpen (s : State) (i y : Nat) : Prop := ringRoom s i y (s.dlogCfg i (SVC_DLOG_CFG_BATCH i))

/-- A record put into the open batch: its 32 bytes stand in the ring, and every other byte of on-chip memory is as before (R347). Only the mark of a site
that is using one of those bytes can change (R131). -/
def recordPut (s t : State) (i y : Nat) (r : DlogRec) : Prop :=
  let d := s.dlog i
  let w := (d.wpos + 32) % s.dlogSize i
  (t.dlog i = { d with
      wpos := w
      full := decide (w = s.get (SVC_DLOG_TAIL i))
      recs := d.recs ++ t.dlogBytes i r
      last := s.tick }) ∧
    (∀ k, k ≠ i → t.dlog k = s.dlog k ∧ t.flow k = s.flow k) ∧ t.svc.jobs = s.svc.jobs ∧ sameSites s t ∧
    ∀ z, z < 0x4000000 →
      t.ocmByte z = if y + d.wpos ≤ z ∧ z < y + d.wpos + 32 then (t.dlogBytes i r).getD (z - (y + d.wpos)) 0 else s.ocmByte z

/-- A step of a flow does what its kind says and the run goes on at the next step, or where a JUMP goes (R338). CALC computes in s64 with saturation,
and its result is valid only if every operand is (R338); LIMIT passes a valid value within its enabled bounds, and a fail with FBIN_EN sets the run's bin
(R340); BIN with FORCE = 0 sets the run's bin only while it is unset, and with FORCE = 1 in every case (R341); MEAS reads one value and its validity
(R339); WAIT ends with C = 1 when what it waits for comes, and with C = 0 at its timeout; HRET resumes after the interrupted step (R345). A step of a
reserved kind, or past the table, or an HRET outside a handler ends the run in FAULT, with its record and event 0x8003 (R336).
Each of these commands completes here, on conditions on the state and its operands alone: FLOW_CALC, FLOW_LIMIT, FLOW_BIN, FLOW_JUMP, FLOW_WAIT,
FLOW_WAIT_DONE, FLOW_MEAS, FLOW_WRITE, FLOW_HRET. -/
def Obligations.FlowSteps : Prop :=
  ∀ (s : State) (i : Fin 16) (x : Nat),
    let f := s.flow i
    let w0 := s.flowWord i 0
    let w1 := s.flowWord i 1
    let stat := (SVC_STAT_STATE i).addr
    let vd := bitsOf w0 4 4
    let va := bitsOf w0 8 4
    let vb := bitsOf w0 12 4
    let put (t : State) (v : Int) (ok : Bool) : Prop :=
      t.var i vd = clampInt (-(2 ^ 63)) (2 ^ 63 - 1) v ∧ t.varOk i vd = ok ∧ (∀ k, k < 16 → k ≠ vd → t.varOk i k = s.varOk i k) ∧
        t.bit (SVC_STAT_C i) = s.bit (SVC_STAT_C i) ∧ flowBoundary t i f (f.step + 1)
    let varRegs : List Nat := [stat, (SVC_V_LO_VALUE i vd).addr, (SVC_V_HI_VALUE i vd).addr, (SVC_VALID i vd).addr]
    let faults (t : State) (y : Nat) : Prop :=
      t = { s with regs := t.regs, mem := t.mem, svc := t.svc, sites := t.sites, events := s.events ++ [⟨0x8003, i.val, f.step % 2 ^ 32, s.tick⟩] } ∧
        t.get (SVC_STAT_STATE i) = 5 ∧ (t.flow i).wait = .none ∧ (t.flow i).ret = none ∧ (t.flow i).queue = [] ∧ (t.flow i).bin = f.bin ∧ sameRegs [stat] s t ∧
        recordPut s t i y ⟨0x07, false, false, false, false, f.step, 0, 0⟩
    (flowAtStep s i x 0x4 →
      (∀ v ok, ((bitsOf w1 0 3 = 0 ∧ v = s.flowLong i 2 ∧ ok = true) ∨
          (bitsOf w1 0 3 = 1 ∧ v = s.var i va + s.var i vb ∧ ok = (s.varOk i va && s.varOk i vb)) ∨
          (bitsOf w1 0 3 = 2 ∧ v = s.var i va - s.var i vb ∧ ok = (s.varOk i va && s.varOk i vb)) ∨
          (bitsOf w1 0 3 = 3 ∧ v = s.var i va * s.var i vb ∧ ok = (s.varOk i va && s.varOk i vb)) ∨
          (bitsOf w1 0 3 = 4 ∧ v = s.var i va / 2 ^ bitsOf w1 8 6 ∧ ok = s.varOk i va) ∨
          (bitsOf w1 0 3 = 5 ∧ v = s.var i va ∧ ok = s.varOk i va)) →
        ∃ t, exec (.flowCalc i) s = .next t ∧ put t v ok ∧ flowOnly varRegs s t i) ∧
      (∀ y, 6 ≤ bitsOf w1 0 3 → ringOpen s i y → ∃ t, exec (.flowCalc i) s = .next t ∧ faults t y)) ∧
    (flowAtStep s i x 0x5 →
      let a := s.var i va
      let ok := s.varOk i va
      let low := ok && bitOf w0 17 && decide (a < s.flowLong i 1)
      let high := ok && bitOf w0 18 && decide (s.flowLong i 3 < a)
      let pass := ok && !low && !high
      let w5 := s.flowWord i 5
      let g : FlowState := if !pass && bitOf w5 8 && f.bin.isNone then { f with bin := some (bitsOf w5 0 8) } else f
      (bitOf w0 16 = false → ∃ t, exec (.flowLimit i) s = .next t ∧ t.bit (SVC_STAT_C i) = pass ∧ flowBoundary t i g (f.step + 1) ∧
        flowOnly [stat] s t i) ∧
      (∀ y, bitOf w0 16 = true → ringOpen s i y →
        ∃ t, exec (.flowLimit i) s = .next t ∧ t.bit (SVC_STAT_C i) = pass ∧ flowBoundary t i g (f.step + 1) ∧
          t = { s with regs := t.regs, mem := t.mem, svc := t.svc, sites := t.sites } ∧ sameRegs [stat] s t ∧
          recordPut s t i y ⟨0x02, pass, ok, low, high, s.flowTest i, unsignedOf 64 a,
            unsignedOf 64 (if low then s.flowLong i 1 else if high then s.flowLong i 3 else 0)⟩)) ∧
    (flowAtStep s i x 0x6 →
      ∃ t, exec (.flowBin i) s = .next t ∧ t.bit (SVC_STAT_C i) = s.bit (SVC_STAT_C i) ∧ flowOnly [stat] s t i ∧
        flowBoundary t i (if bitOf w1 8 || f.bin.isNone then { f with bin := some (bitsOf w1 0 8) } else f) (f.step + 1)) ∧
    (flowAtStep s i x 0x7 →
      let takes := decide (bitsOf w1 12 2 = 0) || (decide (bitsOf w1 12 2 = 1) && s.bit (SVC_STAT_C i)) ||
        (decide (bitsOf w1 12 2 = 2) && !s.bit (SVC_STAT_C i)) || (decide (bitsOf w1 12 2 = 3) && s.varOk i va && decide (s.var i va ≠ 0))
      ∃ t, exec (.flowJump i) s = .next t ∧ t.bit (SVC_STAT_C i) = s.bit (SVC_STAT_C i) ∧ flowOnly [stat] s t i ∧
        flowBoundary t i f (if takes then bitsOf w1 0 10 else f.step + 1)) ∧
    (flowAtStep s i x 0x8 →
      let what := bitsOf w1 0 2
      let sel := if what = 2 then bitsOf w1 4 2 else if what = 3 then bitsOf w1 8 5 else 0
      let until_ := if what = 0 then some (s.now + s.flowWord i 2 * us) else none
      let timeout := if s.flowWord i 3 = 0 then none else some (s.now + s.flowWord i 3 * us)
      ∃ t, exec (.flowWait i) s = .next t ∧ flowOnly [stat] s t i ∧ t.get (SVC_STAT_STATE i) = 2 ∧ t.bit (SVC_STAT_C i) = s.bit (SVC_STAT_C i) ∧
        t.flow i = { f with wait := .wait what sel s.now until_ timeout (if what = 3 ∧ bitOf s.evtState sel then some s.now else none) }) ∧
    (∀ what sel since until_ timeout come, f.wait = .wait what sel since until_ timeout come →
      let ends := if what = 0 then until_ else come
      let settled (t : State) (at_ : Nat) (c : Bool) : Prop :=
        t = { s with now := max s.now at_, regs := t.regs, svc := t.svc } ∧ t.bit (SVC_STAT_C i) = c ∧ flowBoundary t i f (f.step + 1) ∧
          (∀ k, k ≠ i.val → t.flow k = s.flow k) ∧ sameRegs [stat] s t
      (∀ a, ends = some a → (∀ d, timeout = some d → a ≤ d) → ∃ t, exec (.flowWaitDone i) s = .next t ∧ settled t a true) ∧
      (∀ d, timeout = some d → (∀ a, ends = some a → d < a) → ∃ t, exec (.flowWaitDone i) s = .next t ∧ settled t d false)) ∧
    (flowAtStep s i x 0x3 →
      let src := bitsOf w1 0 4
      let field := bitsOf w1 4 4
      let idx := bitsOf w1 16 10
      (∀ v ok, ((src = 0 ∧ field = 1 ∧ v = (s.acc idx).total.mean ∧ ok = decide ((s.acc idx).total.n ≠ 0)) ∨
          (src = 2 ∧ field = 2 ∧ v = signedOf 64 (s.get64 (SITE_CAP_FIRST_LO_FIRST i) (SITE_CAP_FIRST_HI_FIRST i)) ∧
            ok = decide (s.get64 (SITE_CAP_FIRST_LO_FIRST i) (SITE_CAP_FIRST_HI_FIRST i) ≠ 2 ^ 64 - 1)) ∨
          (src = 3 ∧ field = 0 ∧ v = s.get (SITE_PIN_FCNT i (idx % 512)) ∧ ok = true) ∨
          (src = 4 ∧ field = 0 ∧ v = s.get (XE_SITE_OK_COUNT i) ∧ ok = true) ∨ (src = 4 ∧ field = 1 ∧ v = s.get (XE_SITE_ERR_COUNT i) ∧ ok = true) ∨
          (src = 7 ∧ field = 0 ∧ v = signedOf 64 s.tick ∧ ok = true) ∨ (src ≠ 6 ∧ s.measure i src field idx = some (v, ok))) →
        (-(2 ^ 63) ≤ v ∧ v < 2 ^ 63) → ∃ t, exec (.flowMeas i) s = .next t ∧ put t v ok ∧ flowOnly varRegs s t i) ∧
      (∀ y : Nat, src = 6 → field ≤ 1 → s.stepAddr i = ocmBase + 4 * y → portBFree s (.flow i) (4 * y) 4 →
        let v := leNat (s.ocmRead (4 * y) 4)
        ∃ t, exec (.flowMeas i) s = .next t ∧ put t (if field = 1 then signedOf 32 v else v) true ∧ flowOnly varRegs s t i) ∧
      (∀ y, 8 ≤ src → ringOpen s i y → ∃ t, exec (.flowMeas i) s = .next t ∧ faults t y)) ∧
    (∀ y : Nat, flowAtStep s i x 0x9 → s.stepAddr i = ocmBase + 4 * y → portBFree s (.flow i) (4 * y) 4 →
      let v := if bitOf w1 0 then unsignedOf 64 (s.var i va) % 2 ^ 32 else s.flowWord i 4
      ∃ t, exec (.flowWrite i) s = .next t ∧ t = { s.touch (ocmBase + 4 * y) 4 with regs := t.regs, mem := t.mem, svc := t.svc } ∧ flowBoundary t i f (f.step + 1) ∧
        sameRegs [stat] s t ∧ (∀ k, k ≠ i.val → t.flow k = s.flow k) ∧
        ∀ z, z < 0x4000000 → t.ocmByte z = if 4 * y ≤ z ∧ z < 4 * y + 4 then (leBytes 4 v).getD (z - 4 * y) 0 else s.ocmByte z) ∧
    (∀ k, flowAtStep s i x 0xB → f.ret = some k →
      ∃ t, exec (.flowHret i) s = .next t ∧ flowOnly [stat] s t i ∧ t.bit (SVC_STAT_C i) = s.bit (SVC_STAT_C i) ∧
        flowBoundary t i { f with ret := none } k) ∧
    (∀ y, flowAtStep s i x 0xB → f.ret = none → ringOpen s i y → ∃ t, exec (.flowHret i) s = .next t ∧ faults t y) ∧
    (∀ y, s.flowReady i = true → min 1024 (s.svcCfg i 2 (SVC_FLOW_COUNT i)) ≤ f.step → ringOpen s i y →
      ∃ t, exec (.flowJump i) s = .next t ∧ exec (.flowEnd i) s = .next t ∧ exec (.flowBurst i) s = .next t ∧ faults t y) ∧
    (∀ y k, 12 ≤ k → flowAtStep s i x k → ringOpen s i y →
      ∃ t, exec (.flowJump i) s = .next t ∧ exec (.flowEnd i) s = .next t ∧ exec (.flowBurst i) s = .next t ∧ faults t y) ∧
    (∀ k, k ≠ 7 → k < 12 → flowAtStep s i x k → exec (.flowJump i) s = .next s)

/-- RUN starts a run of a service-level site that is STOPPED or in FAULT: SVC_RUN counts, the variables are 0 and invalid, C is 1, the bin is unset, the
registers are latched and a RUN_START record is written; else RUN_BUSY is set (R333). STOP ends a run at its step boundary, and with ABORT a WAIT ends
at once, with C = 1 since it met no timeout, and a burst is aborted (R335, R338). END counts the bin, puts it into SVC_LASTBIN and writes its record, and CLR_BINS clears the counters (R342).
BURST and XLIST start a burst of the flow's site and wait for its result (R338). LOG writes a record; without room it is dropped and counted, or the
flow is STALLED, as DLOG_CFG.FULL says (R338, R349). A pending handler starts with V15 and V14 set and a record, and one that
was taken in STOPPED starts a run first (R344, R345). FLUSH closes a batch that holds
a record, its header filled and queued for signing, and HEAD passes a batch once it is signed (R346, R348). A write of TAIL makes room, and one of BASE
or SIZE sets HEAD, TAIL and SEQ to 0 where no run is in progress, else when the next one starts; the low word of BASE is held until the high word is
written (R4, R333, R349, R354).
Each of these commands completes here, on conditions on the state and its operands alone: FLOW_RUN, FLOW_STOP_CMD, FLOW_END, CLR_BINS, FLOW_BURST,
FLOW_XLIST, FLOW_LOG, HANDLER_START, DLOG_FLUSH, BATCH_SIGNED, DLOG_TAIL_WRITE, DLOG_RING_WRITE. -/
def Obligations.FlowRuns : Prop :=
  ∀ (s : State) (i : Fin 16),
    let f := s.flow i
    let stat := (SVC_STAT_STATE i).addr
    let ended : FlowState := { f with
      wait := .none
      ret := none
      queue := []
      stop := false
      aborted := false
      stall := none }
    let base := 0xB1000 + 256 * i.val
    let varRegs : List Nat := (SVC_VALID i 0).addr :: (List.range 32).map (fun k => base + 0x80 + 4 * k)
    let halted : Prop := s.flowSt i = 0 ∨ s.flowSt i = 5
    let latched := [0, 4, 8, 12, 16, 0x38, 0x24, 0x28, 0x2C].map (fun k => s.reg (base + k))
    (s.level i = 2 → s.inService = true → halted →
      ∃ t, exec (.flowRun i) s = .next t ∧ (t.get (SVC_STAT_STATE i) = 1 ∨ t.get (SVC_STAT_STATE i) = 4) ∧ t.get (SVC_STAT_STEP i) = s.get (SVC_CFG_ENTRY i) ∧
        t.bit (SVC_STAT_C i) = true ∧ t.get (SVC_RUN i) = (s.get (SVC_RUN i) + 1) % 2 ^ 32 ∧ (∀ v, v < 16 → t.var i v = 0 ∧ t.varOk i v = false) ∧
        (t.flow i).cfg = latched ∧ (t.flow i).step = s.get (SVC_CFG_ENTRY i) ∧ (t.flow i).bin = none) ∧
    (let u := s.updFlow i (fun g => { g with cfg := latched })
      ∀ y, s.level i = 2 → s.inService = true → halted → (s.dlog i).moved = false → ringRoom u i y (s.get (SVC_DLOG_CFG_BATCH i)) →
      ∃ t, exec (.flowRun i) s = .next t ∧ t = { s with regs := t.regs, mem := t.mem, svc := t.svc, sites := t.sites } ∧ t.get (SVC_STAT_STATE i) = 1 ∧
        sameRegs (stat :: (SVC_RUN i).addr :: varRegs) s t ∧ recordPut u t i y ⟨0x01, false, false, false, false, 0, 0, 0⟩ ∧
        t.flow i = { ended with
          queue := f.queue
          cfg := latched
          step := s.get (SVC_CFG_ENTRY i)
          bin := none
          evented := [] }) ∧
    (s.level i = 2 → s.inService = true → ¬ halted → ∃ t, exec (.flowRun i) s = .next t ∧ t = { s with regs := t.regs } ∧ t.bit (SVC_STAT_RUN_BUSY i) = true ∧
      sameRegs [stat] s t) ∧
    (s.level i ≠ 2 ∨ s.inService = false → exec (.flowRun i) s = .next s) ∧
    (∀ abort : Bool,
      (halted → exec (.flowStopCmd i abort) s = .next s) ∧
      (¬ halted → f.wait = .none → f.stall = none → ∃ t, exec (.flowStopCmd i abort) s = .next t ∧ flowOnly [stat] s t i ∧
        t.get (SVC_STAT_STATE i) = 0 ∧ t.flow i = ended) ∧
      (¬ halted → f.wait = .access ∨ (f.wait = .none ∧ f.stall ≠ none) → ∃ t, exec (.flowStopCmd i abort) s = .next t ∧ flowOnly [] s t i ∧
        t.flow i = { f with stop := true })) ∧
    (∀ w e a u d r, ¬ halted → f.wait = .wait w e a u d r →
      (∃ t, exec (.flowStopCmd i false) s = .next t ∧ flowOnly [] s t i ∧ t.flow i = { f with stop := true }) ∧
      (∃ t, exec (.flowStopCmd i true) s = .next t ∧ flowOnly [stat] s t i ∧ t.get (SVC_STAT_STATE i) = 0 ∧ t.bit (SVC_STAT_C i) = true ∧
        t.flow i = ended)) ∧
    (∀ w test xl tf, ¬ halted → f.wait = .burst w test xl tf → s.running i = true →
      ∃ t, exec (.flowStopCmd i true) s = .next t ∧ t = { s with svc := t.svc, sites := t.sites } ∧ t.flow i = { f with stop := true, aborted := false } ∧
        (t.site i).burst.abort = some ((s.site i).burst.abort.getD ⟨.abort, 1⟩) ∧ ∀ k, k ≠ i.val → t.site k = s.site k ∧ t.flow k = s.flow k) ∧
    (∀ x y, flowAtStep s i x 0x0 → ringOpen s i y → s.dlogCfg i (SVC_DLOG_CFG_CLOSE_END i) = 0 →
      let bin := f.bin.getD (s.svcCfg i 0 (SVC_CFG_DEFAULT_BIN i))
      bin < 256 → (bitOf (s.flowWord i 0) 17 = false ∨ f.stop = true) →
      ∃ t, exec (.flowEnd i) s = .next t ∧ t = { s with regs := t.regs, mem := t.mem, svc := t.svc, sites := t.sites } ∧ t.get (SVC_STAT_STATE i) = 0 ∧
        t.flow i = ended ∧ t.get (SVC_BINCNT_COUNT i bin) = min (s.get (SVC_BINCNT_COUNT i bin) + 1) (2 ^ 32 - 1) ∧ t.get (SVC_LASTBIN i) = bin ∧
        recordPut s t i y ⟨0x04, false, true, false, false, s.flowTest i, bin, 0⟩ ∧
        sameRegs [stat, (SVC_BINCNT_COUNT i bin).addr, (SVC_LASTBIN i).addr] s t) ∧
    (s.canon = true → ∃ t, exec (.clrBins i) s = .next t ∧ t = { s with regs := t.regs } ∧ (∀ b, b < 256 → t.get (SVC_BINCNT_COUNT i b) = 0) ∧
      ∀ a, (∀ b, b < 256 → a ≠ (SVC_BINCNT_COUNT i b).addr) → a % 4 = 0 → t.reg a = s.reg a) ∧
    (∀ x : Nat,
      let w0 := s.flowWord i 0
      let w1 := s.flowWord i 1
      let waiting (t : State) (list tf : Bool) : Prop :=
        t.get (SVC_STAT_STATE i) = 2 ∧ t.flow i = { f with wait := .burst w0 (s.flowTest i) list tf }
      let busy (t : State) : Prop :=
        t = { s with regs := t.regs, svc := t.svc } ∧ t.bit (SITE_SEQ_STATUS_START_BUSY i) = true ∧
          sameRegs [stat, (SITE_SEQ_STATUS_START_BUSY i).addr] s t
      let seg := bitsOf w1 0 16
      (flowAtStep s i x 0x1 → s.idle i = true → s.inService = true → s.startRefusal i (some seg) = none → s.canon = true →
        ((s.seg i seg).entry.loc = true → s.get (SITE_STR_BUF_SIZE i) ≠ 0) →
        ∃ t, exec (.flowBurst i) s = .next t ∧ waiting t false (bitOf w1 16) ∧ t.siteSt i = 1 ∧ (t.site i).seq.pos = ⟨seg, 0⟩ ∧
          (t.site i).burst.seqNo = (s.site i).bursts ∧ (t.seg i seg).state = .active ∧ ∀ k, k ≠ i.val → (t.site k).unmarked = (s.site k).unmarked) ∧
      (flowAtStep s i x 0x2 → s.idle i = true → s.inService = true → s.startRefusal i none = none → s.canon = true →
        s.armHold i = false → s.hotHeld i = false → s.calHeld i = false → seg < s.get (XE_SITE_LIST_COUNT i) →
        ∃ t, exec (.flowXlist i) s = .next t ∧ waiting t true false ∧ t.siteSt i = 5 ∧ (t.site i).burst.listBurst = some seg ∧
          (t.site i).burst.seqNo = (s.site i).bursts ∧ ∀ k, k ≠ i.val → (t.site k).unmarked = (s.site k).unmarked) ∧
      (flowAtStep s i x 0x1 → s.idle i = false → ∃ t, exec (.flowBurst i) s = .next t ∧ waiting t false (bitOf w1 16) ∧ busy t) ∧
      (flowAtStep s i x 0x2 → s.idle i = false → ∃ t, exec (.flowXlist i) s = .next t ∧ waiting t true false ∧ busy t)) ∧
    (∀ x : Nat, flowAtStep s i x 0xA →
      let w0 := s.flowWord i 0
      let va := bitsOf w0 8 4
      let r : DlogRec := ⟨0x03, false, s.varOk i va, false, false, s.flowTest i, unsignedOf 64 (s.var i va), unsignedOf 64 (s.var i (bitsOf w0 12 4))⟩
      let need := 32 + (if (s.dlog i).header.isNone then 256 else 0)
      let g : FlowState := { f with evented := if f.evented.contains 0x8002 then f.evented else 0x8002 :: f.evented }
      let ev := if f.evented.contains 0x8002 then s.events else s.events ++ [⟨0x8002, i.val, s.get (SVC_RUN i), s.tick⟩]
      (∀ y, ringOpen s i y → ∃ t, exec (.flowLog i) s = .next t ∧ t = { s with regs := t.regs, mem := t.mem, svc := t.svc, sites := t.sites } ∧
        flowBoundary t i f (f.step + 1) ∧ sameRegs [stat] s t ∧ recordPut s t i y r) ∧
      (s.ringPlaced (s.dlogBase i) (s.dlogSize i) = true → s.dlogFree i < need → s.dlogCfg i (SVC_DLOG_CFG_FULL i) = 0 →
        ∃ t, exec (.flowLog i) s = .next t ∧ t = { s with regs := t.regs, svc := t.svc, events := ev } ∧ flowBoundary t i g (f.step + 1) ∧
          t.bit (SVC_DLOG_STAT_FULL i) = true ∧ t.dlog i = { s.dlog i with gap := true } ∧
          t.get (SVC_DLOG_DROPPED_COUNT i) = min (s.get (SVC_DLOG_DROPPED_COUNT i) + 1) (2 ^ 32 - 1) ∧
          sameRegs [stat, (SVC_DLOG_STAT_FULL i).addr, (SVC_DLOG_DROPPED_COUNT i).addr] s t) ∧
      (s.ringPlaced (s.dlogBase i) (s.dlogSize i) = true → s.dlogFree i < need → s.dlogCfg i (SVC_DLOG_CFG_FULL i) ≠ 0 →
        ∃ t, exec (.flowLog i) s = .next t ∧ t = { s with regs := t.regs, svc := t.svc, events := ev } ∧ t.get (SVC_STAT_STATE i) = 4 ∧
          t.flow i = { g with stall := some (r, .go (f.step + 1)), wait := .none } ∧ t.bit (SVC_DLOG_STAT_FULL i) = true ∧ t.dlog i = s.dlog i ∧
          sameRegs [stat, (SVC_DLOG_STAT_FULL i).addr] s t)) ∧
    (f.queue = [] → exec (.handlerStart i) s = .next s) ∧
    (f.queue ≠ [] → s.flowSt i = 0 → s.level i = 2 → s.inService = true →
      ∃ t, exec (.handlerStart i) s = .next t ∧ t.get (SVC_RUN i) = (s.get (SVC_RUN i) + 1) % 2 ^ 32 ∧ (t.flow i).cfg = latched ∧ (t.flow i).bin = none) ∧
    (∀ (m : FlowMatch) (rest : List FlowMatch) (y : Nat), f.queue = m :: rest → s.flowSt i = 1 → f.wait = .none → f.ret = none → ringOpen s i y →
      m.code < 2 ^ 16 → m.source < 2 ^ 16 → m.data < 2 ^ 32 →
      let v := m.code * 65536 + m.source
      ∃ t, exec (.handlerStart i) s = .next t ∧ t = { s with regs := t.regs, mem := t.mem, svc := t.svc, sites := t.sites } ∧ t.var i 15 = v ∧ t.varOk i 15 = true ∧
        t.var i 14 = m.data ∧ t.varOk i 14 = true ∧ flowBoundary t i { f with queue := rest, ret := some f.step } m.step ∧
        recordPut s t i y ⟨0x06, false, true, false, false, m.step, v, m.data⟩ ∧
        sameRegs (stat :: (SVC_VALID i 0).addr :: (List.range 4).map (fun k => (SVC_V_LO_VALUE i 14).addr + 4 * k)) s t) ∧
    ((s.dlog i).recs = [] → exec (.dlogFlush i) s = .next s) ∧
    (∀ y h, (s.dlog i).recs ≠ [] → (s.dlog i).header = some h → memPlain s → s.region (s.dlogBase i) = .ocm y → y + s.dlogSize i ≤ 0x3C00000 →
      s.rangeServed (.ocm y) (s.dlogSize i) = .ok → s.nv.serial.length = 16 → h % 4 = 0 → h + 256 ≤ s.dlogSize i →
      let d := s.dlog i
      let head := leBytes 4 0x31444E4F ++ leBytes 4 (1 + 2 ^ 16 * i.val + 2 ^ 20 * ofBool d.gap + 2 ^ 21 * ofBool s.nv.identity.isNone) ++ leBytes 8 d.seq ++
        leBytes 4 (d.recs.length / 32) ++ leBytes 4 0 ++ leBytes 8 d.first ++ leBytes 8 d.last ++ s.nv.serial
      let hash := sha384 d.recs
      hash.length = 48 →
      ∃ t, exec (.dlogFlush i) s = .next t ∧ t = { s with regs := t.regs, mem := t.mem, svc := t.svc, sites := t.sites } ∧ sameSites s t ∧
        t.svc.jobs = s.svc.jobs ++ [⟨i.val, s.nv.identity, h, d.wpos, d.seq, head, hash⟩] ∧ t.bit (SVC_DLOG_STAT_SIGNING i) = true ∧
        t.bit (SVC_DLOG_STAT_UNSIGNED i) = s.nv.identity.isNone ∧ sameRegs [(SVC_DLOG_STAT_SIGNING i).addr] s t ∧ t.svc.flows = s.svc.flows ∧
        (∀ k, k ≠ i.val → t.dlog k = s.dlog k) ∧
        (∀ z, z < 0x4000000 → t.ocmByte z = if y + h ≤ z ∧ z < y + h + 56 then head.getD (z - (y + h)) 0 else
          if y + h + 0x68 ≤ z ∧ z < y + h + 0x98 then hash.getD (z - (y + h + 0x68)) 0 else s.ocmByte z) ∧
        t.dlog i = { d with
          header := none
          recs := []
          gap := false
          seq := d.seq + 1 }) ∧
    (s.svc.jobs = [] → exec .batchSigned s = .next s) ∧
    (∀ (j : BatchJob) (rest : List BatchJob) (y : Nat), s.svc.jobs = j :: rest → j.site = i.val → memPlain s → s.region (s.dlogBase i) = .ocm y →
      y + s.dlogSize i ≤ 0x3C00000 → s.rangeServed (.ocm y) (s.dlogSize i) = .ok →
      let body := j.head ++ (s.dlog i).prev ++ j.hash
      let sig := match j.key with
        | none => List.replicate 96 0
        | some k => beBytes 48 (Config.sign k body).1 ++ beBytes 48 (Config.sign k body).2
      let bs := body ++ sig ++ List.replicate 8 0
      j.header % 4 = 0 → bs.length = 256 → j.header + 256 ≤ s.dlogSize i →
      ∃ t, exec .batchSigned s = .next t ∧ t = { s with regs := t.regs, mem := t.mem, svc := t.svc, sites := t.sites, events := t.events } ∧ sameSites s t ∧ t.svc.jobs = rest ∧
        t.get (SVC_DLOG_HEAD i) = j.end_ % 2 ^ 32 ∧ t.dlog i = { s.dlog i with prev := sha384 bs } ∧
        t.bit (SVC_DLOG_STAT_SIGNING i) = rest.any (fun k => decide (k.site = i.val)) ∧
        t.events = (if s.dlogCfg i (SVC_DLOG_CFG_SIGN_EVT i) ≠ 0 then s.events ++ [⟨0x8001, i.val, j.seq % 2 ^ 32, s.tick⟩] else s.events) ∧
        t.svc.flows = s.svc.flows ∧ (∀ k, k ≠ i.val → t.dlog k = s.dlog k) ∧ sameRegs [(SVC_DLOG_HEAD i).addr, (SVC_DLOG_STAT_SIGNING i).addr] s t ∧
        ∀ z, z < 0x4000000 → t.ocmByte z = if y + j.header ≤ z ∧ z < y + j.header + 256 then bs.getD (z - (y + j.header)) 0 else s.ocmByte z) ∧
    (∀ (o : Origin) (v : Word), f.stall = none →
      ∃ t, exec (.dlogTailWrite o i v) s = .next t ∧ sameRest { s with svc := t.svc } t ∧ t.get (SVC_DLOG_TAIL i) = v.toNat ∧
        t.dlog i = { s.dlog i with full := false } ∧ (∀ k, k ≠ i.val → t.dlog k = s.dlog k) ∧ t.svc = { s.svc with dlogs := t.svc.dlogs } ∧
        sameRegsBut [(SVC_DLOG_TAIL i).addr] s t) ∧
    (∀ (o : Origin) (v : Word), exec (.dlogRingWrite o i 0 v) s = .next (s.holdLow o (SVC_DLOG_BASE_LO_BASE i).addr v)) ∧
    (∀ (o : Origin) (k : Fin 3) (v : Word), k ≠ 0 →
      let lo := (SVC_DLOG_BASE_LO_BASE i).addr
      ∃ t, exec (.dlogRingWrite o i k v) s = .next t ∧ t.out = s.out ∧ t.pins = s.pins ∧ sameSites s t ∧ t.svc.flows = s.svc.flows ∧
        t.reg (lo + 4 * k.val) = v ∧ (k = 1 → t.reg lo = (s.heldLow o lo).getD (s.reg lo)) ∧ (∀ j, j ≠ i.val → t.dlog j = s.dlog j) ∧
        sameRegsBut [lo, lo + 4 * k.val, (SVC_DLOG_HEAD i).addr, (SVC_DLOG_TAIL i).addr, (SVC_DLOG_STAT_SIGNING i).addr] s t ∧
        (halted → t.get (SVC_DLOG_HEAD i) = 0 ∧ t.get (SVC_DLOG_TAIL i) = 0 ∧ t.bit (SVC_DLOG_STAT_SIGNING i) = false ∧ t.dlog i = DlogState.reset ∧
          t.svc.jobs = s.svc.jobs.filter (fun j => decide (j.site ≠ i.val))) ∧
        (¬ halted → t.dlog i = { s.dlog i with moved := true } ∧ t.svc.jobs = s.svc.jobs ∧ t.get (SVC_DLOG_HEAD i) = s.get (SVC_DLOG_HEAD i) ∧
          t.get (SVC_DLOG_TAIL i) = s.get (SVC_DLOG_TAIL i)))

/-! Calibration (R380 to R398). -/

/-- The commands of CAL_CMD: RUN plans the steps of the pins FIRST to LAST in ascending order and for each the selected kinds, and is ignored during a
run (R380); CANCEL gives the steps to come status SKIPPED (R398); COMMIT makes the working set the pending one, and unowned groups and IDLE sites change
to it at once, PENDING_SITES naming the others (R388); COMMIT_EPOCH and DISARM set and clear the arm (R389); COPY copies the committed set into the
working set (R390). A step begins at its octant's turn where R381 allows it, and gets SKIPPED where it does not and BUSY where its site was started
(R382, R383); its results enter the working set only within the limits, else it gets OUT_OF_LIMIT or, in TDR, NO_REFLECT (R385, R387); a discarded step
is repeated at its octant's next turn, and UNSTABLE the third time (R384); how a fit and a spread are rounded is the model's choice (log 145). SAVE
writes the invalid or older slot with the next SEQ, waits while an amendment is being stored, and its end reports what was read back (R394).
Each of these commands completes here, on conditions on the state and its operands alone: CAL_RUN, CAL_CANCEL, CAL_COMMIT, CAL_COMMIT_EPOCH,
CAL_DISARM, CAL_COPY, CAL_STEP_START, CAL_STEP_DONE, ALMANAC_SAVE, ALMANAC_SAVE_DONE. -/
def Obligations.Calibration : Prop :=
  ∀ s : State,
    let cmd := CAL_CMD_TAG.addr
    let status := CAL_STATUS_RUN_STATE.addr
    let told (t : State) (tag : BitVec 16) : Prop := sameRest { s with cal := t.cal } t ∧ t.get CAL_CMD_TAG = tag.toNat
    let ball (p : Nat) (kind : CalKind) : Out :=
      if kind = .tdr then .launch p (fieldGet 8 12 s.cal.cfg) s.launches s.tdrVol s.tdrVoh else .disconnect p
    let settled (c : CalStep) (t : State) (st : Nat) (l : List Nat) : Prop :=
      let left := s.cal.steps.erase c
      t.now = s.now ∧ t.mem = s.mem ∧ t.sites = s.sites ∧ t.get (calStatusFld c.pin c.kind) = st ∧ t.cal.steps = left ∧ t.cal.todo = s.cal.todo ∧
        t.cal.committed = s.cal.committed ∧ (s.calRunning = true → t.get CAL_STATUS_RUN_STATE =
          if s.cal.todo = [] ∧ left = [] then (if s.cal.cancelled then 3 else 2) else 1) ∧
        sameRegs ([(calStatusFld c.pin c.kind).addr, status, CAL_RUN_COUNT_DONE.addr, CAL_QWORST_T_WORST.addr, (PIN_FESTAT_SWING c.pin).addr] ++ l) s t
    (∀ (o : Origin) (tag : BitVec 16),
      (s.calRunning = false → s.calPlan ≠ [] →
        ∃ t, exec (.calRun o tag) s = .next t ∧ told t tag ∧ t.get CAL_STATUS_RUN_STATE = 1 ∧ t.cal.todo = s.calPlan ∧ t.cal.cancelled = false ∧
          t.cal.nonOk = 0 ∧ t.cal.failed = [] ∧ t.cal.steps = s.cal.steps ∧ t.cal.committed = s.cal.committed ∧ sameRegsBut [cmd, status] s t) ∧
      (s.calRunning = true → ∃ t, exec (.calRun o tag) s = .next t ∧ told t tag ∧ t.cal = s.cal ∧ sameRegsBut [cmd] s t) ∧
      (s.calRunning = true → s.cal.steps ≠ [] → (∀ x ∈ s.cal.todo, x.1 < 512) →
        ∃ t, exec (.calCancel o tag) s = .next t ∧ told t tag ∧ t.get CAL_STATUS_RUN_STATE = 1 ∧ t.cal.todo = [] ∧ t.cal.cancelled = true ∧
          t.cal.steps = s.cal.steps ∧ (∀ x ∈ s.cal.todo, t.get (calStatusFld x.1 x.2) = 1) ∧
          ∀ p : Fin 512, ∀ k : CalKind, (p.val, k) ∉ s.cal.todo → t.get (calStatusFld p k) = s.get (calStatusFld p k)) ∧
      (s.calRunning = false → ∃ t, exec (.calCancel o tag) s = .next t ∧ told t tag ∧ t.cal = s.cal ∧ sameRegsBut [cmd] s t) ∧
      (s.canon = true → Sparse.wf (fun _ => (0 : Word)) s.cal.committed = true →
        let wait (i : Nat) : Bool := !s.idle i
        let now (g : Nat) : Prop := s.owned g = false ∨ ∃ i, i < 16 ∧ s.idle i = true ∧ g ∈ s.groups i
        let work (a : Nat) : Nat := (Sparse.get (fun _ => (0 : Word)) s.workSet a).toNat
        ∃ t, exec (.calCommit o tag) s = .next t ∧ sameRest { s with cal := t.cal, pins := t.pins } t ∧ t.get CAL_CMD_TAG = tag.toNat ∧
          (∀ p, { t.pin p with corrOld := (s.pin p).corrOld } = s.pin p) ∧ t.cal.pending = s.workSet ∧ t.cal.pendTag = tag.toNat ∧
          (∀ i, i < 16 → bitOf (t.get CAL_STATUS_PENDING_SITES) i = wait i) ∧
          (∀ g k : Nat, g < 64 → k < 512 → (now g → t.calWord (0x8000 + 512 * g + k) = work (0x8000 + 512 * g + k)) ∧
            (¬ now g → t.calWord (0x8000 + 512 * g + k) = s.calWord (0x8000 + 512 * g + k))) ∧
          (∀ g k : Nat, g < 64 → k < 8 → (now g → t.calWord (0x4000 + 8 * g + k) = work (0x4000 + 8 * g + k)) ∧
            (¬ now g → t.calWord (0x4000 + 8 * g + k) = s.calWord (0x4000 + 8 * g + k))) ∧
          ((∃ i, i < 16 ∧ s.idle i = true) → t.get CAL_COMMITTED_TAG = tag.toNat ∧ t.bit CAL_STATUS_UNCAL = false) ∧
          ((∀ i, i < 16 → s.idle i = true) → (⟨0xA003, noSource, tag.toNat, s.tick⟩ : EventRec) ∈ t.events) ∧
          sameRegsBut [cmd, CAL_COMMITTED_TAG.addr, status] s t) ∧
      (∃ t, exec (.calCommitEpoch o tag) s = .next t ∧ told t tag ∧ t.bit CAL_STATUS_EPOCH_ARMED = true ∧
        t.cal = { s.cal with armTag := tag.toNat } ∧ sameRegsBut [cmd, status] s t) ∧
      (∃ t, exec (.calDisarm o tag) s = .next t ∧ told t tag ∧ t.bit CAL_STATUS_EPOCH_ARMED = false ∧ t.cal = s.cal ∧
        sameRegsBut [cmd, status] s t) ∧
      (s.canon = true → Sparse.wf (fun _ => (0 : Word)) s.cal.committed = true → (∀ e ∈ s.cal.committed, 0x4000 ≤ e.1 ∧ e.1 < 0x10000) →
        ∃ t, exec (.calCopy o tag) s = .next t ∧ told t tag ∧ t.cal = { s.cal with temps := s.cal.commTemps } ∧
          (∀ a, 0x4000 ≤ a → a < 0x10000 → a % 4 = 0 → (t.reg (0xD0000 + a)).toNat = s.calWord a) ∧
          ∀ a, a < 0xD4000 ∨ 0xE0000 ≤ a → a ≠ cmd → storeReg a = false → t.reg a = s.reg a)) ∧
    (∀ k : Fin 8, (∀ c ∈ s.cal.steps, c.pin / 64 = k.val → c.idle = false) →
      (s.calRunning = false ∨ (∃ c ∈ s.cal.steps, c.pin / 64 = k.val) → exec (.calStepStart k) s = .next s) ∧
      (∀ p kind, s.calRunning = true → (∀ c ∈ s.cal.steps, c.pin / 64 ≠ k.val) →
        s.cal.todo.find? (fun x => decide (x.1 / 64 = k.val)) = some (p, kind) → p < 512 →
        (s.calBusy p = false → s.calAllowed p = true →
          ∃ t, exec (.calStepStart k) s = .next t ∧ t = { s with cal := t.cal, out := s.out ++ [ball p kind] } ∧
            t.cal = { s.cal with
              todo := s.cal.todo.erase (p, kind)
              steps := s.cal.steps ++ [⟨p, kind, 0, false, s.octTemp (p / 64), [], false⟩] }) ∧
        (s.cal.todo.erase (p, kind) ≠ [] ∨ s.cal.steps ≠ [] → s.calBusy p = true ∨ s.calAllowed p = false →
          ∃ t, exec (.calStepStart k) s = .next t ∧ t = { s with regs := t.regs, cal := t.cal, events := t.events } ∧
            t.get (calStatusFld p kind) = (if s.calBusy p then 2 else 1) ∧ t.bit CAL_STATUS_ANY_FAIL = true ∧
            t.cal.todo = s.cal.todo.erase (p, kind) ∧ t.cal.steps = s.cal.steps ∧ t.cal.nonOk = s.cal.nonOk + 1 ∧
            sameRegs [(calStatusFld p kind).addr, status] s t))) ∧
    (∀ (k : Fin 8) (c : CalStep), s.cal.steps.find? (fun c => decide (c.pin / 64 = k.val) && c.idle) = some c → c.pin < 512 →
      let p := c.pin
      (s.tb.deferred.isSome = true → c.kind = .timing → exec (.calStepStart k) s = .next s) ∧
      (s.tb.deferred = none ∨ c.kind ≠ .timing →
        (s.calAllowed p = true ∨ s.calBusy p = true →
          ∃ t, exec (.calStepStart k) s = .next t ∧ t = { s with cal := t.cal, out := s.out ++ [ball p c.kind] } ∧
            t.cal = { s.cal with steps := s.cal.steps.map (fun x =>
              if x = c then { x with spoiled := false, temp := s.octTemp (x.pin / 64), idle := false } else x) }) ∧
        (s.calAllowed p = false → s.calBusy p = false → c.held = [] → ∃ t, exec (.calStepStart k) s = .next t ∧ settled c t 1 []))) ∧
    (∀ (k : Fin 8) (m : CalMeasure), (∀ c ∈ s.cal.steps, c.pin / 64 = k.val → c.idle = true) → exec (.calStepDone k m) s = .next s) ∧
    (∀ (k : Fin 8) (c : CalStep), s.cal.steps.find? (fun c => decide (c.pin / 64 = k.val) && !c.idle) = some c → c.pin < 512 → c.held = [] →
      let p := c.pin
      (∀ vih vil voh vol vtt clh cll : DacMeasure, c.spoiled = false → c.kind = .level →
        let all := [vih, vil, voh, vol, vtt] ++ (if s.calClamps p then [clh, cll] else [])
        let r := min 65535 (all.foldl (fun a m => max a m.residual) 0)
        (s.get CAL_LIMITS_L_LIM < r → ∃ t, exec (.calStepDone k (.level vih vil voh vol vtt clh cll)) s = .next t ∧
          settled c t 4 [(CAL_WS_QUAL_L_L_RES p).addr] ∧ t.get (CAL_WS_QUAL_L_L_RES p) = r) ∧
        (r ≤ s.get CAL_LIMITS_L_LIM → ∃ t, exec (.calStepDone k (.level vih vil voh vol vtt clh cll)) s = .next t ∧
          settled c t 0 ([(CAL_WS_QUAL_L_L_RES p).addr, (CAL_WSG_CLH (p / 8)).addr, (CAL_WSG_CLL (p / 8)).addr] ++
            (List.range 5).map (fun j => (CAL_WS_LVL p j).addr)) ∧
          t.get (CAL_WS_QUAL_L_L_RES p) = r ∧ t.get (CAL_WS_LVL p 0) = vih.word ∧ t.get (CAL_WS_LVL p 1) = vil.word ∧
          t.get (CAL_WS_LVL p 2) = voh.word ∧ t.get (CAL_WS_LVL p 3) = vol.word ∧ t.get (CAL_WS_LVL p 4) = vtt.word ∧
          (s.calClamps p = true → t.get (CAL_WSG_CLH (p / 8)) = clh.word ∧ t.get (CAL_WSG_CLL (p / 8)) = cll.word) ∧
          (s.calClamps p = false → t.get (CAL_WSG_CLH (p / 8)) = s.get (CAL_WSG_CLH (p / 8)) ∧
            t.get (CAL_WSG_CLL (p / 8)) = s.get (CAL_WSG_CLL (p / 8))))) ∧
      (∀ tx rx : List Int, c.spoiled = false → c.kind = .timing →
        let r := min 65535 (max (spreadOf (tx.take 64)) (spreadOf (rx.take 64)))
        (s.get CAL_LIMITS_T_LIM < r → ∃ t, exec (.calStepDone k (.timing tx rx)) s = .next t ∧ settled c t 4 [(CAL_WS_QUAL_T_T_RES p).addr] ∧
          t.get (CAL_WS_QUAL_T_T_RES p) = r) ∧
        (r ≤ s.get CAL_LIMITS_T_LIM → ∃ t, exec (.calStepDone k (.timing tx rx)) s = .next t ∧
          settled c t 0 [(CAL_WS_QUAL_T_T_RES p).addr, (CAL_WS_TX_TX_INT p).addr, (CAL_WS_RX_RX_INT p).addr] ∧
          t.get (CAL_WS_QUAL_T_T_RES p) = r ∧ t.get (CAL_WS_TX_TX_INT p) = unsignedOf 32 (meanOf (tx.take 64)) ∧
          t.get (CAL_WS_RX_RX_INT p) = unsignedOf 32 (meanOf (rx.take 64)))) ∧
      (∀ ls : List (List TdrCross), c.spoiled = false → c.kind = .tdr →
        let counted := (ls.take s.launches).filterMap (tdrDelta (bitOf s.cal.cfg.toNat 3))
        (2 * counted.length < s.launches → ∃ t, exec (.calStepDone k (.tdr ls)) s = .next t ∧ settled c t 5 []) ∧
        (s.launches ≤ 2 * counted.length → ∃ t, exec (.calStepDone k (.tdr ls)) s = .next t ∧
          settled c t 0 [(CAL_WS_FIX p).addr, (CAL_WS_QUAL_T_TDR_SD p).addr] ∧ t.get (CAL_WS_QUAL_T_TDR_SD p) = min 65535 (fixSd counted) ∧
          t.get (CAL_WS_FIX p) = min 40000 ((counted.sum + counted.length) / (2 * counted.length)))) ∧
      (∀ m : CalMeasure, c.spoiled = true →
        (2 ≤ c.repeats → ∃ t, exec (.calStepDone k m) s = .next t ∧ settled c t 3 []) ∧
        (c.repeats < 2 → ∃ t, exec (.calStepDone k m) s = .next t ∧ t = { s with cal := t.cal } ∧
          t.cal = { s.cal with steps := s.cal.steps.map (fun x => if x = c then { x with repeats := x.repeats + 1, idle := true } else x) }))) ∧
    (∀ b0 b1 : List Byte,
      let v0 := s.almValid b0
      let v1 := s.almValid b1
      let slot := if v0 = false then 0 else if v1 = false then 1 else if almSeq b0 < almSeq b1 then 0 else 1
      let top := max (if v0 then almSeq b0 else 0) (if v1 then almSeq b1 else 0)
      (s.cal.save.isSome = true ∨ s.cal.saveWait.isSome = true → exec (.almanacSave b0 b1) s = .next s) ∧
      (s.cal.save = none → s.cal.saveWait = none → s.flashBusy = true →
        ∃ t, exec (.almanacSave b0 b1) s = .next t ∧ t = { s with regs := t.regs, cal := { s.cal with saveWait := some (b0, b1) } } ∧
          t.bit CAL_ALM_STAT_BUSY = true ∧ sameRegs [CAL_ALM_STAT_BUSY.addr] s t) ∧
      (s.cal.save = none → s.cal.saveWait = none → s.flashBusy = false → top < 0xFFFFFFFE →
        ∃ t, exec (.almanacSave b0 b1) s = .next t ∧ t = { s with regs := t.regs, cal := t.cal, out := t.out } ∧ t.bit CAL_ALM_STAT_BUSY = true ∧
          t.cal = { s.cal with save := some (slot, top + 1, s.almImage (top + 1)) } ∧
          t.out = s.out ++ [.flash (s.get (CAL_ALM_SLOT_OFFSET slot) / 2 ^ 18 * 2 ^ 18) (s.almImage (top + 1))] ∧
          sameRegs [CAL_ALM_STAT_BUSY.addr] s t) ∧
      (s.cal.save = none → s.cal.saveWait = none → s.flashBusy = false → 0xFFFFFFFE ≤ top →
        ∃ t, exec (.almanacSave b0 b1) s = .next t ∧ t = { s with regs := t.regs, events := s.events ++ [⟨0xA006, noSource, 3, s.tick⟩] } ∧
          t.get CAL_ALM_STAT_RESULT = 3 ∧ t.bit CAL_ALM_STAT_BUSY = false ∧ sameRegs [CAL_ALM_STAT_BUSY.addr] s t)) ∧
    (∀ back : Option (List Byte),
      (s.cal.save = none → exec (.almanacSaveDone back) s = .next s) ∧
      (∀ slot seq img, s.cal.save = some (slot, seq, img) → slot < 2 → seq < 2 ^ 32 →
        let good := match back with
          | none => false
          | some bs => s.almValid bs && decide (bs = img)
        ∃ t, exec (.almanacSaveDone back) s = .next t ∧ t = { s with regs := t.regs, cal := { s.cal with save := none }, events := t.events } ∧
          t.bit CAL_ALM_STAT_BUSY = false ∧ t.get CAL_ALM_STAT_RESULT = (if good then 0 else if back.isNone then 2 else 1) ∧
          t.events = s.events ++ [if good then ⟨0xA005, noSource, seq, s.tick⟩ else ⟨0xA006, noSource, if back.isNone then 2 else 1, s.tick⟩] ∧
          (good = true → t.get CAL_ALM_STAT_SLOT = slot ∧ t.get CAL_ALM_SEQ = seq) ∧ sameRegs [CAL_ALM_STAT_BUSY.addr, CAL_ALM_SEQ.addr] s t))

/-- Drive-side edges at one position act as one action (R77): the data of the drive action on the highest-numbered D edge among them, the later vector's
of two with one number, else unchanged; enable off if any carries release or E1, else on if any carries a drive action or E0, else unchanged.
Each of these commands completes here, on conditions on the state and its operands alone: DRIVE_EDGE. -/
def Obligations.CoincidentEdges : Prop :=
  ∀ (s : State) (p : Fin 512) (x : Nat), s.disconnected p = false → firstEdge (s.pin p).edges = some x → x < s.edgeLimit p →
    (∀ e ∈ (s.pin p).edges, e.vec ∉ (s.pin p).undefVecs) →
    let now (e : DriveEdge) : Prop := e ∈ (s.pin p).edges ∧ e.pos = x
    let drives (e : DriveEdge) : Prop := ∃ d, e.act = .drive d
    ∃ t, exec (.driveEdge p) s = .next t ∧ t.now = max s.now x ∧ t.sites = s.sites ∧ t.mem = s.mem ∧
      (∀ k, k ≠ p.val → t.pin k = s.pin k) ∧ (t.pin p).edges = (s.pin p).edges.filter (fun e => decide (e.pos ≠ x)) ∧
      (∀ e d, now e → e.act = .drive d →
        (∀ e', now e' → drives e' → e' ≠ e → e'.num < e.num ∨ (e'.num = e.num ∧ e'.vec < e.vec)) → (t.pin p).drv.data = d) ∧
      ((∀ e, now e → ¬ drives e) → (t.pin p).drv.data = (s.pin p).drv.data) ∧
      ((∃ e, now e ∧ (e.act = .release ∨ e.act = .off)) → (t.pin p).drv.enable = false) ∧
      ((∀ e, now e → e.act ≠ .release ∧ e.act ≠ .off) → (∃ e, now e ∧ (drives e ∨ e.act = .on)) → (t.pin p).drv.enable = true) ∧
      ((∀ e, now e → e.act ≠ .release ∧ e.act ≠ .off ∧ ¬ drives e ∧ e.act ≠ .on) → (t.pin p).drv.enable = (s.pin p).drv.enable)
end

