-- ==== Sys2Proof/Laws/Sparse.lean ====
section
/-! SUPPORT. Sparse tables: a read after a write, and that every operation keeps the canonical form. -/
namespace Sys2Proof.Machine

variable {α : Type} {d : Nat → α}

/-- Entries filtered out of a table by a key below the one read do not matter. -/
theorem Sparse.get_filter_gt (t : Sparse α) {k j : Nat} (h : k < j) :
    Sparse.get d (t.filter (fun e => decide (k < e.1))) j = Sparse.get d t j := by
  induction t with
  | nil => rfl
  | cons e t ih =>
    by_cases he : k < e.1
    · simp only [List.filter_cons, he, decide_true, if_true, Sparse.get, ih]
    · simp only [List.filter_cons, he, decide_false, Sparse.get]
      simp [ih, show j ≠ e.1 by omega, show ¬ j < e.1 by omega]

/-- A key below every listed one reads as unlisted. -/
theorem Sparse.get_below (t : Sparse α) {j : Nat} (h : ∀ e ∈ t, j < e.1) : Sparse.get d t j = d j := by
  cases t with
  | nil => rfl
  | cons e r =>
    have := h e (List.mem_cons_self ..)
    simp [Sparse.get, Nat.ne_of_lt this, this]

variable [DecidableEq α]

theorem Sparse.wfFrom_mono {m : Sparse α} {lo lo' : Nat} (h : lo' ≤ lo) (hm : Sparse.wfFrom d lo m = true) :
    Sparse.wfFrom d lo' m = true := by
  cases m with
  | nil => rfl
  | cons e t => simp only [Sparse.wfFrom, Bool.and_eq_true, decide_eq_true_eq] at hm ⊢; exact ⟨⟨by omega, hm.1.2⟩, hm.2⟩

/-- In a canonical table every key is at least the bound, and no entry equals the value of an unlisted key. -/
theorem Sparse.wfFrom_mem {m : Sparse α} {lo : Nat} (h : Sparse.wfFrom d lo m = true) {e : Nat × α} (he : e ∈ m) :
    lo ≤ e.1 ∧ e.2 ≠ d e.1 := by
  induction m generalizing lo with
  | nil => cases he
  | cons x t ih =>
    simp only [Sparse.wfFrom, Bool.and_eq_true, decide_eq_true_eq] at h
    rcases List.mem_cons.mp he with rfl | ht
    · exact ⟨h.1.1, h.1.2⟩
    · have := ih h.2 ht; exact ⟨by omega, this.2⟩

theorem Sparse.wfFrom_filter {m : Sparse α} {lo : Nat} (p : Nat × α → Bool) (h : Sparse.wfFrom d lo m = true) :
    Sparse.wfFrom d lo (m.filter p) = true := by
  induction m generalizing lo with
  | nil => rfl
  | cons e t ih =>
    have h' := h
    simp only [Sparse.wfFrom, Bool.and_eq_true, decide_eq_true_eq] at h
    by_cases hp : p e
    · simp only [List.filter_cons, hp, if_true, Sparse.wfFrom, Bool.and_eq_true, decide_eq_true_eq]
      exact ⟨h.1, ih h.2⟩
    · simp only [List.filter_cons, hp]
      exact Sparse.wfFrom_mono (by omega) (ih h.2)

theorem Sparse.wf_filter {m : Sparse α} (p : Nat × α → Bool) (h : Sparse.wf d m = true) : Sparse.wf d (m.filter p) = true :=
  Sparse.wfFrom_filter p h

theorem Sparse.wfFrom_set {m : Sparse α} {lo k : Nat} (v : α) (hk : lo ≤ k) (h : Sparse.wfFrom d lo m = true) :
    Sparse.wfFrom d lo (Sparse.set d m k v) = true := by
  induction m generalizing lo with
  | nil =>
    simp only [Sparse.set]
    split <;> simp_all [Sparse.wfFrom]
  | cons e t ih =>
    obtain ⟨k', v'⟩ := e
    have h' := h
    simp only [Sparse.wfFrom, Bool.and_eq_true, decide_eq_true_eq] at h
    simp only [Sparse.set]
    split
    · split
      · exact h'
      · simp only [Sparse.wfFrom, Bool.and_eq_true, decide_eq_true_eq]
        exact ⟨⟨hk, by assumption⟩, ⟨by omega, h.1.2⟩, h.2⟩
    · split
      · subst_vars
        split
        · exact Sparse.wfFrom_mono (by omega) (Sparse.wfFrom_filter _ h.2)
        · simp only [Sparse.wfFrom, Bool.and_eq_true, decide_eq_true_eq]
          exact ⟨⟨hk, by assumption⟩, h.2⟩
      · simp only [Sparse.wfFrom, Bool.and_eq_true, decide_eq_true_eq]
        exact ⟨h.1, ih (by omega) h.2⟩

/-- A write keeps the canonical form. -/
theorem Sparse.wf_set {m : Sparse α} (k : Nat) (v : α) (h : Sparse.wf d m = true) : Sparse.wf d (Sparse.set d m k v) = true :=
  Sparse.wfFrom_set v (Nat.zero_le k) h

theorem Sparse.wf_setMany {m : Sparse α} (k : Nat) (vs : List α) (h : Sparse.wf d m = true) :
    Sparse.wf d (Sparse.setMany d m k vs) = true := by
  induction vs generalizing m k with
  | nil => exact h
  | cons v vs ih => exact ih _ (Sparse.wf_set k v h)

theorem Sparse.wf_eraseRange {m : Sparse α} (lo n : Nat) (h : Sparse.wf d m = true) :
    Sparse.wf d (Sparse.eraseRange lo n m) = true := Sparse.wf_filter _ h

theorem Sparse.wfFrom_append {a b : Sparse α} {lo mid : Nat} (ha : Sparse.wfFrom d lo a = true) (hlt : ∀ e ∈ a, e.1 < mid)
    (hlo : lo ≤ mid) (hb : Sparse.wfFrom d mid b = true) : Sparse.wfFrom d lo (a ++ b) = true := by
  induction a generalizing lo with
  | nil => exact Sparse.wfFrom_mono hlo hb
  | cons e t ih =>
    simp only [Sparse.wfFrom, Bool.and_eq_true, decide_eq_true_eq] at ha
    simp only [List.cons_append, Sparse.wfFrom, Bool.and_eq_true, decide_eq_true_eq]
    refine ⟨ha.1, ih ha.2 (fun x hx => hlt x (List.mem_cons_of_mem _ hx)) ?_⟩
    have := hlt e (List.mem_cons_self ..)
    omega

theorem Sparse.wfFrom_tighten {m : Sparse α} {lo lo' : Nat} (h : Sparse.wfFrom d lo m = true) (hall : ∀ e ∈ m, lo' ≤ e.1) :
    Sparse.wfFrom d lo' m = true := by
  cases m with
  | nil => rfl
  | cons e t =>
    simp only [Sparse.wfFrom, Bool.and_eq_true, decide_eq_true_eq] at h ⊢
    exact ⟨⟨hall e (List.mem_cons_self ..), h.1.2⟩, h.2⟩

theorem Sparse.wfFrom_shift {m : Sparse α} {lo a b : Nat} (hd : ∀ x y, d x = d y) (hlo : a ≤ lo) (h : Sparse.wfFrom d lo m = true) :
    Sparse.wfFrom d (lo - a + b) (m.map (fun e => (e.1 - a + b, e.2))) = true := by
  induction m generalizing lo with
  | nil => rfl
  | cons e t ih =>
    simp only [Sparse.wfFrom, Bool.and_eq_true, decide_eq_true_eq] at h
    simp only [List.map_cons, Sparse.wfFrom, Bool.and_eq_true, decide_eq_true_eq]
    refine ⟨⟨by omega, by rw [hd _ e.1]; exact h.1.2⟩, ?_⟩
    have := ih (lo := e.1 + 1) (by omega) h.2
    rwa [show e.1 - a + b + 1 = e.1 + 1 - a + b by omega]

/-- A bank copy keeps the canonical form, where every unlisted key reads as the same value. -/
theorem Sparse.wf_copyRange {m : Sparse α} (lo dst n : Nat) (hd : ∀ x y, d x = d y) (h : Sparse.wf d m = true) :
    Sparse.wf d (Sparse.copyRange lo dst n m) = true := by
  unfold Sparse.copyRange
  set part := (m.filter (fun e => decide (lo ≤ e.1) && decide (e.1 < lo + n))).map (fun e => (e.1 - lo + dst, e.2)) with hp
  set rest := m.filter (fun e => !(decide (dst ≤ e.1) && decide (e.1 < dst + n))) with hr
  have hpart : Sparse.wfFrom d dst part = true := by
    have h1 : Sparse.wfFrom d lo (m.filter (fun e => decide (lo ≤ e.1) && decide (e.1 < lo + n))) = true :=
      Sparse.wfFrom_tighten (Sparse.wf_filter _ h) (by intro e he; simp at he; omega)
    have := Sparse.wfFrom_shift (a := lo) (b := dst) hd (le_refl lo) h1
    simpa using this
  have hpl : ∀ e ∈ part, e.1 < dst + n := by
    intro e he; rw [hp] at he; simp at he; obtain ⟨a, v, ha, rfl⟩ := he; simp; omega
  have hrest : Sparse.wf d rest = true := Sparse.wf_filter _ h
  have hge : Sparse.wfFrom d (dst + n) (rest.filter (fun e => decide (dst ≤ e.1))) = true :=
    Sparse.wfFrom_tighten (Sparse.wf_filter _ hrest) (by intro e he; rw [hr] at he; simp at he; omega)
  have h2 : Sparse.wfFrom d dst (part ++ rest.filter (fun e => decide (dst ≤ e.1))) = true :=
    Sparse.wfFrom_append hpart hpl (by omega) hge
  rw [List.append_assoc]
  exact Sparse.wfFrom_append (Sparse.wf_filter _ hrest) (by intro e he; simp at he; omega) (Nat.zero_le _) h2

/-- A read after a write of the same key gives the value written. -/
@[simp] theorem Sparse.get_set_self (m : Sparse α) (k : Nat) (v : α) : Sparse.get d (Sparse.set d m k v) k = v := by
  induction m with
  | nil =>
    simp only [Sparse.set]
    split <;> simp_all [Sparse.get]
  | cons e t ih =>
    obtain ⟨k', v'⟩ := e
    simp only [Sparse.set]
    split
    · rename_i hlt
      split
      · rename_i hv
        simp [Sparse.get, hv, Nat.ne_of_lt hlt, hlt]
      · simp [Sparse.get]
    · split
      · split
        · rename_i hv
          subst hv
          exact Sparse.get_below _ (by intro e he; simp at he; exact he.2)
        · simp [Sparse.get]
      · rename_i h1 h2
        simp [Sparse.get, h2, h1, ih]

/-- A write leaves every other key alone. -/
theorem Sparse.get_set_other (m : Sparse α) {k j : Nat} (v : α) (hj : j ≠ k) :
    Sparse.get d (Sparse.set d m k v) j = Sparse.get d m j := by
  induction m with
  | nil =>
    simp only [Sparse.set]
    split
    · rfl
    · simp [Sparse.get, hj]
  | cons e t ih =>
    obtain ⟨k', v'⟩ := e
    simp only [Sparse.set]
    split
    · split
      · rfl
      · rename_i hlt _
        simp only [Sparse.get, hj, if_false]
        by_cases hjk : j < k
        · simp [hjk, show j ≠ k' by omega, show j < k' by omega]
        · simp [hjk]
    · split
      · rename_i _ hk
        subst hk
        split
        · simp only [Sparse.get, hj, if_false]
          by_cases hjk : j < k
          · simp only [hjk, if_true]
            exact Sparse.get_below _ (by intro e he; simp at he; omega)
          · simp only [hjk, if_false]
            exact Sparse.get_filter_gt t (by omega)
        · simp [Sparse.get, hj]
      · simp only [Sparse.get, ih]

omit [DecidableEq α] in
/-- Entries above the key read do not matter. -/
theorem Sparse.get_filter (t : Sparse α) {j : Nat} (p : Nat × α → Bool) (hs : t.Pairwise (fun a b => a.1 < b.1)) :
    Sparse.get d (t.filter p) j = if t.any (fun e => decide (e.1 = j) && p e) then Sparse.get d t j else d j := by
  induction t with
  | nil => rfl
  | cons e t ih =>
    obtain ⟨k, v⟩ := e
    rw [List.pairwise_cons] at hs
    have ih' := ih hs.2
    rcases Nat.lt_trichotomy j k with hlt | heq | hgt
    · have hn : ((k, v) :: t).any (fun e => decide (e.1 = j) && p e) = false := by
        rw [List.any_eq_false]
        intro e he
        rcases List.mem_cons.mp he with rfl | he
        · simp; omega
        · have := hs.1 e he
          simp only at this
          simp; omega
      rw [hn, if_neg (by simp)]
      refine Sparse.get_below _ ?_
      intro e he
      rcases List.mem_cons.mp (List.mem_of_mem_filter he) with rfl | he
      · exact hlt
      · have := hs.1 e he
        simp only at this
        omega
    · subst heq
      have hb : ∀ e ∈ t, j < e.1 := hs.1
      have ht : t.any (fun e => decide (e.1 = j) && p e) = false := by
        rw [List.any_eq_false]
        intro e he
        have := hb e he
        simp; omega
      by_cases hp : p (j, v) = true
      · simp [hp, Sparse.get]
      · rw [List.filter_cons, if_neg hp, List.any_cons, ht]
        simp only [decide_true, Bool.true_and, hp, Bool.or_false, Bool.false_eq_true, if_false]
        exact Sparse.get_below _ (fun e he => hb e (List.mem_of_mem_filter he))
    · have hne : ¬ k = j := by omega
      rw [List.any_cons]
      simp only [decide_eq_false hne, Bool.false_and, Bool.false_or]
      have hg : Sparse.get d ((k, v) :: t) j = Sparse.get d t j := by
        simp only [Sparse.get]
        rw [if_neg (by omega), if_neg (by omega)]
      rw [hg, ← ih', List.filter_cons]
      split
      · simp only [Sparse.get]
        rw [if_neg (by omega), if_neg (by omega)]
      · rfl

/-- The keys of a canonical table rise. -/
theorem Sparse.wfFrom_pairwise {m : Sparse α} {lo : Nat} (h : Sparse.wfFrom d lo m = true) : m.Pairwise (fun a b => a.1 < b.1) := by
  induction m generalizing lo with
  | nil => exact List.Pairwise.nil
  | cons e t ih =>
    obtain ⟨k, v⟩ := e
    simp only [Sparse.wfFrom, Bool.and_eq_true, decide_eq_true_eq] at h
    refine List.Pairwise.cons ?_ (ih h.2)
    intro e he
    have := (Sparse.wfFrom_mem h.2 he).1
    simp only
    omega

omit [DecidableEq α] in
/-- A key that a table does not list reads as unlisted. -/
theorem Sparse.get_unlisted (m : Sparse α) {j : Nat} (h : m.any (fun e => decide (e.1 = j)) = false) : Sparse.get d m j = d j := by
  induction m with
  | nil => rfl
  | cons e t ih =>
    obtain ⟨k, v⟩ := e
    simp only [List.any_cons, Bool.or_eq_false_iff, decide_eq_false_iff_not] at h
    simp only [Sparse.get]
    rw [if_neg (by omega), ih h.2]
    split <;> rfl

/-- What a canonical table with a range erased reads. -/
theorem Sparse.get_eraseRange {m : Sparse α} (lo n j : Nat) (h : Sparse.wf d m = true) :
    Sparse.get d (Sparse.eraseRange lo n m) j = if lo ≤ j ∧ j < lo + n then d j else Sparse.get d m j := by
  unfold Sparse.eraseRange
  rw [Sparse.get_filter _ _ (Sparse.wfFrom_pairwise h)]
  by_cases hr : lo ≤ j ∧ j < lo + n
  · rw [if_pos hr, if_neg]
    rw [List.any_eq_true]
    rintro ⟨e, _, he⟩
    simp only [Bool.and_eq_true, decide_eq_true_eq, Bool.not_eq_true', Bool.and_eq_false_iff, decide_eq_false_iff_not] at he
    omega
  · rw [if_neg hr]
    split
    · rfl
    · rename_i hn
      rw [Bool.not_eq_true] at hn
      refine (Sparse.get_unlisted _ ?_).symm
      rw [List.any_eq_false] at hn ⊢
      intro e he hk
      refine hn e he ?_
      simp only [decide_eq_true_eq] at hk
      simp only [hk, decide_true, Bool.true_and, Bool.not_eq_true', Bool.and_eq_false_iff, decide_eq_false_iff_not]
      omega

end Sys2Proof.Machine
end

