-- ==== Sys2Proof/Laws/State.lean ====
section
/-! SUPPORT. One lemma per field of the state per update, and per read of a register, a site or a pin: each true by rfl, so that no proof
unfolds a record update. -/
namespace Sys2Proof.Machine

variable (s : State)

@[simp] theorem State.setReg_pending (a : Nat) (w : Word) : (s.setReg a w).pending = s.pending := rfl
@[simp] theorem State.setReg_now (a : Nat) (w : Word) : (s.setReg a w).now = s.now := rfl
@[simp] theorem State.setReg_regs (a : Nat) (w : Word) : (s.setReg a w).regs = Sparse.set resetWord s.regs a w := rfl
@[simp] theorem State.setReg_locks (a : Nat) (w : Word) : (s.setReg a w).locks = s.locks := rfl
@[simp] theorem State.setReg_lows (a : Nat) (w : Word) : (s.setReg a w).lows = s.lows := rfl
@[simp] theorem State.setReg_latches (a : Nat) (w : Word) : (s.setReg a w).latches = s.latches := rfl
@[simp] theorem State.setReg_mem (a : Nat) (w : Word) : (s.setReg a w).mem = s.mem := rfl
@[simp] theorem State.setReg_memUe (a : Nat) (w : Word) : (s.setReg a w).memUe = s.memUe := rfl
@[simp] theorem State.setReg_memCarried (a : Nat) (w : Word) : (s.setReg a w).memCarried = s.memCarried := rfl
@[simp] theorem State.setReg_dram (a : Nat) (w : Word) : (s.setReg a w).dram = s.dram := rfl
@[simp] theorem State.setReg_dramUe (a : Nat) (w : Word) : (s.setReg a w).dramUe = s.dramUe := rfl
@[simp] theorem State.setReg_events (a : Nat) (w : Word) : (s.setReg a w).events = s.events := rfl
@[simp] theorem State.setReg_out (a : Nat) (w : Word) : (s.setReg a w).out = s.out := rfl
@[simp] theorem State.setReg_fresh (a : Nat) (w : Word) : (s.setReg a w).fresh = s.fresh := rfl
@[simp] theorem State.setReg_pins (a : Nat) (w : Word) : (s.setReg a w).pins = s.pins := rfl
@[simp] theorem State.setReg_sites (a : Nat) (w : Word) : (s.setReg a w).sites = s.sites := rfl
@[simp] theorem State.setReg_tb (a : Nat) (w : Word) : (s.setReg a w).tb = s.tb := rfl
@[simp] theorem State.setReg_memory (a : Nat) (w : Word) : (s.setReg a w).memory = s.memory := rfl
@[simp] theorem State.setReg_aud (a : Nat) (w : Word) : (s.setReg a w).aud = s.aud := rfl
@[simp] theorem State.setReg_sec (a : Nat) (w : Word) : (s.setReg a w).sec = s.sec := rfl
@[simp] theorem State.setReg_nv (a : Nat) (w : Word) : (s.setReg a w).nv = s.nv := rfl
@[simp] theorem State.setReg_pwr (a : Nat) (w : Word) : (s.setReg a w).pwr = s.pwr := rfl
@[simp] theorem State.setReg_iat (a : Nat) (w : Word) : (s.setReg a w).iat = s.iat := rfl
@[simp] theorem State.setReg_cal (a : Nat) (w : Word) : (s.setReg a w).cal = s.cal := rfl
@[simp] theorem State.setReg_red (a : Nat) (w : Word) : (s.setReg a w).red = s.red := rfl
@[simp] theorem State.setReg_xe (a : Nat) (w : Word) : (s.setReg a w).xe = s.xe := rfl
@[simp] theorem State.setReg_svc (a : Nat) (w : Word) : (s.setReg a w).svc = s.svc := rfl
@[simp] theorem State.setReg_drc (a : Nat) (w : Word) : (s.setReg a w).drc = s.drc := rfl
@[simp] theorem State.setReg_dma (a : Nat) (w : Word) : (s.setReg a w).dma = s.dma := rfl
@[simp] theorem State.setReg_host (a : Nat) (w : Word) : (s.setReg a w).host = s.host := rfl
@[simp] theorem State.setReg_boot (a : Nat) (w : Word) : (s.setReg a w).boot = s.boot := rfl
@[simp] theorem State.setReg_site (a : Nat) (w : Word) (j : Nat) : (s.setReg a w).site j = s.site j := rfl
@[simp] theorem State.setReg_pin (a : Nat) (w : Word) (j : Nat) : (s.setReg a w).pin j = s.pin j := rfl
@[simp] theorem State.setReg_tick (a : Nat) (w : Word) : (s.setReg a w).tick = s.tick := rfl

@[simp] theorem State.set_pending (f : Fld) (v : Nat) : (s.set f v).pending = s.pending := rfl
@[simp] theorem State.set_now (f : Fld) (v : Nat) : (s.set f v).now = s.now := rfl
@[simp] theorem State.set_regs (f : Fld) (v : Nat) : (s.set f v).regs = Sparse.set resetWord s.regs f.addr (fieldPut f.lo f.len (s.reg f.addr) v) := rfl
@[simp] theorem State.set_locks (f : Fld) (v : Nat) : (s.set f v).locks = s.locks := rfl
@[simp] theorem State.set_lows (f : Fld) (v : Nat) : (s.set f v).lows = s.lows := rfl
@[simp] theorem State.set_latches (f : Fld) (v : Nat) : (s.set f v).latches = s.latches := rfl
@[simp] theorem State.set_mem (f : Fld) (v : Nat) : (s.set f v).mem = s.mem := rfl
@[simp] theorem State.set_memUe (f : Fld) (v : Nat) : (s.set f v).memUe = s.memUe := rfl
@[simp] theorem State.set_memCarried (f : Fld) (v : Nat) : (s.set f v).memCarried = s.memCarried := rfl
@[simp] theorem State.set_dram (f : Fld) (v : Nat) : (s.set f v).dram = s.dram := rfl
@[simp] theorem State.set_dramUe (f : Fld) (v : Nat) : (s.set f v).dramUe = s.dramUe := rfl
@[simp] theorem State.set_events (f : Fld) (v : Nat) : (s.set f v).events = s.events := rfl
@[simp] theorem State.set_out (f : Fld) (v : Nat) : (s.set f v).out = s.out := rfl
@[simp] theorem State.set_fresh (f : Fld) (v : Nat) : (s.set f v).fresh = s.fresh := rfl
@[simp] theorem State.set_pins (f : Fld) (v : Nat) : (s.set f v).pins = s.pins := rfl
@[simp] theorem State.set_sites (f : Fld) (v : Nat) : (s.set f v).sites = s.sites := rfl
@[simp] theorem State.set_tb (f : Fld) (v : Nat) : (s.set f v).tb = s.tb := rfl
@[simp] theorem State.set_memory (f : Fld) (v : Nat) : (s.set f v).memory = s.memory := rfl
@[simp] theorem State.set_aud (f : Fld) (v : Nat) : (s.set f v).aud = s.aud := rfl
@[simp] theorem State.set_sec (f : Fld) (v : Nat) : (s.set f v).sec = s.sec := rfl
@[simp] theorem State.set_nv (f : Fld) (v : Nat) : (s.set f v).nv = s.nv := rfl
@[simp] theorem State.set_pwr (f : Fld) (v : Nat) : (s.set f v).pwr = s.pwr := rfl
@[simp] theorem State.set_iat (f : Fld) (v : Nat) : (s.set f v).iat = s.iat := rfl
@[simp] theorem State.set_cal (f : Fld) (v : Nat) : (s.set f v).cal = s.cal := rfl
@[simp] theorem State.set_red (f : Fld) (v : Nat) : (s.set f v).red = s.red := rfl
@[simp] theorem State.set_xe (f : Fld) (v : Nat) : (s.set f v).xe = s.xe := rfl
@[simp] theorem State.set_svc (f : Fld) (v : Nat) : (s.set f v).svc = s.svc := rfl
@[simp] theorem State.set_drc (f : Fld) (v : Nat) : (s.set f v).drc = s.drc := rfl
@[simp] theorem State.set_dma (f : Fld) (v : Nat) : (s.set f v).dma = s.dma := rfl
@[simp] theorem State.set_host (f : Fld) (v : Nat) : (s.set f v).host = s.host := rfl
@[simp] theorem State.set_boot (f : Fld) (v : Nat) : (s.set f v).boot = s.boot := rfl
@[simp] theorem State.set_site (f : Fld) (v : Nat) (j : Nat) : (s.set f v).site j = s.site j := rfl
@[simp] theorem State.set_pin (f : Fld) (v : Nat) (j : Nat) : (s.set f v).pin j = s.pin j := rfl
@[simp] theorem State.set_tick (f : Fld) (v : Nat) : (s.set f v).tick = s.tick := rfl

@[simp] theorem State.flag_pending (f : Fld) : (s.flag f).pending = s.pending := rfl
@[simp] theorem State.flag_now (f : Fld) : (s.flag f).now = s.now := rfl
@[simp] theorem State.flag_regs (f : Fld) : (s.flag f).regs = Sparse.set resetWord s.regs f.addr (fieldPut f.lo f.len (s.reg f.addr) 1) := rfl
@[simp] theorem State.flag_locks (f : Fld) : (s.flag f).locks = s.locks := rfl
@[simp] theorem State.flag_lows (f : Fld) : (s.flag f).lows = s.lows := rfl
@[simp] theorem State.flag_latches (f : Fld) : (s.flag f).latches = s.latches := rfl
@[simp] theorem State.flag_mem (f : Fld) : (s.flag f).mem = s.mem := rfl
@[simp] theorem State.flag_memUe (f : Fld) : (s.flag f).memUe = s.memUe := rfl
@[simp] theorem State.flag_memCarried (f : Fld) : (s.flag f).memCarried = s.memCarried := rfl
@[simp] theorem State.flag_dram (f : Fld) : (s.flag f).dram = s.dram := rfl
@[simp] theorem State.flag_dramUe (f : Fld) : (s.flag f).dramUe = s.dramUe := rfl
@[simp] theorem State.flag_events (f : Fld) : (s.flag f).events = s.events := rfl
@[simp] theorem State.flag_out (f : Fld) : (s.flag f).out = s.out := rfl
@[simp] theorem State.flag_fresh (f : Fld) : (s.flag f).fresh = s.fresh := rfl
@[simp] theorem State.flag_pins (f : Fld) : (s.flag f).pins = s.pins := rfl
@[simp] theorem State.flag_sites (f : Fld) : (s.flag f).sites = s.sites := rfl
@[simp] theorem State.flag_tb (f : Fld) : (s.flag f).tb = s.tb := rfl
@[simp] theorem State.flag_memory (f : Fld) : (s.flag f).memory = s.memory := rfl
@[simp] theorem State.flag_aud (f : Fld) : (s.flag f).aud = s.aud := rfl
@[simp] theorem State.flag_sec (f : Fld) : (s.flag f).sec = s.sec := rfl
@[simp] theorem State.flag_nv (f : Fld) : (s.flag f).nv = s.nv := rfl
@[simp] theorem State.flag_pwr (f : Fld) : (s.flag f).pwr = s.pwr := rfl
@[simp] theorem State.flag_iat (f : Fld) : (s.flag f).iat = s.iat := rfl
@[simp] theorem State.flag_cal (f : Fld) : (s.flag f).cal = s.cal := rfl
@[simp] theorem State.flag_red (f : Fld) : (s.flag f).red = s.red := rfl
@[simp] theorem State.flag_xe (f : Fld) : (s.flag f).xe = s.xe := rfl
@[simp] theorem State.flag_svc (f : Fld) : (s.flag f).svc = s.svc := rfl
@[simp] theorem State.flag_drc (f : Fld) : (s.flag f).drc = s.drc := rfl
@[simp] theorem State.flag_dma (f : Fld) : (s.flag f).dma = s.dma := rfl
@[simp] theorem State.flag_host (f : Fld) : (s.flag f).host = s.host := rfl
@[simp] theorem State.flag_boot (f : Fld) : (s.flag f).boot = s.boot := rfl
@[simp] theorem State.flag_site (f : Fld) (j : Nat) : (s.flag f).site j = s.site j := rfl
@[simp] theorem State.flag_pin (f : Fld) (j : Nat) : (s.flag f).pin j = s.pin j := rfl
@[simp] theorem State.flag_tick (f : Fld) : (s.flag f).tick = s.tick := rfl

@[simp] theorem State.count_pending (f : Fld) (n : Nat) : (s.count f n).pending = s.pending := rfl
@[simp] theorem State.count_now (f : Fld) (n : Nat) : (s.count f n).now = s.now := rfl
@[simp] theorem State.count_regs (f : Fld) (n : Nat) : (s.count f n).regs = Sparse.set resetWord s.regs f.addr (fieldPut f.lo f.len (s.reg f.addr) (satAdd f.len (s.get f) n)) := rfl
@[simp] theorem State.count_locks (f : Fld) (n : Nat) : (s.count f n).locks = s.locks := rfl
@[simp] theorem State.count_lows (f : Fld) (n : Nat) : (s.count f n).lows = s.lows := rfl
@[simp] theorem State.count_latches (f : Fld) (n : Nat) : (s.count f n).latches = s.latches := rfl
@[simp] theorem State.count_mem (f : Fld) (n : Nat) : (s.count f n).mem = s.mem := rfl
@[simp] theorem State.count_memUe (f : Fld) (n : Nat) : (s.count f n).memUe = s.memUe := rfl
@[simp] theorem State.count_memCarried (f : Fld) (n : Nat) : (s.count f n).memCarried = s.memCarried := rfl
@[simp] theorem State.count_dram (f : Fld) (n : Nat) : (s.count f n).dram = s.dram := rfl
@[simp] theorem State.count_dramUe (f : Fld) (n : Nat) : (s.count f n).dramUe = s.dramUe := rfl
@[simp] theorem State.count_events (f : Fld) (n : Nat) : (s.count f n).events = s.events := rfl
@[simp] theorem State.count_out (f : Fld) (n : Nat) : (s.count f n).out = s.out := rfl
@[simp] theorem State.count_fresh (f : Fld) (n : Nat) : (s.count f n).fresh = s.fresh := rfl
@[simp] theorem State.count_pins (f : Fld) (n : Nat) : (s.count f n).pins = s.pins := rfl
@[simp] theorem State.count_sites (f : Fld) (n : Nat) : (s.count f n).sites = s.sites := rfl
@[simp] theorem State.count_tb (f : Fld) (n : Nat) : (s.count f n).tb = s.tb := rfl
@[simp] theorem State.count_memory (f : Fld) (n : Nat) : (s.count f n).memory = s.memory := rfl
@[simp] theorem State.count_aud (f : Fld) (n : Nat) : (s.count f n).aud = s.aud := rfl
@[simp] theorem State.count_sec (f : Fld) (n : Nat) : (s.count f n).sec = s.sec := rfl
@[simp] theorem State.count_nv (f : Fld) (n : Nat) : (s.count f n).nv = s.nv := rfl
@[simp] theorem State.count_pwr (f : Fld) (n : Nat) : (s.count f n).pwr = s.pwr := rfl
@[simp] theorem State.count_iat (f : Fld) (n : Nat) : (s.count f n).iat = s.iat := rfl
@[simp] theorem State.count_cal (f : Fld) (n : Nat) : (s.count f n).cal = s.cal := rfl
@[simp] theorem State.count_red (f : Fld) (n : Nat) : (s.count f n).red = s.red := rfl
@[simp] theorem State.count_xe (f : Fld) (n : Nat) : (s.count f n).xe = s.xe := rfl
@[simp] theorem State.count_svc (f : Fld) (n : Nat) : (s.count f n).svc = s.svc := rfl
@[simp] theorem State.count_drc (f : Fld) (n : Nat) : (s.count f n).drc = s.drc := rfl
@[simp] theorem State.count_dma (f : Fld) (n : Nat) : (s.count f n).dma = s.dma := rfl
@[simp] theorem State.count_host (f : Fld) (n : Nat) : (s.count f n).host = s.host := rfl
@[simp] theorem State.count_boot (f : Fld) (n : Nat) : (s.count f n).boot = s.boot := rfl
@[simp] theorem State.count_site (f : Fld) (n : Nat) (j : Nat) : (s.count f n).site j = s.site j := rfl
@[simp] theorem State.count_pin (f : Fld) (n : Nat) (j : Nat) : (s.count f n).pin j = s.pin j := rfl
@[simp] theorem State.count_tick (f : Fld) (n : Nat) : (s.count f n).tick = s.tick := rfl

@[simp] theorem State.set64_pending (l h : Fld) (v : Nat) : (s.set64 l h v).pending = s.pending := rfl
@[simp] theorem State.set64_now (l h : Fld) (v : Nat) : (s.set64 l h v).now = s.now := rfl
@[simp] theorem State.set64_locks (l h : Fld) (v : Nat) : (s.set64 l h v).locks = s.locks := rfl
@[simp] theorem State.set64_lows (l h : Fld) (v : Nat) : (s.set64 l h v).lows = s.lows := rfl
@[simp] theorem State.set64_latches (l h : Fld) (v : Nat) : (s.set64 l h v).latches = s.latches := rfl
@[simp] theorem State.set64_mem (l h : Fld) (v : Nat) : (s.set64 l h v).mem = s.mem := rfl
@[simp] theorem State.set64_memUe (l h : Fld) (v : Nat) : (s.set64 l h v).memUe = s.memUe := rfl
@[simp] theorem State.set64_memCarried (l h : Fld) (v : Nat) : (s.set64 l h v).memCarried = s.memCarried := rfl
@[simp] theorem State.set64_dram (l h : Fld) (v : Nat) : (s.set64 l h v).dram = s.dram := rfl
@[simp] theorem State.set64_dramUe (l h : Fld) (v : Nat) : (s.set64 l h v).dramUe = s.dramUe := rfl
@[simp] theorem State.set64_events (l h : Fld) (v : Nat) : (s.set64 l h v).events = s.events := rfl
@[simp] theorem State.set64_out (l h : Fld) (v : Nat) : (s.set64 l h v).out = s.out := rfl
@[simp] theorem State.set64_fresh (l h : Fld) (v : Nat) : (s.set64 l h v).fresh = s.fresh := rfl
@[simp] theorem State.set64_pins (l h : Fld) (v : Nat) : (s.set64 l h v).pins = s.pins := rfl
@[simp] theorem State.set64_sites (l h : Fld) (v : Nat) : (s.set64 l h v).sites = s.sites := rfl
@[simp] theorem State.set64_tb (l h : Fld) (v : Nat) : (s.set64 l h v).tb = s.tb := rfl
@[simp] theorem State.set64_memory (l h : Fld) (v : Nat) : (s.set64 l h v).memory = s.memory := rfl
@[simp] theorem State.set64_aud (l h : Fld) (v : Nat) : (s.set64 l h v).aud = s.aud := rfl
@[simp] theorem State.set64_sec (l h : Fld) (v : Nat) : (s.set64 l h v).sec = s.sec := rfl
@[simp] theorem State.set64_nv (l h : Fld) (v : Nat) : (s.set64 l h v).nv = s.nv := rfl
@[simp] theorem State.set64_pwr (l h : Fld) (v : Nat) : (s.set64 l h v).pwr = s.pwr := rfl
@[simp] theorem State.set64_iat (l h : Fld) (v : Nat) : (s.set64 l h v).iat = s.iat := rfl
@[simp] theorem State.set64_cal (l h : Fld) (v : Nat) : (s.set64 l h v).cal = s.cal := rfl
@[simp] theorem State.set64_red (l h : Fld) (v : Nat) : (s.set64 l h v).red = s.red := rfl
@[simp] theorem State.set64_xe (l h : Fld) (v : Nat) : (s.set64 l h v).xe = s.xe := rfl
@[simp] theorem State.set64_svc (l h : Fld) (v : Nat) : (s.set64 l h v).svc = s.svc := rfl
@[simp] theorem State.set64_drc (l h : Fld) (v : Nat) : (s.set64 l h v).drc = s.drc := rfl
@[simp] theorem State.set64_dma (l h : Fld) (v : Nat) : (s.set64 l h v).dma = s.dma := rfl
@[simp] theorem State.set64_host (l h : Fld) (v : Nat) : (s.set64 l h v).host = s.host := rfl
@[simp] theorem State.set64_boot (l h : Fld) (v : Nat) : (s.set64 l h v).boot = s.boot := rfl
@[simp] theorem State.set64_site (l h : Fld) (v : Nat) (j : Nat) : (s.set64 l h v).site j = s.site j := rfl
@[simp] theorem State.set64_pin (l h : Fld) (v : Nat) (j : Nat) : (s.set64 l h v).pin j = s.pin j := rfl
@[simp] theorem State.set64_tick (l h : Fld) (v : Nat) : (s.set64 l h v).tick = s.tick := rfl

@[simp] theorem State.setPin_pending (p : Nat) (v : Pin) : (s.setPin p v).pending = s.pending := rfl
@[simp] theorem State.setPin_now (p : Nat) (v : Pin) : (s.setPin p v).now = s.now := rfl
@[simp] theorem State.setPin_regs (p : Nat) (v : Pin) : (s.setPin p v).regs = s.regs := rfl
@[simp] theorem State.setPin_locks (p : Nat) (v : Pin) : (s.setPin p v).locks = s.locks := rfl
@[simp] theorem State.setPin_lows (p : Nat) (v : Pin) : (s.setPin p v).lows = s.lows := rfl
@[simp] theorem State.setPin_latches (p : Nat) (v : Pin) : (s.setPin p v).latches = s.latches := rfl
@[simp] theorem State.setPin_mem (p : Nat) (v : Pin) : (s.setPin p v).mem = s.mem := rfl
@[simp] theorem State.setPin_memUe (p : Nat) (v : Pin) : (s.setPin p v).memUe = s.memUe := rfl
@[simp] theorem State.setPin_memCarried (p : Nat) (v : Pin) : (s.setPin p v).memCarried = s.memCarried := rfl
@[simp] theorem State.setPin_dram (p : Nat) (v : Pin) : (s.setPin p v).dram = s.dram := rfl
@[simp] theorem State.setPin_dramUe (p : Nat) (v : Pin) : (s.setPin p v).dramUe = s.dramUe := rfl
@[simp] theorem State.setPin_events (p : Nat) (v : Pin) : (s.setPin p v).events = s.events := rfl
@[simp] theorem State.setPin_out (p : Nat) (v : Pin) : (s.setPin p v).out = s.out := rfl
@[simp] theorem State.setPin_fresh (p : Nat) (v : Pin) : (s.setPin p v).fresh = s.fresh := rfl
@[simp] theorem State.setPin_pins (p : Nat) (v : Pin) : (s.setPin p v).pins = Sparse.set (fun _ => Pin.reset) s.pins p v := rfl
@[simp] theorem State.setPin_sites (p : Nat) (v : Pin) : (s.setPin p v).sites = s.sites := rfl
@[simp] theorem State.setPin_tb (p : Nat) (v : Pin) : (s.setPin p v).tb = s.tb := rfl
@[simp] theorem State.setPin_memory (p : Nat) (v : Pin) : (s.setPin p v).memory = s.memory := rfl
@[simp] theorem State.setPin_aud (p : Nat) (v : Pin) : (s.setPin p v).aud = s.aud := rfl
@[simp] theorem State.setPin_sec (p : Nat) (v : Pin) : (s.setPin p v).sec = s.sec := rfl
@[simp] theorem State.setPin_nv (p : Nat) (v : Pin) : (s.setPin p v).nv = s.nv := rfl
@[simp] theorem State.setPin_pwr (p : Nat) (v : Pin) : (s.setPin p v).pwr = s.pwr := rfl
@[simp] theorem State.setPin_iat (p : Nat) (v : Pin) : (s.setPin p v).iat = s.iat := rfl
@[simp] theorem State.setPin_cal (p : Nat) (v : Pin) : (s.setPin p v).cal = s.cal := rfl
@[simp] theorem State.setPin_red (p : Nat) (v : Pin) : (s.setPin p v).red = s.red := rfl
@[simp] theorem State.setPin_xe (p : Nat) (v : Pin) : (s.setPin p v).xe = s.xe := rfl
@[simp] theorem State.setPin_svc (p : Nat) (v : Pin) : (s.setPin p v).svc = s.svc := rfl
@[simp] theorem State.setPin_drc (p : Nat) (v : Pin) : (s.setPin p v).drc = s.drc := rfl
@[simp] theorem State.setPin_dma (p : Nat) (v : Pin) : (s.setPin p v).dma = s.dma := rfl
@[simp] theorem State.setPin_host (p : Nat) (v : Pin) : (s.setPin p v).host = s.host := rfl
@[simp] theorem State.setPin_boot (p : Nat) (v : Pin) : (s.setPin p v).boot = s.boot := rfl
@[simp] theorem State.setPin_reg (p : Nat) (v : Pin) (x : Nat) : (s.setPin p v).reg x = s.reg x := rfl
@[simp] theorem State.setPin_get (p : Nat) (v : Pin) (g : Fld) : (s.setPin p v).get g = s.get g := rfl
@[simp] theorem State.setPin_bit (p : Nat) (v : Pin) (g : Fld) : (s.setPin p v).bit g = s.bit g := rfl
@[simp] theorem State.setPin_site (p : Nat) (v : Pin) (j : Nat) : (s.setPin p v).site j = s.site j := rfl
@[simp] theorem State.setPin_tick (p : Nat) (v : Pin) : (s.setPin p v).tick = s.tick := rfl

@[simp] theorem State.updPin_pending (p : Nat) (f : Pin → Pin) : (s.updPin p f).pending = s.pending := rfl
@[simp] theorem State.updPin_now (p : Nat) (f : Pin → Pin) : (s.updPin p f).now = s.now := rfl
@[simp] theorem State.updPin_regs (p : Nat) (f : Pin → Pin) : (s.updPin p f).regs = s.regs := rfl
@[simp] theorem State.updPin_locks (p : Nat) (f : Pin → Pin) : (s.updPin p f).locks = s.locks := rfl
@[simp] theorem State.updPin_lows (p : Nat) (f : Pin → Pin) : (s.updPin p f).lows = s.lows := rfl
@[simp] theorem State.updPin_latches (p : Nat) (f : Pin → Pin) : (s.updPin p f).latches = s.latches := rfl
@[simp] theorem State.updPin_mem (p : Nat) (f : Pin → Pin) : (s.updPin p f).mem = s.mem := rfl
@[simp] theorem State.updPin_memUe (p : Nat) (f : Pin → Pin) : (s.updPin p f).memUe = s.memUe := rfl
@[simp] theorem State.updPin_memCarried (p : Nat) (f : Pin → Pin) : (s.updPin p f).memCarried = s.memCarried := rfl
@[simp] theorem State.updPin_dram (p : Nat) (f : Pin → Pin) : (s.updPin p f).dram = s.dram := rfl
@[simp] theorem State.updPin_dramUe (p : Nat) (f : Pin → Pin) : (s.updPin p f).dramUe = s.dramUe := rfl
@[simp] theorem State.updPin_events (p : Nat) (f : Pin → Pin) : (s.updPin p f).events = s.events := rfl
@[simp] theorem State.updPin_out (p : Nat) (f : Pin → Pin) : (s.updPin p f).out = s.out := rfl
@[simp] theorem State.updPin_fresh (p : Nat) (f : Pin → Pin) : (s.updPin p f).fresh = s.fresh := rfl
@[simp] theorem State.updPin_pins (p : Nat) (f : Pin → Pin) : (s.updPin p f).pins = Sparse.set (fun _ => Pin.reset) s.pins p (f (s.pin p)) := rfl
@[simp] theorem State.updPin_sites (p : Nat) (f : Pin → Pin) : (s.updPin p f).sites = s.sites := rfl
@[simp] theorem State.updPin_tb (p : Nat) (f : Pin → Pin) : (s.updPin p f).tb = s.tb := rfl
@[simp] theorem State.updPin_memory (p : Nat) (f : Pin → Pin) : (s.updPin p f).memory = s.memory := rfl
@[simp] theorem State.updPin_aud (p : Nat) (f : Pin → Pin) : (s.updPin p f).aud = s.aud := rfl
@[simp] theorem State.updPin_sec (p : Nat) (f : Pin → Pin) : (s.updPin p f).sec = s.sec := rfl
@[simp] theorem State.updPin_nv (p : Nat) (f : Pin → Pin) : (s.updPin p f).nv = s.nv := rfl
@[simp] theorem State.updPin_pwr (p : Nat) (f : Pin → Pin) : (s.updPin p f).pwr = s.pwr := rfl
@[simp] theorem State.updPin_iat (p : Nat) (f : Pin → Pin) : (s.updPin p f).iat = s.iat := rfl
@[simp] theorem State.updPin_cal (p : Nat) (f : Pin → Pin) : (s.updPin p f).cal = s.cal := rfl
@[simp] theorem State.updPin_red (p : Nat) (f : Pin → Pin) : (s.updPin p f).red = s.red := rfl
@[simp] theorem State.updPin_xe (p : Nat) (f : Pin → Pin) : (s.updPin p f).xe = s.xe := rfl
@[simp] theorem State.updPin_svc (p : Nat) (f : Pin → Pin) : (s.updPin p f).svc = s.svc := rfl
@[simp] theorem State.updPin_drc (p : Nat) (f : Pin → Pin) : (s.updPin p f).drc = s.drc := rfl
@[simp] theorem State.updPin_dma (p : Nat) (f : Pin → Pin) : (s.updPin p f).dma = s.dma := rfl
@[simp] theorem State.updPin_host (p : Nat) (f : Pin → Pin) : (s.updPin p f).host = s.host := rfl
@[simp] theorem State.updPin_boot (p : Nat) (f : Pin → Pin) : (s.updPin p f).boot = s.boot := rfl
@[simp] theorem State.updPin_reg (p : Nat) (f : Pin → Pin) (x : Nat) : (s.updPin p f).reg x = s.reg x := rfl
@[simp] theorem State.updPin_get (p : Nat) (f : Pin → Pin) (g : Fld) : (s.updPin p f).get g = s.get g := rfl
@[simp] theorem State.updPin_bit (p : Nat) (f : Pin → Pin) (g : Fld) : (s.updPin p f).bit g = s.bit g := rfl
@[simp] theorem State.updPin_site (p : Nat) (f : Pin → Pin) (j : Nat) : (s.updPin p f).site j = s.site j := rfl
@[simp] theorem State.updPin_tick (p : Nat) (f : Pin → Pin) : (s.updPin p f).tick = s.tick := rfl

@[simp] theorem State.setSite_pending (i : Nat) (v : Site) : (s.setSite i v).pending = s.pending := rfl
@[simp] theorem State.setSite_now (i : Nat) (v : Site) : (s.setSite i v).now = s.now := rfl
@[simp] theorem State.setSite_regs (i : Nat) (v : Site) : (s.setSite i v).regs = s.regs := rfl
@[simp] theorem State.setSite_locks (i : Nat) (v : Site) : (s.setSite i v).locks = s.locks := rfl
@[simp] theorem State.setSite_lows (i : Nat) (v : Site) : (s.setSite i v).lows = s.lows := rfl
@[simp] theorem State.setSite_latches (i : Nat) (v : Site) : (s.setSite i v).latches = s.latches := rfl
@[simp] theorem State.setSite_mem (i : Nat) (v : Site) : (s.setSite i v).mem = s.mem := rfl
@[simp] theorem State.setSite_memUe (i : Nat) (v : Site) : (s.setSite i v).memUe = s.memUe := rfl
@[simp] theorem State.setSite_memCarried (i : Nat) (v : Site) : (s.setSite i v).memCarried = s.memCarried := rfl
@[simp] theorem State.setSite_dram (i : Nat) (v : Site) : (s.setSite i v).dram = s.dram := rfl
@[simp] theorem State.setSite_dramUe (i : Nat) (v : Site) : (s.setSite i v).dramUe = s.dramUe := rfl
@[simp] theorem State.setSite_events (i : Nat) (v : Site) : (s.setSite i v).events = s.events := rfl
@[simp] theorem State.setSite_out (i : Nat) (v : Site) : (s.setSite i v).out = s.out := rfl
@[simp] theorem State.setSite_fresh (i : Nat) (v : Site) : (s.setSite i v).fresh = s.fresh := rfl
@[simp] theorem State.setSite_pins (i : Nat) (v : Site) : (s.setSite i v).pins = s.pins := rfl
@[simp] theorem State.setSite_sites (i : Nat) (v : Site) : (s.setSite i v).sites = Sparse.set (fun _ => Site.reset) s.sites i v := rfl
@[simp] theorem State.setSite_tb (i : Nat) (v : Site) : (s.setSite i v).tb = s.tb := rfl
@[simp] theorem State.setSite_memory (i : Nat) (v : Site) : (s.setSite i v).memory = s.memory := rfl
@[simp] theorem State.setSite_aud (i : Nat) (v : Site) : (s.setSite i v).aud = s.aud := rfl
@[simp] theorem State.setSite_sec (i : Nat) (v : Site) : (s.setSite i v).sec = s.sec := rfl
@[simp] theorem State.setSite_nv (i : Nat) (v : Site) : (s.setSite i v).nv = s.nv := rfl
@[simp] theorem State.setSite_pwr (i : Nat) (v : Site) : (s.setSite i v).pwr = s.pwr := rfl
@[simp] theorem State.setSite_iat (i : Nat) (v : Site) : (s.setSite i v).iat = s.iat := rfl
@[simp] theorem State.setSite_cal (i : Nat) (v : Site) : (s.setSite i v).cal = s.cal := rfl
@[simp] theorem State.setSite_red (i : Nat) (v : Site) : (s.setSite i v).red = s.red := rfl
@[simp] theorem State.setSite_xe (i : Nat) (v : Site) : (s.setSite i v).xe = s.xe := rfl
@[simp] theorem State.setSite_svc (i : Nat) (v : Site) : (s.setSite i v).svc = s.svc := rfl
@[simp] theorem State.setSite_drc (i : Nat) (v : Site) : (s.setSite i v).drc = s.drc := rfl
@[simp] theorem State.setSite_dma (i : Nat) (v : Site) : (s.setSite i v).dma = s.dma := rfl
@[simp] theorem State.setSite_host (i : Nat) (v : Site) : (s.setSite i v).host = s.host := rfl
@[simp] theorem State.setSite_boot (i : Nat) (v : Site) : (s.setSite i v).boot = s.boot := rfl
@[simp] theorem State.setSite_reg (i : Nat) (v : Site) (x : Nat) : (s.setSite i v).reg x = s.reg x := rfl
@[simp] theorem State.setSite_get (i : Nat) (v : Site) (g : Fld) : (s.setSite i v).get g = s.get g := rfl
@[simp] theorem State.setSite_bit (i : Nat) (v : Site) (g : Fld) : (s.setSite i v).bit g = s.bit g := rfl
@[simp] theorem State.setSite_pin (i : Nat) (v : Site) (j : Nat) : (s.setSite i v).pin j = s.pin j := rfl
@[simp] theorem State.setSite_tick (i : Nat) (v : Site) : (s.setSite i v).tick = s.tick := rfl

@[simp] theorem State.updSite_pending (i : Nat) (f : Site → Site) : (s.updSite i f).pending = s.pending := rfl
@[simp] theorem State.updSite_now (i : Nat) (f : Site → Site) : (s.updSite i f).now = s.now := rfl
@[simp] theorem State.updSite_regs (i : Nat) (f : Site → Site) : (s.updSite i f).regs = s.regs := rfl
@[simp] theorem State.updSite_locks (i : Nat) (f : Site → Site) : (s.updSite i f).locks = s.locks := rfl
@[simp] theorem State.updSite_lows (i : Nat) (f : Site → Site) : (s.updSite i f).lows = s.lows := rfl
@[simp] theorem State.updSite_latches (i : Nat) (f : Site → Site) : (s.updSite i f).latches = s.latches := rfl
@[simp] theorem State.updSite_mem (i : Nat) (f : Site → Site) : (s.updSite i f).mem = s.mem := rfl
@[simp] theorem State.updSite_memUe (i : Nat) (f : Site → Site) : (s.updSite i f).memUe = s.memUe := rfl
@[simp] theorem State.updSite_memCarried (i : Nat) (f : Site → Site) : (s.updSite i f).memCarried = s.memCarried := rfl
@[simp] theorem State.updSite_dram (i : Nat) (f : Site → Site) : (s.updSite i f).dram = s.dram := rfl
@[simp] theorem State.updSite_dramUe (i : Nat) (f : Site → Site) : (s.updSite i f).dramUe = s.dramUe := rfl
@[simp] theorem State.updSite_events (i : Nat) (f : Site → Site) : (s.updSite i f).events = s.events := rfl
@[simp] theorem State.updSite_out (i : Nat) (f : Site → Site) : (s.updSite i f).out = s.out := rfl
@[simp] theorem State.updSite_fresh (i : Nat) (f : Site → Site) : (s.updSite i f).fresh = s.fresh := rfl
@[simp] theorem State.updSite_pins (i : Nat) (f : Site → Site) : (s.updSite i f).pins = s.pins := rfl
@[simp] theorem State.updSite_sites (i : Nat) (f : Site → Site) : (s.updSite i f).sites = Sparse.set (fun _ => Site.reset) s.sites i (f (s.site i)) := rfl
@[simp] theorem State.updSite_tb (i : Nat) (f : Site → Site) : (s.updSite i f).tb = s.tb := rfl
@[simp] theorem State.updSite_memory (i : Nat) (f : Site → Site) : (s.updSite i f).memory = s.memory := rfl
@[simp] theorem State.updSite_aud (i : Nat) (f : Site → Site) : (s.updSite i f).aud = s.aud := rfl
@[simp] theorem State.updSite_sec (i : Nat) (f : Site → Site) : (s.updSite i f).sec = s.sec := rfl
@[simp] theorem State.updSite_nv (i : Nat) (f : Site → Site) : (s.updSite i f).nv = s.nv := rfl
@[simp] theorem State.updSite_pwr (i : Nat) (f : Site → Site) : (s.updSite i f).pwr = s.pwr := rfl
@[simp] theorem State.updSite_iat (i : Nat) (f : Site → Site) : (s.updSite i f).iat = s.iat := rfl
@[simp] theorem State.updSite_cal (i : Nat) (f : Site → Site) : (s.updSite i f).cal = s.cal := rfl
@[simp] theorem State.updSite_red (i : Nat) (f : Site → Site) : (s.updSite i f).red = s.red := rfl
@[simp] theorem State.updSite_xe (i : Nat) (f : Site → Site) : (s.updSite i f).xe = s.xe := rfl
@[simp] theorem State.updSite_svc (i : Nat) (f : Site → Site) : (s.updSite i f).svc = s.svc := rfl
@[simp] theorem State.updSite_drc (i : Nat) (f : Site → Site) : (s.updSite i f).drc = s.drc := rfl
@[simp] theorem State.updSite_dma (i : Nat) (f : Site → Site) : (s.updSite i f).dma = s.dma := rfl
@[simp] theorem State.updSite_host (i : Nat) (f : Site → Site) : (s.updSite i f).host = s.host := rfl
@[simp] theorem State.updSite_boot (i : Nat) (f : Site → Site) : (s.updSite i f).boot = s.boot := rfl
@[simp] theorem State.updSite_reg (i : Nat) (f : Site → Site) (x : Nat) : (s.updSite i f).reg x = s.reg x := rfl
@[simp] theorem State.updSite_get (i : Nat) (f : Site → Site) (g : Fld) : (s.updSite i f).get g = s.get g := rfl
@[simp] theorem State.updSite_bit (i : Nat) (f : Site → Site) (g : Fld) : (s.updSite i f).bit g = s.bit g := rfl
@[simp] theorem State.updSite_pin (i : Nat) (f : Site → Site) (j : Nat) : (s.updSite i f).pin j = s.pin j := rfl
@[simp] theorem State.updSite_tick (i : Nat) (f : Site → Site) : (s.updSite i f).tick = s.tick := rfl

@[simp] theorem State.updBurst_pending (i : Nat) (f : BurstState → BurstState) : (s.updBurst i f).pending = s.pending := rfl
@[simp] theorem State.updBurst_now (i : Nat) (f : BurstState → BurstState) : (s.updBurst i f).now = s.now := rfl
@[simp] theorem State.updBurst_regs (i : Nat) (f : BurstState → BurstState) : (s.updBurst i f).regs = s.regs := rfl
@[simp] theorem State.updBurst_locks (i : Nat) (f : BurstState → BurstState) : (s.updBurst i f).locks = s.locks := rfl
@[simp] theorem State.updBurst_lows (i : Nat) (f : BurstState → BurstState) : (s.updBurst i f).lows = s.lows := rfl
@[simp] theorem State.updBurst_latches (i : Nat) (f : BurstState → BurstState) : (s.updBurst i f).latches = s.latches := rfl
@[simp] theorem State.updBurst_mem (i : Nat) (f : BurstState → BurstState) : (s.updBurst i f).mem = s.mem := rfl
@[simp] theorem State.updBurst_memUe (i : Nat) (f : BurstState → BurstState) : (s.updBurst i f).memUe = s.memUe := rfl
@[simp] theorem State.updBurst_memCarried (i : Nat) (f : BurstState → BurstState) : (s.updBurst i f).memCarried = s.memCarried := rfl
@[simp] theorem State.updBurst_dram (i : Nat) (f : BurstState → BurstState) : (s.updBurst i f).dram = s.dram := rfl
@[simp] theorem State.updBurst_dramUe (i : Nat) (f : BurstState → BurstState) : (s.updBurst i f).dramUe = s.dramUe := rfl
@[simp] theorem State.updBurst_events (i : Nat) (f : BurstState → BurstState) : (s.updBurst i f).events = s.events := rfl
@[simp] theorem State.updBurst_out (i : Nat) (f : BurstState → BurstState) : (s.updBurst i f).out = s.out := rfl
@[simp] theorem State.updBurst_fresh (i : Nat) (f : BurstState → BurstState) : (s.updBurst i f).fresh = s.fresh := rfl
@[simp] theorem State.updBurst_pins (i : Nat) (f : BurstState → BurstState) : (s.updBurst i f).pins = s.pins := rfl
@[simp] theorem State.updBurst_sites (i : Nat) (f : BurstState → BurstState) : (s.updBurst i f).sites = Sparse.set (fun _ => Site.reset) s.sites i { s.site i with burst := f (s.site i).burst } := rfl
@[simp] theorem State.updBurst_tb (i : Nat) (f : BurstState → BurstState) : (s.updBurst i f).tb = s.tb := rfl
@[simp] theorem State.updBurst_memory (i : Nat) (f : BurstState → BurstState) : (s.updBurst i f).memory = s.memory := rfl
@[simp] theorem State.updBurst_aud (i : Nat) (f : BurstState → BurstState) : (s.updBurst i f).aud = s.aud := rfl
@[simp] theorem State.updBurst_sec (i : Nat) (f : BurstState → BurstState) : (s.updBurst i f).sec = s.sec := rfl
@[simp] theorem State.updBurst_nv (i : Nat) (f : BurstState → BurstState) : (s.updBurst i f).nv = s.nv := rfl
@[simp] theorem State.updBurst_pwr (i : Nat) (f : BurstState → BurstState) : (s.updBurst i f).pwr = s.pwr := rfl
@[simp] theorem State.updBurst_iat (i : Nat) (f : BurstState → BurstState) : (s.updBurst i f).iat = s.iat := rfl
@[simp] theorem State.updBurst_cal (i : Nat) (f : BurstState → BurstState) : (s.updBurst i f).cal = s.cal := rfl
@[simp] theorem State.updBurst_red (i : Nat) (f : BurstState → BurstState) : (s.updBurst i f).red = s.red := rfl
@[simp] theorem State.updBurst_xe (i : Nat) (f : BurstState → BurstState) : (s.updBurst i f).xe = s.xe := rfl
@[simp] theorem State.updBurst_svc (i : Nat) (f : BurstState → BurstState) : (s.updBurst i f).svc = s.svc := rfl
@[simp] theorem State.updBurst_drc (i : Nat) (f : BurstState → BurstState) : (s.updBurst i f).drc = s.drc := rfl
@[simp] theorem State.updBurst_dma (i : Nat) (f : BurstState → BurstState) : (s.updBurst i f).dma = s.dma := rfl
@[simp] theorem State.updBurst_host (i : Nat) (f : BurstState → BurstState) : (s.updBurst i f).host = s.host := rfl
@[simp] theorem State.updBurst_boot (i : Nat) (f : BurstState → BurstState) : (s.updBurst i f).boot = s.boot := rfl
@[simp] theorem State.updBurst_reg (i : Nat) (f : BurstState → BurstState) (x : Nat) : (s.updBurst i f).reg x = s.reg x := rfl
@[simp] theorem State.updBurst_get (i : Nat) (f : BurstState → BurstState) (g : Fld) : (s.updBurst i f).get g = s.get g := rfl
@[simp] theorem State.updBurst_bit (i : Nat) (f : BurstState → BurstState) (g : Fld) : (s.updBurst i f).bit g = s.bit g := rfl
@[simp] theorem State.updBurst_pin (i : Nat) (f : BurstState → BurstState) (j : Nat) : (s.updBurst i f).pin j = s.pin j := rfl
@[simp] theorem State.updBurst_tick (i : Nat) (f : BurstState → BurstState) : (s.updBurst i f).tick = s.tick := rfl

@[simp] theorem State.updSpec_pending (i : Nat) (f : SpecState → SpecState) : (s.updSpec i f).pending = s.pending := rfl
@[simp] theorem State.updSpec_now (i : Nat) (f : SpecState → SpecState) : (s.updSpec i f).now = s.now := rfl
@[simp] theorem State.updSpec_regs (i : Nat) (f : SpecState → SpecState) : (s.updSpec i f).regs = s.regs := rfl
@[simp] theorem State.updSpec_locks (i : Nat) (f : SpecState → SpecState) : (s.updSpec i f).locks = s.locks := rfl
@[simp] theorem State.updSpec_lows (i : Nat) (f : SpecState → SpecState) : (s.updSpec i f).lows = s.lows := rfl
@[simp] theorem State.updSpec_latches (i : Nat) (f : SpecState → SpecState) : (s.updSpec i f).latches = s.latches := rfl
@[simp] theorem State.updSpec_mem (i : Nat) (f : SpecState → SpecState) : (s.updSpec i f).mem = s.mem := rfl
@[simp] theorem State.updSpec_memUe (i : Nat) (f : SpecState → SpecState) : (s.updSpec i f).memUe = s.memUe := rfl
@[simp] theorem State.updSpec_memCarried (i : Nat) (f : SpecState → SpecState) : (s.updSpec i f).memCarried = s.memCarried := rfl
@[simp] theorem State.updSpec_dram (i : Nat) (f : SpecState → SpecState) : (s.updSpec i f).dram = s.dram := rfl
@[simp] theorem State.updSpec_dramUe (i : Nat) (f : SpecState → SpecState) : (s.updSpec i f).dramUe = s.dramUe := rfl
@[simp] theorem State.updSpec_events (i : Nat) (f : SpecState → SpecState) : (s.updSpec i f).events = s.events := rfl
@[simp] theorem State.updSpec_out (i : Nat) (f : SpecState → SpecState) : (s.updSpec i f).out = s.out := rfl
@[simp] theorem State.updSpec_fresh (i : Nat) (f : SpecState → SpecState) : (s.updSpec i f).fresh = s.fresh := rfl
@[simp] theorem State.updSpec_pins (i : Nat) (f : SpecState → SpecState) : (s.updSpec i f).pins = s.pins := rfl
@[simp] theorem State.updSpec_sites (i : Nat) (f : SpecState → SpecState) : (s.updSpec i f).sites = Sparse.set (fun _ => Site.reset) s.sites i { s.site i with spec := f (s.site i).spec } := rfl
@[simp] theorem State.updSpec_tb (i : Nat) (f : SpecState → SpecState) : (s.updSpec i f).tb = s.tb := rfl
@[simp] theorem State.updSpec_memory (i : Nat) (f : SpecState → SpecState) : (s.updSpec i f).memory = s.memory := rfl
@[simp] theorem State.updSpec_aud (i : Nat) (f : SpecState → SpecState) : (s.updSpec i f).aud = s.aud := rfl
@[simp] theorem State.updSpec_sec (i : Nat) (f : SpecState → SpecState) : (s.updSpec i f).sec = s.sec := rfl
@[simp] theorem State.updSpec_nv (i : Nat) (f : SpecState → SpecState) : (s.updSpec i f).nv = s.nv := rfl
@[simp] theorem State.updSpec_pwr (i : Nat) (f : SpecState → SpecState) : (s.updSpec i f).pwr = s.pwr := rfl
@[simp] theorem State.updSpec_iat (i : Nat) (f : SpecState → SpecState) : (s.updSpec i f).iat = s.iat := rfl
@[simp] theorem State.updSpec_cal (i : Nat) (f : SpecState → SpecState) : (s.updSpec i f).cal = s.cal := rfl
@[simp] theorem State.updSpec_red (i : Nat) (f : SpecState → SpecState) : (s.updSpec i f).red = s.red := rfl
@[simp] theorem State.updSpec_xe (i : Nat) (f : SpecState → SpecState) : (s.updSpec i f).xe = s.xe := rfl
@[simp] theorem State.updSpec_svc (i : Nat) (f : SpecState → SpecState) : (s.updSpec i f).svc = s.svc := rfl
@[simp] theorem State.updSpec_drc (i : Nat) (f : SpecState → SpecState) : (s.updSpec i f).drc = s.drc := rfl
@[simp] theorem State.updSpec_dma (i : Nat) (f : SpecState → SpecState) : (s.updSpec i f).dma = s.dma := rfl
@[simp] theorem State.updSpec_host (i : Nat) (f : SpecState → SpecState) : (s.updSpec i f).host = s.host := rfl
@[simp] theorem State.updSpec_boot (i : Nat) (f : SpecState → SpecState) : (s.updSpec i f).boot = s.boot := rfl
@[simp] theorem State.updSpec_reg (i : Nat) (f : SpecState → SpecState) (x : Nat) : (s.updSpec i f).reg x = s.reg x := rfl
@[simp] theorem State.updSpec_get (i : Nat) (f : SpecState → SpecState) (g : Fld) : (s.updSpec i f).get g = s.get g := rfl
@[simp] theorem State.updSpec_bit (i : Nat) (f : SpecState → SpecState) (g : Fld) : (s.updSpec i f).bit g = s.bit g := rfl
@[simp] theorem State.updSpec_pin (i : Nat) (f : SpecState → SpecState) (j : Nat) : (s.updSpec i f).pin j = s.pin j := rfl
@[simp] theorem State.updSpec_tick (i : Nat) (f : SpecState → SpecState) : (s.updSpec i f).tick = s.tick := rfl

@[simp] theorem State.updStr_pending (i : Nat) (f : StreamState → StreamState) : (s.updStr i f).pending = s.pending := rfl
@[simp] theorem State.updStr_now (i : Nat) (f : StreamState → StreamState) : (s.updStr i f).now = s.now := rfl
@[simp] theorem State.updStr_regs (i : Nat) (f : StreamState → StreamState) : (s.updStr i f).regs = s.regs := rfl
@[simp] theorem State.updStr_locks (i : Nat) (f : StreamState → StreamState) : (s.updStr i f).locks = s.locks := rfl
@[simp] theorem State.updStr_lows (i : Nat) (f : StreamState → StreamState) : (s.updStr i f).lows = s.lows := rfl
@[simp] theorem State.updStr_latches (i : Nat) (f : StreamState → StreamState) : (s.updStr i f).latches = s.latches := rfl
@[simp] theorem State.updStr_mem (i : Nat) (f : StreamState → StreamState) : (s.updStr i f).mem = s.mem := rfl
@[simp] theorem State.updStr_memUe (i : Nat) (f : StreamState → StreamState) : (s.updStr i f).memUe = s.memUe := rfl
@[simp] theorem State.updStr_memCarried (i : Nat) (f : StreamState → StreamState) : (s.updStr i f).memCarried = s.memCarried := rfl
@[simp] theorem State.updStr_dram (i : Nat) (f : StreamState → StreamState) : (s.updStr i f).dram = s.dram := rfl
@[simp] theorem State.updStr_dramUe (i : Nat) (f : StreamState → StreamState) : (s.updStr i f).dramUe = s.dramUe := rfl
@[simp] theorem State.updStr_events (i : Nat) (f : StreamState → StreamState) : (s.updStr i f).events = s.events := rfl
@[simp] theorem State.updStr_out (i : Nat) (f : StreamState → StreamState) : (s.updStr i f).out = s.out := rfl
@[simp] theorem State.updStr_fresh (i : Nat) (f : StreamState → StreamState) : (s.updStr i f).fresh = s.fresh := rfl
@[simp] theorem State.updStr_pins (i : Nat) (f : StreamState → StreamState) : (s.updStr i f).pins = s.pins := rfl
@[simp] theorem State.updStr_sites (i : Nat) (f : StreamState → StreamState) : (s.updStr i f).sites = Sparse.set (fun _ => Site.reset) s.sites i { s.site i with str := f (s.site i).str } := rfl
@[simp] theorem State.updStr_tb (i : Nat) (f : StreamState → StreamState) : (s.updStr i f).tb = s.tb := rfl
@[simp] theorem State.updStr_memory (i : Nat) (f : StreamState → StreamState) : (s.updStr i f).memory = s.memory := rfl
@[simp] theorem State.updStr_aud (i : Nat) (f : StreamState → StreamState) : (s.updStr i f).aud = s.aud := rfl
@[simp] theorem State.updStr_sec (i : Nat) (f : StreamState → StreamState) : (s.updStr i f).sec = s.sec := rfl
@[simp] theorem State.updStr_nv (i : Nat) (f : StreamState → StreamState) : (s.updStr i f).nv = s.nv := rfl
@[simp] theorem State.updStr_pwr (i : Nat) (f : StreamState → StreamState) : (s.updStr i f).pwr = s.pwr := rfl
@[simp] theorem State.updStr_iat (i : Nat) (f : StreamState → StreamState) : (s.updStr i f).iat = s.iat := rfl
@[simp] theorem State.updStr_cal (i : Nat) (f : StreamState → StreamState) : (s.updStr i f).cal = s.cal := rfl
@[simp] theorem State.updStr_red (i : Nat) (f : StreamState → StreamState) : (s.updStr i f).red = s.red := rfl
@[simp] theorem State.updStr_xe (i : Nat) (f : StreamState → StreamState) : (s.updStr i f).xe = s.xe := rfl
@[simp] theorem State.updStr_svc (i : Nat) (f : StreamState → StreamState) : (s.updStr i f).svc = s.svc := rfl
@[simp] theorem State.updStr_drc (i : Nat) (f : StreamState → StreamState) : (s.updStr i f).drc = s.drc := rfl
@[simp] theorem State.updStr_dma (i : Nat) (f : StreamState → StreamState) : (s.updStr i f).dma = s.dma := rfl
@[simp] theorem State.updStr_host (i : Nat) (f : StreamState → StreamState) : (s.updStr i f).host = s.host := rfl
@[simp] theorem State.updStr_boot (i : Nat) (f : StreamState → StreamState) : (s.updStr i f).boot = s.boot := rfl
@[simp] theorem State.updStr_reg (i : Nat) (f : StreamState → StreamState) (x : Nat) : (s.updStr i f).reg x = s.reg x := rfl
@[simp] theorem State.updStr_get (i : Nat) (f : StreamState → StreamState) (g : Fld) : (s.updStr i f).get g = s.get g := rfl
@[simp] theorem State.updStr_bit (i : Nat) (f : StreamState → StreamState) (g : Fld) : (s.updStr i f).bit g = s.bit g := rfl
@[simp] theorem State.updStr_pin (i : Nat) (f : StreamState → StreamState) (j : Nat) : (s.updStr i f).pin j = s.pin j := rfl
@[simp] theorem State.updStr_tick (i : Nat) (f : StreamState → StreamState) : (s.updStr i f).tick = s.tick := rfl

@[simp] theorem State.updCap_pending (i : Nat) (f : CaptureState → CaptureState) : (s.updCap i f).pending = s.pending := rfl
@[simp] theorem State.updCap_now (i : Nat) (f : CaptureState → CaptureState) : (s.updCap i f).now = s.now := rfl
@[simp] theorem State.updCap_regs (i : Nat) (f : CaptureState → CaptureState) : (s.updCap i f).regs = s.regs := rfl
@[simp] theorem State.updCap_locks (i : Nat) (f : CaptureState → CaptureState) : (s.updCap i f).locks = s.locks := rfl
@[simp] theorem State.updCap_lows (i : Nat) (f : CaptureState → CaptureState) : (s.updCap i f).lows = s.lows := rfl
@[simp] theorem State.updCap_latches (i : Nat) (f : CaptureState → CaptureState) : (s.updCap i f).latches = s.latches := rfl
@[simp] theorem State.updCap_mem (i : Nat) (f : CaptureState → CaptureState) : (s.updCap i f).mem = s.mem := rfl
@[simp] theorem State.updCap_memUe (i : Nat) (f : CaptureState → CaptureState) : (s.updCap i f).memUe = s.memUe := rfl
@[simp] theorem State.updCap_memCarried (i : Nat) (f : CaptureState → CaptureState) : (s.updCap i f).memCarried = s.memCarried := rfl
@[simp] theorem State.updCap_dram (i : Nat) (f : CaptureState → CaptureState) : (s.updCap i f).dram = s.dram := rfl
@[simp] theorem State.updCap_dramUe (i : Nat) (f : CaptureState → CaptureState) : (s.updCap i f).dramUe = s.dramUe := rfl
@[simp] theorem State.updCap_events (i : Nat) (f : CaptureState → CaptureState) : (s.updCap i f).events = s.events := rfl
@[simp] theorem State.updCap_out (i : Nat) (f : CaptureState → CaptureState) : (s.updCap i f).out = s.out := rfl
@[simp] theorem State.updCap_fresh (i : Nat) (f : CaptureState → CaptureState) : (s.updCap i f).fresh = s.fresh := rfl
@[simp] theorem State.updCap_pins (i : Nat) (f : CaptureState → CaptureState) : (s.updCap i f).pins = s.pins := rfl
@[simp] theorem State.updCap_sites (i : Nat) (f : CaptureState → CaptureState) : (s.updCap i f).sites = Sparse.set (fun _ => Site.reset) s.sites i { s.site i with cap := f (s.site i).cap } := rfl
@[simp] theorem State.updCap_tb (i : Nat) (f : CaptureState → CaptureState) : (s.updCap i f).tb = s.tb := rfl
@[simp] theorem State.updCap_memory (i : Nat) (f : CaptureState → CaptureState) : (s.updCap i f).memory = s.memory := rfl
@[simp] theorem State.updCap_aud (i : Nat) (f : CaptureState → CaptureState) : (s.updCap i f).aud = s.aud := rfl
@[simp] theorem State.updCap_sec (i : Nat) (f : CaptureState → CaptureState) : (s.updCap i f).sec = s.sec := rfl
@[simp] theorem State.updCap_nv (i : Nat) (f : CaptureState → CaptureState) : (s.updCap i f).nv = s.nv := rfl
@[simp] theorem State.updCap_pwr (i : Nat) (f : CaptureState → CaptureState) : (s.updCap i f).pwr = s.pwr := rfl
@[simp] theorem State.updCap_iat (i : Nat) (f : CaptureState → CaptureState) : (s.updCap i f).iat = s.iat := rfl
@[simp] theorem State.updCap_cal (i : Nat) (f : CaptureState → CaptureState) : (s.updCap i f).cal = s.cal := rfl
@[simp] theorem State.updCap_red (i : Nat) (f : CaptureState → CaptureState) : (s.updCap i f).red = s.red := rfl
@[simp] theorem State.updCap_xe (i : Nat) (f : CaptureState → CaptureState) : (s.updCap i f).xe = s.xe := rfl
@[simp] theorem State.updCap_svc (i : Nat) (f : CaptureState → CaptureState) : (s.updCap i f).svc = s.svc := rfl
@[simp] theorem State.updCap_drc (i : Nat) (f : CaptureState → CaptureState) : (s.updCap i f).drc = s.drc := rfl
@[simp] theorem State.updCap_dma (i : Nat) (f : CaptureState → CaptureState) : (s.updCap i f).dma = s.dma := rfl
@[simp] theorem State.updCap_host (i : Nat) (f : CaptureState → CaptureState) : (s.updCap i f).host = s.host := rfl
@[simp] theorem State.updCap_boot (i : Nat) (f : CaptureState → CaptureState) : (s.updCap i f).boot = s.boot := rfl
@[simp] theorem State.updCap_reg (i : Nat) (f : CaptureState → CaptureState) (x : Nat) : (s.updCap i f).reg x = s.reg x := rfl
@[simp] theorem State.updCap_get (i : Nat) (f : CaptureState → CaptureState) (g : Fld) : (s.updCap i f).get g = s.get g := rfl
@[simp] theorem State.updCap_bit (i : Nat) (f : CaptureState → CaptureState) (g : Fld) : (s.updCap i f).bit g = s.bit g := rfl
@[simp] theorem State.updCap_pin (i : Nat) (f : CaptureState → CaptureState) (j : Nat) : (s.updCap i f).pin j = s.pin j := rfl
@[simp] theorem State.updCap_tick (i : Nat) (f : CaptureState → CaptureState) : (s.updCap i f).tick = s.tick := rfl

@[simp] theorem State.updSeq_pending (i : Nat) (f : SeqState → SeqState) : (s.updSeq i f).pending = s.pending := rfl
@[simp] theorem State.updSeq_now (i : Nat) (f : SeqState → SeqState) : (s.updSeq i f).now = s.now := rfl
@[simp] theorem State.updSeq_regs (i : Nat) (f : SeqState → SeqState) : (s.updSeq i f).regs = s.regs := rfl
@[simp] theorem State.updSeq_locks (i : Nat) (f : SeqState → SeqState) : (s.updSeq i f).locks = s.locks := rfl
@[simp] theorem State.updSeq_lows (i : Nat) (f : SeqState → SeqState) : (s.updSeq i f).lows = s.lows := rfl
@[simp] theorem State.updSeq_latches (i : Nat) (f : SeqState → SeqState) : (s.updSeq i f).latches = s.latches := rfl
@[simp] theorem State.updSeq_mem (i : Nat) (f : SeqState → SeqState) : (s.updSeq i f).mem = s.mem := rfl
@[simp] theorem State.updSeq_memUe (i : Nat) (f : SeqState → SeqState) : (s.updSeq i f).memUe = s.memUe := rfl
@[simp] theorem State.updSeq_memCarried (i : Nat) (f : SeqState → SeqState) : (s.updSeq i f).memCarried = s.memCarried := rfl
@[simp] theorem State.updSeq_dram (i : Nat) (f : SeqState → SeqState) : (s.updSeq i f).dram = s.dram := rfl
@[simp] theorem State.updSeq_dramUe (i : Nat) (f : SeqState → SeqState) : (s.updSeq i f).dramUe = s.dramUe := rfl
@[simp] theorem State.updSeq_events (i : Nat) (f : SeqState → SeqState) : (s.updSeq i f).events = s.events := rfl
@[simp] theorem State.updSeq_out (i : Nat) (f : SeqState → SeqState) : (s.updSeq i f).out = s.out := rfl
@[simp] theorem State.updSeq_fresh (i : Nat) (f : SeqState → SeqState) : (s.updSeq i f).fresh = s.fresh := rfl
@[simp] theorem State.updSeq_pins (i : Nat) (f : SeqState → SeqState) : (s.updSeq i f).pins = s.pins := rfl
@[simp] theorem State.updSeq_sites (i : Nat) (f : SeqState → SeqState) : (s.updSeq i f).sites = Sparse.set (fun _ => Site.reset) s.sites i { s.site i with seq := f (s.site i).seq } := rfl
@[simp] theorem State.updSeq_tb (i : Nat) (f : SeqState → SeqState) : (s.updSeq i f).tb = s.tb := rfl
@[simp] theorem State.updSeq_memory (i : Nat) (f : SeqState → SeqState) : (s.updSeq i f).memory = s.memory := rfl
@[simp] theorem State.updSeq_aud (i : Nat) (f : SeqState → SeqState) : (s.updSeq i f).aud = s.aud := rfl
@[simp] theorem State.updSeq_sec (i : Nat) (f : SeqState → SeqState) : (s.updSeq i f).sec = s.sec := rfl
@[simp] theorem State.updSeq_nv (i : Nat) (f : SeqState → SeqState) : (s.updSeq i f).nv = s.nv := rfl
@[simp] theorem State.updSeq_pwr (i : Nat) (f : SeqState → SeqState) : (s.updSeq i f).pwr = s.pwr := rfl
@[simp] theorem State.updSeq_iat (i : Nat) (f : SeqState → SeqState) : (s.updSeq i f).iat = s.iat := rfl
@[simp] theorem State.updSeq_cal (i : Nat) (f : SeqState → SeqState) : (s.updSeq i f).cal = s.cal := rfl
@[simp] theorem State.updSeq_red (i : Nat) (f : SeqState → SeqState) : (s.updSeq i f).red = s.red := rfl
@[simp] theorem State.updSeq_xe (i : Nat) (f : SeqState → SeqState) : (s.updSeq i f).xe = s.xe := rfl
@[simp] theorem State.updSeq_svc (i : Nat) (f : SeqState → SeqState) : (s.updSeq i f).svc = s.svc := rfl
@[simp] theorem State.updSeq_drc (i : Nat) (f : SeqState → SeqState) : (s.updSeq i f).drc = s.drc := rfl
@[simp] theorem State.updSeq_dma (i : Nat) (f : SeqState → SeqState) : (s.updSeq i f).dma = s.dma := rfl
@[simp] theorem State.updSeq_host (i : Nat) (f : SeqState → SeqState) : (s.updSeq i f).host = s.host := rfl
@[simp] theorem State.updSeq_boot (i : Nat) (f : SeqState → SeqState) : (s.updSeq i f).boot = s.boot := rfl
@[simp] theorem State.updSeq_reg (i : Nat) (f : SeqState → SeqState) (x : Nat) : (s.updSeq i f).reg x = s.reg x := rfl
@[simp] theorem State.updSeq_get (i : Nat) (f : SeqState → SeqState) (g : Fld) : (s.updSeq i f).get g = s.get g := rfl
@[simp] theorem State.updSeq_bit (i : Nat) (f : SeqState → SeqState) (g : Fld) : (s.updSeq i f).bit g = s.bit g := rfl
@[simp] theorem State.updSeq_pin (i : Nat) (f : SeqState → SeqState) (j : Nat) : (s.updSeq i f).pin j = s.pin j := rfl
@[simp] theorem State.updSeq_tick (i : Nat) (f : SeqState → SeqState) : (s.updSeq i f).tick = s.tick := rfl

@[simp] theorem State.at__pending (t : Nat) : (s.at_ t).pending = s.pending := rfl
@[simp] theorem State.at__now (t : Nat) : (s.at_ t).now = max s.now t := rfl
@[simp] theorem State.at__regs (t : Nat) : (s.at_ t).regs = s.regs := rfl
@[simp] theorem State.at__locks (t : Nat) : (s.at_ t).locks = s.locks := rfl
@[simp] theorem State.at__lows (t : Nat) : (s.at_ t).lows = s.lows := rfl
@[simp] theorem State.at__latches (t : Nat) : (s.at_ t).latches = s.latches := rfl
@[simp] theorem State.at__mem (t : Nat) : (s.at_ t).mem = s.mem := rfl
@[simp] theorem State.at__memUe (t : Nat) : (s.at_ t).memUe = s.memUe := rfl
@[simp] theorem State.at__memCarried (t : Nat) : (s.at_ t).memCarried = s.memCarried := rfl
@[simp] theorem State.at__dram (t : Nat) : (s.at_ t).dram = s.dram := rfl
@[simp] theorem State.at__dramUe (t : Nat) : (s.at_ t).dramUe = s.dramUe := rfl
@[simp] theorem State.at__events (t : Nat) : (s.at_ t).events = s.events := rfl
@[simp] theorem State.at__out (t : Nat) : (s.at_ t).out = s.out := rfl
@[simp] theorem State.at__fresh (t : Nat) : (s.at_ t).fresh = s.fresh := rfl
@[simp] theorem State.at__pins (t : Nat) : (s.at_ t).pins = s.pins := rfl
@[simp] theorem State.at__sites (t : Nat) : (s.at_ t).sites = s.sites := rfl
@[simp] theorem State.at__tb (t : Nat) : (s.at_ t).tb = s.tb := rfl
@[simp] theorem State.at__memory (t : Nat) : (s.at_ t).memory = s.memory := rfl
@[simp] theorem State.at__aud (t : Nat) : (s.at_ t).aud = s.aud := rfl
@[simp] theorem State.at__sec (t : Nat) : (s.at_ t).sec = s.sec := rfl
@[simp] theorem State.at__nv (t : Nat) : (s.at_ t).nv = s.nv := rfl
@[simp] theorem State.at__pwr (t : Nat) : (s.at_ t).pwr = s.pwr := rfl
@[simp] theorem State.at__iat (t : Nat) : (s.at_ t).iat = s.iat := rfl
@[simp] theorem State.at__cal (t : Nat) : (s.at_ t).cal = s.cal := rfl
@[simp] theorem State.at__red (t : Nat) : (s.at_ t).red = s.red := rfl
@[simp] theorem State.at__xe (t : Nat) : (s.at_ t).xe = s.xe := rfl
@[simp] theorem State.at__svc (t : Nat) : (s.at_ t).svc = s.svc := rfl
@[simp] theorem State.at__drc (t : Nat) : (s.at_ t).drc = s.drc := rfl
@[simp] theorem State.at__dma (t : Nat) : (s.at_ t).dma = s.dma := rfl
@[simp] theorem State.at__host (t : Nat) : (s.at_ t).host = s.host := rfl
@[simp] theorem State.at__boot (t : Nat) : (s.at_ t).boot = s.boot := rfl
@[simp] theorem State.at__reg (t : Nat) (x : Nat) : (s.at_ t).reg x = s.reg x := rfl
@[simp] theorem State.at__get (t : Nat) (g : Fld) : (s.at_ t).get g = s.get g := rfl
@[simp] theorem State.at__bit (t : Nat) (g : Fld) : (s.at_ t).bit g = s.bit g := rfl
@[simp] theorem State.at__site (t : Nat) (j : Nat) : (s.at_ t).site j = s.site j := rfl
@[simp] theorem State.at__pin (t : Nat) (j : Nat) : (s.at_ t).pin j = s.pin j := rfl

@[simp] theorem State.emit_pending (o : Out) : (s.emit o).pending = s.pending := rfl
@[simp] theorem State.emit_now (o : Out) : (s.emit o).now = s.now := rfl
@[simp] theorem State.emit_regs (o : Out) : (s.emit o).regs = s.regs := rfl
@[simp] theorem State.emit_locks (o : Out) : (s.emit o).locks = s.locks := rfl
@[simp] theorem State.emit_lows (o : Out) : (s.emit o).lows = s.lows := rfl
@[simp] theorem State.emit_latches (o : Out) : (s.emit o).latches = s.latches := rfl
@[simp] theorem State.emit_mem (o : Out) : (s.emit o).mem = s.mem := rfl
@[simp] theorem State.emit_memUe (o : Out) : (s.emit o).memUe = s.memUe := rfl
@[simp] theorem State.emit_memCarried (o : Out) : (s.emit o).memCarried = s.memCarried := rfl
@[simp] theorem State.emit_dram (o : Out) : (s.emit o).dram = s.dram := rfl
@[simp] theorem State.emit_dramUe (o : Out) : (s.emit o).dramUe = s.dramUe := rfl
@[simp] theorem State.emit_events (o : Out) : (s.emit o).events = s.events := rfl
@[simp] theorem State.emit_out (o : Out) : (s.emit o).out = s.out ++ [o] := rfl
@[simp] theorem State.emit_fresh (o : Out) : (s.emit o).fresh = s.fresh := rfl
@[simp] theorem State.emit_pins (o : Out) : (s.emit o).pins = s.pins := rfl
@[simp] theorem State.emit_sites (o : Out) : (s.emit o).sites = s.sites := rfl
@[simp] theorem State.emit_tb (o : Out) : (s.emit o).tb = s.tb := rfl
@[simp] theorem State.emit_memory (o : Out) : (s.emit o).memory = s.memory := rfl
@[simp] theorem State.emit_aud (o : Out) : (s.emit o).aud = s.aud := rfl
@[simp] theorem State.emit_sec (o : Out) : (s.emit o).sec = s.sec := rfl
@[simp] theorem State.emit_nv (o : Out) : (s.emit o).nv = s.nv := rfl
@[simp] theorem State.emit_pwr (o : Out) : (s.emit o).pwr = s.pwr := rfl
@[simp] theorem State.emit_iat (o : Out) : (s.emit o).iat = s.iat := rfl
@[simp] theorem State.emit_cal (o : Out) : (s.emit o).cal = s.cal := rfl
@[simp] theorem State.emit_red (o : Out) : (s.emit o).red = s.red := rfl
@[simp] theorem State.emit_xe (o : Out) : (s.emit o).xe = s.xe := rfl
@[simp] theorem State.emit_svc (o : Out) : (s.emit o).svc = s.svc := rfl
@[simp] theorem State.emit_drc (o : Out) : (s.emit o).drc = s.drc := rfl
@[simp] theorem State.emit_dma (o : Out) : (s.emit o).dma = s.dma := rfl
@[simp] theorem State.emit_host (o : Out) : (s.emit o).host = s.host := rfl
@[simp] theorem State.emit_boot (o : Out) : (s.emit o).boot = s.boot := rfl
@[simp] theorem State.emit_reg (o : Out) (x : Nat) : (s.emit o).reg x = s.reg x := rfl
@[simp] theorem State.emit_get (o : Out) (g : Fld) : (s.emit o).get g = s.get g := rfl
@[simp] theorem State.emit_bit (o : Out) (g : Fld) : (s.emit o).bit g = s.bit g := rfl
@[simp] theorem State.emit_site (o : Out) (j : Nat) : (s.emit o).site j = s.site j := rfl
@[simp] theorem State.emit_pin (o : Out) (j : Nat) : (s.emit o).pin j = s.pin j := rfl
@[simp] theorem State.emit_tick (o : Out) : (s.emit o).tick = s.tick := rfl

@[simp] theorem State.tickFresh_pending : (s.tickFresh).pending = s.pending := rfl
@[simp] theorem State.tickFresh_now : (s.tickFresh).now = s.now := rfl
@[simp] theorem State.tickFresh_regs : (s.tickFresh).regs = s.regs := rfl
@[simp] theorem State.tickFresh_locks : (s.tickFresh).locks = s.locks := rfl
@[simp] theorem State.tickFresh_lows : (s.tickFresh).lows = s.lows := rfl
@[simp] theorem State.tickFresh_latches : (s.tickFresh).latches = s.latches := rfl
@[simp] theorem State.tickFresh_mem : (s.tickFresh).mem = s.mem := rfl
@[simp] theorem State.tickFresh_memUe : (s.tickFresh).memUe = s.memUe := rfl
@[simp] theorem State.tickFresh_memCarried : (s.tickFresh).memCarried = s.memCarried := rfl
@[simp] theorem State.tickFresh_dram : (s.tickFresh).dram = s.dram := rfl
@[simp] theorem State.tickFresh_dramUe : (s.tickFresh).dramUe = s.dramUe := rfl
@[simp] theorem State.tickFresh_events : (s.tickFresh).events = s.events := rfl
@[simp] theorem State.tickFresh_out : (s.tickFresh).out = s.out := rfl
@[simp] theorem State.tickFresh_fresh : (s.tickFresh).fresh = s.fresh + 1 := rfl
@[simp] theorem State.tickFresh_pins : (s.tickFresh).pins = s.pins := rfl
@[simp] theorem State.tickFresh_sites : (s.tickFresh).sites = s.sites := rfl
@[simp] theorem State.tickFresh_tb : (s.tickFresh).tb = s.tb := rfl
@[simp] theorem State.tickFresh_memory : (s.tickFresh).memory = s.memory := rfl
@[simp] theorem State.tickFresh_aud : (s.tickFresh).aud = s.aud := rfl
@[simp] theorem State.tickFresh_sec : (s.tickFresh).sec = s.sec := rfl
@[simp] theorem State.tickFresh_nv : (s.tickFresh).nv = s.nv := rfl
@[simp] theorem State.tickFresh_pwr : (s.tickFresh).pwr = s.pwr := rfl
@[simp] theorem State.tickFresh_iat : (s.tickFresh).iat = s.iat := rfl
@[simp] theorem State.tickFresh_cal : (s.tickFresh).cal = s.cal := rfl
@[simp] theorem State.tickFresh_red : (s.tickFresh).red = s.red := rfl
@[simp] theorem State.tickFresh_xe : (s.tickFresh).xe = s.xe := rfl
@[simp] theorem State.tickFresh_svc : (s.tickFresh).svc = s.svc := rfl
@[simp] theorem State.tickFresh_drc : (s.tickFresh).drc = s.drc := rfl
@[simp] theorem State.tickFresh_dma : (s.tickFresh).dma = s.dma := rfl
@[simp] theorem State.tickFresh_host : (s.tickFresh).host = s.host := rfl
@[simp] theorem State.tickFresh_boot : (s.tickFresh).boot = s.boot := rfl
@[simp] theorem State.tickFresh_reg (x : Nat) : (s.tickFresh).reg x = s.reg x := rfl
@[simp] theorem State.tickFresh_get (g : Fld) : (s.tickFresh).get g = s.get g := rfl
@[simp] theorem State.tickFresh_bit (g : Fld) : (s.tickFresh).bit g = s.bit g := rfl
@[simp] theorem State.tickFresh_site (j : Nat) : (s.tickFresh).site j = s.site j := rfl
@[simp] theorem State.tickFresh_pin (j : Nat) : (s.tickFresh).pin j = s.pin j := rfl
@[simp] theorem State.tickFresh_tick  : (s.tickFresh).tick = s.tick := rfl

@[simp] theorem State.skipFresh_pending (n : Nat) : (s.skipFresh n).pending = s.pending := rfl
@[simp] theorem State.skipFresh_now (n : Nat) : (s.skipFresh n).now = s.now := rfl
@[simp] theorem State.skipFresh_regs (n : Nat) : (s.skipFresh n).regs = s.regs := rfl
@[simp] theorem State.skipFresh_locks (n : Nat) : (s.skipFresh n).locks = s.locks := rfl
@[simp] theorem State.skipFresh_lows (n : Nat) : (s.skipFresh n).lows = s.lows := rfl
@[simp] theorem State.skipFresh_latches (n : Nat) : (s.skipFresh n).latches = s.latches := rfl
@[simp] theorem State.skipFresh_mem (n : Nat) : (s.skipFresh n).mem = s.mem := rfl
@[simp] theorem State.skipFresh_memUe (n : Nat) : (s.skipFresh n).memUe = s.memUe := rfl
@[simp] theorem State.skipFresh_memCarried (n : Nat) : (s.skipFresh n).memCarried = s.memCarried := rfl
@[simp] theorem State.skipFresh_dram (n : Nat) : (s.skipFresh n).dram = s.dram := rfl
@[simp] theorem State.skipFresh_dramUe (n : Nat) : (s.skipFresh n).dramUe = s.dramUe := rfl
@[simp] theorem State.skipFresh_events (n : Nat) : (s.skipFresh n).events = s.events := rfl
@[simp] theorem State.skipFresh_out (n : Nat) : (s.skipFresh n).out = s.out := rfl
@[simp] theorem State.skipFresh_fresh (n : Nat) : (s.skipFresh n).fresh = s.fresh + n := rfl
@[simp] theorem State.skipFresh_pins (n : Nat) : (s.skipFresh n).pins = s.pins := rfl
@[simp] theorem State.skipFresh_sites (n : Nat) : (s.skipFresh n).sites = s.sites := rfl
@[simp] theorem State.skipFresh_tb (n : Nat) : (s.skipFresh n).tb = s.tb := rfl
@[simp] theorem State.skipFresh_memory (n : Nat) : (s.skipFresh n).memory = s.memory := rfl
@[simp] theorem State.skipFresh_aud (n : Nat) : (s.skipFresh n).aud = s.aud := rfl
@[simp] theorem State.skipFresh_sec (n : Nat) : (s.skipFresh n).sec = s.sec := rfl
@[simp] theorem State.skipFresh_nv (n : Nat) : (s.skipFresh n).nv = s.nv := rfl
@[simp] theorem State.skipFresh_pwr (n : Nat) : (s.skipFresh n).pwr = s.pwr := rfl
@[simp] theorem State.skipFresh_iat (n : Nat) : (s.skipFresh n).iat = s.iat := rfl
@[simp] theorem State.skipFresh_cal (n : Nat) : (s.skipFresh n).cal = s.cal := rfl
@[simp] theorem State.skipFresh_red (n : Nat) : (s.skipFresh n).red = s.red := rfl
@[simp] theorem State.skipFresh_xe (n : Nat) : (s.skipFresh n).xe = s.xe := rfl
@[simp] theorem State.skipFresh_svc (n : Nat) : (s.skipFresh n).svc = s.svc := rfl
@[simp] theorem State.skipFresh_drc (n : Nat) : (s.skipFresh n).drc = s.drc := rfl
@[simp] theorem State.skipFresh_dma (n : Nat) : (s.skipFresh n).dma = s.dma := rfl
@[simp] theorem State.skipFresh_host (n : Nat) : (s.skipFresh n).host = s.host := rfl
@[simp] theorem State.skipFresh_boot (n : Nat) : (s.skipFresh n).boot = s.boot := rfl
@[simp] theorem State.skipFresh_reg (n : Nat) (x : Nat) : (s.skipFresh n).reg x = s.reg x := rfl
@[simp] theorem State.skipFresh_get (n : Nat) (g : Fld) : (s.skipFresh n).get g = s.get g := rfl
@[simp] theorem State.skipFresh_bit (n : Nat) (g : Fld) : (s.skipFresh n).bit g = s.bit g := rfl
@[simp] theorem State.skipFresh_site (n : Nat) (j : Nat) : (s.skipFresh n).site j = s.site j := rfl
@[simp] theorem State.skipFresh_pin (n : Nat) (j : Nat) : (s.skipFresh n).pin j = s.pin j := rfl
@[simp] theorem State.skipFresh_tick (n : Nat) : (s.skipFresh n).tick = s.tick := rfl

@[simp] theorem State.raise_pending (code source data : Nat) : (s.raise code source data).pending = s.pending := rfl
@[simp] theorem State.raise_now (code source data : Nat) : (s.raise code source data).now = s.now := rfl
@[simp] theorem State.raise_regs (code source data : Nat) : (s.raise code source data).regs = s.regs := rfl
@[simp] theorem State.raise_locks (code source data : Nat) : (s.raise code source data).locks = s.locks := rfl
@[simp] theorem State.raise_lows (code source data : Nat) : (s.raise code source data).lows = s.lows := rfl
@[simp] theorem State.raise_latches (code source data : Nat) : (s.raise code source data).latches = s.latches := rfl
@[simp] theorem State.raise_mem (code source data : Nat) : (s.raise code source data).mem = s.mem := rfl
@[simp] theorem State.raise_memUe (code source data : Nat) : (s.raise code source data).memUe = s.memUe := rfl
@[simp] theorem State.raise_memCarried (code source data : Nat) : (s.raise code source data).memCarried = s.memCarried := rfl
@[simp] theorem State.raise_dram (code source data : Nat) : (s.raise code source data).dram = s.dram := rfl
@[simp] theorem State.raise_dramUe (code source data : Nat) : (s.raise code source data).dramUe = s.dramUe := rfl
@[simp] theorem State.raise_events (code source data : Nat) : (s.raise code source data).events = s.events ++ [⟨code, source % 2 ^ 16, data % 2 ^ 32, s.tick⟩] := rfl
@[simp] theorem State.raise_out (code source data : Nat) : (s.raise code source data).out = s.out := rfl
@[simp] theorem State.raise_fresh (code source data : Nat) : (s.raise code source data).fresh = s.fresh := rfl
@[simp] theorem State.raise_pins (code source data : Nat) : (s.raise code source data).pins = s.pins := rfl
@[simp] theorem State.raise_sites (code source data : Nat) : (s.raise code source data).sites = s.sites := rfl
@[simp] theorem State.raise_tb (code source data : Nat) : (s.raise code source data).tb = s.tb := rfl
@[simp] theorem State.raise_memory (code source data : Nat) : (s.raise code source data).memory = s.memory := rfl
@[simp] theorem State.raise_aud (code source data : Nat) : (s.raise code source data).aud = s.aud := rfl
@[simp] theorem State.raise_sec (code source data : Nat) : (s.raise code source data).sec = s.sec := rfl
@[simp] theorem State.raise_nv (code source data : Nat) : (s.raise code source data).nv = s.nv := rfl
@[simp] theorem State.raise_pwr (code source data : Nat) : (s.raise code source data).pwr = s.pwr := rfl
@[simp] theorem State.raise_iat (code source data : Nat) : (s.raise code source data).iat = s.iat := rfl
@[simp] theorem State.raise_cal (code source data : Nat) : (s.raise code source data).cal = s.cal := rfl
@[simp] theorem State.raise_red (code source data : Nat) : (s.raise code source data).red = s.red := rfl
@[simp] theorem State.raise_xe (code source data : Nat) : (s.raise code source data).xe = s.xe := rfl
@[simp] theorem State.raise_svc (code source data : Nat) : (s.raise code source data).svc = s.svc := rfl
@[simp] theorem State.raise_drc (code source data : Nat) : (s.raise code source data).drc = s.drc := rfl
@[simp] theorem State.raise_dma (code source data : Nat) : (s.raise code source data).dma = s.dma := rfl
@[simp] theorem State.raise_host (code source data : Nat) : (s.raise code source data).host = s.host := rfl
@[simp] theorem State.raise_boot (code source data : Nat) : (s.raise code source data).boot = s.boot := rfl
@[simp] theorem State.raise_reg (code source data : Nat) (x : Nat) : (s.raise code source data).reg x = s.reg x := rfl
@[simp] theorem State.raise_get (code source data : Nat) (g : Fld) : (s.raise code source data).get g = s.get g := rfl
@[simp] theorem State.raise_bit (code source data : Nat) (g : Fld) : (s.raise code source data).bit g = s.bit g := rfl
@[simp] theorem State.raise_site (code source data : Nat) (j : Nat) : (s.raise code source data).site j = s.site j := rfl
@[simp] theorem State.raise_pin (code source data : Nat) (j : Nat) : (s.raise code source data).pin j = s.pin j := rfl
@[simp] theorem State.raise_tick (code source data : Nat) : (s.raise code source data).tick = s.tick := rfl

@[simp] theorem State.ocmPut_pending (y : Nat) (b : Byte) : (s.ocmPut y b).pending = s.pending := rfl
@[simp] theorem State.ocmPut_now (y : Nat) (b : Byte) : (s.ocmPut y b).now = s.now := rfl
@[simp] theorem State.ocmPut_regs (y : Nat) (b : Byte) : (s.ocmPut y b).regs = s.regs := rfl
@[simp] theorem State.ocmPut_locks (y : Nat) (b : Byte) : (s.ocmPut y b).locks = s.locks := rfl
@[simp] theorem State.ocmPut_lows (y : Nat) (b : Byte) : (s.ocmPut y b).lows = s.lows := rfl
@[simp] theorem State.ocmPut_latches (y : Nat) (b : Byte) : (s.ocmPut y b).latches = s.latches := rfl
@[simp] theorem State.ocmPut_memUe (y : Nat) (b : Byte) : (s.ocmPut y b).memUe = s.memUe := rfl
@[simp] theorem State.ocmPut_memCarried (y : Nat) (b : Byte) : (s.ocmPut y b).memCarried = s.memCarried := rfl
@[simp] theorem State.ocmPut_dram (y : Nat) (b : Byte) : (s.ocmPut y b).dram = s.dram := rfl
@[simp] theorem State.ocmPut_dramUe (y : Nat) (b : Byte) : (s.ocmPut y b).dramUe = s.dramUe := rfl
@[simp] theorem State.ocmPut_events (y : Nat) (b : Byte) : (s.ocmPut y b).events = s.events := rfl
@[simp] theorem State.ocmPut_out (y : Nat) (b : Byte) : (s.ocmPut y b).out = s.out := rfl
@[simp] theorem State.ocmPut_fresh (y : Nat) (b : Byte) : (s.ocmPut y b).fresh = s.fresh := rfl
@[simp] theorem State.ocmPut_pins (y : Nat) (b : Byte) : (s.ocmPut y b).pins = s.pins := rfl
@[simp] theorem State.ocmPut_sites (y : Nat) (b : Byte) : (s.ocmPut y b).sites = s.sites := rfl
@[simp] theorem State.ocmPut_tb (y : Nat) (b : Byte) : (s.ocmPut y b).tb = s.tb := rfl
@[simp] theorem State.ocmPut_memory (y : Nat) (b : Byte) : (s.ocmPut y b).memory = s.memory := rfl
@[simp] theorem State.ocmPut_aud (y : Nat) (b : Byte) : (s.ocmPut y b).aud = s.aud := rfl
@[simp] theorem State.ocmPut_sec (y : Nat) (b : Byte) : (s.ocmPut y b).sec = s.sec := rfl
@[simp] theorem State.ocmPut_nv (y : Nat) (b : Byte) : (s.ocmPut y b).nv = s.nv := rfl
@[simp] theorem State.ocmPut_pwr (y : Nat) (b : Byte) : (s.ocmPut y b).pwr = s.pwr := rfl
@[simp] theorem State.ocmPut_iat (y : Nat) (b : Byte) : (s.ocmPut y b).iat = s.iat := rfl
@[simp] theorem State.ocmPut_cal (y : Nat) (b : Byte) : (s.ocmPut y b).cal = s.cal := rfl
@[simp] theorem State.ocmPut_red (y : Nat) (b : Byte) : (s.ocmPut y b).red = s.red := rfl
@[simp] theorem State.ocmPut_xe (y : Nat) (b : Byte) : (s.ocmPut y b).xe = s.xe := rfl
@[simp] theorem State.ocmPut_svc (y : Nat) (b : Byte) : (s.ocmPut y b).svc = s.svc := rfl
@[simp] theorem State.ocmPut_drc (y : Nat) (b : Byte) : (s.ocmPut y b).drc = s.drc := rfl
@[simp] theorem State.ocmPut_dma (y : Nat) (b : Byte) : (s.ocmPut y b).dma = s.dma := rfl
@[simp] theorem State.ocmPut_host (y : Nat) (b : Byte) : (s.ocmPut y b).host = s.host := rfl
@[simp] theorem State.ocmPut_boot (y : Nat) (b : Byte) : (s.ocmPut y b).boot = s.boot := rfl
@[simp] theorem State.ocmPut_reg (y : Nat) (b : Byte) (x : Nat) : (s.ocmPut y b).reg x = s.reg x := rfl
@[simp] theorem State.ocmPut_get (y : Nat) (b : Byte) (g : Fld) : (s.ocmPut y b).get g = s.get g := rfl
@[simp] theorem State.ocmPut_bit (y : Nat) (b : Byte) (g : Fld) : (s.ocmPut y b).bit g = s.bit g := rfl
@[simp] theorem State.ocmPut_site (y : Nat) (b : Byte) (j : Nat) : (s.ocmPut y b).site j = s.site j := rfl
@[simp] theorem State.ocmPut_pin (y : Nat) (b : Byte) (j : Nat) : (s.ocmPut y b).pin j = s.pin j := rfl
@[simp] theorem State.ocmPut_tick (y : Nat) (b : Byte) : (s.ocmPut y b).tick = s.tick := rfl

@[simp] theorem State.dramWrite_pending (y : Nat) (bs : List Byte) : (s.dramWrite y bs).pending = s.pending := rfl
@[simp] theorem State.dramWrite_now (y : Nat) (bs : List Byte) : (s.dramWrite y bs).now = s.now := rfl
@[simp] theorem State.dramWrite_regs (y : Nat) (bs : List Byte) : (s.dramWrite y bs).regs = s.regs := rfl
@[simp] theorem State.dramWrite_locks (y : Nat) (bs : List Byte) : (s.dramWrite y bs).locks = s.locks := rfl
@[simp] theorem State.dramWrite_lows (y : Nat) (bs : List Byte) : (s.dramWrite y bs).lows = s.lows := rfl
@[simp] theorem State.dramWrite_latches (y : Nat) (bs : List Byte) : (s.dramWrite y bs).latches = s.latches := rfl
@[simp] theorem State.dramWrite_mem (y : Nat) (bs : List Byte) : (s.dramWrite y bs).mem = s.mem := rfl
@[simp] theorem State.dramWrite_memUe (y : Nat) (bs : List Byte) : (s.dramWrite y bs).memUe = s.memUe := rfl
@[simp] theorem State.dramWrite_memCarried (y : Nat) (bs : List Byte) : (s.dramWrite y bs).memCarried = s.memCarried := rfl
@[simp] theorem State.dramWrite_dram (y : Nat) (bs : List Byte) : (s.dramWrite y bs).dram = Sparse.setMany memDefault s.dram y bs := rfl
@[simp] theorem State.dramWrite_dramUe (y : Nat) (bs : List Byte) : (s.dramWrite y bs).dramUe = s.dramUe := rfl
@[simp] theorem State.dramWrite_events (y : Nat) (bs : List Byte) : (s.dramWrite y bs).events = s.events := rfl
@[simp] theorem State.dramWrite_out (y : Nat) (bs : List Byte) : (s.dramWrite y bs).out = s.out := rfl
@[simp] theorem State.dramWrite_fresh (y : Nat) (bs : List Byte) : (s.dramWrite y bs).fresh = s.fresh := rfl
@[simp] theorem State.dramWrite_pins (y : Nat) (bs : List Byte) : (s.dramWrite y bs).pins = s.pins := rfl
@[simp] theorem State.dramWrite_sites (y : Nat) (bs : List Byte) : (s.dramWrite y bs).sites = s.sites := rfl
@[simp] theorem State.dramWrite_tb (y : Nat) (bs : List Byte) : (s.dramWrite y bs).tb = s.tb := rfl
@[simp] theorem State.dramWrite_memory (y : Nat) (bs : List Byte) : (s.dramWrite y bs).memory = s.memory := rfl
@[simp] theorem State.dramWrite_aud (y : Nat) (bs : List Byte) : (s.dramWrite y bs).aud = s.aud := rfl
@[simp] theorem State.dramWrite_sec (y : Nat) (bs : List Byte) : (s.dramWrite y bs).sec = s.sec := rfl
@[simp] theorem State.dramWrite_nv (y : Nat) (bs : List Byte) : (s.dramWrite y bs).nv = s.nv := rfl
@[simp] theorem State.dramWrite_pwr (y : Nat) (bs : List Byte) : (s.dramWrite y bs).pwr = s.pwr := rfl
@[simp] theorem State.dramWrite_iat (y : Nat) (bs : List Byte) : (s.dramWrite y bs).iat = s.iat := rfl
@[simp] theorem State.dramWrite_cal (y : Nat) (bs : List Byte) : (s.dramWrite y bs).cal = s.cal := rfl
@[simp] theorem State.dramWrite_red (y : Nat) (bs : List Byte) : (s.dramWrite y bs).red = s.red := rfl
@[simp] theorem State.dramWrite_xe (y : Nat) (bs : List Byte) : (s.dramWrite y bs).xe = s.xe := rfl
@[simp] theorem State.dramWrite_svc (y : Nat) (bs : List Byte) : (s.dramWrite y bs).svc = s.svc := rfl
@[simp] theorem State.dramWrite_drc (y : Nat) (bs : List Byte) : (s.dramWrite y bs).drc = s.drc := rfl
@[simp] theorem State.dramWrite_dma (y : Nat) (bs : List Byte) : (s.dramWrite y bs).dma = s.dma := rfl
@[simp] theorem State.dramWrite_host (y : Nat) (bs : List Byte) : (s.dramWrite y bs).host = s.host := rfl
@[simp] theorem State.dramWrite_boot (y : Nat) (bs : List Byte) : (s.dramWrite y bs).boot = s.boot := rfl
@[simp] theorem State.dramWrite_reg (y : Nat) (bs : List Byte) (x : Nat) : (s.dramWrite y bs).reg x = s.reg x := rfl
@[simp] theorem State.dramWrite_get (y : Nat) (bs : List Byte) (g : Fld) : (s.dramWrite y bs).get g = s.get g := rfl
@[simp] theorem State.dramWrite_bit (y : Nat) (bs : List Byte) (g : Fld) : (s.dramWrite y bs).bit g = s.bit g := rfl
@[simp] theorem State.dramWrite_site (y : Nat) (bs : List Byte) (j : Nat) : (s.dramWrite y bs).site j = s.site j := rfl
@[simp] theorem State.dramWrite_pin (y : Nat) (bs : List Byte) (j : Nat) : (s.dramWrite y bs).pin j = s.pin j := rfl
@[simp] theorem State.dramWrite_tick (y : Nat) (bs : List Byte) : (s.dramWrite y bs).tick = s.tick := rfl

@[simp] theorem State.dramClean_pending (y : Nat) : (s.dramClean y).pending = s.pending := rfl
@[simp] theorem State.dramClean_now (y : Nat) : (s.dramClean y).now = s.now := rfl
@[simp] theorem State.dramClean_regs (y : Nat) : (s.dramClean y).regs = s.regs := rfl
@[simp] theorem State.dramClean_locks (y : Nat) : (s.dramClean y).locks = s.locks := rfl
@[simp] theorem State.dramClean_lows (y : Nat) : (s.dramClean y).lows = s.lows := rfl
@[simp] theorem State.dramClean_latches (y : Nat) : (s.dramClean y).latches = s.latches := rfl
@[simp] theorem State.dramClean_mem (y : Nat) : (s.dramClean y).mem = s.mem := rfl
@[simp] theorem State.dramClean_memUe (y : Nat) : (s.dramClean y).memUe = s.memUe := rfl
@[simp] theorem State.dramClean_memCarried (y : Nat) : (s.dramClean y).memCarried = s.memCarried := rfl
@[simp] theorem State.dramClean_dram (y : Nat) : (s.dramClean y).dram = s.dram := rfl
@[simp] theorem State.dramClean_dramUe (y : Nat) : (s.dramClean y).dramUe = s.dramUe.filter (fun k => decide (k ≠ y / 8)) := rfl
@[simp] theorem State.dramClean_events (y : Nat) : (s.dramClean y).events = s.events := rfl
@[simp] theorem State.dramClean_out (y : Nat) : (s.dramClean y).out = s.out := rfl
@[simp] theorem State.dramClean_fresh (y : Nat) : (s.dramClean y).fresh = s.fresh := rfl
@[simp] theorem State.dramClean_pins (y : Nat) : (s.dramClean y).pins = s.pins := rfl
@[simp] theorem State.dramClean_sites (y : Nat) : (s.dramClean y).sites = s.sites := rfl
@[simp] theorem State.dramClean_tb (y : Nat) : (s.dramClean y).tb = s.tb := rfl
@[simp] theorem State.dramClean_memory (y : Nat) : (s.dramClean y).memory = s.memory := rfl
@[simp] theorem State.dramClean_aud (y : Nat) : (s.dramClean y).aud = s.aud := rfl
@[simp] theorem State.dramClean_sec (y : Nat) : (s.dramClean y).sec = s.sec := rfl
@[simp] theorem State.dramClean_nv (y : Nat) : (s.dramClean y).nv = s.nv := rfl
@[simp] theorem State.dramClean_pwr (y : Nat) : (s.dramClean y).pwr = s.pwr := rfl
@[simp] theorem State.dramClean_iat (y : Nat) : (s.dramClean y).iat = s.iat := rfl
@[simp] theorem State.dramClean_cal (y : Nat) : (s.dramClean y).cal = s.cal := rfl
@[simp] theorem State.dramClean_red (y : Nat) : (s.dramClean y).red = s.red := rfl
@[simp] theorem State.dramClean_xe (y : Nat) : (s.dramClean y).xe = s.xe := rfl
@[simp] theorem State.dramClean_svc (y : Nat) : (s.dramClean y).svc = s.svc := rfl
@[simp] theorem State.dramClean_drc (y : Nat) : (s.dramClean y).drc = s.drc := rfl
@[simp] theorem State.dramClean_dma (y : Nat) : (s.dramClean y).dma = s.dma := rfl
@[simp] theorem State.dramClean_host (y : Nat) : (s.dramClean y).host = s.host := rfl
@[simp] theorem State.dramClean_boot (y : Nat) : (s.dramClean y).boot = s.boot := rfl
@[simp] theorem State.dramClean_reg (y : Nat) (x : Nat) : (s.dramClean y).reg x = s.reg x := rfl
@[simp] theorem State.dramClean_get (y : Nat) (g : Fld) : (s.dramClean y).get g = s.get g := rfl
@[simp] theorem State.dramClean_bit (y : Nat) (g : Fld) : (s.dramClean y).bit g = s.bit g := rfl
@[simp] theorem State.dramClean_site (y : Nat) (j : Nat) : (s.dramClean y).site j = s.site j := rfl
@[simp] theorem State.dramClean_pin (y : Nat) (j : Nat) : (s.dramClean y).pin j = s.pin j := rfl
@[simp] theorem State.dramClean_tick (y : Nat) : (s.dramClean y).tick = s.tick := rfl

@[simp] theorem State.idleTick_pending : (s.idleTick).pending = s.pending := rfl
@[simp] theorem State.idleTick_now : (s.idleTick).now = s.now + tickLsb := rfl
@[simp] theorem State.idleTick_regs : (s.idleTick).regs = s.regs := rfl
@[simp] theorem State.idleTick_locks : (s.idleTick).locks = s.locks := rfl
@[simp] theorem State.idleTick_lows : (s.idleTick).lows = s.lows := rfl
@[simp] theorem State.idleTick_latches : (s.idleTick).latches = s.latches := rfl
@[simp] theorem State.idleTick_mem : (s.idleTick).mem = s.mem := rfl
@[simp] theorem State.idleTick_memUe : (s.idleTick).memUe = s.memUe := rfl
@[simp] theorem State.idleTick_memCarried : (s.idleTick).memCarried = s.memCarried := rfl
@[simp] theorem State.idleTick_dram : (s.idleTick).dram = s.dram := rfl
@[simp] theorem State.idleTick_dramUe : (s.idleTick).dramUe = s.dramUe := rfl
@[simp] theorem State.idleTick_events : (s.idleTick).events = s.events := rfl
@[simp] theorem State.idleTick_out : (s.idleTick).out = s.out := rfl
@[simp] theorem State.idleTick_fresh : (s.idleTick).fresh = s.fresh := rfl
@[simp] theorem State.idleTick_pins : (s.idleTick).pins = s.pins := rfl
@[simp] theorem State.idleTick_sites : (s.idleTick).sites = s.sites := rfl
@[simp] theorem State.idleTick_tb : (s.idleTick).tb = s.tb := rfl
@[simp] theorem State.idleTick_memory : (s.idleTick).memory = s.memory := rfl
@[simp] theorem State.idleTick_aud : (s.idleTick).aud = s.aud := rfl
@[simp] theorem State.idleTick_sec : (s.idleTick).sec = s.sec := rfl
@[simp] theorem State.idleTick_nv : (s.idleTick).nv = s.nv := rfl
@[simp] theorem State.idleTick_pwr : (s.idleTick).pwr = s.pwr := rfl
@[simp] theorem State.idleTick_iat : (s.idleTick).iat = s.iat := rfl
@[simp] theorem State.idleTick_cal : (s.idleTick).cal = s.cal := rfl
@[simp] theorem State.idleTick_red : (s.idleTick).red = s.red := rfl
@[simp] theorem State.idleTick_xe : (s.idleTick).xe = s.xe := rfl
@[simp] theorem State.idleTick_svc : (s.idleTick).svc = s.svc := rfl
@[simp] theorem State.idleTick_drc : (s.idleTick).drc = s.drc := rfl
@[simp] theorem State.idleTick_dma : (s.idleTick).dma = s.dma := rfl
@[simp] theorem State.idleTick_host : (s.idleTick).host = s.host := rfl
@[simp] theorem State.idleTick_boot : (s.idleTick).boot = s.boot := rfl
@[simp] theorem State.idleTick_reg (x : Nat) : (s.idleTick).reg x = s.reg x := rfl
@[simp] theorem State.idleTick_get (g : Fld) : (s.idleTick).get g = s.get g := rfl
@[simp] theorem State.idleTick_bit (g : Fld) : (s.idleTick).bit g = s.bit g := rfl
@[simp] theorem State.idleTick_site (j : Nat) : (s.idleTick).site j = s.site j := rfl
@[simp] theorem State.idleTick_pin (j : Nat) : (s.idleTick).pin j = s.pin j := rfl

@[simp] theorem State.updTb_pending (f : TbState → TbState) : (s.updTb f).pending = s.pending := rfl
@[simp] theorem State.updTb_now (f : TbState → TbState) : (s.updTb f).now = s.now := rfl
@[simp] theorem State.updTb_regs (f : TbState → TbState) : (s.updTb f).regs = s.regs := rfl
@[simp] theorem State.updTb_locks (f : TbState → TbState) : (s.updTb f).locks = s.locks := rfl
@[simp] theorem State.updTb_lows (f : TbState → TbState) : (s.updTb f).lows = s.lows := rfl
@[simp] theorem State.updTb_latches (f : TbState → TbState) : (s.updTb f).latches = s.latches := rfl
@[simp] theorem State.updTb_mem (f : TbState → TbState) : (s.updTb f).mem = s.mem := rfl
@[simp] theorem State.updTb_memUe (f : TbState → TbState) : (s.updTb f).memUe = s.memUe := rfl
@[simp] theorem State.updTb_memCarried (f : TbState → TbState) : (s.updTb f).memCarried = s.memCarried := rfl
@[simp] theorem State.updTb_dram (f : TbState → TbState) : (s.updTb f).dram = s.dram := rfl
@[simp] theorem State.updTb_dramUe (f : TbState → TbState) : (s.updTb f).dramUe = s.dramUe := rfl
@[simp] theorem State.updTb_events (f : TbState → TbState) : (s.updTb f).events = s.events := rfl
@[simp] theorem State.updTb_out (f : TbState → TbState) : (s.updTb f).out = s.out := rfl
@[simp] theorem State.updTb_fresh (f : TbState → TbState) : (s.updTb f).fresh = s.fresh := rfl
@[simp] theorem State.updTb_pins (f : TbState → TbState) : (s.updTb f).pins = s.pins := rfl
@[simp] theorem State.updTb_sites (f : TbState → TbState) : (s.updTb f).sites = s.sites := rfl
@[simp] theorem State.updTb_tb (f : TbState → TbState) : (s.updTb f).tb = f s.tb := rfl
@[simp] theorem State.updTb_memory (f : TbState → TbState) : (s.updTb f).memory = s.memory := rfl
@[simp] theorem State.updTb_aud (f : TbState → TbState) : (s.updTb f).aud = s.aud := rfl
@[simp] theorem State.updTb_sec (f : TbState → TbState) : (s.updTb f).sec = s.sec := rfl
@[simp] theorem State.updTb_nv (f : TbState → TbState) : (s.updTb f).nv = s.nv := rfl
@[simp] theorem State.updTb_pwr (f : TbState → TbState) : (s.updTb f).pwr = s.pwr := rfl
@[simp] theorem State.updTb_iat (f : TbState → TbState) : (s.updTb f).iat = s.iat := rfl
@[simp] theorem State.updTb_cal (f : TbState → TbState) : (s.updTb f).cal = s.cal := rfl
@[simp] theorem State.updTb_red (f : TbState → TbState) : (s.updTb f).red = s.red := rfl
@[simp] theorem State.updTb_xe (f : TbState → TbState) : (s.updTb f).xe = s.xe := rfl
@[simp] theorem State.updTb_svc (f : TbState → TbState) : (s.updTb f).svc = s.svc := rfl
@[simp] theorem State.updTb_drc (f : TbState → TbState) : (s.updTb f).drc = s.drc := rfl
@[simp] theorem State.updTb_dma (f : TbState → TbState) : (s.updTb f).dma = s.dma := rfl
@[simp] theorem State.updTb_host (f : TbState → TbState) : (s.updTb f).host = s.host := rfl
@[simp] theorem State.updTb_boot (f : TbState → TbState) : (s.updTb f).boot = s.boot := rfl
@[simp] theorem State.updTb_reg (f : TbState → TbState) (x : Nat) : (s.updTb f).reg x = s.reg x := rfl
@[simp] theorem State.updTb_get (f : TbState → TbState) (g : Fld) : (s.updTb f).get g = s.get g := rfl
@[simp] theorem State.updTb_bit (f : TbState → TbState) (g : Fld) : (s.updTb f).bit g = s.bit g := rfl
@[simp] theorem State.updTb_site (f : TbState → TbState) (j : Nat) : (s.updTb f).site j = s.site j := rfl
@[simp] theorem State.updTb_pin (f : TbState → TbState) (j : Nat) : (s.updTb f).pin j = s.pin j := rfl

@[simp] theorem State.updIat_pending (f : IatState → IatState) : (s.updIat f).pending = s.pending := rfl
@[simp] theorem State.updIat_now (f : IatState → IatState) : (s.updIat f).now = s.now := rfl
@[simp] theorem State.updIat_regs (f : IatState → IatState) : (s.updIat f).regs = s.regs := rfl
@[simp] theorem State.updIat_locks (f : IatState → IatState) : (s.updIat f).locks = s.locks := rfl
@[simp] theorem State.updIat_lows (f : IatState → IatState) : (s.updIat f).lows = s.lows := rfl
@[simp] theorem State.updIat_latches (f : IatState → IatState) : (s.updIat f).latches = s.latches := rfl
@[simp] theorem State.updIat_mem (f : IatState → IatState) : (s.updIat f).mem = s.mem := rfl
@[simp] theorem State.updIat_memUe (f : IatState → IatState) : (s.updIat f).memUe = s.memUe := rfl
@[simp] theorem State.updIat_memCarried (f : IatState → IatState) : (s.updIat f).memCarried = s.memCarried := rfl
@[simp] theorem State.updIat_dram (f : IatState → IatState) : (s.updIat f).dram = s.dram := rfl
@[simp] theorem State.updIat_dramUe (f : IatState → IatState) : (s.updIat f).dramUe = s.dramUe := rfl
@[simp] theorem State.updIat_events (f : IatState → IatState) : (s.updIat f).events = s.events := rfl
@[simp] theorem State.updIat_out (f : IatState → IatState) : (s.updIat f).out = s.out := rfl
@[simp] theorem State.updIat_fresh (f : IatState → IatState) : (s.updIat f).fresh = s.fresh := rfl
@[simp] theorem State.updIat_pins (f : IatState → IatState) : (s.updIat f).pins = s.pins := rfl
@[simp] theorem State.updIat_sites (f : IatState → IatState) : (s.updIat f).sites = s.sites := rfl
@[simp] theorem State.updIat_tb (f : IatState → IatState) : (s.updIat f).tb = s.tb := rfl
@[simp] theorem State.updIat_memory (f : IatState → IatState) : (s.updIat f).memory = s.memory := rfl
@[simp] theorem State.updIat_aud (f : IatState → IatState) : (s.updIat f).aud = s.aud := rfl
@[simp] theorem State.updIat_sec (f : IatState → IatState) : (s.updIat f).sec = s.sec := rfl
@[simp] theorem State.updIat_nv (f : IatState → IatState) : (s.updIat f).nv = s.nv := rfl
@[simp] theorem State.updIat_pwr (f : IatState → IatState) : (s.updIat f).pwr = s.pwr := rfl
@[simp] theorem State.updIat_iat (f : IatState → IatState) : (s.updIat f).iat = f s.iat := rfl
@[simp] theorem State.updIat_cal (f : IatState → IatState) : (s.updIat f).cal = s.cal := rfl
@[simp] theorem State.updIat_red (f : IatState → IatState) : (s.updIat f).red = s.red := rfl
@[simp] theorem State.updIat_xe (f : IatState → IatState) : (s.updIat f).xe = s.xe := rfl
@[simp] theorem State.updIat_svc (f : IatState → IatState) : (s.updIat f).svc = s.svc := rfl
@[simp] theorem State.updIat_drc (f : IatState → IatState) : (s.updIat f).drc = s.drc := rfl
@[simp] theorem State.updIat_dma (f : IatState → IatState) : (s.updIat f).dma = s.dma := rfl
@[simp] theorem State.updIat_host (f : IatState → IatState) : (s.updIat f).host = s.host := rfl
@[simp] theorem State.updIat_boot (f : IatState → IatState) : (s.updIat f).boot = s.boot := rfl
@[simp] theorem State.updIat_reg (f : IatState → IatState) (x : Nat) : (s.updIat f).reg x = s.reg x := rfl
@[simp] theorem State.updIat_get (f : IatState → IatState) (g : Fld) : (s.updIat f).get g = s.get g := rfl
@[simp] theorem State.updIat_bit (f : IatState → IatState) (g : Fld) : (s.updIat f).bit g = s.bit g := rfl
@[simp] theorem State.updIat_site (f : IatState → IatState) (j : Nat) : (s.updIat f).site j = s.site j := rfl
@[simp] theorem State.updIat_pin (f : IatState → IatState) (j : Nat) : (s.updIat f).pin j = s.pin j := rfl
@[simp] theorem State.updIat_tick (f : IatState → IatState) : (s.updIat f).tick = s.tick := rfl

@[simp] theorem State.updCal_pending (f : CalState → CalState) : (s.updCal f).pending = s.pending := rfl
@[simp] theorem State.updCal_now (f : CalState → CalState) : (s.updCal f).now = s.now := rfl
@[simp] theorem State.updCal_regs (f : CalState → CalState) : (s.updCal f).regs = s.regs := rfl
@[simp] theorem State.updCal_locks (f : CalState → CalState) : (s.updCal f).locks = s.locks := rfl
@[simp] theorem State.updCal_lows (f : CalState → CalState) : (s.updCal f).lows = s.lows := rfl
@[simp] theorem State.updCal_latches (f : CalState → CalState) : (s.updCal f).latches = s.latches := rfl
@[simp] theorem State.updCal_mem (f : CalState → CalState) : (s.updCal f).mem = s.mem := rfl
@[simp] theorem State.updCal_memUe (f : CalState → CalState) : (s.updCal f).memUe = s.memUe := rfl
@[simp] theorem State.updCal_memCarried (f : CalState → CalState) : (s.updCal f).memCarried = s.memCarried := rfl
@[simp] theorem State.updCal_dram (f : CalState → CalState) : (s.updCal f).dram = s.dram := rfl
@[simp] theorem State.updCal_dramUe (f : CalState → CalState) : (s.updCal f).dramUe = s.dramUe := rfl
@[simp] theorem State.updCal_events (f : CalState → CalState) : (s.updCal f).events = s.events := rfl
@[simp] theorem State.updCal_out (f : CalState → CalState) : (s.updCal f).out = s.out := rfl
@[simp] theorem State.updCal_fresh (f : CalState → CalState) : (s.updCal f).fresh = s.fresh := rfl
@[simp] theorem State.updCal_pins (f : CalState → CalState) : (s.updCal f).pins = s.pins := rfl
@[simp] theorem State.updCal_sites (f : CalState → CalState) : (s.updCal f).sites = s.sites := rfl
@[simp] theorem State.updCal_tb (f : CalState → CalState) : (s.updCal f).tb = s.tb := rfl
@[simp] theorem State.updCal_memory (f : CalState → CalState) : (s.updCal f).memory = s.memory := rfl
@[simp] theorem State.updCal_aud (f : CalState → CalState) : (s.updCal f).aud = s.aud := rfl
@[simp] theorem State.updCal_sec (f : CalState → CalState) : (s.updCal f).sec = s.sec := rfl
@[simp] theorem State.updCal_nv (f : CalState → CalState) : (s.updCal f).nv = s.nv := rfl
@[simp] theorem State.updCal_pwr (f : CalState → CalState) : (s.updCal f).pwr = s.pwr := rfl
@[simp] theorem State.updCal_iat (f : CalState → CalState) : (s.updCal f).iat = s.iat := rfl
@[simp] theorem State.updCal_cal (f : CalState → CalState) : (s.updCal f).cal = f s.cal := rfl
@[simp] theorem State.updCal_red (f : CalState → CalState) : (s.updCal f).red = s.red := rfl
@[simp] theorem State.updCal_xe (f : CalState → CalState) : (s.updCal f).xe = s.xe := rfl
@[simp] theorem State.updCal_svc (f : CalState → CalState) : (s.updCal f).svc = s.svc := rfl
@[simp] theorem State.updCal_drc (f : CalState → CalState) : (s.updCal f).drc = s.drc := rfl
@[simp] theorem State.updCal_dma (f : CalState → CalState) : (s.updCal f).dma = s.dma := rfl
@[simp] theorem State.updCal_host (f : CalState → CalState) : (s.updCal f).host = s.host := rfl
@[simp] theorem State.updCal_boot (f : CalState → CalState) : (s.updCal f).boot = s.boot := rfl
@[simp] theorem State.updCal_reg (f : CalState → CalState) (x : Nat) : (s.updCal f).reg x = s.reg x := rfl
@[simp] theorem State.updCal_get (f : CalState → CalState) (g : Fld) : (s.updCal f).get g = s.get g := rfl
@[simp] theorem State.updCal_bit (f : CalState → CalState) (g : Fld) : (s.updCal f).bit g = s.bit g := rfl
@[simp] theorem State.updCal_site (f : CalState → CalState) (j : Nat) : (s.updCal f).site j = s.site j := rfl
@[simp] theorem State.updCal_pin (f : CalState → CalState) (j : Nat) : (s.updCal f).pin j = s.pin j := rfl
@[simp] theorem State.updCal_tick (f : CalState → CalState) : (s.updCal f).tick = s.tick := rfl

@[simp] theorem State.updDrc_pending (f : DrcState → DrcState) : (s.updDrc f).pending = s.pending := rfl
@[simp] theorem State.updDrc_now (f : DrcState → DrcState) : (s.updDrc f).now = s.now := rfl
@[simp] theorem State.updDrc_regs (f : DrcState → DrcState) : (s.updDrc f).regs = s.regs := rfl
@[simp] theorem State.updDrc_locks (f : DrcState → DrcState) : (s.updDrc f).locks = s.locks := rfl
@[simp] theorem State.updDrc_lows (f : DrcState → DrcState) : (s.updDrc f).lows = s.lows := rfl
@[simp] theorem State.updDrc_latches (f : DrcState → DrcState) : (s.updDrc f).latches = s.latches := rfl
@[simp] theorem State.updDrc_mem (f : DrcState → DrcState) : (s.updDrc f).mem = s.mem := rfl
@[simp] theorem State.updDrc_memUe (f : DrcState → DrcState) : (s.updDrc f).memUe = s.memUe := rfl
@[simp] theorem State.updDrc_memCarried (f : DrcState → DrcState) : (s.updDrc f).memCarried = s.memCarried := rfl
@[simp] theorem State.updDrc_dram (f : DrcState → DrcState) : (s.updDrc f).dram = s.dram := rfl
@[simp] theorem State.updDrc_dramUe (f : DrcState → DrcState) : (s.updDrc f).dramUe = s.dramUe := rfl
@[simp] theorem State.updDrc_events (f : DrcState → DrcState) : (s.updDrc f).events = s.events := rfl
@[simp] theorem State.updDrc_out (f : DrcState → DrcState) : (s.updDrc f).out = s.out := rfl
@[simp] theorem State.updDrc_fresh (f : DrcState → DrcState) : (s.updDrc f).fresh = s.fresh := rfl
@[simp] theorem State.updDrc_pins (f : DrcState → DrcState) : (s.updDrc f).pins = s.pins := rfl
@[simp] theorem State.updDrc_sites (f : DrcState → DrcState) : (s.updDrc f).sites = s.sites := rfl
@[simp] theorem State.updDrc_tb (f : DrcState → DrcState) : (s.updDrc f).tb = s.tb := rfl
@[simp] theorem State.updDrc_memory (f : DrcState → DrcState) : (s.updDrc f).memory = s.memory := rfl
@[simp] theorem State.updDrc_aud (f : DrcState → DrcState) : (s.updDrc f).aud = s.aud := rfl
@[simp] theorem State.updDrc_sec (f : DrcState → DrcState) : (s.updDrc f).sec = s.sec := rfl
@[simp] theorem State.updDrc_nv (f : DrcState → DrcState) : (s.updDrc f).nv = s.nv := rfl
@[simp] theorem State.updDrc_pwr (f : DrcState → DrcState) : (s.updDrc f).pwr = s.pwr := rfl
@[simp] theorem State.updDrc_iat (f : DrcState → DrcState) : (s.updDrc f).iat = s.iat := rfl
@[simp] theorem State.updDrc_cal (f : DrcState → DrcState) : (s.updDrc f).cal = s.cal := rfl
@[simp] theorem State.updDrc_red (f : DrcState → DrcState) : (s.updDrc f).red = s.red := rfl
@[simp] theorem State.updDrc_xe (f : DrcState → DrcState) : (s.updDrc f).xe = s.xe := rfl
@[simp] theorem State.updDrc_svc (f : DrcState → DrcState) : (s.updDrc f).svc = s.svc := rfl
@[simp] theorem State.updDrc_drc (f : DrcState → DrcState) : (s.updDrc f).drc = f s.drc := rfl
@[simp] theorem State.updDrc_dma (f : DrcState → DrcState) : (s.updDrc f).dma = s.dma := rfl
@[simp] theorem State.updDrc_host (f : DrcState → DrcState) : (s.updDrc f).host = s.host := rfl
@[simp] theorem State.updDrc_boot (f : DrcState → DrcState) : (s.updDrc f).boot = s.boot := rfl
@[simp] theorem State.updDrc_reg (f : DrcState → DrcState) (x : Nat) : (s.updDrc f).reg x = s.reg x := rfl
@[simp] theorem State.updDrc_get (f : DrcState → DrcState) (g : Fld) : (s.updDrc f).get g = s.get g := rfl
@[simp] theorem State.updDrc_bit (f : DrcState → DrcState) (g : Fld) : (s.updDrc f).bit g = s.bit g := rfl
@[simp] theorem State.updDrc_site (f : DrcState → DrcState) (j : Nat) : (s.updDrc f).site j = s.site j := rfl
@[simp] theorem State.updDrc_pin (f : DrcState → DrcState) (j : Nat) : (s.updDrc f).pin j = s.pin j := rfl
@[simp] theorem State.updDrc_tick (f : DrcState → DrcState) : (s.updDrc f).tick = s.tick := rfl

@[simp] theorem State.updHost_pending (f : HostState → HostState) : (s.updHost f).pending = s.pending := rfl
@[simp] theorem State.updHost_now (f : HostState → HostState) : (s.updHost f).now = s.now := rfl
@[simp] theorem State.updHost_regs (f : HostState → HostState) : (s.updHost f).regs = s.regs := rfl
@[simp] theorem State.updHost_locks (f : HostState → HostState) : (s.updHost f).locks = s.locks := rfl
@[simp] theorem State.updHost_lows (f : HostState → HostState) : (s.updHost f).lows = s.lows := rfl
@[simp] theorem State.updHost_latches (f : HostState → HostState) : (s.updHost f).latches = s.latches := rfl
@[simp] theorem State.updHost_mem (f : HostState → HostState) : (s.updHost f).mem = s.mem := rfl
@[simp] theorem State.updHost_memUe (f : HostState → HostState) : (s.updHost f).memUe = s.memUe := rfl
@[simp] theorem State.updHost_memCarried (f : HostState → HostState) : (s.updHost f).memCarried = s.memCarried := rfl
@[simp] theorem State.updHost_dram (f : HostState → HostState) : (s.updHost f).dram = s.dram := rfl
@[simp] theorem State.updHost_dramUe (f : HostState → HostState) : (s.updHost f).dramUe = s.dramUe := rfl
@[simp] theorem State.updHost_events (f : HostState → HostState) : (s.updHost f).events = s.events := rfl
@[simp] theorem State.updHost_out (f : HostState → HostState) : (s.updHost f).out = s.out := rfl
@[simp] theorem State.updHost_fresh (f : HostState → HostState) : (s.updHost f).fresh = s.fresh := rfl
@[simp] theorem State.updHost_pins (f : HostState → HostState) : (s.updHost f).pins = s.pins := rfl
@[simp] theorem State.updHost_sites (f : HostState → HostState) : (s.updHost f).sites = s.sites := rfl
@[simp] theorem State.updHost_tb (f : HostState → HostState) : (s.updHost f).tb = s.tb := rfl
@[simp] theorem State.updHost_memory (f : HostState → HostState) : (s.updHost f).memory = s.memory := rfl
@[simp] theorem State.updHost_aud (f : HostState → HostState) : (s.updHost f).aud = s.aud := rfl
@[simp] theorem State.updHost_sec (f : HostState → HostState) : (s.updHost f).sec = s.sec := rfl
@[simp] theorem State.updHost_nv (f : HostState → HostState) : (s.updHost f).nv = s.nv := rfl
@[simp] theorem State.updHost_pwr (f : HostState → HostState) : (s.updHost f).pwr = s.pwr := rfl
@[simp] theorem State.updHost_iat (f : HostState → HostState) : (s.updHost f).iat = s.iat := rfl
@[simp] theorem State.updHost_cal (f : HostState → HostState) : (s.updHost f).cal = s.cal := rfl
@[simp] theorem State.updHost_red (f : HostState → HostState) : (s.updHost f).red = s.red := rfl
@[simp] theorem State.updHost_xe (f : HostState → HostState) : (s.updHost f).xe = s.xe := rfl
@[simp] theorem State.updHost_svc (f : HostState → HostState) : (s.updHost f).svc = s.svc := rfl
@[simp] theorem State.updHost_drc (f : HostState → HostState) : (s.updHost f).drc = s.drc := rfl
@[simp] theorem State.updHost_dma (f : HostState → HostState) : (s.updHost f).dma = s.dma := rfl
@[simp] theorem State.updHost_host (f : HostState → HostState) : (s.updHost f).host = f s.host := rfl
@[simp] theorem State.updHost_boot (f : HostState → HostState) : (s.updHost f).boot = s.boot := rfl
@[simp] theorem State.updHost_reg (f : HostState → HostState) (x : Nat) : (s.updHost f).reg x = s.reg x := rfl
@[simp] theorem State.updHost_get (f : HostState → HostState) (g : Fld) : (s.updHost f).get g = s.get g := rfl
@[simp] theorem State.updHost_bit (f : HostState → HostState) (g : Fld) : (s.updHost f).bit g = s.bit g := rfl
@[simp] theorem State.updHost_site (f : HostState → HostState) (j : Nat) : (s.updHost f).site j = s.site j := rfl
@[simp] theorem State.updHost_pin (f : HostState → HostState) (j : Nat) : (s.updHost f).pin j = s.pin j := rfl
@[simp] theorem State.updHost_tick (f : HostState → HostState) : (s.updHost f).tick = s.tick := rfl

@[simp] theorem State.updBoot_pending (f : BootState → BootState) : (s.updBoot f).pending = s.pending := rfl
@[simp] theorem State.updBoot_now (f : BootState → BootState) : (s.updBoot f).now = s.now := rfl
@[simp] theorem State.updBoot_regs (f : BootState → BootState) : (s.updBoot f).regs = s.regs := rfl
@[simp] theorem State.updBoot_locks (f : BootState → BootState) : (s.updBoot f).locks = s.locks := rfl
@[simp] theorem State.updBoot_lows (f : BootState → BootState) : (s.updBoot f).lows = s.lows := rfl
@[simp] theorem State.updBoot_latches (f : BootState → BootState) : (s.updBoot f).latches = s.latches := rfl
@[simp] theorem State.updBoot_mem (f : BootState → BootState) : (s.updBoot f).mem = s.mem := rfl
@[simp] theorem State.updBoot_memUe (f : BootState → BootState) : (s.updBoot f).memUe = s.memUe := rfl
@[simp] theorem State.updBoot_memCarried (f : BootState → BootState) : (s.updBoot f).memCarried = s.memCarried := rfl
@[simp] theorem State.updBoot_dram (f : BootState → BootState) : (s.updBoot f).dram = s.dram := rfl
@[simp] theorem State.updBoot_dramUe (f : BootState → BootState) : (s.updBoot f).dramUe = s.dramUe := rfl
@[simp] theorem State.updBoot_events (f : BootState → BootState) : (s.updBoot f).events = s.events := rfl
@[simp] theorem State.updBoot_out (f : BootState → BootState) : (s.updBoot f).out = s.out := rfl
@[simp] theorem State.updBoot_fresh (f : BootState → BootState) : (s.updBoot f).fresh = s.fresh := rfl
@[simp] theorem State.updBoot_pins (f : BootState → BootState) : (s.updBoot f).pins = s.pins := rfl
@[simp] theorem State.updBoot_sites (f : BootState → BootState) : (s.updBoot f).sites = s.sites := rfl
@[simp] theorem State.updBoot_tb (f : BootState → BootState) : (s.updBoot f).tb = s.tb := rfl
@[simp] theorem State.updBoot_memory (f : BootState → BootState) : (s.updBoot f).memory = s.memory := rfl
@[simp] theorem State.updBoot_aud (f : BootState → BootState) : (s.updBoot f).aud = s.aud := rfl
@[simp] theorem State.updBoot_sec (f : BootState → BootState) : (s.updBoot f).sec = s.sec := rfl
@[simp] theorem State.updBoot_nv (f : BootState → BootState) : (s.updBoot f).nv = s.nv := rfl
@[simp] theorem State.updBoot_pwr (f : BootState → BootState) : (s.updBoot f).pwr = s.pwr := rfl
@[simp] theorem State.updBoot_iat (f : BootState → BootState) : (s.updBoot f).iat = s.iat := rfl
@[simp] theorem State.updBoot_cal (f : BootState → BootState) : (s.updBoot f).cal = s.cal := rfl
@[simp] theorem State.updBoot_red (f : BootState → BootState) : (s.updBoot f).red = s.red := rfl
@[simp] theorem State.updBoot_xe (f : BootState → BootState) : (s.updBoot f).xe = s.xe := rfl
@[simp] theorem State.updBoot_svc (f : BootState → BootState) : (s.updBoot f).svc = s.svc := rfl
@[simp] theorem State.updBoot_drc (f : BootState → BootState) : (s.updBoot f).drc = s.drc := rfl
@[simp] theorem State.updBoot_dma (f : BootState → BootState) : (s.updBoot f).dma = s.dma := rfl
@[simp] theorem State.updBoot_host (f : BootState → BootState) : (s.updBoot f).host = s.host := rfl
@[simp] theorem State.updBoot_boot (f : BootState → BootState) : (s.updBoot f).boot = f s.boot := rfl
@[simp] theorem State.updBoot_reg (f : BootState → BootState) (x : Nat) : (s.updBoot f).reg x = s.reg x := rfl
@[simp] theorem State.updBoot_get (f : BootState → BootState) (g : Fld) : (s.updBoot f).get g = s.get g := rfl
@[simp] theorem State.updBoot_bit (f : BootState → BootState) (g : Fld) : (s.updBoot f).bit g = s.bit g := rfl
@[simp] theorem State.updBoot_site (f : BootState → BootState) (j : Nat) : (s.updBoot f).site j = s.site j := rfl
@[simp] theorem State.updBoot_pin (f : BootState → BootState) (j : Nat) : (s.updBoot f).pin j = s.pin j := rfl
@[simp] theorem State.updBoot_tick (f : BootState → BootState) : (s.updBoot f).tick = s.tick := rfl

@[simp] theorem State.updMem_pending (f : MemState → MemState) : (s.updMem f).pending = s.pending := rfl
@[simp] theorem State.updMem_now (f : MemState → MemState) : (s.updMem f).now = s.now := rfl
@[simp] theorem State.updMem_regs (f : MemState → MemState) : (s.updMem f).regs = s.regs := rfl
@[simp] theorem State.updMem_locks (f : MemState → MemState) : (s.updMem f).locks = s.locks := rfl
@[simp] theorem State.updMem_lows (f : MemState → MemState) : (s.updMem f).lows = s.lows := rfl
@[simp] theorem State.updMem_latches (f : MemState → MemState) : (s.updMem f).latches = s.latches := rfl
@[simp] theorem State.updMem_mem (f : MemState → MemState) : (s.updMem f).mem = s.mem := rfl
@[simp] theorem State.updMem_memUe (f : MemState → MemState) : (s.updMem f).memUe = s.memUe := rfl
@[simp] theorem State.updMem_memCarried (f : MemState → MemState) : (s.updMem f).memCarried = s.memCarried := rfl
@[simp] theorem State.updMem_dram (f : MemState → MemState) : (s.updMem f).dram = s.dram := rfl
@[simp] theorem State.updMem_dramUe (f : MemState → MemState) : (s.updMem f).dramUe = s.dramUe := rfl
@[simp] theorem State.updMem_events (f : MemState → MemState) : (s.updMem f).events = s.events := rfl
@[simp] theorem State.updMem_out (f : MemState → MemState) : (s.updMem f).out = s.out := rfl
@[simp] theorem State.updMem_fresh (f : MemState → MemState) : (s.updMem f).fresh = s.fresh := rfl
@[simp] theorem State.updMem_pins (f : MemState → MemState) : (s.updMem f).pins = s.pins := rfl
@[simp] theorem State.updMem_sites (f : MemState → MemState) : (s.updMem f).sites = s.sites := rfl
@[simp] theorem State.updMem_tb (f : MemState → MemState) : (s.updMem f).tb = s.tb := rfl
@[simp] theorem State.updMem_memory (f : MemState → MemState) : (s.updMem f).memory = f s.memory := rfl
@[simp] theorem State.updMem_aud (f : MemState → MemState) : (s.updMem f).aud = s.aud := rfl
@[simp] theorem State.updMem_sec (f : MemState → MemState) : (s.updMem f).sec = s.sec := rfl
@[simp] theorem State.updMem_nv (f : MemState → MemState) : (s.updMem f).nv = s.nv := rfl
@[simp] theorem State.updMem_pwr (f : MemState → MemState) : (s.updMem f).pwr = s.pwr := rfl
@[simp] theorem State.updMem_iat (f : MemState → MemState) : (s.updMem f).iat = s.iat := rfl
@[simp] theorem State.updMem_cal (f : MemState → MemState) : (s.updMem f).cal = s.cal := rfl
@[simp] theorem State.updMem_red (f : MemState → MemState) : (s.updMem f).red = s.red := rfl
@[simp] theorem State.updMem_xe (f : MemState → MemState) : (s.updMem f).xe = s.xe := rfl
@[simp] theorem State.updMem_svc (f : MemState → MemState) : (s.updMem f).svc = s.svc := rfl
@[simp] theorem State.updMem_drc (f : MemState → MemState) : (s.updMem f).drc = s.drc := rfl
@[simp] theorem State.updMem_dma (f : MemState → MemState) : (s.updMem f).dma = s.dma := rfl
@[simp] theorem State.updMem_host (f : MemState → MemState) : (s.updMem f).host = s.host := rfl
@[simp] theorem State.updMem_boot (f : MemState → MemState) : (s.updMem f).boot = s.boot := rfl
@[simp] theorem State.updMem_reg (f : MemState → MemState) (x : Nat) : (s.updMem f).reg x = s.reg x := rfl
@[simp] theorem State.updMem_get (f : MemState → MemState) (g : Fld) : (s.updMem f).get g = s.get g := rfl
@[simp] theorem State.updMem_bit (f : MemState → MemState) (g : Fld) : (s.updMem f).bit g = s.bit g := rfl
@[simp] theorem State.updMem_site (f : MemState → MemState) (j : Nat) : (s.updMem f).site j = s.site j := rfl
@[simp] theorem State.updMem_pin (f : MemState → MemState) (j : Nat) : (s.updMem f).pin j = s.pin j := rfl
@[simp] theorem State.updMem_tick (f : MemState → MemState) : (s.updMem f).tick = s.tick := rfl

@[simp] theorem State.updPwr_pending (f : PwrState → PwrState) : (s.updPwr f).pending = s.pending := rfl
@[simp] theorem State.updPwr_now (f : PwrState → PwrState) : (s.updPwr f).now = s.now := rfl
@[simp] theorem State.updPwr_regs (f : PwrState → PwrState) : (s.updPwr f).regs = s.regs := rfl
@[simp] theorem State.updPwr_locks (f : PwrState → PwrState) : (s.updPwr f).locks = s.locks := rfl
@[simp] theorem State.updPwr_lows (f : PwrState → PwrState) : (s.updPwr f).lows = s.lows := rfl
@[simp] theorem State.updPwr_latches (f : PwrState → PwrState) : (s.updPwr f).latches = s.latches := rfl
@[simp] theorem State.updPwr_mem (f : PwrState → PwrState) : (s.updPwr f).mem = s.mem := rfl
@[simp] theorem State.updPwr_memUe (f : PwrState → PwrState) : (s.updPwr f).memUe = s.memUe := rfl
@[simp] theorem State.updPwr_memCarried (f : PwrState → PwrState) : (s.updPwr f).memCarried = s.memCarried := rfl
@[simp] theorem State.updPwr_dram (f : PwrState → PwrState) : (s.updPwr f).dram = s.dram := rfl
@[simp] theorem State.updPwr_dramUe (f : PwrState → PwrState) : (s.updPwr f).dramUe = s.dramUe := rfl
@[simp] theorem State.updPwr_events (f : PwrState → PwrState) : (s.updPwr f).events = s.events := rfl
@[simp] theorem State.updPwr_out (f : PwrState → PwrState) : (s.updPwr f).out = s.out := rfl
@[simp] theorem State.updPwr_fresh (f : PwrState → PwrState) : (s.updPwr f).fresh = s.fresh := rfl
@[simp] theorem State.updPwr_pins (f : PwrState → PwrState) : (s.updPwr f).pins = s.pins := rfl
@[simp] theorem State.updPwr_sites (f : PwrState → PwrState) : (s.updPwr f).sites = s.sites := rfl
@[simp] theorem State.updPwr_tb (f : PwrState → PwrState) : (s.updPwr f).tb = s.tb := rfl
@[simp] theorem State.updPwr_memory (f : PwrState → PwrState) : (s.updPwr f).memory = s.memory := rfl
@[simp] theorem State.updPwr_aud (f : PwrState → PwrState) : (s.updPwr f).aud = s.aud := rfl
@[simp] theorem State.updPwr_sec (f : PwrState → PwrState) : (s.updPwr f).sec = s.sec := rfl
@[simp] theorem State.updPwr_nv (f : PwrState → PwrState) : (s.updPwr f).nv = s.nv := rfl
@[simp] theorem State.updPwr_pwr (f : PwrState → PwrState) : (s.updPwr f).pwr = f s.pwr := rfl
@[simp] theorem State.updPwr_iat (f : PwrState → PwrState) : (s.updPwr f).iat = s.iat := rfl
@[simp] theorem State.updPwr_cal (f : PwrState → PwrState) : (s.updPwr f).cal = s.cal := rfl
@[simp] theorem State.updPwr_red (f : PwrState → PwrState) : (s.updPwr f).red = s.red := rfl
@[simp] theorem State.updPwr_xe (f : PwrState → PwrState) : (s.updPwr f).xe = s.xe := rfl
@[simp] theorem State.updPwr_svc (f : PwrState → PwrState) : (s.updPwr f).svc = s.svc := rfl
@[simp] theorem State.updPwr_drc (f : PwrState → PwrState) : (s.updPwr f).drc = s.drc := rfl
@[simp] theorem State.updPwr_dma (f : PwrState → PwrState) : (s.updPwr f).dma = s.dma := rfl
@[simp] theorem State.updPwr_host (f : PwrState → PwrState) : (s.updPwr f).host = s.host := rfl
@[simp] theorem State.updPwr_boot (f : PwrState → PwrState) : (s.updPwr f).boot = s.boot := rfl
@[simp] theorem State.updPwr_reg (f : PwrState → PwrState) (x : Nat) : (s.updPwr f).reg x = s.reg x := rfl
@[simp] theorem State.updPwr_get (f : PwrState → PwrState) (g : Fld) : (s.updPwr f).get g = s.get g := rfl
@[simp] theorem State.updPwr_bit (f : PwrState → PwrState) (g : Fld) : (s.updPwr f).bit g = s.bit g := rfl
@[simp] theorem State.updPwr_site (f : PwrState → PwrState) (j : Nat) : (s.updPwr f).site j = s.site j := rfl
@[simp] theorem State.updPwr_pin (f : PwrState → PwrState) (j : Nat) : (s.updPwr f).pin j = s.pin j := rfl
@[simp] theorem State.updPwr_tick (f : PwrState → PwrState) : (s.updPwr f).tick = s.tick := rfl

@[simp] theorem State.updSec_pending (f : SecState → SecState) : (s.updSec f).pending = s.pending := rfl
@[simp] theorem State.updSec_now (f : SecState → SecState) : (s.updSec f).now = s.now := rfl
@[simp] theorem State.updSec_regs (f : SecState → SecState) : (s.updSec f).regs = s.regs := rfl
@[simp] theorem State.updSec_locks (f : SecState → SecState) : (s.updSec f).locks = s.locks := rfl
@[simp] theorem State.updSec_lows (f : SecState → SecState) : (s.updSec f).lows = s.lows := rfl
@[simp] theorem State.updSec_latches (f : SecState → SecState) : (s.updSec f).latches = s.latches := rfl
@[simp] theorem State.updSec_mem (f : SecState → SecState) : (s.updSec f).mem = s.mem := rfl
@[simp] theorem State.updSec_memUe (f : SecState → SecState) : (s.updSec f).memUe = s.memUe := rfl
@[simp] theorem State.updSec_memCarried (f : SecState → SecState) : (s.updSec f).memCarried = s.memCarried := rfl
@[simp] theorem State.updSec_dram (f : SecState → SecState) : (s.updSec f).dram = s.dram := rfl
@[simp] theorem State.updSec_dramUe (f : SecState → SecState) : (s.updSec f).dramUe = s.dramUe := rfl
@[simp] theorem State.updSec_events (f : SecState → SecState) : (s.updSec f).events = s.events := rfl
@[simp] theorem State.updSec_out (f : SecState → SecState) : (s.updSec f).out = s.out := rfl
@[simp] theorem State.updSec_fresh (f : SecState → SecState) : (s.updSec f).fresh = s.fresh := rfl
@[simp] theorem State.updSec_pins (f : SecState → SecState) : (s.updSec f).pins = s.pins := rfl
@[simp] theorem State.updSec_sites (f : SecState → SecState) : (s.updSec f).sites = s.sites := rfl
@[simp] theorem State.updSec_tb (f : SecState → SecState) : (s.updSec f).tb = s.tb := rfl
@[simp] theorem State.updSec_memory (f : SecState → SecState) : (s.updSec f).memory = s.memory := rfl
@[simp] theorem State.updSec_aud (f : SecState → SecState) : (s.updSec f).aud = s.aud := rfl
@[simp] theorem State.updSec_sec (f : SecState → SecState) : (s.updSec f).sec = f s.sec := rfl
@[simp] theorem State.updSec_nv (f : SecState → SecState) : (s.updSec f).nv = s.nv := rfl
@[simp] theorem State.updSec_pwr (f : SecState → SecState) : (s.updSec f).pwr = s.pwr := rfl
@[simp] theorem State.updSec_iat (f : SecState → SecState) : (s.updSec f).iat = s.iat := rfl
@[simp] theorem State.updSec_cal (f : SecState → SecState) : (s.updSec f).cal = s.cal := rfl
@[simp] theorem State.updSec_red (f : SecState → SecState) : (s.updSec f).red = s.red := rfl
@[simp] theorem State.updSec_xe (f : SecState → SecState) : (s.updSec f).xe = s.xe := rfl
@[simp] theorem State.updSec_svc (f : SecState → SecState) : (s.updSec f).svc = s.svc := rfl
@[simp] theorem State.updSec_drc (f : SecState → SecState) : (s.updSec f).drc = s.drc := rfl
@[simp] theorem State.updSec_dma (f : SecState → SecState) : (s.updSec f).dma = s.dma := rfl
@[simp] theorem State.updSec_host (f : SecState → SecState) : (s.updSec f).host = s.host := rfl
@[simp] theorem State.updSec_boot (f : SecState → SecState) : (s.updSec f).boot = s.boot := rfl
@[simp] theorem State.updSec_reg (f : SecState → SecState) (x : Nat) : (s.updSec f).reg x = s.reg x := rfl
@[simp] theorem State.updSec_get (f : SecState → SecState) (g : Fld) : (s.updSec f).get g = s.get g := rfl
@[simp] theorem State.updSec_bit (f : SecState → SecState) (g : Fld) : (s.updSec f).bit g = s.bit g := rfl
@[simp] theorem State.updSec_site (f : SecState → SecState) (j : Nat) : (s.updSec f).site j = s.site j := rfl
@[simp] theorem State.updSec_pin (f : SecState → SecState) (j : Nat) : (s.updSec f).pin j = s.pin j := rfl
@[simp] theorem State.updSec_tick (f : SecState → SecState) : (s.updSec f).tick = s.tick := rfl

@[simp] theorem State.updNv_pending (f : KeyStore → KeyStore) : (s.updNv f).pending = s.pending := rfl
@[simp] theorem State.updNv_now (f : KeyStore → KeyStore) : (s.updNv f).now = s.now := rfl
@[simp] theorem State.updNv_regs (f : KeyStore → KeyStore) : (s.updNv f).regs = s.regs := rfl
@[simp] theorem State.updNv_locks (f : KeyStore → KeyStore) : (s.updNv f).locks = s.locks := rfl
@[simp] theorem State.updNv_lows (f : KeyStore → KeyStore) : (s.updNv f).lows = s.lows := rfl
@[simp] theorem State.updNv_latches (f : KeyStore → KeyStore) : (s.updNv f).latches = s.latches := rfl
@[simp] theorem State.updNv_mem (f : KeyStore → KeyStore) : (s.updNv f).mem = s.mem := rfl
@[simp] theorem State.updNv_memUe (f : KeyStore → KeyStore) : (s.updNv f).memUe = s.memUe := rfl
@[simp] theorem State.updNv_memCarried (f : KeyStore → KeyStore) : (s.updNv f).memCarried = s.memCarried := rfl
@[simp] theorem State.updNv_dram (f : KeyStore → KeyStore) : (s.updNv f).dram = s.dram := rfl
@[simp] theorem State.updNv_dramUe (f : KeyStore → KeyStore) : (s.updNv f).dramUe = s.dramUe := rfl
@[simp] theorem State.updNv_events (f : KeyStore → KeyStore) : (s.updNv f).events = s.events := rfl
@[simp] theorem State.updNv_out (f : KeyStore → KeyStore) : (s.updNv f).out = s.out := rfl
@[simp] theorem State.updNv_fresh (f : KeyStore → KeyStore) : (s.updNv f).fresh = s.fresh := rfl
@[simp] theorem State.updNv_pins (f : KeyStore → KeyStore) : (s.updNv f).pins = s.pins := rfl
@[simp] theorem State.updNv_sites (f : KeyStore → KeyStore) : (s.updNv f).sites = s.sites := rfl
@[simp] theorem State.updNv_tb (f : KeyStore → KeyStore) : (s.updNv f).tb = s.tb := rfl
@[simp] theorem State.updNv_memory (f : KeyStore → KeyStore) : (s.updNv f).memory = s.memory := rfl
@[simp] theorem State.updNv_aud (f : KeyStore → KeyStore) : (s.updNv f).aud = s.aud := rfl
@[simp] theorem State.updNv_sec (f : KeyStore → KeyStore) : (s.updNv f).sec = s.sec := rfl
@[simp] theorem State.updNv_nv (f : KeyStore → KeyStore) : (s.updNv f).nv = f s.nv := rfl
@[simp] theorem State.updNv_pwr (f : KeyStore → KeyStore) : (s.updNv f).pwr = s.pwr := rfl
@[simp] theorem State.updNv_iat (f : KeyStore → KeyStore) : (s.updNv f).iat = s.iat := rfl
@[simp] theorem State.updNv_cal (f : KeyStore → KeyStore) : (s.updNv f).cal = s.cal := rfl
@[simp] theorem State.updNv_red (f : KeyStore → KeyStore) : (s.updNv f).red = s.red := rfl
@[simp] theorem State.updNv_xe (f : KeyStore → KeyStore) : (s.updNv f).xe = s.xe := rfl
@[simp] theorem State.updNv_svc (f : KeyStore → KeyStore) : (s.updNv f).svc = s.svc := rfl
@[simp] theorem State.updNv_drc (f : KeyStore → KeyStore) : (s.updNv f).drc = s.drc := rfl
@[simp] theorem State.updNv_dma (f : KeyStore → KeyStore) : (s.updNv f).dma = s.dma := rfl
@[simp] theorem State.updNv_host (f : KeyStore → KeyStore) : (s.updNv f).host = s.host := rfl
@[simp] theorem State.updNv_boot (f : KeyStore → KeyStore) : (s.updNv f).boot = s.boot := rfl
@[simp] theorem State.updNv_reg (f : KeyStore → KeyStore) (x : Nat) : (s.updNv f).reg x = s.reg x := rfl
@[simp] theorem State.updNv_get (f : KeyStore → KeyStore) (g : Fld) : (s.updNv f).get g = s.get g := rfl
@[simp] theorem State.updNv_bit (f : KeyStore → KeyStore) (g : Fld) : (s.updNv f).bit g = s.bit g := rfl
@[simp] theorem State.updNv_site (f : KeyStore → KeyStore) (j : Nat) : (s.updNv f).site j = s.site j := rfl
@[simp] theorem State.updNv_pin (f : KeyStore → KeyStore) (j : Nat) : (s.updNv f).pin j = s.pin j := rfl
@[simp] theorem State.updNv_tick (f : KeyStore → KeyStore) : (s.updNv f).tick = s.tick := rfl

@[simp] theorem State.updAud_pending (f : AudState → AudState) : (s.updAud f).pending = s.pending := rfl
@[simp] theorem State.updAud_now (f : AudState → AudState) : (s.updAud f).now = s.now := rfl
@[simp] theorem State.updAud_regs (f : AudState → AudState) : (s.updAud f).regs = s.regs := rfl
@[simp] theorem State.updAud_locks (f : AudState → AudState) : (s.updAud f).locks = s.locks := rfl
@[simp] theorem State.updAud_lows (f : AudState → AudState) : (s.updAud f).lows = s.lows := rfl
@[simp] theorem State.updAud_latches (f : AudState → AudState) : (s.updAud f).latches = s.latches := rfl
@[simp] theorem State.updAud_mem (f : AudState → AudState) : (s.updAud f).mem = s.mem := rfl
@[simp] theorem State.updAud_memUe (f : AudState → AudState) : (s.updAud f).memUe = s.memUe := rfl
@[simp] theorem State.updAud_memCarried (f : AudState → AudState) : (s.updAud f).memCarried = s.memCarried := rfl
@[simp] theorem State.updAud_dram (f : AudState → AudState) : (s.updAud f).dram = s.dram := rfl
@[simp] theorem State.updAud_dramUe (f : AudState → AudState) : (s.updAud f).dramUe = s.dramUe := rfl
@[simp] theorem State.updAud_events (f : AudState → AudState) : (s.updAud f).events = s.events := rfl
@[simp] theorem State.updAud_out (f : AudState → AudState) : (s.updAud f).out = s.out := rfl
@[simp] theorem State.updAud_fresh (f : AudState → AudState) : (s.updAud f).fresh = s.fresh := rfl
@[simp] theorem State.updAud_pins (f : AudState → AudState) : (s.updAud f).pins = s.pins := rfl
@[simp] theorem State.updAud_sites (f : AudState → AudState) : (s.updAud f).sites = s.sites := rfl
@[simp] theorem State.updAud_tb (f : AudState → AudState) : (s.updAud f).tb = s.tb := rfl
@[simp] theorem State.updAud_memory (f : AudState → AudState) : (s.updAud f).memory = s.memory := rfl
@[simp] theorem State.updAud_aud (f : AudState → AudState) : (s.updAud f).aud = f s.aud := rfl
@[simp] theorem State.updAud_sec (f : AudState → AudState) : (s.updAud f).sec = s.sec := rfl
@[simp] theorem State.updAud_nv (f : AudState → AudState) : (s.updAud f).nv = s.nv := rfl
@[simp] theorem State.updAud_pwr (f : AudState → AudState) : (s.updAud f).pwr = s.pwr := rfl
@[simp] theorem State.updAud_iat (f : AudState → AudState) : (s.updAud f).iat = s.iat := rfl
@[simp] theorem State.updAud_cal (f : AudState → AudState) : (s.updAud f).cal = s.cal := rfl
@[simp] theorem State.updAud_red (f : AudState → AudState) : (s.updAud f).red = s.red := rfl
@[simp] theorem State.updAud_xe (f : AudState → AudState) : (s.updAud f).xe = s.xe := rfl
@[simp] theorem State.updAud_svc (f : AudState → AudState) : (s.updAud f).svc = s.svc := rfl
@[simp] theorem State.updAud_drc (f : AudState → AudState) : (s.updAud f).drc = s.drc := rfl
@[simp] theorem State.updAud_dma (f : AudState → AudState) : (s.updAud f).dma = s.dma := rfl
@[simp] theorem State.updAud_host (f : AudState → AudState) : (s.updAud f).host = s.host := rfl
@[simp] theorem State.updAud_boot (f : AudState → AudState) : (s.updAud f).boot = s.boot := rfl
@[simp] theorem State.updAud_reg (f : AudState → AudState) (x : Nat) : (s.updAud f).reg x = s.reg x := rfl
@[simp] theorem State.updAud_get (f : AudState → AudState) (g : Fld) : (s.updAud f).get g = s.get g := rfl
@[simp] theorem State.updAud_bit (f : AudState → AudState) (g : Fld) : (s.updAud f).bit g = s.bit g := rfl
@[simp] theorem State.updAud_site (f : AudState → AudState) (j : Nat) : (s.updAud f).site j = s.site j := rfl
@[simp] theorem State.updAud_pin (f : AudState → AudState) (j : Nat) : (s.updAud f).pin j = s.pin j := rfl
@[simp] theorem State.updAud_tick (f : AudState → AudState) : (s.updAud f).tick = s.tick := rfl

@[simp] theorem State.updRed_pending (f : RedState → RedState) : (s.updRed f).pending = s.pending := rfl
@[simp] theorem State.updRed_now (f : RedState → RedState) : (s.updRed f).now = s.now := rfl
@[simp] theorem State.updRed_regs (f : RedState → RedState) : (s.updRed f).regs = s.regs := rfl
@[simp] theorem State.updRed_locks (f : RedState → RedState) : (s.updRed f).locks = s.locks := rfl
@[simp] theorem State.updRed_lows (f : RedState → RedState) : (s.updRed f).lows = s.lows := rfl
@[simp] theorem State.updRed_latches (f : RedState → RedState) : (s.updRed f).latches = s.latches := rfl
@[simp] theorem State.updRed_mem (f : RedState → RedState) : (s.updRed f).mem = s.mem := rfl
@[simp] theorem State.updRed_memUe (f : RedState → RedState) : (s.updRed f).memUe = s.memUe := rfl
@[simp] theorem State.updRed_memCarried (f : RedState → RedState) : (s.updRed f).memCarried = s.memCarried := rfl
@[simp] theorem State.updRed_dram (f : RedState → RedState) : (s.updRed f).dram = s.dram := rfl
@[simp] theorem State.updRed_dramUe (f : RedState → RedState) : (s.updRed f).dramUe = s.dramUe := rfl
@[simp] theorem State.updRed_events (f : RedState → RedState) : (s.updRed f).events = s.events := rfl
@[simp] theorem State.updRed_out (f : RedState → RedState) : (s.updRed f).out = s.out := rfl
@[simp] theorem State.updRed_fresh (f : RedState → RedState) : (s.updRed f).fresh = s.fresh := rfl
@[simp] theorem State.updRed_pins (f : RedState → RedState) : (s.updRed f).pins = s.pins := rfl
@[simp] theorem State.updRed_sites (f : RedState → RedState) : (s.updRed f).sites = s.sites := rfl
@[simp] theorem State.updRed_tb (f : RedState → RedState) : (s.updRed f).tb = s.tb := rfl
@[simp] theorem State.updRed_memory (f : RedState → RedState) : (s.updRed f).memory = s.memory := rfl
@[simp] theorem State.updRed_aud (f : RedState → RedState) : (s.updRed f).aud = s.aud := rfl
@[simp] theorem State.updRed_sec (f : RedState → RedState) : (s.updRed f).sec = s.sec := rfl
@[simp] theorem State.updRed_nv (f : RedState → RedState) : (s.updRed f).nv = s.nv := rfl
@[simp] theorem State.updRed_pwr (f : RedState → RedState) : (s.updRed f).pwr = s.pwr := rfl
@[simp] theorem State.updRed_iat (f : RedState → RedState) : (s.updRed f).iat = s.iat := rfl
@[simp] theorem State.updRed_cal (f : RedState → RedState) : (s.updRed f).cal = s.cal := rfl
@[simp] theorem State.updRed_red (f : RedState → RedState) : (s.updRed f).red = f s.red := rfl
@[simp] theorem State.updRed_xe (f : RedState → RedState) : (s.updRed f).xe = s.xe := rfl
@[simp] theorem State.updRed_svc (f : RedState → RedState) : (s.updRed f).svc = s.svc := rfl
@[simp] theorem State.updRed_drc (f : RedState → RedState) : (s.updRed f).drc = s.drc := rfl
@[simp] theorem State.updRed_dma (f : RedState → RedState) : (s.updRed f).dma = s.dma := rfl
@[simp] theorem State.updRed_host (f : RedState → RedState) : (s.updRed f).host = s.host := rfl
@[simp] theorem State.updRed_boot (f : RedState → RedState) : (s.updRed f).boot = s.boot := rfl
@[simp] theorem State.updRed_reg (f : RedState → RedState) (x : Nat) : (s.updRed f).reg x = s.reg x := rfl
@[simp] theorem State.updRed_get (f : RedState → RedState) (g : Fld) : (s.updRed f).get g = s.get g := rfl
@[simp] theorem State.updRed_bit (f : RedState → RedState) (g : Fld) : (s.updRed f).bit g = s.bit g := rfl
@[simp] theorem State.updRed_site (f : RedState → RedState) (j : Nat) : (s.updRed f).site j = s.site j := rfl
@[simp] theorem State.updRed_pin (f : RedState → RedState) (j : Nat) : (s.updRed f).pin j = s.pin j := rfl
@[simp] theorem State.updRed_tick (f : RedState → RedState) : (s.updRed f).tick = s.tick := rfl

@[simp] theorem State.updXe_pending (f : XeState → XeState) : (s.updXe f).pending = s.pending := rfl
@[simp] theorem State.updXe_now (f : XeState → XeState) : (s.updXe f).now = s.now := rfl
@[simp] theorem State.updXe_regs (f : XeState → XeState) : (s.updXe f).regs = s.regs := rfl
@[simp] theorem State.updXe_locks (f : XeState → XeState) : (s.updXe f).locks = s.locks := rfl
@[simp] theorem State.updXe_lows (f : XeState → XeState) : (s.updXe f).lows = s.lows := rfl
@[simp] theorem State.updXe_latches (f : XeState → XeState) : (s.updXe f).latches = s.latches := rfl
@[simp] theorem State.updXe_mem (f : XeState → XeState) : (s.updXe f).mem = s.mem := rfl
@[simp] theorem State.updXe_memUe (f : XeState → XeState) : (s.updXe f).memUe = s.memUe := rfl
@[simp] theorem State.updXe_memCarried (f : XeState → XeState) : (s.updXe f).memCarried = s.memCarried := rfl
@[simp] theorem State.updXe_dram (f : XeState → XeState) : (s.updXe f).dram = s.dram := rfl
@[simp] theorem State.updXe_dramUe (f : XeState → XeState) : (s.updXe f).dramUe = s.dramUe := rfl
@[simp] theorem State.updXe_events (f : XeState → XeState) : (s.updXe f).events = s.events := rfl
@[simp] theorem State.updXe_out (f : XeState → XeState) : (s.updXe f).out = s.out := rfl
@[simp] theorem State.updXe_fresh (f : XeState → XeState) : (s.updXe f).fresh = s.fresh := rfl
@[simp] theorem State.updXe_pins (f : XeState → XeState) : (s.updXe f).pins = s.pins := rfl
@[simp] theorem State.updXe_sites (f : XeState → XeState) : (s.updXe f).sites = s.sites := rfl
@[simp] theorem State.updXe_tb (f : XeState → XeState) : (s.updXe f).tb = s.tb := rfl
@[simp] theorem State.updXe_memory (f : XeState → XeState) : (s.updXe f).memory = s.memory := rfl
@[simp] theorem State.updXe_aud (f : XeState → XeState) : (s.updXe f).aud = s.aud := rfl
@[simp] theorem State.updXe_sec (f : XeState → XeState) : (s.updXe f).sec = s.sec := rfl
@[simp] theorem State.updXe_nv (f : XeState → XeState) : (s.updXe f).nv = s.nv := rfl
@[simp] theorem State.updXe_pwr (f : XeState → XeState) : (s.updXe f).pwr = s.pwr := rfl
@[simp] theorem State.updXe_iat (f : XeState → XeState) : (s.updXe f).iat = s.iat := rfl
@[simp] theorem State.updXe_cal (f : XeState → XeState) : (s.updXe f).cal = s.cal := rfl
@[simp] theorem State.updXe_red (f : XeState → XeState) : (s.updXe f).red = s.red := rfl
@[simp] theorem State.updXe_xe (f : XeState → XeState) : (s.updXe f).xe = f s.xe := rfl
@[simp] theorem State.updXe_svc (f : XeState → XeState) : (s.updXe f).svc = s.svc := rfl
@[simp] theorem State.updXe_drc (f : XeState → XeState) : (s.updXe f).drc = s.drc := rfl
@[simp] theorem State.updXe_dma (f : XeState → XeState) : (s.updXe f).dma = s.dma := rfl
@[simp] theorem State.updXe_host (f : XeState → XeState) : (s.updXe f).host = s.host := rfl
@[simp] theorem State.updXe_boot (f : XeState → XeState) : (s.updXe f).boot = s.boot := rfl
@[simp] theorem State.updXe_reg (f : XeState → XeState) (x : Nat) : (s.updXe f).reg x = s.reg x := rfl
@[simp] theorem State.updXe_get (f : XeState → XeState) (g : Fld) : (s.updXe f).get g = s.get g := rfl
@[simp] theorem State.updXe_bit (f : XeState → XeState) (g : Fld) : (s.updXe f).bit g = s.bit g := rfl
@[simp] theorem State.updXe_site (f : XeState → XeState) (j : Nat) : (s.updXe f).site j = s.site j := rfl
@[simp] theorem State.updXe_pin (f : XeState → XeState) (j : Nat) : (s.updXe f).pin j = s.pin j := rfl
@[simp] theorem State.updXe_tick (f : XeState → XeState) : (s.updXe f).tick = s.tick := rfl

@[simp] theorem State.updSvc_pending (f : SvcState → SvcState) : (s.updSvc f).pending = s.pending := rfl
@[simp] theorem State.updSvc_now (f : SvcState → SvcState) : (s.updSvc f).now = s.now := rfl
@[simp] theorem State.updSvc_regs (f : SvcState → SvcState) : (s.updSvc f).regs = s.regs := rfl
@[simp] theorem State.updSvc_locks (f : SvcState → SvcState) : (s.updSvc f).locks = s.locks := rfl
@[simp] theorem State.updSvc_lows (f : SvcState → SvcState) : (s.updSvc f).lows = s.lows := rfl
@[simp] theorem State.updSvc_latches (f : SvcState → SvcState) : (s.updSvc f).latches = s.latches := rfl
@[simp] theorem State.updSvc_mem (f : SvcState → SvcState) : (s.updSvc f).mem = s.mem := rfl
@[simp] theorem State.updSvc_memUe (f : SvcState → SvcState) : (s.updSvc f).memUe = s.memUe := rfl
@[simp] theorem State.updSvc_memCarried (f : SvcState → SvcState) : (s.updSvc f).memCarried = s.memCarried := rfl
@[simp] theorem State.updSvc_dram (f : SvcState → SvcState) : (s.updSvc f).dram = s.dram := rfl
@[simp] theorem State.updSvc_dramUe (f : SvcState → SvcState) : (s.updSvc f).dramUe = s.dramUe := rfl
@[simp] theorem State.updSvc_events (f : SvcState → SvcState) : (s.updSvc f).events = s.events := rfl
@[simp] theorem State.updSvc_out (f : SvcState → SvcState) : (s.updSvc f).out = s.out := rfl
@[simp] theorem State.updSvc_fresh (f : SvcState → SvcState) : (s.updSvc f).fresh = s.fresh := rfl
@[simp] theorem State.updSvc_pins (f : SvcState → SvcState) : (s.updSvc f).pins = s.pins := rfl
@[simp] theorem State.updSvc_sites (f : SvcState → SvcState) : (s.updSvc f).sites = s.sites := rfl
@[simp] theorem State.updSvc_tb (f : SvcState → SvcState) : (s.updSvc f).tb = s.tb := rfl
@[simp] theorem State.updSvc_memory (f : SvcState → SvcState) : (s.updSvc f).memory = s.memory := rfl
@[simp] theorem State.updSvc_aud (f : SvcState → SvcState) : (s.updSvc f).aud = s.aud := rfl
@[simp] theorem State.updSvc_sec (f : SvcState → SvcState) : (s.updSvc f).sec = s.sec := rfl
@[simp] theorem State.updSvc_nv (f : SvcState → SvcState) : (s.updSvc f).nv = s.nv := rfl
@[simp] theorem State.updSvc_pwr (f : SvcState → SvcState) : (s.updSvc f).pwr = s.pwr := rfl
@[simp] theorem State.updSvc_iat (f : SvcState → SvcState) : (s.updSvc f).iat = s.iat := rfl
@[simp] theorem State.updSvc_cal (f : SvcState → SvcState) : (s.updSvc f).cal = s.cal := rfl
@[simp] theorem State.updSvc_red (f : SvcState → SvcState) : (s.updSvc f).red = s.red := rfl
@[simp] theorem State.updSvc_xe (f : SvcState → SvcState) : (s.updSvc f).xe = s.xe := rfl
@[simp] theorem State.updSvc_svc (f : SvcState → SvcState) : (s.updSvc f).svc = f s.svc := rfl
@[simp] theorem State.updSvc_drc (f : SvcState → SvcState) : (s.updSvc f).drc = s.drc := rfl
@[simp] theorem State.updSvc_dma (f : SvcState → SvcState) : (s.updSvc f).dma = s.dma := rfl
@[simp] theorem State.updSvc_host (f : SvcState → SvcState) : (s.updSvc f).host = s.host := rfl
@[simp] theorem State.updSvc_boot (f : SvcState → SvcState) : (s.updSvc f).boot = s.boot := rfl
@[simp] theorem State.updSvc_reg (f : SvcState → SvcState) (x : Nat) : (s.updSvc f).reg x = s.reg x := rfl
@[simp] theorem State.updSvc_get (f : SvcState → SvcState) (g : Fld) : (s.updSvc f).get g = s.get g := rfl
@[simp] theorem State.updSvc_bit (f : SvcState → SvcState) (g : Fld) : (s.updSvc f).bit g = s.bit g := rfl
@[simp] theorem State.updSvc_site (f : SvcState → SvcState) (j : Nat) : (s.updSvc f).site j = s.site j := rfl
@[simp] theorem State.updSvc_pin (f : SvcState → SvcState) (j : Nat) : (s.updSvc f).pin j = s.pin j := rfl
@[simp] theorem State.updSvc_tick (f : SvcState → SvcState) : (s.updSvc f).tick = s.tick := rfl

@[simp] theorem State.updDma_pending (f : DmaState → DmaState) : (s.updDma f).pending = s.pending := rfl
@[simp] theorem State.updDma_now (f : DmaState → DmaState) : (s.updDma f).now = s.now := rfl
@[simp] theorem State.updDma_regs (f : DmaState → DmaState) : (s.updDma f).regs = s.regs := rfl
@[simp] theorem State.updDma_locks (f : DmaState → DmaState) : (s.updDma f).locks = s.locks := rfl
@[simp] theorem State.updDma_lows (f : DmaState → DmaState) : (s.updDma f).lows = s.lows := rfl
@[simp] theorem State.updDma_latches (f : DmaState → DmaState) : (s.updDma f).latches = s.latches := rfl
@[simp] theorem State.updDma_mem (f : DmaState → DmaState) : (s.updDma f).mem = s.mem := rfl
@[simp] theorem State.updDma_memUe (f : DmaState → DmaState) : (s.updDma f).memUe = s.memUe := rfl
@[simp] theorem State.updDma_memCarried (f : DmaState → DmaState) : (s.updDma f).memCarried = s.memCarried := rfl
@[simp] theorem State.updDma_dram (f : DmaState → DmaState) : (s.updDma f).dram = s.dram := rfl
@[simp] theorem State.updDma_dramUe (f : DmaState → DmaState) : (s.updDma f).dramUe = s.dramUe := rfl
@[simp] theorem State.updDma_events (f : DmaState → DmaState) : (s.updDma f).events = s.events := rfl
@[simp] theorem State.updDma_out (f : DmaState → DmaState) : (s.updDma f).out = s.out := rfl
@[simp] theorem State.updDma_fresh (f : DmaState → DmaState) : (s.updDma f).fresh = s.fresh := rfl
@[simp] theorem State.updDma_pins (f : DmaState → DmaState) : (s.updDma f).pins = s.pins := rfl
@[simp] theorem State.updDma_sites (f : DmaState → DmaState) : (s.updDma f).sites = s.sites := rfl
@[simp] theorem State.updDma_tb (f : DmaState → DmaState) : (s.updDma f).tb = s.tb := rfl
@[simp] theorem State.updDma_memory (f : DmaState → DmaState) : (s.updDma f).memory = s.memory := rfl
@[simp] theorem State.updDma_aud (f : DmaState → DmaState) : (s.updDma f).aud = s.aud := rfl
@[simp] theorem State.updDma_sec (f : DmaState → DmaState) : (s.updDma f).sec = s.sec := rfl
@[simp] theorem State.updDma_nv (f : DmaState → DmaState) : (s.updDma f).nv = s.nv := rfl
@[simp] theorem State.updDma_pwr (f : DmaState → DmaState) : (s.updDma f).pwr = s.pwr := rfl
@[simp] theorem State.updDma_iat (f : DmaState → DmaState) : (s.updDma f).iat = s.iat := rfl
@[simp] theorem State.updDma_cal (f : DmaState → DmaState) : (s.updDma f).cal = s.cal := rfl
@[simp] theorem State.updDma_red (f : DmaState → DmaState) : (s.updDma f).red = s.red := rfl
@[simp] theorem State.updDma_xe (f : DmaState → DmaState) : (s.updDma f).xe = s.xe := rfl
@[simp] theorem State.updDma_svc (f : DmaState → DmaState) : (s.updDma f).svc = s.svc := rfl
@[simp] theorem State.updDma_drc (f : DmaState → DmaState) : (s.updDma f).drc = s.drc := rfl
@[simp] theorem State.updDma_dma (f : DmaState → DmaState) : (s.updDma f).dma = f s.dma := rfl
@[simp] theorem State.updDma_host (f : DmaState → DmaState) : (s.updDma f).host = s.host := rfl
@[simp] theorem State.updDma_boot (f : DmaState → DmaState) : (s.updDma f).boot = s.boot := rfl
@[simp] theorem State.updDma_reg (f : DmaState → DmaState) (x : Nat) : (s.updDma f).reg x = s.reg x := rfl
@[simp] theorem State.updDma_get (f : DmaState → DmaState) (g : Fld) : (s.updDma f).get g = s.get g := rfl
@[simp] theorem State.updDma_bit (f : DmaState → DmaState) (g : Fld) : (s.updDma f).bit g = s.bit g := rfl
@[simp] theorem State.updDma_site (f : DmaState → DmaState) (j : Nat) : (s.updDma f).site j = s.site j := rfl
@[simp] theorem State.updDma_pin (f : DmaState → DmaState) (j : Nat) : (s.updDma f).pin j = s.pin j := rfl
@[simp] theorem State.updDma_tick (f : DmaState → DmaState) : (s.updDma f).tick = s.tick := rfl

end Sys2Proof.Machine
end

