-- ==== Sys2Proof/Laws/Fields.lean ====
section
/-! SUPPORT. What a register field reads after a field of the same or another register is given a value: the value itself, cut to the length of the
field, or what it read before. -/
namespace Sys2Proof.Machine

/-- Whether two fields share no bit. -/
def Fld.apart (f g : Fld) : Bool := decide (f.addr ≠ g.addr) || decide (f.lo + f.len ≤ g.lo) || decide (g.lo + g.len ≤ f.lo)

/-- Whether a field lies within its register. -/
def Fld.fits (f : Fld) : Bool := decide (f.lo + f.len ≤ 32)

theorem getLsbD_ones (n i : Nat) : (BitVec.ofNat 32 (2 ^ n - 1)).getLsbD i = (decide (i < 32) && decide (i < n)) := by
  simp [BitVec.getLsbD_ofNat, Nat.testBit_two_pow_sub_one]

theorem getLsbD_maskAt (lo len i : Nat) :
    (maskAt lo len).getLsbD i = (decide (i < 32) && decide (lo ≤ i) && decide (i < lo + len)) := by
  unfold maskAt
  rw [BitVec.getLsbD_shiftLeft, getLsbD_ones]
  by_cases h : i < 32 <;> by_cases g : lo ≤ i <;> simp [h, g, show ¬ i < lo ↔ lo ≤ i by omega]
  have : i - lo < 32 := by omega
  have e : i - lo < len ↔ i < lo + len := by omega
  simp [this, e, g]

theorem testBit_fieldGet (lo len : Nat) (w : Word) (i : Nat) :
    (fieldGet lo len w).testBit i = (decide (i < len) && w.getLsbD (lo + i)) := by
  unfold fieldGet
  rw [BitVec.testBit_toNat, BitVec.getLsbD_and, BitVec.getLsbD_ushiftRight, getLsbD_ones]
  by_cases h : lo + i < 32
  · have : i < 32 := by omega
    simp [this, Bool.and_comm]
  · rw [BitVec.getLsbD_of_ge w _ (by omega)]; simp

theorem getLsbD_fieldPut (lo len : Nat) (w : Word) (v i : Nat) :
    (fieldPut lo len w v).getLsbD i =
      if i < 32 ∧ lo ≤ i ∧ i < lo + len then v.testBit (i - lo) else w.getLsbD i := by
  unfold fieldPut
  rw [BitVec.getLsbD_or, BitVec.getLsbD_and, BitVec.getLsbD_and, BitVec.getLsbD_not, getLsbD_maskAt, BitVec.getLsbD_shiftLeft,
    BitVec.getLsbD_ofNat]
  by_cases h : i < 32
  · by_cases g : lo ≤ i ∧ i < lo + len
    · simp [h, g, show i - lo < 32 by omega, show ¬ i < lo by omega]
    · rw [if_neg (by tauto)]
      have : (decide (lo ≤ i) && decide (i < lo + len)) = false := by simpa [not_and] using g
      simp [h, this]
  · rw [if_neg (by tauto), BitVec.getLsbD_of_ge w _ (by omega)]; simp [h]

theorem fieldGet_lt (lo len : Nat) (w : Word) : fieldGet lo len w < 2 ^ len := by
  refine Nat.lt_pow_two_of_testBit _ (fun i hi => ?_)
  rw [testBit_fieldGet]; simp; omega

theorem fieldGet_fieldPut_self {lo len : Nat} (w : Word) (v : Nat) (h : lo + len ≤ 32) :
    fieldGet lo len (fieldPut lo len w v) = v % 2 ^ len := by
  refine Nat.eq_of_testBit_eq (fun i => ?_)
  rw [testBit_fieldGet, getLsbD_fieldPut, Nat.testBit_mod_two_pow]
  by_cases g : i < len
  · rw [if_pos (by omega)]; simp
  · simp [g]

theorem fieldGet_fieldPut_other {lo len lo' len' : Nat} (w : Word) (v : Nat) (h : lo + len ≤ lo' ∨ lo' + len' ≤ lo) :
    fieldGet lo' len' (fieldPut lo len w v) = fieldGet lo' len' w := by
  refine Nat.eq_of_testBit_eq (fun i => ?_)
  rw [testBit_fieldGet, testBit_fieldGet, getLsbD_fieldPut]
  by_cases g : i < len'
  · rw [if_neg (by omega)]
  · simp [g]

/-- Whether two fields of a register share no bit. -/
def FieldDesc.apart (f g : FieldDesc) : Bool := decide (f.lo + f.len ≤ g.lo) || decide (g.lo + g.len ≤ f.lo)

/-- Whether the fields of a register lie within it and share no bit. -/
def tidy : List FieldDesc → Bool
  | [] => true
  | f :: fs => decide (f.lo + f.len ≤ 32) && fs.all (fun g => f.apart g) && tidy fs

theorem foldl_put_other {fs : List FieldDesc} {f : FieldDesc} (F : FieldDesc → Nat) (w : Word) (h : fs.all (fun g => f.apart g) = true) :
    fieldGet f.lo f.len (fs.foldl (fun w g => fieldPut g.lo g.len w (F g)) w) = fieldGet f.lo f.len w := by
  induction fs generalizing w with
  | nil => rfl
  | cons g fs ih =>
    simp only [List.all_cons, Bool.and_eq_true] at h
    rw [List.foldl_cons, ih _ h.2, fieldGet_fieldPut_other]
    simpa [FieldDesc.apart, or_comm] using h.1

theorem foldl_put_get {fs : List FieldDesc} {f : FieldDesc} (F : FieldDesc → Nat) (w : Word) (h : tidy fs = true) (hf : f ∈ fs) :
    fieldGet f.lo f.len (fs.foldl (fun w g => fieldPut g.lo g.len w (F g)) w) = F f % 2 ^ f.len := by
  induction fs generalizing w with
  | nil => cases hf
  | cons g fs ih =>
    simp only [tidy, Bool.and_eq_true, decide_eq_true_eq] at h
    rw [List.foldl_cons]
    rcases List.mem_cons.mp hf with e | e
    · subst e
      rw [foldl_put_other F _ h.1.2, fieldGet_fieldPut_self _ _ h.1.1]
    · exact ih _ h.2 e

/-- What a field of a register holds after a write (R5). -/
theorem RegDesc.store_get (d : RegDesc) {f : FieldDesc} (locks old v : Word) (h : tidy d.fields = true) (hf : f ∈ d.fields) :
    fieldGet f.lo f.len (d.store locks old v) =
      fieldAfter f (fieldLocked f locks) (fieldGet f.lo f.len old) (fieldGet f.lo f.len v) % 2 ^ f.len :=
  foldl_put_get _ _ h hf

/-- The bits of a register outside its fields stay as they are. -/
theorem foldl_put_bit {fs : List FieldDesc} (F : FieldDesc → Nat) (w : Word) (i : Nat)
    (h : fs.all (fun g => decide (i < g.lo) || decide (g.lo + g.len ≤ i)) = true) :
    (fs.foldl (fun w g => fieldPut g.lo g.len w (F g)) w).getLsbD i = w.getLsbD i := by
  induction fs generalizing w with
  | nil => rfl
  | cons g fs ih =>
    simp only [List.all_cons, Bool.and_eq_true] at h
    rw [List.foldl_cons, ih _ h.2, getLsbD_fieldPut, if_neg]
    have := h.1
    simp only [Bool.or_eq_true, decide_eq_true_eq] at this
    omega

/-- A field that is the whole register. -/
theorem fieldPut_full (w v : Word) : fieldPut 0 32 w (fieldGet 0 32 v) = v := by
  refine BitVec.eq_of_getLsbD_eq (fun i hi => ?_)
  rw [getLsbD_fieldPut, if_pos (by omega), testBit_fieldGet]
  simp [hi]

theorem fieldGet_full (v : Word) : fieldGet 0 32 v = v.toNat := by
  refine Nat.eq_of_testBit_eq (fun i => ?_)
  rw [testBit_fieldGet, BitVec.testBit_toNat]
  by_cases h : i < 32
  · simp [h]
  · simp [h, BitVec.getLsbD_of_ge v i (by omega)]

variable (s : State)

@[simp] theorem State.reg_setReg_self (a : Nat) (w : Word) : (s.setReg a w).reg a = w := by simp [State.reg]

theorem State.reg_setReg_other {a b : Nat} (w : Word) (h : b ≠ a) : (s.setReg a w).reg b = s.reg b := by
  simp only [State.reg, State.setReg_regs]
  exact Sparse.get_set_other _ _ h

theorem State.reg_set_self (f : Fld) (v : Nat) : (s.set f v).reg f.addr = fieldPut f.lo f.len (s.reg f.addr) v := by
  simp [State.set]

theorem State.reg_set_other {f : Fld} {b : Nat} (v : Nat) (h : b ≠ f.addr) : (s.set f v).reg b = s.reg b :=
  State.reg_setReg_other s _ h

/-- A field that was given a value reads it. -/
theorem State.get_set_self {f : Fld} (v : Nat) (h : f.fits = true) : (s.set f v).get f = v % 2 ^ f.len := by
  unfold State.get
  rw [State.reg_set_self]
  exact fieldGet_fieldPut_self _ _ (by simpa [Fld.fits] using h)

/-- Another field reads what it read before. -/
theorem State.get_set_other {f g : Fld} (v : Nat) (h : f.apart g = true) : (s.set f v).get g = s.get g := by
  unfold State.get
  by_cases e : g.addr = f.addr
  · rw [e, State.reg_set_self]
    refine fieldGet_fieldPut_other _ _ ?_
    simpa [Fld.apart, e.symm] using h
  · rw [State.reg_set_other _ _ e]

theorem State.get_lt (f : Fld) : s.get f < 2 ^ f.len := fieldGet_lt _ _ _

theorem State.bit_set_self {f : Fld} (v : Nat) (h : f.fits = true) : (s.set f v).bit f = decide (v % 2 ^ f.len ≠ 0) := by
  simp [State.bit, State.get_set_self s v h]

theorem State.bit_set_other {f g : Fld} (v : Nat) (h : f.apart g = true) : (s.set f v).bit g = s.bit g := by
  simp [State.bit, State.get_set_other s v h]

/-- A status bit that was set is set. -/
theorem State.bit_flag_self {f : Fld} (h : f.fits = true) (hl : 0 < f.len) : (s.flag f).bit f = true := by
  rw [State.flag, State.bit_set_self s 1 h]
  have : 1 < 2 ^ f.len := Nat.one_lt_two_pow (by omega)
  simp [Nat.mod_eq_of_lt this]

theorem State.bit_flag_other {f g : Fld} (h : f.apart g = true) : (s.flag f).bit g = s.bit g := State.bit_set_other s 1 h

theorem State.get_flag_other {f g : Fld} (h : f.apart g = true) : (s.flag f).get g = s.get g := State.get_set_other s 1 h

/-- A counter that was advanced holds the sum, or its largest value. -/
theorem State.get_count_self {f : Fld} (n : Nat) (h : f.fits = true) : (s.count f n).get f = satAdd f.len (s.get f) n := by
  rw [State.count, State.get_set_self s _ h, Nat.mod_eq_of_lt]
  have : 0 < 2 ^ f.len := Nat.two_pow_pos _
  unfold satAdd
  omega

theorem State.get_count_other {f g : Fld} (n : Nat) (h : f.apart g = true) : (s.count f n).get g = s.get g := State.get_set_other s _ h

/-- A counted field leaves the flag of another field alone. -/
theorem State.bit_count_other {f g : Fld} (n : Nat) (h : f.apart g = true) : (s.count f n).bit g = s.bit g := State.bit_set_other s _ h

/-- A 64-bit value that was set reads back, modulo 2^64. -/
theorem State.get64_set64 {lo hi : Fld} (v : Nat) (hl : lo.lo = 0 ∧ lo.len = 32) (hh : hi.lo = 0 ∧ hi.len = 32) (hn : lo.addr ≠ hi.addr) :
    (s.set64 lo hi v).get64 lo hi = v % 2 ^ 64 := by
  have a : lo.fits = true := by simp [Fld.fits, hl]
  have b : hi.fits = true := by simp [Fld.fits, hh]
  have c : hi.apart lo = true := by simp [Fld.apart, hn.symm]
  rw [State.get64, State.set64, State.get_set_other _ _ c, State.get_set_self _ _ a, State.get_set_self _ _ b, hl.2, hh.2]
  omega

theorem State.get_set64_other {lo hi g : Fld} (v : Nat) (h : lo.apart g = true) (k : hi.apart g = true) : (s.set64 lo hi v).get g = s.get g := by
  rw [State.set64, State.get_set_other _ _ k, State.get_set_other _ _ h]

/-- Fields set one after another leave another field alone. -/
theorem State.get_foldl_set {l : List Nat} {F : Nat → Fld} {V : Nat → Nat} {g : Fld} (h : ∀ k ∈ l, (F k).apart g = true) :
    (l.foldl (fun t k => t.set (F k) (V k)) s).get g = s.get g := by
  induction l generalizing s with
  | nil => rfl
  | cons k l ih =>
    rw [List.foldl_cons, ih _ (fun j hj => h j (by simp [hj])), State.get_set_other _ _ (h k (by simp))]

/-- Fields set one after another change nothing of the state but registers. -/
theorem State.foldl_set_rest (l : List Nat) (F : Nat → Fld) (V : Nat → Nat) :
    l.foldl (fun t k => t.set (F k) (V k)) s = { s with regs := (l.foldl (fun t k => t.set (F k) (V k)) s).regs } := by
  induction l generalizing s with
  | nil => rfl
  | cons k l ih => rw [List.foldl_cons]; exact ih _

/-! A status bit or an event on a condition: every other part of the state stays. -/

@[simp] theorem State.flagIf_pending (c : Bool) (f : Fld) : (s.flagIf c f).pending = s.pending := by unfold State.flagIf; split <;> rfl
@[simp] theorem State.flagIf_now (c : Bool) (f : Fld) : (s.flagIf c f).now = s.now := by unfold State.flagIf; split <;> rfl
@[simp] theorem State.flagIf_locks (c : Bool) (f : Fld) : (s.flagIf c f).locks = s.locks := by unfold State.flagIf; split <;> rfl
@[simp] theorem State.flagIf_lows (c : Bool) (f : Fld) : (s.flagIf c f).lows = s.lows := by unfold State.flagIf; split <;> rfl
@[simp] theorem State.flagIf_latches (c : Bool) (f : Fld) : (s.flagIf c f).latches = s.latches := by unfold State.flagIf; split <;> rfl
@[simp] theorem State.flagIf_mem (c : Bool) (f : Fld) : (s.flagIf c f).mem = s.mem := by unfold State.flagIf; split <;> rfl
@[simp] theorem State.flagIf_memUe (c : Bool) (f : Fld) : (s.flagIf c f).memUe = s.memUe := by unfold State.flagIf; split <;> rfl
@[simp] theorem State.flagIf_memCarried (c : Bool) (f : Fld) : (s.flagIf c f).memCarried = s.memCarried := by unfold State.flagIf; split <;> rfl
@[simp] theorem State.flagIf_dram (c : Bool) (f : Fld) : (s.flagIf c f).dram = s.dram := by unfold State.flagIf; split <;> rfl
@[simp] theorem State.flagIf_dramUe (c : Bool) (f : Fld) : (s.flagIf c f).dramUe = s.dramUe := by unfold State.flagIf; split <;> rfl
@[simp] theorem State.flagIf_out (c : Bool) (f : Fld) : (s.flagIf c f).out = s.out := by unfold State.flagIf; split <;> rfl
@[simp] theorem State.flagIf_fresh (c : Bool) (f : Fld) : (s.flagIf c f).fresh = s.fresh := by unfold State.flagIf; split <;> rfl
@[simp] theorem State.flagIf_pins (c : Bool) (f : Fld) : (s.flagIf c f).pins = s.pins := by unfold State.flagIf; split <;> rfl
@[simp] theorem State.flagIf_sites (c : Bool) (f : Fld) : (s.flagIf c f).sites = s.sites := by unfold State.flagIf; split <;> rfl
@[simp] theorem State.flagIf_tb (c : Bool) (f : Fld) : (s.flagIf c f).tb = s.tb := by unfold State.flagIf; split <;> rfl
@[simp] theorem State.flagIf_memory (c : Bool) (f : Fld) : (s.flagIf c f).memory = s.memory := by unfold State.flagIf; split <;> rfl
@[simp] theorem State.flagIf_aud (c : Bool) (f : Fld) : (s.flagIf c f).aud = s.aud := by unfold State.flagIf; split <;> rfl
@[simp] theorem State.flagIf_sec (c : Bool) (f : Fld) : (s.flagIf c f).sec = s.sec := by unfold State.flagIf; split <;> rfl
@[simp] theorem State.flagIf_nv (c : Bool) (f : Fld) : (s.flagIf c f).nv = s.nv := by unfold State.flagIf; split <;> rfl
@[simp] theorem State.flagIf_pwr (c : Bool) (f : Fld) : (s.flagIf c f).pwr = s.pwr := by unfold State.flagIf; split <;> rfl
@[simp] theorem State.flagIf_iat (c : Bool) (f : Fld) : (s.flagIf c f).iat = s.iat := by unfold State.flagIf; split <;> rfl
@[simp] theorem State.flagIf_cal (c : Bool) (f : Fld) : (s.flagIf c f).cal = s.cal := by unfold State.flagIf; split <;> rfl
@[simp] theorem State.flagIf_red (c : Bool) (f : Fld) : (s.flagIf c f).red = s.red := by unfold State.flagIf; split <;> rfl
@[simp] theorem State.flagIf_xe (c : Bool) (f : Fld) : (s.flagIf c f).xe = s.xe := by unfold State.flagIf; split <;> rfl
@[simp] theorem State.flagIf_svc (c : Bool) (f : Fld) : (s.flagIf c f).svc = s.svc := by unfold State.flagIf; split <;> rfl
@[simp] theorem State.flagIf_drc (c : Bool) (f : Fld) : (s.flagIf c f).drc = s.drc := by unfold State.flagIf; split <;> rfl
@[simp] theorem State.flagIf_dma (c : Bool) (f : Fld) : (s.flagIf c f).dma = s.dma := by unfold State.flagIf; split <;> rfl
@[simp] theorem State.flagIf_host (c : Bool) (f : Fld) : (s.flagIf c f).host = s.host := by unfold State.flagIf; split <;> rfl
@[simp] theorem State.flagIf_boot (c : Bool) (f : Fld) : (s.flagIf c f).boot = s.boot := by unfold State.flagIf; split <;> rfl
@[simp] theorem State.flagIf_events (c : Bool) (f : Fld) : (s.flagIf c f).events = s.events := by unfold State.flagIf; split <;> rfl

@[simp] theorem State.raiseIf_pending (c : Bool) (code source data : Nat) : (s.raiseIf c code source data).pending = s.pending := by unfold State.raiseIf; split <;> rfl
@[simp] theorem State.raiseIf_now (c : Bool) (code source data : Nat) : (s.raiseIf c code source data).now = s.now := by unfold State.raiseIf; split <;> rfl
@[simp] theorem State.raiseIf_locks (c : Bool) (code source data : Nat) : (s.raiseIf c code source data).locks = s.locks := by unfold State.raiseIf; split <;> rfl
@[simp] theorem State.raiseIf_lows (c : Bool) (code source data : Nat) : (s.raiseIf c code source data).lows = s.lows := by unfold State.raiseIf; split <;> rfl
@[simp] theorem State.raiseIf_latches (c : Bool) (code source data : Nat) : (s.raiseIf c code source data).latches = s.latches := by unfold State.raiseIf; split <;> rfl
@[simp] theorem State.raiseIf_mem (c : Bool) (code source data : Nat) : (s.raiseIf c code source data).mem = s.mem := by unfold State.raiseIf; split <;> rfl
@[simp] theorem State.raiseIf_memUe (c : Bool) (code source data : Nat) : (s.raiseIf c code source data).memUe = s.memUe := by unfold State.raiseIf; split <;> rfl
@[simp] theorem State.raiseIf_memCarried (c : Bool) (code source data : Nat) : (s.raiseIf c code source data).memCarried = s.memCarried := by unfold State.raiseIf; split <;> rfl
@[simp] theorem State.raiseIf_dram (c : Bool) (code source data : Nat) : (s.raiseIf c code source data).dram = s.dram := by unfold State.raiseIf; split <;> rfl
@[simp] theorem State.raiseIf_dramUe (c : Bool) (code source data : Nat) : (s.raiseIf c code source data).dramUe = s.dramUe := by unfold State.raiseIf; split <;> rfl
@[simp] theorem State.raiseIf_out (c : Bool) (code source data : Nat) : (s.raiseIf c code source data).out = s.out := by unfold State.raiseIf; split <;> rfl
@[simp] theorem State.raiseIf_fresh (c : Bool) (code source data : Nat) : (s.raiseIf c code source data).fresh = s.fresh := by unfold State.raiseIf; split <;> rfl
@[simp] theorem State.raiseIf_pins (c : Bool) (code source data : Nat) : (s.raiseIf c code source data).pins = s.pins := by unfold State.raiseIf; split <;> rfl
@[simp] theorem State.raiseIf_sites (c : Bool) (code source data : Nat) : (s.raiseIf c code source data).sites = s.sites := by unfold State.raiseIf; split <;> rfl
@[simp] theorem State.raiseIf_tb (c : Bool) (code source data : Nat) : (s.raiseIf c code source data).tb = s.tb := by unfold State.raiseIf; split <;> rfl
@[simp] theorem State.raiseIf_memory (c : Bool) (code source data : Nat) : (s.raiseIf c code source data).memory = s.memory := by unfold State.raiseIf; split <;> rfl
@[simp] theorem State.raiseIf_aud (c : Bool) (code source data : Nat) : (s.raiseIf c code source data).aud = s.aud := by unfold State.raiseIf; split <;> rfl
@[simp] theorem State.raiseIf_sec (c : Bool) (code source data : Nat) : (s.raiseIf c code source data).sec = s.sec := by unfold State.raiseIf; split <;> rfl
@[simp] theorem State.raiseIf_nv (c : Bool) (code source data : Nat) : (s.raiseIf c code source data).nv = s.nv := by unfold State.raiseIf; split <;> rfl
@[simp] theorem State.raiseIf_pwr (c : Bool) (code source data : Nat) : (s.raiseIf c code source data).pwr = s.pwr := by unfold State.raiseIf; split <;> rfl
@[simp] theorem State.raiseIf_iat (c : Bool) (code source data : Nat) : (s.raiseIf c code source data).iat = s.iat := by unfold State.raiseIf; split <;> rfl
@[simp] theorem State.raiseIf_cal (c : Bool) (code source data : Nat) : (s.raiseIf c code source data).cal = s.cal := by unfold State.raiseIf; split <;> rfl
@[simp] theorem State.raiseIf_red (c : Bool) (code source data : Nat) : (s.raiseIf c code source data).red = s.red := by unfold State.raiseIf; split <;> rfl
@[simp] theorem State.raiseIf_xe (c : Bool) (code source data : Nat) : (s.raiseIf c code source data).xe = s.xe := by unfold State.raiseIf; split <;> rfl
@[simp] theorem State.raiseIf_svc (c : Bool) (code source data : Nat) : (s.raiseIf c code source data).svc = s.svc := by unfold State.raiseIf; split <;> rfl
@[simp] theorem State.raiseIf_drc (c : Bool) (code source data : Nat) : (s.raiseIf c code source data).drc = s.drc := by unfold State.raiseIf; split <;> rfl
@[simp] theorem State.raiseIf_dma (c : Bool) (code source data : Nat) : (s.raiseIf c code source data).dma = s.dma := by unfold State.raiseIf; split <;> rfl
@[simp] theorem State.raiseIf_host (c : Bool) (code source data : Nat) : (s.raiseIf c code source data).host = s.host := by unfold State.raiseIf; split <;> rfl
@[simp] theorem State.raiseIf_boot (c : Bool) (code source data : Nat) : (s.raiseIf c code source data).boot = s.boot := by unfold State.raiseIf; split <;> rfl
@[simp] theorem State.raiseIf_regs (c : Bool) (code source data : Nat) : (s.raiseIf c code source data).regs = s.regs := by unfold State.raiseIf; split <;> rfl

@[simp] theorem State.flagOnce_pending (f : Fld) (code source data : Nat) : (s.flagOnce f code source data).pending = s.pending := State.raiseIf_pending s _ _ _ _
@[simp] theorem State.flagOnce_now (f : Fld) (code source data : Nat) : (s.flagOnce f code source data).now = s.now := State.raiseIf_now s _ _ _ _
@[simp] theorem State.flagOnce_locks (f : Fld) (code source data : Nat) : (s.flagOnce f code source data).locks = s.locks := State.raiseIf_locks s _ _ _ _
@[simp] theorem State.flagOnce_lows (f : Fld) (code source data : Nat) : (s.flagOnce f code source data).lows = s.lows := State.raiseIf_lows s _ _ _ _
@[simp] theorem State.flagOnce_latches (f : Fld) (code source data : Nat) : (s.flagOnce f code source data).latches = s.latches := State.raiseIf_latches s _ _ _ _
@[simp] theorem State.flagOnce_mem (f : Fld) (code source data : Nat) : (s.flagOnce f code source data).mem = s.mem := State.raiseIf_mem s _ _ _ _
@[simp] theorem State.flagOnce_memUe (f : Fld) (code source data : Nat) : (s.flagOnce f code source data).memUe = s.memUe := State.raiseIf_memUe s _ _ _ _
@[simp] theorem State.flagOnce_memCarried (f : Fld) (code source data : Nat) : (s.flagOnce f code source data).memCarried = s.memCarried := State.raiseIf_memCarried s _ _ _ _
@[simp] theorem State.flagOnce_dram (f : Fld) (code source data : Nat) : (s.flagOnce f code source data).dram = s.dram := State.raiseIf_dram s _ _ _ _
@[simp] theorem State.flagOnce_dramUe (f : Fld) (code source data : Nat) : (s.flagOnce f code source data).dramUe = s.dramUe := State.raiseIf_dramUe s _ _ _ _
@[simp] theorem State.flagOnce_out (f : Fld) (code source data : Nat) : (s.flagOnce f code source data).out = s.out := State.raiseIf_out s _ _ _ _
@[simp] theorem State.flagOnce_fresh (f : Fld) (code source data : Nat) : (s.flagOnce f code source data).fresh = s.fresh := State.raiseIf_fresh s _ _ _ _
@[simp] theorem State.flagOnce_pins (f : Fld) (code source data : Nat) : (s.flagOnce f code source data).pins = s.pins := State.raiseIf_pins s _ _ _ _
@[simp] theorem State.flagOnce_sites (f : Fld) (code source data : Nat) : (s.flagOnce f code source data).sites = s.sites := State.raiseIf_sites s _ _ _ _
@[simp] theorem State.flagOnce_tb (f : Fld) (code source data : Nat) : (s.flagOnce f code source data).tb = s.tb := State.raiseIf_tb s _ _ _ _
@[simp] theorem State.flagOnce_memory (f : Fld) (code source data : Nat) : (s.flagOnce f code source data).memory = s.memory := State.raiseIf_memory s _ _ _ _
@[simp] theorem State.flagOnce_aud (f : Fld) (code source data : Nat) : (s.flagOnce f code source data).aud = s.aud := State.raiseIf_aud s _ _ _ _
@[simp] theorem State.flagOnce_sec (f : Fld) (code source data : Nat) : (s.flagOnce f code source data).sec = s.sec := State.raiseIf_sec s _ _ _ _
@[simp] theorem State.flagOnce_nv (f : Fld) (code source data : Nat) : (s.flagOnce f code source data).nv = s.nv := State.raiseIf_nv s _ _ _ _
@[simp] theorem State.flagOnce_pwr (f : Fld) (code source data : Nat) : (s.flagOnce f code source data).pwr = s.pwr := State.raiseIf_pwr s _ _ _ _
@[simp] theorem State.flagOnce_iat (f : Fld) (code source data : Nat) : (s.flagOnce f code source data).iat = s.iat := State.raiseIf_iat s _ _ _ _
@[simp] theorem State.flagOnce_cal (f : Fld) (code source data : Nat) : (s.flagOnce f code source data).cal = s.cal := State.raiseIf_cal s _ _ _ _
@[simp] theorem State.flagOnce_red (f : Fld) (code source data : Nat) : (s.flagOnce f code source data).red = s.red := State.raiseIf_red s _ _ _ _
@[simp] theorem State.flagOnce_xe (f : Fld) (code source data : Nat) : (s.flagOnce f code source data).xe = s.xe := State.raiseIf_xe s _ _ _ _
@[simp] theorem State.flagOnce_svc (f : Fld) (code source data : Nat) : (s.flagOnce f code source data).svc = s.svc := State.raiseIf_svc s _ _ _ _
@[simp] theorem State.flagOnce_drc (f : Fld) (code source data : Nat) : (s.flagOnce f code source data).drc = s.drc := State.raiseIf_drc s _ _ _ _
@[simp] theorem State.flagOnce_dma (f : Fld) (code source data : Nat) : (s.flagOnce f code source data).dma = s.dma := State.raiseIf_dma s _ _ _ _
@[simp] theorem State.flagOnce_host (f : Fld) (code source data : Nat) : (s.flagOnce f code source data).host = s.host := State.raiseIf_host s _ _ _ _
@[simp] theorem State.flagOnce_boot (f : Fld) (code source data : Nat) : (s.flagOnce f code source data).boot = s.boot := State.raiseIf_boot s _ _ _ _

/-! An event raised. -/

theorem State.reg_raiseIf (c : Bool) (code source data a : Nat) : (s.raiseIf c code source data).reg a = s.reg a := by
  unfold State.raiseIf; split <;> rfl

theorem State.reg_flagIf_other {c : Bool} {f : Fld} {a : Nat} (h : a ≠ f.addr) : (s.flagIf c f).reg a = s.reg a := by
  unfold State.flagIf; split
  · exact State.reg_set_other _ _ h
  · rfl

theorem State.get_flagIf_other {c : Bool} {f g : Fld} (h : f.apart g = true) : (s.flagIf c f).get g = s.get g := by
  unfold State.flagIf; split
  · exact State.get_flag_other _ h
  · rfl

theorem State.bit_flagIf_other {c : Bool} {f g : Fld} (h : f.apart g = true) : (s.flagIf c f).bit g = s.bit g := by
  simp [State.bit, State.get_flagIf_other s h]

theorem State.bit_flagIf_self {c : Bool} {f : Fld} (h : f.fits = true) (hl : 0 < f.len) : (s.flagIf c f).bit f = (c || s.bit f) := by
  unfold State.flagIf; cases c
  · simp
  · simp [State.bit_flag_self s h hl]

theorem State.reg_flagOnce_other {f : Fld} {code source data a : Nat} (h : a ≠ f.addr) : (s.flagOnce f code source data).reg a = s.reg a := by
  rw [State.flagOnce, State.flag, State.reg_set_other _ _ h, State.reg_raiseIf]

theorem State.reg_flag_other {f : Fld} {a : Nat} (h : a ≠ f.addr) : (s.flag f).reg a = s.reg a := State.reg_set_other _ _ h

theorem State.reg_count_other {f : Fld} {a : Nat} (n : Nat) (h : a ≠ f.addr) : (s.count f n).reg a = s.reg a := State.reg_set_other _ _ h

theorem State.reg_set64_other {l f : Fld} {a : Nat} (v : Nat) (h : a ≠ l.addr) (k : a ≠ f.addr) : (s.set64 l f v).reg a = s.reg a := by
  rw [State.set64, State.reg_set_other _ _ k, State.reg_set_other _ _ h]

theorem State.get64_set_other {f l h : Fld} (v : Nat) (a : f.apart l = true) (b : f.apart h = true) : (s.set f v).get64 l h = s.get64 l h := by
  rw [State.get64, State.get64, State.get_set_other _ _ a, State.get_set_other _ _ b]

theorem State.get_raiseIf (c : Bool) (code source data : Nat) (f : Fld) : (s.raiseIf c code source data).get f = s.get f := by
  unfold State.raiseIf; split <;> rfl

theorem State.bit_raiseIf (c : Bool) (code source data : Nat) (f : Fld) : (s.raiseIf c code source data).bit f = s.bit f := by
  unfold State.raiseIf; split <;> rfl

theorem State.bit_flagOnce_self {f : Fld} (code source data : Nat) (h : f.fits = true) (hl : 0 < f.len) :
    (s.flagOnce f code source data).bit f = true := State.bit_flag_self _ h hl

theorem State.get_flagOnce_other {f g : Fld} (code source data : Nat) (h : f.apart g = true) :
    (s.flagOnce f code source data).get g = s.get g := by
  rw [State.flagOnce, State.get_flag_other _ h, State.get_raiseIf]

theorem State.bit_flagOnce_other {f g : Fld} (code source data : Nat) (h : f.apart g = true) :
    (s.flagOnce f code source data).bit g = s.bit g := by
  rw [State.flagOnce, State.bit_flag_other _ h, State.bit_raiseIf]

/-- The event of a status bit that is raised once: only if the bit was clear. -/
theorem State.events_flagOnce (f : Fld) (code source data : Nat) :
    (s.flagOnce f code source data).events =
      if s.bit f then s.events else s.events ++ [⟨code, source % 2 ^ 16, data % 2 ^ 32, s.tick⟩] := by
  unfold State.flagOnce State.flag State.raiseIf State.raise
  cases s.bit f <;> simp

/-! Sites and pins. -/

@[simp] theorem State.site_setSite_self (i : Nat) (v : Site) : (s.setSite i v).site i = v := by simp [State.site]

theorem State.site_setSite_other {i j : Nat} (v : Site) (h : j ≠ i) : (s.setSite i v).site j = s.site j := by
  simp only [State.site, State.setSite_sites]
  exact Sparse.get_set_other _ _ h

@[simp] theorem State.pin_setPin_self (p : Nat) (v : Pin) : (s.setPin p v).pin p = v := by simp [State.pin]

theorem State.pin_setPin_other {p q : Nat} (v : Pin) (h : q ≠ p) : (s.setPin p v).pin q = s.pin q := by
  simp only [State.pin, State.setPin_pins]
  exact Sparse.get_set_other _ _ h

@[simp] theorem State.site_updSite_self (i : Nat) (f : Site → Site) : (s.updSite i f).site i = f (s.site i) := by simp [State.updSite]

theorem State.site_updSite_other {i j : Nat} (f : Site → Site) (h : j ≠ i) : (s.updSite i f).site j = s.site j :=
  State.site_setSite_other s _ h

@[simp] theorem State.pin_updPin_self (p : Nat) (f : Pin → Pin) : (s.updPin p f).pin p = f (s.pin p) := by simp [State.updPin]

theorem State.pin_updPin_other {p q : Nat} (f : Pin → Pin) (h : q ≠ p) : (s.updPin p f).pin q = s.pin q :=
  State.pin_setPin_other s _ h

@[simp] theorem State.site_updBurst_self (i : Nat) (f : BurstState → BurstState) :
    (s.updBurst i f).site i = { s.site i with burst := f (s.site i).burst } := by simp [State.updBurst]

@[simp] theorem State.site_updSpec_self (i : Nat) (f : SpecState → SpecState) :
    (s.updSpec i f).site i = { s.site i with spec := f (s.site i).spec } := by simp [State.updSpec]

@[simp] theorem State.site_updStr_self (i : Nat) (f : StreamState → StreamState) :
    (s.updStr i f).site i = { s.site i with str := f (s.site i).str } := by simp [State.updStr]

@[simp] theorem State.site_updCap_self (i : Nat) (f : CaptureState → CaptureState) :
    (s.updCap i f).site i = { s.site i with cap := f (s.site i).cap } := by simp [State.updCap]

end Sys2Proof.Machine
end

