-- ==== Sys2Proof/Laws/Stores.lean ====
section
/-! SUPPORT. What a write to memory, a check of memory and an audit record can change: the memories with their error marks, the memory and audit
units, the registers of the MEM, DRC and AUD blocks, and the events raised. Everything else stays. -/
namespace Sys2Proof.Machine

/-- The busy bits of SYS_ARCH_STATUS, which stand beside UNMAPPED. -/
def mapBusy : List Fld := [SYS_ARCH_STATUS_MAP_BUSY, SYS_ARCH_STATUS_LEVEL_BUSY]

/-- A field that a write to memory or a check of it may change: of SYS_ARCH_STATUS only UNMAPPED. -/
def putFld (f : Fld) : Bool := putReg f.addr && mapBusy.all (fun g => f.apart g)

/-- The same with what an audit record may change. -/
def storeFld (f : Fld) : Bool := storeReg f.addr && mapBusy.all (fun g => f.apart g)

/-- What holds between a state and one that writes to memory and checks of it make of it: the audit log stays too. -/
structure Puts (s t : State) : Prop where
  rest : t.rest = s.rest
  marks : ∀ i, (t.site i).unmarked = (s.site i).unmarked
  aud : t.aud = s.aud
  busy : ∀ f ∈ mapBusy, t.get f = s.get f
  reg : ∀ a, putReg a = false → t.reg a = s.reg a
  events : s.events <+: t.events

theorem Puts.refl (s : State) : Puts s s := ⟨rfl, fun _ => rfl, rfl, fun _ _ => rfl, fun _ _ => rfl, List.prefix_refl _⟩

theorem Puts.trans {s t u : State} (h : Puts s t) (g : Puts t u) : Puts s u :=
  ⟨g.rest.trans h.rest, fun i => (g.marks i).trans (h.marks i), g.aud.trans h.aud, fun f e => (g.busy f e).trans (h.busy f e),
    fun a e => (g.reg a e).trans (h.reg a e), h.events.trans g.events⟩

theorem Puts.frame {s u t : State} (h : Puts s u) (hr : t.rest = u.rest) (hs : t.sites = u.sites) (ha : t.aud = u.aud) (hg : t.regs = u.regs) (he : t.events = u.events) : Puts s t :=
  h.trans ⟨hr, fun i => by simp only [State.site, hs], ha, fun f _ => by simp only [State.get, State.reg, hg], fun a _ => by simp only [State.reg, hg], by rw [he]⟩

theorem Puts.ite {s a b : State} {c : Prop} [Decidable c] (ha : Puts s a) (hb : Puts s b) : Puts s (if c then a else b) := by
  split <;> assumption

theorem Puts.foldl {β : Type} {s u : State} {l : List β} {f : State → β → State} (hu : Puts s u)
    (hf : ∀ v x, Puts s v → Puts s (f v x)) : Puts s (l.foldl f u) := by
  induction l generalizing u with
  | nil => exact hu
  | cons x l ih => exact ih (hf u x hu)

theorem Puts.set {s u : State} (h : Puts s u) {f : Fld} (v : Nat) (hf : putFld f = true) : Puts s (u.set f v) := by
  simp only [putFld, Bool.and_eq_true, List.all_eq_true] at hf
  exact h.trans ⟨rfl, fun _ => rfl, rfl, fun g hg => State.get_set_other _ _ (hf.2 g hg),
    fun b e => State.reg_setReg_other _ _ (fun hb => by rw [hb, hf.1] at e; cases e), List.prefix_refl _⟩

theorem Puts.flag {s u : State} (h : Puts s u) {f : Fld} (ha : putFld f = true) : Puts s (u.flag f) := Puts.set h _ ha

theorem Puts.count {s u : State} (h : Puts s u) {f : Fld} (n : Nat) (ha : putFld f = true) : Puts s (u.count f n) :=
  Puts.set h _ ha

theorem Puts.set64 {s u : State} (h : Puts s u) {lo hi : Fld} (v : Nat) (ha : putFld lo = true) (hb : putFld hi = true) :
    Puts s (u.set64 lo hi v) := Puts.set (Puts.set h _ ha) _ hb

theorem Puts.raise {s u : State} (h : Puts s u) (code source data : Nat) : Puts s (u.raise code source data) :=
  h.trans ⟨rfl, fun _ => rfl, rfl, fun _ _ => rfl, fun _ _ => rfl, List.prefix_append _ _⟩

theorem Puts.updMem {s u : State} (h : Puts s u) (f : MemState → MemState) : Puts s (u.updMem f) := Puts.frame h rfl rfl rfl rfl rfl

theorem Puts.ocmPut {s u : State} (h : Puts s u) (x : Nat) (b : Byte) : Puts s (u.ocmPut x b) := Puts.frame h rfl rfl rfl rfl rfl

theorem Puts.dramWrite {s u : State} (h : Puts s u) (x : Nat) (bs : List Byte) : Puts s (u.dramWrite x bs) := Puts.frame h rfl rfl rfl rfl rfl

theorem Puts.ocmClean {s u : State} (h : Puts s u) (x : Nat) : Puts s (u.ocmClean x) := Puts.frame h rfl rfl rfl rfl rfl

theorem Puts.dramClean {s u : State} (h : Puts s u) (x : Nat) : Puts s (u.dramClean x) := Puts.frame h rfl rfl rfl rfl rfl

theorem Puts.raiseIf {s u : State} (h : Puts s u) (c : Bool) (code : Nat) (source : Nat) (data : Nat) : Puts s (u.raiseIf c code source
    data) := by
  unfold State.raiseIf
  try dsimp only
  repeat' (first | with_reducible assumption | exact rfl | with_reducible apply Puts.raise | with_reducible apply Puts.ite)

theorem Puts.flagOnce {s u : State} (h : Puts s u) {f : Fld} (code source data : Nat) (ha : putFld f = true) :
    Puts s (u.flagOnce f code source data) := Puts.flag (Puts.raiseIf h _ _ _ _) ha

theorem Puts.ocmWrite {s u : State} (h : Puts s u) (x : Nat) (l : List Byte) : Puts s (u.ocmWrite x l) := by
  induction l generalizing u x with
  | nil => exact h
  | cons b l ih => exact ih (Puts.ocmPut h x b) (x + 1)

theorem Puts.ocmCe {s u : State} (h : Puts s u) (a0 : Nat) : Puts s (u.ocmCe a0) := by
  unfold State.ocmCe
  try dsimp only
  repeat' (first | with_reducible assumption | exact rfl | with_reducible apply Puts.flagOnce | with_reducible apply Puts.count)

theorem Puts.spareCount {s u : State} (h : Puts s u) : Puts s (u.spareCount) := by
  unfold State.spareCount
  try dsimp only
  repeat' (first | with_reducible assumption | exact rfl | with_reducible apply Puts.set)

theorem Puts.spareWait {s u : State} (h : Puts s u) (b : Nat) : Puts s (u.spareWait b) := by
  unfold State.spareWait
  try dsimp only
  repeat' (first | with_reducible assumption | exact rfl | with_reducible apply Puts.updMem | with_reducible apply Puts.flag)

theorem Puts.copyStart {s u : State} (h : Puts s u) (b : Nat) (spare : Nat) (repair : Bool) : Puts s (u.copyStart b spare repair) := by
  unfold State.copyStart
  try dsimp only
  repeat' (first | with_reducible assumption | exact rfl | with_reducible apply Puts.spareCount | with_reducible apply Puts.updMem)

theorem Puts.repairStart {s u : State} (h : Puts s u) (b : Nat) : Puts s (u.repairStart b) := by
  unfold State.repairStart
  try dsimp only
  repeat' (first | with_reducible assumption | exact rfl | with_reducible apply Puts.copyStart | with_reducible apply Puts.spareWait |
      with_reducible apply Puts.updMem | with_reducible apply Puts.ite | with_reducible refine Puts.foldl ?_ (fun _ _ _ => ?_) |
      with_reducible refine Puts.foldl1 ?_ (fun _ _ _ => ?_) | with_reducible apply Puts.ite1 | intro _ | split)

theorem Puts.ocmUe {s u : State} (h : Puts s u) (a0 : Nat) : Puts s (u.ocmUe a0) := by
  unfold State.ocmUe
  try dsimp only
  repeat' (first | with_reducible assumption | exact rfl | with_reducible apply Puts.count | with_reducible apply Puts.flag |
      with_reducible apply Puts.set | with_reducible apply Puts.raise | with_reducible apply Puts.repairStart |
      with_reducible apply Puts.ite)

theorem Puts.dramCe {s u : State} (h : Puts s u) (a0 : Nat) : Puts s (u.dramCe a0) := by
  unfold State.dramCe
  try dsimp only
  repeat' (first | with_reducible assumption | exact rfl | with_reducible apply Puts.flagOnce | with_reducible apply Puts.count)

theorem Puts.dramUeHit {s u : State} (h : Puts s u) (a0 : Nat) : Puts s (u.dramUeHit a0) := by
  unfold State.dramUeHit
  try dsimp only
  repeat' (first | with_reducible assumption | exact rfl | with_reducible apply Puts.count | with_reducible apply Puts.flag |
      with_reducible apply Puts.set64 | with_reducible apply Puts.raise | with_reducible apply Puts.ite)

theorem Puts.ocmCheck {s u : State} (h : Puts s u) (a0 : Nat) (n : Nat) : Puts s (u.ocmCheck a0 n) := by
  unfold State.ocmCheck
  try dsimp only
  repeat' (first | with_reducible assumption | exact rfl | with_reducible apply Puts.ocmUe | with_reducible apply Puts.ite |
      with_reducible refine Puts.foldl ?_ (fun _ _ _ => ?_))

theorem Puts.dramCheck {s u : State} (h : Puts s u) (a0 : Nat) (n : Nat) : Puts s (u.dramCheck a0 n) := by
  unfold State.dramCheck
  try dsimp only
  repeat' (first | with_reducible assumption | exact rfl | with_reducible apply Puts.dramUeHit | with_reducible apply Puts.ite |
      with_reducible refine Puts.foldl ?_ (fun _ _ _ => ?_))

theorem Puts.ocmUpset {s u : State} (h : Puts s u) (e : Ecc) (a1 : Nat) : Puts s (u.ocmUpset e a1) := by
  unfold State.ocmUpset
  try dsimp only
  repeat' (first | with_reducible assumption | exact rfl | with_reducible apply Puts.ocmCe | with_reducible apply Puts.ite |
      with_reducible refine Puts.foldl ?_ (fun _ _ _ => ?_) | with_reducible refine Puts.foldl1 ?_ (fun _ _ _ => ?_) |
      with_reducible apply Puts.ite1 | intro _ | split | with_reducible exact Puts.frame h rfl rfl rfl rfl rfl)

theorem Puts.dramUpset {s u : State} (h : Puts s u) (e : Ecc) (a1 : Nat) : Puts s (u.dramUpset e a1) := by
  unfold State.dramUpset
  try dsimp only
  repeat' (first | with_reducible assumption | exact rfl | with_reducible apply Puts.dramCe | with_reducible apply Puts.ite |
      with_reducible refine Puts.foldl ?_ (fun _ _ _ => ?_) | with_reducible refine Puts.foldl1 ?_ (fun _ _ _ => ?_) |
      with_reducible apply Puts.ite1 | intro _ | split | with_reducible exact Puts.frame h rfl rfl rfl rfl rfl)

theorem Puts.ocmPutPart {s u : State} (h : Puts s u) (p : Nat × List Byte) : Puts s (u.ocmPutPart p) := by
  unfold State.ocmPutPart
  try dsimp only
  repeat' (first | with_reducible assumption | exact rfl | with_reducible apply Puts.ocmClean | with_reducible apply Puts.ocmWrite |
      with_reducible apply Puts.flag | with_reducible apply Puts.ocmUe | with_reducible apply Puts.ite)

theorem Puts.portBPut {s u : State} (h : Puts s u) (a0 : Nat) (bs : List Byte) : Puts s (u.portBPut a0 bs) := by
  unfold State.portBPut
  try dsimp only
  repeat' (first | with_reducible assumption | exact rfl | with_reducible apply Puts.ocmPutPart | with_reducible apply Puts.ite |
      with_reducible refine Puts.foldl ?_ (fun _ _ _ => ?_))

theorem Puts.dramPutPart {s u : State} (h : Puts s u) (p : Nat × List Byte) : Puts s (u.dramPutPart p) := by
  unfold State.dramPutPart
  try dsimp only
  repeat' (first | with_reducible assumption | exact rfl | with_reducible apply Puts.dramClean | with_reducible apply Puts.dramWrite |
      with_reducible apply Puts.flag | with_reducible apply Puts.count | with_reducible apply Puts.ite)

theorem Puts.dramPut {s u : State} (h : Puts s u) (a0 : Nat) (bs : List Byte) : Puts s (u.dramPut a0 bs) := by
  unfold State.dramPut
  try dsimp only
  repeat' (first | with_reducible assumption | exact rfl | with_reducible apply Puts.dramPutPart | with_reducible apply Puts.ite |
      with_reducible refine Puts.foldl ?_ (fun _ _ _ => ?_))

theorem Puts.offAccess {s u : State} (h : Puts s u) (r : Region) : Puts s (u.offAccess r) := by
  unfold State.offAccess
  try dsimp only
  repeat' (first | with_reducible assumption | exact rfl | with_reducible apply Puts.flag | with_reducible apply Puts.ite |
      with_reducible refine Puts.foldl ?_ (fun _ _ _ => ?_) | with_reducible refine Puts.foldl1 ?_ (fun _ _ _ => ?_) |
      with_reducible apply Puts.ite1 | intro _ | split)

theorem Puts.unmapped {s u : State} (h : Puts s u) (x : Nat) : Puts s (u.unmapped x) := by
  unfold State.unmapped
  try dsimp only
  repeat' (first | with_reducible assumption | exact rfl | with_reducible apply Puts.flag | with_reducible apply Puts.ite |
      with_reducible apply Puts.set64)

/-- Of a site, what a function leaves of it but for the marks stays. -/
theorem Puts.updSite {s u : State} (h : Puts s u) (i : Nat) {f : Site → Site} (hf : ∀ x, (f x).unmarked = x.unmarked) :
    Puts s (u.updSite i f) := by
  refine h.trans ⟨rfl, fun j => ?_, rfl, fun _ _ => rfl, fun _ _ => rfl, List.prefix_refl _⟩
  by_cases e : j = i
  · subst e; rw [State.site_updSite_self]; exact hf _
  · rw [State.site_updSite_other _ _ e]

theorem Puts.markUndef {s u : State} (h : Puts s u) (i : Nat) : Puts s (u.markUndef i) := by
  unfold State.markUndef State.updBurst
  exact Puts.ite (Puts.updSite h i (fun _ => rfl)) (Puts.updSite h i (fun _ => rfl))

theorem Puts.touch {s u : State} (h : Puts s u) (addr n : Nat) : Puts s (u.touch addr n) :=
  Puts.foldl h (fun _ _ hv => Puts.markUndef hv _)

/-- A mark changes the sites alone. -/
theorem State.markUndef_only (s : State) (i : Nat) : s.markUndef i = { s with sites := (s.markUndef i).sites } := by
  unfold State.markUndef
  split <;> rfl

theorem State.foldl_markUndef_only (l : List Nat) (s : State) :
    l.foldl State.markUndef s = { s with sites := (l.foldl State.markUndef s).sites } := by
  induction l generalizing s with
  | nil => rfl
  | cons i l ih =>
    rw [List.foldl_cons]
    have h := ih (s.markUndef i)
    have g := s.markUndef_only i
    generalize s.markUndef i = u at h g ⊢
    generalize l.foldl State.markUndef u = v at h ⊢
    rw [h, g]

/-- So do the marks of a write. -/
theorem State.touch_only (s : State) (addr n : Nat) : s.touch addr n = { s with sites := (s.touch addr n).sites } :=
  State.foldl_markUndef_only _ s

/-- Whether a site is marked: its burst, or the next one of an IDLE site. -/
def State.marked (s : State) (i : Nat) : Bool := if s.idle i then (s.site i).unsure else (s.site i).burst.undef

theorem State.marked_markUndef_self (s : State) (i : Nat) : (s.markUndef i).marked i = true := by
  have e : (s.markUndef i).idle i = s.idle i := by rw [s.markUndef_only i]; rfl
  unfold State.marked
  rw [e]
  unfold State.markUndef
  split <;> simp [*]

theorem State.marked_markUndef (s : State) (i j : Nat) (h : s.marked i = true) : (s.markUndef j).marked i = true := by
  by_cases e : i = j
  · subst e; exact s.marked_markUndef_self i
  · have k : (s.markUndef j).idle i = s.idle i := by rw [s.markUndef_only j]; rfl
    have g : (s.markUndef j).site i = s.site i := by
      unfold State.markUndef
      split <;> exact State.site_updSite_other _ _ e
    unfold State.marked at h ⊢
    rw [k, g]; exact h

/-- A write marks every site that is using one of its bytes (R131, R326). -/
theorem State.touch_marked (s : State) {addr n i : Nat} (h : i ∈ s.usedBy addr n) : (s.touch addr n).marked i = true := by
  unfold State.touch
  generalize s.usedBy addr n = l at h
  have keep : ∀ (l : List Nat) (u : State), u.marked i = true → (l.foldl State.markUndef u).marked i = true := by
    intro l
    induction l with
    | nil => exact fun _ hu => hu
    | cons j l ih => exact fun u hu => ih _ (u.marked_markUndef i j hu)
  induction l generalizing s with
  | nil => cases h
  | cons j l ih =>
    rcases List.mem_cons.mp h with rfl | h'
    · exact keep l _ (s.marked_markUndef_self i)
    · exact ih (s.markUndef j) h'

theorem Puts.storeRegion {s u : State} (h : Puts s u) (r : Region) (bs : List Byte) : Puts s (u.storeRegion r bs) := by
  unfold State.storeRegion
  try dsimp only
  repeat' (first | with_reducible assumption | exact rfl | with_reducible apply Puts.offAccess | with_reducible apply Puts.portBPut |
      with_reducible apply Puts.dramPut | with_reducible apply Puts.unmapped | with_reducible apply Puts.updMem | with_reducible apply Puts.ite | with_reducible refine Puts.foldl ?_ (fun _ _ _ => ?_) |
      with_reducible refine Puts.foldl1 ?_ (fun _ _ _ => ?_) | with_reducible apply Puts.ite1 | intro _ | split)

theorem Puts.putRegion {s u : State} (h : Puts s u) (r : Region) (bs : List Byte) : Puts s (u.putRegion r bs) :=
  Puts.storeRegion (Puts.touch h _ _) r bs

theorem Puts.checkRegion {s u : State} (h : Puts s u) (r : Region) (n : Nat) : Puts s (u.checkRegion r n) := by
  unfold State.checkRegion
  try dsimp only
  repeat' (first | with_reducible assumption | exact rfl | with_reducible apply Puts.offAccess | with_reducible apply Puts.ocmCheck |
      with_reducible apply Puts.dramCheck | with_reducible apply Puts.unmapped | with_reducible apply Puts.ite | with_reducible refine Puts.foldl ?_ (fun _ _ _ => ?_) |
      with_reducible refine Puts.foldl1 ?_ (fun _ _ _ => ?_) | with_reducible apply Puts.ite1 | intro _ | split)

theorem Puts.ringPut {s u : State} (h : Puts s u) (base : Nat) (size : Nat) (off : Nat) (bs : List Byte) : Puts s (u.ringPut base size
    off bs) := by
  unfold State.ringPut
  try dsimp only
  repeat' (first | with_reducible assumption | exact rfl | with_reducible apply Puts.putRegion | with_reducible apply Puts.ite)

/-! Audit records. -/

/-- What holds between a state and one that writes to memory, checks of it and audit records make of it. -/
structure Stores (s t : State) : Prop where
  rest : t.rest = s.rest
  marks : ∀ i, (t.site i).unmarked = (s.site i).unmarked
  busy : ∀ f ∈ mapBusy, t.get f = s.get f
  reg : ∀ a, storeReg a = false → t.reg a = s.reg a
  events : s.events <+: t.events

theorem storeReg_putReg {a : Nat} (h : storeReg a = false) : putReg a = false := (Bool.or_eq_false_iff.mp h).1

theorem Puts.stores {s t : State} (h : Puts s t) : Stores s t := ⟨h.rest, h.marks, h.busy, fun a e => h.reg a (storeReg_putReg e), h.events⟩

theorem Stores.refl (s : State) : Stores s s := ⟨rfl, fun _ => rfl, fun _ _ => rfl, fun _ _ => rfl, List.prefix_refl _⟩

theorem Stores.trans {s t u : State} (h : Stores s t) (g : Stores t u) : Stores s u :=
  ⟨g.rest.trans h.rest, fun i => (g.marks i).trans (h.marks i), fun f e => (g.busy f e).trans (h.busy f e), fun a e => (g.reg a e).trans (h.reg a e), h.events.trans g.events⟩

theorem Stores.frame {s u t : State} (h : Stores s u) (hr : t.rest = u.rest) (hs : t.sites = u.sites) (hg : t.regs = u.regs) (he : t.events = u.events) : Stores s t :=
  h.trans ⟨hr, fun i => by simp only [State.site, hs], fun f _ => by simp only [State.get, State.reg, hg], fun a _ => by simp only [State.reg, hg], by rw [he]⟩

theorem Stores.ite {s a b : State} {c : Prop} [Decidable c] (ha : Stores s a) (hb : Stores s b) : Stores s (if c then a else b) := by
  split <;> assumption

theorem Stores.foldl {β : Type} {s u : State} {l : List β} {f : State → β → State} (hu : Stores s u)
    (hf : ∀ v x, Stores s v → Stores s (f v x)) : Stores s (l.foldl f u) := by
  induction l generalizing u with
  | nil => exact hu
  | cons x l ih => exact ih (hf u x hu)

theorem Stores.foldlMem {β : Type} {s u : State} {l : List β} {f : State → β → State} (hu : Stores s u)
    (hf : ∀ v x, x ∈ l → Stores s v → Stores s (f v x)) : Stores s (l.foldl f u) := by
  induction l generalizing u with
  | nil => exact hu
  | cons x l ih => exact ih (hf u x (by simp) hu) (fun v y hy => hf v y (by simp [hy]))

theorem Stores.set {s u : State} (h : Stores s u) {f : Fld} (v : Nat) (hf : storeFld f = true) : Stores s (u.set f v) := by
  simp only [storeFld, Bool.and_eq_true, List.all_eq_true] at hf
  exact h.trans ⟨rfl, fun _ => rfl, fun g hg => State.get_set_other _ _ (hf.2 g hg),
    fun b e => State.reg_setReg_other _ _ (fun hb => by rw [hb, hf.1] at e; cases e), List.prefix_refl _⟩

theorem Stores.flag {s u : State} (h : Stores s u) {f : Fld} (ha : storeFld f = true) : Stores s (u.flag f) := Stores.set h _ ha

theorem Stores.count {s u : State} (h : Stores s u) {f : Fld} (n : Nat) (ha : storeFld f = true) : Stores s (u.count f n) :=
  Stores.set h _ ha

theorem Stores.raise {s u : State} (h : Stores s u) (code source data : Nat) : Stores s (u.raise code source data) :=
  h.trans ⟨rfl, fun _ => rfl, fun _ _ => rfl, fun _ _ => rfl, List.prefix_append _ _⟩

theorem Stores.updAud {s u : State} (h : Stores s u) (f : AudState → AudState) : Stores s (u.updAud f) := Stores.frame h rfl rfl rfl rfl

theorem Stores.raiseIf {s u : State} (h : Stores s u) (c : Bool) (code : Nat) (source : Nat) (data : Nat) : Stores s (u.raiseIf c code source
    data) := by
  unfold State.raiseIf
  try dsimp only
  repeat' (first | with_reducible assumption | exact rfl | with_reducible apply Stores.raise | with_reducible apply Stores.ite)

theorem Stores.flagOnce {s u : State} (h : Stores s u) {f : Fld} (code source data : Nat) (ha : storeFld f = true) :
    Stores s (u.flagOnce f code source data) := Stores.flag (Stores.raiseIf h _ _ _ _) ha

theorem Stores.ringPut {s u : State} (h : Stores s u) (base size off : Nat) (bs : List Byte) : Stores s (u.ringPut base size off bs) :=
  h.trans (Puts.ringPut (Puts.refl u) _ _ _ _).stores

theorem Stores.putRegion {s u : State} (h : Stores s u) (r : Region) (bs : List Byte) : Stores s (u.putRegion r bs) :=
  h.trans (Puts.putRegion (Puts.refl u) _ _).stores

theorem Stores.checkRegion {s u : State} (h : Stores s u) (r : Region) (n : Nat) : Stores s (u.checkRegion r n) :=
  h.trans (Puts.checkRegion (Puts.refl u) _ _).stores

theorem Stores.audMakeRoom {s u : State} (h : Stores s u) (fuel n : Nat) : Stores s (State.audMakeRoom fuel u n) := by
  induction fuel generalizing u with
  | zero => exact h
  | succ fuel ih =>
    unfold State.audMakeRoom
    exact Stores.ite h (ih (Stores.updAud (Stores.flag (Stores.set h _ rfl) rfl) _))

theorem Stores.audHead {s u : State} (h : Stores s u) : Stores s (u.audHead) := by
  unfold State.audHead
  try dsimp only
  repeat' (first | with_reducible assumption | exact rfl | with_reducible apply Stores.set)

theorem storeFld_chain : ∀ {k : Nat}, k < 12 → storeFld (AUD_CHAIN k) = true := by decide

theorem Stores.audPut {s u : State} (h : Stores s u) (r : AudRec) : Stores s (u.audPut r) := by
  unfold State.audPut
  try dsimp only
  repeat' (first | with_reducible assumption | exact rfl | with_reducible apply Stores.audMakeRoom | with_reducible apply Stores.ringPut |
      with_reducible apply Stores.set | with_reducible apply Stores.updAud | with_reducible apply Stores.ite |
      with_reducible refine Stores.foldlMem ?_ (fun _ k hk _ => Stores.set ?_ _ (storeFld_chain (List.mem_range.mp hk))))

theorem Stores.audEnter {s u : State} (h : Stores s u) (r : AudRec) : Stores s (u.audEnter r) := by
  unfold State.audEnter
  try dsimp only
  repeat' (first | with_reducible assumption | exact rfl | with_reducible apply Stores.audHead | with_reducible apply Stores.audPut |
      with_reducible apply Stores.flagOnce | with_reducible apply Stores.updAud | with_reducible apply Stores.count |
      with_reducible apply Stores.ite)

theorem Stores.checkpoint {s u : State} (h : Stores s u) (origin : Nat) : Stores s (u.checkpoint origin) := by
  unfold State.checkpoint
  try dsimp only
  repeat' (first | with_reducible assumption | exact rfl | with_reducible apply Stores.flag | with_reducible apply Stores.audEnter)

theorem Stores.autoCheckpoint {s u : State} (h : Stores s u) : Stores s (u.autoCheckpoint) := by
  unfold State.autoCheckpoint
  try dsimp only
  repeat' (first | with_reducible assumption | exact rfl | with_reducible apply Stores.checkpoint | with_reducible apply Stores.ite)

theorem Stores.audit {s u : State} (h : Stores s u) (kind : Nat) (o : Origin) (addr : Nat) (old : Nat) (new : Nat) (data : Nat) : Stores s
    (u.audit kind o addr old new data) := by
  unfold State.audit
  try dsimp only
  repeat' (first | with_reducible assumption | exact rfl | with_reducible apply Stores.autoCheckpoint | with_reducible apply Stores.audEnter)

theorem Stores.audRelease {s u : State} (h : Stores s u) (fuel : Nat) : Stores s (State.audRelease fuel u) := by
  induction fuel generalizing u with
  | zero => exact h
  | succ fuel ih =>
    unfold State.audRelease
    refine Stores.ite (Stores.ite (ih (Stores.updAud (Stores.audHead (Stores.audPut h _)) _)) h) ?_
    split
    · exact h
    · exact Stores.ite (ih (Stores.autoCheckpoint (Stores.updAud (Stores.audHead (Stores.audPut h _)) _))) h

theorem Stores.audDrain {s u : State} (h : Stores s u) : Stores s (u.audDrain) := by
  unfold State.audDrain
  try dsimp only
  repeat' (first | with_reducible assumption | exact rfl | with_reducible apply Stores.audRelease)

theorem Stores.auditChange {s u : State} (h : Stores s u) (o : Origin) (a : Nat) (d : RegDesc) (old : Word) (new : Word) : Stores s
    (u.auditChange o a d old new) := by
  unfold State.auditChange
  try dsimp only
  repeat' (first | with_reducible assumption | exact rfl | with_reducible apply Stores.audit | with_reducible apply Stores.ite)

theorem Stores.auditRefused {s u : State} (h : Stores s u) (o : Origin) (a : Nat) (d : RegDesc) (v : Word) : Stores s (u.auditRefused o a d v)
    := by
  unfold State.auditRefused
  try dsimp only
  repeat' (first | with_reducible assumption | exact rfl | with_reducible apply Stores.audit | with_reducible apply Stores.ite)

/-! What stays. -/

theorem Stores.pending {s t : State} (h : Stores s t) : t.pending = s.pending :=
  show t.rest.pending = s.rest.pending by rw [h.rest]
theorem Stores.now {s t : State} (h : Stores s t) : t.now = s.now :=
  show t.rest.now = s.rest.now by rw [h.rest]
theorem Stores.locks {s t : State} (h : Stores s t) : t.locks = s.locks :=
  show t.rest.locks = s.rest.locks by rw [h.rest]
theorem Stores.lows {s t : State} (h : Stores s t) : t.lows = s.lows :=
  show t.rest.lows = s.rest.lows by rw [h.rest]
theorem Stores.latches {s t : State} (h : Stores s t) : t.latches = s.latches :=
  show t.rest.latches = s.rest.latches by rw [h.rest]
theorem Stores.out {s t : State} (h : Stores s t) : t.out = s.out :=
  show t.rest.out = s.rest.out by rw [h.rest]
theorem Stores.fresh {s t : State} (h : Stores s t) : t.fresh = s.fresh :=
  show t.rest.fresh = s.rest.fresh by rw [h.rest]
theorem Stores.pins {s t : State} (h : Stores s t) : t.pins = s.pins :=
  show t.rest.pins = s.rest.pins by rw [h.rest]
theorem Stores.tb {s t : State} (h : Stores s t) : t.tb = s.tb :=
  show t.rest.tb = s.rest.tb by rw [h.rest]
theorem Stores.sec {s t : State} (h : Stores s t) : t.sec = s.sec :=
  show t.rest.sec = s.rest.sec by rw [h.rest]
theorem Stores.nv {s t : State} (h : Stores s t) : t.nv = s.nv :=
  show t.rest.nv = s.rest.nv by rw [h.rest]
theorem Stores.pwr {s t : State} (h : Stores s t) : t.pwr = s.pwr :=
  show t.rest.pwr = s.rest.pwr by rw [h.rest]
theorem Stores.iat {s t : State} (h : Stores s t) : t.iat = s.iat :=
  show t.rest.iat = s.rest.iat by rw [h.rest]
theorem Stores.cal {s t : State} (h : Stores s t) : t.cal = s.cal :=
  show t.rest.cal = s.rest.cal by rw [h.rest]
theorem Stores.red {s t : State} (h : Stores s t) : t.red = s.red :=
  show t.rest.red = s.rest.red by rw [h.rest]
theorem Stores.xe {s t : State} (h : Stores s t) : t.xe = s.xe :=
  show t.rest.xe = s.rest.xe by rw [h.rest]
theorem Stores.svc {s t : State} (h : Stores s t) : t.svc = s.svc :=
  show t.rest.svc = s.rest.svc by rw [h.rest]
theorem Stores.drc {s t : State} (h : Stores s t) : t.drc = s.drc :=
  show t.rest.drc = s.rest.drc by rw [h.rest]
theorem Stores.dma {s t : State} (h : Stores s t) : t.dma = s.dma :=
  show t.rest.dma = s.rest.dma by rw [h.rest]
theorem Stores.host {s t : State} (h : Stores s t) : t.host = s.host :=
  show t.rest.host = s.rest.host by rw [h.rest]
theorem Stores.boot {s t : State} (h : Stores s t) : t.boot = s.boot :=
  show t.rest.boot = s.rest.boot by rw [h.rest]

theorem Stores.tick {s t : State} (h : Stores s t) : t.tick = s.tick := by
  simp only [State.tick, State.tickAt, State.merAt, h.now, h.tb]
theorem Stores.same {s t : State} (h : Stores s t) : sameRest s t := ⟨h.rest, h.marks⟩
theorem Stores.pin {s t : State} (h : Stores s t) (p : Nat) : t.pin p = s.pin p := by simp only [State.pin, h.pins]
theorem Stores.get {s t : State} (h : Stores s t) {f : Fld} (hf : storeReg f.addr = false) : t.get f = s.get f := by
  simp only [State.get, h.reg _ hf]
theorem Stores.bit {s t : State} (h : Stores s t) {f : Fld} (hf : storeReg f.addr = false) : t.bit f = s.bit f := by
  simp only [State.bit, h.get hf]

/-- An audit record changes nothing but what a record can change. -/
theorem State.audit_stores (s : State) (kind : Nat) (o : Origin) (addr old new data : Nat) :
    Stores s (s.audit kind o addr old new data) := Stores.audit (Stores.refl s) _ _ _ _ _ _

/-- Bytes put in memory change nothing but what a write to memory can change. -/
theorem State.putRegion_stores (s : State) (r : Region) (bs : List Byte) : Stores s (s.putRegion r bs) :=
  Stores.putRegion (Stores.refl s) _ _

/-- A plain register write leaves the word its fields make of it, among those that no record changes, and no other of them. -/
theorem State.regWrite_reg (s : State) (o : Origin) (a : Nat) (v : Word) (d : RegDesc) (hd : lookupReg a = some d) (b : Nat)
    (hb : storeReg b = false) : (s.regWrite o a v).reg b = if b = a then d.store (s.lockOf o a) (s.reg a) v else s.reg b := by
  unfold State.regWrite
  rw [hd]
  simp only
  rw [(Stores.auditRefused (Stores.auditChange (Stores.refl _) _ _ _ _ _) _ _ _ _).reg b hb]
  by_cases e : b = a
  · subst e; simp
  · rw [State.reg_setReg_other _ _ e, if_neg e]

theorem State.regWrite_none (s : State) (o : Origin) (a : Nat) (v : Word) (hd : lookupReg a = none) : s.regWrite o a v = s := by
  simp [State.regWrite, hd]

theorem Stores.same_setReg {s t : State} {a : Nat} {w : Word} (h : Stores (s.setReg a w) t) : sameRest s t := ⟨h.rest, h.marks⟩

/-- A plain register write of another register leaves the busy bits of SYS_ARCH_STATUS. -/
theorem State.regWrite_busy (s : State) (o : Origin) (a : Nat) (v : Word) {f : Fld} (hf : f ∈ mapBusy) (ha : f.addr ≠ a) :
    (s.regWrite o a v).get f = s.get f := by
  unfold State.regWrite
  split
  · rfl
  · simp only
    rw [(Stores.auditRefused (Stores.auditChange (Stores.refl _) _ _ _ _ _) _ _ _ _).busy f hf, State.get, State.reg_setReg_other _ _ ha]
    rfl

/-- A plain register write changes nothing of the state but the registers and what a record can change. -/
theorem State.regWrite_rest (s : State) (o : Origin) (a : Nat) (v : Word) : sameRest s (s.regWrite o a v) := by
  unfold State.regWrite
  split
  · exact ⟨rfl, fun _ => rfl⟩
  · exact Stores.same_setReg (Stores.auditRefused (Stores.auditChange (Stores.refl _) _ _ _ _ _) _ _ _ _)

end Sys2Proof.Machine
end

