-- ==== Sys2Proof/Laws/Audit.lean ====
section
/-! SUPPORT. What an audit record does to the audit log where it fits the ring (R534, R537 to R539), and what a field set with its record is. -/
namespace Sys2Proof.Machine

variable (s : State)

/-- No room is made where a record fits. -/
theorem State.audMakeRoom_fits (fuel n : Nat) (h : n ≤ s.audSize - s.aud.used) : State.audMakeRoom fuel s n = s := by
  cases fuel with
  | zero => rfl
  | succ k => rw [State.audMakeRoom, if_pos h]

/-- A record that fits the free bytes of the ring: the chain, the write position and the counts advance by it, and a checkpoint waits for its
signature. -/
theorem State.audPut_aud (r : AudRec) (h : r.len ≤ s.audSize - s.aud.used) :
    (s.audPut r).aud.hold = s.aud.hold ∧ (s.audPut r).aud.lossOwed = s.aud.lossOwed ∧
      (s.audPut r).aud.wpos = (s.aud.wpos + r.len) % s.audSize ∧ (s.audPut r).aud.used = s.aud.used + r.len ∧
      (s.audPut r).aud.ckptCount = (if r.kind = 0x10 then 0 else s.aud.ckptCount + 1) ∧
      (s.audPut r).aud.signing.length = s.aud.signing.length + (if r.kind = 0x10 then 1 else 0) := by
  have e := State.audMakeRoom_fits s 6 r.len h
  unfold State.audPut
  simp only [e, State.updAud_aud]
  rw [State.foldl_set_rest]
  simp only [State.set_aud, (Puts.ringPut (Puts.refl s) _ _ _ _).aud]
  by_cases k : r.kind = 0x10 <;> simp [k]

/-- AUD_SEQ advances by one record. -/
theorem State.audPut_seq (r : AudRec) (h : r.len ≤ s.audSize - s.aud.used) : (s.audPut r).get AUD_SEQ = (s.get AUD_SEQ + 1) % 2 ^ 32 := by
  have e := State.audMakeRoom_fits s 6 r.len h
  unfold State.audPut
  simp only [e, State.updAud_get]
  rw [State.get_foldl_set _ (fun k hk => ?_), State.get_set_self _ _ rfl]
  · simp [AUD_SEQ]
  · simp only [List.mem_range] at hk
    interval_cases k <;> rfl

/-- With nothing held, a record that fits goes to the ring. -/
theorem State.audEnter_fits (r : AudRec) (hh : s.aud.hold = []) (hf : s.audFits r.len = true) : s.audEnter r = (s.audPut r).audHead := by
  unfold State.audEnter
  simp [hh, hf]

theorem State.audFits_of (n : Nat) (ho : s.audOpen = true) (hr : n ≤ s.audSize - s.aud.used) : s.audFits n = true := by
  simp [State.audFits, ho, hr]

/-- With nothing held and nothing lost, there is nothing to release. -/
theorem State.audDrain_idle (hh : s.aud.hold = []) (hl : s.aud.lossOwed = 0) : s.audDrain = s := by
  unfold State.audDrain State.audRelease
  simp [hh, hl]

/-- A field of a listed register that the device sets with its audit record: beside the field, no more than a record changes (R6). -/
theorem State.setCfg_stores {f : Fld} (v : Nat) (h : (lookupReg f.addr).isSome = true) : Stores (s.set f v) (s.setCfg f v) := by
  obtain ⟨d, hd⟩ := Option.isSome_iff_exists.mp h
  rw [State.setCfg, hd]
  exact Stores.auditChange (Stores.refl _) _ _ _ _ _

theorem State.get_setCfg_self {f : Fld} (v : Nat) (h : (lookupReg f.addr).isSome = true) (hf : f.fits = true)
    (ha : storeReg f.addr = false) : (s.setCfg f v).get f = v % 2 ^ f.len := by
  rw [State.get, (s.setCfg_stores v h).reg _ ha]; exact State.get_set_self s v hf

theorem State.get_setCfg_other {f g : Fld} (v : Nat) (h : (lookupReg f.addr).isSome = true) (hg : f.apart g = true)
    (ha : storeReg g.addr = false) : (s.setCfg f v).get g = s.get g := by
  rw [State.get, (s.setCfg_stores v h).reg _ ha]; exact State.get_set_other s v hg

theorem State.reg_setCfg_other {f : Fld} {a : Nat} (v : Nat) (h : (lookupReg f.addr).isSome = true) (hn : a ≠ f.addr)
    (ha : storeReg a = false) : (s.setCfg f v).reg a = s.reg a := by
  rw [(s.setCfg_stores v h).reg _ ha, State.reg_set_other s v hn]

end Sys2Proof.Machine
end

