-- ==== Sys2Proof/Laws/Keeps.lean ====
section
/-! SUPPORT. What every operation of the model keeps, whatever command it serves: the queue, the direction of time, the canonical form of
the tables, what has left the device, the counts of the key store, and the locks until a reset. -/
namespace Sys2Proof.Machine

/-- The counts of the key store do not fall, and stay 32 bits wide. -/
def KeyStore.le (a b : KeyStore) : Prop :=
  a.sound = true → b.sound = true ∧ a.bootCount ≤ b.bootCount ∧ a.tamperCount ≤ b.tamperCount ∧ a.keysMade ≤ b.keysMade

/-- What holds between a state and one that operations of the model make of it. -/
structure Keeps (s t : State) : Prop where
  pending : t.pending = s.pending
  now : s.now ≤ t.now
  fresh : s.fresh ≤ t.fresh
  out : s.out <+: t.out
  canon : s.canon = true → t.canon = true
  nv : s.nv.le t.nv

theorem KeyStore.le_refl (a : KeyStore) : a.le a := fun h => ⟨h, Nat.le_refl _, Nat.le_refl _, Nat.le_refl _⟩

theorem KeyStore.le_trans {a b c : KeyStore} (h : a.le b) (g : b.le c) : a.le c := fun s =>
  have x := h s
  have y := g x.1
  ⟨y.1, Nat.le_trans x.2.1 y.2.1, Nat.le_trans x.2.2.1 y.2.2.1, Nat.le_trans x.2.2.2 y.2.2.2⟩

theorem Keeps.refl (s : State) : Keeps s s := ⟨rfl, Nat.le_refl _, Nat.le_refl _, List.prefix_refl _, id, KeyStore.le_refl _⟩

theorem Keeps.trans {s t u : State} (h : Keeps s t) (g : Keeps t u) : Keeps s u :=
  ⟨g.pending.trans h.pending, Nat.le_trans h.now g.now, Nat.le_trans h.fresh g.fresh, h.out.trans g.out, g.canon ∘ h.canon,
    KeyStore.le_trans h.nv g.nv⟩

/-- A change of fields that `Keeps` does not speak of. -/
theorem Keeps.frame {s u t : State} (h : Keeps s u) (hp : t.pending = u.pending) (hn : t.now = u.now) (hf : t.fresh = u.fresh) (ho : t.out = u.out)
    (hm : t.mem = u.mem) (hd : t.dram = u.dram) (hr : t.regs = u.regs) (hpi : t.pins = u.pins) (hs : t.sites = u.sites)
    (hv : t.nv = u.nv) : Keeps s t := by
  refine h.trans ⟨hp, by omega, by omega, by rw [ho], ?_, by rw [hv]; exact KeyStore.le_refl _⟩
  intro hc
  simpa [State.canon, State.memWf, State.regsWf, hm, hd, hr, hpi, hs] using hc

theorem State.canon_iff (s : State) : s.canon = true ↔
    Sparse.wf memDefault s.mem = true ∧ Sparse.wf memDefault s.dram = true ∧ Sparse.wf resetWord s.regs = true ∧
      Sparse.wf (fun _ => Pin.reset) s.pins = true ∧ Sparse.wf (fun _ => Site.reset) s.sites = true := by
  simp [State.canon, State.memWf, State.regsWf, Memory.wf, and_assoc]

/-- A change of tables that keeps their form. -/
theorem Keeps.tables {s u t : State} (h : Keeps s u) (hp : t.pending = u.pending) (hn : t.now = u.now) (hf : t.fresh = u.fresh) (ho : t.out = u.out)
    (hv : t.nv = u.nv)
    (hm : Sparse.wf memDefault u.mem = true → Sparse.wf memDefault t.mem = true)
    (hd : Sparse.wf memDefault u.dram = true → Sparse.wf memDefault t.dram = true)
    (hr : Sparse.wf resetWord u.regs = true → Sparse.wf resetWord t.regs = true)
    (hpi : Sparse.wf (fun _ => Pin.reset) u.pins = true → Sparse.wf (fun _ => Pin.reset) t.pins = true)
    (hs : Sparse.wf (fun _ => Site.reset) u.sites = true → Sparse.wf (fun _ => Site.reset) t.sites = true) :
    Keeps s t := by
  refine h.trans ⟨hp, by omega, by omega, by rw [ho], ?_, by rw [hv]; exact KeyStore.le_refl _⟩
  rw [State.canon_iff, State.canon_iff]
  exact fun c => ⟨hm c.1, hd c.2.1, hr c.2.2.1, hpi c.2.2.2.1, hs c.2.2.2.2⟩

theorem Keeps.ite {s a b : State} {c : Prop} [Decidable c] (ha : Keeps s a) (hb : Keeps s b) : Keeps s (if c then a else b) := by
  split <;> assumption

theorem Keeps.foldl {β : Type} {s u : State} {l : List β} {f : State → β → State} (hu : Keeps s u)
    (hf : ∀ v x, Keeps s v → Keeps s (f v x)) : Keeps s (l.foldl f u) := by
  induction l generalizing u with
  | nil => exact hu
  | cons x l ih => exact ih (hf u x hu)

theorem Keeps.foldl1 {β γ : Type} {s : State} {u : State × γ} {l : List β} {f : State × γ → β → State × γ} (hu : Keeps s u.1)
    (hf : ∀ v x, Keeps s v.1 → Keeps s (f v x).1) : Keeps s (l.foldl f u).1 := by
  induction l generalizing u with
  | nil => exact hu
  | cons x l ih => exact ih (hf u x hu)

theorem Keeps.ite1 {γ : Type} {s : State} {a b : State × γ} {c : Prop} [Decidable c] (ha : Keeps s a.1) (hb : Keeps s b.1) :
    Keeps s (if c then a else b).1 := by
  split <;> assumption

theorem Keeps.pair {γ : Type} {s a : State} {b : γ} {p : State × γ} (e : p = (a, b)) (h : Keeps s p.1) : Keeps s a := by
  subst e; exact h

theorem Keeps.updNv {s u : State} (h : Keeps s u) (f : KeyStore → KeyStore) (hf : u.nv.le (f u.nv)) : Keeps s (u.updNv f) :=
  h.trans ⟨rfl, Nat.le_refl _, Nat.le_refl _, List.prefix_refl _, id, hf⟩

/-- `Keeps` for a result that may be absent. -/
def KeepsO (s : State) (o : Option State) : Prop := ∀ t, o = some t → Keeps s t

/-- `Keeps` for a state with a value, both of which may be absent. -/
def KeepsOP {γ : Type} (s : State) (o : Option (State × γ)) : Prop := ∀ p, o = some p → Keeps s p.1

theorem KeepsO.none {s : State} : KeepsO s Option.none := fun _ h => nomatch h

theorem KeepsO.some {s t : State} (h : Keeps s t) : KeepsO s (Option.some t) := fun _ e => Option.some.inj e ▸ h

theorem KeepsO.ite {s : State} {a b : Option State} {c : Prop} [Decidable c] (ha : KeepsO s a) (hb : KeepsO s b) :
    KeepsO s (if c then a else b) := by
  split <;> assumption

theorem KeepsO.get {s t : State} {o : Option State} (h : KeepsO s o) (e : o = Option.some t) : Keeps s t := h t e

theorem KeepsO.getD {s a : State} {o : Option State} (ho : KeepsO s o) (ha : Keeps s a) : Keeps s (o.getD a) := by
  cases o with
  | none => exact ha
  | some t => exact ho t rfl

theorem KeepsO.bind {s : State} {o : Option State} {f : State → Option State} (ho : KeepsO s o)
    (hf : ∀ u, Keeps s u → KeepsO s (f u)) : KeepsO s (o.bind f) := by
  cases o with
  | none => exact KeepsO.none
  | some u => exact hf u (ho u rfl)

theorem KeepsO.map {s : State} {o : Option State} {f : State → State} (ho : KeepsO s o)
    (hf : ∀ u, Keeps s u → Keeps s (f u)) : KeepsO s (o.map f) := by
  cases o with
  | none => exact KeepsO.none
  | some u => exact KeepsO.some (hf u (ho u rfl))

theorem KeepsO.ofMap {γ : Type} {s : State} {o : Option (State × γ)} {f : State × γ → State} (ho : KeepsOP s o)
    (hf : ∀ p, Keeps s p.1 → Keeps s (f p)) : KeepsO s (o.map f) := by
  cases o with
  | none => exact KeepsO.none
  | some p => exact KeepsO.some (hf p (ho p rfl))

theorem KeepsO.foldl {β : Type} {s : State} {l : List β} {f : Option State → β → Option State} {o : Option State} (ho : KeepsO s o)
    (hf : ∀ v x, KeepsO s v → KeepsO s (f v x)) : KeepsO s (l.foldl f o) := by
  induction l generalizing o with
  | nil => exact ho
  | cons x l ih => exact ih (hf o x ho)

theorem KeepsOP.none {γ : Type} {s : State} : KeepsOP s (Option.none : Option (State × γ)) := fun _ h => nomatch h

theorem KeepsOP.some {γ : Type} {s : State} {p : State × γ} (h : Keeps s p.1) : KeepsOP s (Option.some p) :=
  fun _ e => Option.some.inj e ▸ h

theorem KeepsOP.ite {γ : Type} {s : State} {a b : Option (State × γ)} {c : Prop} [Decidable c] (ha : KeepsOP s a) (hb : KeepsOP s b) :
    KeepsOP s (if c then a else b) := by
  split <;> assumption

theorem KeepsOP.get {γ : Type} {s t : State} {g : γ} {o : Option (State × γ)} (h : KeepsOP s o) (e : o = Option.some (t, g)) :
    Keeps s t := h _ e

theorem KeepsOP.get1 {γ : Type} {s : State} {p : State × γ} {o : Option (State × γ)} (h : KeepsOP s o) (e : o = Option.some p) :
    Keeps s p.1 := h _ e

theorem KeepsOP.map {γ δ : Type} {s : State} {o : Option (State × γ)} {f : State × γ → State × δ} (ho : KeepsOP s o)
    (hf : ∀ p, Keeps s p.1 → Keeps s (f p).1) : KeepsOP s (o.map f) := by
  cases o with
  | none => exact KeepsOP.none
  | some p => exact KeepsOP.some (hf p (ho p rfl))

theorem KeepsOP.bind {γ δ : Type} {s : State} {o : Option (State × γ)} {f : State × γ → Option (State × δ)} (ho : KeepsOP s o)
    (hf : ∀ p, Keeps s p.1 → KeepsOP s (f p)) : KeepsOP s (o.bind f) := by
  cases o with
  | none => exact KeepsOP.none
  | some p => exact hf p (ho p rfl)

theorem Keeps.setReg {s u : State} (h : Keeps s u) (a : Nat) (w : Word) : Keeps s (u.setReg a w) :=
  Keeps.tables h rfl rfl rfl rfl rfl id id (Sparse.wf_set _ _) id id

theorem Keeps.setPin {s u : State} (h : Keeps s u) (p : Nat) (v : Pin) : Keeps s (u.setPin p v) :=
  Keeps.tables h rfl rfl rfl rfl rfl id id id (Sparse.wf_set _ _) id

theorem Keeps.setSite {s u : State} (h : Keeps s u) (i : Nat) (v : Site) : Keeps s (u.setSite i v) :=
  Keeps.tables h rfl rfl rfl rfl rfl id id id id (Sparse.wf_set _ _)

theorem Keeps.eraseRegs {s u : State} (h : Keeps s u) (lo n : Nat) : Keeps s (u.eraseRegs lo n) :=
  Keeps.tables h rfl rfl rfl rfl rfl id id (Sparse.wf_eraseRange _ _) id id

theorem Keeps.dramWrite {s u : State} (h : Keeps s u) (x : Nat) (bs : List Byte) : Keeps s (u.dramWrite x bs) :=
  Keeps.tables h rfl rfl rfl rfl rfl id (Sparse.wf_setMany _ _) id id id

theorem Keeps.at_ {s u : State} (h : Keeps s u) (x : Nat) : Keeps s (u.at_ x) :=
  h.trans ⟨rfl, Nat.le_max_left _ _, Nat.le_refl _, List.prefix_refl _, id, KeyStore.le_refl _⟩

theorem Keeps.emit {s u : State} (h : Keeps s u) (o : Out) : Keeps s (u.emit o) :=
  h.trans ⟨rfl, Nat.le_refl _, Nat.le_refl _, List.prefix_append _ _, id, KeyStore.le_refl _⟩

theorem Keeps.tickFresh {s u : State} (h : Keeps s u) : Keeps s u.tickFresh :=
  h.trans ⟨rfl, Nat.le_refl _, Nat.le_succ _, List.prefix_refl _, id, KeyStore.le_refl _⟩

theorem Keeps.skipFresh {s u : State} (h : Keeps s u) (n : Nat) : Keeps s (u.skipFresh n) :=
  h.trans ⟨rfl, Nat.le_refl _, Nat.le_add_right _ _, List.prefix_refl _, id, KeyStore.le_refl _⟩

theorem Keeps.ocmPut {s u : State} (h : Keeps s u) (x : Nat) (b : Byte) : Keeps s (u.ocmPut x b) := by
  refine Keeps.tables h rfl rfl rfl rfl rfl ?_ id id id id
  intro hm
  unfold State.ocmPut
  simp only
  split
  · exact Sparse.wf_set _ _ hm
  · exact Sparse.wf_set _ _ (Sparse.wf_set _ _ hm)

end Sys2Proof.Machine
end

