-- ==== Sys2Proof/Laws/KeepsOps.lean ====
section
/-! SUPPORT. `Keeps` of every operation: what the named operations keep. -/
namespace Sys2Proof.Machine

/-! Ops. -/

theorem Keeps.set {s u : State} (h : Keeps s u) (f : Fld) (v : Nat) : Keeps s (u.set f v) := by
  unfold State.set
  try dsimp only
  repeat' (first | with_reducible assumption | with_reducible apply Keeps.setReg)

theorem Keeps.flag {s u : State} (h : Keeps s u) (f : Fld) : Keeps s (u.flag f) := by
  unfold State.flag
  try dsimp only
  repeat' (first | with_reducible assumption | with_reducible apply Keeps.set)

theorem Keeps.flagIf {s u : State} (h : Keeps s u) (c : Bool) (f : Fld) : Keeps s (u.flagIf c f) := by
  unfold State.flagIf
  try dsimp only
  repeat' (first | with_reducible assumption | with_reducible apply Keeps.flag | with_reducible apply Keeps.ite)

theorem Keeps.count {s u : State} (h : Keeps s u) (f : Fld) (n : Nat) : Keeps s (u.count f n) := by
  unfold State.count
  try dsimp only
  repeat' (first | with_reducible assumption | with_reducible apply Keeps.set)

theorem Keeps.set64 {s u : State} (h : Keeps s u) (lo : Fld) (hi : Fld) (v : Nat) : Keeps s (u.set64 lo hi v) := by
  unfold State.set64
  try dsimp only
  repeat' (first | with_reducible assumption | with_reducible apply Keeps.set)

theorem Keeps.updTb {s u : State} (h : Keeps s u) (f : TbState → TbState) : Keeps s (u.updTb f) := by
  unfold State.updTb
  try dsimp only
  repeat' (first | with_reducible assumption | with_reducible apply Keeps.ite | with_reducible refine Keeps.foldl ?_ (fun _ _ _ => ?_) |
      with_reducible refine Keeps.foldl1 ?_ (fun _ _ _ => ?_) | with_reducible apply Keeps.ite1 | intro _ | split |
      with_reducible exact Keeps.frame h rfl rfl rfl rfl rfl rfl rfl rfl rfl rfl)

theorem Keeps.updMem {s u : State} (h : Keeps s u) (f : MemState → MemState) : Keeps s (u.updMem f) := by
  unfold State.updMem
  try dsimp only
  repeat' (first | with_reducible assumption | with_reducible apply Keeps.ite | with_reducible refine Keeps.foldl ?_ (fun _ _ _ => ?_) |
      with_reducible refine Keeps.foldl1 ?_ (fun _ _ _ => ?_) | with_reducible apply Keeps.ite1 | intro _ | split |
      with_reducible exact Keeps.frame h rfl rfl rfl rfl rfl rfl rfl rfl rfl rfl)

theorem Keeps.updAud {s u : State} (h : Keeps s u) (f : AudState → AudState) : Keeps s (u.updAud f) := by
  unfold State.updAud
  try dsimp only
  repeat' (first | with_reducible assumption | with_reducible apply Keeps.ite | with_reducible refine Keeps.foldl ?_ (fun _ _ _ => ?_) |
      with_reducible refine Keeps.foldl1 ?_ (fun _ _ _ => ?_) | with_reducible apply Keeps.ite1 | intro _ | split |
      with_reducible exact Keeps.frame h rfl rfl rfl rfl rfl rfl rfl rfl rfl rfl)

theorem Keeps.updSec {s u : State} (h : Keeps s u) (f : SecState → SecState) : Keeps s (u.updSec f) := by
  unfold State.updSec
  try dsimp only
  repeat' (first | with_reducible assumption | with_reducible apply Keeps.ite | with_reducible refine Keeps.foldl ?_ (fun _ _ _ => ?_) |
      with_reducible refine Keeps.foldl1 ?_ (fun _ _ _ => ?_) | with_reducible apply Keeps.ite1 | intro _ | split |
      with_reducible exact Keeps.frame h rfl rfl rfl rfl rfl rfl rfl rfl rfl rfl)

theorem Keeps.updPwr {s u : State} (h : Keeps s u) (f : PwrState → PwrState) : Keeps s (u.updPwr f) := by
  unfold State.updPwr
  try dsimp only
  repeat' (first | with_reducible assumption | with_reducible apply Keeps.ite | with_reducible refine Keeps.foldl ?_ (fun _ _ _ => ?_) |
      with_reducible refine Keeps.foldl1 ?_ (fun _ _ _ => ?_) | with_reducible apply Keeps.ite1 | intro _ | split |
      with_reducible exact Keeps.frame h rfl rfl rfl rfl rfl rfl rfl rfl rfl rfl)

theorem Keeps.updIat {s u : State} (h : Keeps s u) (f : IatState → IatState) : Keeps s (u.updIat f) := by
  unfold State.updIat
  try dsimp only
  repeat' (first | with_reducible assumption | with_reducible apply Keeps.ite | with_reducible refine Keeps.foldl ?_ (fun _ _ _ => ?_) |
      with_reducible refine Keeps.foldl1 ?_ (fun _ _ _ => ?_) | with_reducible apply Keeps.ite1 | intro _ | split |
      with_reducible exact Keeps.frame h rfl rfl rfl rfl rfl rfl rfl rfl rfl rfl)

theorem Keeps.updCal {s u : State} (h : Keeps s u) (f : CalState → CalState) : Keeps s (u.updCal f) := by
  unfold State.updCal
  try dsimp only
  repeat' (first | with_reducible assumption | with_reducible apply Keeps.ite | with_reducible refine Keeps.foldl ?_ (fun _ _ _ => ?_) |
      with_reducible refine Keeps.foldl1 ?_ (fun _ _ _ => ?_) | with_reducible apply Keeps.ite1 | intro _ | split |
      with_reducible exact Keeps.frame h rfl rfl rfl rfl rfl rfl rfl rfl rfl rfl)

theorem Keeps.updRed {s u : State} (h : Keeps s u) (f : RedState → RedState) : Keeps s (u.updRed f) := by
  unfold State.updRed
  try dsimp only
  repeat' (first | with_reducible assumption | with_reducible apply Keeps.ite | with_reducible refine Keeps.foldl ?_ (fun _ _ _ => ?_) |
      with_reducible refine Keeps.foldl1 ?_ (fun _ _ _ => ?_) | with_reducible apply Keeps.ite1 | intro _ | split |
      with_reducible exact Keeps.frame h rfl rfl rfl rfl rfl rfl rfl rfl rfl rfl)

theorem Keeps.updXe {s u : State} (h : Keeps s u) (f : XeState → XeState) : Keeps s (u.updXe f) := by
  unfold State.updXe
  try dsimp only
  repeat' (first | with_reducible assumption | with_reducible apply Keeps.ite | with_reducible refine Keeps.foldl ?_ (fun _ _ _ => ?_) |
      with_reducible refine Keeps.foldl1 ?_ (fun _ _ _ => ?_) | with_reducible apply Keeps.ite1 | intro _ | split |
      with_reducible exact Keeps.frame h rfl rfl rfl rfl rfl rfl rfl rfl rfl rfl)

theorem Keeps.updSvc {s u : State} (h : Keeps s u) (f : SvcState → SvcState) : Keeps s (u.updSvc f) := by
  unfold State.updSvc
  try dsimp only
  repeat' (first | with_reducible assumption | with_reducible apply Keeps.ite | with_reducible refine Keeps.foldl ?_ (fun _ _ _ => ?_) |
      with_reducible refine Keeps.foldl1 ?_ (fun _ _ _ => ?_) | with_reducible apply Keeps.ite1 | intro _ | split |
      with_reducible exact Keeps.frame h rfl rfl rfl rfl rfl rfl rfl rfl rfl rfl)

theorem Keeps.updDrc {s u : State} (h : Keeps s u) (f : DrcState → DrcState) : Keeps s (u.updDrc f) := by
  unfold State.updDrc
  try dsimp only
  repeat' (first | with_reducible assumption | with_reducible apply Keeps.ite | with_reducible refine Keeps.foldl ?_ (fun _ _ _ => ?_) |
      with_reducible refine Keeps.foldl1 ?_ (fun _ _ _ => ?_) | with_reducible apply Keeps.ite1 | intro _ | split |
      with_reducible exact Keeps.frame h rfl rfl rfl rfl rfl rfl rfl rfl rfl rfl)

theorem Keeps.updDma {s u : State} (h : Keeps s u) (f : DmaState → DmaState) : Keeps s (u.updDma f) := by
  unfold State.updDma
  try dsimp only
  repeat' (first | with_reducible assumption | with_reducible apply Keeps.ite | with_reducible refine Keeps.foldl ?_ (fun _ _ _ => ?_) |
      with_reducible refine Keeps.foldl1 ?_ (fun _ _ _ => ?_) | with_reducible apply Keeps.ite1 | intro _ | split |
      with_reducible exact Keeps.frame h rfl rfl rfl rfl rfl rfl rfl rfl rfl rfl)

theorem Keeps.updHost {s u : State} (h : Keeps s u) (f : HostState → HostState) : Keeps s (u.updHost f) := by
  unfold State.updHost
  try dsimp only
  repeat' (first | with_reducible assumption | with_reducible apply Keeps.ite | with_reducible refine Keeps.foldl ?_ (fun _ _ _ => ?_) |
      with_reducible refine Keeps.foldl1 ?_ (fun _ _ _ => ?_) | with_reducible apply Keeps.ite1 | intro _ | split |
      with_reducible exact Keeps.frame h rfl rfl rfl rfl rfl rfl rfl rfl rfl rfl)

theorem Keeps.updBoot {s u : State} (h : Keeps s u) (f : BootState → BootState) : Keeps s (u.updBoot f) := by
  unfold State.updBoot
  try dsimp only
  repeat' (first | with_reducible assumption | with_reducible apply Keeps.ite | with_reducible refine Keeps.foldl ?_ (fun _ _ _ => ?_) |
      with_reducible refine Keeps.foldl1 ?_ (fun _ _ _ => ?_) | with_reducible apply Keeps.ite1 | intro _ | split |
      with_reducible exact Keeps.frame h rfl rfl rfl rfl rfl rfl rfl rfl rfl rfl)

theorem Keeps.updPin {s u : State} (h : Keeps s u) (p : Nat) (f : Pin → Pin) : Keeps s (u.updPin p f) := by
  unfold State.updPin
  try dsimp only
  repeat' (first | with_reducible assumption | with_reducible apply Keeps.setPin)

theorem Keeps.updSite {s u : State} (h : Keeps s u) (i : Nat) (f : Site → Site) : Keeps s (u.updSite i f) := by
  unfold State.updSite
  try dsimp only
  repeat' (first | with_reducible assumption | with_reducible apply Keeps.setSite)

theorem Keeps.updBurst {s u : State} (h : Keeps s u) (i : Nat) (f : BurstState → BurstState) : Keeps s (u.updBurst i f) := by
  unfold State.updBurst
  try dsimp only
  repeat' (first | with_reducible assumption | with_reducible apply Keeps.updSite)

theorem Keeps.updSpec {s u : State} (h : Keeps s u) (i : Nat) (f : SpecState → SpecState) : Keeps s (u.updSpec i f) := by
  unfold State.updSpec
  try dsimp only
  repeat' (first | with_reducible assumption | with_reducible apply Keeps.updSite)

theorem Keeps.updStr {s u : State} (h : Keeps s u) (i : Nat) (f : StreamState → StreamState) : Keeps s (u.updStr i f) := by
  unfold State.updStr
  try dsimp only
  repeat' (first | with_reducible assumption | with_reducible apply Keeps.updSite)

theorem Keeps.updCap {s u : State} (h : Keeps s u) (i : Nat) (f : CaptureState → CaptureState) : Keeps s (u.updCap i f) := by
  unfold State.updCap
  try dsimp only
  repeat' (first | with_reducible assumption | with_reducible apply Keeps.updSite)

theorem Keeps.setSiteSt {s u : State} (h : Keeps s u) (i : Nat) (v : Nat) : Keeps s (u.setSiteSt i v) := by
  unfold State.setSiteSt
  try dsimp only
  repeat' (first | with_reducible assumption | with_reducible apply Keeps.set)

theorem Keeps.raise {s u : State} (h : Keeps s u) (code : Nat) (source : Nat) (data : Nat) : Keeps s (u.raise code source data) := by
  unfold State.raise
  try dsimp only
  repeat' (first | with_reducible assumption | with_reducible apply Keeps.ite | with_reducible refine Keeps.foldl ?_ (fun _ _ _ => ?_) |
      with_reducible refine Keeps.foldl1 ?_ (fun _ _ _ => ?_) | with_reducible apply Keeps.ite1 | intro _ | split |
      with_reducible exact Keeps.frame h rfl rfl rfl rfl rfl rfl rfl rfl rfl rfl)

theorem Keeps.raiseIf {s u : State} (h : Keeps s u) (c : Bool) (code : Nat) (source : Nat) (data : Nat) : Keeps s (u.raiseIf c code source
    data) := by
  unfold State.raiseIf
  try dsimp only
  repeat' (first | with_reducible assumption | with_reducible apply Keeps.raise | with_reducible apply Keeps.ite)

theorem Keeps.flagOnce {s u : State} (h : Keeps s u) (f : Fld) (code : Nat) (source : Nat) (data : Nat) : Keeps s (u.flagOnce f code source
    data) := by
  unfold State.flagOnce
  try dsimp only
  repeat' (first | with_reducible assumption | with_reducible apply Keeps.flag | with_reducible apply Keeps.raiseIf)

theorem Keeps.ocmWrite {s u : State} (h : Keeps s u) (x : Nat) (l : List Byte) : Keeps s (u.ocmWrite x l) := by
  induction l generalizing u x with
  | nil => exact h
  | cons b l ih => exact ih (Keeps.ocmPut h x b) (x + 1)

theorem Keeps.ocmClean {s u : State} (h : Keeps s u) (a0 : Nat) : Keeps s (u.ocmClean a0) := by
  unfold State.ocmClean
  try dsimp only
  repeat' (first | with_reducible assumption | with_reducible apply Keeps.ite | with_reducible refine Keeps.foldl ?_ (fun _ _ _ => ?_) |
      with_reducible refine Keeps.foldl1 ?_ (fun _ _ _ => ?_) | with_reducible apply Keeps.ite1 | intro _ | split |
      with_reducible exact Keeps.frame h rfl rfl rfl rfl rfl rfl rfl rfl rfl rfl)

theorem Keeps.dramClean {s u : State} (h : Keeps s u) (a0 : Nat) : Keeps s (u.dramClean a0) := by
  unfold State.dramClean
  try dsimp only
  repeat' (first | with_reducible assumption | with_reducible apply Keeps.ite | with_reducible refine Keeps.foldl ?_ (fun _ _ _ => ?_) |
      with_reducible refine Keeps.foldl1 ?_ (fun _ _ _ => ?_) | with_reducible apply Keeps.ite1 | intro _ | split |
      with_reducible exact Keeps.frame h rfl rfl rfl rfl rfl rfl rfl rfl rfl rfl)

theorem Keeps.ocmCe {s u : State} (h : Keeps s u) (a0 : Nat) : Keeps s (u.ocmCe a0) := by
  unfold State.ocmCe
  try dsimp only
  repeat' (first | with_reducible assumption | with_reducible apply Keeps.flagOnce | with_reducible apply Keeps.count)

theorem Keeps.spareCount {s u : State} (h : Keeps s u) : Keeps s (u.spareCount) := by
  unfold State.spareCount
  try dsimp only
  repeat' (first | with_reducible assumption | with_reducible apply Keeps.set)

theorem Keeps.spareWait {s u : State} (h : Keeps s u) (b : Nat) : Keeps s (u.spareWait b) := by
  unfold State.spareWait
  try dsimp only
  repeat' (first | with_reducible assumption | with_reducible apply Keeps.updMem | with_reducible apply Keeps.flag)

theorem Keeps.copyStart {s u : State} (h : Keeps s u) (b : Nat) (spare : Nat) (repair : Bool) : Keeps s (u.copyStart b spare repair) := by
  unfold State.copyStart
  try dsimp only
  repeat' (first | with_reducible assumption | with_reducible apply Keeps.spareCount | with_reducible apply Keeps.updMem)

theorem Keeps.repairStart {s u : State} (h : Keeps s u) (b : Nat) : Keeps s (u.repairStart b) := by
  unfold State.repairStart
  try dsimp only
  repeat' (first | with_reducible assumption | with_reducible apply Keeps.copyStart | with_reducible apply Keeps.spareWait |
      with_reducible apply Keeps.updMem | with_reducible apply Keeps.ite | with_reducible refine Keeps.foldl ?_ (fun _ _ _ => ?_) |
      with_reducible refine Keeps.foldl1 ?_ (fun _ _ _ => ?_) | with_reducible apply Keeps.ite1 | intro _ | split)

theorem Keeps.ocmUe {s u : State} (h : Keeps s u) (a0 : Nat) : Keeps s (u.ocmUe a0) := by
  unfold State.ocmUe
  try dsimp only
  repeat' (first | with_reducible assumption | with_reducible apply Keeps.count | with_reducible apply Keeps.flag |
      with_reducible apply Keeps.set | with_reducible apply Keeps.raise | with_reducible apply Keeps.repairStart |
      with_reducible apply Keeps.ite)

theorem Keeps.dramCe {s u : State} (h : Keeps s u) (a0 : Nat) : Keeps s (u.dramCe a0) := by
  unfold State.dramCe
  try dsimp only
  repeat' (first | with_reducible assumption | with_reducible apply Keeps.flagOnce | with_reducible apply Keeps.count)

theorem Keeps.dramUeHit {s u : State} (h : Keeps s u) (a0 : Nat) : Keeps s (u.dramUeHit a0) := by
  unfold State.dramUeHit
  try dsimp only
  repeat' (first | with_reducible assumption | with_reducible apply Keeps.count | with_reducible apply Keeps.flag |
      with_reducible apply Keeps.set64 | with_reducible apply Keeps.raise | with_reducible apply Keeps.ite)

theorem Keeps.ocmCheck {s u : State} (h : Keeps s u) (a0 : Nat) (n : Nat) : Keeps s (u.ocmCheck a0 n) := by
  unfold State.ocmCheck
  try dsimp only
  repeat' (first | with_reducible assumption | with_reducible apply Keeps.ocmUe | with_reducible apply Keeps.ite |
      with_reducible refine Keeps.foldl ?_ (fun _ _ _ => ?_))

theorem Keeps.dramCheck {s u : State} (h : Keeps s u) (a0 : Nat) (n : Nat) : Keeps s (u.dramCheck a0 n) := by
  unfold State.dramCheck
  try dsimp only
  repeat' (first | with_reducible assumption | with_reducible apply Keeps.dramUeHit | with_reducible apply Keeps.ite |
      with_reducible refine Keeps.foldl ?_ (fun _ _ _ => ?_))

theorem Keeps.ocmUpset {s u : State} (h : Keeps s u) (e : Ecc) (a1 : Nat) : Keeps s (u.ocmUpset e a1) := by
  unfold State.ocmUpset
  try dsimp only
  repeat' (first | with_reducible assumption | with_reducible apply Keeps.ocmCe | with_reducible apply Keeps.ite |
      with_reducible refine Keeps.foldl ?_ (fun _ _ _ => ?_) | with_reducible refine Keeps.foldl1 ?_ (fun _ _ _ => ?_) |
      with_reducible apply Keeps.ite1 | intro _ | split | with_reducible exact Keeps.frame h rfl rfl rfl rfl rfl rfl rfl rfl rfl rfl)

theorem Keeps.dramUpset {s u : State} (h : Keeps s u) (e : Ecc) (a1 : Nat) : Keeps s (u.dramUpset e a1) := by
  unfold State.dramUpset
  try dsimp only
  repeat' (first | with_reducible assumption | with_reducible apply Keeps.dramCe | with_reducible apply Keeps.ite |
      with_reducible refine Keeps.foldl ?_ (fun _ _ _ => ?_) | with_reducible refine Keeps.foldl1 ?_ (fun _ _ _ => ?_) |
      with_reducible apply Keeps.ite1 | intro _ | split | with_reducible exact Keeps.frame h rfl rfl rfl rfl rfl rfl rfl rfl rfl rfl)

theorem Keeps.ocmPutPart {s u : State} (h : Keeps s u) (p : Nat × List Byte) : Keeps s (u.ocmPutPart p) := by
  unfold State.ocmPutPart
  try dsimp only
  repeat' (first | with_reducible assumption | with_reducible apply Keeps.ocmClean | with_reducible apply Keeps.ocmWrite |
      with_reducible apply Keeps.flag | with_reducible apply Keeps.ocmUe | with_reducible apply Keeps.ite)

theorem Keeps.portBPut {s u : State} (h : Keeps s u) (a0 : Nat) (bs : List Byte) : Keeps s (u.portBPut a0 bs) := by
  unfold State.portBPut
  try dsimp only
  repeat' (first | with_reducible assumption | with_reducible apply Keeps.ocmPutPart | with_reducible apply Keeps.ite |
      with_reducible refine Keeps.foldl ?_ (fun _ _ _ => ?_))

theorem Keeps.dramPutPart {s u : State} (h : Keeps s u) (p : Nat × List Byte) : Keeps s (u.dramPutPart p) := by
  unfold State.dramPutPart
  try dsimp only
  repeat' (first | with_reducible assumption | with_reducible apply Keeps.dramClean | with_reducible apply Keeps.dramWrite |
      with_reducible apply Keeps.flag | with_reducible apply Keeps.count | with_reducible apply Keeps.ite)

theorem Keeps.dramPut {s u : State} (h : Keeps s u) (a0 : Nat) (bs : List Byte) : Keeps s (u.dramPut a0 bs) := by
  unfold State.dramPut
  try dsimp only
  repeat' (first | with_reducible assumption | with_reducible apply Keeps.dramPutPart | with_reducible apply Keeps.ite |
      with_reducible refine Keeps.foldl ?_ (fun _ _ _ => ?_))

theorem Keeps.offAccess {s u : State} (h : Keeps s u) (r : Region) : Keeps s (u.offAccess r) := by
  unfold State.offAccess
  try dsimp only
  repeat' (first | with_reducible assumption | with_reducible apply Keeps.flag | with_reducible apply Keeps.ite |
      with_reducible refine Keeps.foldl ?_ (fun _ _ _ => ?_) | with_reducible refine Keeps.foldl1 ?_ (fun _ _ _ => ?_) |
      with_reducible apply Keeps.ite1 | intro _ | split)

theorem Keeps.unmapped {s u : State} (h : Keeps s u) (addr : Nat) : Keeps s (u.unmapped addr) := by
  unfold State.unmapped
  try dsimp only
  repeat' (first | with_reducible assumption | with_reducible apply Keeps.flag | with_reducible apply Keeps.set64 |
      with_reducible apply Keeps.ite)

theorem Keeps.checkRegion {s u : State} (h : Keeps s u) (r : Region) (n : Nat) : Keeps s (u.checkRegion r n) := by
  unfold State.checkRegion
  try dsimp only
  repeat' (first | with_reducible assumption | with_reducible apply Keeps.offAccess | with_reducible apply Keeps.ocmCheck |
      with_reducible apply Keeps.dramCheck | with_reducible apply Keeps.unmapped | with_reducible apply Keeps.ite |
      with_reducible refine Keeps.foldl ?_ (fun _ _ _ => ?_) | with_reducible refine Keeps.foldl1 ?_ (fun _ _ _ => ?_) |
      with_reducible apply Keeps.ite1 | intro _ | split)

theorem Keeps.checkTable {s u : State} (h : Keeps s u) (addr : Nat) (n : Nat) : Keeps s (u.checkTable addr n) := by
  unfold State.checkTable
  try dsimp only
  repeat' (first | with_reducible assumption | with_reducible apply Keeps.checkRegion | with_reducible apply Keeps.ite)

/-! Uses. -/

theorem Keeps.markUndef {s u : State} (h : Keeps s u) (i : Nat) : Keeps s (u.markUndef i) := by
  unfold State.markUndef
  try dsimp only
  repeat' (first | with_reducible assumption | with_reducible apply Keeps.updSite | with_reducible apply Keeps.updBurst |
      with_reducible apply Keeps.ite)

theorem Keeps.touch {s u : State} (h : Keeps s u) (addr : Nat) (n : Nat) : Keeps s (u.touch addr n) := by
  unfold State.touch
  try dsimp only
  repeat' (first | with_reducible assumption | with_reducible apply Keeps.markUndef | with_reducible apply Keeps.ite |
      with_reducible refine Keeps.foldl ?_ (fun _ _ _ => ?_))

theorem Keeps.dramAsk {s u : State} (h : Keeps s u) (kind : DrcKind) (r : Region) (n : Nat) : Keeps s (u.dramAsk kind r n) := by
  unfold State.dramAsk
  try dsimp only
  repeat' (first | with_reducible assumption | with_reducible apply Keeps.updDrc | with_reducible apply Keeps.ite |
      with_reducible refine Keeps.foldl ?_ (fun _ _ _ => ?_) | with_reducible refine Keeps.foldl1 ?_ (fun _ _ _ => ?_) |
      with_reducible apply Keeps.ite1 | intro _ | split)

theorem Keeps.storeRegion {s u : State} (h : Keeps s u) (r : Region) (bs : List Byte) : Keeps s (u.storeRegion r bs) := by
  unfold State.storeRegion
  try dsimp only
  repeat' (first | with_reducible assumption | with_reducible apply Keeps.offAccess | with_reducible apply Keeps.updMem |
      with_reducible apply Keeps.portBPut | with_reducible apply Keeps.dramPut | with_reducible apply Keeps.unmapped |
      with_reducible apply Keeps.ite | with_reducible refine Keeps.foldl ?_ (fun _ _ _ => ?_) |
      with_reducible refine Keeps.foldl1 ?_ (fun _ _ _ => ?_) | with_reducible apply Keeps.ite1 | intro _ | split)

theorem Keeps.storeLate {s u : State} (h : Keeps s u) : Keeps s (u.storeLate) := by
  unfold State.storeLate
  try dsimp only
  repeat' (first | with_reducible assumption | with_reducible apply Keeps.storeRegion | with_reducible apply Keeps.updMem |
      with_reducible apply Keeps.ite | with_reducible refine Keeps.foldl ?_ (fun _ _ _ => ?_))

theorem Keeps.putRegion {s u : State} (h : Keeps s u) (r : Region) (bs : List Byte) : Keeps s (u.putRegion r bs) := by
  unfold State.putRegion
  try dsimp only
  repeat' (first | with_reducible assumption | with_reducible apply Keeps.storeRegion | with_reducible apply Keeps.touch)

theorem Keeps.ringPut {s u : State} (h : Keeps s u) (base : Nat) (size : Nat) (off : Nat) (bs : List Byte) : Keeps s (u.ringPut base size
    off bs) := by
  unfold State.ringPut
  try dsimp only
  repeat' (first | with_reducible assumption | with_reducible apply Keeps.putRegion | with_reducible apply Keeps.ite)

theorem Keeps.portAFill {s u : State} (h : Keeps s u) (base : Nat) (size : Nat) (off : Nat) (bs : List Byte) : Keeps s (u.portAFill base
    size off bs) := by
  unfold State.portAFill
  try dsimp only
  repeat' (first | with_reducible assumption | with_reducible apply Keeps.storeRegion | with_reducible apply Keeps.ite)

theorem Keeps.captPut {s u : State} (h : Keeps s u) (base : Nat) (size : Nat) (off : Nat) (bs : List Byte) : Keeps s (u.captPut base size
    off bs) := by
  unfold State.captPut
  try dsimp only
  repeat' (first | with_reducible assumption | with_reducible apply Keeps.dramAsk | with_reducible apply Keeps.ringPut |
      with_reducible apply Keeps.ite)

/-! Audit. -/

theorem Keeps.audMakeRoom {s u : State} (h : Keeps s u) (fuel n : Nat) : Keeps s (State.audMakeRoom fuel u n) := by
  induction fuel generalizing u with
  | zero => exact h
  | succ fuel ih =>
    unfold State.audMakeRoom
    exact Keeps.ite h (ih (Keeps.updAud (Keeps.flag (Keeps.set h _ _) _) _))

theorem Keeps.audHead {s u : State} (h : Keeps s u) : Keeps s (u.audHead) := by
  unfold State.audHead
  try dsimp only
  repeat' (first | with_reducible assumption | with_reducible apply Keeps.set)

theorem Keeps.audPut {s u : State} (h : Keeps s u) (r : AudRec) : Keeps s (u.audPut r) := by
  unfold State.audPut
  try dsimp only
  repeat' (first | with_reducible assumption | with_reducible apply Keeps.audMakeRoom | with_reducible apply Keeps.ringPut |
      with_reducible apply Keeps.set | with_reducible apply Keeps.updAud | with_reducible apply Keeps.ite |
      with_reducible refine Keeps.foldl ?_ (fun _ _ _ => ?_))

theorem Keeps.audEnter {s u : State} (h : Keeps s u) (r : AudRec) : Keeps s (u.audEnter r) := by
  unfold State.audEnter
  try dsimp only
  repeat' (first | with_reducible assumption | with_reducible apply Keeps.audHead | with_reducible apply Keeps.audPut |
      with_reducible apply Keeps.flagOnce | with_reducible apply Keeps.updAud | with_reducible apply Keeps.count |
      with_reducible apply Keeps.ite)

theorem Keeps.checkpoint {s u : State} (h : Keeps s u) (origin : Nat) : Keeps s (u.checkpoint origin) := by
  unfold State.checkpoint
  try dsimp only
  repeat' (first | with_reducible assumption | with_reducible apply Keeps.flag | with_reducible apply Keeps.audEnter)

theorem Keeps.autoCheckpoint {s u : State} (h : Keeps s u) : Keeps s (u.autoCheckpoint) := by
  unfold State.autoCheckpoint
  try dsimp only
  repeat' (first | with_reducible assumption | with_reducible apply Keeps.checkpoint | with_reducible apply Keeps.ite)

theorem Keeps.audit {s u : State} (h : Keeps s u) (kind : Nat) (o : Origin) (addr : Nat) (old : Nat) (new : Nat) (data : Nat) : Keeps s
    (u.audit kind o addr old new data) := by
  unfold State.audit
  try dsimp only
  repeat' (first | with_reducible assumption | with_reducible apply Keeps.autoCheckpoint | with_reducible apply Keeps.audEnter)

theorem Keeps.audRelease {s u : State} (h : Keeps s u) (fuel : Nat) : Keeps s (State.audRelease fuel u) := by
  induction fuel generalizing u with
  | zero => exact h
  | succ fuel ih =>
    unfold State.audRelease
    refine Keeps.ite (Keeps.ite (ih (Keeps.updAud (Keeps.audHead (Keeps.audPut h _)) _)) h) ?_
    split
    · exact h
    · exact Keeps.ite (ih (Keeps.autoCheckpoint (Keeps.updAud (Keeps.audHead (Keeps.audPut h _)) _))) h

theorem Keeps.audDrain {s u : State} (h : Keeps s u) : Keeps s (u.audDrain) := by
  unfold State.audDrain
  try dsimp only
  repeat' (first | with_reducible assumption | with_reducible apply Keeps.audRelease)

theorem Keeps.auditChange {s u : State} (h : Keeps s u) (o : Origin) (a : Nat) (d : RegDesc) (old : Word) (new : Word) : Keeps s
    (u.auditChange o a d old new) := by
  unfold State.auditChange
  try dsimp only
  repeat' (first | with_reducible assumption | with_reducible apply Keeps.audit | with_reducible apply Keeps.ite)

theorem Keeps.auditRefused {s u : State} (h : Keeps s u) (o : Origin) (a : Nat) (d : RegDesc) (v : Word) : Keeps s (u.auditRefused o a d v)
    := by
  unfold State.auditRefused
  try dsimp only
  repeat' (first | with_reducible assumption | with_reducible apply Keeps.audit | with_reducible apply Keeps.ite)

theorem Keeps.regWrite {s u : State} (h : Keeps s u) (o : Origin) (a : Nat) (v : Word) : Keeps s (u.regWrite o a v) := by
  unfold State.regWrite
  try dsimp only
  repeat' (first | with_reducible assumption | with_reducible apply Keeps.auditRefused | with_reducible apply Keeps.auditChange |
      with_reducible apply Keeps.setReg | with_reducible apply Keeps.ite | with_reducible refine Keeps.foldl ?_ (fun _ _ _ => ?_) |
      with_reducible refine Keeps.foldl1 ?_ (fun _ _ _ => ?_) | with_reducible apply Keeps.ite1 | intro _ | split)

theorem Keeps.setCfg {s u : State} (h : Keeps s u) (f : Fld) (v : Nat) : Keeps s (u.setCfg f v) := by
  unfold State.setCfg
  try dsimp only
  repeat' (first | with_reducible assumption | with_reducible apply Keeps.auditChange | with_reducible apply Keeps.set |
      with_reducible apply Keeps.ite | with_reducible refine Keeps.foldl ?_ (fun _ _ _ => ?_) |
      with_reducible refine Keeps.foldl1 ?_ (fun _ _ _ => ?_) | with_reducible apply Keeps.ite1 | intro _ | split)

theorem Keeps.regWrite64 {s u : State} (h : Keeps s u) (o : Origin) (a : Nat) (lo : Word) (hi : Word) : Keeps s (u.regWrite64 o a lo hi) :=
    by
  unfold State.regWrite64
  try dsimp only
  repeat' (first | with_reducible assumption | with_reducible apply Keeps.regWrite)

theorem Keeps.dropLow {s u : State} (h : Keeps s u) (o : Origin) (a : Nat) : Keeps s (u.dropLow o a) := by
  unfold State.dropLow
  try dsimp only
  repeat' (first | with_reducible assumption | with_reducible apply Keeps.ite | with_reducible refine Keeps.foldl ?_ (fun _ _ _ => ?_) |
      with_reducible refine Keeps.foldl1 ?_ (fun _ _ _ => ?_) | with_reducible apply Keeps.ite1 | intro _ | split |
      with_reducible exact Keeps.frame h rfl rfl rfl rfl rfl rfl rfl rfl rfl rfl)

theorem Keeps.holdLow {s u : State} (h : Keeps s u) (o : Origin) (a : Nat) (v : Word) : Keeps s (u.holdLow o a v) := by
  unfold State.holdLow
  try dsimp only
  repeat' (first | with_reducible assumption | with_reducible apply Keeps.dropLow | with_reducible apply Keeps.ite |
      with_reducible refine Keeps.foldl ?_ (fun _ _ _ => ?_) | with_reducible refine Keeps.foldl1 ?_ (fun _ _ _ => ?_) |
      with_reducible apply Keeps.ite1 | intro _ | split | with_reducible exact Keeps.frame h rfl rfl rfl rfl rfl rfl rfl rfl rfl rfl)

theorem Keeps.pairWrite {s u : State} (h : Keeps s u) (o : Origin) (a : Nat) (high : Bool) (v : Word) (f : State → Word → Word → State)
    (hf : ∀ t lo hi, Keeps s t → Keeps s (f t lo hi)) : Keeps s (u.pairWrite o a high v f) := by
  unfold State.pairWrite
  exact Keeps.ite (hf _ _ _ (Keeps.dropLow h _ _)) (Keeps.holdLow h _ _ _)

theorem Keeps.regWriteQuiet {s u : State} (h : Keeps s u) (o : Origin) (a : Nat) (v : Word) : Keeps s (u.regWriteQuiet o a v) := by
  unfold State.regWriteQuiet
  try dsimp only
  repeat' (first | with_reducible assumption | with_reducible apply Keeps.setReg | with_reducible apply Keeps.ite |
      with_reducible refine Keeps.foldl ?_ (fun _ _ _ => ?_) | with_reducible refine Keeps.foldl1 ?_ (fun _ _ _ => ?_) |
      with_reducible apply Keeps.ite1 | intro _ | split)

end Sys2Proof.Machine
end

