-- ==== Sys2Proof/Laws/KeepsPins.lean ====
section
/-! SUPPORT. `Keeps` of every operation: what the operations of pins, segments, links, flows, bursts, the reduction engine, interval measurement, capture, commit and the stream engine keep. -/
namespace Sys2Proof.Machine

/-! PinOps. -/

theorem Keeps.clampSatNote {s u : State} (h : Keeps s u) (h0 : Nat) : Keeps s (u.clampSatNote h0) := by
  unfold State.clampSatNote
  try dsimp only
  repeat' (first | with_reducible assumption | with_reducible apply Keeps.flag | with_reducible apply Keeps.ite |
      with_reducible refine Keeps.foldl ?_ (fun _ _ _ => ?_))

theorem Keeps.driveAs {s u : State} (h : Keeps s u) (p : Nat) (pos : Nat) (d : Drive) (code : Option Nat) (last : Option (Nat × Nat)) :
    Keeps s (u.driveAs p pos d code last) := by
  unfold State.driveAs
  try dsimp only
  repeat' (first | with_reducible assumption | with_reducible apply Keeps.updPin | with_reducible apply Keeps.emit |
      with_reducible apply Keeps.flagIf | with_reducible apply Keeps.ite | with_reducible refine Keeps.foldl ?_ (fun _ _ _ => ?_) |
      with_reducible refine Keeps.foldl1 ?_ (fun _ _ _ => ?_) | with_reducible apply Keeps.ite1 | intro _ | split)

theorem Keeps.driveChange {s u : State} (h : Keeps s u) (p : Nat) (pos : Nat) (d : Drive) : Keeps s (u.driveChange p pos d) := by
  unfold State.driveChange
  try dsimp only
  repeat' (first | with_reducible assumption | with_reducible apply Keeps.driveAs)

theorem Keeps.closeCluster {s u : State} (h : Keeps s u) (p : Nat) : Keeps s (u.closeCluster p) := by
  unfold State.closeCluster
  try dsimp only
  repeat' (first | with_reducible assumption | with_reducible apply Keeps.updPin | with_reducible apply Keeps.driveAs |
      with_reducible apply Keeps.ite | with_reducible refine Keeps.foldl ?_ (fun _ _ _ => ?_) |
      with_reducible refine Keeps.foldl1 ?_ (fun _ _ _ => ?_) | with_reducible apply Keeps.ite1 | intro _ | split)

theorem Keeps.closeDue {s u : State} (h : Keeps s u) (p : Nat) (t : Nat) : Keeps s (u.closeDue p t) := by
  unfold State.closeDue
  try dsimp only
  repeat' (first | with_reducible assumption | with_reducible apply Keeps.closeCluster | with_reducible apply Keeps.ite |
      with_reducible refine Keeps.foldl ?_ (fun _ _ _ => ?_) | with_reducible refine Keeps.foldl1 ?_ (fun _ _ _ => ?_) |
      with_reducible apply Keeps.ite1 | intro _ | split)

theorem Keeps.openCluster {s u : State} (h : Keeps s u) (p : Nat) (t : Nat) (d : Drive) : Keeps s (u.openCluster p t d) := by
  unfold State.openCluster
  try dsimp only
  repeat' (first | with_reducible assumption | with_reducible apply Keeps.updPin)

theorem Keeps.clusterStep {s u : State} (h : Keeps s u) (p : Nat) (t : Nat) (d : Drive) : Keeps s (u.clusterStep p t d) := by
  unfold State.clusterStep
  try dsimp only
  repeat' (first | with_reducible assumption | with_reducible apply Keeps.updPin | with_reducible apply Keeps.count |
      with_reducible apply Keeps.flag | with_reducible apply Keeps.closeCluster | with_reducible apply Keeps.openCluster |
      with_reducible apply Keeps.ite | with_reducible refine Keeps.foldl ?_ (fun _ _ _ => ?_) |
      with_reducible refine Keeps.foldl1 ?_ (fun _ _ _ => ?_) | with_reducible apply Keeps.ite1 | intro _ | split)

theorem Keeps.driveNext {s u : State} (h : Keeps s u) (p : Nat) : Keeps s (u.driveNext p) := by
  unfold State.driveNext
  try dsimp only
  repeat' (first | with_reducible assumption | with_reducible apply Keeps.updPin | with_reducible apply Keeps.clusterStep |
      with_reducible apply Keeps.skipFresh | with_reducible apply Keeps.ite | with_reducible refine Keeps.foldl ?_ (fun _ _ _ => ?_) |
      with_reducible refine Keeps.foldl1 ?_ (fun _ _ _ => ?_) | with_reducible apply Keeps.ite1 | intro _ | split)

theorem Keeps.idleDriven {s u : State} (h : Keeps s u) (p : Nat) (t : Nat) (d : Drive) : Keeps s (u.idleDriven p t d) := by
  unfold State.idleDriven
  try dsimp only
  repeat' (first | with_reducible assumption | with_reducible apply Keeps.updPin | with_reducible apply Keeps.driveChange)

theorem Keeps.idleChange {s u : State} (h : Keeps s u) (p : Nat) (t : Nat) : Keeps s (u.idleChange p t) := by
  unfold State.idleChange
  try dsimp only
  repeat' (first | with_reducible assumption | with_reducible apply Keeps.closeCluster | with_reducible apply Keeps.idleDriven |
      with_reducible apply Keeps.ite)

theorem Keeps.applyIdle {s u : State} (h : Keeps s u) (p : Nat) (t : Nat) : Keeps s (u.applyIdle p t) := by
  unfold State.applyIdle
  try dsimp only
  repeat' (first | with_reducible assumption | with_reducible apply Keeps.updPin | with_reducible apply Keeps.idleChange |
      with_reducible apply Keeps.ite)

theorem Keeps.placeEdge {s u : State} (h : Keeps s u) (p : Nat) (c : Nat) (period : Nat) (ts : Nat) (vec : Nat) (e : Nat × DriveAct) : Keeps
    s (u.placeEdge p c period ts vec e) := by
  unfold State.placeEdge
  try dsimp only
  repeat' (first | with_reducible assumption | with_reducible apply Keeps.updPin | with_reducible apply Keeps.flag |
      with_reducible apply Keeps.ite)

theorem Keeps.placeStrobe {s u : State} (h : Keeps s u) (p : Nat) (a1 : Strobe) : Keeps s (u.placeStrobe p a1) := by
  unfold State.placeStrobe
  try dsimp only
  repeat' (first | with_reducible assumption | with_reducible apply Keeps.flag | with_reducible apply Keeps.updPin |
      with_reducible apply Keeps.ite)

theorem Keeps.placeEdgeStrobe {s u : State} (h : Keeps s u) (p : Nat) (c : Nat) (period : Nat) (ts : Nat) (vec : Nat) (num : Nat) (code :
    Nat) : Keeps s (u.placeEdgeStrobe p c period ts vec num code).1 := by
  unfold State.placeEdgeStrobe
  try dsimp only
  repeat' (first | with_reducible assumption | with_reducible apply Keeps.placeStrobe | with_reducible apply Keeps.flag |
      with_reducible apply Keeps.ite | with_reducible refine Keeps.foldl ?_ (fun _ _ _ => ?_) |
      with_reducible refine Keeps.foldl1 ?_ (fun _ _ _ => ?_) | with_reducible apply Keeps.ite1 | intro _ | split)

theorem Keeps.placeStrobes {s u : State} (h : Keeps s u) (p : Nat) (c : Nat) (period : Nat) (ts : Nat) (vec : Nat) (w : Nat) : Keeps s
    (u.placeStrobes p c period ts vec w).1 := by
  unfold State.placeStrobes
  try dsimp only
  repeat' (first | with_reducible assumption | with_reducible apply Keeps.placeStrobe | with_reducible apply Keeps.updPin |
      with_reducible apply Keeps.flag | with_reducible apply Keeps.placeEdgeStrobe | with_reducible apply Keeps.ite |
      with_reducible refine Keeps.foldl ?_ (fun _ _ _ => ?_) | with_reducible refine Keeps.foldl1 ?_ (fun _ _ _ => ?_) |
      with_reducible apply Keeps.ite1 | intro _ | split)

theorem Keeps.placePin {s u : State} (h : Keeps s u) (p : Nat) (c : Nat) (period : Nat) (ts : Nat) (vec : Nat) (sym : Nat) (strobes : Bool)
    : Keeps s (u.placePin p c period ts vec sym strobes).1 := by
  unfold State.placePin
  try dsimp only
  repeat' (first | with_reducible assumption | with_reducible apply Keeps.flagIf | with_reducible apply Keeps.placeEdge |
      with_reducible apply Keeps.placeStrobes | with_reducible apply Keeps.ite | with_reducible refine Keeps.foldl ?_ (fun _ _ _ => ?_) |
      with_reducible refine Keeps.foldl1 ?_ (fun _ _ _ => ?_) | with_reducible apply Keeps.ite1)

theorem Keeps.clockToggle {s u : State} (h : Keeps s u) (p : Nat) (lim : Nat) : Keeps s (u.clockToggle p lim) := by
  unfold State.clockToggle
  try dsimp only
  repeat' (first | with_reducible assumption | with_reducible apply Keeps.tickFresh | with_reducible apply Keeps.at_ |
      with_reducible apply Keeps.updPin | with_reducible apply Keeps.closeCluster | with_reducible apply Keeps.driveChange |
      with_reducible apply Keeps.ite | with_reducible refine Keeps.foldl ?_ (fun _ _ _ => ?_) |
      with_reducible refine Keeps.foldl1 ?_ (fun _ _ _ => ?_) | with_reducible apply Keeps.ite1 | intro _ | split)

theorem Keeps.clockStart {s u : State} (h : Keeps s u) (p : Nat) (anchor : Nat) (t : Nat) (period : Nat) : Keeps s (u.clockStart p anchor t
    period) := by
  unfold State.clockStart
  try dsimp only
  repeat' (first | with_reducible assumption | with_reducible apply Keeps.updPin | with_reducible apply Keeps.idleDriven |
      with_reducible apply Keeps.closeCluster | with_reducible apply Keeps.ite)

theorem Keeps.clockStop {s u : State} (h : Keeps s u) (p : Nat) : Keeps s (u.clockStop p) := by
  unfold State.clockStop
  try dsimp only
  repeat' (first | with_reducible assumption | with_reducible apply Keeps.updPin)

theorem Keeps.levelDepth {s u : State} (h : Keeps s u) (p : Nat) : Keeps s (u.levelDepth p) := by
  unfold State.levelDepth
  try dsimp only
  repeat' (first | with_reducible assumption | with_reducible apply Keeps.set)

theorem Keeps.levelEnter {s u : State} (h : Keeps s u) (p : Nat) (l : Nat) (t : Nat) (cmd : Bool) : Keeps s (u.levelEnter p l t cmd) := by
  unfold State.levelEnter
  try dsimp only
  repeat' (first | with_reducible assumption | with_reducible apply Keeps.levelDepth | with_reducible apply Keeps.updPin |
      with_reducible apply Keeps.flag | with_reducible apply Keeps.raiseIf | with_reducible apply Keeps.ite)

theorem Keeps.setCodesOut {s u : State} (h : Keeps s u) (p : Nat) (c : List Nat) : Keeps s (u.setCodesOut p c) := by
  unfold State.setCodesOut
  try dsimp only
  repeat' (first | with_reducible assumption | with_reducible apply Keeps.set)

theorem Keeps.levelStep {s u : State} (h : Keeps s u) (p : Nat) (t : Nat) : Keeps s (u.levelStep p t) := by
  unfold State.levelStep
  try dsimp only
  repeat' (first | with_reducible assumption | with_reducible apply Keeps.levelDepth | with_reducible apply Keeps.updPin |
      with_reducible apply Keeps.setCodesOut | with_reducible apply Keeps.flagIf | with_reducible apply Keeps.set |
      with_reducible apply Keeps.ite | with_reducible refine Keeps.foldl ?_ (fun _ _ _ => ?_) |
      with_reducible refine Keeps.foldl1 ?_ (fun _ _ _ => ?_) | with_reducible apply Keeps.ite1 | intro _ | split)

theorem Keeps.clampSample {s u : State} (h : Keeps s u) (h0 : Nat) (t : Nat) : Keeps s (u.clampSample h0 t) := by
  unfold State.clampSample
  try dsimp only
  repeat' (first | with_reducible assumption | with_reducible apply Keeps.clampSatNote | with_reducible apply Keeps.updPin |
      with_reducible apply Keeps.raise | with_reducible apply Keeps.flag | with_reducible apply Keeps.ite |
      with_reducible refine Keeps.foldl ?_ (fun _ _ _ => ?_) | with_reducible refine Keeps.foldl1 ?_ (fun _ _ _ => ?_) |
      with_reducible apply Keeps.ite1 | intro _ | split)

theorem Keeps.corrTake {s u : State} (h : Keeps s u) (p : Nat) (t : Nat) : Keeps s (u.corrTake p t) := by
  unfold State.corrTake
  try dsimp only
  repeat' (first | with_reducible assumption | with_reducible apply Keeps.updPin | with_reducible apply Keeps.flagIf |
      with_reducible apply Keeps.clampSatNote | with_reducible apply Keeps.ite | with_reducible refine Keeps.foldl ?_ (fun _ _ _ => ?_) |
      with_reducible refine Keeps.foldl1 ?_ (fun _ _ _ => ?_) | with_reducible apply Keeps.ite1 | intro _ | split)

theorem Keeps.taint {s u : State} (h : Keeps s u) (i : Nat) (bit : Nat) : Keeps s (u.taint i bit) := by
  unfold State.taint
  try dsimp only
  repeat' (first | with_reducible assumption | with_reducible apply Keeps.updBurst | with_reducible apply Keeps.ite)

theorem Keeps.taintAll {s u : State} (h : Keeps s u) (bit : Nat) : Keeps s (u.taintAll bit) := by
  unfold State.taintAll
  try dsimp only
  repeat' (first | with_reducible assumption | with_reducible apply Keeps.taint | with_reducible apply Keeps.ite |
      with_reducible refine Keeps.foldl ?_ (fun _ _ _ => ?_))

theorem Keeps.taintPin {s u : State} (h : Keeps s u) (p : Nat) (bit : Nat) : Keeps s (u.taintPin p bit) := by
  unfold State.taintPin
  try dsimp only
  repeat' (first | with_reducible assumption | with_reducible apply Keeps.taint | with_reducible apply Keeps.ite |
      with_reducible refine Keeps.foldl ?_ (fun _ _ _ => ?_) | with_reducible refine Keeps.foldl1 ?_ (fun _ _ _ => ?_) |
      with_reducible apply Keeps.ite1 | intro _ | split)

theorem Keeps.tripNow {s u : State} (h : Keeps s u) (p : Nat) : Keeps s (u.tripNow p) := by
  unfold State.tripNow
  try dsimp only
  repeat' (first | with_reducible assumption | with_reducible apply Keeps.emit | with_reducible apply Keeps.updPin |
      with_reducible apply Keeps.flag | with_reducible apply Keeps.closeCluster | with_reducible apply Keeps.raise |
      with_reducible apply Keeps.taintPin | with_reducible apply Keeps.ite | with_reducible refine Keeps.foldl ?_ (fun _ _ _ => ?_) |
      with_reducible refine Keeps.foldl1 ?_ (fun _ _ _ => ?_) | with_reducible apply Keeps.ite1 | intro _ | split)

theorem Keeps.detect {s u : State} (h : Keeps s u) (p : Nat) (ov : Bool) (below : Bool) (oc : Bool) : Keeps s (u.detect p ov below oc) := by
  unfold State.detect
  try dsimp only
  repeat' (first | with_reducible assumption | with_reducible apply Keeps.updPin | with_reducible apply Keeps.ite)

theorem Keeps.reconnect {s u : State} (h : Keeps s u) (p : Nat) (t : Nat) : Keeps s (u.reconnect p t) := by
  unfold State.reconnect
  try dsimp only
  repeat' (first | with_reducible assumption | with_reducible apply Keeps.updPin | with_reducible apply Keeps.idleDriven |
      with_reducible apply Keeps.ite | with_reducible refine Keeps.foldl ?_ (fun _ _ _ => ?_) |
      with_reducible refine Keeps.foldl1 ?_ (fun _ _ _ => ?_) | with_reducible apply Keeps.ite1 | intro _ | split)

theorem Keeps.pinSample {s u : State} (h : Keeps s u) (t : Nat) (volts : List (Nat × Int)) (amps : List (Nat × Nat)) (p : Nat) : Keeps s
    (u.pinSample t volts amps p) := by
  unfold State.pinSample
  try dsimp only
  repeat' (first | with_reducible assumption | with_reducible apply Keeps.corrTake | with_reducible apply Keeps.reconnect |
      with_reducible apply Keeps.tripNow | with_reducible apply Keeps.closeDue | with_reducible apply Keeps.detect |
      with_reducible apply Keeps.levelStep | with_reducible apply Keeps.clampSample)

/-! Seg. -/

theorem Keeps.setSeg {s u : State} (h : Keeps s u) (i : Nat) (id : Nat) (g : Segment) : Keeps s (u.setSeg i id g) := by
  unfold State.setSeg
  try dsimp only
  repeat' (first | with_reducible assumption | with_reducible apply Keeps.updSite | with_reducible apply Keeps.storeRegion)

theorem Keeps.setSegState {s u : State} (h : Keeps s u) (i : Nat) (id : Nat) (st : SegState) : Keeps s (u.setSegState i id st) := by
  unfold State.setSegState
  try dsimp only
  repeat' (first | with_reducible assumption | with_reducible apply Keeps.setSeg)

theorem Keeps.segResult {s u : State} (h : Keeps s u) (i : Nat) (id : Nat) (result : Nat) : Keeps s (u.segResult i id result) := by
  unfold State.segResult
  try dsimp only
  repeat' (first | with_reducible assumption | with_reducible apply Keeps.set | with_reducible apply Keeps.raiseIf)

theorem Keeps.segPublish {s u : State} (h : Keeps s u) (i : Nat) (id : Nat) (e : Ecc) : Keeps s (u.segPublish i id e) := by
  unfold State.segPublish
  try dsimp only
  repeat' (first | with_reducible assumption | with_reducible apply Keeps.segResult | with_reducible apply Keeps.ocmUpset |
      with_reducible apply Keeps.checkRegion | with_reducible apply Keeps.setSeg | with_reducible apply Keeps.ite |
      with_reducible refine Keeps.foldl ?_ (fun _ _ _ => ?_) | with_reducible refine Keeps.foldl1 ?_ (fun _ _ _ => ?_) |
      with_reducible apply Keeps.ite1 | intro _ | split)

theorem Keeps.segUnpublish {s u : State} (h : Keeps s u) (i : Nat) (id : Nat) : Keeps s (u.segUnpublish i id) := by
  unfold State.segUnpublish
  try dsimp only
  repeat' (first | with_reducible assumption | with_reducible apply Keeps.segResult | with_reducible apply Keeps.setSegState |
      with_reducible apply Keeps.ite | with_reducible refine Keeps.foldl ?_ (fun _ _ _ => ?_) |
      with_reducible refine Keeps.foldl1 ?_ (fun _ _ _ => ?_) | with_reducible apply Keeps.ite1 | intro _ | split)

theorem Keeps.activate {s u : State} (h : Keeps s u) (i : Nat) (id : Nat) : Keeps s (u.activate i id) := by
  unfold State.activate
  try dsimp only
  repeat' (first | with_reducible assumption | with_reducible apply Keeps.setSegState | with_reducible apply Keeps.ite)

theorem Keeps.deactivate {s u : State} (h : Keeps s u) (i : Nat) (id : Nat) : Keeps s (u.deactivate i id) := by
  unfold State.deactivate
  try dsimp only
  repeat' (first | with_reducible assumption | with_reducible apply Keeps.setSegState | with_reducible apply Keeps.ite)

theorem Keeps.deactivateAll {s u : State} (h : Keeps s u) (i : Nat) : Keeps s (u.deactivateAll i) := by
  unfold State.deactivateAll
  try dsimp only
  repeat' (first | with_reducible assumption | with_reducible apply Keeps.deactivate | with_reducible apply Keeps.ite |
      with_reducible refine Keeps.foldl ?_ (fun _ _ _ => ?_))

theorem Keeps.portATouch {s u : State} (h : Keeps s u) (i : Nat) (banks : List Nat) : Keeps s (u.portATouch i banks) := by
  unfold State.portATouch
  try dsimp only
  repeat' (first | with_reducible assumption | with_reducible apply Keeps.updBurst | with_reducible apply Keeps.ite)

theorem Keeps.segWordCheck {s u : State} (h : Keeps s u) (i : Nat) (id : Nat) (a2 : Nat) : Keeps s (u.segWordCheck i id a2) := by
  unfold State.segWordCheck
  try dsimp only
  repeat' (first | with_reducible assumption | with_reducible apply Keeps.flagIf | with_reducible apply Keeps.flag |
      with_reducible apply Keeps.ocmUe | with_reducible apply Keeps.ite)

theorem Keeps.segUpset {s u : State} (h : Keeps s u) (i : Nat) (id : Nat) (a2 : Nat) (e : Ecc) : Keeps s (u.segUpset i id a2 e) := by
  unfold State.segUpset
  try dsimp only
  repeat' (first | with_reducible assumption | with_reducible apply Keeps.ocmUpset | with_reducible apply Keeps.ite)

/-! LinkOps. -/

theorem Keeps.setPort {s u : State} (h : Keeps s u) (p : Nat) (v : LinkPort) : Keeps s (u.setPort p v) := by
  unfold State.setPort
  try dsimp only
  repeat' (first | with_reducible assumption | with_reducible apply Keeps.updIat)

theorem Keeps.updPort {s u : State} (h : Keeps s u) (p : Nat) (f : LinkPort → LinkPort) : Keeps s (u.updPort p f) := by
  unfold State.updPort
  try dsimp only
  repeat' (first | with_reducible assumption | with_reducible apply Keeps.setPort)

theorem Keeps.sendFrame {s u : State} (h : Keeps s u) (p : Nat) (f : Frame) : Keeps s (u.sendFrame p f) := by
  unfold State.sendFrame
  try dsimp only
  repeat' (first | with_reducible assumption | with_reducible apply Keeps.emit | with_reducible apply Keeps.setPort)

theorem Keeps.flood {s u : State} (h : Keeps s u) (except : Option Nat) (f : Frame) : Keeps s (u.flood except f) := by
  unfold State.flood
  try dsimp only
  repeat' (first | with_reducible assumption | with_reducible apply Keeps.sendFrame | with_reducible apply Keeps.ite |
      with_reducible refine Keeps.foldl ?_ (fun _ _ _ => ?_))

theorem Keeps.sendEvent {s u : State} (h : Keeps s u) (apply : Nat) (set : Nat) (clear : Nat) : Keeps s (u.sendEvent apply set clear) := by
  unfold State.sendEvent
  try dsimp only
  repeat' (first | with_reducible assumption | with_reducible apply Keeps.flood)

/-! FlowOps. -/

theorem Keeps.setFlow {s u : State} (h : Keeps s u) (i : Nat) (v : FlowState) : Keeps s (u.setFlow i v) := by
  unfold State.setFlow
  try dsimp only
  repeat' (first | with_reducible assumption | with_reducible apply Keeps.updSvc)

theorem Keeps.updFlow {s u : State} (h : Keeps s u) (i : Nat) (f : FlowState → FlowState) : Keeps s (u.updFlow i f) := by
  unfold State.updFlow
  try dsimp only
  repeat' (first | with_reducible assumption | with_reducible apply Keeps.setFlow)

theorem Keeps.flowSignal {s u : State} (h : Keeps s u) (i : Nat) (what : Nat) (sel : Nat) (t : Nat) : Keeps s (u.flowSignal i what sel t) :=
    by
  unfold State.flowSignal
  try dsimp only
  repeat' (first | with_reducible assumption | with_reducible apply Keeps.updFlow | with_reducible apply Keeps.ite)

theorem Keeps.flowsSignal {s u : State} (h : Keeps s u) (what : Nat) (sel : Nat) (t : Nat) : Keeps s (u.flowsSignal what sel t) := by
  unfold State.flowsSignal
  try dsimp only
  repeat' (first | with_reducible assumption | with_reducible apply Keeps.flowSignal | with_reducible apply Keeps.ite |
      with_reducible refine Keeps.foldl ?_ (fun _ _ _ => ?_))

/-! XeOps. -/

theorem Keeps.updXePort {s u : State} (h : Keeps s u) (n : Nat) (f : XePort → XePort) : Keeps s (u.updXePort n f) := by
  unfold State.updXePort
  try dsimp only
  repeat' (first | with_reducible assumption | with_reducible apply Keeps.updXe)

theorem Keeps.updXeSite {s u : State} (h : Keeps s u) (i : Nat) (f : XeSite → XeSite) : Keeps s (u.updXeSite i f) := by
  unfold State.updXeSite
  try dsimp only
  repeat' (first | with_reducible assumption | with_reducible apply Keeps.updXe)

theorem Keeps.updRun {s u : State} (h : Keeps s u) (num : Nat) (f : XeRun → XeRun) : Keeps s (u.updRun num f) := by
  unfold State.updRun
  try dsimp only
  repeat' (first | with_reducible assumption | with_reducible apply Keeps.updXe)

theorem Keeps.portStat {s u : State} (h : Keeps s u) (n : Nat) : Keeps s (u.portStat n) := by
  unfold State.portStat
  try dsimp only
  repeat' (first | with_reducible assumption | with_reducible apply Keeps.set)

theorem Keeps.portsClear {s u : State} (h : Keeps s u) (i : Nat) : Keeps s (u.portsClear i) := by
  unfold State.portsClear
  try dsimp only
  repeat' (first | with_reducible assumption | with_reducible apply Keeps.portStat | with_reducible apply Keeps.updXePort |
      with_reducible apply Keeps.set | with_reducible apply Keeps.ite | with_reducible refine Keeps.foldl ?_ (fun _ _ _ => ?_))

theorem Keeps.keepRuns {s u : State} (h : Keeps s u) (i : Nat) (test : XeRun → Bool) : Keeps s (u.keepRuns i test) := by
  unfold State.keepRuns
  try dsimp only
  repeat' (first | with_reducible assumption | with_reducible apply Keeps.updXe)

theorem Keeps.xeHalt {s u : State} (h : Keeps s u) (i : Nat) : Keeps s (u.xeHalt i) := by
  unfold State.xeHalt
  try dsimp only
  repeat' (first | with_reducible assumption | with_reducible apply Keeps.portsClear | with_reducible apply Keeps.keepRuns)

theorem Keeps.xeClear {s u : State} (h : Keeps s u) (i : Nat) : Keeps s (u.xeClear i) := by
  unfold State.xeClear
  try dsimp only
  repeat' (first | with_reducible assumption | with_reducible apply Keeps.portsClear | with_reducible apply Keeps.keepRuns)

/-! Burst. -/

theorem Keeps.laneFeed {s u : State} (h : Keeps s u) (i : Nat) : Keeps s (u.laneFeed i) := by
  unfold State.laneFeed
  try dsimp only
  repeat' (first | with_reducible assumption | with_reducible apply Keeps.updPwr)

theorem Keeps.laneDraw {s u : State} (h : Keeps s u) (i : Nat) : Keeps s (u.laneDraw i) := by
  unfold State.laneDraw
  try dsimp only
  repeat' (first | with_reducible assumption | with_reducible apply Keeps.updPwr)

theorem Keeps.endNow {s u : State} (h : Keeps s u) (i : Nat) (e : EndRec) : Keeps s (u.endNow i e) := by
  unfold State.endNow
  try dsimp only
  repeat' (first | with_reducible assumption | with_reducible apply Keeps.updSite | with_reducible apply Keeps.set |
      with_reducible apply Keeps.xeHalt | with_reducible apply Keeps.setSiteSt | with_reducible apply Keeps.ite)

theorem Keeps.endDue {s u : State} (h : Keeps s u) (i : Nat) : Keeps s (u.endDue i) := by
  unfold State.endDue
  try dsimp only
  repeat' (first | with_reducible assumption | with_reducible apply Keeps.endNow | with_reducible apply Keeps.ite |
      with_reducible refine Keeps.foldl ?_ (fun _ _ _ => ?_) | with_reducible refine Keeps.foldl1 ?_ (fun _ _ _ => ?_) |
      with_reducible apply Keeps.ite1 | intro _ | split)

theorem Keeps.endPath {s u : State} (h : Keeps s u) (i : Nat) (e : EndRec) : Keeps s (u.endPath i e) := by
  unfold State.endPath
  try dsimp only
  repeat' (first | with_reducible assumption | with_reducible apply Keeps.endDue | with_reducible apply Keeps.updBurst |
      with_reducible apply Keeps.ite)

theorem Keeps.abortAtBoundary {s u : State} (h : Keeps s u) (i : Nat) (detail : Nat) : Keeps s (u.abortAtBoundary i detail) := by
  unfold State.abortAtBoundary
  try dsimp only
  repeat' (first | with_reducible assumption | with_reducible apply Keeps.updBurst | with_reducible apply Keeps.ite)

theorem Keeps.pinStart {s u : State} (h : Keeps s u) (i : Nat) (c0 : Nat) (p : Nat) : Keeps s (u.pinStart i c0 p) := by
  unfold State.pinStart
  try dsimp only
  repeat' (first | with_reducible assumption | with_reducible apply Keeps.updPin | with_reducible apply Keeps.clockStart |
      with_reducible apply Keeps.ite)

theorem Keeps.startBurst {s u : State} (h : Keeps s u) (i : Nat) (t : Nat) : Keeps s (u.startBurst i t) := by
  unfold State.startBurst
  try dsimp only
  repeat' (first | with_reducible assumption | with_reducible apply Keeps.updSite | with_reducible apply Keeps.updBurst |
      with_reducible apply Keeps.pinStart | with_reducible apply Keeps.set | with_reducible apply Keeps.raise |
      with_reducible apply Keeps.setSiteSt | with_reducible apply Keeps.ite | with_reducible refine Keeps.foldl ?_ (fun _ _ _ => ?_))

theorem Keeps.globalStop {s u : State} (h : Keeps s u) : Keeps s (u.globalStop) := by
  unfold State.globalStop
  try dsimp only
  repeat' (first | with_reducible assumption | with_reducible apply Keeps.raise | with_reducible apply Keeps.abortAtBoundary |
      with_reducible apply Keeps.ite | with_reducible refine Keeps.foldl ?_ (fun _ _ _ => ?_))

theorem Keeps.eventStarts {s u : State} (h : Keeps s u) (rose : Nat) (t : Nat) : Keeps s (u.eventStarts rose t) := by
  unfold State.eventStarts
  try dsimp only
  repeat' (first | with_reducible assumption | with_reducible apply Keeps.startBurst | with_reducible apply Keeps.ite |
      with_reducible refine Keeps.foldl ?_ (fun _ _ _ => ?_))

theorem Keeps.evtRise {s u : State} (h : Keeps s u) (was : Nat) (v : Nat) : Keeps s (u.evtRise was v) := by
  unfold State.evtRise
  try dsimp only
  repeat' (first | with_reducible assumption | with_reducible apply Keeps.set | with_reducible apply Keeps.globalStop |
      with_reducible apply Keeps.eventStarts | with_reducible apply Keeps.flowsSignal | with_reducible apply Keeps.ite |
      with_reducible refine Keeps.foldl ?_ (fun _ _ _ => ?_))

theorem Keeps.evtVector {s u : State} (h : Keeps s u) (v : Nat) : Keeps s (u.evtVector v) := by
  unfold State.evtVector
  try dsimp only
  repeat' (first | with_reducible assumption | with_reducible apply Keeps.evtRise)

theorem Keeps.evtAct {s u : State} (h : Keeps s u) (apply : Nat) (set : Nat) (clear : Nat) : Keeps s (u.evtAct apply set clear) := by
  unfold State.evtAct
  try dsimp only
  repeat' (first | with_reducible assumption | with_reducible apply Keeps.evtRise | with_reducible apply Keeps.updIat)

theorem Keeps.evtTake {s u : State} (h : Keeps s u) (apply : Nat) (set : Nat) (clear : Nat) : Keeps s (u.evtTake apply set clear) := by
  unfold State.evtTake
  try dsimp only
  repeat' (first | with_reducible assumption | with_reducible apply Keeps.evtAct | with_reducible apply Keeps.updIat |
      with_reducible apply Keeps.ite)

theorem Keeps.originEvent {s u : State} (h : Keeps s u) (set : Nat) (clear : Nat) : Keeps s (u.originEvent set clear) := by
  unfold State.originEvent
  try dsimp only
  repeat' (first | with_reducible assumption | with_reducible apply Keeps.evtTake | with_reducible apply Keeps.sendEvent)

theorem Keeps.setFlag {s u : State} (h : Keeps s u) (i : Nat) (n : Nat) : Keeps s (u.setFlag i n) := by
  unfold State.setFlag
  try dsimp only
  repeat' (first | with_reducible assumption | with_reducible apply Keeps.set | with_reducible apply Keeps.originEvent |
      with_reducible apply Keeps.ite)

theorem Keeps.devState {s u : State} (h : Keeps s u) : Keeps s (u.devState) := by
  unfold State.devState
  try dsimp only
  repeat' (first | with_reducible assumption | with_reducible apply Keeps.set | with_reducible apply Keeps.ite)

/-! Reduction. -/

theorem Keeps.setAcc {s u : State} (h : Keeps s u) (a : Nat) (v : Accum) : Keeps s (u.setAcc a v) := by
  unfold State.setAcc
  try dsimp only
  repeat' (first | with_reducible assumption | with_reducible apply Keeps.updRed)

theorem Keeps.dropOperand {s u : State} (h : Keeps s u) (p : Nat) (a : Nat) : Keeps s (u.dropOperand p a) := by
  unfold State.dropOperand
  try dsimp only
  repeat' (first | with_reducible assumption | with_reducible apply Keeps.setAcc | with_reducible apply Keeps.raiseIf)

theorem Keeps.pushOperand {s u : State} (h : Keeps s u) (p : Nat) (a : Nat) (v : Int) (ref : Bool) : Keeps s (u.pushOperand p a v ref) := by
  unfold State.pushOperand
  try dsimp only
  repeat' (first | with_reducible assumption | with_reducible apply Keeps.updPin | with_reducible apply Keeps.dropOperand |
      with_reducible apply Keeps.ite)

theorem Keeps.ivlDrop {s u : State} (h : Keeps s u) (a : Nat) : Keeps s (u.ivlDrop a) := by
  unfold State.ivlDrop
  try dsimp only
  repeat' (first | with_reducible assumption | with_reducible apply Keeps.flagOnce | with_reducible apply Keeps.count)

theorem Keeps.ivlWrite {s u : State} (h : Keeps s u) (a : Nat) (bs : List Byte) : Keeps s (u.ivlWrite a bs) := by
  unfold State.ivlWrite
  try dsimp only
  repeat' (first | with_reducible assumption | with_reducible apply Keeps.flag | with_reducible apply Keeps.ivlDrop |
      with_reducible apply Keeps.offAccess | with_reducible apply Keeps.set | with_reducible apply Keeps.captPut |
      with_reducible apply Keeps.updRed | with_reducible apply Keeps.ite)

theorem Keeps.accept {s u : State} (h : Keeps s u) (a : Nat) (v : Int) (ref : Bool) : Keeps s (u.accept a v ref) := by
  unfold State.accept
  try dsimp only
  repeat' (first | with_reducible assumption | with_reducible apply Keeps.raise | with_reducible apply Keeps.setAcc |
      with_reducible apply Keeps.ivlWrite | with_reducible apply Keeps.ite)

theorem Keeps.redOperand {s u : State} (h : Keeps s u) : Keeps s (u.redOperand) := by
  unfold State.redOperand
  try dsimp only
  repeat' (first | with_reducible assumption | with_reducible apply Keeps.updPin | with_reducible apply Keeps.accept |
      with_reducible apply Keeps.updRed | with_reducible apply Keeps.ite | with_reducible refine Keeps.foldl ?_ (fun _ _ _ => ?_) |
      with_reducible refine Keeps.foldl1 ?_ (fun _ _ _ => ?_) | with_reducible apply Keeps.ite1 | intro _ | split)

theorem Keeps.redSnap {s u : State} (h : Keeps s u) (a : Nat) : Keeps s (u.redSnap a) := by
  unfold State.redSnap
  try dsimp only
  repeat' (first | with_reducible assumption | with_reducible apply Keeps.flag | with_reducible apply Keeps.set |
      with_reducible apply Keeps.updRed | with_reducible apply Keeps.ite)

theorem Keeps.redSnapDone {s u : State} (h : Keeps s u) : Keeps s (u.redSnapDone) := by
  unfold State.redSnapDone
  try dsimp only
  repeat' (first | with_reducible assumption | with_reducible apply Keeps.set64 | with_reducible apply Keeps.set |
      with_reducible apply Keeps.updRed | with_reducible apply Keeps.ite | with_reducible refine Keeps.foldl ?_ (fun _ _ _ => ?_) |
      with_reducible refine Keeps.foldl1 ?_ (fun _ _ _ => ?_) | with_reducible apply Keeps.ite1 | intro _ | split)

theorem Keeps.redDump {s u : State} (h : Keeps s u) (first : Nat) (last : Nat) : Keeps s (u.redDump first last) := by
  unfold State.redDump
  try dsimp only
  repeat' (first | with_reducible assumption | with_reducible apply Keeps.flag | with_reducible apply Keeps.set |
      with_reducible apply Keeps.updRed | with_reducible apply Keeps.ite)

theorem Keeps.putDest {s u : State} (h : Keeps s u) (addr : Nat) (bs : List Byte) : Keeps s (u.putDest addr bs) := by
  unfold State.putDest
  try dsimp only
  repeat' (first | with_reducible assumption | with_reducible apply Keeps.emit | with_reducible apply Keeps.putRegion |
      with_reducible apply Keeps.ite)

theorem Keeps.redDumpDone {s u : State} (h : Keeps s u) : Keeps s (u.redDumpDone) := by
  unfold State.redDumpDone
  try dsimp only
  repeat' (first | with_reducible assumption | with_reducible apply Keeps.putDest | with_reducible apply Keeps.flag |
      with_reducible apply Keeps.set | with_reducible apply Keeps.updRed | with_reducible apply Keeps.ite |
      with_reducible refine Keeps.foldl ?_ (fun _ _ _ => ?_) | with_reducible refine Keeps.foldl1 ?_ (fun _ _ _ => ?_) |
      with_reducible apply Keeps.ite1 | intro _ | split)

theorem Keeps.redClear {s u : State} (h : Keeps s u) (first : Nat) (last : Nat) : Keeps s (u.redClear first last) := by
  unfold State.redClear
  try dsimp only
  repeat' (first | with_reducible assumption | with_reducible apply Keeps.setAcc | with_reducible apply Keeps.ite |
      with_reducible refine Keeps.foldl ?_ (fun _ _ _ => ?_))

theorem Keeps.redArm {s u : State} (h : Keeps s u) (i : Nat) : Keeps s (u.redArm i) := by
  unfold State.redArm
  try dsimp only
  repeat' (first | with_reducible assumption | with_reducible apply Keeps.setAcc | with_reducible apply Keeps.ite |
      with_reducible refine Keeps.foldl ?_ (fun _ _ _ => ?_))

theorem Keeps.ivlReset {s u : State} (h : Keeps s u) : Keeps s (u.ivlReset) := by
  unfold State.ivlReset
  try dsimp only
  repeat' (first | with_reducible assumption | with_reducible apply Keeps.set | with_reducible apply Keeps.updRed)

theorem Keeps.ivlTail {s u : State} (h : Keeps s u) : Keeps s (u.ivlTail) := by
  unfold State.ivlTail
  try dsimp only
  repeat' (first | with_reducible assumption | with_reducible apply Keeps.updRed)

/-! Tdc. -/

theorem Keeps.updTdc {s u : State} (h : Keeps s u) (p : Nat) (f : TdcState → TdcState) : Keeps s (u.updTdc p f) := by
  unfold State.updTdc
  try dsimp only
  repeat' (first | with_reducible assumption | with_reducible apply Keeps.updPin)

theorem Keeps.tdcFlags {s u : State} (h : Keeps s u) (p : Nat) (order : Bool) (near : Bool) (tStart : Bool) (tStop : Bool) (ref : Bool) :
    Keeps s (u.tdcFlags p order near tStart tStop ref) := by
  unfold State.tdcFlags
  try dsimp only
  repeat' (first | with_reducible assumption | with_reducible apply Keeps.set)

theorem Keeps.tdcRelease {s u : State} (h : Keeps s u) (p : Nat) : Keeps s (u.tdcRelease p) := by
  unfold State.tdcRelease
  try dsimp only
  repeat' (first | with_reducible assumption | with_reducible apply Keeps.updTdc | with_reducible apply Keeps.set |
      with_reducible apply Keeps.ite)

theorem Keeps.tdcBegin {s u : State} (h : Keeps s u) (p : Nat) (t : Nat) : Keeps s (u.tdcBegin p t) := by
  unfold State.tdcBegin
  try dsimp only
  repeat' (first | with_reducible assumption | with_reducible apply Keeps.updTdc | with_reducible apply Keeps.set)

theorem Keeps.tdcArm {s u : State} (h : Keeps s u) (p : Nat) : Keeps s (u.tdcArm p) := by
  unfold State.tdcArm
  try dsimp only
  repeat' (first | with_reducible assumption | with_reducible apply Keeps.flag | with_reducible apply Keeps.tdcRelease |
      with_reducible apply Keeps.updTdc | with_reducible apply Keeps.set | with_reducible apply Keeps.tdcFlags |
      with_reducible apply Keeps.tdcBegin | with_reducible apply Keeps.ite)

theorem Keeps.tdcDone {s u : State} (h : Keeps s u) (p : Nat) : Keeps s (u.tdcDone p) := by
  unfold State.tdcDone
  try dsimp only
  repeat' (first | with_reducible assumption | with_reducible apply Keeps.set | with_reducible apply Keeps.tdcRelease)

theorem Keeps.tdcEvent {s u : State} (h : Keeps s u) (p : Nat) : Keeps s (u.tdcEvent p) := by
  unfold State.tdcEvent
  try dsimp only
  repeat' (first | with_reducible assumption | with_reducible apply Keeps.raiseIf)

theorem Keeps.tdcCancel {s u : State} (h : Keeps s u) (p : Nat) (why : Nat) : Keeps s (u.tdcCancel p why) := by
  unfold State.tdcCancel
  try dsimp only
  repeat' (first | with_reducible assumption | with_reducible apply Keeps.raise | with_reducible apply Keeps.flag |
      with_reducible apply Keeps.tdcDone | with_reducible apply Keeps.updTdc | with_reducible apply Keeps.ite)

theorem Keeps.tdcCancelAll {s u : State} (h : Keeps s u) (why : Nat) (hit : Nat → Bool) : Keeps s (u.tdcCancelAll why hit) := by
  unfold State.tdcCancelAll
  try dsimp only
  repeat' (first | with_reducible assumption | with_reducible apply Keeps.tdcCancel | with_reducible apply Keeps.ite |
      with_reducible refine Keeps.foldl ?_ (fun _ _ _ => ?_))

theorem Keeps.tdcStart {s u : State} (h : Keeps s u) (p : Nat) (k : CrossKind) (t : Nat) : Keeps s (u.tdcStart p k t) := by
  unfold State.tdcStart
  try dsimp only
  repeat' (first | with_reducible assumption | with_reducible apply Keeps.updTdc | with_reducible apply Keeps.ite)

theorem Keeps.tdcStop {s u : State} (h : Keeps s u) (p : Nat) (k : CrossKind) (t : Nat) : Keeps s (u.tdcStop p k t) := by
  unfold State.tdcStop
  try dsimp only
  repeat' (first | with_reducible assumption | with_reducible apply Keeps.updTdc | with_reducible apply Keeps.ite)

theorem Keeps.tdcCross {s u : State} (h : Keeps s u) (a0 : Nat) (k : CrossKind) (t : Nat) : Keeps s (u.tdcCross a0 k t) := by
  unfold State.tdcCross
  try dsimp only
  repeat' (first | with_reducible assumption | with_reducible apply Keeps.tdcStart | with_reducible apply Keeps.tdcStop |
      with_reducible apply Keeps.ite | with_reducible refine Keeps.foldl ?_ (fun _ _ _ => ?_) |
      with_reducible refine Keeps.foldl1 ?_ (fun _ _ _ => ?_) | with_reducible apply Keeps.ite1 | intro _ | split)

theorem Keeps.tdcReport {s u : State} (h : Keeps s u) (p : Nat) (start : Nat × Bool) (stop : Nat × Bool) (switched : Bool) : Keeps s
    (u.tdcReport p start stop switched) := by
  unfold State.tdcReport
  try dsimp only
  repeat' (first | with_reducible assumption | with_reducible apply Keeps.set64 | with_reducible apply Keeps.count |
      with_reducible apply Keeps.tdcFlags | with_reducible apply Keeps.pushOperand | with_reducible apply Keeps.flag |
      with_reducible apply Keeps.ite)

theorem Keeps.tdcResult {s u : State} (h : Keeps s u) (p : Nat) : Keeps s (u.tdcResult p) := by
  unfold State.tdcResult
  try dsimp only
  repeat' (first | with_reducible assumption | with_reducible apply Keeps.updTdc | with_reducible apply Keeps.tdcReport |
      with_reducible apply Keeps.tdcEvent | with_reducible apply Keeps.tdcDone | with_reducible apply Keeps.ite |
      with_reducible refine Keeps.foldl ?_ (fun _ _ _ => ?_) | with_reducible refine Keeps.foldl1 ?_ (fun _ _ _ => ?_) |
      with_reducible apply Keeps.ite1 | intro _ | split)

theorem Keeps.tdcRepeat {s u : State} (h : Keeps s u) (p : Nat) : Keeps s (u.tdcRepeat p) := by
  unfold State.tdcRepeat
  try dsimp only
  repeat' (first | with_reducible assumption | with_reducible apply Keeps.tdcBegin | with_reducible apply Keeps.at_ |
      with_reducible apply Keeps.updTdc | with_reducible apply Keeps.ite | with_reducible refine Keeps.foldl ?_ (fun _ _ _ => ?_) |
      with_reducible refine Keeps.foldl1 ?_ (fun _ _ _ => ?_) | with_reducible apply Keeps.ite1 | intro _ | split)

theorem Keeps.tdcTimeout {s u : State} (h : Keeps s u) (p : Nat) : Keeps s (u.tdcTimeout p) := by
  unfold State.tdcTimeout
  try dsimp only
  repeat' (first | with_reducible assumption | with_reducible apply Keeps.tdcFlags | with_reducible apply Keeps.at_ |
      with_reducible apply Keeps.set64 | with_reducible apply Keeps.raise | with_reducible apply Keeps.tdcEvent |
      with_reducible apply Keeps.tdcDone | with_reducible apply Keeps.ite)

theorem Keeps.tdcSwitched {s u : State} (h : Keeps s u) : Keeps s (u.tdcSwitched) := by
  unfold State.tdcSwitched
  try dsimp only
  repeat' (first | with_reducible assumption | with_reducible apply Keeps.updTdc | with_reducible apply Keeps.ite |
      with_reducible refine Keeps.foldl ?_ (fun _ _ _ => ?_))

/-! Capture. -/

theorem Keeps.updLines {s u : State} (h : Keeps s u) (i : Nat) (f : LineState → LineState) : Keeps s (u.updLines i f) := by
  unfold State.updLines
  try dsimp only
  repeat' (first | with_reducible assumption | with_reducible apply Keeps.updSite)

theorem Keeps.capOnce {s u : State} (h : Keeps s u) (i : Nat) (code : Nat) (data : Nat) : Keeps s (u.capOnce i code data) := by
  unfold State.capOnce
  try dsimp only
  repeat' (first | with_reducible assumption | with_reducible apply Keeps.updCap | with_reducible apply Keeps.raise |
      with_reducible apply Keeps.ite)

theorem Keeps.failPin {s u : State} (h : Keeps s u) (i : Nat) (cycle : Nat) (p : Nat) : Keeps s (u.failPin i cycle p) := by
  unfold State.failPin
  try dsimp only
  repeat' (first | with_reducible assumption | with_reducible apply Keeps.flagIf | with_reducible apply Keeps.count |
      with_reducible apply Keeps.set64 | with_reducible apply Keeps.ite)

theorem Keeps.queueRecord {s u : State} (h : Keeps s u) (i : Nat) (cycle : Nat) (e : WinEntry) : Keeps s (u.queueRecord i cycle e) := by
  unfold State.queueRecord
  try dsimp only
  repeat' (first | with_reducible assumption | with_reducible apply Keeps.updCap | with_reducible apply Keeps.capOnce |
      with_reducible apply Keeps.flag | with_reducible apply Keeps.count | with_reducible apply Keeps.ite)

theorem Keeps.count64 {s u : State} (h : Keeps s u) (lo : Fld) (hi : Fld) (n : Nat) : Keeps s (u.count64 lo hi n) := by
  unfold State.count64
  try dsimp only
  repeat' (first | with_reducible assumption | with_reducible apply Keeps.set64)

theorem Keeps.commitFails {s u : State} (h : Keeps s u) (i : Nat) (cycle : Nat) (e : WinEntry) : Keeps s (u.commitFails i cycle e) := by
  unfold State.commitFails
  try dsimp only
  repeat' (first | with_reducible assumption | with_reducible apply Keeps.failPin | with_reducible apply Keeps.count64 |
      with_reducible apply Keeps.set64 | with_reducible apply Keeps.capOnce | with_reducible apply Keeps.flag |
      with_reducible apply Keeps.setFlag | with_reducible apply Keeps.queueRecord | with_reducible apply Keeps.ite |
      with_reducible refine Keeps.foldl ?_ (fun _ _ _ => ?_))

theorem Keeps.specStat {s u : State} (h : Keeps s u) (i : Nat) : Keeps s (u.specStat i) := by
  unfold State.specStat
  try dsimp only
  repeat' (first | with_reducible assumption | with_reducible apply Keeps.set)

theorem Keeps.dropAcq {s u : State} (h : Keeps s u) (i : Nat) (last : Nat) : Keeps s (u.dropAcq i last) := by
  unfold State.dropAcq
  try dsimp only
  repeat' (first | with_reducible assumption | with_reducible apply Keeps.updPin | with_reducible apply Keeps.ite |
      with_reducible refine Keeps.foldl ?_ (fun _ _ _ => ?_))

theorem Keeps.overrun {s u : State} (h : Keeps s u) (i : Nat) (last : Nat) : Keeps s (u.overrun i last).1 := by
  unfold State.overrun
  try dsimp only
  repeat' (first | with_reducible assumption | with_reducible apply Keeps.updSite | with_reducible apply Keeps.specStat |
      with_reducible apply Keeps.dropAcq)

theorem Keeps.uncount {s u : State} (h : Keeps s u) (i : Nat) (vec : Nat) : Keeps s (u.uncount i vec) := by
  unfold State.uncount
  try dsimp only
  repeat' (first | with_reducible assumption | with_reducible apply Keeps.updSpec | with_reducible apply Keeps.set)

theorem Keeps.stopAfter {s u : State} (h : Keeps s u) (i : Nat) (vec : Nat) (pos : Pos) (e : EndRec) : Keeps s (u.stopAfter i vec pos e) :=
    by
  unfold State.stopAfter
  try dsimp only
  repeat' (first | with_reducible assumption | with_reducible apply Keeps.keepRuns | with_reducible apply Keeps.uncount |
      with_reducible apply Keeps.overrun | with_reducible apply Keeps.updSite | with_reducible apply Keeps.specStat |
      with_reducible apply Keeps.endNow)

theorem Keeps.flogMakeRoom {s u : State} (h : Keeps s u) (i n fuel used : Nat) : Keeps s (u.flogMakeRoom i n fuel used) := by
  induction fuel generalizing u used with
  | zero => exact h
  | succ fuel ih =>
    unfold State.flogMakeRoom
    exact Keeps.ite h (ih (Keeps.flag (Keeps.set h _ _) _) _)

theorem Keeps.flogDrop {s u : State} (h : Keeps s u) (i : Nat) (r : LogRec) : Keeps s (u.flogDrop i r) := by
  unfold State.flogDrop
  try dsimp only
  repeat' (first | with_reducible assumption | with_reducible apply Keeps.updCap | with_reducible apply Keeps.count)

theorem Keeps.flogPut {s u : State} (h : Keeps s u) (i : Nat) (r : LogRec) : Keeps s (u.flogPut i r) := by
  unfold State.flogPut
  try dsimp only
  repeat' (first | with_reducible assumption | with_reducible apply Keeps.updCap | with_reducible apply Keeps.captPut |
      with_reducible apply Keeps.count | with_reducible apply Keeps.set)

theorem Keeps.flogFull {s u : State} (h : Keeps s u) (i : Nat) : Keeps s (u.flogFull i) := by
  unfold State.flogFull
  try dsimp only
  repeat' (first | with_reducible assumption | with_reducible apply Keeps.capOnce | with_reducible apply Keeps.flag)

theorem Keeps.flogWrite {s u : State} (h : Keeps s u) (i : Nat) : Keeps s (u.flogWrite i) := by
  unfold State.flogWrite
  try dsimp only
  repeat' (first | with_reducible assumption | with_reducible apply Keeps.updCap | with_reducible apply Keeps.capOnce |
      with_reducible apply Keeps.flag | with_reducible apply Keeps.flogDrop | with_reducible apply Keeps.flogFull |
      with_reducible apply Keeps.flogPut | with_reducible apply Keeps.flogMakeRoom | with_reducible apply Keeps.stopAfter |
      with_reducible apply Keeps.ite | with_reducible refine Keeps.foldl ?_ (fun _ _ _ => ?_) |
      with_reducible refine Keeps.foldl1 ?_ (fun _ _ _ => ?_) | with_reducible apply Keeps.ite1 | intro _ | split)

/-! Commit. -/

theorem Keeps.updAcq {s u : State} (h : Keeps s u) (p : Nat) (f : AcqState → AcqState) : Keeps s (u.updAcq p f) := by
  unfold State.updAcq
  try dsimp only
  repeat' (first | with_reducible assumption | with_reducible apply Keeps.updPin)

theorem Keeps.trigUnit {s u : State} (h : Keeps s u) (i : Nat) (p : Nat) (n : Nat) (a3 : AcqItem) : Keeps s (u.trigUnit i p n a3).1 := by
  unfold State.trigUnit
  try dsimp only
  repeat' (first | with_reducible assumption | with_reducible apply Keeps.updAcq | with_reducible apply Keeps.ite |
      with_reducible refine Keeps.foldl ?_ (fun _ _ _ => ?_) | with_reducible refine Keeps.foldl1 ?_ (fun _ _ _ => ?_) |
      with_reducible apply Keeps.ite1)

theorem Keeps.trigPin {s u : State} (h : Keeps s u) (i : Nat) (p : Nat) (a2 : AcqItem) : Keeps s (u.trigPin i p a2).1 := by
  unfold State.trigPin
  try dsimp only
  repeat' (first | with_reducible assumption | with_reducible apply Keeps.trigUnit | with_reducible apply Keeps.ite |
      with_reducible refine Keeps.foldl ?_ (fun _ _ _ => ?_) | with_reducible refine Keeps.foldl1 ?_ (fun _ _ _ => ?_))

theorem Keeps.ringDone {s u : State} (h : Keeps s u) (p : Nat) : Keeps s (u.ringDone p) := by
  unfold State.ringDone
  try dsimp only
  repeat' (first | with_reducible assumption | with_reducible apply Keeps.raise | with_reducible apply Keeps.set)

theorem Keeps.postDone {s u : State} (h : Keeps s u) (i : Nat) (p : Nat) : Keeps s (u.postDone i p) := by
  unfold State.postDone
  try dsimp only
  repeat' (first | with_reducible assumption | with_reducible apply Keeps.ringDone | with_reducible apply Keeps.raise |
      with_reducible apply Keeps.flag | with_reducible apply Keeps.ite)

theorem Keeps.ringTrigger {s u : State} (h : Keeps s u) (i : Nat) (p : Nat) (tag : Nat) : Keeps s (u.ringTrigger i p tag) := by
  unfold State.ringTrigger
  try dsimp only
  repeat' (first | with_reducible assumption | with_reducible apply Keeps.set | with_reducible apply Keeps.updAcq |
      with_reducible apply Keeps.postDone | with_reducible apply Keeps.ite)

theorem Keeps.ringStore {s u : State} (h : Keeps s u) (p : Nat) (w : Nat) (pre : Bool) : Keeps s (u.ringStore p w pre) := by
  unfold State.ringStore
  try dsimp only
  repeat' (first | with_reducible assumption | with_reducible apply Keeps.set64 | with_reducible apply Keeps.set)

theorem Keeps.ringRecord {s u : State} (h : Keeps s u) (i : Nat) (p : Nat) (w : Nat) : Keeps s (u.ringRecord i p w) := by
  unfold State.ringRecord
  try dsimp only
  repeat' (first | with_reducible assumption | with_reducible apply Keeps.ringStore | with_reducible apply Keeps.ringDone |
      with_reducible apply Keeps.updAcq | with_reducible apply Keeps.postDone | with_reducible apply Keeps.ite)

theorem Keeps.acqRecord {s u : State} (h : Keeps s u) (i : Nat) (p : Nat) (tag : Nat) (a3 : AcqItem) : Keeps s (u.acqRecord i p tag a3) :=
    by
  unfold State.acqRecord
  try dsimp only
  repeat' (first | with_reducible assumption | with_reducible apply Keeps.updAcq | with_reducible apply Keeps.ringRecord |
      with_reducible apply Keeps.flagIf | with_reducible apply Keeps.raiseIf | with_reducible apply Keeps.count |
      with_reducible apply Keeps.ite | with_reducible refine Keeps.foldl ?_ (fun _ _ _ => ?_) |
      with_reducible refine Keeps.foldl1 ?_ (fun _ _ _ => ?_) | with_reducible apply Keeps.ite1 | intro _ | split)

theorem Keeps.trigHist {s u : State} (h : Keeps s u) (p : Nat) (tag : Nat) (set : Nat) (act : Nat) : Keeps s (u.trigHist p tag set act) :=
    by
  unfold State.trigHist
  try dsimp only
  repeat' (first | with_reducible assumption | with_reducible apply Keeps.flag | with_reducible apply Keeps.set |
      with_reducible apply Keeps.ite | with_reducible refine Keeps.foldl ?_ (fun _ _ _ => ?_) |
      with_reducible refine Keeps.foldl1 ?_ (fun _ _ _ => ?_) | with_reducible apply Keeps.ite1 | intro _ | split)

theorem Keeps.trigFire {s u : State} (h : Keeps s u) (i : Nat) (p : Nat) (tag : Nat) (set : Nat) : Keeps s (u.trigFire i p tag set) := by
  unfold State.trigFire
  try dsimp only
  repeat' (first | with_reducible assumption | with_reducible apply Keeps.trigHist | with_reducible apply Keeps.count |
      with_reducible apply Keeps.setFlag | with_reducible apply Keeps.updAcq | with_reducible apply Keeps.raise |
      with_reducible apply Keeps.ringTrigger | with_reducible apply Keeps.ite)

theorem Keeps.lineFires {s u : State} (h : Keeps s u) (i : Nat) (line : Nat) (tag : Nat) : Keeps s (u.lineFires i line tag).1 := by
  unfold State.lineFires
  try dsimp only
  repeat' (first | with_reducible assumption | with_reducible apply Keeps.updLines | with_reducible apply Keeps.ite |
      with_reducible refine Keeps.foldl ?_ (fun _ _ _ => ?_) | with_reducible refine Keeps.foldl1 ?_ (fun _ _ _ => ?_) |
      with_reducible apply Keeps.ite1)

theorem Keeps.lineAct {s u : State} (h : Keeps s u) (i : Nat) (tag : Nat) (set : Nat) : Keeps s (u.lineAct i tag set) := by
  unfold State.lineAct
  try dsimp only
  repeat' (first | with_reducible assumption | with_reducible apply Keeps.flag | with_reducible apply Keeps.set |
      with_reducible apply Keeps.ringTrigger | with_reducible apply Keeps.setFlag | with_reducible apply Keeps.updLines |
      with_reducible apply Keeps.raise | with_reducible apply Keeps.ite | with_reducible refine Keeps.foldl ?_ (fun _ _ _ => ?_))

theorem Keeps.acqGroup {s u : State} (h : Keeps s u) (i : Nat) (tag : Nat) (its : List (Nat × AcqItem)) : Keeps s (u.acqGroup i tag its) :=
    by
  unfold State.acqGroup
  try dsimp only
  repeat' (first | with_reducible assumption | with_reducible apply Keeps.trigPin | with_reducible apply Keeps.trigFire |
      with_reducible apply Keeps.updLines | with_reducible apply Keeps.lineFires | with_reducible apply Keeps.lineAct |
      with_reducible apply Keeps.acqRecord | with_reducible apply Keeps.ite | with_reducible refine Keeps.foldl ?_ (fun _ _ _ => ?_) |
      with_reducible refine Keeps.foldl1 ?_ (fun _ _ _ => ?_) | with_reducible apply Keeps.ite1)

theorem Keeps.acqGroups {s u : State} (h : Keeps s u) (i fuel : Nat) (l : List (Nat × AcqItem)) : Keeps s (u.acqGroups i fuel l) := by
  induction fuel generalizing u l with
  | zero => exact h
  | succ fuel ih =>
    unfold State.acqGroups
    split
    · exact h
    · exact ih (Keeps.acqGroup h _ _ _) _

theorem Keeps.acqTake {s u : State} (h : Keeps s u) (i : Nat) (test : AcqItem → Bool) : Keeps s (u.acqTake i test) := by
  unfold State.acqTake
  try dsimp only
  repeat' (first | with_reducible assumption | with_reducible apply Keeps.updAcq | with_reducible apply Keeps.acqGroups |
      with_reducible apply Keeps.ite | with_reducible refine Keeps.foldl ?_ (fun _ _ _ => ?_))

theorem Keeps.acqMark {s u : State} (h : Keeps s u) (i : Nat) (vec : Nat) (t : Nat) (value : Nat) : Keeps s (u.acqMark i vec t value) := by
  unfold State.acqMark
  try dsimp only
  repeat' (first | with_reducible assumption | with_reducible apply Keeps.updAcq | with_reducible apply Keeps.ite |
      with_reducible refine Keeps.foldl ?_ (fun _ _ _ => ?_))

theorem Keeps.maskHit {s u : State} (h : Keeps s u) (i : Nat) (p : Nat) (n : Nat) (kind : Bool) : Keeps s (u.maskHit i p n kind) := by
  unfold State.maskHit
  try dsimp only
  repeat' (first | with_reducible assumption | with_reducible apply Keeps.count | with_reducible apply Keeps.updLines |
      with_reducible apply Keeps.raise | with_reducible apply Keeps.setFlag | with_reducible apply Keeps.ite)

theorem Keeps.maskWindow {s u : State} (h : Keeps s u) (i : Nat) (p : Nat) (n : Nat) (ts : Nat) (c : Nat) (per : Nat) : Keeps s
    (u.maskWindow i p n ts c per).1 := by
  unfold State.maskWindow
  try dsimp only
  repeat' (first | with_reducible assumption | with_reducible apply Keeps.flag | with_reducible apply Keeps.maskHit |
      with_reducible apply Keeps.ite | with_reducible refine Keeps.foldl ?_ (fun _ _ _ => ?_) |
      with_reducible refine Keeps.foldl1 ?_ (fun _ _ _ => ?_) | with_reducible apply Keeps.ite1)

theorem Keeps.maskVec {s u : State} (h : Keeps s u) (i : Nat) (ts : Nat) (c : Nat) (per : Nat) : Keeps s (u.maskVec i ts c per).1 := by
  unfold State.maskVec
  try dsimp only
  repeat' (first | with_reducible assumption | with_reducible apply Keeps.maskWindow | with_reducible apply Keeps.ite |
      with_reducible refine Keeps.foldl ?_ (fun _ _ _ => ?_) | with_reducible refine Keeps.foldl1 ?_ (fun _ _ _ => ?_))

theorem Keeps.avgPin {s u : State} (h : Keeps s u) (i : Nat) (ts : Nat) (c : Nat) (p : Nat) : Keeps s (u.avgPin i ts c p) := by
  unfold State.avgPin
  try dsimp only
  repeat' (first | with_reducible assumption | with_reducible apply Keeps.count | with_reducible apply Keeps.pushOperand |
      with_reducible apply Keeps.ite | with_reducible refine Keeps.foldl ?_ (fun _ _ _ => ?_) |
      with_reducible refine Keeps.foldl1 ?_ (fun _ _ _ => ?_) | with_reducible apply Keeps.ite1 | intro _ | split)

theorem Keeps.commitLoop {s u : State} (h : Keeps s u) (i : Nat) (l : Option LoopEnd) : Keeps s (u.commitLoop i l) := by
  unfold State.commitLoop
  try dsimp only
  repeat' (first | with_reducible assumption | with_reducible apply Keeps.updSpec | with_reducible apply Keeps.setFlag |
      with_reducible apply Keeps.flag | with_reducible apply Keeps.ite | with_reducible refine Keeps.foldl ?_ (fun _ _ _ => ?_) |
      with_reducible refine Keeps.foldl1 ?_ (fun _ _ _ => ?_) | with_reducible apply Keeps.ite1 | intro _ | split)

theorem Keeps.commitStop {s u : State} (h : Keeps s u) (i : Nat) (e : WinEntry) (mask : Option Nat) : Keeps s (u.commitStop i e mask) := by
  unfold State.commitStop
  try dsimp only
  repeat' (first | with_reducible assumption | with_reducible apply Keeps.capOnce | with_reducible apply Keeps.flag |
      with_reducible apply Keeps.stopAfter | with_reducible apply Keeps.ite | with_reducible refine Keeps.foldl ?_ (fun _ _ _ => ?_) |
      with_reducible refine Keeps.foldl1 ?_ (fun _ _ _ => ?_) | with_reducible apply Keeps.ite1 | intro _ | split)

theorem Keeps.commitEntry {s u : State} (h : Keeps s u) (i : Nat) (e : WinEntry) : Keeps s (u.commitEntry i e) := by
  unfold State.commitEntry
  try dsimp only
  repeat' (first | with_reducible assumption | with_reducible apply Keeps.updXe | with_reducible apply Keeps.updSite |
      with_reducible apply Keeps.taint | with_reducible apply Keeps.commitFails | with_reducible apply Keeps.maskVec |
      with_reducible apply Keeps.avgPin | with_reducible apply Keeps.acqMark | with_reducible apply Keeps.acqTake |
      with_reducible apply Keeps.specStat | with_reducible apply Keeps.commitStop | with_reducible apply Keeps.commitLoop |
      with_reducible apply Keeps.ite | with_reducible refine Keeps.foldl ?_ (fun _ _ _ => ?_) |
      with_reducible refine Keeps.foldl1 ?_ (fun _ _ _ => ?_) | with_reducible apply Keeps.ite1 | intro _ | split)

theorem Keeps.commitLoopN {s u : State} (h : Keeps s u) (i fuel : Nat) : Keeps s (u.commitLoopN i fuel) := by
  induction fuel generalizing u with
  | zero => exact h
  | succ fuel ih =>
    unfold State.commitLoopN
    split
    · exact h
    · exact Keeps.ite (ih (Keeps.commitEntry h _ _)) h

theorem Keeps.acqFlush {s u : State} (h : Keeps s u) (i : Nat) : Keeps s (u.acqFlush i) := by
  unfold State.acqFlush
  try dsimp only
  repeat' (first | with_reducible assumption | with_reducible apply Keeps.acqTake)

theorem Keeps.commitReady {s u : State} (h : Keeps s u) (i : Nat) : Keeps s (u.commitReady i) := by
  unfold State.commitReady
  try dsimp only
  repeat' (first | with_reducible assumption | with_reducible apply Keeps.acqFlush | with_reducible apply Keeps.commitLoopN)

/-! StreamOps. -/

theorem Keeps.updPath {s u : State} (h : Keeps s u) (i : Nat) (f : EnginePath → EnginePath) : Keeps s (u.updPath i f) := by
  unfold State.updPath
  try dsimp only
  repeat' (first | with_reducible assumption | with_reducible apply Keeps.updStr)

theorem Keeps.flowMark {s u : State} (h : Keeps s u) (i : Nat) : Keeps s (u.flowMark i) := by
  unfold State.flowMark
  try dsimp only
  repeat' (first | with_reducible assumption | with_reducible apply Keeps.set | with_reducible apply Keeps.ite)

theorem Keeps.setLevel {s u : State} (h : Keeps s u) (i : Nat) : Keeps s (u.setLevel i) := by
  unfold State.setLevel
  try dsimp only
  repeat' (first | with_reducible assumption | with_reducible apply Keeps.set | with_reducible apply Keeps.flowMark |
      with_reducible apply Keeps.ite)

theorem Keeps.consume {s u : State} (h : Keeps s u) (i : Nat) (seg : Nat) (off : Nat) (n : Nat) : Keeps s (u.consume i seg off n) := by
  unfold State.consume
  try dsimp only
  repeat' (first | with_reducible assumption | with_reducible apply Keeps.setLevel | with_reducible apply Keeps.updStr |
      with_reducible apply Keeps.ite)

theorem Keeps.pathAt {s u : State} (h : Keeps s u) (i : Nat) (p : Pos) (req : Nat) (calls : List Pos) (loops : List LoopRec) : Keeps s
    (u.pathAt i p req calls loops) := by
  unfold State.pathAt
  try dsimp only
  repeat' (first | with_reducible assumption | with_reducible apply Keeps.updPath)

theorem Keeps.engineTurn {s u : State} (h : Keeps s u) (i : Nat) (seg : Nat) (end_ : Nat) (p : Pos) (calls : List Pos) (loops : List
    LoopRec) : Keeps s (u.engineTurn i seg end_ p calls loops) := by
  unfold State.engineTurn
  try dsimp only
  repeat' (first | with_reducible assumption | with_reducible apply Keeps.updStr | with_reducible apply Keeps.setLevel |
      with_reducible apply Keeps.pathAt)

theorem Keeps.engineRestart {s u : State} (h : Keeps s u) (i : Nat) (dec : Option Nat) : Keeps s (u.engineRestart i dec) := by
  unfold State.engineRestart
  try dsimp only
  repeat' (first | with_reducible assumption | with_reducible apply Keeps.updStr | with_reducible apply Keeps.setLevel |
      with_reducible apply Keeps.pathAt)

theorem Keeps.releaseAlt {s u : State} (h : Keeps s u) (i : Nat) (dec : Nat) : Keeps s (u.releaseAlt i dec) := by
  unfold State.releaseAlt
  try dsimp only
  repeat' (first | with_reducible assumption | with_reducible apply Keeps.setLevel | with_reducible apply Keeps.updStr)

theorem Keeps.engineSync {s u : State} (h : Keeps s u) (i : Nat) (p : Pos) : Keeps s (u.engineSync i p) := by
  unfold State.engineSync
  try dsimp only
  repeat' (first | with_reducible assumption | with_reducible apply Keeps.engineRestart | with_reducible apply Keeps.ite)

theorem Keeps.cacheRelease {s u : State} (h : Keeps s u) (i : Nat) : Keeps s (u.cacheRelease i) := by
  unfold State.cacheRelease
  try dsimp only
  repeat' (first | with_reducible assumption | with_reducible apply Keeps.updStr)

theorem Keeps.cacheCapture {s u : State} (h : Keeps s u) (i : Nat) (p : Pos) (h0 : Header) (n : Nat) : Keeps s (u.cacheCapture i p h0 n) :=
    by
  unfold State.cacheCapture
  try dsimp only
  repeat' (first | with_reducible assumption | with_reducible apply Keeps.raiseIf | with_reducible apply Keeps.flag |
      with_reducible apply Keeps.updStr | with_reducible apply Keeps.portAFill | with_reducible apply Keeps.portATouch |
      with_reducible apply Keeps.ite | with_reducible refine Keeps.foldl ?_ (fun _ _ _ => ?_) |
      with_reducible refine Keeps.foldl1 ?_ (fun _ _ _ => ?_) | with_reducible apply Keeps.ite1 | intro _ | split)

theorem Keeps.engineStep {s u : State} (h : Keeps s u) (i : Nat) (p : Pos) (h0 : Header) (n : Nat) : Keeps s (u.engineStep i p h0 n) := by
  unfold State.engineStep
  try dsimp only
  repeat' (first | with_reducible assumption | with_reducible apply Keeps.engineTurn | with_reducible apply Keeps.updPath |
      with_reducible apply Keeps.ite | with_reducible refine Keeps.foldl ?_ (fun _ _ _ => ?_) |
      with_reducible refine Keeps.foldl1 ?_ (fun _ _ _ => ?_) | with_reducible apply Keeps.ite1 | intro _ | split)

theorem Keeps.engineDecode {s u : State} (h : Keeps s u) (i fuel : Nat) : Keeps s (u.engineDecode i fuel) := by
  induction fuel generalizing u with
  | zero => exact h
  | succ fuel ih =>
    unfold State.engineDecode
    dsimp only
    exact Keeps.ite h (Keeps.ite h (ih (Keeps.engineStep (Keeps.ite h (Keeps.cacheCapture h _ _ _ _)) _ _ _ _)))

end Sys2Proof.Machine
end

