-- ==== Sys2Proof/Laws/KeepsPlay.lean ====
section
/-! SUPPORT. `Keeps` of every operation: what the sequencer, the transaction engine and the pins in play keep. -/
namespace Sys2Proof.Machine

/-! Sequencer. -/

theorem Keeps.updSeq {s u : State} (h : Keeps s u) (i : Nat) (f : SeqState → SeqState) : Keeps s (u.updSeq i f) := by
  unfold State.updSeq
  try dsimp only
  repeat' (first | with_reducible assumption | with_reducible apply Keeps.updSite)

theorem Keeps.pushLane {s u : State} (h : Keeps s u) (i : Nat) (a1 : LaneItem) : Keeps s (u.pushLane i a1) := by
  unfold State.pushLane
  try dsimp only
  repeat' (first | with_reducible assumption | with_reducible apply Keeps.updSite)

theorem Keeps.seqStat {s u : State} (h : Keeps s u) (i : Nat) : Keeps s (u.seqStat i) := by
  unfold State.seqStat
  try dsimp only
  repeat' (first | with_reducible assumption | with_reducible apply Keeps.set)

theorem Keeps.applyLeaves {s u : State} (h : Keeps s u) (i : Nat) : Keeps s (u.applyLeaves i) := by
  unfold State.applyLeaves
  try dsimp only
  repeat' (first | with_reducible assumption | with_reducible apply Keeps.updSpec | with_reducible apply Keeps.deactivate |
      with_reducible apply Keeps.ite | with_reducible refine Keeps.foldl ?_ (fun _ _ _ => ?_))

theorem Keeps.leave {s u : State} (h : Keeps s u) (i : Nat) (id : Nat) : Keeps s (u.leave i id) := by
  unfold State.leave
  try dsimp only
  repeat' (first | with_reducible assumption | with_reducible apply Keeps.applyLeaves | with_reducible apply Keeps.updSpec)

theorem Keeps.seqGo {s u : State} (h : Keeps s u) (i : Nat) (p : Pos) (reentry : Bool) : Keeps s (u.seqGo i p reentry) := by
  unfold State.seqGo
  try dsimp only
  repeat' (first | with_reducible assumption | with_reducible apply Keeps.seqStat | with_reducible apply Keeps.updSeq)

theorem Keeps.takePath {s u : State} (h : Keeps s u) (i : Nat) (a : AltPath) : Keeps s (u.takePath i a) := by
  unfold State.takePath
  try dsimp only
  repeat' (first | with_reducible assumption | with_reducible apply Keeps.seqStat | with_reducible apply Keeps.updSeq |
      with_reducible apply Keeps.endPath | with_reducible apply Keeps.ite | with_reducible refine Keeps.foldl ?_ (fun _ _ _ => ?_) |
      with_reducible refine Keeps.foldl1 ?_ (fun _ _ _ => ?_) | with_reducible apply Keeps.ite1 | intro _ | split)

theorem Keeps.seqCont {s u : State} (h : Keeps s u) (i : Nat) (b : Block) : Keeps s (u.seqCont i b) := by
  unfold State.seqCont
  try dsimp only
  repeat' (first | with_reducible assumption | with_reducible apply Keeps.takePath)

theorem Keeps.checkTarget {s u : State} (h : Keeps s u) (i : Nat) (p : Pos) : Keeps s (u.checkTarget i p) := by
  unfold State.checkTarget
  try dsimp only
  repeat' (first | with_reducible assumption | with_reducible apply Keeps.updBurst | with_reducible apply Keeps.ite)

theorem Keeps.seqDone {s u : State} (h : Keeps s u) (i : Nat) (e : EndRec) : Keeps s (u.seqDone i e) := by
  unfold State.seqDone
  try dsimp only
  repeat' (first | with_reducible assumption | with_reducible apply Keeps.endPath | with_reducible apply Keeps.updSeq)

theorem Keeps.enterSeg {s u : State} (h : Keeps s u) (i : Nat) (id : Nat) (isCall : Bool) : Keeps s (u.enterSeg i id isCall) := by
  unfold State.enterSeg
  try dsimp only
  repeat' (first | with_reducible assumption | with_reducible apply Keeps.seqDone | with_reducible apply Keeps.seqGo |
      with_reducible apply Keeps.activate | with_reducible apply Keeps.engineRestart | with_reducible apply Keeps.leave |
      with_reducible apply Keeps.ite)

theorem Keeps.nameSeg {s u : State} (h : Keeps s u) (i : Nat) (b : Block) (isCall : Bool) : Keeps s (u.nameSeg i b isCall) := by
  unfold State.nameSeg
  try dsimp only
  repeat' (first | with_reducible assumption | with_reducible apply Keeps.seqDone | with_reducible apply Keeps.updSeq |
      with_reducible apply Keeps.enterSeg | with_reducible apply Keeps.ite)

theorem Keeps.updDec {s u : State} (h : Keeps s u) (i : Nat) (id : Nat) (f : Decision → Decision) : Keeps s (u.updDec i id f) := by
  unfold State.updDec
  try dsimp only
  repeat' (first | with_reducible assumption | with_reducible apply Keeps.updSpec)

theorem Keeps.decide_ {s u : State} (h : Keeps s u) (i : Nat) (b : Block) (taken : Bool) (alt : AltPath) : Keeps s (u.decide_ i b taken alt)
    := by
  unfold State.decide_
  try dsimp only
  repeat' (first | with_reducible assumption | with_reducible apply Keeps.updDec | with_reducible apply Keeps.ite |
      with_reducible refine Keeps.foldl ?_ (fun _ _ _ => ?_) | with_reducible refine Keeps.foldl1 ?_ (fun _ _ _ => ?_) |
      with_reducible apply Keeps.ite1 | intro _ | split)

theorem Keeps.loopEnd {s u : State} (h : Keeps s u) (i : Nat) (l : LoopEnd) : Keeps s (u.loopEnd i l) := by
  unfold State.loopEnd
  try dsimp only
  repeat' (first | with_reducible assumption | with_reducible apply Keeps.updSpec)

theorem Keeps.replay {s u : State} (h : Keeps s u) (i : Nat) (b : Block) : Keeps s (u.replay i b) := by
  unfold State.replay
  try dsimp only
  repeat' (first | with_reducible assumption | with_reducible apply Keeps.updSeq)

theorem Keeps.opCont {s u : State} (h : Keeps s u) (i : Nat) (b : Block) : Keeps s (u.opCont i b) := by
  unfold State.opCont
  try dsimp only
  repeat' (first | with_reducible assumption | with_reducible apply Keeps.seqCont)

theorem Keeps.opRpt {s u : State} (h : Keeps s u) (i : Nat) (b : Block) : Keeps s (u.opRpt i b) := by
  unfold State.opRpt
  try dsimp only
  repeat' (first | with_reducible assumption | with_reducible apply Keeps.replay | with_reducible apply Keeps.seqCont |
      with_reducible apply Keeps.ite)

theorem Keeps.opLbeg {s u : State} (h : Keeps s u) (i : Nat) (b : Block) : Keeps s (u.opLbeg i b) := by
  unfold State.opLbeg
  try dsimp only
  repeat' (first | with_reducible assumption | with_reducible apply Keeps.seqCont | with_reducible apply Keeps.seqDone |
      with_reducible apply Keeps.updSeq | with_reducible apply Keeps.ite)

theorem Keeps.opLend {s u : State} (h : Keeps s u) (i : Nat) (b : Block) : Keeps s (u.opLend i b) := by
  unfold State.opLend
  try dsimp only
  repeat' (first | with_reducible assumption | with_reducible apply Keeps.seqDone | with_reducible apply Keeps.updSeq |
      with_reducible apply Keeps.cacheRelease | with_reducible apply Keeps.seqCont | with_reducible apply Keeps.leave |
      with_reducible apply Keeps.seqGo | with_reducible apply Keeps.ite | with_reducible refine Keeps.foldl ?_ (fun _ _ _ => ?_) |
      with_reducible refine Keeps.foldl1 ?_ (fun _ _ _ => ?_) | with_reducible apply Keeps.ite1 | intro _ | split)

theorem Keeps.opMloop {s u : State} (h : Keeps s u) (i : Nat) (b : Block) : Keeps s (u.opMloop i b) := by
  unfold State.opMloop
  try dsimp only
  repeat' (first | with_reducible assumption | with_reducible apply Keeps.replay | with_reducible apply Keeps.seqCont |
      with_reducible apply Keeps.seqDone | with_reducible apply Keeps.loopEnd | with_reducible apply Keeps.decide_ |
      with_reducible apply Keeps.ite)

theorem Keeps.opJmp {s u : State} (h : Keeps s u) (i : Nat) (b : Block) : Keeps s (u.opJmp i b) := by
  unfold State.opJmp
  try dsimp only
  repeat' (first | with_reducible assumption | with_reducible apply Keeps.seqGo | with_reducible apply Keeps.checkTarget |
      with_reducible apply Keeps.seqDone | with_reducible apply Keeps.ite | with_reducible refine Keeps.foldl ?_ (fun _ _ _ => ?_) |
      with_reducible refine Keeps.foldl1 ?_ (fun _ _ _ => ?_) | with_reducible apply Keeps.ite1 | intro _ | split)

theorem Keeps.opJc {s u : State} (h : Keeps s u) (i : Nat) (b : Block) : Keeps s (u.opJc i b) := by
  unfold State.opJc
  try dsimp only
  repeat' (first | with_reducible assumption | with_reducible apply Keeps.checkTarget | with_reducible apply Keeps.takePath |
      with_reducible apply Keeps.decide_ | with_reducible apply Keeps.ite)

theorem Keeps.opCall {s u : State} (h : Keeps s u) (i : Nat) (b : Block) : Keeps s (u.opCall i b) := by
  unfold State.opCall
  try dsimp only
  repeat' (first | with_reducible assumption | with_reducible apply Keeps.seqDone | with_reducible apply Keeps.nameSeg |
      with_reducible apply Keeps.seqStat | with_reducible apply Keeps.updSeq | with_reducible apply Keeps.ite)

theorem Keeps.opRet {s u : State} (h : Keeps s u) (i : Nat) (b : Block) : Keeps s (u.opRet i b) := by
  unfold State.opRet
  try dsimp only
  repeat' (first | with_reducible assumption | with_reducible apply Keeps.seqDone | with_reducible apply Keeps.updSeq |
      with_reducible apply Keeps.seqGo | with_reducible apply Keeps.leave | with_reducible apply Keeps.ite |
      with_reducible refine Keeps.foldl ?_ (fun _ _ _ => ?_) | with_reducible refine Keeps.foldl1 ?_ (fun _ _ _ => ?_) |
      with_reducible apply Keeps.ite1 | intro _ | split)

theorem Keeps.opHold {s u : State} (h : Keeps s u) (i : Nat) (b : Block) : Keeps s (u.opHold i b) := by
  unfold State.opHold
  try dsimp only
  repeat' (first | with_reducible assumption | with_reducible apply Keeps.seqCont | with_reducible apply Keeps.pushLane)

theorem Keeps.opNext {s u : State} (h : Keeps s u) (i : Nat) (b : Block) : Keeps s (u.opNext i b) := by
  unfold State.opNext
  try dsimp only
  repeat' (first | with_reducible assumption | with_reducible apply Keeps.nameSeg)

theorem Keeps.opLvl {s u : State} (h : Keeps s u) (i : Nat) (b : Block) : Keeps s (u.opLvl i b) := by
  unfold State.opLvl
  try dsimp only
  repeat' (first | with_reducible assumption | with_reducible apply Keeps.seqCont | with_reducible apply Keeps.pushLane)

theorem Keeps.opRetime {s u : State} (h : Keeps s u) (i : Nat) (b : Block) : Keeps s (u.opRetime i b) := by
  unfold State.opRetime
  try dsimp only
  repeat' (first | with_reducible assumption | with_reducible apply Keeps.seqCont | with_reducible apply Keeps.pushLane)

theorem Keeps.opSync {s u : State} (h : Keeps s u) (i : Nat) (b : Block) : Keeps s (u.opSync i b) := by
  unfold State.opSync
  try dsimp only
  repeat' (first | with_reducible assumption | with_reducible apply Keeps.seqCont | with_reducible apply Keeps.pushLane)

theorem Keeps.opWaitf {s u : State} (h : Keeps s u) (i : Nat) (b : Block) : Keeps s (u.opWaitf i b) := by
  unfold State.opWaitf
  try dsimp only
  repeat' (first | with_reducible assumption | with_reducible apply Keeps.seqCont | with_reducible apply Keeps.pushLane)

theorem Keeps.openDecision {s u : State} (h : Keeps s u) (i : Nat) (b : Block) (vid : Nat) : Keeps s (u.openDecision i b vid) := by
  unfold State.openDecision
  try dsimp only
  repeat' (first | with_reducible assumption | with_reducible apply Keeps.updSpec | with_reducible apply Keeps.updSeq |
      with_reducible apply Keeps.set | with_reducible apply Keeps.ite)

theorem Keeps.flowStop {s u : State} (h : Keeps s u) (i : Nat) : Keeps s (u.flowStop i) := by
  unfold State.flowStop
  try dsimp only
  repeat' (first | with_reducible assumption | with_reducible apply Keeps.set | with_reducible apply Keeps.pushLane)

theorem Keeps.flowTry {s u : State} (h : Keeps s u) (i : Nat) : Keeps s (u.flowTry i) := by
  unfold State.flowTry
  try dsimp only
  repeat' (first | with_reducible assumption | with_reducible apply Keeps.set | with_reducible apply Keeps.ite)

theorem Keeps.flowIssue {s u : State} (h : Keeps s u) (i : Nat) (pausePoint : Bool) : Keeps s (u.flowIssue i pausePoint) := by
  unfold State.flowIssue
  try dsimp only
  repeat' (first | with_reducible assumption | with_reducible apply Keeps.flowMark | with_reducible apply Keeps.flowStop |
      with_reducible apply Keeps.ite)

theorem Keeps.issueVec {s u : State} (h : Keeps s u) (i : Nat) (b0 : Block) (e : Ecc) : Keeps s (u.issueVec i b0 e) := by
  unfold State.issueVec
  try dsimp only
  repeat' (first | with_reducible assumption | with_reducible apply Keeps.segUpset | with_reducible apply Keeps.openDecision |
      with_reducible apply Keeps.flag | with_reducible apply Keeps.updSite | with_reducible apply Keeps.consume |
      with_reducible apply Keeps.specStat | with_reducible apply Keeps.flowIssue | with_reducible apply Keeps.laneFeed |
      with_reducible apply Keeps.ite)

theorem Keeps.stallNote {s u : State} (h : Keeps s u) (i : Nat) : Keeps s (u.stallNote i) := by
  unfold State.stallNote
  try dsimp only
  repeat' (first | with_reducible assumption | with_reducible apply Keeps.updSpec | with_reducible apply Keeps.raiseIf)

theorem Keeps.seqIssue {s u : State} (h : Keeps s u) (i : Nat) (e : Ecc) : Keeps s (u.seqIssue i e) := by
  unfold State.seqIssue
  try dsimp only
  repeat' (first | with_reducible assumption | with_reducible apply Keeps.flowTry | with_reducible apply Keeps.stallNote |
      with_reducible apply Keeps.engineSync | with_reducible apply Keeps.issueVec | with_reducible apply Keeps.ite |
      with_reducible refine Keeps.foldl ?_ (fun _ _ _ => ?_) | with_reducible refine Keeps.foldl1 ?_ (fun _ _ _ => ?_) |
      with_reducible apply Keeps.ite1 | intro _ | split)

theorem Keeps.decodeName {s u : State} (h : Keeps s u) (i : Nat) (h0 : Header) : Keeps s (u.decodeName i h0) := by
  unfold State.decodeName
  try dsimp only
  repeat' (first | with_reducible assumption | with_reducible apply Keeps.activate | with_reducible apply Keeps.ite)

theorem Keeps.decodeBlock {s u : State} (h : Keeps s u) (i : Nat) (e : Ecc) : Keeps s (u.decodeBlock i e) := by
  unfold State.decodeBlock
  try dsimp only
  repeat' (first | with_reducible assumption | with_reducible apply Keeps.segUpset | with_reducible apply Keeps.set |
      with_reducible apply Keeps.seqDone | with_reducible apply Keeps.segWordCheck | with_reducible apply Keeps.portATouch |
      with_reducible apply Keeps.updSeq | with_reducible apply Keeps.decodeName | with_reducible apply Keeps.consume |
      with_reducible apply Keeps.ite | with_reducible refine Keeps.foldl ?_ (fun _ _ _ => ?_) |
      with_reducible refine Keeps.foldl1 ?_ (fun _ _ _ => ?_) | with_reducible apply Keeps.ite1 | intro _ | split)

/-! Xe. -/

theorem Keeps.xeOnce {s u : State} (h : Keeps s u) (i : Nat) (code : Nat) (data : Nat) : Keeps s (u.xeOnce i code data) := by
  unfold State.xeOnce
  try dsimp only
  repeat' (first | with_reducible assumption | with_reducible apply Keeps.updXeSite | with_reducible apply Keeps.raise |
      with_reducible apply Keeps.ite)

theorem Keeps.portCheck {s u : State} (h : Keeps s u) (i : Nat) : Keeps s (u.portCheck i) := by
  unfold State.portCheck
  try dsimp only
  repeat' (first | with_reducible assumption | with_reducible apply Keeps.set | with_reducible apply Keeps.updXePort |
      with_reducible apply Keeps.xeOnce | with_reducible apply Keeps.flag | with_reducible apply Keeps.ite |
      with_reducible refine Keeps.foldl ?_ (fun _ _ _ => ?_))

theorem Keeps.handOver {s u : State} (h : Keeps s u) (i : Nat) (list : Nat) : Keeps s (u.handOver i list) := by
  unfold State.handOver
  try dsimp only
  repeat' (first | with_reducible assumption | with_reducible apply Keeps.checkRegion | with_reducible apply Keeps.updXeSite |
      with_reducible apply Keeps.set | with_reducible apply Keeps.portCheck | with_reducible apply Keeps.updSpec |
      with_reducible apply Keeps.setSiteSt)

theorem Keeps.deadTxn {s u : State} (h : Keeps s u) (i : Nat) (t : XeTxn) (status : Nat) : Keeps s (u.deadTxn i t status) := by
  unfold State.deadTxn
  try dsimp only
  repeat' (first | with_reducible assumption | with_reducible apply Keeps.updXe | with_reducible apply Keeps.updXePort |
      with_reducible apply Keeps.ite)

theorem Keeps.dispatch {s u : State} (h : Keeps s u) (i : Nat) : Keeps s (u.dispatch i) := by
  unfold State.dispatch
  try dsimp only
  repeat' (first | with_reducible assumption | with_reducible apply Keeps.updXeSite | with_reducible apply Keeps.checkRegion |
      with_reducible apply Keeps.deadTxn | with_reducible apply Keeps.portStat | with_reducible apply Keeps.updXePort |
      with_reducible apply Keeps.ite)

theorem Keeps.stepCheck {s u : State} (h : Keeps s u) (t : XeTxn) (k : Nat) : Keeps s (u.stepCheck t k) := by
  unfold State.stepCheck
  try dsimp only
  repeat' (first | with_reducible assumption | with_reducible apply Keeps.checkTable | with_reducible apply Keeps.ite)

theorem Keeps.endRun {s u : State} (h : Keeps s u) (n : Nat) (r : XeRun) (status : Nat) : Keeps s (u.endRun n r status) := by
  unfold State.endRun
  try dsimp only
  repeat' (first | with_reducible assumption | with_reducible apply Keeps.updRun | with_reducible apply Keeps.portStat |
      with_reducible apply Keeps.updXePort)

theorem Keeps.produce {s u : State} (h : Keeps s u) (n : Nat) (r : XeRun) (a2 : XeStep) (syms : List Nat) (caps : List (Nat × CapTo)) (next
    : XeRun → XeRun) : Keeps s (u.produce n r a2 syms caps next) := by
  unfold State.produce
  try dsimp only
  repeat' (first | with_reducible assumption | with_reducible apply Keeps.updRun | with_reducible apply Keeps.updXePort)

theorem Keeps.stepEmit {s u : State} (h : Keeps s u) (n : Nat) (r : XeRun) (a2 : XeStep) : Keeps s (u.stepEmit n r a2) := by
  unfold State.stepEmit
  try dsimp only
  repeat' (first | with_reducible assumption | with_reducible apply Keeps.produce)

theorem Keeps.doutCheck {s u : State} (h : Keeps s u) (r : XeRun) (n : Nat) : Keeps s (u.doutCheck r n) := by
  unfold State.doutCheck
  try dsimp only
  repeat' (first | with_reducible assumption | with_reducible apply Keeps.checkTable)

theorem Keeps.stepShift {s u : State} (h : Keeps s u) (n : Nat) (r : XeRun) (a2 : XeStep) : Keeps s (u.stepShift n r a2) := by
  unfold State.stepShift
  try dsimp only
  repeat' (first | with_reducible assumption | with_reducible apply Keeps.doutCheck | with_reducible apply Keeps.endRun |
      with_reducible apply Keeps.updRun | with_reducible apply Keeps.produce | with_reducible apply Keeps.ite)

theorem Keeps.stepLoop {s u : State} (h : Keeps s u) (r : XeRun) (a1 : XeStep) : Keeps s (u.stepLoop r a1) := by
  unfold State.stepLoop
  try dsimp only
  repeat' (first | with_reducible assumption | with_reducible apply Keeps.updRun)

theorem Keeps.stepBranch {s u : State} (h : Keeps s u) (n : Nat) (r : XeRun) (a2 : XeStep) : Keeps s (u.stepBranch n r a2) := by
  unfold State.stepBranch
  try dsimp only
  repeat' (first | with_reducible assumption | with_reducible apply Keeps.endRun | with_reducible apply Keeps.updRun |
      with_reducible apply Keeps.ite | with_reducible refine Keeps.foldl ?_ (fun _ _ _ => ?_) |
      with_reducible refine Keeps.foldl1 ?_ (fun _ _ _ => ?_) | with_reducible apply Keeps.ite1 | intro _ | split)

theorem Keeps.stepWait {s u : State} (h : Keeps s u) (r : XeRun) : Keeps s (u.stepWait r) := by
  unfold State.stepWait
  try dsimp only
  repeat' (first | with_reducible assumption | with_reducible apply Keeps.updRun | with_reducible apply Keeps.ite)

theorem Keeps.xeStep {s u : State} (h : Keeps s u) (n : Nat) : Keeps s (u.xeStep n) := by
  unfold State.xeStep
  try dsimp only
  repeat' (first | with_reducible assumption | with_reducible apply Keeps.stepCheck | with_reducible apply Keeps.updXe |
      with_reducible apply Keeps.count | with_reducible apply Keeps.endRun | with_reducible apply Keeps.stepEmit |
      with_reducible apply Keeps.stepShift | with_reducible apply Keeps.stepLoop | with_reducible apply Keeps.stepBranch |
      with_reducible apply Keeps.stepWait | with_reducible apply Keeps.ite | with_reducible refine Keeps.foldl ?_ (fun _ _ _ => ?_) |
      with_reducible refine Keeps.foldl1 ?_ (fun _ _ _ => ?_) | with_reducible apply Keeps.ite1 | intro _ | split)

theorem Keeps.xeStart {s u : State} (h : Keeps s u) (n : Nat) : Keeps s (u.xeStart n) := by
  unfold State.xeStart
  try dsimp only
  repeat' (first | with_reducible assumption | with_reducible apply Keeps.updXe | with_reducible apply Keeps.portStat |
      with_reducible apply Keeps.updXePort | with_reducible apply Keeps.ite | with_reducible refine Keeps.foldl ?_ (fun _ _ _ => ?_) |
      with_reducible refine Keeps.foldl1 ?_ (fun _ _ _ => ?_) | with_reducible apply Keeps.ite1 | intro _ | split)

theorem Keeps.xeSteps {s u : State} (h : Keeps s u) (n fuel : Nat) : Keeps s (u.xeSteps n fuel) := by
  induction fuel generalizing u with
  | zero => exact h
  | succ fuel ih =>
    unfold State.xeSteps
    exact Keeps.ite (ih (Keeps.xeStep (Keeps.xeStart h _) _)) h

theorem Keeps.xeVisit {s u : State} (h : Keeps s u) : Keeps s (u.xeVisit) := by
  unfold State.xeVisit
  try dsimp only
  repeat' (first | with_reducible assumption | with_reducible apply Keeps.xeSteps | with_reducible apply Keeps.updXe |
      with_reducible apply Keeps.ite | with_reducible refine Keeps.foldl ?_ (fun _ _ _ => ?_) |
      with_reducible refine Keeps.foldl1 ?_ (fun _ _ _ => ?_) | with_reducible apply Keeps.ite1 | intro _ | split)

theorem Keeps.xeKind {s u : State} (h : Keeps s u) (n op fuel : Nat) : Keeps s (u.xeKind n op fuel) := by
  induction fuel generalizing u with
  | zero => exact h
  | succ fuel ih =>
    unfold State.xeKind
    dsimp only
    have h0 : Keeps s (if u.xeEligible n = true then u.xeStart n else u) := Keeps.ite (Keeps.xeStart h _) h
    split
    · exact h
    · split
      · exact h
      · exact Keeps.ite h (Keeps.ite (ih (Keeps.xeStep h0 _)) (Keeps.xeStep h0 _))

theorem Keeps.xeSent {s u : State} (h : Keeps s u) (vid : Nat) (n : Nat) (v : XeVec) : Keeps s (u.xeSent vid n v) := by
  unfold State.xeSent
  try dsimp only
  repeat' (first | with_reducible assumption | with_reducible apply Keeps.updXePort | with_reducible apply Keeps.updRun |
      with_reducible apply Keeps.ite)

theorem Keeps.xeIssue {s u : State} (h : Keeps s u) (i : Nat) : Keeps s (u.xeIssue i) := by
  unfold State.xeIssue
  try dsimp only
  repeat' (first | with_reducible assumption | with_reducible apply Keeps.xeOnce | with_reducible apply Keeps.flag |
      with_reducible apply Keeps.updSite | with_reducible apply Keeps.xeSent | with_reducible apply Keeps.specStat |
      with_reducible apply Keeps.flowIssue | with_reducible apply Keeps.laneFeed | with_reducible apply Keeps.ite |
      with_reducible refine Keeps.foldl ?_ (fun _ _ _ => ?_) | with_reducible refine Keeps.foldl1 ?_ (fun _ _ _ => ?_) |
      with_reducible apply Keeps.ite1 | intro _ | split)

theorem Keeps.capReturn {s u : State} (h : Keeps s u) (num : Nat) (use : CapTo) (high : Bool) : Keeps s (u.capReturn num use high) := by
  unfold State.capReturn
  try dsimp only
  repeat' (first | with_reducible assumption | with_reducible apply Keeps.updRun | with_reducible apply Keeps.endRun |
      with_reducible apply Keeps.ite | with_reducible refine Keeps.foldl ?_ (fun _ _ _ => ?_) |
      with_reducible refine Keeps.foldl1 ?_ (fun _ _ _ => ?_) | with_reducible apply Keeps.ite1 | intro _ | split)

theorem Keeps.resPut {s u : State} (h : Keeps s u) (i : Nat) (tag : Nat) (bs : List Byte) : Keeps s (u.resPut i tag bs) := by
  unfold State.resPut
  try dsimp only
  repeat' (first | with_reducible assumption | with_reducible apply Keeps.flag | with_reducible apply Keeps.xeOnce |
      with_reducible apply Keeps.count | with_reducible apply Keeps.set | with_reducible apply Keeps.captPut |
      with_reducible apply Keeps.updXeSite | with_reducible apply Keeps.ite)

theorem Keeps.xeCommitRun {s u : State} (h : Keeps s u) (i : Nat) (r : XeRun) : Keeps s (u.xeCommitRun i r) := by
  unfold State.xeCommitRun
  try dsimp only
  repeat' (first | with_reducible assumption | with_reducible apply Keeps.checkTable | with_reducible apply Keeps.updXe |
      with_reducible apply Keeps.set | with_reducible apply Keeps.count | with_reducible apply Keeps.xeOnce |
      with_reducible apply Keeps.setFlag | with_reducible apply Keeps.updXeSite | with_reducible apply Keeps.resPut |
      with_reducible apply Keeps.ite | with_reducible refine Keeps.foldl ?_ (fun _ _ _ => ?_) |
      with_reducible refine Keeps.foldl1 ?_ (fun _ _ _ => ?_) | with_reducible apply Keeps.ite1 | intro _ | split)

theorem Keeps.xeCommit {s u : State} (h : Keeps s u) (i fuel : Nat) : Keeps s (u.xeCommit i fuel) := by
  induction fuel generalizing u with
  | zero => exact h
  | succ fuel ih =>
    unfold State.xeCommit
    split
    · exact h
    · exact Keeps.ite (ih (Keeps.xeCommitRun h _ _)) h

theorem Keeps.listEnd {s u : State} (h : Keeps s u) (i : Nat) : Keeps s (u.listEnd i) := by
  unfold State.listEnd
  try dsimp only
  repeat' (first | with_reducible assumption | with_reducible apply Keeps.set | with_reducible apply Keeps.endNow |
      with_reducible apply Keeps.updSpec | with_reducible apply Keeps.setSiteSt | with_reducible apply Keeps.seqCont |
      with_reducible apply Keeps.ite | with_reducible refine Keeps.foldl ?_ (fun _ _ _ => ?_) |
      with_reducible refine Keeps.foldl1 ?_ (fun _ _ _ => ?_) | with_reducible apply Keeps.ite1 | intro _ | split)

theorem Keeps.settle {s u : State} (h : Keeps s u) (i : Nat) : Keeps s (u.settle i) := by
  unfold State.settle
  try dsimp only
  repeat' (first | with_reducible assumption | with_reducible apply Keeps.commitReady | with_reducible apply Keeps.listEnd |
      with_reducible apply Keeps.xeCommit | with_reducible apply Keeps.ite)

/-! Opcodes. -/

theorem Keeps.opXact {s u : State} (h : Keeps s u) (i : Nat) (b : Block) : Keeps s (u.opXact i b) := by
  unfold State.opXact
  try dsimp only
  repeat' (first | with_reducible assumption | with_reducible apply Keeps.seqDone | with_reducible apply Keeps.raise |
      with_reducible apply Keeps.flag | with_reducible apply Keeps.settle | with_reducible apply Keeps.handOver |
      with_reducible apply Keeps.ite)

theorem Keeps.opFrame {s u : State} (h : Keeps s u) (i : Nat) (b : Block) : Keeps s (u.opFrame i b) := by
  unfold State.opFrame
  try dsimp only
  repeat' (first | with_reducible assumption | with_reducible apply Keeps.updSite | with_reducible apply Keeps.seqCont |
      with_reducible apply Keeps.flowIssue | with_reducible apply Keeps.laneFeed | with_reducible apply Keeps.consume)

theorem Keeps.carryOut {s u : State} (h : Keeps s u) (i : Nat) (b : Block) : Keeps s (u.carryOut i b) := by
  unfold State.carryOut
  try dsimp only
  repeat' (first | with_reducible assumption | with_reducible apply Keeps.opCont | with_reducible apply Keeps.opRpt |
      with_reducible apply Keeps.opLbeg | with_reducible apply Keeps.opLend | with_reducible apply Keeps.opMloop |
      with_reducible apply Keeps.opJmp | with_reducible apply Keeps.opJc | with_reducible apply Keeps.opCall |
      with_reducible apply Keeps.opRet | with_reducible apply Keeps.opHold | with_reducible apply Keeps.opNext |
      with_reducible apply Keeps.opLvl | with_reducible apply Keeps.opRetime | with_reducible apply Keeps.opFrame |
      with_reducible apply Keeps.opSync | with_reducible apply Keeps.opWaitf | with_reducible apply Keeps.opXact |
      with_reducible apply Keeps.seqDone | with_reducible apply Keeps.ite | with_reducible refine Keeps.foldl ?_ (fun _ _ _ => ?_) |
      with_reducible refine Keeps.foldl1 ?_ (fun _ _ _ => ?_) | with_reducible apply Keeps.ite1 | intro _ | split)

theorem Keeps.blockDecode {s u : State} (h : Keeps s u) (i : Nat) (e : Ecc) : Keeps s (u.blockDecode i e) := by
  unfold State.blockDecode
  try dsimp only
  repeat' (first | with_reducible assumption | with_reducible apply Keeps.flowTry | with_reducible apply Keeps.carryOut |
      with_reducible apply Keeps.decodeBlock | with_reducible apply Keeps.engineSync | with_reducible apply Keeps.ite |
      with_reducible refine Keeps.foldl ?_ (fun _ _ _ => ?_) | with_reducible refine Keeps.foldl1 ?_ (fun _ _ _ => ?_) |
      with_reducible apply Keeps.ite1 | intro _ | split)

theorem Keeps.opcodeRow {s u : State} (h : Keeps s u) (i opc : Nat) (f : State → Nat → Block → State)
    (hf : ∀ v b, Keeps s v → Keeps s (f v i b)) : Keeps s (u.opcodeRow i opc f) := by
  unfold State.opcodeRow
  refine Keeps.ite h ?_
  split
  · exact Keeps.ite (hf _ _ h) h
  · exact h

/-! Cycle. -/

theorem Keeps.updEntry {s u : State} (h : Keeps s u) (i : Nat) (id : Nat) (f : WinEntry → WinEntry) : Keeps s (u.updEntry i id f) := by
  unfold State.updEntry
  try dsimp only
  repeat' (first | with_reducible assumption | with_reducible apply Keeps.updSpec)

theorem Keeps.placeWord {s u : State} (h : Keeps s u) (i : Nat) (c : Nat) (per : Nat) (ts : Nat) (vec : Nat) (w : GroupWord) : Keeps s
    (u.placeWord i c per ts vec w).1 := by
  unfold State.placeWord
  try dsimp only
  repeat' (first | with_reducible assumption | with_reducible apply Keeps.ocmUe | with_reducible apply Keeps.placePin |
      with_reducible apply Keeps.ite | with_reducible refine Keeps.foldl ?_ (fun _ _ _ => ?_) |
      with_reducible refine Keeps.foldl1 ?_ (fun _ _ _ => ?_) | with_reducible apply Keeps.ite1 | intro _ | split)

theorem Keeps.placeCaps {s u : State} (h : Keeps s u) (c : Nat) (ts : Nat) (vec : Nat) (caps : List (Nat × Nat × CapTo)) : Keeps s
    (u.placeCaps c ts vec caps) := by
  unfold State.placeCaps
  try dsimp only
  repeat' (first | with_reducible assumption | with_reducible apply Keeps.updPin | with_reducible apply Keeps.ite |
      with_reducible refine Keeps.foldl ?_ (fun _ _ _ => ?_))

theorem Keeps.clockPeriod {s u : State} (h : Keeps s u) (i : Nat) (t : Nat) (per : Nat) : Keeps s (u.clockPeriod i t per) := by
  unfold State.clockPeriod
  try dsimp only
  repeat' (first | with_reducible assumption | with_reducible apply Keeps.updPin | with_reducible apply Keeps.ite |
      with_reducible refine Keeps.foldl ?_ (fun _ _ _ => ?_) | with_reducible refine Keeps.foldl1 ?_ (fun _ _ _ => ?_) |
      with_reducible apply Keeps.ite1 | intro _ | split)

theorem Keeps.undefVec {s u : State} (h : Keeps s u) (i : Nat) (vec : Nat) : Keeps s (u.undefVec i vec) := by
  unfold State.undefVec
  try dsimp only
  repeat' (first | with_reducible assumption | with_reducible apply Keeps.updPin | with_reducible apply Keeps.ite |
      with_reducible refine Keeps.foldl ?_ (fun _ _ _ => ?_))

theorem Keeps.setLane {s u : State} (h : Keeps s u) (i : Nat) (l : List LaneItem) : Keeps s (u.setLane i l) := by
  unfold State.setLane
  try dsimp only
  repeat' (first | with_reducible assumption | with_reducible apply Keeps.updSite)

theorem Keeps.playVec {s u : State} (h : Keeps s u) (i : Nat) (v : Vec) : Keeps s (u.playVec i v) := by
  unfold State.playVec
  try dsimp only
  repeat' (first | with_reducible assumption | with_reducible apply Keeps.updBurst | with_reducible apply Keeps.raise |
      with_reducible apply Keeps.undefVec | with_reducible apply Keeps.clockPeriod | with_reducible apply Keeps.placeWord |
      with_reducible apply Keeps.placeCaps | with_reducible apply Keeps.updEntry | with_reducible apply Keeps.updDec |
      with_reducible apply Keeps.setSiteSt | with_reducible apply Keeps.ite | with_reducible refine Keeps.foldl ?_ (fun _ _ _ => ?_) |
      with_reducible refine Keeps.foldl1 ?_ (fun _ _ _ => ?_) | with_reducible apply Keeps.ite1 | intro _ | split)

theorem Keeps.playHold {s u : State} (h : Keeps s u) (i : Nat) : Keeps s (u.playHold i) := by
  unfold State.playHold
  try dsimp only
  repeat' (first | with_reducible assumption | with_reducible apply Keeps.clockPeriod | with_reducible apply Keeps.placePin |
      with_reducible apply Keeps.setSiteSt | with_reducible apply Keeps.updBurst | with_reducible apply Keeps.ite |
      with_reducible refine Keeps.foldl ?_ (fun _ _ _ => ?_))

theorem Keeps.syncHold {s u : State} (h : Keeps s u) (i : Nat) : Keeps s (u.syncHold i) := by
  unfold State.syncHold
  try dsimp only
  repeat' (first | with_reducible assumption | with_reducible apply Keeps.playHold | with_reducible apply Keeps.setSiteSt |
      with_reducible apply Keeps.ite)

theorem Keeps.flowHold {s u : State} (h : Keeps s u) (i : Nat) : Keeps s (u.flowHold i) := by
  unfold State.flowHold
  try dsimp only
  repeat' (first | with_reducible assumption | with_reducible apply Keeps.taint | with_reducible apply Keeps.updBurst |
      with_reducible apply Keeps.count | with_reducible apply Keeps.updStr | with_reducible apply Keeps.raise |
      with_reducible apply Keeps.flag | with_reducible apply Keeps.playHold | with_reducible apply Keeps.ite)

theorem Keeps.laneLow {s u : State} (h : Keeps s u) (i : Nat) (before : Nat) : Keeps s (u.laneLow i before) := by
  unfold State.laneLow
  try dsimp only
  repeat' (first | with_reducible assumption | with_reducible apply Keeps.set | with_reducible apply Keeps.ite)

theorem Keeps.underrun {s u : State} (h : Keeps s u) (i : Nat) : Keeps s (u.underrun i) := by
  unfold State.underrun
  try dsimp only
  repeat' (first | with_reducible assumption | with_reducible apply Keeps.endNow | with_reducible apply Keeps.raise |
      with_reducible apply Keeps.taint)

theorem Keeps.refill {s u : State} (h : Keeps s u) (i : Nat) (id : Nat) (pause : Bool) : Keeps s (u.refill i id pause) := by
  unfold State.refill
  try dsimp only
  repeat' (first | with_reducible assumption | with_reducible apply Keeps.pushLane | with_reducible apply Keeps.set |
      with_reducible apply Keeps.raise | with_reducible apply Keeps.flag | with_reducible apply Keeps.flowHold |
      with_reducible apply Keeps.endPath | with_reducible apply Keeps.ite)

theorem Keeps.altMiss {s u : State} (h : Keeps s u) (i : Nat) : Keeps s (u.altMiss i) := by
  unfold State.altMiss
  try dsimp only
  repeat' (first | with_reducible assumption | with_reducible apply Keeps.raiseIf | with_reducible apply Keeps.flag |
      with_reducible apply Keeps.set | with_reducible apply Keeps.updStr | with_reducible apply Keeps.flowHold |
      with_reducible apply Keeps.pushLane | with_reducible apply Keeps.underrun | with_reducible apply Keeps.ite)

theorem Keeps.keepWhy {s u : State} (h : Keeps s u) (i : Nat) (w : HoldWhy) : Keeps s (u.keepWhy i w) := by
  unfold State.keepWhy
  try dsimp only
  repeat' (first | with_reducible assumption | with_reducible apply Keeps.updSpec)

theorem Keeps.stallHold {s u : State} (h : Keeps s u) (i : Nat) : Keeps s (u.stallHold i) := by
  unfold State.stallHold
  try dsimp only
  repeat' (first | with_reducible assumption | with_reducible apply Keeps.playHold | with_reducible apply Keeps.count)

theorem Keeps.xactEmpty {s u : State} (h : Keeps s u) (i : Nat) : Keeps s (u.xactEmpty i) := by
  unfold State.xactEmpty
  try dsimp only
  repeat' (first | with_reducible assumption | with_reducible apply Keeps.flowHold | with_reducible apply Keeps.playHold |
      with_reducible apply Keeps.stallHold | with_reducible apply Keeps.stallNote | with_reducible apply Keeps.underrun |
      with_reducible apply Keeps.ite | with_reducible refine Keeps.foldl ?_ (fun _ _ _ => ?_) |
      with_reducible refine Keeps.foldl1 ?_ (fun _ _ _ => ?_) | with_reducible apply Keeps.ite1 | intro _ | split)

theorem Keeps.laneEmpty {s u : State} (h : Keeps s u) (i : Nat) : Keeps s (u.laneEmpty i) := by
  unfold State.laneEmpty
  try dsimp only
  repeat' (first | with_reducible assumption | with_reducible apply Keeps.playHold | with_reducible apply Keeps.count |
      with_reducible apply Keeps.xactEmpty | with_reducible apply Keeps.underrun | with_reducible apply Keeps.altMiss |
      with_reducible apply Keeps.keepWhy | with_reducible apply Keeps.stallHold | with_reducible apply Keeps.stallNote |
      with_reducible apply Keeps.flowHold | with_reducible apply Keeps.refill | with_reducible apply Keeps.ite |
      with_reducible refine Keeps.foldl ?_ (fun _ _ _ => ?_) | with_reducible refine Keeps.foldl1 ?_ (fun _ _ _ => ?_) |
      with_reducible apply Keeps.ite1 | intro _ | split)

theorem Keeps.lvlApply {s u : State} (h : Keeps s u) (i : Nat) (l : Nat) (t : Nat) : Keeps s (u.lvlApply i l t) := by
  unfold State.lvlApply
  try dsimp only
  repeat' (first | with_reducible assumption | with_reducible apply Keeps.levelEnter | with_reducible apply Keeps.ite |
      with_reducible refine Keeps.foldl ?_ (fun _ _ _ => ?_))

theorem Keeps.retime {s u : State} (h : Keeps s u) (i : Nat) (per : Nat) : Keeps s (u.retime i per) := by
  unfold State.retime
  try dsimp only
  repeat' (first | with_reducible assumption | with_reducible apply Keeps.updBurst | with_reducible apply Keeps.clockPeriod)

theorem Keeps.frameStart {s u : State} (h : Keeps s u) (input : Nat) (n : Nat) (k : Nat) (req : Nat) (late : Bool) : Keeps s (u.frameStart
    input n k req late) := by
  unfold State.frameStart
  try dsimp only
  repeat' (first | with_reducible assumption | with_reducible apply Keeps.set | with_reducible apply Keeps.raise |
      with_reducible apply Keeps.flag | with_reducible apply Keeps.ite)

theorem Keeps.padClose {s u : State} (h : Keeps s u) (i : Nat) (input : Nat) (t0 : Nat) (t1 : Nat) : Keeps s (u.padClose i input t0 t1) :=
    by
  unfold State.padClose
  try dsimp only
  repeat' (first | with_reducible assumption | with_reducible apply Keeps.updBurst)

theorem Keeps.playPad {s u : State} (h : Keeps s u) (i : Nat) (input : Nat) (n : Nat) (v : Vec) (k : Nat) (t0 : Nat) (edge : Option Nat)
    (rest : List LaneItem) : Keeps s (u.playPad i input n v k t0 edge rest) := by
  unfold State.playPad
  try dsimp only
  repeat' (first | with_reducible assumption | with_reducible apply Keeps.updSpec | with_reducible apply Keeps.playVec |
      with_reducible apply Keeps.setLane | with_reducible apply Keeps.laneDraw | with_reducible apply Keeps.ite)

theorem Keeps.laneGo {s u : State} (h : Keeps s u) (i fuel : Nat) : Keeps s (u.laneGo i fuel) := by
  induction fuel generalizing u with
  | zero => exact h
  | succ fuel ih =>
    unfold State.laneGo
    dsimp only
    have he : Keeps s (u.endDue i) := Keeps.endDue h _
    generalize u.endDue i = v at he
    repeat' (first | with_reducible assumption | with_reducible apply ih | with_reducible apply Keeps.laneEmpty |
      with_reducible apply Keeps.laneLow | with_reducible apply Keeps.playVec | with_reducible apply Keeps.laneDraw |
      with_reducible apply Keeps.setLane | with_reducible apply Keeps.syncHold |
      with_reducible apply Keeps.lvlApply | with_reducible apply Keeps.retime | with_reducible apply Keeps.playHold |
      with_reducible apply Keeps.flowHold | with_reducible apply Keeps.frameStart | with_reducible apply Keeps.padClose |
      with_reducible apply Keeps.playPad | with_reducible apply Keeps.ite | split)

theorem Keeps.sampleEvents {s u : State} (h : Keeps s u) (i : Nat) (c : Nat) : Keeps s (u.sampleEvents i c) := by
  unfold State.sampleEvents
  try dsimp only
  repeat' (first | with_reducible assumption | with_reducible apply Keeps.updSpec)

theorem Keeps.vectorCycle {s u : State} (h : Keeps s u) (i : Nat) : Keeps s (u.vectorCycle i) := by
  unfold State.vectorCycle
  try dsimp only
  repeat' (first | with_reducible assumption | with_reducible apply Keeps.sampleEvents | with_reducible apply Keeps.at_ |
      with_reducible apply Keeps.endNow | with_reducible apply Keeps.settle | with_reducible apply Keeps.laneGo |
      with_reducible apply Keeps.ite | with_reducible refine Keeps.foldl ?_ (fun _ _ _ => ?_) |
      with_reducible refine Keeps.foldl1 ?_ (fun _ _ _ => ?_) | with_reducible apply Keeps.ite1 | intro _ | split)

/-! Play. -/

theorem Keeps.driveEdge {s u : State} (h : Keeps s u) (p : Nat) : Keeps s (u.driveEdge p) := by
  unfold State.driveEdge
  try dsimp only
  repeat' (first | with_reducible assumption | with_reducible apply Keeps.driveNext | with_reducible apply Keeps.at_ |
      with_reducible apply Keeps.ite | with_reducible refine Keeps.foldl ?_ (fun _ _ _ => ?_) |
      with_reducible refine Keeps.foldl1 ?_ (fun _ _ _ => ?_) | with_reducible apply Keeps.ite1 | intro _ | split)

theorem Keeps.toggleGo {s u : State} (h : Keeps s u) (p : Nat) : Keeps s (u.toggleGo p) := by
  unfold State.toggleGo
  try dsimp only
  repeat' (first | with_reducible assumption | with_reducible apply Keeps.clockToggle | with_reducible apply Keeps.ite |
      with_reducible refine Keeps.foldl ?_ (fun _ _ _ => ?_) | with_reducible refine Keeps.foldl1 ?_ (fun _ _ _ => ?_) |
      with_reducible apply Keeps.ite1 | intro _ | split)

theorem Keeps.pushResult {s u : State} (h : Keeps s u) (i : Nat) (p : Nat) (a2 : Strobe) (num : Nat) (fail : Bool) : Keeps s (u.pushResult i
    p a2 num fail) := by
  unfold State.pushResult
  try dsimp only
  repeat' (first | with_reducible assumption | with_reducible apply Keeps.updSpec | with_reducible apply Keeps.tickFresh |
      with_reducible apply Keeps.ite)

theorem Keeps.sample {s u : State} (h : Keeps s u) (i : Nat) (p : Nat) (a2 : Strobe) : Keeps s (u.sample i p a2) := by
  unfold State.sample
  try dsimp only
  repeat' (first | with_reducible assumption | with_reducible apply Keeps.updPin | with_reducible apply Keeps.pushResult |
      with_reducible apply Keeps.updXe | with_reducible apply Keeps.tickFresh | with_reducible apply Keeps.ite |
      with_reducible refine Keeps.foldl ?_ (fun _ _ _ => ?_) | with_reducible refine Keeps.foldl1 ?_ (fun _ _ _ => ?_) |
      with_reducible apply Keeps.ite1 | intro _ | split)

theorem Keeps.strobeSample {s u : State} (h : Keeps s u) (p : Nat) : Keeps s (u.strobeSample p) := by
  unfold State.strobeSample
  try dsimp only
  repeat' (first | with_reducible assumption | with_reducible apply Keeps.sample | with_reducible apply Keeps.at_ |
      with_reducible apply Keeps.ite | with_reducible refine Keeps.foldl ?_ (fun _ _ _ => ?_) |
      with_reducible refine Keeps.foldl1 ?_ (fun _ _ _ => ?_) | with_reducible apply Keeps.ite1 | intro _ | split)

theorem Keeps.takeResults {s u : State} (h : Keeps s u) (i : Nat) (vec : Nat) (rs : List StrobeResult) : Keeps s (u.takeResults i vec rs) :=
    by
  unfold State.takeResults
  try dsimp only
  repeat' (first | with_reducible assumption | with_reducible apply Keeps.updEntry | with_reducible apply Keeps.updDec |
      with_reducible apply Keeps.ite | with_reducible refine Keeps.foldl ?_ (fun _ _ _ => ?_) |
      with_reducible refine Keeps.foldl1 ?_ (fun _ _ _ => ?_) | with_reducible apply Keeps.ite1 | intro _ | split)

theorem Keeps.resultReturn {s u : State} (h : Keeps s u) (i : Nat) (parity : Bool) : Keeps s (u.resultReturn i parity) := by
  unfold State.resultReturn
  try dsimp only
  repeat' (first | with_reducible assumption | with_reducible apply Keeps.updSpec | with_reducible apply Keeps.updBurst |
      with_reducible apply Keeps.raiseIf | with_reducible apply Keeps.taint | with_reducible apply Keeps.settle |
      with_reducible apply Keeps.takeResults | with_reducible apply Keeps.ite | with_reducible refine Keeps.foldl ?_ (fun _ _ _ => ?_) |
      with_reducible refine Keeps.foldl1 ?_ (fun _ _ _ => ?_) | with_reducible apply Keeps.ite1 | intro _ | split)

theorem Keeps.decisionStat {s u : State} (h : Keeps s u) (i : Nat) (last : Nat) (mis : Bool) : Keeps s (u.decisionStat i last mis) := by
  unfold State.decisionStat
  try dsimp only
  repeat' (first | with_reducible assumption | with_reducible apply Keeps.count | with_reducible apply Keeps.set |
      with_reducible apply Keeps.updSpec | with_reducible apply Keeps.ite)

theorem Keeps.loopDone {s u : State} (h : Keeps s u) (i : Nat) (vec : Nat) (l : LoopEnd) : Keeps s (u.loopDone i vec l) := by
  unfold State.loopDone
  try dsimp only
  repeat' (first | with_reducible assumption | with_reducible apply Keeps.updEntry | with_reducible apply Keeps.commitLoop |
      with_reducible apply Keeps.ite)

theorem Keeps.resolveAs {s u : State} (h : Keeps s u) (i : Nat) (d : Decision) : Keeps s (u.resolveAs i d) := by
  unfold State.resolveAs
  try dsimp only
  repeat' (first | with_reducible assumption | with_reducible apply Keeps.releaseAlt | with_reducible apply Keeps.updSpec |
      with_reducible apply Keeps.loopDone | with_reducible apply Keeps.keepWhy | with_reducible apply Keeps.endDue |
      with_reducible apply Keeps.ite)

theorem Keeps.checkAlt {s u : State} (h : Keeps s u) (i : Nat) (d : Decision) : Keeps s (u.checkAlt i d) := by
  unfold State.checkAlt
  try dsimp only
  repeat' (first | with_reducible assumption | with_reducible apply Keeps.checkTarget | with_reducible apply Keeps.ite |
      with_reducible refine Keeps.foldl ?_ (fun _ _ _ => ?_) | with_reducible refine Keeps.foldl1 ?_ (fun _ _ _ => ?_) |
      with_reducible apply Keeps.ite1 | intro _ | split)

theorem Keeps.resolveOther {s u : State} (h : Keeps s u) (i : Nat) (d : Decision) : Keeps s (u.resolveOther i d) := by
  unfold State.resolveOther
  try dsimp only
  repeat' (first | with_reducible assumption | with_reducible apply Keeps.overrun | with_reducible apply Keeps.updSite |
      with_reducible apply Keeps.set | with_reducible apply Keeps.loopDone | with_reducible apply Keeps.updSpec |
      with_reducible apply Keeps.raise | with_reducible apply Keeps.seqStat | with_reducible apply Keeps.updSeq |
      with_reducible apply Keeps.takePath | with_reducible apply Keeps.checkAlt | with_reducible apply Keeps.engineRestart |
      with_reducible apply Keeps.ite | with_reducible refine Keeps.foldl ?_ (fun _ _ _ => ?_) |
      with_reducible refine Keeps.foldl1 ?_ (fun _ _ _ => ?_) | with_reducible apply Keeps.ite1 | intro _ | split)

theorem Keeps.decisionResolve {s u : State} (h : Keeps s u) (i : Nat) : Keeps s (u.decisionResolve i) := by
  unfold State.decisionResolve
  try dsimp only
  repeat' (first | with_reducible assumption | with_reducible apply Keeps.at_ | with_reducible apply Keeps.decisionStat |
      with_reducible apply Keeps.resolveAs | with_reducible apply Keeps.resolveOther | with_reducible apply Keeps.keepWhy |
      with_reducible apply Keeps.settle | with_reducible apply Keeps.specStat | with_reducible apply Keeps.applyLeaves |
      with_reducible apply Keeps.ite | with_reducible refine Keeps.foldl ?_ (fun _ _ _ => ?_) |
      with_reducible refine Keeps.foldl1 ?_ (fun _ _ _ => ?_) | with_reducible apply Keeps.ite1 | intro _ | split)

theorem Keeps.dropStrobe {s u : State} (h : Keeps s u) (i : Nat) (a1 : Strobe) : Keeps s (u.dropStrobe i a1) := by
  unfold State.dropStrobe
  try dsimp only
  repeat' (first | with_reducible assumption | with_reducible apply Keeps.updXe | with_reducible apply Keeps.tickFresh |
      with_reducible apply Keeps.updEntry | with_reducible apply Keeps.updDec | with_reducible apply Keeps.ite |
      with_reducible refine Keeps.foldl ?_ (fun _ _ _ => ?_) | with_reducible refine Keeps.foldl1 ?_ (fun _ _ _ => ?_) |
      with_reducible apply Keeps.ite1 | intro _ | split)

theorem Keeps.idleApply {s u : State} (h : Keeps s u) (i : Nat) (p : Nat) : Keeps s (u.idleApply i p) := by
  unfold State.idleApply
  try dsimp only
  repeat' (first | with_reducible assumption | with_reducible apply Keeps.dropStrobe | with_reducible apply Keeps.at_ |
      with_reducible apply Keeps.updPin | with_reducible apply Keeps.settle | with_reducible apply Keeps.clockStop |
      with_reducible apply Keeps.applyIdle | with_reducible apply Keeps.ite | with_reducible refine Keeps.foldl ?_ (fun _ _ _ => ?_))

theorem Keeps.holdCountEnd {s u : State} (h : Keeps s u) (i : Nat) : Keeps s (u.holdCountEnd i) := by
  unfold State.holdCountEnd
  try dsimp only
  repeat' (first | with_reducible assumption | with_reducible apply Keeps.setLane | with_reducible apply Keeps.at_ |
      with_reducible apply Keeps.ite | with_reducible refine Keeps.foldl ?_ (fun _ _ _ => ?_) |
      with_reducible refine Keeps.foldl1 ?_ (fun _ _ _ => ?_) | with_reducible apply Keeps.ite1 | intro _ | split)

theorem Keeps.seqResume {s u : State} (h : Keeps s u) (i : Nat) : Keeps s (u.seqResume i) := by
  unfold State.seqResume
  try dsimp only
  repeat' (first | with_reducible assumption | with_reducible apply Keeps.setLane | with_reducible apply Keeps.ite |
      with_reducible refine Keeps.foldl ?_ (fun _ _ _ => ?_) | with_reducible refine Keeps.foldl1 ?_ (fun _ _ _ => ?_) |
      with_reducible apply Keeps.ite1 | intro _ | split)

/-! PinRegs. -/

theorem Keeps.regPut {s u : State} (h : Keeps s u) (o : Origin) (quiet : Bool) (a : Nat) (v : Word) : Keeps s (u.regPut o quiet a v) := by
  unfold State.regPut
  try dsimp only
  repeat' (first | with_reducible assumption | with_reducible apply Keeps.regWriteQuiet | with_reducible apply Keeps.regWrite |
      with_reducible apply Keeps.ite)

theorem Keeps.pinIdleWrite {s u : State} (h : Keeps s u) (o : Origin) (quiet : Bool) (p : Nat) (v : Word) : Keeps s (u.pinIdleWrite o quiet
    p v) := by
  unfold State.pinIdleWrite
  try dsimp only
  repeat' (first | with_reducible assumption | with_reducible apply Keeps.regPut | with_reducible apply Keeps.applyIdle |
      with_reducible apply Keeps.ite)

theorem Keeps.refusedWrite {s u : State} (h : Keeps s u) (o : Origin) (a : Nat) (v : Word) : Keeps s (u.refusedWrite o a v) := by
  unfold State.refusedWrite
  try dsimp only
  repeat' (first | with_reducible assumption | with_reducible apply Keeps.auditRefused | with_reducible apply Keeps.ite |
      with_reducible refine Keeps.foldl ?_ (fun _ _ _ => ?_) | with_reducible refine Keeps.foldl1 ?_ (fun _ _ _ => ?_) |
      with_reducible apply Keeps.ite1 | intro _ | split)

theorem Keeps.idleWrite {s u : State} (h : Keeps s u) (o : Origin) (quiet : Bool) (a : Nat) (v : Word) (free : Bool) (busy : Fld) : Keeps s
    (u.idleWrite o quiet a v free busy) := by
  unfold State.idleWrite
  try dsimp only
  repeat' (first | with_reducible assumption | with_reducible apply Keeps.regPut | with_reducible apply Keeps.flagIf |
      with_reducible apply Keeps.refusedWrite | with_reducible apply Keeps.ite)

theorem Keeps.clkWrite {s u : State} (h : Keeps s u) (o : Origin) (quiet : Bool) (p : Nat) (off : Nat) (v : Word) : Keeps s (u.clkWrite o
    quiet p off v) := by
  unfold State.clkWrite
  try dsimp only
  repeat' (first | with_reducible assumption | with_reducible apply Keeps.idleWrite)

theorem Keeps.tstatWrite {s u : State} (h : Keeps s u) (o : Origin) (quiet : Bool) (p : Nat) (v : Word) : Keeps s (u.tstatWrite o quiet p v)
    := by
  unfold State.tstatWrite
  try dsimp only
  repeat' (first | with_reducible assumption | with_reducible apply Keeps.regPut | with_reducible apply Keeps.set |
      with_reducible apply Keeps.ite)

theorem Keeps.tableWrite {s u : State} (h : Keeps s u) (o : Origin) (quiet : Bool) (p : Nat) (off : Nat) (v : Word) : Keeps s (u.tableWrite
    o quiet p off v) := by
  unfold State.tableWrite
  try dsimp only
  repeat' (first | with_reducible assumption | with_reducible apply Keeps.regPut | with_reducible apply Keeps.updPin |
      with_reducible apply Keeps.ite | with_reducible refine Keeps.foldl ?_ (fun _ _ _ => ?_) |
      with_reducible refine Keeps.foldl1 ?_ (fun _ _ _ => ?_) | with_reducible apply Keeps.ite1 | intro _ | split)

theorem Keeps.clampWrite {s u : State} (h : Keeps s u) (o : Origin) (quiet : Bool) (p : Nat) (v : Word) : Keeps s (u.clampWrite o quiet p v)
    := by
  unfold State.clampWrite
  try dsimp only
  repeat' (first | with_reducible assumption | with_reducible apply Keeps.regWriteQuiet | with_reducible apply Keeps.auditChange |
      with_reducible apply Keeps.updPin | with_reducible apply Keeps.ite | with_reducible refine Keeps.foldl ?_ (fun _ _ _ => ?_) |
      with_reducible refine Keeps.foldl1 ?_ (fun _ _ _ => ?_) | with_reducible apply Keeps.ite1 | intro _ | split)

theorem Keeps.levelCmd {s u : State} (h : Keeps s u) (p : Nat) (v : Word) : Keeps s (u.levelCmd p v) := by
  unfold State.levelCmd
  try dsimp only
  repeat' (first | with_reducible assumption | with_reducible apply Keeps.levelEnter | with_reducible apply Keeps.ite)

theorem Keeps.lvlCfgWrite {s u : State} (h : Keeps s u) (o : Origin) (quiet : Bool) (p : Nat) (v : Word) : Keeps s (u.lvlCfgWrite o quiet p
    v) := by
  unfold State.lvlCfgWrite
  try dsimp only
  repeat' (first | with_reducible assumption | with_reducible apply Keeps.updPin | with_reducible apply Keeps.regPut)

theorem Keeps.festatWrite {s u : State} (h : Keeps s u) (o : Origin) (quiet : Bool) (p : Nat) (v : Word) : Keeps s (u.festatWrite o quiet p
    v) := by
  unfold State.festatWrite
  try dsimp only
  repeat' (first | with_reducible assumption | with_reducible apply Keeps.regPut | with_reducible apply Keeps.updPin |
      with_reducible apply Keeps.set | with_reducible apply Keeps.flag | with_reducible apply Keeps.ite)

theorem Keeps.tdcCmd {s u : State} (h : Keeps s u) (p : Nat) (v : Word) : Keeps s (u.tdcCmd p v) := by
  unfold State.tdcCmd
  try dsimp only
  repeat' (first | with_reducible assumption | with_reducible apply Keeps.flag | with_reducible apply Keeps.tdcCancel |
      with_reducible apply Keeps.tdcArm | with_reducible apply Keeps.ite)

theorem Keeps.pinEffect {s u : State} (h : Keeps s u) (o : Origin) (quiet : Bool) (p : Nat) (off : Nat) (v : Word) : Keeps s (u.pinEffect o
    quiet p off v) := by
  unfold State.pinEffect
  try dsimp only
  repeat' (first | with_reducible assumption | with_reducible apply Keeps.pinIdleWrite | with_reducible apply Keeps.clkWrite |
      with_reducible apply Keeps.tstatWrite | with_reducible apply Keeps.tableWrite | with_reducible apply Keeps.clampWrite |
      with_reducible apply Keeps.lvlCfgWrite | with_reducible apply Keeps.levelCmd | with_reducible apply Keeps.festatWrite |
      with_reducible apply Keeps.closeDue | with_reducible apply Keeps.tdcCmd | with_reducible apply Keeps.regPut |
      with_reducible apply Keeps.ite)

theorem Keeps.pinWrite {s u : State} (h : Keeps s u) (o : Origin) (quiet : Bool) (p : Nat) (off : Nat) (v : Word) : Keeps s (u.pinWrite o
    quiet p off v) := by
  unfold State.pinWrite
  try dsimp only
  repeat' (first | with_reducible assumption | with_reducible apply Keeps.pinEffect | with_reducible apply Keeps.updCal |
      with_reducible apply Keeps.ite | with_reducible refine Keeps.foldl ?_ (fun _ _ _ => ?_) |
      with_reducible refine Keeps.foldl1 ?_ (fun _ _ _ => ?_) | with_reducible apply Keeps.ite1 | intro _ | split)

theorem Keeps.levelSample {s u : State} (h : Keeps s u) (volts : List (Nat × Int)) (amps : List (Nat × Nat)) : Keeps s (u.levelSample volts
    amps) := by
  unfold State.levelSample
  try dsimp only
  repeat' (first | with_reducible assumption | with_reducible apply Keeps.updTb | with_reducible apply Keeps.at_ |
      with_reducible apply Keeps.pinSample | with_reducible apply Keeps.ite | with_reducible refine Keeps.foldl ?_ (fun _ _ _ => ?_))

theorem Keeps.excursion {s u : State} (h : Keeps s u) (a0 : Nat × Nat) : Keeps s (u.excursion a0) := by
  unfold State.excursion
  try dsimp only
  repeat' (first | with_reducible assumption | with_reducible apply Keeps.raise | with_reducible apply Keeps.flag)

end Sys2Proof.Machine
end

