-- ==== Sys2Proof/Laws/KeepsSite.lean ====
section
/-! SUPPORT. `Keeps` of every operation: what calibration sets, levels, the timebase, the datalog, flow runs, burst ends and starts, and flows keep. -/
namespace Sys2Proof.Machine

/-! CalOps. -/

theorem Keeps.setWork {s u : State} (h : Keeps s u) (w : Sparse Word) : Keeps s (u.setWork w) := by
  unfold State.setWork
  try dsimp only
  repeat' (first | with_reducible assumption | with_reducible apply Keeps.setReg | with_reducible apply Keeps.eraseRegs |
      with_reducible apply Keeps.ite | with_reducible refine Keeps.foldl ?_ (fun _ _ _ => ?_))

theorem Keeps.groupTake {s u : State} (h : Keeps s u) (g : Nat) : Keeps s (u.groupTake g) := by
  unfold State.groupTake
  try dsimp only
  repeat' (first | with_reducible assumption | with_reducible apply Keeps.updCal | with_reducible apply Keeps.updPin |
      with_reducible apply Keeps.ite | with_reducible refine Keeps.foldl ?_ (fun _ _ _ => ?_))

theorem Keeps.siteSet {s u : State} (h : Keeps s u) (i : Nat) : Keeps s (u.siteSet i) := by
  unfold State.siteSet
  try dsimp only
  repeat' (first | with_reducible assumption | with_reducible apply Keeps.groupTake | with_reducible apply Keeps.updCal |
      with_reducible apply Keeps.set | with_reducible apply Keeps.ite | with_reducible refine Keeps.foldl ?_ (fun _ _ _ => ?_))

theorem Keeps.commitDone {s u : State} (h : Keeps s u) : Keeps s (u.commitDone) := by
  unfold State.commitDone
  try dsimp only
  repeat' (first | with_reducible assumption | with_reducible apply Keeps.raiseIf)

theorem Keeps.siteTake {s u : State} (h : Keeps s u) (i : Nat) : Keeps s (u.siteTake i) := by
  unfold State.siteTake
  try dsimp only
  repeat' (first | with_reducible assumption | with_reducible apply Keeps.commitDone | with_reducible apply Keeps.set |
      with_reducible apply Keeps.siteSet | with_reducible apply Keeps.ite)

theorem Keeps.calCommit {s u : State} (h : Keeps s u) (o : Origin) (tag : Nat) : Keeps s (u.calCommit o tag) := by
  unfold State.calCommit
  try dsimp only
  repeat' (first | with_reducible assumption | with_reducible apply Keeps.audit | with_reducible apply Keeps.updCal |
      with_reducible apply Keeps.groupTake | with_reducible apply Keeps.siteSet | with_reducible apply Keeps.commitDone |
      with_reducible apply Keeps.set | with_reducible apply Keeps.ite | with_reducible refine Keeps.foldl ?_ (fun _ _ _ => ?_))

theorem Keeps.epochCommit {s u : State} (h : Keeps s u) (tag : Nat) : Keeps s (u.epochCommit tag) := by
  unfold State.epochCommit
  try dsimp only
  repeat' (first | with_reducible assumption | with_reducible apply Keeps.set | with_reducible apply Keeps.calCommit |
      with_reducible apply Keeps.raise | with_reducible apply Keeps.flag | with_reducible apply Keeps.ite)

theorem Keeps.calSpoil {s u : State} (h : Keeps s u) (hit : CalStep → Bool) : Keeps s (u.calSpoil hit) := by
  unfold State.calSpoil
  try dsimp only
  repeat' (first | with_reducible assumption | with_reducible apply Keeps.updCal)

theorem Keeps.calTemp {s u : State} (h : Keeps s u) (k : Nat) : Keeps s (u.calTemp k) := by
  unfold State.calTemp
  try dsimp only
  repeat' (first | with_reducible assumption | with_reducible apply Keeps.calSpoil | with_reducible apply Keeps.raise |
      with_reducible apply Keeps.flag | with_reducible apply Keeps.updCal | with_reducible apply Keeps.ite |
      with_reducible refine Keeps.foldl ?_ (fun _ _ _ => ?_) | with_reducible refine Keeps.foldl1 ?_ (fun _ _ _ => ?_) |
      with_reducible apply Keeps.ite1 | intro _ | split)

/-! Arch. -/

theorem Keeps.condWrite {s u : State} (h : Keeps s u) (o : Origin) (a : Nat) (w : Word × Bool) (busy : Fld) : Keeps s (u.condWrite o a w
    busy) := by
  unfold State.condWrite
  try dsimp only
  repeat' (first | with_reducible assumption | with_reducible apply Keeps.flagIf | with_reducible apply Keeps.regWrite)

theorem Keeps.groupMapWrite {s u : State} (h : Keeps s u) (o : Origin) (a : Nat) (v : Word) : Keeps s (u.groupMapWrite o a v) := by
  unfold State.groupMapWrite
  try dsimp only
  repeat' (first | with_reducible assumption | with_reducible apply Keeps.condWrite | with_reducible apply Keeps.ite)

theorem Keeps.siteLevelWrite {s u : State} (h : Keeps s u) (o : Origin) (v : Word) : Keeps s (u.siteLevelWrite o v) := by
  unfold State.siteLevelWrite
  try dsimp only
  repeat' (first | with_reducible assumption | with_reducible apply Keeps.condWrite)

/-! Timebase. -/

theorem Keeps.setRef {s u : State} (h : Keeps s u) (n : Nat) (r : RefInput) : Keeps s (u.setRef n r) := by
  unfold State.setRef
  try dsimp only
  repeat' (first | with_reducible assumption | with_reducible apply Keeps.set | with_reducible apply Keeps.updTb |
      with_reducible apply Keeps.ite)

theorem Keeps.refDisturb {s u : State} (h : Keeps s u) : Keeps s (u.refDisturb) := by
  unfold State.refDisturb
  try dsimp only
  repeat' (first | with_reducible assumption | with_reducible apply Keeps.calSpoil | with_reducible apply Keeps.taintAll)

theorem Keeps.disagree {s u : State} (h : Keeps s u) : Keeps s (u.disagree) := by
  unfold State.disagree
  try dsimp only
  repeat' (first | with_reducible assumption | with_reducible apply Keeps.set | with_reducible apply Keeps.raiseIf |
      with_reducible apply Keeps.ite | with_reducible refine Keeps.foldl ?_ (fun _ _ _ => ?_) |
      with_reducible refine Keeps.foldl1 ?_ (fun _ _ _ => ?_) | with_reducible apply Keeps.ite1 | intro _ | split)

theorem Keeps.holdoverEnter {s u : State} (h : Keeps s u) (n : Nat) : Keeps s (u.holdoverEnter n) := by
  unfold State.holdoverEnter
  try dsimp only
  repeat' (first | with_reducible assumption | with_reducible apply Keeps.refDisturb | with_reducible apply Keeps.raise |
      with_reducible apply Keeps.updTb | with_reducible apply Keeps.flag)

theorem Keeps.refLost {s u : State} (h : Keeps s u) (n : Nat) (window : Bool) : Keeps s (u.refLost n window) := by
  unfold State.refLost
  try dsimp only
  repeat' (first | with_reducible assumption | with_reducible apply Keeps.setRef | with_reducible apply Keeps.flag |
      with_reducible apply Keeps.disagree | with_reducible apply Keeps.raise | with_reducible apply Keeps.holdoverEnter |
      with_reducible apply Keeps.ite)

theorem Keeps.refUse {s u : State} (h : Keeps s u) (n : Nat) (pull : Bool) : Keeps s (u.refUse n pull) := by
  unfold State.refUse
  try dsimp only
  repeat' (first | with_reducible assumption | with_reducible apply Keeps.updTb | with_reducible apply Keeps.set |
      with_reducible apply Keeps.tickFresh)

theorem Keeps.refSwitch {s u : State} (h : Keeps s u) (n : Nat) (pull : Bool) : Keeps s (u.refSwitch n pull) := by
  unfold State.refSwitch
  try dsimp only
  repeat' (first | with_reducible assumption | with_reducible apply Keeps.updTb | with_reducible apply Keeps.refUse |
      with_reducible apply Keeps.tdcSwitched | with_reducible apply Keeps.refDisturb | with_reducible apply Keeps.raise |
      with_reducible apply Keeps.flag)

theorem Keeps.holdoverLeave {s u : State} (h : Keeps s u) (n : Nat) : Keeps s (u.holdoverLeave n) := by
  unfold State.holdoverLeave
  try dsimp only
  repeat' (first | with_reducible assumption | with_reducible apply Keeps.raise | with_reducible apply Keeps.updTb |
      with_reducible apply Keeps.set | with_reducible apply Keeps.refUse | with_reducible apply Keeps.refSwitch |
      with_reducible apply Keeps.ite)

theorem Keeps.holdoverTry {s u : State} (h : Keeps s u) : Keeps s (u.holdoverTry) := by
  unfold State.holdoverTry
  try dsimp only
  repeat' (first | with_reducible assumption | with_reducible apply Keeps.holdoverLeave | with_reducible apply Keeps.ite |
      with_reducible refine Keeps.foldl ?_ (fun _ _ _ => ?_) | with_reducible refine Keeps.foldl1 ?_ (fun _ _ _ => ?_) |
      with_reducible apply Keeps.ite1 | intro _ | split)

theorem Keeps.refRevert {s u : State} (h : Keeps s u) : Keeps s (u.refRevert) := by
  unfold State.refRevert
  try dsimp only
  repeat' (first | with_reducible assumption | with_reducible apply Keeps.refSwitch | with_reducible apply Keeps.ite)

theorem Keeps.refQualify {s u : State} (h : Keeps s u) (n : Nat) : Keeps s (u.refQualify n) := by
  unfold State.refQualify
  try dsimp only
  repeat' (first | with_reducible assumption | with_reducible apply Keeps.setRef | with_reducible apply Keeps.at_ |
      with_reducible apply Keeps.disagree | with_reducible apply Keeps.raise | with_reducible apply Keeps.holdoverTry |
      with_reducible apply Keeps.refRevert | with_reducible apply Keeps.ite | with_reducible refine Keeps.foldl ?_ (fun _ _ _ => ?_) |
      with_reducible refine Keeps.foldl1 ?_ (fun _ _ _ => ?_) | with_reducible apply Keeps.ite1 | intro _ | split)

theorem Keeps.refMeasure {s u : State} (h : Keeps s u) (n : Nat) (ppb : Option Int) : Keeps s (u.refMeasure n ppb) := by
  unfold State.refMeasure
  try dsimp only
  repeat' (first | with_reducible assumption | with_reducible apply Keeps.setRef | with_reducible apply Keeps.refLost |
      with_reducible apply Keeps.ite | with_reducible refine Keeps.foldl ?_ (fun _ _ _ => ?_) |
      with_reducible refine Keeps.foldl1 ?_ (fun _ _ _ => ?_) | with_reducible apply Keeps.ite1 | intro _ | split)

theorem Keeps.requalify {s u : State} (h : Keeps s u) (changedA : Bool) (changedB : Bool) : Keeps s (u.requalify changedA changedB) := by
  unfold State.requalify
  try dsimp only
  repeat' (first | with_reducible assumption | with_reducible apply Keeps.disagree | with_reducible apply Keeps.setRef)

theorem Keeps.refCfgApply {s u : State} (h : Keeps s u) (o : Origin) (v : Word) : Keeps s (u.refCfgApply o v) := by
  unfold State.refCfgApply
  try dsimp only
  repeat' (first | with_reducible assumption | with_reducible apply Keeps.regWrite | with_reducible apply Keeps.requalify |
      with_reducible apply Keeps.refLost | with_reducible apply Keeps.refRevert | with_reducible apply Keeps.ite)

theorem Keeps.refCfgWrite {s u : State} (h : Keeps s u) (o : Origin) (v : Word) : Keeps s (u.refCfgWrite o v) := by
  unfold State.refCfgWrite
  try dsimp only
  repeat' (first | with_reducible assumption | with_reducible apply Keeps.calSpoil | with_reducible apply Keeps.flag |
      with_reducible apply Keeps.updTb | with_reducible apply Keeps.refCfgApply | with_reducible apply Keeps.ite)

theorem Keeps.refCfgDeferred {s u : State} (h : Keeps s u) : Keeps s (u.refCfgDeferred) := by
  unfold State.refCfgDeferred
  try dsimp only
  repeat' (first | with_reducible assumption | with_reducible apply Keeps.refCfgApply | with_reducible apply Keeps.updTb |
      with_reducible apply Keeps.ite | with_reducible refine Keeps.foldl ?_ (fun _ _ _ => ?_) |
      with_reducible refine Keeps.foldl1 ?_ (fun _ _ _ => ?_) | with_reducible apply Keeps.ite1 | intro _ | split)

theorem Keeps.setEpochNext {s u : State} (h : Keeps s u) (v : Nat) : Keeps s (u.setEpochNext v) := by
  unfold State.setEpochNext
  try dsimp only
  repeat' (first | with_reducible assumption | with_reducible apply Keeps.flag | with_reducible apply Keeps.setCfg)

theorem Keeps.epochAdvance {s u : State} (h : Keeps s u) : Keeps s (u.epochAdvance) := by
  unfold State.epochAdvance
  try dsimp only
  repeat' (first | with_reducible assumption | with_reducible apply Keeps.set | with_reducible apply Keeps.setEpochNext |
      with_reducible apply Keeps.ite)

theorem Keeps.marker {s u : State} (h : Keeps s u) (instant : Nat) (t : Nat) : Keeps s (u.marker instant t) := by
  unfold State.marker
  try dsimp only
  repeat' (first | with_reducible assumption | with_reducible apply Keeps.set | with_reducible apply Keeps.raise |
      with_reducible apply Keeps.flag | with_reducible apply Keeps.epochAdvance | with_reducible apply Keeps.updTb |
      with_reducible apply Keeps.ite)

theorem Keeps.syncRelease {s u : State} (h : Keeps s u) (t : Nat) : Keeps s (u.syncRelease t) := by
  unfold State.syncRelease
  try dsimp only
  repeat' (first | with_reducible assumption | with_reducible apply Keeps.setLane | with_reducible apply Keeps.ite |
      with_reducible refine Keeps.foldl ?_ (fun _ _ _ => ?_) | with_reducible refine Keeps.foldl1 ?_ (fun _ _ _ => ?_) |
      with_reducible apply Keeps.ite1 | intro _ | split)

theorem Keeps.epochLoad {s u : State} (h : Keeps s u) (a : Option Nat) : Keeps s (u.epochLoad a) := by
  unfold State.epochLoad
  try dsimp only
  repeat' (first | with_reducible assumption | with_reducible apply Keeps.updTb | with_reducible apply Keeps.setEpochNext |
      with_reducible apply Keeps.ite | with_reducible refine Keeps.foldl ?_ (fun _ _ _ => ?_) |
      with_reducible refine Keeps.foldl1 ?_ (fun _ _ _ => ?_) | with_reducible apply Keeps.ite1 | intro _ | split)

theorem Keeps.epochAct {s u : State} (h : Keeps s u) (e : EpochPend) : Keeps s (u.epochAct e) := by
  unfold State.epochAct
  try dsimp only
  repeat' (first | with_reducible assumption | with_reducible apply Keeps.epochLoad | with_reducible apply Keeps.updTb |
      with_reducible apply Keeps.at_ | with_reducible apply Keeps.raise | with_reducible apply Keeps.set | with_reducible apply Keeps.flag |
      with_reducible apply Keeps.marker | with_reducible apply Keeps.syncRelease | with_reducible apply Keeps.updIat |
      with_reducible apply Keeps.epochCommit | with_reducible apply Keeps.flowsSignal | with_reducible apply Keeps.ite)

theorem Keeps.softEpoch {s u : State} (h : Keeps s u) : Keeps s (u.softEpoch) := by
  unfold State.softEpoch
  try dsimp only
  repeat' (first | with_reducible assumption | with_reducible apply Keeps.updTb | with_reducible apply Keeps.ite)

theorem Keeps.epochCmd {s u : State} (h : Keeps s u) (v : Word) : Keeps s (u.epochCmd v) := by
  unfold State.epochCmd
  try dsimp only
  repeat' (first | with_reducible assumption | with_reducible apply Keeps.flagIf | with_reducible apply Keeps.softEpoch |
      with_reducible apply Keeps.ite)

theorem Keeps.epochNextWrite {s u : State} (h : Keeps s u) (o : Origin) (lo : Word) (hi : Word) : Keeps s (u.epochNextWrite o lo hi) := by
  unfold State.epochNextWrite
  try dsimp only
  repeat' (first | with_reducible assumption | with_reducible apply Keeps.flag | with_reducible apply Keeps.regWrite64 |
      with_reducible apply Keeps.updIat | with_reducible apply Keeps.updTb)

theorem Keeps.epochTimeout {s u : State} (h : Keeps s u) : Keeps s (u.epochTimeout) := by
  unfold State.epochTimeout
  try dsimp only
  repeat' (first | with_reducible assumption | with_reducible apply Keeps.at_ | with_reducible apply Keeps.raise |
      with_reducible apply Keeps.flag | with_reducible apply Keeps.endNow | with_reducible apply Keeps.updTb |
      with_reducible apply Keeps.epochAdvance | with_reducible apply Keeps.ite | with_reducible refine Keeps.foldl ?_ (fun _ _ _ => ?_))

theorem Keeps.fsyncSite {s u : State} (h : Keeps s u) (n : Nat) (e : Nat) (i : Nat) : Keeps s (u.fsyncSite n e i).1 := by
  unfold State.fsyncSite
  try dsimp only
  repeat' (first | with_reducible assumption | with_reducible apply Keeps.setLane | with_reducible apply Keeps.updBurst |
      with_reducible apply Keeps.updSpec | with_reducible apply Keeps.startBurst | with_reducible apply Keeps.ite |
      with_reducible refine Keeps.foldl ?_ (fun _ _ _ => ?_) | with_reducible refine Keeps.foldl1 ?_ (fun _ _ _ => ?_) |
      with_reducible apply Keeps.ite1 | intro _ | split)

theorem Keeps.fsyncEdge {s u : State} (h : Keeps s u) (n : Nat) (rising : Bool) : Keeps s (u.fsyncEdge n rising) := by
  unfold State.fsyncEdge
  try dsimp only
  repeat' (first | with_reducible assumption | with_reducible apply Keeps.updTb | with_reducible apply Keeps.fsyncSite |
      with_reducible apply Keeps.flowsSignal | with_reducible apply Keeps.raise | with_reducible apply Keeps.flag |
      with_reducible apply Keeps.ite | with_reducible refine Keeps.foldl ?_ (fun _ _ _ => ?_) |
      with_reducible refine Keeps.foldl1 ?_ (fun _ _ _ => ?_))

theorem Keeps.fsyncLate {s u : State} (h : Keeps s u) (i : Nat) : Keeps s (u.fsyncLate i) := by
  unfold State.fsyncLate
  try dsimp only
  repeat' (first | with_reducible assumption | with_reducible apply Keeps.padClose | with_reducible apply Keeps.setLane |
      with_reducible apply Keeps.frameStart | with_reducible apply Keeps.ite | with_reducible refine Keeps.foldl ?_ (fun _ _ _ => ?_) |
      with_reducible refine Keeps.foldl1 ?_ (fun _ _ _ => ?_) | with_reducible apply Keeps.ite1 | intro _ | split)

theorem Keeps.gridWrite {s u : State} (h : Keeps s u) (o : Origin) (off : Nat) (v : Word) : Keeps s (u.gridWrite o off v) := by
  unfold State.gridWrite
  try dsimp only
  repeat' (first | with_reducible assumption | with_reducible apply Keeps.condWrite | with_reducible apply Keeps.idleWrite |
      with_reducible apply Keeps.ite)

theorem Keeps.latch {s u : State} (h : Keeps s u) (o : Origin) (a : Nat) (w : Word) : Keeps s (u.latch o a w) := by
  unfold State.latch
  try dsimp only
  repeat' (first | with_reducible assumption | with_reducible apply Keeps.ite | with_reducible refine Keeps.foldl ?_ (fun _ _ _ => ?_) |
      with_reducible refine Keeps.foldl1 ?_ (fun _ _ _ => ?_) | with_reducible apply Keeps.ite1 | intro _ | split |
      with_reducible exact Keeps.frame h rfl rfl rfl rfl rfl rfl rfl rfl rfl rfl)

theorem Keeps.meridianRead {s u : State} (h : Keeps s u) (o : Origin) : Keeps s (u.meridianRead o).1 := by
  unfold State.meridianRead
  try dsimp only
  repeat' (first | with_reducible assumption | with_reducible apply Keeps.latch)

/-! Placement. -/

theorem Keeps.overlapMarks {s u : State} (h : Keeps s u) : Keeps s (u.overlapMarks) := by
  unfold State.overlapMarks
  try dsimp only
  repeat' (first | with_reducible assumption | with_reducible apply Keeps.updBurst | with_reducible apply Keeps.ite |
      with_reducible refine Keeps.foldl ?_ (fun _ _ _ => ?_))

/-! FlowRun. -/

theorem Keeps.updDlog {s u : State} (h : Keeps s u) (i : Nat) (f : DlogState → DlogState) : Keeps s (u.updDlog i f) := by
  unfold State.updDlog
  try dsimp only
  repeat' (first | with_reducible assumption | with_reducible apply Keeps.updSvc)

theorem Keeps.dlogPut {s u : State} (h : Keeps s u) (i : Nat) (off : Nat) (bs : List Byte) : Keeps s (u.dlogPut i off bs) := by
  unfold State.dlogPut
  try dsimp only
  repeat' (first | with_reducible assumption | with_reducible apply Keeps.captPut)

theorem Keeps.dlogAdvance {s u : State} (h : Keeps s u) (i : Nat) (n : Nat) : Keeps s (u.dlogAdvance i n) := by
  unfold State.dlogAdvance
  try dsimp only
  repeat' (first | with_reducible assumption | with_reducible apply Keeps.updDlog)

theorem Keeps.dlogClose {s u : State} (h : Keeps s u) (i : Nat) : Keeps s (u.dlogClose i) := by
  unfold State.dlogClose
  try dsimp only
  repeat' (first | with_reducible assumption | with_reducible apply Keeps.dlogPut | with_reducible apply Keeps.updDlog |
      with_reducible apply Keeps.updSvc | with_reducible apply Keeps.set | with_reducible apply Keeps.flag | with_reducible apply Keeps.ite |
      with_reducible refine Keeps.foldl ?_ (fun _ _ _ => ?_) | with_reducible refine Keeps.foldl1 ?_ (fun _ _ _ => ?_) |
      with_reducible apply Keeps.ite1 | intro _ | split)

theorem Keeps.flowOnce {s u : State} (h : Keeps s u) (i : Nat) (code : Nat) (data : Nat) : Keeps s (u.flowOnce i code data) := by
  unfold State.flowOnce
  try dsimp only
  repeat' (first | with_reducible assumption | with_reducible apply Keeps.updFlow | with_reducible apply Keeps.raise |
      with_reducible apply Keeps.ite)

theorem Keeps.dlogTry {s u : State} (h : Keeps s u) (i : Nat) (r : DlogRec) : Keeps s (u.dlogTry i r).1 := by
  unfold State.dlogTry
  try dsimp only
  repeat' (first | with_reducible assumption | with_reducible apply Keeps.flag | with_reducible apply Keeps.flowOnce |
      with_reducible apply Keeps.updDlog | with_reducible apply Keeps.count | with_reducible apply Keeps.dlogAdvance |
      with_reducible apply Keeps.dlogPut | with_reducible apply Keeps.dlogClose | with_reducible apply Keeps.ite |
      with_reducible refine Keeps.foldl ?_ (fun _ _ _ => ?_) | with_reducible refine Keeps.foldl1 ?_ (fun _ _ _ => ?_) |
      with_reducible apply Keeps.ite1)

theorem Keeps.batchSigned {s u : State} (h : Keeps s u) : Keeps s (u.batchSigned) := by
  unfold State.batchSigned
  try dsimp only
  repeat' (first | with_reducible assumption | with_reducible apply Keeps.updSvc | with_reducible apply Keeps.dlogPut |
      with_reducible apply Keeps.set | with_reducible apply Keeps.updDlog | with_reducible apply Keeps.raiseIf |
      with_reducible apply Keeps.ite | with_reducible refine Keeps.foldl ?_ (fun _ _ _ => ?_) |
      with_reducible refine Keeps.foldl1 ?_ (fun _ _ _ => ?_) | with_reducible apply Keeps.ite1 | intro _ | split)

theorem Keeps.dlogReset {s u : State} (h : Keeps s u) (i : Nat) : Keeps s (u.dlogReset i) := by
  unfold State.dlogReset
  try dsimp only
  repeat' (first | with_reducible assumption | with_reducible apply Keeps.updDlog | with_reducible apply Keeps.set |
      with_reducible apply Keeps.updSvc)

theorem Keeps.dlogMoved {s u : State} (h : Keeps s u) (i : Nat) : Keeps s (u.dlogMoved i) := by
  unfold State.dlogMoved
  try dsimp only
  repeat' (first | with_reducible assumption | with_reducible apply Keeps.dlogReset | with_reducible apply Keeps.updDlog |
      with_reducible apply Keeps.ite)

theorem Keeps.flowEnd {s u : State} (h : Keeps s u) (i : Nat) (st : Nat) : Keeps s (u.flowEnd i st) := by
  unfold State.flowEnd
  try dsimp only
  repeat' (first | with_reducible assumption | with_reducible apply Keeps.updFlow | with_reducible apply Keeps.set)

theorem Keeps.flowGo {s u : State} (h : Keeps s u) (i : Nat) (k : Nat) : Keeps s (u.flowGo i k) := by
  unfold State.flowGo
  try dsimp only
  repeat' (first | with_reducible assumption | with_reducible apply Keeps.flowEnd | with_reducible apply Keeps.updFlow |
      with_reducible apply Keeps.set | with_reducible apply Keeps.ite)

theorem Keeps.flowStall {s u : State} (h : Keeps s u) (i : Nat) (r : DlogRec) (t : FlowThen) : Keeps s (u.flowStall i r t) := by
  unfold State.flowStall
  try dsimp only
  repeat' (first | with_reducible assumption | with_reducible apply Keeps.updFlow | with_reducible apply Keeps.set)

theorem Keeps.runStart {s u : State} (h : Keeps s u) (i : Nat) : Keeps s (u.runStart i) := by
  unfold State.runStart
  try dsimp only
  repeat' (first | with_reducible assumption | with_reducible apply Keeps.set | with_reducible apply Keeps.set64 |
      with_reducible apply Keeps.updFlow | with_reducible apply Keeps.dlogReset | with_reducible apply Keeps.dlogTry |
      with_reducible apply Keeps.overlapMarks | with_reducible apply Keeps.flowGo | with_reducible apply Keeps.flowStall |
      with_reducible apply Keeps.ite | with_reducible refine Keeps.foldl ?_ (fun _ _ _ => ?_))

theorem Keeps.flowThen {s u : State} (h : Keeps s u) (i : Nat) (t : FlowThen) : Keeps s (u.flowThen i t) := by
  unfold State.flowThen
  try dsimp only
  repeat' (first | with_reducible assumption | with_reducible apply Keeps.flowGo | with_reducible apply Keeps.dlogClose |
      with_reducible apply Keeps.runStart | with_reducible apply Keeps.flowEnd | with_reducible apply Keeps.ite |
      with_reducible refine Keeps.foldl ?_ (fun _ _ _ => ?_) | with_reducible refine Keeps.foldl1 ?_ (fun _ _ _ => ?_) |
      with_reducible apply Keeps.ite1 | intro _ | split)

theorem Keeps.flowRecord {s u : State} (h : Keeps s u) (i : Nat) (r : DlogRec) (t : FlowThen) : Keeps s (u.flowRecord i r t) := by
  unfold State.flowRecord
  try dsimp only
  repeat' (first | with_reducible assumption | with_reducible apply Keeps.dlogTry | with_reducible apply Keeps.flowThen |
      with_reducible apply Keeps.flowStall | with_reducible apply Keeps.ite)

theorem Keeps.flowResume {s u : State} (h : Keeps s u) (i : Nat) : Keeps s (u.flowResume i) := by
  unfold State.flowResume
  try dsimp only
  repeat' (first | with_reducible assumption | with_reducible apply Keeps.flowRecord | with_reducible apply Keeps.updFlow |
      with_reducible apply Keeps.ite | with_reducible refine Keeps.foldl ?_ (fun _ _ _ => ?_) |
      with_reducible refine Keeps.foldl1 ?_ (fun _ _ _ => ?_) | with_reducible apply Keeps.ite1 | intro _ | split)

theorem Keeps.flowFault {s u : State} (h : Keeps s u) (i : Nat) : Keeps s (u.flowFault i) := by
  unfold State.flowFault
  try dsimp only
  repeat' (first | with_reducible assumption | with_reducible apply Keeps.flowRecord | with_reducible apply Keeps.raise)

theorem Keeps.flowRun {s u : State} (h : Keeps s u) (i : Nat) : Keeps s (u.flowRun i) := by
  unfold State.flowRun
  try dsimp only
  repeat' (first | with_reducible assumption | with_reducible apply Keeps.runStart | with_reducible apply Keeps.flag |
      with_reducible apply Keeps.ite)

theorem Keeps.setVar {s u : State} (h : Keeps s u) (i : Nat) (v : Nat) (a2 : Int) (valid : Bool) : Keeps s (u.setVar i v a2 valid) := by
  unfold State.setVar
  try dsimp only
  repeat' (first | with_reducible assumption | with_reducible apply Keeps.set | with_reducible apply Keeps.set64)

theorem Keeps.setC {s u : State} (h : Keeps s u) (i : Nat) (c : Bool) : Keeps s (u.setC i c) := by
  unfold State.setC
  try dsimp only
  repeat' (first | with_reducible assumption | with_reducible apply Keeps.set)

theorem Keeps.flowBurstDone {s u : State} (h : Keeps s u) (i : Nat) : Keeps s (u.flowBurstDone i) := by
  unfold State.flowBurstDone
  try dsimp only
  repeat' (first | with_reducible assumption | with_reducible apply Keeps.setC | with_reducible apply Keeps.setVar |
      with_reducible apply Keeps.flowRecord | with_reducible apply Keeps.flowThen | with_reducible apply Keeps.ite |
      with_reducible refine Keeps.foldl ?_ (fun _ _ _ => ?_) | with_reducible refine Keeps.foldl1 ?_ (fun _ _ _ => ?_) |
      with_reducible apply Keeps.ite1 | intro _ | split)

/-! BurstEnd. -/

theorem Keeps.writeResult {s u : State} (h : Keeps s u) (i : Nat) (ws : List Nat) : Keeps s (u.writeResult i ws) := by
  unfold State.writeResult
  try dsimp only
  repeat' (first | with_reducible assumption | with_reducible apply Keeps.set | with_reducible apply Keeps.putRegion |
      with_reducible apply Keeps.ite | with_reducible refine Keeps.foldl ?_ (fun _ _ _ => ?_))

theorem Keeps.burstResult {s u : State} (h : Keeps s u) (i : Nat) (r : ResultInfo) : Keeps s (u.burstResult i r) := by
  unfold State.burstResult
  try dsimp only
  repeat' (first | with_reducible assumption | with_reducible apply Keeps.raise | with_reducible apply Keeps.writeResult)

theorem Keeps.acqEnd {s u : State} (h : Keeps s u) (i : Nat) : Keeps s (u.acqEnd i) := by
  unfold State.acqEnd
  try dsimp only
  repeat' (first | with_reducible assumption | with_reducible apply Keeps.set | with_reducible apply Keeps.ite |
      with_reducible refine Keeps.foldl ?_ (fun _ _ _ => ?_))

theorem Keeps.goIdle {s u : State} (h : Keeps s u) (i : Nat) : Keeps s (u.goIdle i) := by
  unfold State.goIdle
  try dsimp only
  repeat' (first | with_reducible assumption | with_reducible apply Keeps.updSite | with_reducible apply Keeps.setLane |
      with_reducible apply Keeps.cacheRelease | with_reducible apply Keeps.xeClear | with_reducible apply Keeps.deactivateAll |
      with_reducible apply Keeps.setSiteSt | with_reducible apply Keeps.set | with_reducible apply Keeps.devState |
      with_reducible apply Keeps.siteTake | with_reducible apply Keeps.seqStat)

theorem Keeps.drainComplete {s u : State} (h : Keeps s u) (i : Nat) : Keeps s (u.drainComplete i) := by
  unfold State.drainComplete
  try dsimp only
  repeat' (first | with_reducible assumption | with_reducible apply Keeps.settle | with_reducible apply Keeps.at_ |
      with_reducible apply Keeps.flowBurstDone | with_reducible apply Keeps.goIdle | with_reducible apply Keeps.acqEnd |
      with_reducible apply Keeps.burstResult | with_reducible apply Keeps.tickFresh | with_reducible apply Keeps.ite |
      with_reducible refine Keeps.foldl ?_ (fun _ _ _ => ?_) | with_reducible refine Keeps.foldl1 ?_ (fun _ _ _ => ?_) |
      with_reducible apply Keeps.ite1 | intro _ | split)

/-! Start. -/

theorem Keeps.budgets {s u : State} (h : Keeps s u) : Keeps s (u.budgets) := by
  unfold State.budgets
  try dsimp only
  repeat' (first | with_reducible assumption | with_reducible apply Keeps.set | with_reducible apply Keeps.ite |
      with_reducible refine Keeps.foldl ?_ (fun _ _ _ => ?_))

theorem Keeps.admission {s u : State} (h : Keeps s u) (i : Nat) : Keeps s (u.admission i) := by
  unfold State.admission
  try dsimp only
  repeat' (first | with_reducible assumption | with_reducible apply Keeps.set | with_reducible apply Keeps.raise |
      with_reducible apply Keeps.flag | with_reducible apply Keeps.ite)

theorem Keeps.startRefused {s u : State} (h : Keeps s u) (i : Nat) (detail : Nat) (list : Bool) : Keeps s (u.startRefused i detail list) :=
    by
  unfold State.startRefused
  try dsimp only
  repeat' (first | with_reducible assumption | with_reducible apply Keeps.updSite | with_reducible apply Keeps.flag |
      with_reducible apply Keeps.tickFresh | with_reducible apply Keeps.flowBurstDone | with_reducible apply Keeps.burstResult)

theorem Keeps.flogReset {s u : State} (h : Keeps s u) (i : Nat) : Keeps s (u.flogReset i) := by
  unfold State.flogReset
  try dsimp only
  repeat' (first | with_reducible assumption | with_reducible apply Keeps.set)

theorem Keeps.flogSizeWrite {s u : State} (h : Keeps s u) (o : Origin) (i : Nat) (v : Word) : Keeps s (u.flogSizeWrite o i v) := by
  unfold State.flogSizeWrite
  try dsimp only
  repeat' (first | with_reducible assumption | with_reducible apply Keeps.flogReset | with_reducible apply Keeps.regWrite)

theorem Keeps.flogBaseWrite {s u : State} (h : Keeps s u) (o : Origin) (i : Nat) (lo : Word) (hi : Word) : Keeps s (u.flogBaseWrite o i lo
    hi) := by
  unfold State.flogBaseWrite
  try dsimp only
  repeat' (first | with_reducible assumption | with_reducible apply Keeps.flogReset | with_reducible apply Keeps.regWrite64)

theorem Keeps.armCapture {s u : State} (h : Keeps s u) (i : Nat) : Keeps s (u.armCapture i) := by
  unfold State.armCapture
  try dsimp only
  repeat' (first | with_reducible assumption | with_reducible apply Keeps.eraseRegs | with_reducible apply Keeps.set64 |
      with_reducible apply Keeps.set | with_reducible apply Keeps.flogReset | with_reducible apply Keeps.updCap |
      with_reducible apply Keeps.raise | with_reducible apply Keeps.flag | with_reducible apply Keeps.ite)

theorem Keeps.armPin {s u : State} (h : Keeps s u) (i : Nat) (p : Nat) : Keeps s (u.armPin i p) := by
  unfold State.armPin
  try dsimp only
  repeat' (first | with_reducible assumption | with_reducible apply Keeps.set | with_reducible apply Keeps.eraseRegs |
      with_reducible apply Keeps.updAcq)

theorem Keeps.armAcq {s u : State} (h : Keeps s u) (i : Nat) : Keeps s (u.armAcq i) := by
  unfold State.armAcq
  try dsimp only
  repeat' (first | with_reducible assumption | with_reducible apply Keeps.set | with_reducible apply Keeps.eraseRegs |
      with_reducible apply Keeps.armPin | with_reducible apply Keeps.updLines | with_reducible apply Keeps.ite |
      with_reducible refine Keeps.foldl ?_ (fun _ _ _ => ?_))

theorem Keeps.armXe {s u : State} (h : Keeps s u) (i : Nat) : Keeps s (u.armXe i) := by
  unfold State.armXe
  try dsimp only
  repeat' (first | with_reducible assumption | with_reducible apply Keeps.updXeSite | with_reducible apply Keeps.set |
      with_reducible apply Keeps.ite | with_reducible refine Keeps.foldl ?_ (fun _ _ _ => ?_))

theorem Keeps.armMarks {s u : State} (h : Keeps s u) (i : Nat) : Keeps s (u.armMarks i) := by
  unfold State.armMarks
  try dsimp only
  repeat' (first | with_reducible assumption | with_reducible apply Keeps.updStr | with_reducible apply Keeps.flag |
      with_reducible apply Keeps.ite)

theorem Keeps.armSite {s u : State} (h : Keeps s u) (i : Nat) (seg : Option Nat) (list : Option Nat) : Keeps s (u.armSite i seg list) := by
  unfold State.armSite
  try dsimp only
  repeat' (first | with_reducible assumption | with_reducible apply Keeps.tdcCancelAll | with_reducible apply Keeps.updSite |
      with_reducible apply Keeps.setLevel | with_reducible apply Keeps.armMarks | with_reducible apply Keeps.redArm |
      with_reducible apply Keeps.armXe | with_reducible apply Keeps.armAcq | with_reducible apply Keeps.armCapture |
      with_reducible apply Keeps.updCal | with_reducible apply Keeps.devState | with_reducible apply Keeps.admission |
      with_reducible apply Keeps.overlapMarks | with_reducible apply Keeps.setSiteSt | with_reducible apply Keeps.ite)

theorem Keeps.armSeg {s u : State} (h : Keeps s u) (i : Nat) (seg : Nat) : Keeps s (u.armSeg i seg) := by
  unfold State.armSeg
  try dsimp only
  repeat' (first | with_reducible assumption | with_reducible apply Keeps.activate | with_reducible apply Keeps.updBurst |
      with_reducible apply Keeps.engineRestart | with_reducible apply Keeps.seqDone | with_reducible apply Keeps.ite)

theorem Keeps.listStart {s u : State} (h : Keeps s u) (i : Nat) (l : Nat) : Keeps s (u.listStart i l) := by
  unfold State.listStart
  try dsimp only
  repeat' (first | with_reducible assumption | with_reducible apply Keeps.startBurst | with_reducible apply Keeps.endNow |
      with_reducible apply Keeps.xeOnce | with_reducible apply Keeps.flag | with_reducible apply Keeps.handOver |
      with_reducible apply Keeps.ite)

theorem Keeps.armFrom {s u : State} (h : Keeps s u) (i : Nat) (seg : Option Nat) (list : Option Nat) : Keeps s (u.armFrom i seg list) := by
  unfold State.armFrom
  try dsimp only
  repeat' (first | with_reducible assumption | with_reducible apply Keeps.flag | with_reducible apply Keeps.startRefused |
      with_reducible apply Keeps.armSite | with_reducible apply Keeps.armSeg | with_reducible apply Keeps.updBurst |
      with_reducible apply Keeps.listStart | with_reducible apply Keeps.ite | with_reducible refine Keeps.foldl ?_ (fun _ _ _ => ?_) |
      with_reducible refine Keeps.foldl1 ?_ (fun _ _ _ => ?_) | with_reducible apply Keeps.ite1 | intro _ | split)

theorem Keeps.seqStart {s u : State} (h : Keeps s u) (o : Origin) (i : Nat) : Keeps s (u.seqStart o i) := by
  unfold State.seqStart
  try dsimp only
  repeat' (first | with_reducible assumption | with_reducible apply Keeps.flowOnce | with_reducible apply Keeps.count |
      with_reducible apply Keeps.armFrom | with_reducible apply Keeps.ite)

theorem Keeps.listRun {s u : State} (h : Keeps s u) (o : Origin) (i : Nat) (l : Nat) : Keeps s (u.listRun o i l) := by
  unfold State.listRun
  try dsimp only
  repeat' (first | with_reducible assumption | with_reducible apply Keeps.flowOnce | with_reducible apply Keeps.count |
      with_reducible apply Keeps.armFrom | with_reducible apply Keeps.ite)

theorem Keeps.siteArmed {s u : State} (h : Keeps s u) (i : Nat) : Keeps s (u.siteArmed i) := by
  unfold State.siteArmed
  try dsimp only
  repeat' (first | with_reducible assumption | with_reducible apply Keeps.listStart | with_reducible apply Keeps.updBurst |
      with_reducible apply Keeps.setSiteSt | with_reducible apply Keeps.startBurst | with_reducible apply Keeps.ite |
      with_reducible refine Keeps.foldl ?_ (fun _ _ _ => ?_) | with_reducible refine Keeps.foldl1 ?_ (fun _ _ _ => ?_) |
      with_reducible apply Keeps.ite1 | intro _ | split)

theorem Keeps.seqAbort {s u : State} (h : Keeps s u) (i : Nat) : Keeps s (u.seqAbort i) := by
  unfold State.seqAbort
  try dsimp only
  repeat' (first | with_reducible assumption | with_reducible apply Keeps.updSite | with_reducible apply Keeps.goIdle |
      with_reducible apply Keeps.abortAtBoundary | with_reducible apply Keeps.ite)

theorem Keeps.seqCmd {s u : State} (h : Keeps s u) (o : Origin) (i : Nat) (v : Word) : Keeps s (u.seqCmd o i v) := by
  unfold State.seqCmd
  try dsimp only
  repeat' (first | with_reducible assumption | with_reducible apply Keeps.seqAbort | with_reducible apply Keeps.seqResume |
      with_reducible apply Keeps.seqStart | with_reducible apply Keeps.ite)

/-! Flow. -/

theorem Keeps.flowAbortBurst {s u : State} (h : Keeps s u) (i : Nat) (handler : Bool) : Keeps s (u.flowAbortBurst i handler) := by
  unfold State.flowAbortBurst
  try dsimp only
  repeat' (first | with_reducible assumption | with_reducible apply Keeps.setC | with_reducible apply Keeps.seqAbort |
      with_reducible apply Keeps.flowGo | with_reducible apply Keeps.updFlow | with_reducible apply Keeps.ite)

theorem Keeps.flowBreak {s u : State} (h : Keeps s u) (i : Nat) (handler : Bool) : Keeps s (u.flowBreak i handler) := by
  unfold State.flowBreak
  try dsimp only
  repeat' (first | with_reducible assumption | with_reducible apply Keeps.flowAbortBurst | with_reducible apply Keeps.flowGo |
      with_reducible apply Keeps.setC | with_reducible apply Keeps.ite | with_reducible refine Keeps.foldl ?_ (fun _ _ _ => ?_) |
      with_reducible refine Keeps.foldl1 ?_ (fun _ _ _ => ?_) | with_reducible apply Keeps.ite1 | intro _ | split)

theorem Keeps.flowStopCmd {s u : State} (h : Keeps s u) (i : Nat) (abort : Bool) : Keeps s (u.flowStopCmd i abort) := by
  unfold State.flowStopCmd
  try dsimp only
  repeat' (first | with_reducible assumption | with_reducible apply Keeps.flowEnd | with_reducible apply Keeps.updFlow |
      with_reducible apply Keeps.flowBreak | with_reducible apply Keeps.ite)

theorem Keeps.clrBins {s u : State} (h : Keeps s u) (i : Nat) : Keeps s (u.clrBins i) := by
  unfold State.clrBins
  try dsimp only
  repeat' (first | with_reducible assumption | with_reducible apply Keeps.eraseRegs)

theorem Keeps.dlogFlush {s u : State} (h : Keeps s u) (i : Nat) : Keeps s (u.dlogFlush i) := by
  unfold State.dlogFlush
  try dsimp only
  repeat' (first | with_reducible assumption | with_reducible apply Keeps.dlogClose | with_reducible apply Keeps.ite)

theorem Keeps.svcCmd {s u : State} (h : Keeps s u) (i : Nat) (v : Word) : Keeps s (u.svcCmd i v) := by
  unfold State.svcCmd
  try dsimp only
  repeat' (first | with_reducible assumption | with_reducible apply Keeps.flowStopCmd | with_reducible apply Keeps.flowRun |
      with_reducible apply Keeps.clrBins | with_reducible apply Keeps.dlogFlush | with_reducible apply Keeps.ite)

theorem Keeps.dlogTailWrite {s u : State} (h : Keeps s u) (o : Origin) (i : Nat) (v : Word) : Keeps s (u.dlogTailWrite o i v) := by
  unfold State.dlogTailWrite
  try dsimp only
  repeat' (first | with_reducible assumption | with_reducible apply Keeps.flowResume | with_reducible apply Keeps.updDlog |
      with_reducible apply Keeps.regWrite)

theorem Keeps.dlogBaseWrite {s u : State} (h : Keeps s u) (o : Origin) (i : Nat) (lo : Word) (hi : Word) : Keeps s (u.dlogBaseWrite o i lo
    hi) := by
  unfold State.dlogBaseWrite
  try dsimp only
  repeat' (first | with_reducible assumption | with_reducible apply Keeps.dlogMoved | with_reducible apply Keeps.regWrite64)

theorem Keeps.dlogRingSet {s u : State} (h : Keeps s u) (o : Origin) (i : Nat) (k : Nat) (v : Word) : Keeps s (u.dlogRingSet o i k v) := by
  unfold State.dlogRingSet
  try dsimp only
  repeat' (first | with_reducible assumption | with_reducible apply Keeps.pairWrite | with_reducible apply Keeps.dlogBaseWrite |
      with_reducible apply Keeps.dlogMoved | with_reducible apply Keeps.regWrite | with_reducible apply Keeps.ite |
      with_reducible refine Keeps.foldl ?_ (fun _ _ _ => ?_) | with_reducible refine Keeps.foldl1 ?_ (fun _ _ _ => ?_) |
      with_reducible apply Keeps.ite1 | intro _)

theorem Keeps.flowStep {s u : State} (h : Keeps s u) (i kind : Nat) (f : State → State) (hf : ∀ v, Keeps s v → Keeps s (f v)) :
    Keeps s (u.flowStep i kind f) := by
  unfold State.flowStep
  exact Keeps.ite h (Keeps.ite (Keeps.flowFault h _) (Keeps.ite h (Keeps.ite (Keeps.flowFault (Keeps.checkRegion h _ _) _)
    (Keeps.ite (hf _ (Keeps.checkRegion h _ _)) h))))

theorem Keeps.flowNext {s u : State} (h : Keeps s u) (i : Nat) : Keeps s (u.flowNext i) := by
  unfold State.flowNext
  try dsimp only
  repeat' (first | with_reducible assumption | with_reducible apply Keeps.flowGo)

theorem Keeps.stepEnd {s u : State} (h : Keeps s u) (i : Nat) : Keeps s (u.stepEnd i) := by
  unfold State.stepEnd
  try dsimp only
  repeat' (first | with_reducible assumption | with_reducible apply Keeps.set | with_reducible apply Keeps.count |
      with_reducible apply Keeps.flowRecord)

theorem Keeps.flowStarts {s u : State} (h : Keeps s u) (i : Nat) (seg : Option Nat) (list : Option Nat) : Keeps s (u.flowStarts i seg list)
    := by
  unfold State.flowStarts
  try dsimp only
  repeat' (first | with_reducible assumption | with_reducible apply Keeps.updFlow | with_reducible apply Keeps.set |
      with_reducible apply Keeps.armFrom)

theorem Keeps.stepBurst {s u : State} (h : Keeps s u) (i : Nat) (xlist : Bool) : Keeps s (u.stepBurst i xlist) := by
  unfold State.stepBurst
  try dsimp only
  repeat' (first | with_reducible assumption | with_reducible apply Keeps.flowStarts | with_reducible apply Keeps.ite)

theorem Keeps.stepCalc {s u : State} (h : Keeps s u) (i : Nat) : Keeps s (u.stepCalc i) := by
  unfold State.stepCalc
  try dsimp only
  repeat' (first | with_reducible assumption | with_reducible apply Keeps.flowNext | with_reducible apply Keeps.setVar |
      with_reducible apply Keeps.flowFault | with_reducible apply Keeps.ite | with_reducible refine Keeps.foldl ?_ (fun _ _ _ => ?_) |
      with_reducible refine Keeps.foldl1 ?_ (fun _ _ _ => ?_) | with_reducible apply Keeps.ite1 | intro _ | split)

theorem Keeps.flowBin {s u : State} (h : Keeps s u) (i : Nat) (bin : Nat) (force : Bool) : Keeps s (u.flowBin i bin force) := by
  unfold State.flowBin
  try dsimp only
  repeat' (first | with_reducible assumption | with_reducible apply Keeps.updFlow | with_reducible apply Keeps.ite)

theorem Keeps.stepLimit {s u : State} (h : Keeps s u) (i : Nat) : Keeps s (u.stepLimit i) := by
  unfold State.stepLimit
  try dsimp only
  repeat' (first | with_reducible assumption | with_reducible apply Keeps.setC | with_reducible apply Keeps.flowBin |
      with_reducible apply Keeps.flowRecord | with_reducible apply Keeps.flowThen | with_reducible apply Keeps.ite)

theorem Keeps.stepBin {s u : State} (h : Keeps s u) (i : Nat) : Keeps s (u.stepBin i) := by
  unfold State.stepBin
  try dsimp only
  repeat' (first | with_reducible assumption | with_reducible apply Keeps.flowNext | with_reducible apply Keeps.flowBin)

theorem Keeps.stepJump {s u : State} (h : Keeps s u) (i : Nat) : Keeps s (u.stepJump i) := by
  unfold State.stepJump
  try dsimp only
  repeat' (first | with_reducible assumption | with_reducible apply Keeps.flowGo | with_reducible apply Keeps.flowNext |
      with_reducible apply Keeps.ite)

theorem Keeps.stepWaitFor {s u : State} (h : Keeps s u) (i : Nat) : Keeps s (u.stepWaitFor i) := by
  unfold State.stepWaitFor
  try dsimp only
  repeat' (first | with_reducible assumption | with_reducible apply Keeps.updFlow | with_reducible apply Keeps.set)

theorem Keeps.flowWaitDone {s u : State} (h : Keeps s u) (i : Nat) : Keeps s (u.flowWaitDone i) := by
  unfold State.flowWaitDone
  try dsimp only
  repeat' (first | with_reducible assumption | with_reducible apply Keeps.flowNext | with_reducible apply Keeps.setC |
      with_reducible apply Keeps.at_ | with_reducible apply Keeps.ite | with_reducible refine Keeps.foldl ?_ (fun _ _ _ => ?_) |
      with_reducible refine Keeps.foldl1 ?_ (fun _ _ _ => ?_) | with_reducible apply Keeps.ite1 | intro _ | split)

theorem Keeps.stepLog {s u : State} (h : Keeps s u) (i : Nat) : Keeps s (u.stepLog i) := by
  unfold State.stepLog
  try dsimp only
  repeat' (first | with_reducible assumption | with_reducible apply Keeps.flowRecord)

theorem Keeps.stepHret {s u : State} (h : Keeps s u) (i : Nat) : Keeps s (u.stepHret i) := by
  unfold State.stepHret
  try dsimp only
  repeat' (first | with_reducible assumption | with_reducible apply Keeps.flowFault | with_reducible apply Keeps.flowGo |
      with_reducible apply Keeps.updFlow | with_reducible apply Keeps.ite | with_reducible refine Keeps.foldl ?_ (fun _ _ _ => ?_) |
      with_reducible refine Keeps.foldl1 ?_ (fun _ _ _ => ?_) | with_reducible apply Keeps.ite1 | intro _ | split)

theorem Keeps.handlerEnter {s u : State} (h : Keeps s u) (i : Nat) : Keeps s (u.handlerEnter i) := by
  unfold State.handlerEnter
  try dsimp only
  repeat' (first | with_reducible assumption | with_reducible apply Keeps.updFlow | with_reducible apply Keeps.setVar |
      with_reducible apply Keeps.flowRecord | with_reducible apply Keeps.ite | with_reducible refine Keeps.foldl ?_ (fun _ _ _ => ?_) |
      with_reducible refine Keeps.foldl1 ?_ (fun _ _ _ => ?_) | with_reducible apply Keeps.ite1 | intro _ | split)

theorem Keeps.handlerStart {s u : State} (h : Keeps s u) (i : Nat) : Keeps s (u.handlerStart i) := by
  unfold State.handlerStart
  try dsimp only
  repeat' (first | with_reducible assumption | with_reducible apply Keeps.runStart | with_reducible apply Keeps.handlerEnter |
      with_reducible apply Keeps.ite)

theorem Keeps.handlerTake {s u : State} (h : Keeps s u) (i : Nat) (m : FlowMatch) : Keeps s (u.handlerTake i m) := by
  unfold State.handlerTake
  try dsimp only
  repeat' (first | with_reducible assumption | with_reducible apply Keeps.flowOnce | with_reducible apply Keeps.flag |
      with_reducible apply Keeps.updFlow | with_reducible apply Keeps.flowBreak | with_reducible apply Keeps.ite)

theorem Keeps.handlerSite {s u : State} (h : Keeps s u) (i : Nat) (e : EventRec) : Keeps s (u.handlerSite i e) := by
  unfold State.handlerSite
  try dsimp only
  repeat' (first | with_reducible assumption | with_reducible apply Keeps.checkTable | with_reducible apply Keeps.handlerTake |
      with_reducible apply Keeps.ite | with_reducible refine Keeps.foldl ?_ (fun _ _ _ => ?_) |
      with_reducible refine Keeps.foldl1 ?_ (fun _ _ _ => ?_) | with_reducible apply Keeps.ite1 | intro _ | split)

theorem Keeps.handlersMatch {s u : State} (h : Keeps s u) (e : EventRec) : Keeps s (u.handlersMatch e) := by
  unfold State.handlersMatch
  try dsimp only
  repeat' (first | with_reducible assumption | with_reducible apply Keeps.handlerSite | with_reducible apply Keeps.ite |
      with_reducible refine Keeps.foldl ?_ (fun _ _ _ => ?_))

theorem Keeps.flowLeave {s u : State} (h : Keeps s u) (i : Nat) : Keeps s (u.flowLeave i) := by
  unfold State.flowLeave
  try dsimp only
  repeat' (first | with_reducible assumption | with_reducible apply Keeps.flowEnd | with_reducible apply Keeps.ite)

theorem Keeps.levelWrite {s u : State} (h : Keeps s u) (o : Origin) (v : Word) : Keeps s (u.levelWrite o v) := by
  unfold State.levelWrite
  try dsimp only
  repeat' (first | with_reducible assumption | with_reducible apply Keeps.flowLeave | with_reducible apply Keeps.siteLevelWrite |
      with_reducible apply Keeps.ite | with_reducible refine Keeps.foldl ?_ (fun _ _ _ => ?_))

end Sys2Proof.Machine
end

