-- ==== Sys2Proof/Laws/KeepsUnits.lean ====
section
/-! SUPPORT. `Keeps` of every operation: what the DRAM controller, streams, acquisition, the transaction rows, the Constellation and calibration keep. -/
namespace Sys2Proof.Machine

/-! DmaOps. -/

theorem Keeps.updChan {s u : State} (h : Keeps s u) (n : Nat) (f : DmaChan → DmaChan) : Keeps s (u.updChan n f) := by
  unfold State.updChan
  try dsimp only
  repeat' (first | with_reducible assumption | with_reducible apply Keeps.updDma)

/-! Dram. -/

theorem Keeps.drcEnter {s u : State} (h : Keeps s u) (l : List DrcReq) : Keeps s (u.drcEnter l) := by
  induction l generalizing u with
  | nil => exact h
  | cons r l ih =>
    unfold State.drcEnter
    exact ih (Keeps.ite (Keeps.updDrc h _) (Keeps.updDrc h _))

theorem Keeps.drcRefill {s u : State} (h : Keeps s u) : Keeps s (u.drcRefill) := by
  unfold State.drcRefill
  try dsimp only
  repeat' (first | with_reducible assumption | with_reducible apply Keeps.drcEnter | with_reducible apply Keeps.updDrc)

theorem Keeps.drcServe {s u : State} (h : Keeps s u) (r : DrcReq) : Keeps s (u.drcServe r) := by
  unfold State.drcServe
  try dsimp only
  repeat' (first | with_reducible assumption | with_reducible apply Keeps.updStr | with_reducible apply Keeps.updDrc |
      with_reducible apply Keeps.ite | with_reducible refine Keeps.foldl ?_ (fun _ _ _ => ?_) |
      with_reducible refine Keeps.foldl1 ?_ (fun _ _ _ => ?_) | with_reducible apply Keeps.ite1 | intro _ | split)

theorem Keeps.dramPick {s u : State} (h : Keeps s u) (ch : Nat) : Keeps s (u.dramPick ch) := by
  unfold State.dramPick
  try dsimp only
  repeat' (first | with_reducible assumption | with_reducible apply Keeps.drcRefill | with_reducible apply Keeps.at_ |
      with_reducible apply Keeps.drcServe | with_reducible apply Keeps.updDrc | with_reducible apply Keeps.ite |
      with_reducible refine Keeps.foldl ?_ (fun _ _ _ => ?_) | with_reducible refine Keeps.foldl1 ?_ (fun _ _ _ => ?_) |
      with_reducible apply Keeps.ite1 | intro _ | split)

theorem Keeps.grantInterval {s u : State} (h : Keeps s u) : Keeps s (u.grantInterval) := by
  unfold State.grantInterval
  try dsimp only
  repeat' (first | with_reducible assumption | with_reducible apply Keeps.at_ | with_reducible apply Keeps.updDrc |
      with_reducible apply Keeps.updStr | with_reducible apply Keeps.ite | with_reducible refine Keeps.foldl ?_ (fun _ _ _ => ?_))

theorem Keeps.dramRefresh {s u : State} (h : Keeps s u) : Keeps s (u.dramRefresh) := by
  unfold State.dramRefresh
  try dsimp only
  repeat' (first | with_reducible assumption | with_reducible apply Keeps.at_ | with_reducible apply Keeps.updDrc |
      with_reducible apply Keeps.ite)

theorem Keeps.dramHot {s u : State} (h : Keeps s u) (hot : List Nat) : Keeps s (u.dramHot hot) := by
  unfold State.dramHot
  try dsimp only
  repeat' (first | with_reducible assumption | with_reducible apply Keeps.raise | with_reducible apply Keeps.flag |
      with_reducible apply Keeps.taint | with_reducible apply Keeps.abortAtBoundary | with_reducible apply Keeps.ite |
      with_reducible refine Keeps.foldl ?_ (fun _ _ _ => ?_))

theorem Keeps.dramTemp {s u : State} (h : Keeps s u) (need : List Nat) (hot : List Nat) : Keeps s (u.dramTemp need hot) := by
  unfold State.dramTemp
  try dsimp only
  repeat' (first | with_reducible assumption | with_reducible apply Keeps.updDrc | with_reducible apply Keeps.raise |
      with_reducible apply Keeps.set | with_reducible apply Keeps.raiseIf | with_reducible apply Keeps.dramHot |
      with_reducible apply Keeps.taintAll | with_reducible apply Keeps.flag | with_reducible apply Keeps.ite)

theorem Keeps.dramScrub {s u : State} (h : Keeps s u) (e : Ecc) : Keeps s (u.dramScrub e) := by
  unfold State.dramScrub
  try dsimp only
  repeat' (first | with_reducible assumption | with_reducible apply Keeps.dramCheck | with_reducible apply Keeps.dramUpset |
      with_reducible apply Keeps.updDrc | with_reducible apply Keeps.ite)

theorem Keeps.showEyes {s u : State} (h : Keeps s u) : Keeps s (u.showEyes) := by
  unfold State.showEyes
  try dsimp only
  repeat' (first | with_reducible assumption | with_reducible apply Keeps.setReg | with_reducible apply Keeps.ite |
      with_reducible refine Keeps.foldl ?_ (fun _ _ _ => ?_))

theorem Keeps.trainStart {s u : State} (h : Keeps s u) (sps : List Nat) (f : TrainFor) : Keeps s (u.trainStart sps f) := by
  unfold State.trainStart
  try dsimp only
  repeat' (first | with_reducible assumption | with_reducible apply Keeps.updDrc | with_reducible apply Keeps.flag |
      with_reducible apply Keeps.set)

theorem Keeps.dramOn {s u : State} (h : Keeps s u) : Keeps s (u.dramOn) := by
  unfold State.dramOn
  try dsimp only
  repeat' (first | with_reducible assumption | with_reducible apply Keeps.set)

theorem Keeps.clearStart {s u : State} (h : Keeps s u) (retained : Nat) : Keeps s (u.clearStart retained) := by
  unfold State.clearStart
  try dsimp only
  repeat' (first | with_reducible assumption | with_reducible apply Keeps.updDrc | with_reducible apply Keeps.set |
      with_reducible apply Keeps.dramOn | with_reducible apply Keeps.ite)

theorem Keeps.changeEnd {s u : State} (h : Keeps s u) (k : Nat) : Keeps s (u.changeEnd k) := by
  unfold State.changeEnd
  try dsimp only
  repeat' (first | with_reducible assumption | with_reducible apply Keeps.budgets | with_reducible apply Keeps.showEyes |
      with_reducible apply Keeps.dramOn | with_reducible apply Keeps.updDrc | with_reducible apply Keeps.set |
      with_reducible apply Keeps.raise | with_reducible apply Keeps.admission | with_reducible apply Keeps.ite |
      with_reducible refine Keeps.foldl ?_ (fun _ _ _ => ?_))

theorem Keeps.dramFailed {s u : State} (h : Keeps s u) : Keeps s (u.dramFailed) := by
  unfold State.dramFailed
  try dsimp only
  repeat' (first | with_reducible assumption | with_reducible apply Keeps.flagIf | with_reducible apply Keeps.set |
      with_reducible apply Keeps.set64)

theorem Keeps.trainEnd {s u : State} (h : Keeps s u) (f : TrainFor) (ok : Bool) : Keeps s (u.trainEnd f ok) := by
  unfold State.trainEnd
  try dsimp only
  repeat' (first | with_reducible assumption | with_reducible apply Keeps.updDrc | with_reducible apply Keeps.set |
      with_reducible apply Keeps.set64 | with_reducible apply Keeps.clearStart | with_reducible apply Keeps.budgets |
      with_reducible apply Keeps.showEyes | with_reducible apply Keeps.dramFailed | with_reducible apply Keeps.changeEnd |
      with_reducible apply Keeps.dramOn | with_reducible apply Keeps.ite | with_reducible refine Keeps.foldl ?_ (fun _ _ _ => ?_) |
      with_reducible refine Keeps.foldl1 ?_ (fun _ _ _ => ?_) | with_reducible apply Keeps.ite1 | intro _ | split)

theorem Keeps.spTrained {s u : State} (h : Keeps s u) (t : Train) : Keeps s (u.spTrained t) := by
  unfold State.spTrained
  try dsimp only
  repeat' (first | with_reducible assumption | with_reducible apply Keeps.flag | with_reducible apply Keeps.set |
      with_reducible apply Keeps.raise | with_reducible apply Keeps.trainEnd | with_reducible apply Keeps.updDrc |
      with_reducible apply Keeps.ite | with_reducible refine Keeps.foldl ?_ (fun _ _ _ => ?_) |
      with_reducible refine Keeps.foldl1 ?_ (fun _ _ _ => ?_) | with_reducible apply Keeps.ite1 | intro _ | split)

theorem Keeps.trainStep {s u : State} (h : Keeps s u) (ch : Nat) (rdW : Nat) (rdH : Nat) (wrW : Nat) (wrH : Nat) : Keeps s (u.trainStep ch
    rdW rdH wrW wrH) := by
  unfold State.trainStep
  try dsimp only
  repeat' (first | with_reducible assumption | with_reducible apply Keeps.updDrc | with_reducible apply Keeps.spTrained |
      with_reducible apply Keeps.raise | with_reducible apply Keeps.flag | with_reducible apply Keeps.ite |
      with_reducible refine Keeps.foldl ?_ (fun _ _ _ => ?_) | with_reducible refine Keeps.foldl1 ?_ (fun _ _ _ => ?_) |
      with_reducible apply Keeps.ite1 | intro _ | split)

theorem Keeps.fspGo {s u : State} (h : Keeps s u) (k : Nat) : Keeps s (u.fspGo k) := by
  unfold State.fspGo
  try dsimp only
  repeat' (first | with_reducible assumption | with_reducible apply Keeps.flag | with_reducible apply Keeps.updDrc |
      with_reducible apply Keeps.flagIf | with_reducible apply Keeps.ite)

theorem Keeps.fspBegin {s u : State} (h : Keeps s u) : Keeps s (u.fspBegin) := by
  unfold State.fspBegin
  try dsimp only
  repeat' (first | with_reducible assumption | with_reducible apply Keeps.updDrc | with_reducible apply Keeps.set |
      with_reducible apply Keeps.at_ | with_reducible apply Keeps.ite | with_reducible refine Keeps.foldl ?_ (fun _ _ _ => ?_) |
      with_reducible refine Keeps.foldl1 ?_ (fun _ _ _ => ?_) | with_reducible apply Keeps.ite1 | intro _ | split)

theorem Keeps.fspDone {s u : State} (h : Keeps s u) : Keeps s (u.fspDone) := by
  unfold State.fspDone
  try dsimp only
  repeat' (first | with_reducible assumption | with_reducible apply Keeps.changeEnd | with_reducible apply Keeps.updDrc |
      with_reducible apply Keeps.set | with_reducible apply Keeps.trainStart | with_reducible apply Keeps.ite |
      with_reducible refine Keeps.foldl ?_ (fun _ _ _ => ?_) | with_reducible refine Keeps.foldl1 ?_ (fun _ _ _ => ?_) |
      with_reducible apply Keeps.ite1 | intro _ | split)

theorem Keeps.trainGo {s u : State} (h : Keeps s u) : Keeps s (u.trainGo) := by
  unfold State.trainGo
  try dsimp only
  repeat' (first | with_reducible assumption | with_reducible apply Keeps.trainStart | with_reducible apply Keeps.ite)

theorem Keeps.laneCheck {s u : State} (h : Keeps s u) (eyes : List (Nat × Nat × Nat × Nat × Nat)) : Keeps s (u.laneCheck eyes) := by
  unfold State.laneCheck
  try dsimp only
  repeat' (first | with_reducible assumption | with_reducible apply Keeps.updDrc | with_reducible apply Keeps.setReg |
      with_reducible apply Keeps.raiseIf | with_reducible apply Keeps.ite | with_reducible refine Keeps.foldl ?_ (fun _ _ _ => ?_))

theorem Keeps.bringUp {s u : State} (h : Keeps s u) : Keeps s (u.bringUp) := by
  unfold State.bringUp
  try dsimp only
  repeat' (first | with_reducible assumption | with_reducible apply Keeps.dramFailed | with_reducible apply Keeps.flag |
      with_reducible apply Keeps.trainStart | with_reducible apply Keeps.set | with_reducible apply Keeps.updDrc |
      with_reducible apply Keeps.ite)

theorem Keeps.segLost {s u : State} (h : Keeps s u) (k : Nat) : Keeps s (u.segLost k) :=
  Keeps.tables h rfl rfl rfl rfl rfl id (Sparse.wf_eraseRange _ _) id id id

theorem Keeps.dramRetain {s u : State} (h : Keeps s u) : Keeps s (u.dramRetain) := by
  unfold State.dramRetain
  try dsimp only
  repeat' (first | with_reducible assumption | with_reducible apply Keeps.segLost | with_reducible apply Keeps.updDrc |
      with_reducible apply Keeps.set | with_reducible apply Keeps.ite | with_reducible refine Keeps.foldl ?_ (fun _ _ _ => ?_))

theorem Keeps.dramOff {s u : State} (h : Keeps s u) : Keeps s (u.dramOff) := by
  unfold State.dramOff
  try dsimp only
  repeat' (first | with_reducible assumption | with_reducible apply Keeps.segLost | with_reducible apply Keeps.updDrc |
      with_reducible apply Keeps.set | with_reducible apply Keeps.ite | with_reducible refine Keeps.foldl ?_ (fun _ _ _ => ?_))

theorem Keeps.dramWant {s u : State} (h : Keeps s u) (r : Nat) : Keeps s (u.dramWant r) := by
  unfold State.dramWant
  try dsimp only
  repeat' (first | with_reducible assumption | with_reducible apply Keeps.updDrc | with_reducible apply Keeps.bringUp |
      with_reducible apply Keeps.set | with_reducible apply Keeps.dramOff | with_reducible apply Keeps.ite)

theorem Keeps.drcPwrWrite {s u : State} (h : Keeps s u) (o : Origin) (v : Word) : Keeps s (u.drcPwrWrite o v) := by
  unfold State.drcPwrWrite
  try dsimp only
  repeat' (first | with_reducible assumption | with_reducible apply Keeps.regWrite | with_reducible apply Keeps.dramWant)

theorem Keeps.dramPowerChange {s u : State} (h : Keeps s u) : Keeps s (u.dramPowerChange) := by
  unfold State.dramPowerChange
  try dsimp only
  repeat' (first | with_reducible assumption | with_reducible apply Keeps.dramRetain | with_reducible apply Keeps.dramOff |
      with_reducible apply Keeps.ite | with_reducible refine Keeps.foldl ?_ (fun _ _ _ => ?_) |
      with_reducible refine Keeps.foldl1 ?_ (fun _ _ _ => ?_) | with_reducible apply Keeps.ite1 | intro _ | split)

theorem Keeps.selfRefreshExit {s u : State} (h : Keeps s u) (lost : Bool) : Keeps s (u.selfRefreshExit lost) := by
  unfold State.selfRefreshExit
  try dsimp only
  repeat' (first | with_reducible assumption | with_reducible apply Keeps.updDrc | with_reducible apply Keeps.trainStart |
      with_reducible apply Keeps.clearStart | with_reducible apply Keeps.ite)

theorem Keeps.segmentCleared {s u : State} (h : Keeps s u) : Keeps s (u.segmentCleared) := by
  unfold State.segmentCleared
  try dsimp only
  repeat' (first | with_reducible assumption | with_reducible apply Keeps.set | with_reducible apply Keeps.segLost |
      with_reducible apply Keeps.raise | with_reducible apply Keeps.dramOn | with_reducible apply Keeps.ite |
      with_reducible refine Keeps.foldl ?_ (fun _ _ _ => ?_) | with_reducible refine Keeps.foldl1 ?_ (fun _ _ _ => ?_) |
      with_reducible apply Keeps.ite1 | intro _ | split)

theorem Keeps.drcClrCounts {s u : State} (h : Keeps s u) : Keeps s (u.drcClrCounts) := by
  unfold State.drcClrCounts
  try dsimp only
  repeat' (first | with_reducible assumption | with_reducible apply Keeps.set)

/-! StreamRows. -/

theorem Keeps.sendReq {s u : State} (h : Keeps s u) (i : Nat) (r : StreamReq) : Keeps s (u.sendReq i r) := by
  unfold State.sendReq
  try dsimp only
  repeat' (first | with_reducible assumption | with_reducible apply Keeps.drcEnter | with_reducible apply Keeps.updStr)

theorem Keeps.streamRequest {s u : State} (h : Keeps s u) (i : Nat) : Keeps s (u.streamRequest i) := by
  unfold State.streamRequest
  try dsimp only
  repeat' (first | with_reducible assumption | with_reducible apply Keeps.flowTry | with_reducible apply Keeps.engineDecode |
      with_reducible apply Keeps.sendReq | with_reducible apply Keeps.updPath | with_reducible apply Keeps.ite |
      with_reducible refine Keeps.foldl ?_ (fun _ _ _ => ?_) | with_reducible refine Keeps.foldl1 ?_ (fun _ _ _ => ?_) |
      with_reducible apply Keeps.ite1 | intro _ | split)

theorem Keeps.fetchMarks {s u : State} (h : Keeps s u) (i : Nat) (r : StreamReq) : Keeps s (u.fetchMarks i r) := by
  unfold State.fetchMarks
  try dsimp only
  repeat' (first | with_reducible assumption | with_reducible apply Keeps.dramCheck | with_reducible apply Keeps.updStr |
      with_reducible apply Keeps.ite | with_reducible refine Keeps.foldl ?_ (fun _ _ _ => ?_))

theorem Keeps.streamArrive {s u : State} (h : Keeps s u) (i : Nat) (e : Ecc) : Keeps s (u.streamArrive i e) := by
  unfold State.streamArrive
  try dsimp only
  repeat' (first | with_reducible assumption | with_reducible apply Keeps.fetchMarks | with_reducible apply Keeps.checkRegion |
      with_reducible apply Keeps.dramUpset | with_reducible apply Keeps.updStr | with_reducible apply Keeps.portATouch |
      with_reducible apply Keeps.portAFill | with_reducible apply Keeps.flowTry | with_reducible apply Keeps.engineDecode |
      with_reducible apply Keeps.setLevel | with_reducible apply Keeps.ite | with_reducible refine Keeps.foldl ?_ (fun _ _ _ => ?_) |
      with_reducible refine Keeps.foldl1 ?_ (fun _ _ _ => ?_) | with_reducible apply Keeps.ite1 | intro _ | split)

theorem Keeps.published {s u : State} (h : Keeps s u) (i : Nat) (id : Nat) : Keeps s (u.published i id) := by
  unfold State.published
  try dsimp only
  repeat' (first | with_reducible assumption | with_reducible apply Keeps.updPath | with_reducible apply Keeps.updSeq |
      with_reducible apply Keeps.flowTry | with_reducible apply Keeps.enterSeg | with_reducible apply Keeps.set |
      with_reducible apply Keeps.ite | with_reducible refine Keeps.foldl ?_ (fun _ _ _ => ?_) |
      with_reducible refine Keeps.foldl1 ?_ (fun _ _ _ => ?_) | with_reducible apply Keeps.ite1 | intro _ | split)

theorem Keeps.publish {s u : State} (h : Keeps s u) (i : Nat) (id : Nat) (e : Ecc) : Keeps s (u.publish i id e) := by
  unfold State.publish
  try dsimp only
  repeat' (first | with_reducible assumption | with_reducible apply Keeps.updDma | with_reducible apply Keeps.overlapMarks |
      with_reducible apply Keeps.segPublish | with_reducible apply Keeps.published | with_reducible apply Keeps.ite)

theorem Keeps.segCmd {s u : State} (h : Keeps s u) (i : Nat) (v : Word) (e : Ecc) : Keeps s (u.segCmd i v e) := by
  unfold State.segCmd
  try dsimp only
  repeat' (first | with_reducible assumption | with_reducible apply Keeps.publish | with_reducible apply Keeps.segUnpublish |
      with_reducible apply Keeps.ite | with_reducible refine Keeps.foldl ?_ (fun _ _ _ => ?_) |
      with_reducible refine Keeps.foldl1 ?_ (fun _ _ _ => ?_) | with_reducible apply Keeps.ite1 | intro _ | split)

theorem Keeps.segtabWrite {s u : State} (h : Keeps s u) (o : Origin) (i : Nat) (a : Nat) (v : Word) : Keeps s (u.segtabWrite o i a v) := by
  unfold State.segtabWrite
  try dsimp only
  repeat' (first | with_reducible assumption | with_reducible apply Keeps.idleWrite)

theorem Keeps.flagSet {s u : State} (h : Keeps s u) (i : Nat) (v : Word) : Keeps s (u.flagSet i v) := by
  unfold State.flagSet
  try dsimp only
  repeat' (first | with_reducible assumption | with_reducible apply Keeps.setFlag | with_reducible apply Keeps.ite |
      with_reducible refine Keeps.foldl ?_ (fun _ _ _ => ?_))

theorem Keeps.flagClear {s u : State} (h : Keeps s u) (i : Nat) (v : Word) : Keeps s (u.flagClear i v) := by
  unfold State.flagClear
  try dsimp only
  repeat' (first | with_reducible assumption | with_reducible apply Keeps.set)

theorem Keeps.resultRingWrite {s u : State} (h : Keeps s u) (o : Origin) (i : Nat) (v : Word) : Keeps s (u.resultRingWrite o i v) := by
  unfold State.resultRingWrite
  try dsimp only
  repeat' (first | with_reducible assumption | with_reducible apply Keeps.set | with_reducible apply Keeps.regWrite)

theorem Keeps.result0Read {s u : State} (h : Keeps s u) (o : Origin) (i : Nat) : Keeps s (u.result0Read o i).1 := by
  unfold State.result0Read
  try dsimp only
  repeat' (first | with_reducible assumption | with_reducible apply Keeps.latch | with_reducible apply Keeps.ite |
      with_reducible refine Keeps.foldl ?_ (fun _ _ _ => ?_))

/-! Acquire. -/

theorem Keeps.addItem {s u : State} (h : Keeps s u) (p : Nat) (t : Nat) (v : Option Nat) (k : AcqKind) : Keeps s (u.addItem p t v k) := by
  unfold State.addItem
  try dsimp only
  repeat' (first | with_reducible assumption | with_reducible apply Keeps.updAcq | with_reducible apply Keeps.ite |
      with_reducible refine Keeps.foldl ?_ (fun _ _ _ => ?_) | with_reducible refine Keeps.foldl1 ?_ (fun _ _ _ => ?_) |
      with_reducible apply Keeps.ite1 | intro _ | split)

theorem Keeps.eventItems {s u : State} (h : Keeps s u) (i : Nat) (p : Nat) (e : EdgeEvent) : Keeps s (u.eventItems i p e) := by
  unfold State.eventItems
  try dsimp only
  repeat' (first | with_reducible assumption | with_reducible apply Keeps.addItem | with_reducible apply Keeps.ite |
      with_reducible refine Keeps.foldl ?_ (fun _ _ _ => ?_) | with_reducible refine Keeps.foldl1 ?_ (fun _ _ _ => ?_) |
      with_reducible apply Keeps.ite1 | intro _ | split)

theorem Keeps.closeEvent {s u : State} (h : Keeps s u) (i : Nat) (p : Nat) (e : EdgeEvent) : Keeps s (u.closeEvent i p e) := by
  unfold State.closeEvent
  try dsimp only
  repeat' (first | with_reducible assumption | with_reducible apply Keeps.updAcq | with_reducible apply Keeps.eventItems |
      with_reducible apply Keeps.ite | with_reducible refine Keeps.foldl ?_ (fun _ _ _ => ?_) |
      with_reducible refine Keeps.foldl1 ?_ (fun _ _ _ => ?_) | with_reducible apply Keeps.ite1 | intro _ | split)

theorem Keeps.openEvent {s u : State} (h : Keeps s u) (i : Nat) (p : Nat) (t : Nat) (k : CrossKind) : Keeps s (u.openEvent i p t k) := by
  unfold State.openEvent
  try dsimp only
  repeat' (first | with_reducible assumption | with_reducible apply Keeps.updAcq)

theorem Keeps.stampCross {s u : State} (h : Keeps s u) (i : Nat) (p : Nat) (t : Nat) (k : CrossKind) : Keeps s (u.stampCross i p t k) := by
  unfold State.stampCross
  try dsimp only
  repeat' (first | with_reducible assumption | with_reducible apply Keeps.openEvent | with_reducible apply Keeps.closeEvent |
      with_reducible apply Keeps.ite | with_reducible refine Keeps.foldl ?_ (fun _ _ _ => ?_) |
      with_reducible refine Keeps.foldl1 ?_ (fun _ _ _ => ?_) | with_reducible apply Keeps.ite1 | intro _ | split)

theorem Keeps.flagChange {s u : State} (h : Keeps s u) (p : Nat) (t : Nat) (high : Bool) : Keeps s (u.flagChange p t high) := by
  unfold State.flagChange
  try dsimp only
  repeat' (first | with_reducible assumption | with_reducible apply Keeps.at_ | with_reducible apply Keeps.updPin |
      with_reducible apply Keeps.tdcCross | with_reducible apply Keeps.settle | with_reducible apply Keeps.stampCross |
      with_reducible apply Keeps.ite | with_reducible refine Keeps.foldl ?_ (fun _ _ _ => ?_) |
      with_reducible refine Keeps.foldl1 ?_ (fun _ _ _ => ?_) | with_reducible apply Keeps.ite1 | intro _ | split)

theorem Keeps.crossing {s u : State} (h : Keeps s u) (p : Nat) (t : Nat) (high : Bool) (v : Int) : Keeps s (u.crossing p t high v) := by
  unfold State.crossing
  try dsimp only
  repeat' (first | with_reducible assumption | with_reducible apply Keeps.flagChange | with_reducible apply Keeps.updPin |
      with_reducible apply Keeps.ite)

theorem Keeps.eventTimeout {s u : State} (h : Keeps s u) (p : Nat) : Keeps s (u.eventTimeout p) := by
  unfold State.eventTimeout
  try dsimp only
  repeat' (first | with_reducible assumption | with_reducible apply Keeps.settle | with_reducible apply Keeps.closeEvent |
      with_reducible apply Keeps.at_ | with_reducible apply Keeps.ite | with_reducible refine Keeps.foldl ?_ (fun _ _ _ => ?_) |
      with_reducible refine Keeps.foldl1 ?_ (fun _ _ _ => ?_) | with_reducible apply Keeps.ite1 | intro _ | split)

theorem Keeps.stampDone {s u : State} (h : Keeps s u) (p : Nat) : Keeps s (u.stampDone p) := by
  unfold State.stampDone
  try dsimp only
  repeat' (first | with_reducible assumption | with_reducible apply Keeps.settle | with_reducible apply Keeps.eventItems |
      with_reducible apply Keeps.updAcq | with_reducible apply Keeps.ite | with_reducible refine Keeps.foldl ?_ (fun _ _ _ => ?_) |
      with_reducible refine Keeps.foldl1 ?_ (fun _ _ _ => ?_) | with_reducible apply Keeps.ite1 | intro _ | split)

theorem Keeps.trigTimeout {s u : State} (h : Keeps s u) (p : Nat) (u0 : Nat) (t : Nat) : Keeps s (u.trigTimeout p u0 t) := by
  unfold State.trigTimeout
  try dsimp only
  repeat' (first | with_reducible assumption | with_reducible apply Keeps.settle | with_reducible apply Keeps.addItem |
      with_reducible apply Keeps.at_ | with_reducible apply Keeps.ite | with_reducible refine Keeps.foldl ?_ (fun _ _ _ => ?_) |
      with_reducible refine Keeps.foldl1 ?_ (fun _ _ _ => ?_) | with_reducible apply Keeps.ite1 | intro _ | split)

/-! XeRows. -/

theorem Keeps.xePortWrite {s u : State} (h : Keeps s u) (o : Origin) (n : Nat) (a : Nat) (v : Word) : Keeps s (u.xePortWrite o n a v) := by
  unfold State.xePortWrite
  try dsimp only
  repeat' (first | with_reducible assumption | with_reducible apply Keeps.idleWrite)

theorem Keeps.resBaseWrite {s u : State} (h : Keeps s u) (o : Origin) (i : Nat) (a : Nat) (v : Word) : Keeps s (u.resBaseWrite o i a v) :=
    by
  unfold State.resBaseWrite
  try dsimp only
  repeat' (first | with_reducible assumption | with_reducible apply Keeps.updXeSite | with_reducible apply Keeps.set |
      with_reducible apply Keeps.regWrite)

theorem Keeps.resTailWrite {s u : State} (h : Keeps s u) (o : Origin) (i : Nat) (v : Word) : Keeps s (u.resTailWrite o i v) := by
  unfold State.resTailWrite
  try dsimp only
  repeat' (first | with_reducible assumption | with_reducible apply Keeps.updXeSite | with_reducible apply Keeps.regWrite)

theorem Keeps.captureBit {s u : State} (h : Keeps s u) : Keeps s (u.captureBit) := by
  unfold State.captureBit
  try dsimp only
  repeat' (first | with_reducible assumption | with_reducible apply Keeps.updXe | with_reducible apply Keeps.settle |
      with_reducible apply Keeps.capReturn | with_reducible apply Keeps.ite | with_reducible refine Keeps.foldl ?_ (fun _ _ _ => ?_) |
      with_reducible refine Keeps.foldl1 ?_ (fun _ _ _ => ?_) | with_reducible apply Keeps.ite1 | intro _ | split)

theorem Keeps.tplRow {s u : State} (h : Keeps s u) (n : Nat) (op : Nat) : Keeps s (u.tplRow n op) := by
  unfold State.tplRow
  try dsimp only
  repeat' (first | with_reducible assumption | with_reducible apply Keeps.xeKind | with_reducible apply Keeps.settle)

theorem Keeps.dispatchRow {s u : State} (h : Keeps s u) (i : Nat) : Keeps s (u.dispatchRow i) := by
  unfold State.dispatchRow
  try dsimp only
  repeat' (first | with_reducible assumption | with_reducible apply Keeps.settle | with_reducible apply Keeps.dispatch)

theorem Keeps.ivlBaseWrite {s u : State} (h : Keeps s u) (o : Origin) (lo : Word) (hi : Word) : Keeps s (u.ivlBaseWrite o lo hi) := by
  unfold State.ivlBaseWrite
  try dsimp only
  repeat' (first | with_reducible assumption | with_reducible apply Keeps.overlapMarks | with_reducible apply Keeps.ivlReset |
      with_reducible apply Keeps.regWrite64)

theorem Keeps.ivlRingSet {s u : State} (h : Keeps s u) (o : Origin) (k : Nat) (v : Word) : Keeps s (u.ivlRingSet o k v) := by
  unfold State.ivlRingSet
  try dsimp only
  repeat' (first | with_reducible assumption | with_reducible apply Keeps.pairWrite | with_reducible apply Keeps.ivlBaseWrite |
      with_reducible apply Keeps.overlapMarks | with_reducible apply Keeps.ivlReset | with_reducible apply Keeps.regWrite |
      with_reducible apply Keeps.ite | with_reducible refine Keeps.foldl ?_ (fun _ _ _ => ?_) |
      with_reducible refine Keeps.foldl1 ?_ (fun _ _ _ => ?_) | with_reducible apply Keeps.ite1 | intro _)

/-! Constellation. -/

theorem Keeps.sendHello {s u : State} (h : Keeps s u) (p : Nat) : Keeps s (u.sendHello p) := by
  unfold State.sendHello
  try dsimp only
  repeat' (first | with_reducible assumption | with_reducible apply Keeps.updPort | with_reducible apply Keeps.sendFrame)

theorem Keeps.helloSync {s u : State} (h : Keeps s u) : Keeps s (u.helloSync) := by
  unfold State.helloSync
  try dsimp only
  repeat' (first | with_reducible assumption | with_reducible apply Keeps.sendHello | with_reducible apply Keeps.ite |
      with_reducible refine Keeps.foldl ?_ (fun _ _ _ => ?_))

theorem Keeps.portStates {s u : State} (h : Keeps s u) (act : Option Nat) : Keeps s (u.portStates act) := by
  unfold State.portStates
  try dsimp only
  repeat' (first | with_reducible assumption | with_reducible apply Keeps.set | with_reducible apply Keeps.ite |
      with_reducible refine Keeps.foldl ?_ (fun _ _ _ => ?_))

theorem Keeps.treeEval {s u : State} (h : Keeps s u) (resend : List Frame) : Keeps s (u.treeEval resend) := by
  unfold State.treeEval
  try dsimp only
  repeat' (first | with_reducible assumption | with_reducible apply Keeps.set | with_reducible apply Keeps.portStates |
      with_reducible apply Keeps.taintAll | with_reducible apply Keeps.raise | with_reducible apply Keeps.flag |
      with_reducible apply Keeps.helloSync | with_reducible apply Keeps.sendFrame | with_reducible apply Keeps.ite |
      with_reducible refine Keeps.foldl ?_ (fun _ _ _ => ?_) | with_reducible refine Keeps.foldl1 ?_ (fun _ _ _ => ?_) |
      with_reducible apply Keeps.ite1 | intro _ | split)

theorem Keeps.portDown {s u : State} (h : Keeps s u) (p : Nat) (why : Nat) : Keeps s (u.portDown p why) := by
  unfold State.portDown
  try dsimp only
  repeat' (first | with_reducible assumption | with_reducible apply Keeps.raise | with_reducible apply Keeps.set |
      with_reducible apply Keeps.treeEval | with_reducible apply Keeps.setPort | with_reducible apply Keeps.ite)

theorem Keeps.linkUp {s u : State} (h : Keeps s u) (p : Nat) : Keeps s (u.linkUp p) := by
  unfold State.linkUp
  try dsimp only
  repeat' (first | with_reducible assumption | with_reducible apply Keeps.raise | with_reducible apply Keeps.set |
      with_reducible apply Keeps.helloSync | with_reducible apply Keeps.setPort | with_reducible apply Keeps.ite)

theorem Keeps.linkQualified {s u : State} (h : Keeps s u) (p : Nat) : Keeps s (u.linkQualified p) := by
  unfold State.linkQualified
  try dsimp only
  repeat' (first | with_reducible assumption | with_reducible apply Keeps.at_ | with_reducible apply Keeps.treeEval |
      with_reducible apply Keeps.flag | with_reducible apply Keeps.ite)

theorem Keeps.linkReplay {s u : State} (h : Keeps s u) (p : Nat) (hit : Sent → Bool) : Keeps s (u.linkReplay p hit) := by
  unfold State.linkReplay
  try dsimp only
  repeat' (first | with_reducible assumption | with_reducible apply Keeps.count | with_reducible apply Keeps.emit |
      with_reducible apply Keeps.setPort | with_reducible apply Keeps.portDown | with_reducible apply Keeps.ite |
      with_reducible refine Keeps.foldl ?_ (fun _ _ _ => ?_))

theorem Keeps.replayTimeout {s u : State} (h : Keeps s u) (p : Nat) : Keeps s (u.replayTimeout p) := by
  unfold State.replayTimeout
  try dsimp only
  repeat' (first | with_reducible assumption | with_reducible apply Keeps.at_ | with_reducible apply Keeps.linkReplay |
      with_reducible apply Keeps.ite | with_reducible refine Keeps.foldl ?_ (fun _ _ _ => ?_) |
      with_reducible refine Keeps.foldl1 ?_ (fun _ _ _ => ?_) | with_reducible apply Keeps.ite1 | intro _ | split)

theorem Keeps.sendNak {s u : State} (h : Keeps s u) (p : Nat) : Keeps s (u.sendNak p) := by
  unfold State.sendNak
  try dsimp only
  repeat' (first | with_reducible assumption | with_reducible apply Keeps.sendFrame)

theorem Keeps.receive {s u : State} (h : Keeps s u) (p : Nat) (a1 : Rx) (type : Nat) : Keeps s (u.receive p a1 type).1 := by
  unfold State.receive
  try dsimp only
  repeat' (first | with_reducible assumption | with_reducible apply Keeps.updPort | with_reducible apply Keeps.sendNak |
      with_reducible apply Keeps.count | with_reducible apply Keeps.ite | with_reducible refine Keeps.foldl ?_ (fun _ _ _ => ?_) |
      with_reducible refine Keeps.foldl1 ?_ (fun _ _ _ => ?_) | with_reducible apply Keeps.ite1 | intro _ | split)

theorem Keeps.onFrame {s u : State} (h : Keeps s u) (p : Nat) (x : Rx) (type : Nat) (f : State → State)
    (hf : ∀ v, Keeps s v → Keeps s (f v)) : Keeps s (u.onFrame p x type f) := by
  unfold State.onFrame
  exact Keeps.ite (hf _ (Keeps.receive h _ _ _)) (Keeps.receive h _ _ _)

theorem Keeps.sendEpoch {s u : State} (h : Keeps s u) (src : Nat) (e : EpochFwd) (p : Nat) : Keeps s (u.sendEpoch src e p) := by
  unfold State.sendEpoch
  try dsimp only
  repeat' (first | with_reducible assumption | with_reducible apply Keeps.sendFrame)

theorem Keeps.forwardEpoch {s u : State} (h : Keeps s u) (e : EpochFwd) : Keeps s (u.forwardEpoch e) := by
  unfold State.forwardEpoch
  try dsimp only
  repeat' (first | with_reducible assumption | with_reducible apply Keeps.sendEpoch | with_reducible apply Keeps.updIat |
      with_reducible apply Keeps.ite | with_reducible refine Keeps.foldl ?_ (fun _ _ _ => ?_))

theorem Keeps.pendEpoch {s u : State} (h : Keeps s u) (e : EpochPend) : Keeps s (u.pendEpoch e) := by
  unfold State.pendEpoch
  try dsimp only
  repeat' (first | with_reducible assumption | with_reducible apply Keeps.updTb)

theorem Keeps.rootEpoch {s u : State} (h : Keeps s u) (src : Nat) (qualify : Nat) : Keeps s (u.rootEpoch src qualify) := by
  unfold State.rootEpoch
  try dsimp only
  repeat' (first | with_reducible assumption | with_reducible apply Keeps.set | with_reducible apply Keeps.updIat |
      with_reducible apply Keeps.forwardEpoch | with_reducible apply Keeps.pendEpoch | with_reducible apply Keeps.ite)

theorem Keeps.rootEpochCmd {s u : State} (h : Keeps s u) : Keeps s (u.rootEpochCmd) := by
  unfold State.rootEpochCmd
  try dsimp only
  repeat' (first | with_reducible assumption | with_reducible apply Keeps.rootEpoch | with_reducible apply Keeps.at_ |
      with_reducible apply Keeps.ite)

theorem Keeps.iatCmd {s u : State} (h : Keeps s u) (o : Origin) (v : Word) : Keeps s (u.iatCmd o v) := by
  unfold State.iatCmd
  try dsimp only
  repeat' (first | with_reducible assumption | with_reducible apply Keeps.regWrite | with_reducible apply Keeps.flagIf |
      with_reducible apply Keeps.rootEpochCmd | with_reducible apply Keeps.ite)

theorem Keeps.epochInQualify {s u : State} (h : Keeps s u) : Keeps s (u.epochInQualify) := by
  unfold State.epochInQualify
  try dsimp only
  repeat' (first | with_reducible assumption | with_reducible apply Keeps.at_ | with_reducible apply Keeps.pendEpoch |
      with_reducible apply Keeps.rootEpoch | with_reducible apply Keeps.ite)

theorem Keeps.epochFrame {s u : State} (h : Keeps s u) (p : Nat) (w1 : Nat) (w2 : Nat) (w3 : Nat) : Keeps s (u.epochFrame p w1 w2 w3) := by
  unfold State.epochFrame
  try dsimp only
  repeat' (first | with_reducible assumption | with_reducible apply Keeps.taintAll | with_reducible apply Keeps.raise |
      with_reducible apply Keeps.flag | with_reducible apply Keeps.forwardEpoch | with_reducible apply Keeps.pendEpoch |
      with_reducible apply Keeps.ite)

theorem Keeps.eventFrame {s u : State} (h : Keeps s u) (p : Nat) (src : Nat) (w1 : Nat) (w2 : Nat) : Keeps s (u.eventFrame p src w1 w2) :=
    by
  unfold State.eventFrame
  try dsimp only
  repeat' (first | with_reducible assumption | with_reducible apply Keeps.flood | with_reducible apply Keeps.taintAll |
      with_reducible apply Keeps.raise | with_reducible apply Keeps.flag | with_reducible apply Keeps.evtTake |
      with_reducible apply Keeps.ite)

theorem Keeps.eventApply {s u : State} (h : Keeps s u) : Keeps s (u.eventApply) := by
  unfold State.eventApply
  try dsimp only
  repeat' (first | with_reducible assumption | with_reducible apply Keeps.at_ | with_reducible apply Keeps.updIat |
      with_reducible apply Keeps.evtAct | with_reducible apply Keeps.ite | with_reducible refine Keeps.foldl ?_ (fun _ _ _ => ?_) |
      with_reducible refine Keeps.foldl1 ?_ (fun _ _ _ => ?_) | with_reducible apply Keeps.ite1 | intro _ | split)

theorem Keeps.adopt {s u : State} (h : Keeps s u) (p : Nat) : Keeps s (u.adopt p) := by
  unfold State.adopt
  try dsimp only
  repeat' (first | with_reducible assumption | with_reducible apply Keeps.sendFrame | with_reducible apply Keeps.sendEpoch |
      with_reducible apply Keeps.ite | with_reducible refine Keeps.foldl ?_ (fun _ _ _ => ?_))

theorem Keeps.helloFrame {s u : State} (h : Keeps s u) (p : Nat) (src : Nat) (w : Nat) : Keeps s (u.helloFrame p src w) := by
  unfold State.helloFrame
  try dsimp only
  repeat' (first | with_reducible assumption | with_reducible apply Keeps.set | with_reducible apply Keeps.updPort |
      with_reducible apply Keeps.raise | with_reducible apply Keeps.flag | with_reducible apply Keeps.treeEval |
      with_reducible apply Keeps.adopt | with_reducible apply Keeps.ite)

theorem Keeps.portCfgWrite {s u : State} (h : Keeps s u) (o : Origin) (p : Nat) (v : Word) : Keeps s (u.portCfgWrite o p v) := by
  unfold State.portCfgWrite
  try dsimp only
  repeat' (first | with_reducible assumption | with_reducible apply Keeps.regWrite | with_reducible apply Keeps.setPort |
      with_reducible apply Keeps.set | with_reducible apply Keeps.treeEval | with_reducible apply Keeps.ite)

theorem Keeps.iatCfgWrite {s u : State} (h : Keeps s u) (o : Origin) (a : Nat) (v : Word) : Keeps s (u.iatCfgWrite o a v) := by
  unfold State.iatCfgWrite
  try dsimp only
  repeat' (first | with_reducible assumption | with_reducible apply Keeps.helloSync | with_reducible apply Keeps.regWrite)

theorem Keeps.sendProbes {s u : State} (h : Keeps s u) : Keeps s (u.sendProbes) := by
  unfold State.sendProbes
  try dsimp only
  repeat' (first | with_reducible assumption | with_reducible apply Keeps.updPort | with_reducible apply Keeps.sendFrame |
      with_reducible apply Keeps.ite | with_reducible refine Keeps.foldl ?_ (fun _ _ _ => ?_))

theorem Keeps.dropProbes {s u : State} (h : Keeps s u) (p : Nat) : Keeps s (u.dropProbes p) := by
  unfold State.dropProbes
  try dsimp only
  repeat' (first | with_reducible assumption | with_reducible apply Keeps.updPort)

theorem Keeps.probeReply {s u : State} (h : Keeps s u) (p : Nat) (id : Nat) (turn : Nat) : Keeps s (u.probeReply p id turn) := by
  unfold State.probeReply
  try dsimp only
  repeat' (first | with_reducible assumption | with_reducible apply Keeps.dropProbes | with_reducible apply Keeps.set |
      with_reducible apply Keeps.updPort | with_reducible apply Keeps.ite | with_reducible refine Keeps.foldl ?_ (fun _ _ _ => ?_) |
      with_reducible refine Keeps.foldl1 ?_ (fun _ _ _ => ?_) | with_reducible apply Keeps.ite1 | intro _ | split)

theorem Keeps.msgEnd {s u : State} (h : Keeps s u) (result : Nat) : Keeps s (u.msgEnd result) := by
  unfold State.msgEnd
  try dsimp only
  repeat' (first | with_reducible assumption | with_reducible apply Keeps.set)

theorem Keeps.msgRsp {s u : State} (h : Keeps s u) (src : Nat) (w : Nat) : Keeps s (u.msgRsp src w) := by
  unfold State.msgRsp
  try dsimp only
  repeat' (first | with_reducible assumption | with_reducible apply Keeps.msgEnd | with_reducible apply Keeps.set |
      with_reducible apply Keeps.ite)

theorem Keeps.route {s u : State} (h : Keeps s u) (f : Frame) : Keeps s (u.route f) := by
  unfold State.route
  try dsimp only
  repeat' (first | with_reducible assumption | with_reducible apply Keeps.msgRsp | with_reducible apply Keeps.updIat |
      with_reducible apply Keeps.sendFrame | with_reducible apply Keeps.raise | with_reducible apply Keeps.flag |
      with_reducible apply Keeps.ite | with_reducible refine Keeps.foldl ?_ (fun _ _ _ => ?_) |
      with_reducible refine Keeps.foldl1 ?_ (fun _ _ _ => ?_) | with_reducible apply Keeps.ite1 | intro _ | split)

theorem Keeps.msgCmd {s u : State} (h : Keeps s u) (v : Word) : Keeps s (u.msgCmd v) := by
  unfold State.msgCmd
  try dsimp only
  repeat' (first | with_reducible assumption | with_reducible apply Keeps.updIat | with_reducible apply Keeps.set |
      with_reducible apply Keeps.route | with_reducible apply Keeps.ite)

theorem Keeps.msgTimeout {s u : State} (h : Keeps s u) : Keeps s (u.msgTimeout) := by
  unfold State.msgTimeout
  try dsimp only
  repeat' (first | with_reducible assumption | with_reducible apply Keeps.at_ | with_reducible apply Keeps.raise |
      with_reducible apply Keeps.msgEnd | with_reducible apply Keeps.ite)

/-! Calibration. -/

theorem Keeps.calRunEnd {s u : State} (h : Keeps s u) : Keeps s (u.calRunEnd) := by
  unfold State.calRunEnd
  try dsimp only
  repeat' (first | with_reducible assumption | with_reducible apply Keeps.set | with_reducible apply Keeps.raise |
      with_reducible apply Keeps.ite)

theorem Keeps.calStatus {s u : State} (h : Keeps s u) (p : Nat) (k : CalKind) (st : Nat) : Keeps s (u.calStatus p k st) := by
  unfold State.calStatus
  try dsimp only
  repeat' (first | with_reducible assumption | with_reducible apply Keeps.set | with_reducible apply Keeps.updCal |
      with_reducible apply Keeps.flag | with_reducible apply Keeps.raiseIf | with_reducible apply Keeps.ite)

theorem Keeps.calRun {s u : State} (h : Keeps s u) : Keeps s (u.calRun) := by
  unfold State.calRun
  try dsimp only
  repeat' (first | with_reducible assumption | with_reducible apply Keeps.updCal | with_reducible apply Keeps.set |
      with_reducible apply Keeps.calRunEnd | with_reducible apply Keeps.ite)

theorem Keeps.calCancel {s u : State} (h : Keeps s u) : Keeps s (u.calCancel) := by
  unfold State.calCancel
  try dsimp only
  repeat' (first | with_reducible assumption | with_reducible apply Keeps.updCal | with_reducible apply Keeps.calRunEnd |
      with_reducible apply Keeps.calStatus | with_reducible apply Keeps.ite | with_reducible refine Keeps.foldl ?_ (fun _ _ _ => ?_))

theorem Keeps.calBall {s u : State} (h : Keeps s u) (p : Nat) (a : CalKind) : Keeps s (u.calBall p a) := by
  unfold State.calBall
  try dsimp only
  repeat' (first | with_reducible assumption | with_reducible apply Keeps.emit | with_reducible apply Keeps.ite |
      with_reducible refine Keeps.foldl ?_ (fun _ _ _ => ?_) | with_reducible refine Keeps.foldl1 ?_ (fun _ _ _ => ?_) |
      with_reducible apply Keeps.ite1 | intro _ | split)

theorem Keeps.calBegin {s u : State} (h : Keeps s u) (p : Nat) (k : CalKind) (repeats : Nat) : Keeps s (u.calBegin p k repeats) := by
  unfold State.calBegin
  try dsimp only
  repeat' (first | with_reducible assumption | with_reducible apply Keeps.updCal | with_reducible apply Keeps.calBall)

theorem Keeps.calNext {s u : State} (h : Keeps s u) (k : Nat) : Keeps s (u.calNext k) := by
  unfold State.calNext
  try dsimp only
  repeat' (first | with_reducible assumption | with_reducible apply Keeps.updCal | with_reducible apply Keeps.calRunEnd |
      with_reducible apply Keeps.calStatus | with_reducible apply Keeps.calBegin | with_reducible apply Keeps.ite |
      with_reducible refine Keeps.foldl ?_ (fun _ _ _ => ?_) | with_reducible refine Keeps.foldl1 ?_ (fun _ _ _ => ?_) |
      with_reducible apply Keeps.ite1 | intro _ | split)

theorem Keeps.calRelease {s u : State} (h : Keeps s u) (c : CalStep) : Keeps s (u.calRelease c) := by
  unfold State.calRelease
  try dsimp only
  repeat' (first | with_reducible assumption | with_reducible apply Keeps.updCal | with_reducible apply Keeps.applyIdle |
      with_reducible apply Keeps.emit | with_reducible apply Keeps.pinEffect | with_reducible apply Keeps.ite |
      with_reducible refine Keeps.foldl ?_ (fun _ _ _ => ?_))

theorem Keeps.calStamp {s u : State} (h : Keeps s u) (p : Nat) : Keeps s (u.calStamp p) := by
  unfold State.calStamp
  try dsimp only
  repeat' (first | with_reducible assumption | with_reducible apply Keeps.updCal)

theorem Keeps.calLevel {s u : State} (h : Keeps s u) (p : Nat) (l : List DacMeasure) (clh : DacMeasure) (cll : DacMeasure) : Keeps s
    (u.calLevel p l clh cll) := by
  unfold State.calLevel
  try dsimp only
  repeat' (first | with_reducible assumption | with_reducible apply Keeps.updCal | with_reducible apply Keeps.set |
      with_reducible apply Keeps.calStatus | with_reducible apply Keeps.calStamp | with_reducible apply Keeps.ite |
      with_reducible refine Keeps.foldl ?_ (fun _ _ _ => ?_))

theorem Keeps.calTiming {s u : State} (h : Keeps s u) (p : Nat) (tx : List Int) (rx : List Int) : Keeps s (u.calTiming p tx rx) := by
  unfold State.calTiming
  try dsimp only
  repeat' (first | with_reducible assumption | with_reducible apply Keeps.updCal | with_reducible apply Keeps.set |
      with_reducible apply Keeps.calStatus | with_reducible apply Keeps.calStamp | with_reducible apply Keeps.ite)

theorem Keeps.calTdr {s u : State} (h : Keeps s u) (p : Nat) (ls : List (List TdrCross)) : Keeps s (u.calTdr p ls) := by
  unfold State.calTdr
  try dsimp only
  repeat' (first | with_reducible assumption | with_reducible apply Keeps.calStatus | with_reducible apply Keeps.set |
      with_reducible apply Keeps.ite)

theorem Keeps.calResult {s u : State} (h : Keeps s u) (c : CalStep) (m : CalMeasure) : KeepsO s (u.calResult c m) := by
  unfold State.calResult
  generalize c.kind = k
  cases k <;> cases m <;> first
    | exact KeepsO.none
    | exact KeepsO.some (Keeps.calLevel h _ _ _ _)
    | exact KeepsO.some (Keeps.calTiming h _ _ _)
    | exact KeepsO.some (Keeps.calTdr h _ _)

theorem Keeps.calAgain {s u : State} (h : Keeps s u) (c : CalStep) : Keeps s (u.calAgain c) := by
  unfold State.calAgain
  try dsimp only
  repeat' (first | with_reducible assumption | with_reducible apply Keeps.calRunEnd | with_reducible apply Keeps.calStatus |
      with_reducible apply Keeps.calRelease | with_reducible apply Keeps.updCal | with_reducible apply Keeps.ite)

theorem Keeps.calRepeat {s u : State} (h : Keeps s u) (c : CalStep) : Keeps s (u.calRepeat c) := by
  unfold State.calRepeat
  try dsimp only
  repeat' (first | with_reducible assumption | with_reducible apply Keeps.updCal | with_reducible apply Keeps.calBall |
      with_reducible apply Keeps.calRunEnd | with_reducible apply Keeps.calStatus | with_reducible apply Keeps.calRelease |
      with_reducible apply Keeps.ite)

theorem Keeps.calStepStart {s u : State} (h : Keeps s u) (k : Nat) : Keeps s (u.calStepStart k) := by
  unfold State.calStepStart
  try dsimp only
  repeat' (first | with_reducible assumption | with_reducible apply Keeps.calRepeat | with_reducible apply Keeps.calNext |
      with_reducible apply Keeps.ite | with_reducible refine Keeps.foldl ?_ (fun _ _ _ => ?_) |
      with_reducible refine Keeps.foldl1 ?_ (fun _ _ _ => ?_) | with_reducible apply Keeps.ite1 | intro _ | split)

theorem Keeps.calStepDone {s u : State} (h : Keeps s u) (k : Nat) (m : CalMeasure) : Keeps s (u.calStepDone k m) := by
  unfold State.calStepDone
  try dsimp only
  repeat' (first | with_reducible assumption | with_reducible apply Keeps.calAgain | with_reducible apply Keeps.calResult |
      with_reducible apply Keeps.calRunEnd | with_reducible apply Keeps.calRelease | with_reducible apply Keeps.ite |
      with_reducible refine Keeps.foldl ?_ (fun _ _ _ => ?_) | with_reducible refine Keeps.foldl1 ?_ (fun _ _ _ => ?_) |
      with_reducible apply Keeps.ite1 | with_reducible exact KeepsO.none | with_reducible exact KeepsOP.none |
      with_reducible apply KeepsO.some | with_reducible apply KeepsOP.some | with_reducible apply KeepsO.ite |
      with_reducible apply KeepsOP.ite | with_reducible refine KeepsO.getD ?_ ?_ | with_reducible refine KeepsO.bind ?_ (fun _ _ => ?_) |
      with_reducible refine KeepsOP.bind ?_ (fun _ _ => ?_) | with_reducible refine KeepsO.map ?_ (fun _ _ => ?_) |
      with_reducible refine KeepsO.ofMap ?_ (fun _ _ => ?_) | with_reducible refine KeepsOP.map ?_ (fun _ _ => ?_) |
      with_reducible refine KeepsO.foldl ?_ (fun _ _ _ => ?_) | with_reducible refine KeepsO.get ?_ (by assumption) |
      with_reducible refine KeepsOP.get ?_ (by assumption) | with_reducible refine KeepsOP.get1 ?_ (by assumption) | intro _ | split)

theorem Keeps.calCmd {s u : State} (h : Keeps s u) (o : Origin) (v : Word) : Keeps s (u.calCmd o v) := by
  unfold State.calCmd
  try dsimp only
  repeat' (first | with_reducible assumption | with_reducible apply Keeps.regWrite | with_reducible apply Keeps.calRun |
      with_reducible apply Keeps.calCancel | with_reducible apply Keeps.calCommit | with_reducible apply Keeps.updCal |
      with_reducible apply Keeps.set | with_reducible apply Keeps.setWork | with_reducible apply Keeps.ite)

theorem Keeps.almWrite {s u : State} (h : Keeps s u) (b0 : List Byte) (b1 : List Byte) : Keeps s (u.almWrite b0 b1) := by
  unfold State.almWrite
  try dsimp only
  repeat' (first | with_reducible assumption | with_reducible apply Keeps.raise | with_reducible apply Keeps.set |
      with_reducible apply Keeps.emit | with_reducible apply Keeps.updCal | with_reducible apply Keeps.ite)

theorem Keeps.almSave {s u : State} (h : Keeps s u) (b0 : List Byte) (b1 : List Byte) : Keeps s (u.almSave b0 b1) := by
  unfold State.almSave
  try dsimp only
  repeat' (first | with_reducible assumption | with_reducible apply Keeps.updCal | with_reducible apply Keeps.set |
      with_reducible apply Keeps.almWrite | with_reducible apply Keeps.ite)

theorem Keeps.almNext {s u : State} (h : Keeps s u) : Keeps s (u.almNext) := by
  unfold State.almNext
  try dsimp only
  repeat' (first | with_reducible assumption | with_reducible apply Keeps.almWrite | with_reducible apply Keeps.updCal |
      with_reducible apply Keeps.ite | with_reducible refine Keeps.foldl ?_ (fun _ _ _ => ?_) |
      with_reducible refine Keeps.foldl1 ?_ (fun _ _ _ => ?_) | with_reducible apply Keeps.ite1 | intro _ | split)

theorem Keeps.almSaved {s u : State} (h : Keeps s u) (back : Option (List Byte)) : Keeps s (u.almSaved back) := by
  unfold State.almSaved
  try dsimp only
  repeat' (first | with_reducible assumption | with_reducible apply Keeps.updCal | with_reducible apply Keeps.set |
      with_reducible apply Keeps.raise | with_reducible apply Keeps.ite | with_reducible refine Keeps.foldl ?_ (fun _ _ _ => ?_) |
      with_reducible refine Keeps.foldl1 ?_ (fun _ _ _ => ?_) | with_reducible apply Keeps.ite1 | intro _ | split)

theorem Keeps.almTake {s u : State} (h : Keeps s u) (slot : Nat) (bs : List Byte) : Keeps s (u.almTake slot bs) := by
  unfold State.almTake
  try dsimp only
  repeat' (first | with_reducible assumption | with_reducible apply Keeps.updCal | with_reducible apply Keeps.setWork |
      with_reducible apply Keeps.setCfg | with_reducible apply Keeps.set | with_reducible apply Keeps.ite |
      with_reducible refine Keeps.foldl ?_ (fun _ _ _ => ?_))

theorem Keeps.almLoad {s u : State} (h : Keeps s u) (b0 : List Byte) (b1 : List Byte) : Keeps s (u.almLoad b0 b1) := by
  unfold State.almLoad
  try dsimp only
  repeat' (first | with_reducible assumption | with_reducible apply Keeps.almTake | with_reducible apply Keeps.raise |
      with_reducible apply Keeps.flag | with_reducible apply Keeps.updCal | with_reducible apply Keeps.setWork |
      with_reducible apply Keeps.ite | with_reducible refine Keeps.foldl ?_ (fun _ _ _ => ?_) |
      with_reducible refine Keeps.foldl1 ?_ (fun _ _ _ => ?_) | with_reducible apply Keeps.ite1 | intro _ | split)

end Sys2Proof.Machine
end

