-- ==== Sys2Proof/Laws/KeepsSystem.lean ====
section
/-! SUPPORT. `Keeps` of every operation: what memory, events, protection, security, DMA control, reset, power and images keep. -/
namespace Sys2Proof.Machine

/-! Memory. -/

theorem Keeps.setBank {s u : State} (h : Keeps s u) (b : Nat) (v : BankState) : Keeps s (u.setBank b v) := by
  unfold State.setBank
  try dsimp only
  repeat' (first | with_reducible assumption | with_reducible apply Keeps.updMem | with_reducible apply Keeps.set)

theorem Keeps.bankRequest {s u : State} (h : Keeps s u) (b : Nat) (r : Nat) : Keeps s (u.bankRequest b r) := by
  unfold State.bankRequest
  try dsimp only
  repeat' (first | with_reducible assumption | with_reducible apply Keeps.setBank | with_reducible apply Keeps.ite |
      with_reducible refine Keeps.foldl ?_ (fun _ _ _ => ?_) | with_reducible refine Keeps.foldl1 ?_ (fun _ _ _ => ?_) |
      with_reducible apply Keeps.ite1 | intro _ | split)

theorem Keeps.bankCtrlWrite {s u : State} (h : Keeps s u) (o : Origin) (n : Nat) (v : Word) : Keeps s (u.bankCtrlWrite o n v) := by
  unfold State.bankCtrlWrite
  try dsimp only
  repeat' (first | with_reducible assumption | with_reducible apply Keeps.regWrite | with_reducible apply Keeps.bankRequest |
      with_reducible apply Keeps.ite | with_reducible refine Keeps.foldl ?_ (fun _ _ _ => ?_))

theorem Keeps.physErase {s u : State} (h : Keeps s u) (j : Nat) : Keeps s (u.physErase j) :=
  Keeps.tables h rfl rfl rfl rfl rfl (Sparse.wf_eraseRange _ _) id id id id

theorem Keeps.memGone {s u : State} (h : Keeps s u) : Keeps s u.memGone :=
  Keeps.tables h rfl rfl rfl rfl rfl (fun _ => rfl) id id id id

theorem Keeps.bankChange {s u : State} (h : Keeps s u) (b : Nat) : Keeps s (u.bankChange b) := by
  unfold State.bankChange
  try dsimp only
  repeat' (first | with_reducible assumption | with_reducible apply Keeps.setBank | with_reducible apply Keeps.physErase |
      with_reducible apply Keeps.ite | with_reducible refine Keeps.foldl ?_ (fun _ _ _ => ?_) |
      with_reducible refine Keeps.foldl1 ?_ (fun _ _ _ => ?_) | with_reducible apply Keeps.ite1 | intro _ | split)

theorem Keeps.bankHeld {s u : State} (h : Keeps s u) (b : Nat) : Keeps s (u.bankHeld b) := by
  unfold State.bankHeld
  try dsimp only
  repeat' (first | with_reducible assumption | with_reducible apply Keeps.bankRequest | with_reducible apply Keeps.setBank |
      with_reducible apply Keeps.ite | with_reducible refine Keeps.foldl ?_ (fun _ _ _ => ?_) |
      with_reducible refine Keeps.foldl1 ?_ (fun _ _ _ => ?_) | with_reducible apply Keeps.ite1 | intro _ | split)

theorem Keeps.bankWoken {s u : State} (h : Keeps s u) (b : Nat) : Keeps s (u.bankWoken b) := by
  unfold State.bankWoken
  try dsimp only
  repeat' (first | with_reducible assumption | with_reducible apply Keeps.bankHeld | with_reducible apply Keeps.setBank |
      with_reducible apply Keeps.ite)

theorem Keeps.bankCleared {s u : State} (h : Keeps s u) (b : Nat) : Keeps s (u.bankCleared b) := by
  unfold State.bankCleared
  try dsimp only
  repeat' (first | with_reducible assumption | with_reducible apply Keeps.bankHeld | with_reducible apply Keeps.raise |
      with_reducible apply Keeps.setBank | with_reducible apply Keeps.physErase | with_reducible apply Keeps.ite)

theorem Keeps.secureDenied {s u : State} (h : Keeps s u) (a0 : Nat) : Keeps s (u.secureDenied a0) := by
  unfold State.secureDenied
  try dsimp only
  repeat' (first | with_reducible assumption | with_reducible apply Keeps.flagOnce)

theorem Keeps.secureWipe {s u : State} (h : Keeps s u) : Keeps s (u.secureWipe) := by
  unfold State.secureWipe
  try dsimp only
  repeat' (first | with_reducible assumption | with_reducible apply Keeps.flag | with_reducible apply Keeps.physErase |
      with_reducible apply Keeps.ite | with_reducible refine Keeps.foldl ?_ (fun _ _ _ => ?_))

theorem Keeps.secureWiped {s u : State} (h : Keeps s u) : Keeps s (u.secureWiped) := by
  unfold State.secureWiped
  try dsimp only
  repeat' (first | with_reducible assumption | with_reducible apply Keeps.raise | with_reducible apply Keeps.set |
      with_reducible apply Keeps.physErase | with_reducible apply Keeps.ite | with_reducible refine Keeps.foldl ?_ (fun _ _ _ => ?_))

theorem Keeps.retire {s u : State} (h : Keeps s u) (j : Nat) : Keeps s (u.retire j) := by
  unfold State.retire
  try dsimp only
  repeat' (first | with_reducible assumption | with_reducible apply Keeps.spareCount | with_reducible apply Keeps.raise |
      with_reducible apply Keeps.set | with_reducible apply Keeps.physErase)

theorem Keeps.repairsTry {s u : State} (h : Keeps s u) (fuel : Nat) : Keeps s (State.repairsTry fuel u) := by
  induction fuel generalizing u with
  | zero => exact h
  | succ fuel ih =>
    unfold State.repairsTry
    split
    · exact ih (Keeps.copyStart (Keeps.updMem h _) _ _ _)
    · exact h

theorem Keeps.memRepair {s u : State} (h : Keeps s u) (b : Nat) : Keeps s (u.memRepair b) := by
  unfold State.memRepair
  try dsimp only
  repeat' (first | with_reducible assumption | with_reducible apply Keeps.repairStart | with_reducible apply Keeps.updMem |
      with_reducible apply Keeps.ite)

theorem Keeps.bistStart {s u : State} (h : Keeps s u) : Keeps s (u.bistStart) := by
  unfold State.bistStart
  try dsimp only
  repeat' (first | with_reducible assumption | with_reducible apply Keeps.at_ | with_reducible apply Keeps.set |
      with_reducible apply Keeps.copyStart | with_reducible apply Keeps.spareWait | with_reducible apply Keeps.ite |
      with_reducible refine Keeps.foldl ?_ (fun _ _ _ => ?_) | with_reducible refine Keeps.foldl1 ?_ (fun _ _ _ => ?_) |
      with_reducible apply Keeps.ite1 | intro _ | split)

theorem Keeps.physCopy {s u : State} (h : Keeps s u) (a b : Nat) : Keeps s (u.physCopy a b) :=
  Keeps.tables (Keeps.physErase h b) rfl rfl rfl rfl rfl (Sparse.wf_copyRange _ _ _ (fun _ _ => rfl)) id id id id

theorem Keeps.copyDone {s u : State} (h : Keeps s u) (b : Nat) : Keeps s (u.copyDone b) := by
  unfold State.copyDone
  try dsimp only
  repeat' (first | with_reducible assumption | with_reducible apply Keeps.set | with_reducible apply Keeps.updMem |
      with_reducible apply Keeps.physCopy | with_reducible apply Keeps.raise | with_reducible apply Keeps.repairsTry |
      with_reducible apply Keeps.retire | with_reducible apply Keeps.spareCount | with_reducible apply Keeps.ite |
      with_reducible refine Keeps.foldl ?_ (fun _ _ _ => ?_) | with_reducible refine Keeps.foldl1 ?_ (fun _ _ _ => ?_) |
      with_reducible apply Keeps.ite1 | intro _ | split)

theorem Keeps.marchDone {s u : State} (h : Keeps s u) (pass : Bool) : Keeps s (u.marchDone pass) := by
  unfold State.marchDone
  try dsimp only
  repeat' (first | with_reducible assumption | with_reducible apply Keeps.updMem | with_reducible apply Keeps.physErase |
      with_reducible apply Keeps.spareCount | with_reducible apply Keeps.retire | with_reducible apply Keeps.count |
      with_reducible apply Keeps.repairsTry | with_reducible apply Keeps.set | with_reducible apply Keeps.ite |
      with_reducible refine Keeps.foldl ?_ (fun _ _ _ => ?_) | with_reducible refine Keeps.foldl1 ?_ (fun _ _ _ => ?_) |
      with_reducible apply Keeps.ite1 | intro _ | split)

theorem Keeps.spareExhausted {s u : State} (h : Keeps s u) : Keeps s (u.spareExhausted) := by
  unfold State.spareExhausted
  try dsimp only
  repeat' (first | with_reducible assumption | with_reducible apply Keeps.at_ | with_reducible apply Keeps.updMem |
      with_reducible apply Keeps.raiseIf | with_reducible apply Keeps.ite | with_reducible refine Keeps.foldl ?_ (fun _ _ _ => ?_) |
      with_reducible refine Keeps.foldl1 ?_ (fun _ _ _ => ?_) | with_reducible apply Keeps.ite1 | intro _ | split)

theorem Keeps.memClrCounts {s u : State} (h : Keeps s u) : Keeps s (u.memClrCounts) := by
  unfold State.memClrCounts
  try dsimp only
  repeat' (first | with_reducible assumption | with_reducible apply Keeps.set)

theorem Keeps.memCmd {s u : State} (h : Keeps s u) (v : Word) : Keeps s (u.memCmd v) := by
  unfold State.memCmd
  try dsimp only
  repeat' (first | with_reducible assumption | with_reducible apply Keeps.memRepair | with_reducible apply Keeps.memClrCounts |
      with_reducible apply Keeps.ite)

theorem Keeps.bootMarch {s u : State} (h : Keeps s u) (bad : List Nat) : Keeps s (u.bootMarch bad) := by
  unfold State.bootMarch
  try dsimp only
  repeat' (first | with_reducible assumption | with_reducible apply Keeps.memGone | with_reducible apply Keeps.set |
      with_reducible apply Keeps.spareCount | with_reducible apply Keeps.ite | with_reducible refine Keeps.foldl ?_ (fun _ _ _ => ?_))

theorem Keeps.spareError {s u : State} (h : Keeps s u) (e : Ecc) : Keeps s (u.spareError e) := by
  unfold State.spareError
  try dsimp only
  repeat' (first | with_reducible assumption | with_reducible apply Keeps.flagOnce | with_reducible apply Keeps.count |
      with_reducible apply Keeps.tickFresh | with_reducible apply Keeps.raise | with_reducible apply Keeps.flag |
      with_reducible apply Keeps.set | with_reducible apply Keeps.ite | with_reducible refine Keeps.foldl ?_ (fun _ _ _ => ?_) |
      with_reducible refine Keeps.foldl1 ?_ (fun _ _ _ => ?_) | with_reducible apply Keeps.ite1 | intro _ | split)

theorem Keeps.scrubRead {s u : State} (h : Keeps s u) (e : Ecc) : Keeps s (u.scrubRead e) := by
  unfold State.scrubRead
  try dsimp only
  repeat' (first | with_reducible assumption | with_reducible apply Keeps.updMem | with_reducible apply Keeps.spareError |
      with_reducible apply Keeps.ocmUpset | with_reducible apply Keeps.ocmUe | with_reducible apply Keeps.ite |
      with_reducible refine Keeps.foldl ?_ (fun _ _ _ => ?_) | with_reducible refine Keeps.foldl1 ?_ (fun _ _ _ => ?_) |
      with_reducible apply Keeps.ite1 | intro _ | split)

/-! Events. -/

theorem Keeps.setArmed {s u : State} (h : Keeps s u) (v : Nat) (on : Bool) : Keeps s (u.setArmed v on) := by
  unfold State.setArmed
  try dsimp only
  repeat' (first | with_reducible assumption | with_reducible apply Keeps.set)

theorem Keeps.setPba {s u : State} (h : Keeps s u) (v : Nat) (on : Bool) : Keeps s (u.setPba v on) := by
  unfold State.setPba
  try dsimp only
  repeat' (first | with_reducible assumption | with_reducible apply Keeps.set)

theorem Keeps.msixSend {s u : State} (h : Keeps s u) (v : Nat) : Keeps s (u.msixSend v) := by
  unfold State.msixSend
  try dsimp only
  repeat' (first | with_reducible assumption | with_reducible apply Keeps.emit | with_reducible apply Keeps.setPba |
      with_reducible apply Keeps.ite)

theorem Keeps.msixFlush {s u : State} (h : Keeps s u) : Keeps s (u.msixFlush) := by
  unfold State.msixFlush
  try dsimp only
  repeat' (first | with_reducible assumption | with_reducible apply Keeps.emit | with_reducible apply Keeps.setPba |
      with_reducible apply Keeps.ite | with_reducible refine Keeps.foldl ?_ (fun _ _ _ => ?_))

theorem Keeps.vectorAct {s u : State} (h : Keeps s u) (v : Nat) : Keeps s (u.vectorAct v) := by
  unfold State.vectorAct
  try dsimp only
  repeat' (first | with_reducible assumption | with_reducible apply Keeps.msixSend | with_reducible apply Keeps.setArmed |
      with_reducible apply Keeps.updHost | with_reducible apply Keeps.ite)

theorem Keeps.vectorRearm {s u : State} (h : Keeps s u) (v : Nat) : Keeps s (u.vectorRearm v) := by
  unfold State.vectorRearm
  try dsimp only
  repeat' (first | with_reducible assumption | with_reducible apply Keeps.msixSend | with_reducible apply Keeps.setArmed |
      with_reducible apply Keeps.updHost | with_reducible apply Keeps.ite)

theorem Keeps.armWrite {s u : State} (h : Keeps s u) (n : Nat) (v : Word) : Keeps s (u.armWrite n v) := by
  unfold State.armWrite
  try dsimp only
  repeat' (first | with_reducible assumption | with_reducible apply Keeps.vectorRearm | with_reducible apply Keeps.ite |
      with_reducible refine Keeps.foldl ?_ (fun _ _ _ => ?_))

theorem Keeps.msixWrite {s u : State} (h : Keeps s u) (o : Origin) (a : Nat) (v : Word) : Keeps s (u.msixWrite o a v) := by
  unfold State.msixWrite
  try dsimp only
  repeat' (first | with_reducible assumption | with_reducible apply Keeps.msixFlush | with_reducible apply Keeps.regWrite)

theorem Keeps.evtNonempty {s u : State} (h : Keeps s u) : Keeps s (u.evtNonempty) := by
  unfold State.evtNonempty
  try dsimp only
  repeat' (first | with_reducible assumption | with_reducible apply Keeps.set)

theorem Keeps.evtStore {s u : State} (h : Keeps s u) (e : EventRec) : Keeps s (u.evtStore e) := by
  unfold State.evtStore
  try dsimp only
  repeat' (first | with_reducible assumption | with_reducible apply Keeps.flag | with_reducible apply Keeps.count |
      with_reducible apply Keeps.putRegion | with_reducible apply Keeps.set | with_reducible apply Keeps.evtNonempty |
      with_reducible apply Keeps.ite)

theorem Keeps.evtRoute {s u : State} (h : Keeps s u) (e : EventRec) : Keeps s (u.evtRoute e) := by
  unfold State.evtRoute
  try dsimp only
  repeat' (first | with_reducible assumption | with_reducible apply Keeps.vectorAct | with_reducible apply Keeps.ite)

theorem Keeps.eventEnter {s u : State} (h : Keeps s u) : Keeps s (u.eventEnter) := by
  unfold State.eventEnter
  try dsimp only
  repeat' (first | with_reducible assumption | with_reducible apply Keeps.set | with_reducible apply Keeps.evtRoute |
      with_reducible apply Keeps.handlersMatch | with_reducible apply Keeps.evtStore | with_reducible apply Keeps.ite |
      with_reducible refine Keeps.foldl ?_ (fun _ _ _ => ?_) | with_reducible refine Keeps.foldl1 ?_ (fun _ _ _ => ?_) |
      with_reducible apply Keeps.ite1 | intro _ | split | with_reducible exact Keeps.frame h rfl rfl rfl rfl rfl rfl rfl rfl rfl rfl)

theorem Keeps.evtCfgWrite {s u : State} (h : Keeps s u) (o : Origin) (v : Word) : Keeps s (u.evtCfgWrite o v) := by
  unfold State.evtCfgWrite
  try dsimp only
  repeat' (first | with_reducible assumption | with_reducible apply Keeps.regWrite | with_reducible apply Keeps.updHost |
      with_reducible apply Keeps.flagIf | with_reducible apply Keeps.set | with_reducible apply Keeps.evtNonempty |
      with_reducible apply Keeps.ite)

theorem Keeps.evtRingWrite {s u : State} (h : Keeps s u) (o : Origin) (a : Nat) (v : Word) : Keeps s (u.evtRingWrite o a v) := by
  unfold State.evtRingWrite
  try dsimp only
  repeat' (first | with_reducible assumption | with_reducible apply Keeps.regWrite | with_reducible apply Keeps.ite)

theorem Keeps.evtTailWrite {s u : State} (h : Keeps s u) (v : Word) : Keeps s (u.evtTailWrite v) := by
  unfold State.evtTailWrite
  try dsimp only
  repeat' (first | with_reducible assumption | with_reducible apply Keeps.evtNonempty | with_reducible apply Keeps.set |
      with_reducible apply Keeps.ite)

theorem Keeps.mboxCmd {s u : State} (h : Keeps s u) (v : Word) : Keeps s (u.mboxCmd v) := by
  unfold State.mboxCmd
  try dsimp only
  repeat' (first | with_reducible assumption | with_reducible apply Keeps.flag | with_reducible apply Keeps.flagIf |
      with_reducible apply Keeps.vectorAct | with_reducible apply Keeps.ite)

theorem Keeps.dmaHostErr {s u : State} (h : Keeps s u) : Keeps s (u.dmaHostErr) := by
  unfold State.dmaHostErr
  try dsimp only
  repeat' (first | with_reducible assumption | with_reducible apply Keeps.updDma)

theorem Keeps.msixReset {s u : State} (h : Keeps s u) : Keeps s (u.msixReset) := by
  unfold State.msixReset
  try dsimp only
  repeat' (first | with_reducible assumption | with_reducible apply Keeps.eraseRegs)

theorem Keeps.hostReset {s u : State} (h : Keeps s u) (r : HostReset) : Keeps s (u.hostReset r) := by
  unfold State.hostReset
  try dsimp only
  repeat' (first | with_reducible assumption | with_reducible apply Keeps.set | with_reducible apply Keeps.dmaHostErr |
      with_reducible apply Keeps.updHost | with_reducible apply Keeps.msixReset | with_reducible apply Keeps.flagIf)

theorem Keeps.pcieUp {s u : State} (h : Keeps s u) (speed : Nat) (width : Nat) : Keeps s (u.pcieUp speed width) := by
  unfold State.pcieUp
  try dsimp only
  repeat' (first | with_reducible assumption | with_reducible apply Keeps.flag | with_reducible apply Keeps.set |
      with_reducible apply Keeps.ite)

theorem Keeps.configWord {s u : State} (h : Keeps s u) (off : Nat) : Keeps s (u.configWord off).1 := by
  unfold State.configWord
  try dsimp only
  repeat' (first | with_reducible assumption | with_reducible apply Keeps.tickFresh | with_reducible apply Keeps.ite |
      with_reducible refine Keeps.foldl ?_ (fun _ _ _ => ?_) | with_reducible refine Keeps.foldl1 ?_ (fun _ _ _ => ?_) |
      with_reducible apply Keeps.ite1)

theorem Keeps.configRequest {s u : State} (h : Keeps s u) (q : CfgReq) : Keeps s (u.configRequest q) := by
  unfold State.configRequest
  try dsimp only
  repeat' (first | with_reducible assumption | with_reducible apply Keeps.emit | with_reducible apply Keeps.configWord |
      with_reducible apply Keeps.msixFlush | with_reducible apply Keeps.updHost | with_reducible apply Keeps.ite |
      with_reducible refine Keeps.foldl ?_ (fun _ _ _ => ?_) | with_reducible refine Keeps.foldl1 ?_ (fun _ _ _ => ?_) |
      with_reducible apply Keeps.ite1 | intro _ | split)

/-! Protect. -/

theorem Keeps.regDeny {s u : State} (h : Keeps s u) (o : Origin) : Keeps s (u.regDeny o) := by
  unfold State.regDeny
  try dsimp only
  repeat' (first | with_reducible assumption | with_reducible apply Keeps.flagOnce)

/-! Security. -/

theorem Keeps.secKeygen {s u : State} (h : Keeps s u) : Keeps s (u.secKeygen) := by
  unfold State.secKeygen
  try dsimp only
  repeat' (first | with_reducible assumption | with_reducible apply Keeps.set | with_reducible apply Keeps.updSec |
      with_reducible apply Keeps.ite)

theorem Keeps.keygenDone {s u : State} (h : Keeps s u) : Keeps s u.keygenDone := by
  unfold State.keygenDone
  exact Keeps.ite (Keeps.set (Keeps.set (Keeps.updSec (Keeps.updNv h _
    (fun hs => ⟨hs, Nat.le_refl _, Nat.le_refl _, Nat.le_succ _⟩)) _) _ _) _ _) h

theorem Keeps.secNonce {s u : State} (h : Keeps s u) : Keeps s (u.secNonce) := by
  unfold State.secNonce
  try dsimp only
  repeat' (first | with_reducible assumption | with_reducible apply Keeps.updSec | with_reducible apply Keeps.set64 |
      with_reducible apply Keeps.tickFresh)

theorem Keeps.tokenSubmit {s u : State} (h : Keeps s u) (o : Origin) : Keeps s (u.tokenSubmit o) := by
  unfold State.tokenSubmit
  try dsimp only
  repeat' (first | with_reducible assumption | with_reducible apply Keeps.set | with_reducible apply Keeps.checkRegion |
      with_reducible apply Keeps.set64 | with_reducible apply Keeps.updSec | with_reducible apply Keeps.ite)

theorem Keeps.tokenDone {s u : State} (h : Keeps s u) : Keeps s (u.tokenDone) := by
  unfold State.tokenDone
  try dsimp only
  repeat' (first | with_reducible assumption | with_reducible apply Keeps.set | with_reducible apply Keeps.updSec |
      with_reducible apply Keeps.tickFresh | with_reducible apply Keeps.raise | with_reducible apply Keeps.audit |
      with_reducible apply Keeps.ite | with_reducible refine Keeps.foldl ?_ (fun _ _ _ => ?_) |
      with_reducible refine Keeps.foldl1 ?_ (fun _ _ _ => ?_) | with_reducible apply Keeps.ite1 | intro _ | split)

theorem Keeps.releaseArms {s u : State} (h : Keeps s u) : Keeps s (u.releaseArms) := by
  unfold State.releaseArms
  try dsimp only
  repeat' (first | with_reducible assumption | with_reducible apply Keeps.updBurst | with_reducible apply Keeps.ite |
      with_reducible refine Keeps.foldl ?_ (fun _ _ _ => ?_))

theorem KeyStore.commit_le (k : KeyStore) (kind : Nat) (pay : List Byte) : k.le (k.commit kind pay) := by
  intro hs
  unfold KeyStore.commit
  split <;> exact ⟨hs, Nat.le_refl _, Nat.le_refl _, Nat.le_refl _⟩

theorem Keeps.lifecycleCommit {s u : State} (h : Keeps s u) : Keeps s u.lifecycleCommit := by
  unfold State.lifecycleCommit
  split
  · exact h
  · exact Keeps.ite h (Keeps.releaseArms (Keeps.raise (Keeps.set (Keeps.updSec (Keeps.checkpoint (Keeps.audit (Keeps.updNv
      (Keeps.secureWiped (Keeps.secureWipe h)) _ (KeyStore.commit_le _ _ _)) _ _ _ _ _ _) _) _) _ _) _ _ _))

theorem Keeps.secCmd {s u : State} (h : Keeps s u) (o : Origin) (v : Word) : Keeps s (u.secCmd o v) := by
  unfold State.secCmd
  try dsimp only
  repeat' (first | with_reducible assumption | with_reducible apply Keeps.secNonce | with_reducible apply Keeps.tokenSubmit |
      with_reducible apply Keeps.secKeygen | with_reducible apply Keeps.ite)

theorem satAdd_le {n a b : Nat} (h : a < 2 ^ n) : a ≤ satAdd n a b := by unfold satAdd; omega

theorem satAdd_lt (n a b : Nat) : satAdd n a b < 2 ^ n := by
  have := Nat.two_pow_pos n
  unfold satAdd
  omega

theorem Keeps.tamper {s u : State} (h : Keeps s u) : Keeps s u.tamper := by
  unfold State.tamper
  refine Keeps.ite h (Keeps.raise (Keeps.checkpoint (Keeps.audit (Keeps.flag (Keeps.updSec (Keeps.updNv
    (Keeps.secureWipe h) _ ?_) _) _) _ _ _ _ _ _) _) _ _ _)
  intro hs
  simp only [KeyStore.sound, Bool.and_eq_true, decide_eq_true_eq] at hs ⊢
  exact ⟨⟨hs.1, satAdd_lt _ _ _⟩, Nat.le_refl _, satAdd_le hs.2, Nat.le_refl _⟩

theorem Keeps.checkpointSigned {s u : State} (h : Keeps s u) : Keeps s (u.checkpointSigned) := by
  unfold State.checkpointSigned
  try dsimp only
  repeat' (first | with_reducible assumption | with_reducible apply Keeps.ringPut | with_reducible apply Keeps.audHead |
      with_reducible apply Keeps.set | with_reducible apply Keeps.updAud | with_reducible apply Keeps.ite |
      with_reducible refine Keeps.foldl ?_ (fun _ _ _ => ?_) | with_reducible refine Keeps.foldl1 ?_ (fun _ _ _ => ?_) |
      with_reducible apply Keeps.ite1 | intro _ | split)

theorem Keeps.audRingSet {s u : State} (h : Keeps s u) (o : Origin) (l : List (Nat × Word)) : Keeps s (u.audRingSet o l) := by
  unfold State.audRingSet
  try dsimp only
  repeat' (first | with_reducible assumption | with_reducible apply Keeps.auditChange | with_reducible apply Keeps.auditRefused |
      with_reducible apply Keeps.setReg | with_reducible apply Keeps.updAud | with_reducible apply Keeps.set |
      with_reducible apply Keeps.audDrain | with_reducible apply Keeps.flagOnce | with_reducible apply Keeps.ite |
      with_reducible refine Keeps.foldl ?_ (fun _ _ _ => ?_) | with_reducible refine Keeps.foldl1 ?_ (fun _ _ _ => ?_) |
      with_reducible apply Keeps.ite1 | intro _ | split)

theorem Keeps.audTailWrite {s u : State} (h : Keeps s u) (v : Word) : Keeps s (u.audTailWrite v) := by
  unfold State.audTailWrite
  try dsimp only
  repeat' (first | with_reducible assumption | with_reducible apply Keeps.set | with_reducible apply Keeps.audDrain |
      with_reducible apply Keeps.updAud)

theorem Keeps.audCfgWrite {s u : State} (h : Keeps s u) (o : Origin) (v : Word) : Keeps s (u.audCfgWrite o v) := by
  unfold State.audCfgWrite
  try dsimp only
  repeat' (first | with_reducible assumption | with_reducible apply Keeps.audDrain | with_reducible apply Keeps.regWrite)

/-! DmaCtl. -/

theorem Keeps.rangeOff {s u : State} (h : Keeps s u) (a : Nat) (n : Nat) : Keeps s (u.rangeOff a n) := by
  unfold State.rangeOff
  try dsimp only
  repeat' (first | with_reducible assumption | with_reducible apply Keeps.flagIf)

theorem Keeps.setChSt {s u : State} (h : Keeps s u) (n : Nat) (v : Nat) : Keeps s (u.setChSt n v) := by
  unfold State.setChSt
  try dsimp only
  repeat' (first | with_reducible assumption | with_reducible apply Keeps.set)

theorem Keeps.dmaActive {s u : State} (h : Keeps s u) : Keeps s (u.dmaActive) := by
  unfold State.dmaActive
  try dsimp only
  repeat' (first | with_reducible assumption | with_reducible apply Keeps.set)

theorem Keeps.chEnable {s u : State} (h : Keeps s u) (o : Origin) (n : Nat) : Keeps s (u.chEnable o n) := by
  unfold State.chEnable
  try dsimp only
  repeat' (first | with_reducible assumption | with_reducible apply Keeps.updChan | with_reducible apply Keeps.setChSt |
      with_reducible apply Keeps.raise | with_reducible apply Keeps.flag | with_reducible apply Keeps.ite)

theorem Keeps.chDisable {s u : State} (h : Keeps s u) (n : Nat) : Keeps s (u.chDisable n) := by
  unfold State.chDisable
  try dsimp only
  repeat' (first | with_reducible assumption | with_reducible apply Keeps.setChSt | with_reducible apply Keeps.updChan |
      with_reducible apply Keeps.ite | with_reducible refine Keeps.foldl ?_ (fun _ _ _ => ?_) |
      with_reducible refine Keeps.foldl1 ?_ (fun _ _ _ => ?_) | with_reducible apply Keeps.ite1 | intro _ | split)

theorem Keeps.chStop {s u : State} (h : Keeps s u) (n : Nat) : Keeps s (u.chStop n) := by
  unfold State.chStop
  try dsimp only
  repeat' (first | with_reducible assumption | with_reducible apply Keeps.setChSt | with_reducible apply Keeps.setCfg |
      with_reducible apply Keeps.ite)

theorem Keeps.chCtrlWrite {s u : State} (h : Keeps s u) (o : Origin) (n : Nat) (v : Word) : Keeps s (u.chCtrlWrite o n v) := by
  unfold State.chCtrlWrite
  try dsimp only
  repeat' (first | with_reducible assumption | with_reducible apply Keeps.regWrite | with_reducible apply Keeps.chEnable |
      with_reducible apply Keeps.chDisable | with_reducible apply Keeps.chStop | with_reducible apply Keeps.ite)

theorem Keeps.doorbell {s u : State} (h : Keeps s u) (n : Nat) : Keeps s (u.doorbell n) := by
  unfold State.doorbell
  try dsimp only
  repeat' (first | with_reducible assumption | with_reducible apply Keeps.updChan | with_reducible apply Keeps.setChSt |
      with_reducible apply Keeps.ite)

theorem Keeps.chRingWrite {s u : State} (h : Keeps s u) (o : Origin) (n : Nat) (a : Nat) (v : Word) : Keeps s (u.chRingWrite o n a v) := by
  unfold State.chRingWrite
  try dsimp only
  repeat' (first | with_reducible assumption | with_reducible apply Keeps.regWrite | with_reducible apply Keeps.set |
      with_reducible apply Keeps.ite)

theorem Keeps.descRead {s u : State} (h : Keeps s u) (n : Nat) (e : Ecc) : Keeps s (u.descRead n e) := by
  unfold State.descRead
  try dsimp only
  repeat' (first | with_reducible assumption | with_reducible apply Keeps.emit | with_reducible apply Keeps.updChan |
      with_reducible apply Keeps.ocmUpset | with_reducible apply Keeps.checkRegion | with_reducible apply Keeps.raise |
      with_reducible apply Keeps.setChSt | with_reducible apply Keeps.updDma | with_reducible apply Keeps.dmaActive |
      with_reducible apply Keeps.set | with_reducible apply Keeps.ite | with_reducible refine Keeps.foldl ?_ (fun _ _ _ => ?_) |
      with_reducible refine Keeps.foldl1 ?_ (fun _ _ _ => ?_) | with_reducible apply Keeps.ite1 | intro _ | split)

theorem Keeps.descCheck {s u : State} (h : Keeps s u) (n : Nat) (d : DmaDesc) : Keeps s (u.descCheck n d).1 := by
  unfold State.descCheck
  try dsimp only
  repeat' (first | with_reducible assumption | with_reducible apply Keeps.unmapped | with_reducible apply Keeps.flagOnce |
      with_reducible apply Keeps.rangeOff | with_reducible apply Keeps.ite | with_reducible refine Keeps.foldl ?_ (fun _ _ _ => ?_) |
      with_reducible refine Keeps.foldl1 ?_ (fun _ _ _ => ?_) | with_reducible apply Keeps.ite1 | intro _ | split)

theorem Keeps.updDesc {s u : State} (h : Keeps s u) (n : Nat) (f : DmaDesc → DmaDesc) : Keeps s (u.updDesc n f) := by
  unfold State.updDesc
  try dsimp only
  repeat' (first | with_reducible assumption | with_reducible apply Keeps.updChan)

theorem Keeps.publishHeld {s u : State} (h : Keeps s u) : Keeps s (u.publishHeld) := by
  unfold State.publishHeld
  try dsimp only
  repeat' (first | with_reducible assumption | with_reducible apply Keeps.updDma | with_reducible apply Keeps.published |
      with_reducible apply Keeps.overlapMarks | with_reducible apply Keeps.segPublish | with_reducible apply Keeps.ite |
      with_reducible refine Keeps.foldl ?_ (fun _ _ _ => ?_))

theorem Keeps.dmaForget {s u : State} (h : Keeps s u) (n : Nat) : Keeps s (u.dmaForget n) := by
  unfold State.dmaForget
  try dsimp only
  repeat' (first | with_reducible assumption | with_reducible apply Keeps.updHost)

theorem Keeps.descWriteBack {s u : State} (h : Keeps s u) (n : Nat) (d : DmaDesc) (st : Nat) : Keeps s (u.descWriteBack n d st) := by
  unfold State.descWriteBack
  try dsimp only
  repeat' (first | with_reducible assumption | with_reducible apply Keeps.putRegion | with_reducible apply Keeps.set |
      with_reducible apply Keeps.count | with_reducible apply Keeps.updChan | with_reducible apply Keeps.dmaActive |
      with_reducible apply Keeps.raise | with_reducible apply Keeps.raiseIf | with_reducible apply Keeps.setChSt |
      with_reducible apply Keeps.setCfg | with_reducible apply Keeps.publishHeld | with_reducible apply Keeps.dmaForget |
      with_reducible apply Keeps.ite)

/-! Reset. -/

theorem wfFrom_resetPins {l : Sparse Pin} {lo : Nat} (h : Sparse.wfFrom (fun _ => Pin.reset) lo l = true) :
    Sparse.wfFrom (fun _ => Pin.reset) lo (resetPins l) = true := by
  induction l generalizing lo with
  | nil => rfl
  | cons e l ih =>
    simp only [Sparse.wfFrom, Bool.and_eq_true, decide_eq_true_eq] at h
    by_cases v : e.2.volt = 0
    · rw [show resetPins (e :: l) = resetPins l by simp [resetPins, v]]
      exact ih (Sparse.wfFrom_mono (by omega) h.2)
    · rw [show resetPins (e :: l) = (e.1, Pin.resetAt e.2.volt) :: resetPins l by simp [resetPins, v]]
      simp only [Sparse.wfFrom, Bool.and_eq_true, decide_eq_true_eq]
      exact ⟨⟨h.1.1, fun c => v (congrArg Pin.volt c)⟩, ih h.2⟩

theorem State.canon_blank {u : State} (h : u.canon = true) : u.blank.canon = true := by
  rw [State.canon_iff] at h ⊢
  exact ⟨rfl, rfl, rfl, wfFrom_resetPins h.2.2.2.1, rfl⟩

theorem Keeps.blank {s u : State} (h : Keeps s u) : Keeps s u.blank :=
  h.trans ⟨rfl, Nat.le_refl _, Nat.le_refl _, List.prefix_refl _, State.canon_blank, KeyStore.le_refl _⟩

theorem resetNow_le (k : KeyStore) : k.le { k with bootCount := satAdd 32 k.bootCount 1 } := by
  intro hs
  have hb : k.bootCount < 2 ^ 32 := by simp [KeyStore.sound] at hs; exact hs.1
  have ht : k.tamperCount < 2 ^ 32 := by simp [KeyStore.sound] at hs; exact hs.2
  refine ⟨?_, satAdd_le hb, Nat.le_refl _, Nat.le_refl _⟩
  rw [KeyStore.sound, decide_eq_true (satAdd_lt _ _ _), decide_eq_true ht]
  rfl

theorem Keeps.resetNow {s u : State} (h : Keeps s u) (cause : Nat) : Keeps s (u.resetNow cause) := by
  unfold State.resetNow
  apply Keeps.set
  apply h.trans
  exact ⟨rfl, Nat.le_refl _, Nat.le_refl _, List.prefix_refl _, State.canon_blank, resetNow_le u.nv⟩

theorem Keeps.fullReset {s u : State} (h : Keeps s u) (cause : Nat) : Keeps s (u.fullReset cause) := by
  unfold State.fullReset
  try dsimp only
  repeat' (first | with_reducible assumption | with_reducible apply Keeps.resetNow | with_reducible apply Keeps.ite)

theorem Keeps.porLow {s u : State} (h : Keeps s u) (ns : Nat) : Keeps s (u.porLow ns) := by
  unfold State.porLow
  try dsimp only
  repeat' (first | with_reducible assumption | with_reducible apply Keeps.resetNow | with_reducible apply Keeps.fullReset |
      with_reducible apply Keeps.tickFresh | with_reducible apply Keeps.ite)

theorem Keeps.nvmReset {s u : State} (h : Keeps s u) (v : Word) : Keeps s (u.nvmReset v) := by
  unfold State.nvmReset
  try dsimp only
  repeat' (first | with_reducible assumption | with_reducible apply Keeps.fullReset | with_reducible apply Keeps.ite)

theorem Keeps.tapReset {s u : State} (h : Keeps s u) : Keeps s (u.tapReset) := by
  unfold State.tapReset
  try dsimp only
  repeat' (first | with_reducible assumption | with_reducible apply Keeps.fullReset | with_reducible apply Keeps.ite)

theorem Keeps.extestLoad {s u : State} (h : Keeps s u) : Keeps s (u.extestLoad) := by
  unfold State.extestLoad
  try dsimp only
  repeat' (first | with_reducible assumption | with_reducible apply Keeps.fullReset | with_reducible apply Keeps.updPwr |
      with_reducible apply Keeps.ite)

theorem Keeps.extestRelease {s u : State} (h : Keeps s u) : Keeps s (u.extestRelease) := by
  unfold State.extestRelease
  try dsimp only
  repeat' (first | with_reducible assumption | with_reducible apply Keeps.updBoot | with_reducible apply Keeps.updPwr |
      with_reducible apply Keeps.ite)

theorem Keeps.powerOff {s u : State} (h : Keeps s u) : Keeps s u.powerOff :=
  h.trans ⟨rfl, Nat.le_refl _, Nat.le_refl _, List.prefix_refl _, State.canon_blank, KeyStore.le_refl _⟩

/-! Power. -/

theorem Keeps.avsWrite {s u : State} (h : Keeps s u) (mv : Nat) : Keeps s (u.avsWrite mv) := by
  unfold State.avsWrite
  try dsimp only
  repeat' (first | with_reducible assumption | with_reducible apply Keeps.updPwr | with_reducible apply Keeps.emit |
      with_reducible apply Keeps.set)

theorem Keeps.avsBase {s u : State} (h : Keeps s u) : Keeps s (u.avsBase) := by
  unfold State.avsBase
  try dsimp only
  repeat' (first | with_reducible assumption | with_reducible apply Keeps.avsWrite | with_reducible apply Keeps.ite)

theorem Keeps.avsCfgWrite {s u : State} (h : Keeps s u) (o : Origin) (v : Word) : Keeps s (u.avsCfgWrite o v) := by
  unfold State.avsCfgWrite
  try dsimp only
  repeat' (first | with_reducible assumption | with_reducible apply Keeps.regWrite | with_reducible apply Keeps.avsBase |
      with_reducible apply Keeps.ite)

theorem Keeps.avsError {s u : State} (h : Keeps s u) : Keeps s (u.avsError) := by
  unfold State.avsError
  try dsimp only
  repeat' (first | with_reducible assumption | with_reducible apply Keeps.flagOnce)

theorem Keeps.avsReadBack {s u : State} (h : Keeps s u) (mv : Nat) : Keeps s (u.avsReadBack mv) := by
  unfold State.avsReadBack
  try dsimp only
  repeat' (first | with_reducible assumption | with_reducible apply Keeps.at_ | with_reducible apply Keeps.updPwr |
      with_reducible apply Keeps.set | with_reducible apply Keeps.avsError | with_reducible apply Keeps.ite |
      with_reducible refine Keeps.foldl ?_ (fun _ _ _ => ?_) | with_reducible refine Keeps.foldl1 ?_ (fun _ _ _ => ?_) |
      with_reducible apply Keeps.ite1 | intro _ | split)

theorem Keeps.avsTimeout {s u : State} (h : Keeps s u) (read : Bool) : Keeps s (u.avsTimeout read) := by
  unfold State.avsTimeout
  try dsimp only
  repeat' (first | with_reducible assumption | with_reducible apply Keeps.avsError | with_reducible apply Keeps.updPwr |
      with_reducible apply Keeps.ite | with_reducible refine Keeps.foldl ?_ (fun _ _ _ => ?_) |
      with_reducible refine Keeps.foldl1 ?_ (fun _ _ _ => ?_) | with_reducible apply Keeps.ite1 | intro _ | split)

theorem Keeps.paceReport {s u : State} (h : Keeps s u) (i : Nat) (v : Option (Int × Nat)) : Keeps s (u.paceReport i v) := by
  unfold State.paceReport
  try dsimp only
  repeat' (first | with_reducible assumption | with_reducible apply Keeps.updStr | with_reducible apply Keeps.set |
      with_reducible apply Keeps.ite | with_reducible refine Keeps.foldl ?_ (fun _ _ _ => ?_) |
      with_reducible refine Keeps.foldl1 ?_ (fun _ _ _ => ?_) | with_reducible apply Keeps.ite1 | intro _ | split)

theorem Keeps.rateReport {s u : State} (h : Keeps s u) (i : Nat) : Keeps s (u.rateReport i) := by
  unfold State.rateReport
  try dsimp only
  repeat' (first | with_reducible assumption | with_reducible apply Keeps.updStr | with_reducible apply Keeps.set |
      with_reducible apply Keeps.flag | with_reducible apply Keeps.raise | with_reducible apply Keeps.ite)

theorem Keeps.steer {s u : State} (h : Keeps s u) (paces : List (Nat × Int)) : Keeps s (u.steer paces) := by
  unfold State.steer
  try dsimp only
  repeat' (first | with_reducible assumption | with_reducible apply Keeps.avsWrite | with_reducible apply Keeps.ite)

theorem Keeps.paceLow {s u : State} (h : Keeps s u) (p : Nat × Int) : Keeps s (u.paceLow p) := by
  unfold State.paceLow
  try dsimp only
  repeat' (first | with_reducible assumption | with_reducible apply Keeps.updStr | with_reducible apply Keeps.raise |
      with_reducible apply Keeps.ite)

theorem Keeps.paceWindow {s u : State} (h : Keeps s u) (busy : List (Nat × Nat)) : Keeps s (u.paceWindow busy) := by
  unfold State.paceWindow
  try dsimp only
  repeat' (first | with_reducible assumption | with_reducible apply Keeps.updPwr | with_reducible apply Keeps.at_ |
      with_reducible apply Keeps.rateReport | with_reducible apply Keeps.paceReport | with_reducible apply Keeps.updXe |
      with_reducible apply Keeps.set | with_reducible apply Keeps.paceLow | with_reducible apply Keeps.steer |
      with_reducible apply Keeps.ite | with_reducible refine Keeps.foldl ?_ (fun _ _ _ => ?_))

theorem Keeps.supCfgWrite {s u : State} (h : Keeps s u) (o : Origin) (i : Nat) (v : Word) : Keeps s (u.supCfgWrite o i v) := by
  unfold State.supCfgWrite
  try dsimp only
  repeat' (first | with_reducible assumption | with_reducible apply Keeps.regWrite)

theorem Keeps.supplyOne {s u : State} (h : Keeps s u) (i : Nat) (mv : Nat) : Keeps s (u.supplyOne i mv) := by
  unfold State.supplyOne
  try dsimp only
  repeat' (first | with_reducible assumption | with_reducible apply Keeps.updPwr | with_reducible apply Keeps.set)

theorem Keeps.twilightEnter {s u : State} (h : Keeps s u) (causes : List Nat) : Keeps s (u.twilightEnter causes) := by
  unfold State.twilightEnter
  try dsimp only
  repeat' (first | with_reducible assumption | with_reducible apply Keeps.set | with_reducible apply Keeps.count |
      with_reducible apply Keeps.flag | with_reducible apply Keeps.audit | with_reducible apply Keeps.raise |
      with_reducible apply Keeps.calSpoil | with_reducible apply Keeps.taintAll | with_reducible apply Keeps.updPwr |
      with_reducible apply Keeps.avsWrite | with_reducible apply Keeps.ite)

theorem Keeps.supplies {s u : State} (h : Keeps s u) (mvs : List Nat) : Keeps s (u.supplies mvs) := by
  unfold State.supplies
  try dsimp only
  repeat' (first | with_reducible assumption | with_reducible apply Keeps.supplyOne | with_reducible apply Keeps.set |
      with_reducible apply Keeps.fullReset | with_reducible apply Keeps.updPwr | with_reducible apply Keeps.twilightEnter |
      with_reducible apply Keeps.ite | with_reducible refine Keeps.foldl ?_ (fun _ _ _ => ?_) |
      with_reducible refine Keeps.foldl1 ?_ (fun _ _ _ => ?_) | with_reducible apply Keeps.ite1 | intro _ | split)

theorem Keeps.twilightExit {s u : State} (h : Keeps s u) : Keeps s (u.twilightExit) := by
  unfold State.twilightExit
  try dsimp only
  repeat' (first | with_reducible assumption | with_reducible apply Keeps.at_ | with_reducible apply Keeps.updPwr |
      with_reducible apply Keeps.set | with_reducible apply Keeps.audit | with_reducible apply Keeps.raise | with_reducible apply Keeps.ite |
      with_reducible refine Keeps.foldl ?_ (fun _ _ _ => ?_) | with_reducible refine Keeps.foldl1 ?_ (fun _ _ _ => ?_) |
      with_reducible apply Keeps.ite1 | intro _ | split)

theorem Keeps.thermBits {s u : State} (h : Keeps s u) : Keeps s (u.thermBits) := by
  unfold State.thermBits
  try dsimp only
  repeat' (first | with_reducible assumption | with_reducible apply Keeps.set)

theorem Keeps.thermCfgWrite {s u : State} (h : Keeps s u) (o : Origin) (v : Word) : Keeps s (u.thermCfgWrite o v) := by
  unfold State.thermCfgWrite
  try dsimp only
  repeat' (first | with_reducible assumption | with_reducible apply Keeps.thermBits | with_reducible apply Keeps.regWrite)

theorem Keeps.thermTaint {s u : State} (h : Keeps s u) (k : Nat) : Keeps s (u.thermTaint k) := by
  unfold State.thermTaint
  try dsimp only
  repeat' (first | with_reducible assumption | with_reducible apply Keeps.taint | with_reducible apply Keeps.ite |
      with_reducible refine Keeps.foldl ?_ (fun _ _ _ => ?_))

theorem Keeps.tempOne {s u : State} (h : Keeps s u) (k : Nat) (t : Int) : Keeps s (u.tempOne k t) := by
  unfold State.tempOne
  try dsimp only
  repeat' (first | with_reducible assumption | with_reducible apply Keeps.updPwr | with_reducible apply Keeps.set |
      with_reducible apply Keeps.raise | with_reducible apply Keeps.thermTaint | with_reducible apply Keeps.abortAtBoundary |
      with_reducible apply Keeps.calTemp | with_reducible apply Keeps.ite | with_reducible refine Keeps.foldl ?_ (fun _ _ _ => ?_))

theorem Keeps.temps {s u : State} (h : Keeps s u) (ts : List Int) : Keeps s (u.temps ts) := by
  unfold State.temps
  try dsimp only
  repeat' (first | with_reducible assumption | with_reducible apply Keeps.updBoot | with_reducible apply Keeps.updPwr |
      with_reducible apply Keeps.fullReset | with_reducible apply Keeps.thermBits | with_reducible apply Keeps.tempOne |
      with_reducible apply Keeps.ite | with_reducible refine Keeps.foldl ?_ (fun _ _ _ => ?_))

theorem Keeps.setOct {s u : State} (h : Keeps s u) (k : Nat) (v : OctPower) : Keeps s (u.setOct k v) := by
  unfold State.setOct
  try dsimp only
  repeat' (first | with_reducible assumption | with_reducible apply Keeps.set | with_reducible apply Keeps.updPwr)

theorem Keeps.domEvent {s u : State} (h : Keeps s u) (dom : Nat) (st : Nat) : Keeps s (u.domEvent dom st) := by
  unfold State.domEvent
  try dsimp only
  repeat' (first | with_reducible assumption | with_reducible apply Keeps.raise)

theorem Keeps.octRelease {s u : State} (h : Keeps s u) (k : Nat) : Keeps s (u.octRelease k) := by
  unfold State.octRelease
  try dsimp only
  repeat' (first | with_reducible assumption | with_reducible apply Keeps.updPin | with_reducible apply Keeps.emit |
      with_reducible apply Keeps.closeCluster | with_reducible apply Keeps.ite | with_reducible refine Keeps.foldl ?_ (fun _ _ _ => ?_))

theorem Keeps.dmaOctOff {s u : State} (h : Keeps s u) (k : Nat) : Keeps s (u.dmaOctOff k) := by
  unfold State.dmaOctOff
  try dsimp only
  repeat' (first | with_reducible assumption | with_reducible apply Keeps.updDma)

theorem Keeps.octWant {s u : State} (h : Keeps s u) (k : Nat) (off : Bool) : Keeps s (u.octWant k off) := by
  unfold State.octWant
  try dsimp only
  repeat' (first | with_reducible assumption | with_reducible apply Keeps.tdcCancelAll | with_reducible apply Keeps.setOct |
      with_reducible apply Keeps.domEvent | with_reducible apply Keeps.dmaOctOff | with_reducible apply Keeps.ite |
      with_reducible refine Keeps.foldl ?_ (fun _ _ _ => ?_) | with_reducible refine Keeps.foldl1 ?_ (fun _ _ _ => ?_) |
      with_reducible apply Keeps.ite1 | intro _ | split)

theorem Keeps.octOffDone {s u : State} (h : Keeps s u) (k : Nat) : Keeps s (u.octOffDone k) := by
  unfold State.octOffDone
  try dsimp only
  repeat' (first | with_reducible assumption | with_reducible apply Keeps.tdcCancelAll | with_reducible apply Keeps.domEvent |
      with_reducible apply Keeps.setOct | with_reducible apply Keeps.octRelease | with_reducible apply Keeps.ite)

theorem Keeps.pinPowered {s u : State} (h : Keeps s u) (p : Nat) (v : Int) : Keeps s (u.pinPowered p v) := by
  unfold State.pinPowered
  try dsimp only
  repeat' (first | with_reducible assumption | with_reducible apply Keeps.eraseRegs | with_reducible apply Keeps.updPin)

theorem Keeps.octOnDone {s u : State} (h : Keeps s u) (k : Nat) (volts : List (Nat × Int)) : Keeps s (u.octOnDone k volts) := by
  unfold State.octOnDone
  try dsimp only
  repeat' (first | with_reducible assumption | with_reducible apply Keeps.pinPowered | with_reducible apply Keeps.domEvent |
      with_reducible apply Keeps.setOct | with_reducible apply Keeps.octWant | with_reducible apply Keeps.ite |
      with_reducible refine Keeps.foldl ?_ (fun _ _ _ => ?_))

theorem Keeps.octFault {s u : State} (h : Keeps s u) (k : Nat) : Keeps s (u.octFault k) := by
  unfold State.octFault
  try dsimp only
  repeat' (first | with_reducible assumption | with_reducible apply Keeps.setOct | with_reducible apply Keeps.octRelease |
      with_reducible apply Keeps.abortAtBoundary | with_reducible apply Keeps.taint | with_reducible apply Keeps.domEvent |
      with_reducible apply Keeps.raise | with_reducible apply Keeps.ite | with_reducible refine Keeps.foldl ?_ (fun _ _ _ => ?_))

theorem Keeps.hostWant {s u : State} (h : Keeps s u) (off : Bool) : Keeps s (u.hostWant off) := by
  unfold State.hostWant
  try dsimp only
  repeat' (first | with_reducible assumption | with_reducible apply Keeps.domEvent | with_reducible apply Keeps.set |
      with_reducible apply Keeps.hostReset | with_reducible apply Keeps.ite)

theorem Keeps.linksDown {s u : State} (h : Keeps s u) : Keeps s (u.linksDown) := by
  unfold State.linksDown
  try dsimp only
  repeat' (first | with_reducible assumption | with_reducible apply Keeps.treeEval | with_reducible apply Keeps.setPort |
      with_reducible apply Keeps.raise | with_reducible apply Keeps.set | with_reducible apply Keeps.ite |
      with_reducible refine Keeps.foldl ?_ (fun _ _ _ => ?_))

theorem Keeps.linkWant {s u : State} (h : Keeps s u) (off : Bool) : Keeps s (u.linkWant off) := by
  unfold State.linkWant
  try dsimp only
  repeat' (first | with_reducible assumption | with_reducible apply Keeps.domEvent | with_reducible apply Keeps.linksDown |
      with_reducible apply Keeps.set | with_reducible apply Keeps.ite)

theorem Keeps.domCtrlWrite {s u : State} (h : Keeps s u) (o : Origin) (v : Word) : Keeps s (u.domCtrlWrite o v) := by
  unfold State.domCtrlWrite
  try dsimp only
  repeat' (first | with_reducible assumption | with_reducible apply Keeps.regWrite | with_reducible apply Keeps.octWant |
      with_reducible apply Keeps.hostWant | with_reducible apply Keeps.linkWant | with_reducible apply Keeps.ite |
      with_reducible refine Keeps.foldl ?_ (fun _ _ _ => ?_))

theorem Keeps.standbyAsk {s u : State} (h : Keeps s u) : Keeps s (u.standbyAsk) := by
  unfold State.standbyAsk
  try dsimp only
  repeat' (first | with_reducible assumption | with_reducible apply Keeps.updPwr | with_reducible apply Keeps.octWant |
      with_reducible apply Keeps.updDrc | with_reducible apply Keeps.dramWant | with_reducible apply Keeps.hostWant |
      with_reducible apply Keeps.linkWant | with_reducible apply Keeps.bankRequest | with_reducible apply Keeps.ite |
      with_reducible refine Keeps.foldl ?_ (fun _ _ _ => ?_))

theorem Keeps.standbyGo {s u : State} (h : Keeps s u) : Keeps s (u.standbyGo) := by
  unfold State.standbyGo
  try dsimp only
  repeat' (first | with_reducible assumption | with_reducible apply Keeps.standbyAsk | with_reducible apply Keeps.raise |
      with_reducible apply Keeps.set | with_reducible apply Keeps.updPwr | with_reducible apply Keeps.ite)

theorem Keeps.standbyCmd {s u : State} (h : Keeps s u) : Keeps s (u.standbyCmd) := by
  unfold State.standbyCmd
  try dsimp only
  repeat' (first | with_reducible assumption | with_reducible apply Keeps.flag | with_reducible apply Keeps.updPwr |
      with_reducible apply Keeps.standbyAsk | with_reducible apply Keeps.ite)

theorem Keeps.wakeCmd {s u : State} (h : Keeps s u) : Keeps s (u.wakeCmd) := by
  unfold State.wakeCmd
  try dsimp only
  repeat' (first | with_reducible assumption | with_reducible apply Keeps.updPwr | with_reducible apply Keeps.octWant |
      with_reducible apply Keeps.dramWant | with_reducible apply Keeps.updDrc | with_reducible apply Keeps.linkWant |
      with_reducible apply Keeps.hostWant | with_reducible apply Keeps.bankRequest | with_reducible apply Keeps.ite |
      with_reducible refine Keeps.foldl ?_ (fun _ _ _ => ?_))

theorem Keeps.standbyExit {s u : State} (h : Keeps s u) : Keeps s (u.standbyExit) := by
  unfold State.standbyExit
  try dsimp only
  repeat' (first | with_reducible assumption | with_reducible apply Keeps.raise | with_reducible apply Keeps.set |
      with_reducible apply Keeps.updPwr | with_reducible apply Keeps.devState | with_reducible apply Keeps.releaseArms |
      with_reducible apply Keeps.ite)

theorem Keeps.pwrCmd {s u : State} (h : Keeps s u) (v : Word) : Keeps s (u.pwrCmd v) := by
  unfold State.pwrCmd
  try dsimp only
  repeat' (first | with_reducible assumption | with_reducible apply Keeps.standbyCmd | with_reducible apply Keeps.wakeCmd |
      with_reducible apply Keeps.ite)

/-! Image. -/

theorem Keeps.amdSubmit {s u : State} (h : Keeps s u) : Keeps s (u.amdSubmit) := by
  unfold State.amdSubmit
  try dsimp only
  repeat' (first | with_reducible assumption | with_reducible apply Keeps.set | with_reducible apply Keeps.checkRegion |
      with_reducible apply Keeps.updBoot | with_reducible apply Keeps.ite)

theorem Keeps.amdRefuse {s u : State} (h : Keeps s u) (r : Nat) : Keeps s (u.amdRefuse r) := by
  unfold State.amdRefuse
  try dsimp only
  repeat' (first | with_reducible assumption | with_reducible apply Keeps.raise | with_reducible apply Keeps.updBoot |
      with_reducible apply Keeps.set)

theorem Keeps.amdChecked {s u : State} (h : Keeps s u) : Keeps s (u.amdChecked) := by
  unfold State.amdChecked
  try dsimp only
  repeat' (first | with_reducible assumption | with_reducible apply Keeps.set | with_reducible apply Keeps.tickFresh |
      with_reducible apply Keeps.amdRefuse | with_reducible apply Keeps.updBoot | with_reducible apply Keeps.ite |
      with_reducible refine Keeps.foldl ?_ (fun _ _ _ => ?_) | with_reducible refine Keeps.foldl1 ?_ (fun _ _ _ => ?_) |
      with_reducible apply Keeps.ite1 | intro _ | split)

end Sys2Proof.Machine
end

