-- ==== Sys2Proof/Laws/KeepsBus.lean ====
section
/-! SUPPORT. `Keeps` of every operation: what the bus, DMA data, bus rows and the boot keep. -/
namespace Sys2Proof.Machine

/-! Bus. -/

theorem Keeps.regFetch {s u : State} (h : Keeps s u) (o : Origin) (a : Nat) (d : RegDesc) : Keeps s (u.regFetch o a d).1 := by
  unfold State.regFetch
  try dsimp only
  repeat' (first | with_reducible assumption | with_reducible apply Keeps.meridianRead | with_reducible apply Keeps.result0Read |
      with_reducible apply Keeps.latch | with_reducible apply Keeps.ite | with_reducible refine Keeps.foldl ?_ (fun _ _ _ => ?_) |
      with_reducible refine Keeps.foldl1 ?_ (fun _ _ _ => ?_) | with_reducible apply Keeps.ite1 | intro _ | split)

theorem Keeps.readDue {s u : State} (h : Keeps s u) (a : Nat) : Keeps s (u.readDue a) := by
  unfold State.readDue
  try dsimp only
  repeat' (first | with_reducible assumption | with_reducible apply Keeps.closeDue | with_reducible apply Keeps.ite |
      with_reducible refine Keeps.foldl ?_ (fun _ _ _ => ?_) | with_reducible refine Keeps.foldl1 ?_ (fun _ _ _ => ?_) |
      with_reducible apply Keeps.ite1 | intro _ | split)

theorem Keeps.regRead {s u : State} (h : Keeps s u) (o : Origin) (a : Nat) : KeepsOP s (u.regRead o a) := by
  unfold State.regRead
  refine KeepsOP.ite (KeepsOP.some (Keeps.unmapped h _)) (KeepsOP.ite (KeepsOP.some (Keeps.regDeny h _)) (KeepsOP.ite (KeepsOP.some h) ?_))
  cases u.regServed a
  case stall => exact KeepsOP.none
  case off => exact KeepsOP.some (Keeps.flag h _)
  case ok =>
    cases lookupReg a
    case none => exact KeepsOP.some h
    case some d => exact KeepsOP.some (Keeps.regFetch (Keeps.readDue h _) _ _ _)

theorem Keeps.sysWrite {s u : State} (h : Keeps s u) (o : Origin) (a : Nat) (v : Word) : Keeps s (u.sysWrite o a v) := by
  unfold State.sysWrite
  try dsimp only
  repeat' (first | with_reducible assumption | with_reducible apply Keeps.groupMapWrite | with_reducible apply Keeps.levelWrite |
      with_reducible apply Keeps.msixWrite | with_reducible apply Keeps.regWrite | with_reducible apply Keeps.ite)

theorem Keeps.evtWrite {s u : State} (h : Keeps s u) (o : Origin) (off : Nat) (v : Word) : Keeps s (u.evtWrite o off v) := by
  unfold State.evtWrite
  try dsimp only
  repeat' (first | with_reducible assumption | with_reducible apply Keeps.evtCfgWrite | with_reducible apply Keeps.evtRingWrite |
      with_reducible apply Keeps.evtTailWrite | with_reducible apply Keeps.armWrite | with_reducible apply Keeps.mboxCmd |
      with_reducible apply Keeps.regWrite | with_reducible apply Keeps.ite)

theorem Keeps.audWrite {s u : State} (h : Keeps s u) (o : Origin) (off : Nat) (v : Word) : Keeps s (u.audWrite o off v) := by
  unfold State.audWrite
  try dsimp only
  repeat' (first | with_reducible assumption | with_reducible apply Keeps.audCfgWrite | with_reducible apply Keeps.audRingSet |
      with_reducible apply Keeps.audTailWrite | with_reducible apply Keeps.checkpoint | with_reducible apply Keeps.regWrite |
      with_reducible apply Keeps.ite)

theorem Keeps.pwrWrite {s u : State} (h : Keeps s u) (o : Origin) (off : Nat) (v : Word) : Keeps s (u.pwrWrite o off v) := by
  unfold State.pwrWrite
  try dsimp only
  repeat' (first | with_reducible assumption | with_reducible apply Keeps.pwrCmd | with_reducible apply Keeps.domCtrlWrite |
      with_reducible apply Keeps.avsCfgWrite | with_reducible apply Keeps.supCfgWrite | with_reducible apply Keeps.thermCfgWrite |
      with_reducible apply Keeps.regWrite | with_reducible apply Keeps.ite)

theorem Keeps.tbWrite {s u : State} (h : Keeps s u) (o : Origin) (off : Nat) (v : Word) : Keeps s (u.tbWrite o off v) := by
  unfold State.tbWrite
  try dsimp only
  repeat' (first | with_reducible assumption | with_reducible apply Keeps.refCfgWrite | with_reducible apply Keeps.epochCmd |
      with_reducible apply Keeps.gridWrite | with_reducible apply Keeps.regWrite | with_reducible apply Keeps.ite)

theorem Keeps.memWrite {s u : State} (h : Keeps s u) (o : Origin) (off : Nat) (v : Word) : Keeps s (u.memWrite o off v) := by
  unfold State.memWrite
  try dsimp only
  repeat' (first | with_reducible assumption | with_reducible apply Keeps.memCmd | with_reducible apply Keeps.bankCtrlWrite |
      with_reducible apply Keeps.regWrite | with_reducible apply Keeps.ite)

theorem Keeps.drcWrite {s u : State} (h : Keeps s u) (o : Origin) (off : Nat) (v : Word) : Keeps s (u.drcWrite o off v) := by
  unfold State.drcWrite
  try dsimp only
  repeat' (first | with_reducible assumption | with_reducible apply Keeps.fspGo | with_reducible apply Keeps.trainGo |
      with_reducible apply Keeps.drcPwrWrite | with_reducible apply Keeps.drcClrCounts | with_reducible apply Keeps.regWrite |
      with_reducible apply Keeps.ite)

theorem Keeps.dmaWrite {s u : State} (h : Keeps s u) (o : Origin) (off : Nat) (v : Word) : Keeps s (u.dmaWrite o off v) := by
  unfold State.dmaWrite
  try dsimp only
  repeat' (first | with_reducible assumption | with_reducible apply Keeps.regWrite | with_reducible apply Keeps.chCtrlWrite |
      with_reducible apply Keeps.chRingWrite | with_reducible apply Keeps.doorbell | with_reducible apply Keeps.ite)

theorem Keeps.xeWrite {s u : State} (h : Keeps s u) (o : Origin) (off : Nat) (v : Word) : Keeps s (u.xeWrite o off v) := by
  unfold State.xeWrite
  try dsimp only
  repeat' (first | with_reducible assumption | with_reducible apply Keeps.xePortWrite | with_reducible apply Keeps.regWrite |
      with_reducible apply Keeps.resTailWrite | with_reducible apply Keeps.listRun | with_reducible apply Keeps.ite)

theorem Keeps.redWrite {s u : State} (h : Keeps s u) (o : Origin) (off : Nat) (v : Word) : Keeps s (u.redWrite o off v) := by
  unfold State.redWrite
  try dsimp only
  repeat' (first | with_reducible assumption | with_reducible apply Keeps.redSnap | with_reducible apply Keeps.redClear |
      with_reducible apply Keeps.redDump | with_reducible apply Keeps.ivlRingSet | with_reducible apply Keeps.ivlTail |
      with_reducible apply Keeps.regWrite | with_reducible apply Keeps.ite)

theorem Keeps.svcWrite {s u : State} (h : Keeps s u) (o : Origin) (off : Nat) (v : Word) : Keeps s (u.svcWrite o off v) := by
  unfold State.svcWrite
  try dsimp only
  repeat' (first | with_reducible assumption | with_reducible apply Keeps.regWrite | with_reducible apply Keeps.svcCmd |
      with_reducible apply Keeps.dlogRingSet | with_reducible apply Keeps.dlogTailWrite | with_reducible apply Keeps.ite)

theorem Keeps.iatWrite {s u : State} (h : Keeps s u) (o : Origin) (off : Nat) (v : Word) : Keeps s (u.iatWrite o off v) := by
  unfold State.iatWrite
  try dsimp only
  repeat' (first | with_reducible assumption | with_reducible apply Keeps.iatCfgWrite | with_reducible apply Keeps.originEvent |
      with_reducible apply Keeps.iatCmd | with_reducible apply Keeps.msgCmd | with_reducible apply Keeps.portCfgWrite |
      with_reducible apply Keeps.regWrite | with_reducible apply Keeps.ite)

theorem Keeps.almAsk {s u : State} (h : Keeps s u) : Keeps s (u.almAsk) := by
  unfold State.almAsk
  try dsimp only
  repeat' (first | with_reducible assumption | with_reducible apply Keeps.flag)

theorem Keeps.calWrite {s u : State} (h : Keeps s u) (o : Origin) (off : Nat) (v : Word) : Keeps s (u.calWrite o off v) := by
  unfold State.calWrite
  try dsimp only
  repeat' (first | with_reducible assumption | with_reducible apply Keeps.calCmd | with_reducible apply Keeps.almAsk |
      with_reducible apply Keeps.regWrite | with_reducible apply Keeps.ite)

theorem Keeps.nvmWrite {s u : State} (h : Keeps s u) (o : Origin) (off : Nat) (v : Word) : Keeps s (u.nvmWrite o off v) := by
  unfold State.nvmWrite
  try dsimp only
  repeat' (first | with_reducible assumption | with_reducible apply Keeps.nvmReset | with_reducible apply Keeps.amdSubmit |
      with_reducible apply Keeps.regWrite | with_reducible apply Keeps.ite)

theorem Keeps.siteWrite {s u : State} (h : Keeps s u) (o : Origin) (i : Nat) (off : Nat) (v : Word) : Keeps s (u.siteWrite o i off v) := by
  unfold State.siteWrite
  try dsimp only
  repeat' (first | with_reducible assumption | with_reducible apply Keeps.seqCmd | with_reducible apply Keeps.segtabWrite |
      with_reducible apply Keeps.segCmd | with_reducible apply Keeps.flagClear | with_reducible apply Keeps.flagSet |
      with_reducible apply Keeps.resultRingWrite | with_reducible apply Keeps.flogSizeWrite | with_reducible apply Keeps.regWrite |
      with_reducible apply Keeps.ite)

theorem Keeps.effect32 {s u : State} (h : Keeps s u) (o : Origin) (b : BlockRef) (off : Nat) (v : Word) : Keeps s (u.effect32 o b off v) :=
    by
  unfold State.effect32
  try dsimp only
  repeat' (first | with_reducible assumption | with_reducible apply Keeps.sysWrite | with_reducible apply Keeps.evtWrite |
      with_reducible apply Keeps.secCmd | with_reducible apply Keeps.regWrite | with_reducible apply Keeps.audWrite |
      with_reducible apply Keeps.pwrWrite | with_reducible apply Keeps.tbWrite | with_reducible apply Keeps.memWrite |
      with_reducible apply Keeps.drcWrite | with_reducible apply Keeps.dmaWrite | with_reducible apply Keeps.xeWrite |
      with_reducible apply Keeps.redWrite | with_reducible apply Keeps.svcWrite | with_reducible apply Keeps.iatWrite |
      with_reducible apply Keeps.calWrite | with_reducible apply Keeps.nvmWrite | with_reducible apply Keeps.siteWrite |
      with_reducible apply Keeps.pinWrite | with_reducible apply Keeps.ite | with_reducible refine Keeps.foldl ?_ (fun _ _ _ => ?_) |
      with_reducible refine Keeps.foldl1 ?_ (fun _ _ _ => ?_) | with_reducible apply Keeps.ite1 | intro _ | split)

theorem Keeps.effect64 {s u : State} (h : Keeps s u) (o : Origin) (quiet : Bool) (a : Nat) (lo : Word) (hi : Word) : Keeps s (u.effect64 o
    quiet a lo hi) := by
  unfold State.effect64
  try dsimp only
  repeat' (first | with_reducible assumption | with_reducible apply Keeps.audRingSet | with_reducible apply Keeps.epochNextWrite |
      with_reducible apply Keeps.ivlBaseWrite | with_reducible apply Keeps.resBaseWrite | with_reducible apply Keeps.dlogBaseWrite |
      with_reducible apply Keeps.flogBaseWrite | with_reducible apply Keeps.regPut | with_reducible apply Keeps.ite)

theorem Keeps.effect {s u : State} (h : Keeps s u) (o : Origin) (quiet : Bool) (b : BlockRef) (a : Nat) (off : Nat) (d : RegDesc) (v : Word)
    : Keeps s (u.effect o quiet b a off d v) := by
  unfold State.effect
  try dsimp only
  repeat' (first | with_reducible assumption | with_reducible apply Keeps.holdLow | with_reducible apply Keeps.effect64 |
      with_reducible apply Keeps.dropLow | with_reducible apply Keeps.pinWrite | with_reducible apply Keeps.effect32 |
      with_reducible apply Keeps.ite | with_reducible refine Keeps.foldl ?_ (fun _ _ _ => ?_) |
      with_reducible refine Keeps.foldl1 ?_ (fun _ _ _ => ?_) | with_reducible apply Keeps.ite1 | intro _ | split)

theorem Keeps.castAudit {s u : State} (h : Keeps s u) (s0 : State) (o : Origin) (a : Nat) (off : Nat) (d : RegDesc) (ps : List Nat) : Keeps
    s (u.castAudit s0 o a off d ps) := by
  unfold State.castAudit
  try dsimp only
  repeat' (first | with_reducible assumption | with_reducible apply Keeps.audit | with_reducible apply Keeps.ite |
      with_reducible refine Keeps.foldl ?_ (fun _ _ _ => ?_) | with_reducible refine Keeps.foldl1 ?_ (fun _ _ _ => ?_) |
      with_reducible apply Keeps.ite1 | intro _ | split)

theorem Keeps.castWrite {s u : State} (h : Keeps s u) (o : Origin) (b : BlockRef) (a off : Nat) (v : Word) :
    KeepsO s (u.castWrite o b a off v) := by
  unfold State.castWrite
  dsimp only
  refine KeepsO.ite KeepsO.none ?_
  cases pinRegs.find? (fun d => d.covers off)
  case none => exact KeepsO.some h
  case some d =>
    have hf := Keeps.foldl (l := (castPins b).filter (fun p => decide (u.octServed p = .ok))) h
      (fun v' p hv => Keeps.effect hv o true (.pin p) (pinReg p off) off d v)
    dsimp only
    refine KeepsO.some ?_
    generalize ((castPins b).filter (fun p => decide (u.octServed p = .ok))).foldl _ u = w at hf ⊢
    cases d.pair
    case high =>
      dsimp only
      cases pinRegs.find? (fun e => e.covers (off - 4))
      case none => exact Keeps.castAudit hf _ _ _ _ _ _
      case some e => exact Keeps.castAudit (Keeps.castAudit hf _ _ _ _ _ _) _ _ _ _ _ _
    all_goals exact Keeps.castAudit hf _ _ _ _ _ _

theorem Keeps.regStore {s u : State} (h : Keeps s u) (o : Origin) (a : Nat) (v : Word) : KeepsO s (u.regStore o a v) := by
  unfold State.regStore
  cases decodeReg a
  case none => exact KeepsO.some (Keeps.unmapped h _)
  case some r =>
    refine KeepsO.ite (KeepsO.some (Keeps.regDeny h _)) (KeepsO.ite (Keeps.castWrite h _ _ _ _ _) ?_)
    cases u.regServed a
    case stall => exact KeepsO.none
    case off => exact KeepsO.some (Keeps.flag h _)
    case ok =>
      cases lookupReg a
      case none => exact KeepsO.some h
      case some d => exact KeepsO.some (Keeps.effect h _ _ _ _ _ _ _)

theorem Keeps.badWidth {s u : State} (h : Keeps s u) : Keeps s (u.badWidth) := by
  unfold State.badWidth
  try dsimp only
  repeat' (first | with_reducible assumption | with_reducible apply Keeps.flag | with_reducible apply Keeps.count)

theorem Keeps.ocmPiece {s u : State} (h : Keeps s u) (o : Origin) (a1 : Nat) (n : Nat) : Keeps s (u.ocmPiece o a1 n).1 := by
  unfold State.ocmPiece
  try dsimp only
  repeat' (first | with_reducible assumption | with_reducible apply Keeps.secureDenied | with_reducible apply Keeps.offAccess |
      with_reducible apply Keeps.ocmCheck | with_reducible apply Keeps.ite | with_reducible refine Keeps.foldl ?_ (fun _ _ _ => ?_) |
      with_reducible refine Keeps.foldl1 ?_ (fun _ _ _ => ?_) | with_reducible apply Keeps.ite1)

theorem Keeps.pieceRead {s u : State} (h : Keeps s u) (o : Origin) (addr : Nat) (n : Nat) : Keeps s (u.pieceRead o addr n).1 := by
  unfold State.pieceRead
  try dsimp only
  repeat' (first | with_reducible assumption | with_reducible apply Keeps.ocmPiece | with_reducible apply Keeps.offAccess |
      with_reducible apply Keeps.dramCheck | with_reducible apply Keeps.unmapped | with_reducible apply Keeps.ite |
      with_reducible refine Keeps.foldl ?_ (fun _ _ _ => ?_) | with_reducible refine Keeps.foldl1 ?_ (fun _ _ _ => ?_) |
      with_reducible apply Keeps.ite1 | intro _ | split)

theorem Keeps.ocmStore {s u : State} (h : Keeps s u) (a0 : Nat) (vs : List (Option Byte)) : Keeps s (u.ocmStore a0 vs) := by
  unfold State.ocmStore
  try dsimp only
  repeat' (first | with_reducible assumption | with_reducible apply Keeps.ocmClean | with_reducible apply Keeps.ocmWrite |
      with_reducible apply Keeps.flag | with_reducible apply Keeps.ocmUe | with_reducible apply Keeps.ite)

theorem Keeps.dramStore {s u : State} (h : Keeps s u) (a0 : Nat) (vs : List (Option Byte)) : Keeps s (u.dramStore a0 vs) := by
  unfold State.dramStore
  try dsimp only
  repeat' (first | with_reducible assumption | with_reducible apply Keeps.dramClean | with_reducible apply Keeps.dramWrite |
      with_reducible apply Keeps.flag | with_reducible apply Keeps.count | with_reducible apply Keeps.ite)

theorem Keeps.aliasStore {s u : State} (h : Keeps s u) (a0 : Nat) (vs : List (Option Byte)) (f : Byte → Byte → Byte) : Keeps s (u.aliasStore
    a0 vs f) := by
  unfold State.aliasStore
  try dsimp only
  repeat' (first | with_reducible assumption | with_reducible apply Keeps.ocmUe | with_reducible apply Keeps.ocmWrite |
      with_reducible apply Keeps.ite)

theorem Keeps.ocmGuard {s u : State} (h : Keeps s u) (o : Origin) (x n : Nat) (f : State → State) (hf : Keeps s (f u)) :
    Keeps s (u.ocmGuard o x n f) := by
  unfold State.ocmGuard
  exact Keeps.ite (Keeps.secureDenied h _) (Keeps.ite (Keeps.offAccess h _) hf)

theorem Keeps.pieceWrite {s u : State} (h : Keeps s u) (o : Origin) (addr : Nat) (vs : List (Option Byte)) : Keeps s (u.pieceWrite o addr
    vs) := by
  unfold State.pieceWrite
  try dsimp only
  repeat' (first | with_reducible assumption | with_reducible apply Keeps.ocmGuard | with_reducible apply Keeps.ocmStore |
      with_reducible apply Keeps.aliasStore | with_reducible apply Keeps.offAccess | with_reducible apply Keeps.dramStore |
      with_reducible apply Keeps.unmapped | with_reducible apply Keeps.ite | with_reducible refine Keeps.foldl ?_ (fun _ _ _ => ?_) |
      with_reducible refine Keeps.foldl1 ?_ (fun _ _ _ => ?_) | with_reducible apply Keeps.ite1 | intro _ | split)

theorem Keeps.memRead {s u : State} (h : Keeps s u) (o : Origin) (addr : Nat) (n : Nat) : Keeps s (u.memRead o addr n).1 := by
  unfold State.memRead
  try dsimp only
  repeat' (first | with_reducible assumption | with_reducible apply Keeps.pieceRead | with_reducible apply Keeps.ite |
      with_reducible refine Keeps.foldl ?_ (fun _ _ _ => ?_) | with_reducible refine Keeps.foldl1 ?_ (fun _ _ _ => ?_))

theorem Keeps.memStore {s u : State} (h : Keeps s u) (o : Origin) (addr : Nat) (vs : List (Option Byte)) : Keeps s (u.memStore o addr vs) :=
    by
  unfold State.memStore
  try dsimp only
  repeat' (first | with_reducible assumption | with_reducible apply Keeps.pieceWrite | with_reducible apply Keeps.touch |
      with_reducible apply Keeps.ite | with_reducible refine Keeps.foldl ?_ (fun _ _ _ => ?_))

theorem Keeps.collide {s u : State} (h : Keeps s u) (j : Nat) (w : Word) : Keeps s (u.collide j w) := by
  unfold State.collide
  try dsimp only
  repeat' (first | with_reducible assumption | with_reducible apply Keeps.count | with_reducible apply Keeps.flagOnce |
      with_reducible apply Keeps.set | with_reducible apply Keeps.ite)

theorem Keeps.portAMeets {s u : State} (h : Keeps s u) (before : State) (done : Bool) (r : PortBRange) (l : PortAWords) : Keeps s
    (u.portAMeets before done r l) := by
  unfold State.portAMeets
  try dsimp only
  repeat' (first | with_reducible assumption | with_reducible apply Keeps.collide | with_reducible apply Keeps.ocmClean |
      with_reducible apply Keeps.ocmWrite | with_reducible apply Keeps.ite | with_reducible refine Keeps.foldl ?_ (fun _ _ _ => ?_))

theorem Keeps.busGet {s u : State} (h : Keeps s u) (o : Origin) (addr : Nat) (n : Nat) : KeepsOP s (u.busGet o addr n) := by
  unfold State.busGet
  try dsimp only
  repeat' (first | with_reducible assumption | with_reducible apply Keeps.regRead | with_reducible apply Keeps.badWidth |
      with_reducible apply Keeps.memRead | with_reducible apply Keeps.ite | with_reducible refine Keeps.foldl ?_ (fun _ _ _ => ?_) |
      with_reducible refine Keeps.foldl1 ?_ (fun _ _ _ => ?_) | with_reducible apply Keeps.ite1 | with_reducible exact KeepsO.none |
      with_reducible exact KeepsOP.none | with_reducible apply KeepsO.some | with_reducible apply KeepsOP.some |
      with_reducible apply KeepsO.ite | with_reducible apply KeepsOP.ite | with_reducible refine KeepsO.getD ?_ ?_ |
      with_reducible refine KeepsO.bind ?_ (fun _ _ => ?_) | with_reducible refine KeepsOP.bind ?_ (fun _ _ => ?_) |
      with_reducible refine KeepsO.map ?_ (fun _ _ => ?_) | with_reducible refine KeepsO.ofMap ?_ (fun _ _ => ?_) |
      with_reducible refine KeepsOP.map ?_ (fun _ _ => ?_))

theorem Keeps.busPut {s u : State} (h : Keeps s u) (o : Origin) (addr : Nat) (vs : List (Option Byte)) : KeepsO s (u.busPut o addr vs) := by
  unfold State.busPut
  try dsimp only
  repeat' (first | with_reducible assumption | with_reducible apply Keeps.regStore | with_reducible apply Keeps.badWidth |
      with_reducible apply Keeps.memStore | with_reducible apply Keeps.ite | with_reducible refine Keeps.foldl ?_ (fun _ _ _ => ?_) |
      with_reducible refine Keeps.foldl1 ?_ (fun _ _ _ => ?_) | with_reducible apply Keeps.ite1 | with_reducible exact KeepsO.none |
      with_reducible exact KeepsOP.none | with_reducible apply KeepsO.some | with_reducible apply KeepsOP.some |
      with_reducible apply KeepsO.ite | with_reducible apply KeepsOP.ite | with_reducible refine KeepsO.getD ?_ ?_ |
      with_reducible refine KeepsO.bind ?_ (fun _ _ => ?_))

theorem Keeps.busWord {s u : State} (h : Keeps s u) (o : Origin) (addr : Nat) : KeepsOP s (u.busWord o addr) := by
  unfold State.busWord
  try dsimp only
  repeat' (first | with_reducible assumption | with_reducible apply Keeps.busGet | with_reducible apply Keeps.ite |
      with_reducible refine Keeps.foldl ?_ (fun _ _ _ => ?_) | with_reducible refine Keeps.foldl1 ?_ (fun _ _ _ => ?_) |
      with_reducible apply Keeps.ite1 | with_reducible exact KeepsO.none | with_reducible exact KeepsOP.none |
      with_reducible apply KeepsO.some | with_reducible apply KeepsOP.some | with_reducible apply KeepsO.ite |
      with_reducible apply KeepsOP.ite | with_reducible refine KeepsO.getD ?_ ?_ | with_reducible refine KeepsO.bind ?_ (fun _ _ => ?_) |
      with_reducible refine KeepsOP.bind ?_ (fun _ _ => ?_) | with_reducible refine KeepsO.map ?_ (fun _ _ => ?_) |
      with_reducible refine KeepsO.ofMap ?_ (fun _ _ => ?_) | with_reducible refine KeepsOP.map ?_ (fun _ _ => ?_))

theorem Keeps.busSet {s u : State} (h : Keeps s u) (o : Origin) (addr : Nat) (v : Word) : KeepsO s (u.busSet o addr v) := by
  unfold State.busSet
  try dsimp only
  repeat' (first | with_reducible assumption | with_reducible apply Keeps.busPut)

theorem Keeps.peerDeny {s u : State} (h : Keeps s u) (addr : Nat) : Keeps s (u.peerDeny addr) := by
  unfold State.peerDeny
  try dsimp only
  repeat' (first | with_reducible assumption | with_reducible apply Keeps.secureDenied | with_reducible apply Keeps.regDeny |
      with_reducible apply Keeps.ite | with_reducible refine Keeps.foldl ?_ (fun _ _ _ => ?_) |
      with_reducible refine Keeps.foldl1 ?_ (fun _ _ _ => ?_) | with_reducible apply Keeps.ite1 | intro _ | split)

theorem Keeps.msgAnswer {s u : State} (h : Keeps s u) (src : Nat) (data : Word) (result : Nat) : Keeps s (u.msgAnswer src data result) := by
  unfold State.msgAnswer
  try dsimp only
  repeat' (first | with_reducible assumption | with_reducible apply Keeps.route)

theorem Keeps.peerAccess {s u : State} (h : Keeps s u) (src addr : Nat) (data : Option Word) : KeepsO s (u.peerAccess src addr data) := by
  unfold State.peerAccess
  refine KeepsO.ite (KeepsO.some (Keeps.msgAnswer (Keeps.peerDeny h _) _ _ _)) ?_
  cases data
  case none => exact KeepsO.ofMap (Keeps.busWord h _ _) (fun p hp => Keeps.msgAnswer hp _ _ _)
  case some v => exact KeepsO.map (Keeps.busSet h _ _ _) (fun t ht => Keeps.msgAnswer ht _ _ _)

theorem Keeps.busPerform {s u : State} (h : Keeps s u) (o : Origin) (op : BusOp) : KeepsO s (u.busPerform o op) := by
  unfold State.busPerform
  cases op
  case read a => exact KeepsO.ofMap (Keeps.busWord h _ _) (fun p hp => Keeps.emit hp _)
  case write a v => exact Keeps.busSet h _ _ _
  case get a n =>
    refine KeepsO.ofMap (Keeps.busGet h _ _ _) (fun p hp => ?_)
    exact Keeps.ite (Keeps.emit (Keeps.flagIf (Keeps.emit hp _) _ _) _) (Keeps.emit hp _)
  case put a vs => exact Keeps.busPut h _ _ _
  case peer src a data => exact Keeps.peerAccess h _ _ _

/-! DmaMove. -/

theorem KeepsOP.foldl {β γ : Type} {s : State} {l : List β} {f : Option (State × γ) → β → Option (State × γ)} {o : Option (State × γ)}
    (ho : KeepsOP s o) (hf : ∀ v x, KeepsOP s v → KeepsOP s (f v x)) : KeepsOP s (l.foldl f o) := by
  induction l generalizing o with
  | nil => exact ho
  | cons x l ih => exact ih (hf o x ho)

theorem Keeps.dmaRead {s u : State} (h : Keeps s u) (o : Origin) (addr n : Nat) (host : List Byte) :
    KeepsOP s (u.dmaRead o addr n host) := by
  unfold State.dmaRead
  refine KeepsOP.ite (KeepsOP.some h) (KeepsOP.ite ?_ (Keeps.busGet h _ _ _))
  refine KeepsOP.foldl (KeepsOP.some h) (fun g k hg => KeepsOP.bind hg (fun x hx => ?_))
  exact KeepsOP.map (Keeps.busWord hx _ _) (fun r hr => hr)

theorem Keeps.dmaWriteTo {s u : State} (h : Keeps s u) (o : Origin) (addr : Nat) (vs : List (Option Byte)) :
    KeepsO s (u.dmaWriteTo o addr vs) := by
  unfold State.dmaWriteTo
  refine KeepsO.ite (KeepsO.some (Keeps.ite (Keeps.emit h _) h)) (KeepsO.ite ?_ (Keeps.busPut h _ _ _))
  refine KeepsO.foldl (KeepsO.some h) (fun g k hg => KeepsO.bind hg (fun u hu => ?_))
  exact KeepsO.ite (Keeps.busPut hu _ _ _) (KeepsO.some hu)

theorem Keeps.dmaData {s u : State} (h : Keeps s u) (o : Origin) (d : DmaDesc) (off n : Nat) (host : List Byte) :
    KeepsOP s (u.dmaData o d off n host) := by
  unfold State.dmaData
  refine KeepsOP.ite (KeepsOP.some h) (KeepsOP.map (Keeps.dmaRead h _ _ _ _) (fun g hg => ?_))
  exact Keeps.ite1 (Keeps.skipFresh hg _) hg

theorem Keeps.lineReport {s u : State} (h : Keeps s u) (d : DmaDesc) : Keeps s (u.lineReport d) := by
  unfold State.lineReport
  try dsimp only
  repeat' (first | with_reducible assumption | with_reducible apply Keeps.checkRegion)

theorem Keeps.dmaAwait {s u : State} (h : Keeps s u) (n : Nat) (asked : Nat) (host : List Byte) (addr : Nat) : Keeps s (u.dmaAwait n asked
    host addr) := by
  unfold State.dmaAwait
  try dsimp only
  repeat' (first | with_reducible assumption | with_reducible apply Keeps.emit | with_reducible apply Keeps.updHost)

theorem Keeps.dmaMove {s u : State} (h : Keeps s u) (n fuel asked : Nat) (host : List Byte) : Keeps s (State.dmaMove n fuel u asked host) :=
    by
  induction fuel generalizing u asked host with
  | zero => exact h
  | succ fuel ih =>
    unfold State.dmaMove
    dsimp only
    split
    · exact h
    · refine Keeps.ite h (Keeps.ite (Keeps.updDesc (Keeps.lineReport h _) _ _) ?_)
      split
      · exact Keeps.dmaAwait h _ _ _ _
      · rename_i g hg
        have hk : Keeps s g.1 := KeepsOP.get1 (Keeps.dmaData h _ _ _ _ _) hg
        refine Keeps.ite h ?_
        split
        · exact Keeps.dmaAwait h _ _ _ _
        · refine ih (Keeps.dramAsk ?_ _ _ _) _ _
          have hm := KeepsO.get (Keeps.dmaWriteTo hk _ _ _) (by assumption)
          exact Keeps.ite (Keeps.set (Keeps.updDesc hm _ _) _ _) (Keeps.dramAsk (Keeps.set (Keeps.updDesc hm _ _) _ _) _ _ _)

theorem Keeps.dmaCheck {s u : State} (h : Keeps s u) (n : Nat) (d : DmaDesc) : Keeps s (u.dmaCheck n d) := by
  unfold State.dmaCheck
  try dsimp only
  repeat' (first | with_reducible assumption | with_reducible apply Keeps.descCheck | with_reducible apply Keeps.updDesc |
      with_reducible apply Keeps.ite)

theorem Keeps.dmaRun {s u : State} (h : Keeps s u) (n : Nat) (fill : Bool) (asked : Nat) (host : Option (List Byte)) : Keeps s (u.dmaRun n
    fill asked host) := by
  unfold State.dmaRun
  try dsimp only
  repeat' (first | with_reducible assumption | with_reducible apply Keeps.dmaCheck | with_reducible apply Keeps.dmaMove |
      with_reducible apply Keeps.updDesc | with_reducible apply Keeps.ite | with_reducible refine Keeps.foldl ?_ (fun _ _ _ => ?_) |
      with_reducible refine Keeps.foldl1 ?_ (fun _ _ _ => ?_) | with_reducible apply Keeps.ite1 | intro _ | split)

theorem Keeps.dmaAbortData {s u : State} (h : Keeps s u) (n : Nat) (d : DmaDesc) (host : List Byte) : Keeps s (u.dmaAbortData n d host) :=
    by
  unfold State.dmaAbortData
  try dsimp only
  repeat' (first | with_reducible assumption | with_reducible apply Keeps.dmaData | with_reducible apply Keeps.skipFresh |
      with_reducible apply Keeps.dmaWriteTo | with_reducible apply Keeps.ite | with_reducible refine Keeps.foldl ?_ (fun _ _ _ => ?_) |
      with_reducible refine Keeps.foldl1 ?_ (fun _ _ _ => ?_) | with_reducible apply Keeps.ite1 | with_reducible exact KeepsO.none |
      with_reducible exact KeepsOP.none | with_reducible apply KeepsO.some | with_reducible apply KeepsOP.some |
      with_reducible apply KeepsO.ite | with_reducible apply KeepsOP.ite | with_reducible refine KeepsO.getD ?_ ?_ |
      with_reducible refine KeepsO.bind ?_ (fun _ _ => ?_) | with_reducible refine KeepsOP.bind ?_ (fun _ _ => ?_) |
      with_reducible refine KeepsO.map ?_ (fun _ _ => ?_) | with_reducible refine KeepsO.ofMap ?_ (fun _ _ => ?_) |
      with_reducible refine KeepsOP.map ?_ (fun _ _ => ?_) | with_reducible refine KeepsO.foldl ?_ (fun _ _ _ => ?_) |
      with_reducible refine KeepsO.get ?_ (by assumption) | with_reducible refine KeepsOP.get ?_ (by assumption) |
      with_reducible refine KeepsOP.get1 ?_ (by assumption) | intro _ | split)

theorem Keeps.dmaDone {s u : State} (h : Keeps s u) (n : Nat) (host : List Byte) : Keeps s (u.dmaDone n host) := by
  unfold State.dmaDone
  try dsimp only
  repeat' (first | with_reducible assumption | with_reducible apply Keeps.descWriteBack | with_reducible apply Keeps.dmaAbortData |
      with_reducible apply Keeps.ite | with_reducible refine Keeps.foldl ?_ (fun _ _ _ => ?_) |
      with_reducible refine Keeps.foldl1 ?_ (fun _ _ _ => ?_) | with_reducible apply Keeps.ite1 | intro _ | split)

theorem Keeps.dmaGo {s u : State} (h : Keeps s u) (n : Nat) (fill : Bool) (asked : Nat) (host : Option (List Byte)) (a : PortAWords) : Keeps
    s (u.dmaGo n fill asked host a) := by
  unfold State.dmaGo
  try dsimp only
  repeat' (first | with_reducible assumption | with_reducible apply Keeps.dmaRun | with_reducible apply Keeps.portAMeets |
      with_reducible apply Keeps.ite | with_reducible refine Keeps.foldl ?_ (fun _ _ _ => ?_) |
      with_reducible refine Keeps.foldl1 ?_ (fun _ _ _ => ?_) | with_reducible apply Keeps.ite1 | intro _ | split)

/-! Waiting. -/

theorem Keeps.await {s u : State} (h : Keeps s u) (w : Waiting) : Keeps s (u.await w) := by
  unfold State.await
  try dsimp only
  repeat' (first | with_reducible assumption | with_reducible apply Keeps.updHost)

theorem Keeps.busAccess {s u : State} (h : Keeps s u) (o : Origin) (op : BusOp) : Keeps s (u.busAccess o op) := by
  unfold State.busAccess
  try dsimp only
  repeat' (first | with_reducible assumption | with_reducible apply Keeps.busPerform | with_reducible apply Keeps.emit |
      with_reducible apply Keeps.await | with_reducible apply Keeps.ite | with_reducible refine Keeps.foldl ?_ (fun _ _ _ => ?_) |
      with_reducible refine Keeps.foldl1 ?_ (fun _ _ _ => ?_) | with_reducible apply Keeps.ite1 | with_reducible exact KeepsO.none |
      with_reducible exact KeepsOP.none | with_reducible apply KeepsO.some | with_reducible apply KeepsOP.some |
      with_reducible apply KeepsO.ite | with_reducible apply KeepsOP.ite | with_reducible refine KeepsO.getD ?_ ?_ |
      with_reducible refine KeepsO.bind ?_ (fun _ _ => ?_) | with_reducible refine KeepsOP.bind ?_ (fun _ _ => ?_) |
      with_reducible refine KeepsO.map ?_ (fun _ _ => ?_) | with_reducible refine KeepsO.ofMap ?_ (fun _ _ => ?_) |
      with_reducible refine KeepsOP.map ?_ (fun _ _ => ?_) | with_reducible refine KeepsO.foldl ?_ (fun _ _ _ => ?_) |
      with_reducible refine KeepsO.get ?_ (by assumption) | with_reducible refine KeepsOP.get ?_ (by assumption) |
      with_reducible refine KeepsOP.get1 ?_ (by assumption) | intro _ | split)

theorem Keeps.flowPerform {s u : State} (h : Keeps s u) (i : Nat) (op : FlowOp) : KeepsO s (u.flowPerform i op) := by
  unfold State.flowPerform
  try dsimp only
  repeat' (first | with_reducible assumption | with_reducible apply Keeps.flowNext | with_reducible apply Keeps.setVar |
      with_reducible apply Keeps.busWord | with_reducible apply Keeps.busSet | with_reducible apply Keeps.ite |
      with_reducible refine Keeps.foldl ?_ (fun _ _ _ => ?_) | with_reducible refine Keeps.foldl1 ?_ (fun _ _ _ => ?_) |
      with_reducible apply Keeps.ite1 | with_reducible exact KeepsO.none | with_reducible exact KeepsOP.none |
      with_reducible apply KeepsO.some | with_reducible apply KeepsOP.some | with_reducible apply KeepsO.ite |
      with_reducible apply KeepsOP.ite | with_reducible refine KeepsO.getD ?_ ?_ | with_reducible refine KeepsO.bind ?_ (fun _ _ => ?_) |
      with_reducible refine KeepsOP.bind ?_ (fun _ _ => ?_) | with_reducible refine KeepsO.map ?_ (fun _ _ => ?_) |
      with_reducible refine KeepsO.ofMap ?_ (fun _ _ => ?_) | with_reducible refine KeepsOP.map ?_ (fun _ _ => ?_) |
      with_reducible refine KeepsO.foldl ?_ (fun _ _ _ => ?_) | with_reducible refine KeepsO.get ?_ (by assumption) |
      with_reducible refine KeepsOP.get ?_ (by assumption) | with_reducible refine KeepsOP.get1 ?_ (by assumption) | split)

theorem Keeps.flowAccess {s u : State} (h : Keeps s u) (i : Nat) (op : FlowOp) : Keeps s (u.flowAccess i op) := by
  unfold State.flowAccess
  try dsimp only
  repeat' (first | with_reducible assumption | with_reducible apply Keeps.flowPerform | with_reducible apply Keeps.emit |
      with_reducible apply Keeps.await | with_reducible apply Keeps.updFlow | with_reducible apply Keeps.ite |
      with_reducible refine Keeps.foldl ?_ (fun _ _ _ => ?_) | with_reducible refine Keeps.foldl1 ?_ (fun _ _ _ => ?_) |
      with_reducible apply Keeps.ite1 | with_reducible exact KeepsO.none | with_reducible exact KeepsOP.none |
      with_reducible apply KeepsO.some | with_reducible apply KeepsOP.some | with_reducible apply KeepsO.ite |
      with_reducible apply KeepsOP.ite | with_reducible refine KeepsO.getD ?_ ?_ | with_reducible refine KeepsO.bind ?_ (fun _ _ => ?_) |
      with_reducible refine KeepsOP.bind ?_ (fun _ _ => ?_) | with_reducible refine KeepsO.map ?_ (fun _ _ => ?_) |
      with_reducible refine KeepsO.ofMap ?_ (fun _ _ => ?_) | with_reducible refine KeepsOP.map ?_ (fun _ _ => ?_) |
      with_reducible refine KeepsO.foldl ?_ (fun _ _ _ => ?_) | with_reducible refine KeepsO.get ?_ (by assumption) |
      with_reducible refine KeepsOP.get ?_ (by assumption) | with_reducible refine KeepsOP.get1 ?_ (by assumption) | intro _ | split)

theorem Keeps.waitTry {s u : State} (h : Keeps s u) (w : Waiting) : Keeps s (u.waitTry w) := by
  unfold State.waitTry
  try dsimp only
  repeat' (first | with_reducible assumption | with_reducible apply Keeps.busPerform | with_reducible apply Keeps.await |
      with_reducible apply Keeps.flowPerform | with_reducible apply Keeps.dmaMove | with_reducible apply Keeps.ite |
      with_reducible refine Keeps.foldl ?_ (fun _ _ _ => ?_) | with_reducible refine Keeps.foldl1 ?_ (fun _ _ _ => ?_) |
      with_reducible apply Keeps.ite1 | with_reducible exact KeepsO.none | with_reducible exact KeepsOP.none |
      with_reducible apply KeepsO.some | with_reducible apply KeepsOP.some | with_reducible apply KeepsO.ite |
      with_reducible apply KeepsOP.ite | with_reducible refine KeepsO.getD ?_ ?_ | with_reducible refine KeepsO.bind ?_ (fun _ _ => ?_) |
      with_reducible refine KeepsOP.bind ?_ (fun _ _ => ?_) | with_reducible refine KeepsO.map ?_ (fun _ _ => ?_) |
      with_reducible refine KeepsO.ofMap ?_ (fun _ _ => ?_) | with_reducible refine KeepsOP.map ?_ (fun _ _ => ?_) |
      with_reducible refine KeepsO.foldl ?_ (fun _ _ _ => ?_) | with_reducible refine KeepsO.get ?_ (by assumption) |
      with_reducible refine KeepsOP.get ?_ (by assumption) | with_reducible refine KeepsOP.get1 ?_ (by assumption) | intro _ | split)

theorem Keeps.busRetry {s u : State} (h : Keeps s u) : Keeps s (u.busRetry) := by
  unfold State.busRetry
  try dsimp only
  repeat' (first | with_reducible assumption | with_reducible apply Keeps.waitTry | with_reducible apply Keeps.updHost |
      with_reducible apply Keeps.ite | with_reducible refine Keeps.foldl ?_ (fun _ _ _ => ?_))

theorem Keeps.stallTimeout {s u : State} (h : Keeps s u) : Keeps s (u.stallTimeout) := by
  unfold State.stallTimeout
  try dsimp only
  repeat' (first | with_reducible assumption | with_reducible apply Keeps.at_ | with_reducible apply Keeps.flag |
      with_reducible apply Keeps.count | with_reducible apply Keeps.emit | with_reducible apply Keeps.busRetry |
      with_reducible apply Keeps.updHost | with_reducible apply Keeps.ite | with_reducible refine Keeps.foldl ?_ (fun _ _ _ => ?_) |
      with_reducible refine Keeps.foldl1 ?_ (fun _ _ _ => ?_) | with_reducible apply Keeps.ite1 | intro _ | split)

theorem Keeps.hostRequest {s u : State} (h : Keeps s u) (q : HostReq) : Keeps s (u.hostRequest q) := by
  unfold State.hostRequest
  try dsimp only
  repeat' (first | with_reducible assumption | with_reducible apply Keeps.emit | with_reducible apply Keeps.busAccess |
      with_reducible apply Keeps.ite | with_reducible refine Keeps.foldl ?_ (fun _ _ _ => ?_) |
      with_reducible refine Keeps.foldl1 ?_ (fun _ _ _ => ?_) | with_reducible apply Keeps.ite1 | intro _ | split)

/-! BusRows. -/

theorem Keeps.portBRead {s u : State} (h : Keeps s u) (o : Origin) (a1 : Nat) (n : Nat) (e : Ecc) : Keeps s (u.portBRead o a1 n e) := by
  unfold State.portBRead
  try dsimp only
  repeat' (first | with_reducible assumption | with_reducible apply Keeps.busAccess | with_reducible apply Keeps.ocmUpset |
      with_reducible apply Keeps.ite)

theorem Keeps.portBWrite {s u : State} (h : Keeps s u) (o : Origin) (aliased : Bool) (base : Nat) (a3 : Nat) (vs : List (Option Byte)) (e :
    Ecc) (a : PortAWords) : Keeps s (u.portBWrite o aliased base a3 vs e a) := by
  unfold State.portBWrite
  try dsimp only
  repeat' (first | with_reducible assumption | with_reducible apply Keeps.ocmUpset | with_reducible apply Keeps.busAccess |
      with_reducible apply Keeps.portAMeets | with_reducible apply Keeps.ite)

theorem Keeps.stepMeas {s u : State} (h : Keeps s u) (i : Nat) : Keeps s (u.stepMeas i) := by
  unfold State.stepMeas
  try dsimp only
  repeat' (first | with_reducible assumption | with_reducible apply Keeps.flowFault | with_reducible apply Keeps.flowAccess |
      with_reducible apply Keeps.flowNext | with_reducible apply Keeps.setVar | with_reducible apply Keeps.ite |
      with_reducible refine Keeps.foldl ?_ (fun _ _ _ => ?_) | with_reducible refine Keeps.foldl1 ?_ (fun _ _ _ => ?_) |
      with_reducible apply Keeps.ite1 | intro _ | split)

theorem Keeps.stepWrite {s u : State} (h : Keeps s u) (i : Nat) : Keeps s (u.stepWrite i) := by
  unfold State.stepWrite
  try dsimp only
  repeat' (first | with_reducible assumption | with_reducible apply Keeps.flowAccess)

theorem Keeps.msgFrame {s u : State} (h : Keeps s u) (src : Nat) (dest : Nat) (type : Nat) (addr : Nat) (data : Option Word) : Keeps s
    (u.msgFrame src dest type addr data) := by
  unfold State.msgFrame
  try dsimp only
  repeat' (first | with_reducible assumption | with_reducible apply Keeps.busAccess | with_reducible apply Keeps.route |
      with_reducible apply Keeps.ite)

theorem Keeps.msgLoop {s u : State} (h : Keeps s u) (type : Nat) : Keeps s (u.msgLoop type) := by
  unfold State.msgLoop
  try dsimp only
  repeat' (first | with_reducible assumption | with_reducible apply Keeps.msgFrame | with_reducible apply Keeps.updIat |
      with_reducible apply Keeps.ite | with_reducible refine Keeps.foldl ?_ (fun _ _ _ => ?_) |
      with_reducible refine Keeps.foldl1 ?_ (fun _ _ _ => ?_) | with_reducible apply Keeps.ite1 | intro _ | split)

theorem Keeps.serveAgain {s u : State} (h : Keeps s u) : Keeps s (u.serveAgain) := by
  unfold State.serveAgain
  try dsimp only
  repeat' (first | with_reducible assumption | with_reducible apply Keeps.busRetry | with_reducible apply Keeps.audDrain |
      with_reducible apply Keeps.storeLate)

theorem Keeps.debugAccess {s u : State} (h : Keeps s u) (op : BusOp) : Keeps s (u.debugAccess op) := by
  unfold State.debugAccess
  try dsimp only
  repeat' (first | with_reducible assumption | with_reducible apply Keeps.busAccess | with_reducible apply Keeps.emit |
      with_reducible apply Keeps.ite | with_reducible refine Keeps.foldl ?_ (fun _ _ _ => ?_) |
      with_reducible refine Keeps.foldl1 ?_ (fun _ _ _ => ?_) | with_reducible apply Keeps.ite1 | intro _ | split)

/-! Boot. -/

theorem Keeps.setStage {s u : State} (h : Keeps s u) (k : Nat) : Keeps s (u.setStage k) := by
  unfold State.setStage
  try dsimp only
  repeat' (first | with_reducible assumption | with_reducible apply Keeps.set)

theorem Keeps.loadFreq {s u : State} (h : Keeps s u) (f : Fld) (c : Option (Fin 4)) : Keeps s (u.loadFreq f c) := by
  unfold State.loadFreq
  try dsimp only
  repeat' (first | with_reducible assumption | with_reducible apply Keeps.set | with_reducible apply Keeps.ite |
      with_reducible refine Keeps.foldl ?_ (fun _ _ _ => ?_) | with_reducible refine Keeps.foldl1 ?_ (fun _ _ _ => ?_) |
      with_reducible apply Keeps.ite1 | intro _ | split)

theorem Keeps.firstLock {s u : State} (h : Keeps s u) (a : Option (Fin 4)) (b : Option (Fin 4)) : Keeps s (u.firstLock a b) := by
  unfold State.firstLock
  try dsimp only
  repeat' (first | with_reducible assumption | with_reducible apply Keeps.loadFreq | with_reducible apply Keeps.flag |
      with_reducible apply Keeps.refUse | with_reducible apply Keeps.setStage | with_reducible apply Keeps.updTb |
      with_reducible apply Keeps.ite | with_reducible refine Keeps.foldl ?_ (fun _ _ _ => ?_) |
      with_reducible refine Keeps.foldl1 ?_ (fun _ _ _ => ?_) | with_reducible apply Keeps.ite1 | intro _ | split)

theorem Keeps.bootFault {s u : State} (h : Keeps s u) : Keeps s (u.bootFault) := by
  unfold State.bootFault
  try dsimp only
  repeat' (first | with_reducible assumption | with_reducible apply Keeps.memGone | with_reducible apply Keeps.clearStart |
      with_reducible apply Keeps.set | with_reducible apply Keeps.setStage | with_reducible apply Keeps.avsBase |
      with_reducible apply Keeps.raise | with_reducible apply Keeps.ite)

theorem Keeps.bootMarched {s u : State} (h : Keeps s u) (bad : List Nat) : Keeps s (u.bootMarched bad) := by
  unfold State.bootMarched
  try dsimp only
  repeat' (first | with_reducible assumption | with_reducible apply Keeps.bootFault | with_reducible apply Keeps.audDrain |
      with_reducible apply Keeps.setStage | with_reducible apply Keeps.bootMarch | with_reducible apply Keeps.ite)

theorem Keeps.flashFound {s u : State} (h : Keeps s u) (sfdp : Option (Bool × Nat)) (h0 : List Byte) (h1 : List Byte) : Keeps s
    (u.flashFound sfdp h0 h1) := by
  unfold State.flashFound
  try dsimp only
  repeat' (first | with_reducible assumption | with_reducible apply Keeps.bootFault | with_reducible apply Keeps.set |
      with_reducible apply Keeps.setStage | with_reducible apply Keeps.updBoot | with_reducible apply Keeps.ite |
      with_reducible refine Keeps.foldl ?_ (fun _ _ _ => ?_) | with_reducible refine Keeps.foldl1 ?_ (fun _ _ _ => ?_) |
      with_reducible apply Keeps.ite1 | intro _ | split)

theorem Keeps.copyBad {s u : State} (h : Keeps s u) (code : Nat) (index : Nat) : Keeps s (u.copyBad code index) := by
  unfold State.copyBad
  try dsimp only
  repeat' (first | with_reducible assumption | with_reducible apply Keeps.updBoot)

theorem Keeps.stageRecord {s u : State} (h : Keeps s u) (r : ImgRecord) (len : Nat) (index : Nat) : Keeps s (u.stageRecord r len index) :=
    by
  unfold State.stageRecord
  try dsimp only
  repeat' (first | with_reducible assumption | with_reducible apply Keeps.copyBad | with_reducible apply Keeps.updBoot |
      with_reducible apply Keeps.ite)

theorem Keeps.loadRecord {s u : State} (h : Keeps s u) (r : ImgRecord) (index : Nat) : Keeps s (u.loadRecord r index) := by
  unfold State.loadRecord
  try dsimp only
  repeat' (first | with_reducible assumption | with_reducible apply Keeps.copyBad | with_reducible apply Keeps.count |
      with_reducible apply Keeps.updBoot | with_reducible apply Keeps.memStore | with_reducible apply Keeps.ite |
      with_reducible refine Keeps.foldl ?_ (fun _ _ _ => ?_) | with_reducible refine Keeps.foldl1 ?_ (fun _ _ _ => ?_) |
      with_reducible apply Keeps.ite1 | intro _ | split)

theorem Keeps.dramRecord {s u : State} (h : Keeps s u) (ws : List Word) : Keeps s (u.dramRecord ws) := by
  unfold State.dramRecord
  try dsimp only
  repeat' (first | with_reducible assumption | with_reducible apply Keeps.regWrite | with_reducible apply Keeps.updBoot |
      with_reducible apply Keeps.bringUp | with_reducible apply Keeps.ite | with_reducible refine Keeps.foldl ?_ (fun _ _ _ => ?_))

theorem Keeps.actRecord {s u : State} (h : Keeps s u) (r : ImgRecord) (len : Nat) (index : Nat) : Keeps s (u.actRecord r len index) := by
  unfold State.actRecord
  try dsimp only
  repeat' (first | with_reducible assumption | with_reducible apply Keeps.copyBad | with_reducible apply Keeps.stageRecord |
      with_reducible apply Keeps.dramRecord | with_reducible apply Keeps.loadRecord | with_reducible apply Keeps.updBoot |
      with_reducible apply Keeps.ite | with_reducible refine Keeps.foldl ?_ (fun _ _ _ => ?_) |
      with_reducible refine Keeps.foldl1 ?_ (fun _ _ _ => ?_) | with_reducible apply Keeps.ite1 | intro _ | split)

theorem Keeps.placeRecord {s u : State} (h : Keeps s u) (kind : Nat) (pay : List Byte) (r : Option ImgRecord) (ok : Bool) : Keeps s
    (u.placeRecord kind pay r ok) := by
  unfold State.placeRecord
  try dsimp only
  repeat' (first | with_reducible assumption | with_reducible apply Keeps.updBoot | with_reducible apply Keeps.copyBad |
      with_reducible apply Keeps.actRecord | with_reducible apply Keeps.ite | with_reducible refine Keeps.foldl ?_ (fun _ _ _ => ?_) |
      with_reducible refine Keeps.foldl1 ?_ (fun _ _ _ => ?_) | with_reducible apply Keeps.ite1 | intro _ | split)

theorem Keeps.readRecord {s u : State} (h : Keeps s u) (kind : Nat) (pay : List Byte) (crc : RecordCrc) : Keeps s (u.readRecord kind pay
    crc) := by
  unfold State.readRecord
  try dsimp only
  repeat' (first | with_reducible assumption | with_reducible apply Keeps.placeRecord | with_reducible apply Keeps.set |
      with_reducible apply Keeps.ite | with_reducible refine Keeps.foldl ?_ (fun _ _ _ => ?_) |
      with_reducible refine Keeps.foldl1 ?_ (fun _ _ _ => ?_) | with_reducible apply Keeps.ite1 | intro _ | split)

theorem Keeps.bankClear {s u : State} (h : Keeps s u) (b : Nat) : Keeps s (u.bankClear b) := by
  unfold State.bankClear
  try dsimp only
  repeat' (first | with_reducible assumption | with_reducible apply Keeps.setBank)

theorem Keeps.toMirror {s u : State} (h : Keeps s u) : Keeps s (u.toMirror) := by
  unfold State.toMirror
  try dsimp only
  repeat' (first | with_reducible assumption | with_reducible apply Keeps.bankClear | with_reducible apply Keeps.clearStart |
      with_reducible apply Keeps.setStage | with_reducible apply Keeps.updBoot | with_reducible apply Keeps.ite |
      with_reducible refine Keeps.foldl ?_ (fun _ _ _ => ?_))

theorem Keeps.copyChecked {s u : State} (h : Keeps s u) (e : CopyEnd) : Keeps s (u.copyChecked e) := by
  unfold State.copyChecked
  try dsimp only
  repeat' (first | with_reducible assumption | with_reducible apply Keeps.set | with_reducible apply Keeps.setStage |
      with_reducible apply Keeps.bootFault | with_reducible apply Keeps.toMirror | with_reducible apply Keeps.ite |
      with_reducible refine Keeps.foldl ?_ (fun _ _ _ => ?_) | with_reducible refine Keeps.foldl1 ?_ (fun _ _ _ => ?_) |
      with_reducible apply Keeps.ite1 | intro _ | split)

theorem Keeps.lockReg {s u : State} (h : Keeps s u) (a : Nat) : Keeps s (u.lockReg a) := by
  unfold State.lockReg
  try dsimp only
  repeat' (first | with_reducible assumption | with_reducible apply Keeps.ite | with_reducible refine Keeps.foldl ?_ (fun _ _ _ => ?_) |
      with_reducible refine Keeps.foldl1 ?_ (fun _ _ _ => ?_) | with_reducible apply Keeps.ite1 | intro _ | split |
      with_reducible exact Keeps.frame h rfl rfl rfl rfl rfl rfl rfl rfl rfl rfl)

theorem Keeps.lockAll {s u : State} (h : Keeps s u) (offs : List Nat) : Keeps s (u.lockAll offs) := by
  unfold State.lockAll
  try dsimp only
  repeat' (first | with_reducible assumption | with_reducible apply Keeps.lockReg | with_reducible apply Keeps.ite |
      with_reducible refine Keeps.foldl ?_ (fun _ _ _ => ?_))

theorem Keeps.regPair {s u : State} (h : Keeps s u) (o : Origin) (k : Nat) (p : Nat × Word) : Keeps s (State.regPair o k u p) := by
  unfold State.regPair
  try dsimp only
  repeat' (first | with_reducible assumption | with_reducible apply Keeps.busSet | with_reducible apply Keeps.unmapped |
      with_reducible apply Keeps.count | with_reducible apply Keeps.ite | with_reducible refine Keeps.foldl ?_ (fun _ _ _ => ?_) |
      with_reducible refine Keeps.foldl1 ?_ (fun _ _ _ => ?_) | with_reducible apply Keeps.ite1 | with_reducible exact KeepsO.none |
      with_reducible exact KeepsOP.none | with_reducible apply KeepsO.some | with_reducible apply KeepsOP.some |
      with_reducible apply KeepsO.ite | with_reducible apply KeepsOP.ite | with_reducible refine KeepsO.getD ?_ ?_)

theorem Keeps.applyRecord {s u : State} (h : Keeps s u) (o : Origin) (k : Nat) (r : ImgRecord) : Keeps s (State.applyRecord o k u r) := by
  unfold State.applyRecord
  try dsimp only
  repeat' (first | with_reducible assumption | with_reducible apply Keeps.updHost | with_reducible apply Keeps.regPair |
      with_reducible apply Keeps.memStore | with_reducible apply Keeps.lockAll | with_reducible apply Keeps.ite |
      with_reducible refine Keeps.foldl ?_ (fun _ _ _ => ?_) | with_reducible refine Keeps.foldl1 ?_ (fun _ _ _ => ?_) |
      with_reducible apply Keeps.ite1 | intro _ | split)

theorem Keeps.applied {s u : State} (h : Keeps s u) : Keeps s (u.applied) := by
  unfold State.applied
  try dsimp only
  repeat' (first | with_reducible assumption | with_reducible apply Keeps.applyRecord | with_reducible apply Keeps.raise |
      with_reducible apply Keeps.physErase | with_reducible apply Keeps.set64 | with_reducible apply Keeps.set |
      with_reducible apply Keeps.setStage | with_reducible apply Keeps.updBoot | with_reducible apply Keeps.audit |
      with_reducible apply Keeps.ite | with_reducible refine Keeps.foldl ?_ (fun _ _ _ => ?_))

theorem Keeps.amdApplied {s u : State} (h : Keeps s u) (seq : Nat) : Keeps s (u.amdApplied seq) := by
  unfold State.amdApplied
  try dsimp only
  repeat' (first | with_reducible assumption | with_reducible apply Keeps.raise | with_reducible apply Keeps.set |
      with_reducible apply Keeps.audit)

theorem Keeps.amendEntry {s u : State} (h : Keeps s u) (bs : List Byte) : Keeps s (u.amendEntry bs) := by
  unfold State.amendEntry
  try dsimp only
  repeat' (first | with_reducible assumption | with_reducible apply Keeps.count | with_reducible apply Keeps.applyRecord |
      with_reducible apply Keeps.amdApplied | with_reducible apply Keeps.ite | with_reducible refine Keeps.foldl ?_ (fun _ _ _ => ?_))

theorem Keeps.almStage {s u : State} (h : Keeps s u) (b0 : List Byte) (b1 : List Byte) : Keeps s (u.almStage b0 b1) := by
  unfold State.almStage
  try dsimp only
  repeat' (first | with_reducible assumption | with_reducible apply Keeps.setStage | with_reducible apply Keeps.almLoad |
      with_reducible apply Keeps.ite)

theorem Keeps.selfFail {s u : State} (h : Keeps s u) (p : Nat) (m : Nat) : Keeps s (u.selfFail p m) := by
  unfold State.selfFail
  try dsimp only
  repeat' (first | with_reducible assumption | with_reducible apply Keeps.raise | with_reducible apply Keeps.set |
      with_reducible apply Keeps.ite)

theorem Keeps.selfTested {s u : State} (h : Keeps s u) (fails : List (Nat × Nat)) : Keeps s (u.selfTested fails) := by
  unfold State.selfTested
  try dsimp only
  repeat' (first | with_reducible assumption | with_reducible apply Keeps.selfFail | with_reducible apply Keeps.set |
      with_reducible apply Keeps.setStage | with_reducible apply Keeps.treeEval | with_reducible apply Keeps.raise |
      with_reducible apply Keeps.avsBase | with_reducible apply Keeps.flowRun | with_reducible apply Keeps.ite |
      with_reducible refine Keeps.foldl ?_ (fun _ _ _ => ?_))

theorem Keeps.amdApply {s u : State} (h : Keeps s u) : Keeps s (u.amdApply) := by
  unfold State.amdApply
  try dsimp only
  repeat' (first | with_reducible assumption | with_reducible apply Keeps.applyRecord | with_reducible apply Keeps.amdApplied |
      with_reducible apply Keeps.releaseArms | with_reducible apply Keeps.updBoot | with_reducible apply Keeps.set |
      with_reducible apply Keeps.ite | with_reducible refine Keeps.foldl ?_ (fun _ _ _ => ?_) |
      with_reducible refine Keeps.foldl1 ?_ (fun _ _ _ => ?_) | with_reducible apply Keeps.ite1 | intro _ | split)

theorem Keeps.amdEnd {s u : State} (h : Keeps s u) (r : Nat) : Keeps s (u.amdEnd r) := by
  unfold State.amdEnd
  try dsimp only
  repeat' (first | with_reducible assumption | with_reducible apply Keeps.almNext | with_reducible apply Keeps.updBoot |
      with_reducible apply Keeps.set)

theorem Keeps.amdStored {s u : State} (h : Keeps s u) (area : List Byte) (back : Option (List Byte)) : Keeps s (u.amdStored area back) := by
  unfold State.amdStored
  try dsimp only
  repeat' (first | with_reducible assumption | with_reducible apply Keeps.amdEnd | with_reducible apply Keeps.emit |
      with_reducible apply Keeps.ite | with_reducible refine Keeps.foldl ?_ (fun _ _ _ => ?_) |
      with_reducible refine Keeps.foldl1 ?_ (fun _ _ _ => ?_) | with_reducible apply Keeps.ite1 | intro _ | split)

/-! Step. -/

theorem Keeps.idleTick {s u : State} (h : Keeps s u) : Keeps s u.idleTick :=
  h.trans ⟨rfl, Nat.le_add_right _ _, Nat.le_refl _, List.prefix_refl _, id, KeyStore.le_refl _⟩

end Sys2Proof.Machine
end

