-- ==== Sys2Proof/Laws/KeepsExec.lean ====
section
/-! SUPPORT. `Keeps` of every command: what its effect keeps where it gives a next state. -/
namespace Sys2Proof.Machine

/-- `Keeps` for the outcome of a command. -/
def KeepsH (s : State) (o : Host.Outcome State Fault Refusal) : Prop := ∀ t, o = .next t → Keeps s t

theorem KeepsH.next {s t : State} (h : Keeps s t) : KeepsH s (.next t) := fun _ e => by cases e; exact h

theorem KeepsH.ite {s : State} {a b : Host.Outcome State Fault Refusal} {c : Prop} [Decidable c] (ha : KeepsH s a) (hb : KeepsH s b) :
    KeepsH s (if c then a else b) := by
  split <;> assumption

theorem KeepsH.fault {s : State} {r : Fault} : KeepsH s (.fault r) := fun _ e => nomatch e

theorem execRedOperand_keeps (s : State) : KeepsH s (execRedOperand s) := by
  unfold execRedOperand
  repeat' (first | with_reducible apply KeepsH.next | with_reducible exact Keeps.refl s | with_reducible assumption |
      with_reducible apply Keeps.redOperand)

theorem execRedSnap_keeps (a : Fin 1024) (snap : Bool) (s : State) : KeepsH s (execRedSnap a snap s) := by
  unfold execRedSnap
  repeat' (first | with_reducible apply KeepsH.next | with_reducible exact Keeps.refl s | with_reducible assumption |
      with_reducible apply Keeps.redSnap | with_reducible apply Keeps.ite)

theorem execRedSnapDone_keeps (s : State) : KeepsH s (execRedSnapDone s) := by
  unfold execRedSnapDone
  repeat' (first | with_reducible apply KeepsH.next | with_reducible exact Keeps.refl s | with_reducible assumption |
      with_reducible apply Keeps.redSnapDone)

theorem execRedDump_keeps (first : Fin 1024) (last : Fin 1024) (go : Bool) (s : State) : KeepsH s (execRedDump first last go s) := by
  unfold execRedDump
  repeat' (first | with_reducible apply KeepsH.next | with_reducible exact Keeps.refl s | with_reducible assumption |
      with_reducible apply Keeps.redDump | with_reducible apply Keeps.ite)

theorem execRedDumpDone_keeps (s : State) : KeepsH s (execRedDumpDone s) := by
  unfold execRedDumpDone
  repeat' (first | with_reducible apply KeepsH.next | with_reducible exact Keeps.refl s | with_reducible assumption |
      with_reducible apply Keeps.redDumpDone)

theorem execRedClear_keeps (first : Fin 1024) (last : Fin 1024) (clr : Bool) (s : State) : KeepsH s (execRedClear first last clr s) := by
  unfold execRedClear
  repeat' (first | with_reducible apply KeepsH.next | with_reducible exact Keeps.refl s | with_reducible assumption |
      with_reducible apply Keeps.redClear | with_reducible apply Keeps.ite)

theorem execTdcArm_keeps (p : Fin 512) (s : State) : KeepsH s (execTdcArm p s) := by
  unfold execTdcArm
  repeat' (first | with_reducible apply KeepsH.next | with_reducible exact Keeps.refl s | with_reducible assumption |
      with_reducible apply Keeps.tdcArm)

theorem execTdcCancel_keeps (p : Fin 512) (s : State) : KeepsH s (execTdcCancel p s) := by
  unfold execTdcCancel
  repeat' (first | with_reducible apply KeepsH.next | with_reducible exact Keeps.refl s | with_reducible assumption |
      with_reducible apply Keeps.flag | with_reducible apply Keeps.tdcCancel | with_reducible apply Keeps.ite)

theorem execTdcArmInstant_keeps (p : Fin 512) (s : State) : KeepsH s (execTdcArmInstant p s) := by
  unfold execTdcArmInstant
  repeat' (first | with_reducible apply KeepsH.next | with_reducible exact Keeps.refl s | with_reducible assumption |
      with_reducible apply Keeps.tdcBegin | with_reducible apply Keeps.at_ | with_reducible apply Keeps.ite)

theorem execTdcResult_keeps (p : Fin 512) (s : State) : KeepsH s (execTdcResult p s) := by
  unfold execTdcResult
  repeat' (first | with_reducible apply KeepsH.next | with_reducible exact Keeps.refl s | with_reducible assumption |
      with_reducible apply Keeps.tdcResult)

theorem execTdcTimeout_keeps (p : Fin 512) (s : State) : KeepsH s (execTdcTimeout p s) := by
  unfold execTdcTimeout
  repeat' (first | with_reducible apply KeepsH.next | with_reducible exact Keeps.refl s | with_reducible assumption |
      with_reducible apply Keeps.tdcTimeout)

theorem execTdcRepeatArm_keeps (p : Fin 512) (s : State) : KeepsH s (execTdcRepeatArm p s) := by
  unfold execTdcRepeatArm
  repeat' (first | with_reducible apply KeepsH.next | with_reducible exact Keeps.refl s | with_reducible assumption |
      with_reducible apply Keeps.tdcRepeat)

theorem execBlockDecode_keeps (i : Fin 16) (ecc : Ecc) (s : State) : KeepsH s (execBlockDecode i ecc s) := by
  unfold execBlockDecode
  repeat' (first | with_reducible apply KeepsH.next | with_reducible exact Keeps.refl s | with_reducible assumption |
      with_reducible apply Keeps.blockDecode)

theorem execVec_keeps (i : Fin 16) (s : State) : KeepsH s (execVec i s) := by
  unfold execVec
  repeat' (first | with_reducible apply KeepsH.next | with_reducible exact Keeps.refl s | with_reducible assumption |
      with_reducible apply Keeps.opcodeRow | with_reducible apply Keeps.opCont | with_reducible apply Keeps.ite |
      with_reducible apply KeepsH.ite | with_reducible exact KeepsH.fault | with_reducible refine Keeps.foldl ?_ (fun _ _ _ => ?_) | split |
      with_reducible refine KeepsO.getD ?_ ?_ | with_reducible refine KeepsO.get ?_ (by assumption) |
      with_reducible refine KeepsOP.get1 ?_ (by assumption) | intro _)

theorem execRpt_keeps (i : Fin 16) (s : State) : KeepsH s (execRpt i s) := by
  unfold execRpt
  repeat' (first | with_reducible apply KeepsH.next | with_reducible exact Keeps.refl s | with_reducible assumption |
      with_reducible apply Keeps.opcodeRow | with_reducible apply Keeps.opRpt | with_reducible apply Keeps.ite |
      with_reducible apply KeepsH.ite | with_reducible exact KeepsH.fault | with_reducible refine Keeps.foldl ?_ (fun _ _ _ => ?_) | split |
      with_reducible refine KeepsO.getD ?_ ?_ | with_reducible refine KeepsO.get ?_ (by assumption) |
      with_reducible refine KeepsOP.get1 ?_ (by assumption) | intro _)

theorem execLbeg_keeps (i : Fin 16) (s : State) : KeepsH s (execLbeg i s) := by
  unfold execLbeg
  repeat' (first | with_reducible apply KeepsH.next | with_reducible exact Keeps.refl s | with_reducible assumption |
      with_reducible apply Keeps.opcodeRow | with_reducible apply Keeps.opLbeg | with_reducible apply Keeps.ite |
      with_reducible apply KeepsH.ite | with_reducible exact KeepsH.fault | with_reducible refine Keeps.foldl ?_ (fun _ _ _ => ?_) | split |
      with_reducible refine KeepsO.getD ?_ ?_ | with_reducible refine KeepsO.get ?_ (by assumption) |
      with_reducible refine KeepsOP.get1 ?_ (by assumption) | intro _)

theorem execLend_keeps (i : Fin 16) (s : State) : KeepsH s (execLend i s) := by
  unfold execLend
  repeat' (first | with_reducible apply KeepsH.next | with_reducible exact Keeps.refl s | with_reducible assumption |
      with_reducible apply Keeps.opcodeRow | with_reducible apply Keeps.opLend | with_reducible apply Keeps.ite |
      with_reducible apply KeepsH.ite | with_reducible exact KeepsH.fault | with_reducible refine Keeps.foldl ?_ (fun _ _ _ => ?_) | split |
      with_reducible refine KeepsO.getD ?_ ?_ | with_reducible refine KeepsO.get ?_ (by assumption) |
      with_reducible refine KeepsOP.get1 ?_ (by assumption) | intro _)

theorem execMloop_keeps (i : Fin 16) (s : State) : KeepsH s (execMloop i s) := by
  unfold execMloop
  repeat' (first | with_reducible apply KeepsH.next | with_reducible exact Keeps.refl s | with_reducible assumption |
      with_reducible apply Keeps.opcodeRow | with_reducible apply Keeps.opMloop | with_reducible apply Keeps.ite |
      with_reducible apply KeepsH.ite | with_reducible exact KeepsH.fault | with_reducible refine Keeps.foldl ?_ (fun _ _ _ => ?_) | split |
      with_reducible refine KeepsO.getD ?_ ?_ | with_reducible refine KeepsO.get ?_ (by assumption) |
      with_reducible refine KeepsOP.get1 ?_ (by assumption) | intro _)

theorem execJmp_keeps (i : Fin 16) (s : State) : KeepsH s (execJmp i s) := by
  unfold execJmp
  repeat' (first | with_reducible apply KeepsH.next | with_reducible exact Keeps.refl s | with_reducible assumption |
      with_reducible apply Keeps.opcodeRow | with_reducible apply Keeps.opJmp | with_reducible apply Keeps.ite |
      with_reducible apply KeepsH.ite | with_reducible exact KeepsH.fault | with_reducible refine Keeps.foldl ?_ (fun _ _ _ => ?_) | split |
      with_reducible refine KeepsO.getD ?_ ?_ | with_reducible refine KeepsO.get ?_ (by assumption) |
      with_reducible refine KeepsOP.get1 ?_ (by assumption) | intro _)

theorem execJc_keeps (i : Fin 16) (s : State) : KeepsH s (execJc i s) := by
  unfold execJc
  repeat' (first | with_reducible apply KeepsH.next | with_reducible exact Keeps.refl s | with_reducible assumption |
      with_reducible apply Keeps.opcodeRow | with_reducible apply Keeps.opJc | with_reducible apply Keeps.ite |
      with_reducible apply KeepsH.ite | with_reducible exact KeepsH.fault | with_reducible refine Keeps.foldl ?_ (fun _ _ _ => ?_) | split |
      with_reducible refine KeepsO.getD ?_ ?_ | with_reducible refine KeepsO.get ?_ (by assumption) |
      with_reducible refine KeepsOP.get1 ?_ (by assumption) | intro _)

theorem execCall_keeps (i : Fin 16) (s : State) : KeepsH s (execCall i s) := by
  unfold execCall
  repeat' (first | with_reducible apply KeepsH.next | with_reducible exact Keeps.refl s | with_reducible assumption |
      with_reducible apply Keeps.opcodeRow | with_reducible apply Keeps.opCall | with_reducible apply Keeps.ite |
      with_reducible apply KeepsH.ite | with_reducible exact KeepsH.fault | with_reducible refine Keeps.foldl ?_ (fun _ _ _ => ?_) | split |
      with_reducible refine KeepsO.getD ?_ ?_ | with_reducible refine KeepsO.get ?_ (by assumption) |
      with_reducible refine KeepsOP.get1 ?_ (by assumption) | intro _)

theorem execRet_keeps (i : Fin 16) (s : State) : KeepsH s (execRet i s) := by
  unfold execRet
  repeat' (first | with_reducible apply KeepsH.next | with_reducible exact Keeps.refl s | with_reducible assumption |
      with_reducible apply Keeps.opcodeRow | with_reducible apply Keeps.opRet | with_reducible apply Keeps.ite |
      with_reducible apply KeepsH.ite | with_reducible exact KeepsH.fault | with_reducible refine Keeps.foldl ?_ (fun _ _ _ => ?_) | split |
      with_reducible refine KeepsO.getD ?_ ?_ | with_reducible refine KeepsO.get ?_ (by assumption) |
      with_reducible refine KeepsOP.get1 ?_ (by assumption) | intro _)

theorem execHold_keeps (i : Fin 16) (s : State) : KeepsH s (execHold i s) := by
  unfold execHold
  repeat' (first | with_reducible apply KeepsH.next | with_reducible exact Keeps.refl s | with_reducible assumption |
      with_reducible apply Keeps.opcodeRow | with_reducible apply Keeps.opHold | with_reducible apply Keeps.ite |
      with_reducible apply KeepsH.ite | with_reducible exact KeepsH.fault | with_reducible refine Keeps.foldl ?_ (fun _ _ _ => ?_) | split |
      with_reducible refine KeepsO.getD ?_ ?_ | with_reducible refine KeepsO.get ?_ (by assumption) |
      with_reducible refine KeepsOP.get1 ?_ (by assumption) | intro _)

theorem execHoldCountEnd_keeps (i : Fin 16) (s : State) : KeepsH s (execHoldCountEnd i s) := by
  unfold execHoldCountEnd
  repeat' (first | with_reducible apply KeepsH.next | with_reducible exact Keeps.refl s | with_reducible assumption |
      with_reducible apply Keeps.holdCountEnd)

theorem execNext_keeps (i : Fin 16) (s : State) : KeepsH s (execNext i s) := by
  unfold execNext
  repeat' (first | with_reducible apply KeepsH.next | with_reducible exact Keeps.refl s | with_reducible assumption |
      with_reducible apply Keeps.opcodeRow | with_reducible apply Keeps.opNext | with_reducible apply Keeps.ite |
      with_reducible apply KeepsH.ite | with_reducible exact KeepsH.fault | with_reducible refine Keeps.foldl ?_ (fun _ _ _ => ?_) | split |
      with_reducible refine KeepsO.getD ?_ ?_ | with_reducible refine KeepsO.get ?_ (by assumption) |
      with_reducible refine KeepsOP.get1 ?_ (by assumption) | intro _)

theorem execLvl_keeps (i : Fin 16) (s : State) : KeepsH s (execLvl i s) := by
  unfold execLvl
  repeat' (first | with_reducible apply KeepsH.next | with_reducible exact Keeps.refl s | with_reducible assumption |
      with_reducible apply Keeps.opcodeRow | with_reducible apply Keeps.opLvl | with_reducible apply Keeps.ite |
      with_reducible apply KeepsH.ite | with_reducible exact KeepsH.fault | with_reducible refine Keeps.foldl ?_ (fun _ _ _ => ?_) | split |
      with_reducible refine KeepsO.getD ?_ ?_ | with_reducible refine KeepsO.get ?_ (by assumption) |
      with_reducible refine KeepsOP.get1 ?_ (by assumption) | intro _)

theorem execRetime_keeps (i : Fin 16) (s : State) : KeepsH s (execRetime i s) := by
  unfold execRetime
  repeat' (first | with_reducible apply KeepsH.next | with_reducible exact Keeps.refl s | with_reducible assumption |
      with_reducible apply Keeps.opcodeRow | with_reducible apply Keeps.opRetime | with_reducible apply Keeps.ite |
      with_reducible apply KeepsH.ite | with_reducible exact KeepsH.fault | with_reducible refine Keeps.foldl ?_ (fun _ _ _ => ?_) | split |
      with_reducible refine KeepsO.getD ?_ ?_ | with_reducible refine KeepsO.get ?_ (by assumption) |
      with_reducible refine KeepsOP.get1 ?_ (by assumption) | intro _)

theorem execFrame_keeps (i : Fin 16) (s : State) : KeepsH s (execFrame i s) := by
  unfold execFrame
  repeat' (first | with_reducible apply KeepsH.next | with_reducible exact Keeps.refl s | with_reducible assumption |
      with_reducible apply Keeps.opcodeRow | with_reducible apply Keeps.opFrame | with_reducible apply Keeps.ite |
      with_reducible apply KeepsH.ite | with_reducible exact KeepsH.fault | with_reducible refine Keeps.foldl ?_ (fun _ _ _ => ?_) | split |
      with_reducible refine KeepsO.getD ?_ ?_ | with_reducible refine KeepsO.get ?_ (by assumption) |
      with_reducible refine KeepsOP.get1 ?_ (by assumption) | intro _)

theorem execMark_keeps (i : Fin 16) (s : State) : KeepsH s (execMark i s) := by
  unfold execMark
  repeat' (first | with_reducible apply KeepsH.next | with_reducible exact Keeps.refl s | with_reducible assumption |
      with_reducible apply Keeps.opcodeRow | with_reducible apply Keeps.opCont | with_reducible apply Keeps.ite |
      with_reducible apply KeepsH.ite | with_reducible exact KeepsH.fault | with_reducible refine Keeps.foldl ?_ (fun _ _ _ => ?_) | split |
      with_reducible refine KeepsO.getD ?_ ?_ | with_reducible refine KeepsO.get ?_ (by assumption) |
      with_reducible refine KeepsOP.get1 ?_ (by assumption) | intro _)

theorem execSync_keeps (i : Fin 16) (s : State) : KeepsH s (execSync i s) := by
  unfold execSync
  repeat' (first | with_reducible apply KeepsH.next | with_reducible exact Keeps.refl s | with_reducible assumption |
      with_reducible apply Keeps.opcodeRow | with_reducible apply Keeps.opSync | with_reducible apply Keeps.ite |
      with_reducible apply KeepsH.ite | with_reducible exact KeepsH.fault | with_reducible refine Keeps.foldl ?_ (fun _ _ _ => ?_) | split |
      with_reducible refine KeepsO.getD ?_ ?_ | with_reducible refine KeepsO.get ?_ (by assumption) |
      with_reducible refine KeepsOP.get1 ?_ (by assumption) | intro _)

theorem execWaitf_keeps (i : Fin 16) (s : State) : KeepsH s (execWaitf i s) := by
  unfold execWaitf
  repeat' (first | with_reducible apply KeepsH.next | with_reducible exact Keeps.refl s | with_reducible assumption |
      with_reducible apply Keeps.opcodeRow | with_reducible apply Keeps.opWaitf | with_reducible apply Keeps.ite |
      with_reducible apply KeepsH.ite | with_reducible exact KeepsH.fault | with_reducible refine Keeps.foldl ?_ (fun _ _ _ => ?_) | split |
      with_reducible refine KeepsO.getD ?_ ?_ | with_reducible refine KeepsO.get ?_ (by assumption) |
      with_reducible refine KeepsOP.get1 ?_ (by assumption) | intro _)

theorem execXact_keeps (i : Fin 16) (s : State) : KeepsH s (execXact i s) := by
  unfold execXact
  repeat' (first | with_reducible apply KeepsH.next | with_reducible exact Keeps.refl s | with_reducible assumption |
      with_reducible apply Keeps.opcodeRow | with_reducible apply Keeps.opXact | with_reducible apply Keeps.ite |
      with_reducible apply KeepsH.ite | with_reducible exact KeepsH.fault | with_reducible refine Keeps.foldl ?_ (fun _ _ _ => ?_) | split |
      with_reducible refine KeepsO.getD ?_ ?_ | with_reducible refine KeepsO.get ?_ (by assumption) |
      with_reducible refine KeepsOP.get1 ?_ (by assumption) | intro _)

theorem execStop_keeps (i : Fin 16) (s : State) : KeepsH s (execStop i s) := by
  unfold execStop
  repeat' (first | with_reducible apply KeepsH.next | with_reducible exact Keeps.refl s | with_reducible assumption |
      with_reducible apply Keeps.opcodeRow | with_reducible apply Keeps.seqDone | with_reducible apply Keeps.ite |
      with_reducible apply KeepsH.ite | with_reducible exact KeepsH.fault | with_reducible refine Keeps.foldl ?_ (fun _ _ _ => ?_) | split |
      with_reducible refine KeepsO.getD ?_ ?_ | with_reducible refine KeepsO.get ?_ (by assumption) |
      with_reducible refine KeepsOP.get1 ?_ (by assumption) | intro _)

theorem execHalt_keeps (i : Fin 16) (s : State) : KeepsH s (execHalt i s) := by
  unfold execHalt
  repeat' (first | with_reducible apply KeepsH.next | with_reducible exact Keeps.refl s | with_reducible assumption |
      with_reducible apply Keeps.opcodeRow | with_reducible apply Keeps.seqDone | with_reducible apply Keeps.ite |
      with_reducible apply KeepsH.ite | with_reducible exact KeepsH.fault | with_reducible refine Keeps.foldl ?_ (fun _ _ _ => ?_) | split |
      with_reducible refine KeepsO.getD ?_ ?_ | with_reducible refine KeepsO.get ?_ (by assumption) |
      with_reducible refine KeepsOP.get1 ?_ (by assumption) | intro _)

theorem execVectorIssue_keeps (i : Fin 16) (ecc : Ecc) (s : State) : KeepsH s (execVectorIssue i ecc s) := by
  unfold execVectorIssue
  repeat' (first | with_reducible apply KeepsH.next | with_reducible exact Keeps.refl s | with_reducible assumption |
      with_reducible apply Keeps.xeIssue | with_reducible apply Keeps.seqIssue | with_reducible apply Keeps.ite)

theorem execVectorCycle_keeps (i : Fin 16) (s : State) : KeepsH s (execVectorCycle i s) := by
  unfold execVectorCycle
  repeat' (first | with_reducible apply KeepsH.next | with_reducible exact Keeps.refl s | with_reducible assumption |
      with_reducible apply Keeps.vectorCycle)

theorem execDriveEdge_keeps (p : Fin 512) (s : State) : KeepsH s (execDriveEdge p s) := by
  unfold execDriveEdge
  repeat' (first | with_reducible apply KeepsH.next | with_reducible exact Keeps.refl s | with_reducible assumption |
      with_reducible apply Keeps.driveEdge)

theorem execStrobeSample_keeps (p : Fin 512) (s : State) : KeepsH s (execStrobeSample p s) := by
  unfold execStrobeSample
  repeat' (first | with_reducible apply KeepsH.next | with_reducible exact Keeps.refl s | with_reducible assumption |
      with_reducible apply Keeps.strobeSample)

theorem execClockToggle_keeps (p : Fin 512) (s : State) : KeepsH s (execClockToggle p s) := by
  unfold execClockToggle
  repeat' (first | with_reducible apply KeepsH.next | with_reducible exact Keeps.refl s | with_reducible assumption |
      with_reducible apply Keeps.toggleGo)

theorem execResultReturn_keeps (i : Fin 16) (parity : Bool) (s : State) : KeepsH s (execResultReturn i parity s) := by
  unfold execResultReturn
  repeat' (first | with_reducible apply KeepsH.next | with_reducible exact Keeps.refl s | with_reducible assumption |
      with_reducible apply Keeps.resultReturn)

theorem execDecisionResolve_keeps (i : Fin 16) (s : State) : KeepsH s (execDecisionResolve i s) := by
  unfold execDecisionResolve
  repeat' (first | with_reducible apply KeepsH.next | with_reducible exact Keeps.refl s | with_reducible assumption |
      with_reducible apply Keeps.decisionResolve)

theorem execFailLogWrite_keeps (i : Fin 16) (s : State) : KeepsH s (execFailLogWrite i s) := by
  unfold execFailLogWrite
  repeat' (first | with_reducible apply KeepsH.next | with_reducible exact Keeps.refl s | with_reducible assumption |
      with_reducible apply Keeps.settle | with_reducible apply Keeps.flogWrite)

theorem execIdleApply_keeps (i : Fin 16) (p : Fin 512) (s : State) : KeepsH s (execIdleApply i p s) := by
  unfold execIdleApply
  repeat' (first | with_reducible apply KeepsH.next | with_reducible exact Keeps.refl s | with_reducible assumption |
      with_reducible apply Keeps.idleApply)

theorem execSeqResume_keeps (i : Fin 16) (s : State) : KeepsH s (execSeqResume i s) := by
  unfold execSeqResume
  repeat' (first | with_reducible apply KeepsH.next | with_reducible exact Keeps.refl s | with_reducible assumption |
      with_reducible apply Keeps.seqResume)

theorem execPinIdleWrite_keeps (o : Origin) (p : Fin 512) (v : Word) (s : State) : KeepsH s (execPinIdleWrite o p v s) := by
  unfold execPinIdleWrite
  repeat' (first | with_reducible apply KeepsH.next | with_reducible exact Keeps.refl s | with_reducible assumption |
      with_reducible apply Keeps.pinWrite)

theorem execClockCfgWrite_keeps (o : Origin) (p : Fin 512) (phase : Bool) (v : Word) (s : State) : KeepsH s (execClockCfgWrite o p phase v
    s) := by
  unfold execClockCfgWrite
  repeat' (first | with_reducible apply KeepsH.next | with_reducible exact Keeps.refl s | with_reducible assumption |
      with_reducible apply Keeps.pinWrite)

theorem execTimingTableWrite_keeps (o : Origin) (p : Fin 512) (off : Nat) (v : Word) (s : State) : KeepsH s (execTimingTableWrite o p off v
    s) := by
  unfold execTimingTableWrite
  repeat' (first | with_reducible apply KeepsH.next | with_reducible exact Keeps.refl s | with_reducible assumption |
      with_reducible apply Keeps.pinWrite | with_reducible apply Keeps.ite)

theorem execLevelSample_keeps (volts : List (Fin 512 × Int)) (amps : List (Fin 512 × Nat)) (s : State) : KeepsH s (execLevelSample volts
    amps s) := by
  unfold execLevelSample
  repeat' (first | with_reducible apply KeepsH.next | with_reducible exact Keeps.refl s | with_reducible assumption |
      with_reducible apply Keeps.levelSample)

theorem execLevelApplyCmd_keeps (o : Origin) (p : Fin 512) (v : Word) (s : State) : KeepsH s (execLevelApplyCmd o p v s) := by
  unfold execLevelApplyCmd
  repeat' (first | with_reducible apply KeepsH.next | with_reducible exact Keeps.refl s | with_reducible assumption |
      with_reducible apply Keeps.pinWrite)

theorem execClampWrite_keeps (o : Origin) (p : Fin 512) (v : Word) (s : State) : KeepsH s (execClampWrite o p v s) := by
  unfold execClampWrite
  repeat' (first | with_reducible apply KeepsH.next | with_reducible exact Keeps.refl s | with_reducible assumption |
      with_reducible apply Keeps.pinWrite)

theorem execTripRearm_keeps (o : Origin) (p : Fin 512) (s : State) : KeepsH s (execTripRearm o p s) := by
  unfold execTripRearm
  repeat' (first | with_reducible apply KeepsH.next | with_reducible exact Keeps.refl s | with_reducible assumption |
      with_reducible apply Keeps.pinWrite)

theorem execTwilightLevelCheck_keeps (dev : List (Fin 512 × Fin 7)) (s : State) : KeepsH s (execTwilightLevelCheck dev s) := by
  unfold execTwilightLevelCheck
  repeat' (first | with_reducible apply KeepsH.next | with_reducible exact Keeps.refl s | with_reducible assumption |
      with_reducible apply Keeps.excursion | with_reducible apply Keeps.ite | with_reducible apply KeepsH.ite |
      with_reducible exact KeepsH.fault | with_reducible refine Keeps.foldl ?_ (fun _ _ _ => ?_))

theorem execGroupMapWrite_keeps (o : Origin) (a : Nat) (v : Word) (s : State) : KeepsH s (execGroupMapWrite o a v s) := by
  unfold execGroupMapWrite
  repeat' (first | with_reducible apply KeepsH.next | with_reducible exact Keeps.refl s | with_reducible assumption |
      with_reducible apply Keeps.groupMapWrite)

theorem execRefMissingEdge_keeps (n : Fin 2) (s : State) : KeepsH s (execRefMissingEdge n s) := by
  unfold execRefMissingEdge
  repeat' (first | with_reducible apply KeepsH.next | with_reducible exact Keeps.refl s | with_reducible assumption |
      with_reducible apply Keeps.refLost)

theorem execFreqWindowCheck_keeps (a : Option Int) (b : Option Int) (s : State) : KeepsH s (execFreqWindowCheck a b s) := by
  unfold execFreqWindowCheck
  repeat' (first | with_reducible apply KeepsH.next | with_reducible exact Keeps.refl s | with_reducible assumption |
      with_reducible apply Keeps.disagree | with_reducible apply Keeps.refMeasure)

theorem execRefQualifyTimer_keeps (n : Fin 2) (s : State) : KeepsH s (execRefQualifyTimer n s) := by
  unfold execRefQualifyTimer
  repeat' (first | with_reducible apply KeepsH.next | with_reducible exact Keeps.refl s | with_reducible assumption |
      with_reducible apply Keeps.refQualify)

theorem execHoldoverSwitch_keeps (s : State) : KeepsH s (execHoldoverSwitch s) := by
  unfold execHoldoverSwitch
  repeat' (first | with_reducible apply KeepsH.next | with_reducible exact Keeps.refl s | with_reducible assumption |
      with_reducible apply Keeps.holdoverTry | with_reducible apply Keeps.at_ | with_reducible apply Keeps.ite |
      with_reducible apply KeepsH.ite | with_reducible exact KeepsH.fault | with_reducible refine Keeps.foldl ?_ (fun _ _ _ => ?_) | split)

theorem execRefCfgWrite_keeps (o : Origin) (v : Word) (s : State) : KeepsH s (execRefCfgWrite o v s) := by
  unfold execRefCfgWrite
  repeat' (first | with_reducible apply KeepsH.next | with_reducible exact Keeps.refl s | with_reducible assumption |
      with_reducible apply Keeps.refCfgWrite)

theorem execRefCfgDeferredApply_keeps (s : State) : KeepsH s (execRefCfgDeferredApply s) := by
  unfold execRefCfgDeferredApply
  repeat' (first | with_reducible apply KeepsH.next | with_reducible exact Keeps.refl s | with_reducible assumption |
      with_reducible apply Keeps.refCfgDeferred)

theorem execMeridianLoRead_keeps (o : Origin) (s : State) : KeepsH s (execMeridianLoRead o s) := by
  unfold execMeridianLoRead
  repeat' (first | with_reducible apply KeepsH.next | with_reducible exact Keeps.refl s | with_reducible assumption |
      with_reducible apply Keeps.meridianRead | with_reducible apply Keeps.emit)

theorem execArmEstablish_keeps (s : State) : KeepsH s (execArmEstablish s) := by
  unfold execArmEstablish
  repeat' (first | with_reducible apply KeepsH.next | with_reducible exact Keeps.refl s | with_reducible assumption |
      with_reducible apply Keeps.epochCmd)

theorem execSoftEpoch_keeps (s : State) : KeepsH s (execSoftEpoch s) := by
  unfold execSoftEpoch
  repeat' (first | with_reducible apply KeepsH.next | with_reducible exact Keeps.refl s | with_reducible assumption |
      with_reducible apply Keeps.epochCmd)

theorem execEpochInGlitch_keeps (s : State) : KeepsH s (execEpochInGlitch s) := by
  unfold execEpochInGlitch
  repeat' (first | with_reducible apply KeepsH.next | with_reducible exact Keeps.refl s | with_reducible assumption |
      with_reducible apply Keeps.flag | with_reducible apply Keeps.ite)

theorem execEpochAct_keeps (s : State) : KeepsH s (execEpochAct s) := by
  unfold execEpochAct
  repeat' (first | with_reducible apply KeepsH.next | with_reducible exact Keeps.refl s | with_reducible assumption |
      with_reducible apply Keeps.epochAct | with_reducible apply Keeps.ite | with_reducible apply KeepsH.ite |
      with_reducible exact KeepsH.fault | with_reducible refine Keeps.foldl ?_ (fun _ _ _ => ?_) | split)

theorem execEpochNextWrite_keeps (o : Origin) (v : DWord) (s : State) : KeepsH s (execEpochNextWrite o v s) := by
  unfold execEpochNextWrite
  repeat' (first | with_reducible apply KeepsH.next | with_reducible exact Keeps.refl s | with_reducible assumption |
      with_reducible apply Keeps.epochNextWrite)

theorem execEpochTimeout_keeps (s : State) : KeepsH s (execEpochTimeout s) := by
  unfold execEpochTimeout
  repeat' (first | with_reducible apply KeepsH.next | with_reducible exact Keeps.refl s | with_reducible assumption |
      with_reducible apply Keeps.epochTimeout)

theorem execFsyncEdge_keeps (n : Fin 4) (rising : Bool) (s : State) : KeepsH s (execFsyncEdge n rising s) := by
  unfold execFsyncEdge
  repeat' (first | with_reducible apply KeepsH.next | with_reducible exact Keeps.refl s | with_reducible assumption |
      with_reducible apply Keeps.fsyncEdge)

theorem execFsyncLate_keeps (i : Fin 16) (s : State) : KeepsH s (execFsyncLate i s) := by
  unfold execFsyncLate
  repeat' (first | with_reducible apply KeepsH.next | with_reducible exact Keeps.refl s | with_reducible assumption |
      with_reducible apply Keeps.fsyncLate)

theorem execGridWrite_keeps (o : Origin) (off : Nat) (v : Word) (s : State) : KeepsH s (execGridWrite o off v s) := by
  unfold execGridWrite
  repeat' (first | with_reducible apply KeepsH.next | with_reducible exact Keeps.refl s | with_reducible assumption |
      with_reducible apply Keeps.gridWrite)

theorem execDrainComplete_keeps (i : Fin 16) (s : State) : KeepsH s (execDrainComplete i s) := by
  unfold execDrainComplete
  repeat' (first | with_reducible apply KeepsH.next | with_reducible exact Keeps.refl s | with_reducible assumption |
      with_reducible apply Keeps.drainComplete)

theorem execSeqStart_keeps (o : Origin) (i : Fin 16) (s : State) : KeepsH s (execSeqStart o i s) := by
  unfold execSeqStart
  repeat' (first | with_reducible apply KeepsH.next | with_reducible exact Keeps.refl s | with_reducible assumption |
      with_reducible apply Keeps.seqStart)

theorem execSiteArmed_keeps (i : Fin 16) (s : State) : KeepsH s (execSiteArmed i s) := by
  unfold execSiteArmed
  repeat' (first | with_reducible apply KeepsH.next | with_reducible exact Keeps.refl s | with_reducible assumption |
      with_reducible apply Keeps.siteArmed)

theorem execSeqAbort_keeps (i : Fin 16) (s : State) : KeepsH s (execSeqAbort i s) := by
  unfold execSeqAbort
  repeat' (first | with_reducible apply KeepsH.next | with_reducible exact Keeps.refl s | with_reducible assumption |
      with_reducible apply Keeps.seqAbort)

theorem execListBurstRun_keeps (o : Origin) (i : Fin 16) (l : Fin 65536) (s : State) : KeepsH s (execListBurstRun o i l s) := by
  unfold execListBurstRun
  repeat' (first | with_reducible apply KeepsH.next | with_reducible exact Keeps.refl s | with_reducible assumption |
      with_reducible apply Keeps.listRun)

theorem execSiteLevelWrite_keeps (o : Origin) (v : Word) (s : State) : KeepsH s (execSiteLevelWrite o v s) := by
  unfold execSiteLevelWrite
  repeat' (first | with_reducible apply KeepsH.next | with_reducible exact Keeps.refl s | with_reducible assumption |
      with_reducible apply Keeps.levelWrite)

theorem execFlowRun_keeps (i : Fin 16) (s : State) : KeepsH s (execFlowRun i s) := by
  unfold execFlowRun
  repeat' (first | with_reducible apply KeepsH.next | with_reducible exact Keeps.refl s | with_reducible assumption |
      with_reducible apply Keeps.flowRun)

theorem execFlowStopCmd_keeps (i : Fin 16) (abort : Bool) (s : State) : KeepsH s (execFlowStopCmd i abort s) := by
  unfold execFlowStopCmd
  repeat' (first | with_reducible apply KeepsH.next | with_reducible exact Keeps.refl s | with_reducible assumption |
      with_reducible apply Keeps.flowStopCmd)

theorem execClrBins_keeps (i : Fin 16) (s : State) : KeepsH s (execClrBins i s) := by
  unfold execClrBins
  repeat' (first | with_reducible apply KeepsH.next | with_reducible exact Keeps.refl s | with_reducible assumption |
      with_reducible apply Keeps.clrBins)

theorem execDlogFlush_keeps (i : Fin 16) (s : State) : KeepsH s (execDlogFlush i s) := by
  unfold execDlogFlush
  repeat' (first | with_reducible apply KeepsH.next | with_reducible exact Keeps.refl s | with_reducible assumption |
      with_reducible apply Keeps.dlogFlush)

theorem execFlowEnd_keeps (i : Fin 16) (s : State) : KeepsH s (execFlowEnd i s) := by
  unfold execFlowEnd
  repeat' (first | with_reducible apply KeepsH.next | with_reducible exact Keeps.refl s | with_reducible assumption |
      with_reducible apply Keeps.flowStep | with_reducible apply Keeps.stepEnd | with_reducible apply Keeps.ite |
      with_reducible apply KeepsH.ite | with_reducible exact KeepsH.fault | with_reducible refine Keeps.foldl ?_ (fun _ _ _ => ?_) | split |
      with_reducible refine KeepsO.getD ?_ ?_ | with_reducible refine KeepsO.get ?_ (by assumption) |
      with_reducible refine KeepsOP.get1 ?_ (by assumption) | intro _)

theorem execFlowBurst_keeps (i : Fin 16) (s : State) : KeepsH s (execFlowBurst i s) := by
  unfold execFlowBurst
  repeat' (first | with_reducible apply KeepsH.next | with_reducible exact Keeps.refl s | with_reducible assumption |
      with_reducible apply Keeps.flowStep | with_reducible apply Keeps.stepBurst | with_reducible apply Keeps.ite |
      with_reducible apply KeepsH.ite | with_reducible exact KeepsH.fault | with_reducible refine Keeps.foldl ?_ (fun _ _ _ => ?_) | split |
      with_reducible refine KeepsO.getD ?_ ?_ | with_reducible refine KeepsO.get ?_ (by assumption) |
      with_reducible refine KeepsOP.get1 ?_ (by assumption) | intro _)

theorem execFlowXlist_keeps (i : Fin 16) (s : State) : KeepsH s (execFlowXlist i s) := by
  unfold execFlowXlist
  repeat' (first | with_reducible apply KeepsH.next | with_reducible exact Keeps.refl s | with_reducible assumption |
      with_reducible apply Keeps.flowStep | with_reducible apply Keeps.stepBurst | with_reducible apply Keeps.ite |
      with_reducible apply KeepsH.ite | with_reducible exact KeepsH.fault | with_reducible refine Keeps.foldl ?_ (fun _ _ _ => ?_) | split |
      with_reducible refine KeepsO.getD ?_ ?_ | with_reducible refine KeepsO.get ?_ (by assumption) |
      with_reducible refine KeepsOP.get1 ?_ (by assumption) | intro _)

theorem execFlowCalc_keeps (i : Fin 16) (s : State) : KeepsH s (execFlowCalc i s) := by
  unfold execFlowCalc
  repeat' (first | with_reducible apply KeepsH.next | with_reducible exact Keeps.refl s | with_reducible assumption |
      with_reducible apply Keeps.flowStep | with_reducible apply Keeps.stepCalc | with_reducible apply Keeps.ite |
      with_reducible apply KeepsH.ite | with_reducible exact KeepsH.fault | with_reducible refine Keeps.foldl ?_ (fun _ _ _ => ?_) | split |
      with_reducible refine KeepsO.getD ?_ ?_ | with_reducible refine KeepsO.get ?_ (by assumption) |
      with_reducible refine KeepsOP.get1 ?_ (by assumption) | intro _)

theorem execFlowLimit_keeps (i : Fin 16) (s : State) : KeepsH s (execFlowLimit i s) := by
  unfold execFlowLimit
  repeat' (first | with_reducible apply KeepsH.next | with_reducible exact Keeps.refl s | with_reducible assumption |
      with_reducible apply Keeps.flowStep | with_reducible apply Keeps.stepLimit | with_reducible apply Keeps.ite |
      with_reducible apply KeepsH.ite | with_reducible exact KeepsH.fault | with_reducible refine Keeps.foldl ?_ (fun _ _ _ => ?_) | split |
      with_reducible refine KeepsO.getD ?_ ?_ | with_reducible refine KeepsO.get ?_ (by assumption) |
      with_reducible refine KeepsOP.get1 ?_ (by assumption) | intro _)

theorem execFlowBin_keeps (i : Fin 16) (s : State) : KeepsH s (execFlowBin i s) := by
  unfold execFlowBin
  repeat' (first | with_reducible apply KeepsH.next | with_reducible exact Keeps.refl s | with_reducible assumption |
      with_reducible apply Keeps.flowStep | with_reducible apply Keeps.stepBin | with_reducible apply Keeps.ite |
      with_reducible apply KeepsH.ite | with_reducible exact KeepsH.fault | with_reducible refine Keeps.foldl ?_ (fun _ _ _ => ?_) | split |
      with_reducible refine KeepsO.getD ?_ ?_ | with_reducible refine KeepsO.get ?_ (by assumption) |
      with_reducible refine KeepsOP.get1 ?_ (by assumption) | intro _)

theorem execFlowJump_keeps (i : Fin 16) (s : State) : KeepsH s (execFlowJump i s) := by
  unfold execFlowJump
  repeat' (first | with_reducible apply KeepsH.next | with_reducible exact Keeps.refl s | with_reducible assumption |
      with_reducible apply Keeps.flowStep | with_reducible apply Keeps.stepJump | with_reducible apply Keeps.ite |
      with_reducible apply KeepsH.ite | with_reducible exact KeepsH.fault | with_reducible refine Keeps.foldl ?_ (fun _ _ _ => ?_) | split |
      with_reducible refine KeepsO.getD ?_ ?_ | with_reducible refine KeepsO.get ?_ (by assumption) |
      with_reducible refine KeepsOP.get1 ?_ (by assumption) | intro _)

theorem execFlowWait_keeps (i : Fin 16) (s : State) : KeepsH s (execFlowWait i s) := by
  unfold execFlowWait
  repeat' (first | with_reducible apply KeepsH.next | with_reducible exact Keeps.refl s | with_reducible assumption |
      with_reducible apply Keeps.flowStep | with_reducible apply Keeps.stepWaitFor | with_reducible apply Keeps.ite |
      with_reducible apply KeepsH.ite | with_reducible exact KeepsH.fault | with_reducible refine Keeps.foldl ?_ (fun _ _ _ => ?_) | split |
      with_reducible refine KeepsO.getD ?_ ?_ | with_reducible refine KeepsO.get ?_ (by assumption) |
      with_reducible refine KeepsOP.get1 ?_ (by assumption) | intro _)

theorem execFlowWaitDone_keeps (i : Fin 16) (s : State) : KeepsH s (execFlowWaitDone i s) := by
  unfold execFlowWaitDone
  repeat' (first | with_reducible apply KeepsH.next | with_reducible exact Keeps.refl s | with_reducible assumption |
      with_reducible apply Keeps.flowWaitDone)

theorem execFlowLog_keeps (i : Fin 16) (s : State) : KeepsH s (execFlowLog i s) := by
  unfold execFlowLog
  repeat' (first | with_reducible apply KeepsH.next | with_reducible exact Keeps.refl s | with_reducible assumption |
      with_reducible apply Keeps.flowStep | with_reducible apply Keeps.stepLog | with_reducible apply Keeps.ite |
      with_reducible apply KeepsH.ite | with_reducible exact KeepsH.fault | with_reducible refine Keeps.foldl ?_ (fun _ _ _ => ?_) | split |
      with_reducible refine KeepsO.getD ?_ ?_ | with_reducible refine KeepsO.get ?_ (by assumption) |
      with_reducible refine KeepsOP.get1 ?_ (by assumption) | intro _)

theorem execFlowHret_keeps (i : Fin 16) (s : State) : KeepsH s (execFlowHret i s) := by
  unfold execFlowHret
  repeat' (first | with_reducible apply KeepsH.next | with_reducible exact Keeps.refl s | with_reducible assumption |
      with_reducible apply Keeps.flowStep | with_reducible apply Keeps.stepHret | with_reducible apply Keeps.ite |
      with_reducible apply KeepsH.ite | with_reducible exact KeepsH.fault | with_reducible refine Keeps.foldl ?_ (fun _ _ _ => ?_) | split |
      with_reducible refine KeepsO.getD ?_ ?_ | with_reducible refine KeepsO.get ?_ (by assumption) |
      with_reducible refine KeepsOP.get1 ?_ (by assumption) | intro _)

theorem execHandlerStart_keeps (i : Fin 16) (s : State) : KeepsH s (execHandlerStart i s) := by
  unfold execHandlerStart
  repeat' (first | with_reducible apply KeepsH.next | with_reducible exact Keeps.refl s | with_reducible assumption |
      with_reducible apply Keeps.handlerStart)

theorem execBatchSigned_keeps (s : State) : KeepsH s (execBatchSigned s) := by
  unfold execBatchSigned
  repeat' (first | with_reducible apply KeepsH.next | with_reducible exact Keeps.refl s | with_reducible assumption |
      with_reducible apply Keeps.batchSigned)

theorem execDlogTailWrite_keeps (o : Origin) (i : Fin 16) (v : Word) (s : State) : KeepsH s (execDlogTailWrite o i v s) := by
  unfold execDlogTailWrite
  repeat' (first | with_reducible apply KeepsH.next | with_reducible exact Keeps.refl s | with_reducible assumption |
      with_reducible apply Keeps.dlogTailWrite)

theorem execDlogRingWrite_keeps (o : Origin) (i : Fin 16) (k : Fin 3) (v : Word) (s : State) : KeepsH s (execDlogRingWrite o i k v s) := by
  unfold execDlogRingWrite
  repeat' (first | with_reducible apply KeepsH.next | with_reducible exact Keeps.refl s | with_reducible assumption |
      with_reducible apply Keeps.dlogRingSet)

theorem execGrantInterval_keeps (s : State) : KeepsH s (execGrantInterval s) := by
  unfold execGrantInterval
  repeat' (first | with_reducible apply KeepsH.next | with_reducible exact Keeps.refl s | with_reducible assumption |
      with_reducible apply Keeps.grantInterval)

theorem execDramPick_keeps (ch : Fin 16) (s : State) : KeepsH s (execDramPick ch s) := by
  unfold execDramPick
  repeat' (first | with_reducible apply KeepsH.next | with_reducible exact Keeps.refl s | with_reducible assumption |
      with_reducible apply Keeps.dramPick)

theorem execDramRefresh_keeps (s : State) : KeepsH s (execDramRefresh s) := by
  unfold execDramRefresh
  repeat' (first | with_reducible apply KeepsH.next | with_reducible exact Keeps.refl s | with_reducible assumption |
      with_reducible apply Keeps.dramRefresh)

theorem execDramScrub_keeps (e : Ecc) (s : State) : KeepsH s (execDramScrub e s) := by
  unfold execDramScrub
  repeat' (first | with_reducible apply KeepsH.next | with_reducible exact Keeps.refl s | with_reducible assumption |
      with_reducible apply Keeps.dramScrub)

theorem execDramTempRead_keeps (need : List (Fin 16)) (hot : List (Fin 16)) (s : State) : KeepsH s (execDramTempRead need hot s) := by
  unfold execDramTempRead
  repeat' (first | with_reducible apply KeepsH.next | with_reducible exact Keeps.refl s | with_reducible assumption |
      with_reducible apply Keeps.dramTemp)

theorem execFspGo_keeps (k : Fin 4) (s : State) : KeepsH s (execFspGo k s) := by
  unfold execFspGo
  repeat' (first | with_reducible apply KeepsH.next | with_reducible exact Keeps.refl s | with_reducible assumption |
      with_reducible apply Keeps.fspGo)

theorem execFspChangeBegin_keeps (s : State) : KeepsH s (execFspChangeBegin s) := by
  unfold execFspChangeBegin
  repeat' (first | with_reducible apply KeepsH.next | with_reducible exact Keeps.refl s | with_reducible assumption |
      with_reducible apply Keeps.fspBegin)

theorem execDramTrainGo_keeps (s : State) : KeepsH s (execDramTrainGo s) := by
  unfold execDramTrainGo
  repeat' (first | with_reducible apply KeepsH.next | with_reducible exact Keeps.refl s | with_reducible assumption |
      with_reducible apply Keeps.trainGo)

theorem execLaneCheck_keeps (eyes : List (Fin 32 × Fin 65536 × Fin 65536 × Fin 65536 × Fin 65536)) (s : State) : KeepsH s (execLaneCheck
    eyes s) := by
  unfold execLaneCheck
  repeat' (first | with_reducible apply KeepsH.next | with_reducible exact Keeps.refl s | with_reducible assumption |
      with_reducible apply Keeps.laneCheck)

theorem execDramPowerRequest_keeps (o : Origin) (v : Word) (s : State) : KeepsH s (execDramPowerRequest o v s) := by
  unfold execDramPowerRequest
  repeat' (first | with_reducible apply KeepsH.next | with_reducible exact Keeps.refl s | with_reducible assumption |
      with_reducible apply Keeps.drcPwrWrite)

theorem execDrcClrCounts_keeps (s : State) : KeepsH s (execDrcClrCounts s) := by
  unfold execDrcClrCounts
  repeat' (first | with_reducible apply KeepsH.next | with_reducible exact Keeps.refl s | with_reducible assumption |
      with_reducible apply Keeps.drcClrCounts)

theorem execStreamRequest_keeps (i : Fin 16) (s : State) : KeepsH s (execStreamRequest i s) := by
  unfold execStreamRequest
  repeat' (first | with_reducible apply KeepsH.next | with_reducible exact Keeps.refl s | with_reducible assumption |
      with_reducible apply Keeps.streamRequest)

theorem execStreamDataArrive_keeps (i : Fin 16) (e : Ecc) (s : State) : KeepsH s (execStreamDataArrive i e s) := by
  unfold execStreamDataArrive
  repeat' (first | with_reducible apply KeepsH.next | with_reducible exact Keeps.refl s | with_reducible assumption |
      with_reducible apply Keeps.streamArrive)

theorem execSegPublish_keeps (i : Fin 16) (id : Fin 65536) (e : Ecc) (s : State) : KeepsH s (execSegPublish i id e s) := by
  unfold execSegPublish
  repeat' (first | with_reducible apply KeepsH.next | with_reducible exact Keeps.refl s | with_reducible assumption |
      with_reducible apply Keeps.publish)

theorem execSegUnpublish_keeps (i : Fin 16) (id : Fin 65536) (s : State) : KeepsH s (execSegUnpublish i id s) := by
  unfold execSegUnpublish
  repeat' (first | with_reducible apply KeepsH.next | with_reducible exact Keeps.refl s | with_reducible assumption |
      with_reducible apply Keeps.segUnpublish)

theorem execSegtabWrite_keeps (o : Origin) (i : Fin 16) (range : Bool) (v : Word) (s : State) : KeepsH s (execSegtabWrite o i range v s) :=
    by
  unfold execSegtabWrite
  repeat' (first | with_reducible apply KeepsH.next | with_reducible exact Keeps.refl s | with_reducible assumption |
      with_reducible apply Keeps.segtabWrite)

theorem execFlagSet_keeps (i : Fin 16) (v : Word) (s : State) : KeepsH s (execFlagSet i v s) := by
  unfold execFlagSet
  repeat' (first | with_reducible apply KeepsH.next | with_reducible exact Keeps.refl s | with_reducible assumption |
      with_reducible apply Keeps.flagSet)

theorem execFlagClear_keeps (i : Fin 16) (v : Word) (s : State) : KeepsH s (execFlagClear i v s) := by
  unfold execFlagClear
  repeat' (first | with_reducible apply KeepsH.next | with_reducible exact Keeps.refl s | with_reducible assumption |
      with_reducible apply Keeps.flagClear)

theorem execResultRingWrite_keeps (o : Origin) (i : Fin 16) (v : Word) (s : State) : KeepsH s (execResultRingWrite o i v s) := by
  unfold execResultRingWrite
  repeat' (first | with_reducible apply KeepsH.next | with_reducible exact Keeps.refl s | with_reducible assumption |
      with_reducible apply Keeps.resultRingWrite)

theorem execResult0Read_keeps (o : Origin) (i : Fin 16) (s : State) : KeepsH s (execResult0Read o i s) := by
  unfold execResult0Read
  repeat' (first | with_reducible apply KeepsH.next | with_reducible exact Keeps.refl s | with_reducible assumption |
      with_reducible apply Keeps.result0Read | with_reducible apply Keeps.emit)

theorem execCrossing_keeps (p : Fin 512) (t : Nat) (x : CrossTo) (s : State) : KeepsH s (execCrossing p t x s) := by
  unfold execCrossing
  repeat' (first | with_reducible apply KeepsH.next | with_reducible exact Keeps.refl s | with_reducible assumption |
      with_reducible apply Keeps.crossing)

theorem execEventCloseTimeout_keeps (p : Fin 512) (s : State) : KeepsH s (execEventCloseTimeout p s) := by
  unfold execEventCloseTimeout
  repeat' (first | with_reducible apply KeepsH.next | with_reducible exact Keeps.refl s | with_reducible assumption |
      with_reducible apply Keeps.eventTimeout)

theorem execStampDone_keeps (p : Fin 512) (s : State) : KeepsH s (execStampDone p s) := by
  unfold execStampDone
  repeat' (first | with_reducible apply KeepsH.next | with_reducible exact Keeps.refl s | with_reducible assumption |
      with_reducible apply Keeps.stampDone)

theorem execTriggerTimeout_keeps (p : Fin 512) (u : Fin 4) (t : Nat) (s : State) : KeepsH s (execTriggerTimeout p u t s) := by
  unfold execTriggerTimeout
  repeat' (first | with_reducible apply KeepsH.next | with_reducible exact Keeps.refl s | with_reducible assumption |
      with_reducible apply Keeps.trigTimeout)

theorem execPortWrite_keeps (o : Origin) (n : Fin 128) (k : Fin 6) (v : Word) (s : State) : KeepsH s (execPortWrite o n k v s) := by
  unfold execPortWrite
  repeat' (first | with_reducible apply KeepsH.next | with_reducible exact Keeps.refl s | with_reducible assumption |
      with_reducible apply Keeps.xePortWrite)

theorem execXactDispatch_keeps (i : Fin 16) (s : State) : KeepsH s (execXactDispatch i s) := by
  unfold execXactDispatch
  repeat' (first | with_reducible apply KeepsH.next | with_reducible exact Keeps.refl s | with_reducible assumption |
      with_reducible apply Keeps.dispatchRow)

theorem execXactEngineVisit_keeps (s : State) : KeepsH s (execXactEngineVisit s) := by
  unfold execXactEngineVisit
  repeat' (first | with_reducible apply KeepsH.next | with_reducible exact Keeps.refl s | with_reducible assumption |
      with_reducible apply Keeps.settle | with_reducible apply Keeps.xeVisit | with_reducible apply Keeps.ite |
      with_reducible apply KeepsH.ite | with_reducible exact KeepsH.fault | with_reducible refine Keeps.foldl ?_ (fun _ _ _ => ?_))

theorem execTplEmit_keeps (n : Fin 128) (s : State) : KeepsH s (execTplEmit n s) := by
  unfold execTplEmit
  repeat' (first | with_reducible apply KeepsH.next | with_reducible exact Keeps.refl s | with_reducible assumption |
      with_reducible apply Keeps.tplRow)

theorem execTplShift_keeps (n : Fin 128) (s : State) : KeepsH s (execTplShift n s) := by
  unfold execTplShift
  repeat' (first | with_reducible apply KeepsH.next | with_reducible exact Keeps.refl s | with_reducible assumption |
      with_reducible apply Keeps.tplRow)

theorem execTplLoop_keeps (n : Fin 128) (s : State) : KeepsH s (execTplLoop n s) := by
  unfold execTplLoop
  repeat' (first | with_reducible apply KeepsH.next | with_reducible exact Keeps.refl s | with_reducible assumption |
      with_reducible apply Keeps.tplRow)

theorem execTplBranch_keeps (n : Fin 128) (s : State) : KeepsH s (execTplBranch n s) := by
  unfold execTplBranch
  repeat' (first | with_reducible apply KeepsH.next | with_reducible exact Keeps.refl s | with_reducible assumption |
      with_reducible apply Keeps.tplRow)

theorem execTplWaithi_keeps (n : Fin 128) (s : State) : KeepsH s (execTplWaithi n s) := by
  unfold execTplWaithi
  repeat' (first | with_reducible apply KeepsH.next | with_reducible exact Keeps.refl s | with_reducible assumption |
      with_reducible apply Keeps.tplRow)

theorem execTplFail_keeps (n : Fin 128) (s : State) : KeepsH s (execTplFail n s) := by
  unfold execTplFail
  repeat' (first | with_reducible apply KeepsH.next | with_reducible exact Keeps.refl s | with_reducible assumption |
      with_reducible apply Keeps.tplRow)

theorem execTplEnd_keeps (n : Fin 128) (s : State) : KeepsH s (execTplEnd n s) := by
  unfold execTplEnd
  repeat' (first | with_reducible apply KeepsH.next | with_reducible exact Keeps.refl s | with_reducible assumption |
      with_reducible apply Keeps.tplRow)

theorem execCaptureBitReturn_keeps (s : State) : KeepsH s (execCaptureBitReturn s) := by
  unfold execCaptureBitReturn
  repeat' (first | with_reducible apply KeepsH.next | with_reducible exact Keeps.refl s | with_reducible assumption |
      with_reducible apply Keeps.captureBit)

theorem execIvlRingWrite_keeps (o : Origin) (k : Fin 3) (v : Word) (s : State) : KeepsH s (execIvlRingWrite o k v s) := by
  unfold execIvlRingWrite
  repeat' (first | with_reducible apply KeepsH.next | with_reducible exact Keeps.refl s | with_reducible assumption |
      with_reducible apply Keeps.ivlRingSet)

theorem execEpoch_keeps (p : Fin 6) (x : Rx) (w1 : DWord) (w2 : DWord) (w3 : DWord) (s : State) : KeepsH s (execEpoch p x w1 w2 w3 s) := by
  unfold execEpoch
  repeat' (first | with_reducible apply KeepsH.next | with_reducible exact Keeps.refl s | with_reducible assumption |
      with_reducible apply Keeps.onFrame | with_reducible apply Keeps.epochFrame | with_reducible apply Keeps.ite |
      with_reducible apply KeepsH.ite | with_reducible exact KeepsH.fault | with_reducible refine Keeps.foldl ?_ (fun _ _ _ => ?_) | split |
      with_reducible refine KeepsO.getD ?_ ?_ | with_reducible refine KeepsO.get ?_ (by assumption) |
      with_reducible refine KeepsOP.get1 ?_ (by assumption) | intro _)

theorem execEvent_keeps (p : Fin 6) (x : Rx) (w1 : DWord) (w2 : DWord) (s : State) : KeepsH s (execEvent p x w1 w2 s) := by
  unfold execEvent
  repeat' (first | with_reducible apply KeepsH.next | with_reducible exact Keeps.refl s | with_reducible assumption |
      with_reducible apply Keeps.onFrame | with_reducible apply Keeps.eventFrame | with_reducible apply Keeps.ite |
      with_reducible apply KeepsH.ite | with_reducible exact KeepsH.fault | with_reducible refine Keeps.foldl ?_ (fun _ _ _ => ?_) | split |
      with_reducible refine KeepsO.getD ?_ ?_ | with_reducible refine KeepsO.get ?_ (by assumption) |
      with_reducible refine KeepsOP.get1 ?_ (by assumption) | intro _)

theorem execEvtState_keeps (p : Fin 6) (x : Rx) (vector : Word) (s : State) : KeepsH s (execEvtState p x vector s) := by
  unfold execEvtState
  repeat' (first | with_reducible apply KeepsH.next | with_reducible exact Keeps.refl s | with_reducible assumption |
      with_reducible apply Keeps.onFrame | with_reducible apply Keeps.evtVector | with_reducible apply Keeps.updIat |
      with_reducible apply Keeps.ite | with_reducible apply KeepsH.ite | with_reducible exact KeepsH.fault |
      with_reducible refine Keeps.foldl ?_ (fun _ _ _ => ?_) | split | with_reducible refine KeepsO.getD ?_ ?_ |
      with_reducible refine KeepsO.get ?_ (by assumption) | with_reducible refine KeepsOP.get1 ?_ (by assumption) | intro _)

theorem execProbe_keeps (p : Fin 6) (x : Rx) (id : BitVec 12) (turn : Word) (s : State) : KeepsH s (execProbe p x id turn s) := by
  unfold execProbe
  repeat' (first | with_reducible apply KeepsH.next | with_reducible exact Keeps.refl s | with_reducible assumption |
      with_reducible apply Keeps.onFrame | with_reducible apply Keeps.sendFrame | with_reducible apply Keeps.ite |
      with_reducible apply KeepsH.ite | with_reducible exact KeepsH.fault | with_reducible refine Keeps.foldl ?_ (fun _ _ _ => ?_) | split |
      with_reducible refine KeepsO.getD ?_ ?_ | with_reducible refine KeepsO.get ?_ (by assumption) |
      with_reducible refine KeepsOP.get1 ?_ (by assumption) | intro _)

theorem execProbeReply_keeps (p : Fin 6) (x : Rx) (id : BitVec 12) (turn : Word) (s : State) : KeepsH s (execProbeReply p x id turn s) := by
  unfold execProbeReply
  repeat' (first | with_reducible apply KeepsH.next | with_reducible exact Keeps.refl s | with_reducible assumption |
      with_reducible apply Keeps.onFrame | with_reducible apply Keeps.probeReply | with_reducible apply Keeps.ite |
      with_reducible apply KeepsH.ite | with_reducible exact KeepsH.fault | with_reducible refine Keeps.foldl ?_ (fun _ _ _ => ?_) | split |
      with_reducible refine KeepsO.getD ?_ ?_ | with_reducible refine KeepsO.get ?_ (by assumption) |
      with_reducible refine KeepsOP.get1 ?_ (by assumption) | intro _)

theorem execNak_keeps (p : Fin 6) (x : Rx) (s : State) : KeepsH s (execNak p x s) := by
  unfold execNak
  repeat' (first | with_reducible apply KeepsH.next | with_reducible exact Keeps.refl s | with_reducible assumption |
      with_reducible apply Keeps.onFrame | with_reducible apply Keeps.linkReplay | with_reducible apply Keeps.ite |
      with_reducible apply KeepsH.ite | with_reducible exact KeepsH.fault | with_reducible refine Keeps.foldl ?_ (fun _ _ _ => ?_) | split |
      with_reducible refine KeepsO.getD ?_ ?_ | with_reducible refine KeepsO.get ?_ (by assumption) |
      with_reducible refine KeepsOP.get1 ?_ (by assumption) | intro _)

theorem execHello_keeps (p : Fin 6) (x : Rx) (w : DWord) (s : State) : KeepsH s (execHello p x w s) := by
  unfold execHello
  repeat' (first | with_reducible apply KeepsH.next | with_reducible exact Keeps.refl s | with_reducible assumption |
      with_reducible apply Keeps.onFrame | with_reducible apply Keeps.helloFrame | with_reducible apply Keeps.ite |
      with_reducible apply KeepsH.ite | with_reducible exact KeepsH.fault | with_reducible refine Keeps.foldl ?_ (fun _ _ _ => ?_) | split |
      with_reducible refine KeepsO.getD ?_ ?_ | with_reducible refine KeepsO.get ?_ (by assumption) |
      with_reducible refine KeepsOP.get1 ?_ (by assumption) | intro _)

theorem execMsgRsp_keeps (p : Fin 6) (x : Rx) (w : DWord) (s : State) : KeepsH s (execMsgRsp p x w s) := by
  unfold execMsgRsp
  repeat' (first | with_reducible apply KeepsH.next | with_reducible exact Keeps.refl s | with_reducible assumption |
      with_reducible apply Keeps.onFrame | with_reducible apply Keeps.route | with_reducible apply Keeps.ite |
      with_reducible apply KeepsH.ite | with_reducible exact KeepsH.fault | with_reducible refine Keeps.foldl ?_ (fun _ _ _ => ?_) | split |
      with_reducible refine KeepsO.getD ?_ ?_ | with_reducible refine KeepsO.get ?_ (by assumption) |
      with_reducible refine KeepsOP.get1 ?_ (by assumption) | intro _)

theorem execIdle_keeps (p : Fin 6) (x : Rx) (s : State) : KeepsH s (execIdle p x s) := by
  exact KeepsH.next (Keeps.onFrame (Keeps.refl s) _ _ _ _ (fun _ hv => hv))

theorem execLinkSilence_keeps (p : Fin 6) (s : State) : KeepsH s (execLinkSilence p s) := by
  unfold execLinkSilence
  repeat' (first | with_reducible apply KeepsH.next | with_reducible exact Keeps.refl s | with_reducible assumption |
      with_reducible apply Keeps.portDown | with_reducible apply Keeps.at_ | with_reducible apply Keeps.ite)

theorem execBlockLockLost_keeps (p : Fin 6) (s : State) : KeepsH s (execBlockLockLost p s) := by
  unfold execBlockLockLost
  repeat' (first | with_reducible apply KeepsH.next | with_reducible exact Keeps.refl s | with_reducible assumption |
      with_reducible apply Keeps.portDown)

theorem execReplayTimeout_keeps (p : Fin 6) (s : State) : KeepsH s (execReplayTimeout p s) := by
  unfold execReplayTimeout
  repeat' (first | with_reducible apply KeepsH.next | with_reducible exact Keeps.refl s | with_reducible assumption |
      with_reducible apply Keeps.replayTimeout)

theorem execLinkUp_keeps (p : Fin 6) (s : State) : KeepsH s (execLinkUp p s) := by
  unfold execLinkUp
  repeat' (first | with_reducible apply KeepsH.next | with_reducible exact Keeps.refl s | with_reducible assumption |
      with_reducible apply Keeps.linkUp)

theorem execLinkQualified_keeps (p : Fin 6) (s : State) : KeepsH s (execLinkQualified p s) := by
  unfold execLinkQualified
  repeat' (first | with_reducible apply KeepsH.next | with_reducible exact Keeps.refl s | with_reducible assumption |
      with_reducible apply Keeps.linkQualified)

theorem execHelloTimer_keeps (s : State) : KeepsH s (execHelloTimer s) := by
  unfold execHelloTimer
  repeat' (first | with_reducible apply KeepsH.next | with_reducible exact Keeps.refl s | with_reducible assumption |
      with_reducible apply Keeps.sendHello | with_reducible apply Keeps.ite | with_reducible apply KeepsH.ite |
      with_reducible exact KeepsH.fault | with_reducible refine Keeps.foldl ?_ (fun _ _ _ => ?_))

theorem execProbeTimer_keeps (s : State) : KeepsH s (execProbeTimer s) := by
  unfold execProbeTimer
  repeat' (first | with_reducible apply KeepsH.next | with_reducible exact Keeps.refl s | with_reducible assumption |
      with_reducible apply Keeps.sendProbes)

theorem execProbeTimeout_keeps (p : Fin 6) (s : State) : KeepsH s (execProbeTimeout p s) := by
  unfold execProbeTimeout
  repeat' (first | with_reducible apply KeepsH.next | with_reducible exact Keeps.refl s | with_reducible assumption |
      with_reducible apply Keeps.dropProbes)

theorem execIdleTimer_keeps (p : Fin 6) (s : State) : KeepsH s (execIdleTimer p s) := by
  unfold execIdleTimer
  repeat' (first | with_reducible apply KeepsH.next | with_reducible exact Keeps.refl s | with_reducible assumption |
      with_reducible apply Keeps.sendFrame | with_reducible apply Keeps.at_ | with_reducible apply Keeps.ite)

theorem execMsgGo_keeps (v : Word) (s : State) : KeepsH s (execMsgGo v s) := by
  unfold execMsgGo
  repeat' (first | with_reducible apply KeepsH.next | with_reducible exact Keeps.refl s | with_reducible assumption |
      with_reducible apply Keeps.msgCmd)

theorem execMsgTimeout_keeps (s : State) : KeepsH s (execMsgTimeout s) := by
  unfold execMsgTimeout
  repeat' (first | with_reducible apply KeepsH.next | with_reducible exact Keeps.refl s | with_reducible assumption |
      with_reducible apply Keeps.msgTimeout)

theorem execRootEpoch_keeps (o : Origin) (tag : BitVec 16) (s : State) : KeepsH s (execRootEpoch o tag s) := by
  unfold execRootEpoch
  repeat' (first | with_reducible apply KeepsH.next | with_reducible exact Keeps.refl s | with_reducible assumption |
      with_reducible apply Keeps.iatCmd)

theorem execCommitNext_keeps (o : Origin) (tag : BitVec 16) (s : State) : KeepsH s (execCommitNext o tag s) := by
  unfold execCommitNext
  repeat' (first | with_reducible apply KeepsH.next | with_reducible exact Keeps.refl s | with_reducible assumption |
      with_reducible apply Keeps.iatCmd)

theorem execEvtSet_keeps (v : Word) (s : State) : KeepsH s (execEvtSet v s) := by
  unfold execEvtSet
  repeat' (first | with_reducible apply KeepsH.next | with_reducible exact Keeps.refl s | with_reducible assumption |
      with_reducible apply Keeps.originEvent | with_reducible apply Keeps.ite)

theorem execEvtClear_keeps (v : Word) (s : State) : KeepsH s (execEvtClear v s) := by
  unfold execEvtClear
  repeat' (first | with_reducible apply KeepsH.next | with_reducible exact Keeps.refl s | with_reducible assumption |
      with_reducible apply Keeps.originEvent | with_reducible apply Keeps.ite)

theorem execEventApply_keeps (s : State) : KeepsH s (execEventApply s) := by
  unfold execEventApply
  repeat' (first | with_reducible apply KeepsH.next | with_reducible exact Keeps.refl s | with_reducible assumption |
      with_reducible apply Keeps.eventApply)

theorem execEpochInQualify_keeps (s : State) : KeepsH s (execEpochInQualify s) := by
  unfold execEpochInQualify
  repeat' (first | with_reducible apply KeepsH.next | with_reducible exact Keeps.refl s | with_reducible assumption |
      with_reducible apply Keeps.epochInQualify)

theorem execCalRun_keeps (o : Origin) (tag : BitVec 16) (s : State) : KeepsH s (execCalRun o tag s) := by
  unfold execCalRun
  repeat' (first | with_reducible apply KeepsH.next | with_reducible exact Keeps.refl s | with_reducible assumption |
      with_reducible apply Keeps.calCmd)

theorem execCalCancel_keeps (o : Origin) (tag : BitVec 16) (s : State) : KeepsH s (execCalCancel o tag s) := by
  unfold execCalCancel
  repeat' (first | with_reducible apply KeepsH.next | with_reducible exact Keeps.refl s | with_reducible assumption |
      with_reducible apply Keeps.calCmd)

theorem execCalCommit_keeps (o : Origin) (tag : BitVec 16) (s : State) : KeepsH s (execCalCommit o tag s) := by
  unfold execCalCommit
  repeat' (first | with_reducible apply KeepsH.next | with_reducible exact Keeps.refl s | with_reducible assumption |
      with_reducible apply Keeps.calCmd)

theorem execCalCommitEpoch_keeps (o : Origin) (tag : BitVec 16) (s : State) : KeepsH s (execCalCommitEpoch o tag s) := by
  unfold execCalCommitEpoch
  repeat' (first | with_reducible apply KeepsH.next | with_reducible exact Keeps.refl s | with_reducible assumption |
      with_reducible apply Keeps.calCmd)

theorem execCalDisarm_keeps (o : Origin) (tag : BitVec 16) (s : State) : KeepsH s (execCalDisarm o tag s) := by
  unfold execCalDisarm
  repeat' (first | with_reducible apply KeepsH.next | with_reducible exact Keeps.refl s | with_reducible assumption |
      with_reducible apply Keeps.calCmd)

theorem execCalCopy_keeps (o : Origin) (tag : BitVec 16) (s : State) : KeepsH s (execCalCopy o tag s) := by
  unfold execCalCopy
  repeat' (first | with_reducible apply KeepsH.next | with_reducible exact Keeps.refl s | with_reducible assumption |
      with_reducible apply Keeps.calCmd)

theorem execCalStepStart_keeps (k : Fin 8) (s : State) : KeepsH s (execCalStepStart k s) := by
  unfold execCalStepStart
  repeat' (first | with_reducible apply KeepsH.next | with_reducible exact Keeps.refl s | with_reducible assumption |
      with_reducible apply Keeps.calStepStart)

theorem execCalStepDone_keeps (k : Fin 8) (m : CalMeasure) (s : State) : KeepsH s (execCalStepDone k m s) := by
  unfold execCalStepDone
  repeat' (first | with_reducible apply KeepsH.next | with_reducible exact Keeps.refl s | with_reducible assumption |
      with_reducible apply Keeps.calStepDone)

theorem execAlmanacSave_keeps (slot0 : List Byte) (slot1 : List Byte) (s : State) : KeepsH s (execAlmanacSave slot0 slot1 s) := by
  unfold execAlmanacSave
  repeat' (first | with_reducible apply KeepsH.next | with_reducible exact Keeps.refl s | with_reducible assumption |
      with_reducible apply Keeps.almSave)

theorem execAlmanacSaveDone_keeps (back : Option (List Byte)) (s : State) : KeepsH s (execAlmanacSaveDone back s) := by
  unfold execAlmanacSaveDone
  repeat' (first | with_reducible apply KeepsH.next | with_reducible exact Keeps.refl s | with_reducible assumption |
      with_reducible apply Keeps.almSaved)

theorem execScrubRead_keeps (e : Ecc) (s : State) : KeepsH s (execScrubRead e s) := by
  unfold execScrubRead
  repeat' (first | with_reducible apply KeepsH.next | with_reducible exact Keeps.refl s | with_reducible assumption |
      with_reducible apply Keeps.scrubRead)

theorem execBankPowerRequest_keeps (o : Origin) (n : Fin 4) (v : Word) (s : State) : KeepsH s (execBankPowerRequest o n v s) := by
  unfold execBankPowerRequest
  repeat' (first | with_reducible apply KeepsH.next | with_reducible exact Keeps.refl s | with_reducible assumption |
      with_reducible apply Keeps.bankCtrlWrite)

theorem execBankPowerChange_keeps (b : Fin 64) (s : State) : KeepsH s (execBankPowerChange b s) := by
  unfold execBankPowerChange
  repeat' (first | with_reducible apply KeepsH.next | with_reducible exact Keeps.refl s | with_reducible assumption |
      with_reducible apply Keeps.bankChange)

theorem execSecureWiped_keeps (s : State) : KeepsH s (execSecureWiped s) := by
  unfold execSecureWiped
  repeat' (first | with_reducible apply KeepsH.next | with_reducible exact Keeps.refl s | with_reducible assumption |
      with_reducible apply Keeps.secureWiped)

theorem execBistBankStart_keeps (s : State) : KeepsH s (execBistBankStart s) := by
  unfold execBistBankStart
  repeat' (first | with_reducible apply KeepsH.next | with_reducible exact Keeps.refl s | with_reducible assumption |
      with_reducible apply Keeps.bistStart)

theorem execBistCopyDone_keeps (b : Fin 64) (s : State) : KeepsH s (execBistCopyDone b s) := by
  unfold execBistCopyDone
  repeat' (first | with_reducible apply KeepsH.next | with_reducible exact Keeps.refl s | with_reducible assumption |
      with_reducible apply Keeps.copyDone)

theorem execBistMarchDone_keeps (pass : Bool) (s : State) : KeepsH s (execBistMarchDone pass s) := by
  unfold execBistMarchDone
  repeat' (first | with_reducible apply KeepsH.next | with_reducible exact Keeps.refl s | with_reducible assumption |
      with_reducible apply Keeps.marchDone)

theorem execMemRepair_keeps (b : Fin 64) (s : State) : KeepsH s (execMemRepair b s) := by
  unfold execMemRepair
  repeat' (first | with_reducible apply KeepsH.next | with_reducible exact Keeps.refl s | with_reducible assumption |
      with_reducible apply Keeps.memCmd)

theorem execSpareExhausted_keeps (s : State) : KeepsH s (execSpareExhausted s) := by
  unfold execSpareExhausted
  repeat' (first | with_reducible apply KeepsH.next | with_reducible exact Keeps.refl s | with_reducible assumption |
      with_reducible apply Keeps.spareExhausted)

theorem execMemClrCounts_keeps (s : State) : KeepsH s (execMemClrCounts s) := by
  unfold execMemClrCounts
  repeat' (first | with_reducible apply KeepsH.next | with_reducible exact Keeps.refl s | with_reducible assumption |
      with_reducible apply Keeps.memCmd)

theorem execEventEnter_keeps (s : State) : KeepsH s (execEventEnter s) := by
  unfold execEventEnter
  repeat' (first | with_reducible apply KeepsH.next | with_reducible exact Keeps.refl s | with_reducible assumption |
      with_reducible apply Keeps.eventEnter)

theorem execEvtEnable_keeps (o : Origin) (v : Word) (s : State) : KeepsH s (execEvtEnable o v s) := by
  unfold execEvtEnable
  repeat' (first | with_reducible apply KeepsH.next | with_reducible exact Keeps.refl s | with_reducible assumption |
      with_reducible apply Keeps.evtCfgWrite)

theorem execEvtTailWrite_keeps (v : Word) (s : State) : KeepsH s (execEvtTailWrite v s) := by
  unfold execEvtTailWrite
  repeat' (first | with_reducible apply KeepsH.next | with_reducible exact Keeps.refl s | with_reducible assumption |
      with_reducible apply Keeps.evtTailWrite)

theorem execVectorArm_keeps (n : Fin 2) (v : Word) (s : State) : KeepsH s (execVectorArm n v s) := by
  unfold execVectorArm
  repeat' (first | with_reducible apply KeepsH.next | with_reducible exact Keeps.refl s | with_reducible assumption |
      with_reducible apply Keeps.armWrite)

theorem execH2dPost_keeps (s : State) : KeepsH s (execH2dPost s) := by
  unfold execH2dPost
  repeat' (first | with_reducible apply KeepsH.next | with_reducible exact Keeps.refl s | with_reducible assumption |
      with_reducible apply Keeps.mboxCmd)

theorem execD2hPost_keeps (s : State) : KeepsH s (execD2hPost s) := by
  unfold execD2hPost
  repeat' (first | with_reducible apply KeepsH.next | with_reducible exact Keeps.refl s | with_reducible assumption |
      with_reducible apply Keeps.mboxCmd)

theorem execHostPortReset_keeps (r : HostReset) (s : State) : KeepsH s (execHostPortReset r s) := by
  unfold execHostPortReset
  repeat' (first | with_reducible apply KeepsH.next | with_reducible exact Keeps.refl s | with_reducible assumption |
      with_reducible apply Keeps.hostReset)

theorem execPcieLinkUp_keeps (speed : Fin 5) (w : Fin 4) (s : State) : KeepsH s (execPcieLinkUp speed w s) := by
  unfold execPcieLinkUp
  repeat' (first | with_reducible apply KeepsH.next | with_reducible exact Keeps.refl s | with_reducible assumption |
      with_reducible apply Keeps.pcieUp)

theorem execConfigRequest_keeps (q : CfgReq) (s : State) : KeepsH s (execConfigRequest q s) := by
  unfold execConfigRequest
  repeat' (first | with_reducible apply KeepsH.next | with_reducible exact Keeps.refl s | with_reducible assumption |
      with_reducible apply Keeps.configRequest)

theorem execSecKeygen_keeps (o : Origin) (s : State) : KeepsH s (execSecKeygen o s) := by
  unfold execSecKeygen
  repeat' (first | with_reducible apply KeepsH.next | with_reducible exact Keeps.refl s | with_reducible assumption |
      with_reducible apply Keeps.secCmd | with_reducible apply Keeps.regDeny | with_reducible apply Keeps.ite)

theorem execKeygenDone_keeps (s : State) : KeepsH s (execKeygenDone s) := by
  unfold execKeygenDone
  repeat' (first | with_reducible apply KeepsH.next | with_reducible exact Keeps.refl s | with_reducible assumption |
      with_reducible apply Keeps.keygenDone)

theorem execSecNonce_keeps (o : Origin) (s : State) : KeepsH s (execSecNonce o s) := by
  unfold execSecNonce
  repeat' (first | with_reducible apply KeepsH.next | with_reducible exact Keeps.refl s | with_reducible assumption |
      with_reducible apply Keeps.secCmd | with_reducible apply Keeps.regDeny | with_reducible apply Keeps.ite)

theorem execTokenSubmit_keeps (o : Origin) (s : State) : KeepsH s (execTokenSubmit o s) := by
  unfold execTokenSubmit
  repeat' (first | with_reducible apply KeepsH.next | with_reducible exact Keeps.refl s | with_reducible assumption |
      with_reducible apply Keeps.secCmd | with_reducible apply Keeps.regDeny | with_reducible apply Keeps.ite)

theorem execTokenCheckDone_keeps (s : State) : KeepsH s (execTokenCheckDone s) := by
  unfold execTokenCheckDone
  repeat' (first | with_reducible apply KeepsH.next | with_reducible exact Keeps.refl s | with_reducible assumption |
      with_reducible apply Keeps.tokenDone)

theorem execLifecycleCommit_keeps (s : State) : KeepsH s (execLifecycleCommit s) := by
  unfold execLifecycleCommit
  repeat' (first | with_reducible apply KeepsH.next | with_reducible exact Keeps.refl s | with_reducible assumption |
      with_reducible apply Keeps.lifecycleCommit)

theorem execTamperEvent_keeps (s : State) : KeepsH s (execTamperEvent s) := by
  unfold execTamperEvent
  repeat' (first | with_reducible apply KeepsH.next | with_reducible exact Keeps.refl s | with_reducible assumption |
      with_reducible apply Keeps.tamper)

theorem execTamperNRelease_keeps (s : State) : KeepsH s (execTamperNRelease s) := by
  unfold execTamperNRelease
  repeat' (first | with_reducible apply KeepsH.next | with_reducible exact Keeps.refl s | with_reducible assumption |
      with_reducible apply Keeps.updSec)

theorem execAudCkpt_keeps (o : Origin) (s : State) : KeepsH s (execAudCkpt o s) := by
  unfold execAudCkpt
  repeat' (first | with_reducible apply KeepsH.next | with_reducible exact Keeps.refl s | with_reducible assumption |
      with_reducible apply Keeps.checkpoint | with_reducible apply Keeps.regDeny | with_reducible apply Keeps.ite)

theorem execCheckpointSigned_keeps (s : State) : KeepsH s (execCheckpointSigned s) := by
  unfold execCheckpointSigned
  repeat' (first | with_reducible apply KeepsH.next | with_reducible exact Keeps.refl s | with_reducible assumption |
      with_reducible apply Keeps.checkpointSigned)

theorem execAudRingMove_keeps (o : Origin) (size : Bool) (v : DWord) (s : State) : KeepsH s (execAudRingMove o size v s) := by
  unfold execAudRingMove
  repeat' (first | with_reducible apply KeepsH.next | with_reducible exact Keeps.refl s | with_reducible assumption |
      with_reducible apply Keeps.regDeny | with_reducible apply Keeps.audRingSet | with_reducible apply Keeps.ite)

theorem execAudTailWrite_keeps (o : Origin) (v : Word) (s : State) : KeepsH s (execAudTailWrite o v s) := by
  unfold execAudTailWrite
  repeat' (first | with_reducible apply KeepsH.next | with_reducible exact Keeps.refl s | with_reducible assumption |
      with_reducible apply Keeps.audTailWrite | with_reducible apply Keeps.regDeny | with_reducible apply Keeps.ite)

theorem execDmaEnable_keeps (o : Origin) (n : Fin 16) (halt : Bool) (prio : Fin 4) (s : State) : KeepsH s (execDmaEnable o n halt prio s) :=
    by
  unfold execDmaEnable
  repeat' (first | with_reducible apply KeepsH.next | with_reducible exact Keeps.refl s | with_reducible assumption |
      with_reducible apply Keeps.chCtrlWrite)

theorem execDmaDisable_keeps (o : Origin) (n : Fin 16) (halt : Bool) (prio : Fin 4) (s : State) : KeepsH s (execDmaDisable o n halt prio s)
    := by
  unfold execDmaDisable
  repeat' (first | with_reducible apply KeepsH.next | with_reducible exact Keeps.refl s | with_reducible assumption |
      with_reducible apply Keeps.chCtrlWrite)

theorem execDmaStop_keeps (o : Origin) (n : Fin 16) (halt : Bool) (prio : Fin 4) (s : State) : KeepsH s (execDmaStop o n halt prio s) := by
  unfold execDmaStop
  repeat' (first | with_reducible apply KeepsH.next | with_reducible exact Keeps.refl s | with_reducible assumption |
      with_reducible apply Keeps.chCtrlWrite)

theorem execDmaDoorbell_keeps (n : Fin 16) (s : State) : KeepsH s (execDmaDoorbell n s) := by
  unfold execDmaDoorbell
  repeat' (first | with_reducible apply KeepsH.next | with_reducible exact Keeps.refl s | with_reducible assumption |
      with_reducible apply Keeps.doorbell)

theorem execDmaDescRead_keeps (n : Fin 16) (e : Ecc) (s : State) : KeepsH s (execDmaDescRead n e s) := by
  unfold execDmaDescRead
  repeat' (first | with_reducible apply KeepsH.next | with_reducible exact Keeps.refl s | with_reducible assumption |
      with_reducible apply Keeps.descRead)

theorem execDmaRingWrite_keeps (o : Origin) (n : Fin 16) (k : Fin 3) (v : Word) (s : State) : KeepsH s (execDmaRingWrite o n k v s) := by
  unfold execDmaRingWrite
  repeat' (first | with_reducible apply KeepsH.next | with_reducible exact Keeps.refl s | with_reducible assumption |
      with_reducible apply Keeps.chRingWrite)

theorem execPorNLow_keeps (lowNs : Nat) (s : State) : KeepsH s (execPorNLow lowNs s) := by
  unfold execPorNLow
  repeat' (first | with_reducible apply KeepsH.next | with_reducible exact Keeps.refl s | with_reducible assumption |
      with_reducible apply Keeps.porLow)

theorem execNvmReset_keeps (v : Word) (s : State) : KeepsH s (execNvmReset v s) := by
  unfold execNvmReset
  repeat' (first | with_reducible apply KeepsH.next | with_reducible exact Keeps.refl s | with_reducible assumption |
      with_reducible apply Keeps.nvmReset)

theorem execTapReset_keeps (s : State) : KeepsH s (execTapReset s) := by
  unfold execTapReset
  repeat' (first | with_reducible apply KeepsH.next | with_reducible exact Keeps.refl s | with_reducible assumption |
      with_reducible apply Keeps.tapReset)

theorem execExtestLoad_keeps (s : State) : KeepsH s (execExtestLoad s) := by
  unfold execExtestLoad
  repeat' (first | with_reducible apply KeepsH.next | with_reducible exact Keeps.refl s | with_reducible assumption |
      with_reducible apply Keeps.extestLoad)

theorem execExtestRelease_keeps (s : State) : KeepsH s (execExtestRelease s) := by
  unfold execExtestRelease
  repeat' (first | with_reducible apply KeepsH.next | with_reducible exact Keeps.refl s | with_reducible assumption |
      with_reducible apply Keeps.extestRelease)

theorem execPowerRemoved_keeps (s : State) : KeepsH s (execPowerRemoved s) := by
  unfold execPowerRemoved
  repeat' (first | with_reducible apply KeepsH.next | with_reducible exact Keeps.refl s | with_reducible assumption |
      with_reducible apply Keeps.powerOff)

theorem execPaceWindowEnd_keeps (busy : List (Fin 64 × Nat)) (s : State) : KeepsH s (execPaceWindowEnd busy s) := by
  unfold execPaceWindowEnd
  repeat' (first | with_reducible apply KeepsH.next | with_reducible exact Keeps.refl s | with_reducible assumption |
      with_reducible apply Keeps.paceWindow)

theorem execSupplySample_keeps (mv : Vector (BitVec 13) 9) (s : State) : KeepsH s (execSupplySample mv s) := by
  unfold execSupplySample
  dsimp only
  split
  · exact KeepsH.fault
  · exact KeepsH.next (Keeps.ite (Keeps.refl s) (Keeps.supplies (Keeps.refl s) _))

theorem execTwilightExit_keeps (s : State) : KeepsH s (execTwilightExit s) := by
  unfold execTwilightExit
  repeat' (first | with_reducible apply KeepsH.next | with_reducible exact Keeps.refl s | with_reducible assumption |
      with_reducible apply Keeps.twilightExit)

theorem execTempSample_keeps (temp : Vector (BitVec 8) 9) (s : State) : KeepsH s (execTempSample temp s) := by
  unfold execTempSample
  dsimp only
  split
  · exact KeepsH.fault
  · exact KeepsH.next (Keeps.temps (Keeps.refl s) _)

theorem execAvsReadback_keeps (mv : Fin 1024) (s : State) : KeepsH s (execAvsReadback mv s) := by
  unfold execAvsReadback
  repeat' (first | with_reducible apply KeepsH.next | with_reducible exact Keeps.refl s | with_reducible assumption |
      with_reducible apply Keeps.avsReadBack)

theorem execAvsResponseTimeout_keeps (read : Bool) (s : State) : KeepsH s (execAvsResponseTimeout read s) := by
  unfold execAvsResponseTimeout
  repeat' (first | with_reducible apply KeepsH.next | with_reducible exact Keeps.refl s | with_reducible assumption |
      with_reducible apply Keeps.avsTimeout)

theorem execDomainRequest_keeps (o : Origin) (v : Word) (s : State) : KeepsH s (execDomainRequest o v s) := by
  unfold execDomainRequest
  repeat' (first | with_reducible apply KeepsH.next | with_reducible exact Keeps.refl s | with_reducible assumption |
      with_reducible apply Keeps.domCtrlWrite)

theorem execOctantOffDone_keeps (k : Fin 8) (s : State) : KeepsH s (execOctantOffDone k s) := by
  unfold execOctantOffDone
  repeat' (first | with_reducible apply KeepsH.next | with_reducible exact Keeps.refl s | with_reducible assumption |
      with_reducible apply Keeps.octOffDone)

theorem execHeartbeatTimeout_keeps (k : Fin 8) (s : State) : KeepsH s (execHeartbeatTimeout k s) := by
  unfold execHeartbeatTimeout
  repeat' (first | with_reducible apply KeepsH.next | with_reducible exact Keeps.refl s | with_reducible assumption |
      with_reducible apply Keeps.octFault)

theorem execStandby_keeps (s : State) : KeepsH s (execStandby s) := by
  unfold execStandby
  repeat' (first | with_reducible apply KeepsH.next | with_reducible exact Keeps.refl s | with_reducible assumption |
      with_reducible apply Keeps.standbyCmd)

theorem execStandbyEnter_keeps (s : State) : KeepsH s (execStandbyEnter s) := by
  unfold execStandbyEnter
  repeat' (first | with_reducible apply KeepsH.next | with_reducible exact Keeps.refl s | with_reducible assumption |
      with_reducible apply Keeps.standbyGo)

theorem execWake_keeps (s : State) : KeepsH s (execWake s) := by
  unfold execWake
  repeat' (first | with_reducible apply KeepsH.next | with_reducible exact Keeps.refl s | with_reducible assumption |
      with_reducible apply Keeps.wakeCmd)

theorem execStandbyExit_keeps (s : State) : KeepsH s (execStandbyExit s) := by
  unfold execStandbyExit
  repeat' (first | with_reducible apply KeepsH.next | with_reducible exact Keeps.refl s | with_reducible assumption |
      with_reducible apply Keeps.standbyExit)

theorem execAmdSubmit_keeps (s : State) : KeepsH s (execAmdSubmit s) := by
  unfold execAmdSubmit
  repeat' (first | with_reducible apply KeepsH.next | with_reducible exact Keeps.refl s | with_reducible assumption |
      with_reducible apply Keeps.amdSubmit)

theorem execAmdCheckDone_keeps (s : State) : KeepsH s (execAmdCheckDone s) := by
  unfold execAmdCheckDone
  repeat' (first | with_reducible apply KeepsH.next | with_reducible exact Keeps.refl s | with_reducible assumption |
      with_reducible apply Keeps.amdChecked)

theorem execDmaCopy_keeps (n : Fin 16) (bytes : Word) (meets : DmaMeets) (s : State) : KeepsH s (execDmaCopy n bytes meets s) := by
  unfold execDmaCopy
  repeat' (first | with_reducible apply KeepsH.next | with_reducible exact Keeps.refl s | with_reducible assumption |
      with_reducible apply Keeps.dmaGo)

theorem execDmaFill_keeps (n : Fin 16) (bytes : Word) (meets : DmaMeets) (s : State) : KeepsH s (execDmaFill n bytes meets s) := by
  unfold execDmaFill
  repeat' (first | with_reducible apply KeepsH.next | with_reducible exact Keeps.refl s | with_reducible assumption |
      with_reducible apply Keeps.dmaGo)

theorem execDmaDescDone_keeps (n : Fin 16) (host : List Byte) (s : State) : KeepsH s (execDmaDescDone n host s) := by
  unfold execDmaDescDone
  repeat' (first | with_reducible apply KeepsH.next | with_reducible exact Keeps.refl s | with_reducible assumption |
      with_reducible apply Keeps.dmaDone)

theorem execRegisterWrite_keeps (o : Origin) (a : Fin 67108864) (v : Word) (s : State) : KeepsH s (execRegisterWrite o a v s) := by
  unfold execRegisterWrite
  repeat' (first | with_reducible apply KeepsH.next | with_reducible exact Keeps.refl s | with_reducible assumption |
      with_reducible apply Keeps.busAccess)

theorem execLowWordRead_keeps (o : Origin) (a : Fin 67108864) (s : State) : KeepsH s (execLowWordRead o a s) := by
  unfold execLowWordRead
  repeat' (first | with_reducible apply KeepsH.next | with_reducible exact Keeps.refl s | with_reducible assumption |
      with_reducible apply Keeps.busAccess)

theorem execHighWordRead_keeps (o : Origin) (a : Fin 67108864) (s : State) : KeepsH s (execHighWordRead o a s) := by
  unfold execHighWordRead
  repeat' (first | with_reducible apply KeepsH.next | with_reducible exact Keeps.refl s | with_reducible assumption |
      with_reducible apply Keeps.busAccess)

theorem execLowWordWrite_keeps (o : Origin) (a : Fin 67108864) (v : Word) (s : State) : KeepsH s (execLowWordWrite o a v s) := by
  unfold execLowWordWrite
  repeat' (first | with_reducible apply KeepsH.next | with_reducible exact Keeps.refl s | with_reducible assumption |
      with_reducible apply Keeps.busAccess)

theorem execHighWordWrite_keeps (o : Origin) (a : Fin 67108864) (v : Word) (s : State) : KeepsH s (execHighWordWrite o a v s) := by
  unfold execHighWordWrite
  repeat' (first | with_reducible apply KeepsH.next | with_reducible exact Keeps.refl s | with_reducible assumption |
      with_reducible apply Keeps.busAccess)

theorem execBadWidthAccess_keeps (o : Origin) (a : Fin 268435456) (n : Fin 4097) (data : Option (List (Option Byte))) (s : State) : KeepsH s
    (execBadWidthAccess o a n data s) := by
  unfold execBadWidthAccess
  repeat' (first | with_reducible apply KeepsH.next | with_reducible exact Keeps.refl s | with_reducible assumption |
      with_reducible apply Keeps.busAccess | with_reducible apply Keeps.ite | with_reducible apply KeepsH.ite |
      with_reducible exact KeepsH.fault | with_reducible refine Keeps.foldl ?_ (fun _ _ _ => ?_) | split)

theorem execBroadcastWrite_keeps (o : Origin) (g : Option (Fin 64)) (off : Fin 16384) (v : Word) (s : State) : KeepsH s (execBroadcastWrite
    o g off v s) := by
  unfold execBroadcastWrite
  repeat' (first | with_reducible apply KeepsH.next | with_reducible exact Keeps.refl s | with_reducible assumption |
      with_reducible apply Keeps.busAccess)

theorem execFlowMeas_keeps (i : Fin 16) (s : State) : KeepsH s (execFlowMeas i s) := by
  unfold execFlowMeas
  repeat' (first | with_reducible apply KeepsH.next | with_reducible exact Keeps.refl s | with_reducible assumption |
      with_reducible apply Keeps.flowStep | with_reducible apply Keeps.stepMeas | with_reducible apply Keeps.ite |
      with_reducible apply KeepsH.ite | with_reducible exact KeepsH.fault | with_reducible refine Keeps.foldl ?_ (fun _ _ _ => ?_) | split |
      with_reducible refine KeepsO.getD ?_ ?_ | with_reducible refine KeepsO.get ?_ (by assumption) |
      with_reducible refine KeepsOP.get1 ?_ (by assumption) | intro _)

theorem execFlowWrite_keeps (i : Fin 16) (s : State) : KeepsH s (execFlowWrite i s) := by
  unfold execFlowWrite
  repeat' (first | with_reducible apply KeepsH.next | with_reducible exact Keeps.refl s | with_reducible assumption |
      with_reducible apply Keeps.flowStep | with_reducible apply Keeps.stepWrite | with_reducible apply Keeps.ite |
      with_reducible apply KeepsH.ite | with_reducible exact KeepsH.fault | with_reducible refine Keeps.foldl ?_ (fun _ _ _ => ?_) | split |
      with_reducible refine KeepsO.getD ?_ ?_ | with_reducible refine KeepsO.get ?_ (by assumption) |
      with_reducible refine KeepsOP.get1 ?_ (by assumption) | intro _)

theorem execMsgRd_keeps (p : Fin 7) (x : Rx) (addr : DWord) (s : State) : KeepsH s (execMsgRd p x addr s) := by
  unfold execMsgRd
  repeat' (first | with_reducible apply KeepsH.next | with_reducible exact Keeps.refl s | with_reducible assumption |
      with_reducible apply Keeps.msgLoop | with_reducible apply Keeps.onFrame | with_reducible apply Keeps.msgFrame |
      with_reducible apply Keeps.ite | with_reducible apply KeepsH.ite | with_reducible exact KeepsH.fault |
      with_reducible refine Keeps.foldl ?_ (fun _ _ _ => ?_) | split | with_reducible refine KeepsO.getD ?_ ?_ |
      with_reducible refine KeepsO.get ?_ (by assumption) | with_reducible refine KeepsOP.get1 ?_ (by assumption) | intro _)

theorem execMsgWr_keeps (p : Fin 7) (x : Rx) (addr : DWord) (v : Word) (s : State) : KeepsH s (execMsgWr p x addr v s) := by
  unfold execMsgWr
  repeat' (first | with_reducible apply KeepsH.next | with_reducible exact Keeps.refl s | with_reducible assumption |
      with_reducible apply Keeps.msgLoop | with_reducible apply Keeps.onFrame | with_reducible apply Keeps.msgFrame |
      with_reducible apply Keeps.ite | with_reducible apply KeepsH.ite | with_reducible exact KeepsH.fault |
      with_reducible refine Keeps.foldl ?_ (fun _ _ _ => ?_) | split | with_reducible refine KeepsO.getD ?_ ?_ |
      with_reducible refine KeepsO.get ?_ (by assumption) | with_reducible refine KeepsOP.get1 ?_ (by assumption) | intro _)

theorem execPortBAccess_keeps (o : Origin) (x : Fin 67108864) (n : Fin 4097) (data : Option (List (Option Byte))) (e : Ecc) (a : PortAOps)
    (s : State) : KeepsH s (execPortBAccess o x n data e a s) := by
  unfold execPortBAccess
  repeat' (first | with_reducible apply KeepsH.next | with_reducible exact Keeps.refl s | with_reducible assumption |
      with_reducible apply Keeps.portBRead | with_reducible apply Keeps.portBWrite | with_reducible apply Keeps.ite |
      with_reducible apply KeepsH.ite | with_reducible exact KeepsH.fault | with_reducible refine Keeps.foldl ?_ (fun _ _ _ => ?_) | split)

theorem execAliasSetWrite_keeps (o : Origin) (x : Fin 67108864) (data : AliasData) (s : State) : KeepsH s (execAliasSetWrite o x data s) :=
    by
  unfold execAliasSetWrite
  repeat' (first | with_reducible apply KeepsH.next | with_reducible exact Keeps.refl s | with_reducible assumption |
      with_reducible apply Keeps.portBWrite)

theorem execAliasClearWrite_keeps (o : Origin) (x : Fin 67108864) (data : AliasData) (s : State) : KeepsH s (execAliasClearWrite o x data s)
    := by
  unfold execAliasClearWrite
  repeat' (first | with_reducible apply KeepsH.next | with_reducible exact Keeps.refl s | with_reducible assumption |
      with_reducible apply Keeps.portBWrite)

theorem execHostRequest_keeps (q : HostReq) (s : State) : KeepsH s (execHostRequest q s) := by
  unfold execHostRequest
  repeat' (first | with_reducible apply KeepsH.next | with_reducible exact Keeps.refl s | with_reducible assumption |
      with_reducible apply Keeps.hostRequest)

theorem execHostStallTimeout_keeps (s : State) : KeepsH s (execHostStallTimeout s) := by
  unfold execHostStallTimeout
  repeat' (first | with_reducible apply KeepsH.next | with_reducible exact Keeps.refl s | with_reducible assumption |
      with_reducible apply Keeps.stallTimeout)

theorem execDebugAccess_keeps (op : BusOp) (s : State) : KeepsH s (execDebugAccess op s) := by
  unfold execDebugAccess
  repeat' (first | with_reducible apply KeepsH.next | with_reducible exact Keeps.refl s | with_reducible assumption |
      with_reducible apply Keeps.debugAccess)

theorem execBankWakeDone_keeps (b : Fin 64) (s : State) : KeepsH s (execBankWakeDone b s) := by
  unfold execBankWakeDone
  repeat' (first | with_reducible apply KeepsH.next | with_reducible exact Keeps.refl s | with_reducible assumption |
      with_reducible apply Keeps.serveAgain | with_reducible apply Keeps.bankWoken)

theorem execBankCleared_keeps (b : Fin 64) (s : State) : KeepsH s (execBankCleared b s) := by
  unfold execBankCleared
  repeat' (first | with_reducible apply KeepsH.next | with_reducible exact Keeps.refl s | with_reducible assumption |
      with_reducible apply Keeps.serveAgain | with_reducible apply Keeps.bankCleared)

theorem execFspChangeDone_keeps (s : State) : KeepsH s (execFspChangeDone s) := by
  unfold execFspChangeDone
  repeat' (first | with_reducible apply KeepsH.next | with_reducible exact Keeps.refl s | with_reducible assumption |
      with_reducible apply Keeps.serveAgain | with_reducible apply Keeps.fspDone)

theorem execTrainStepDone_keeps (ch : Fin 16) (rdW : Fin 65536) (rdH : Fin 65536) (wrW : Fin 65536) (wrH : Fin 65536) (s : State) : KeepsH s
    (execTrainStepDone ch rdW rdH wrW wrH s) := by
  unfold execTrainStepDone
  repeat' (first | with_reducible apply KeepsH.next | with_reducible exact Keeps.refl s | with_reducible assumption |
      with_reducible apply Keeps.serveAgain | with_reducible apply Keeps.trainStep)

theorem execDramPowerChange_keeps (s : State) : KeepsH s (execDramPowerChange s) := by
  unfold execDramPowerChange
  repeat' (first | with_reducible apply KeepsH.next | with_reducible exact Keeps.refl s | with_reducible assumption |
      with_reducible apply Keeps.serveAgain | with_reducible apply Keeps.dramPowerChange)

theorem execSelfRefreshExit_keeps (lost : Bool) (s : State) : KeepsH s (execSelfRefreshExit lost s) := by
  unfold execSelfRefreshExit
  repeat' (first | with_reducible apply KeepsH.next | with_reducible exact Keeps.refl s | with_reducible assumption |
      with_reducible apply Keeps.serveAgain | with_reducible apply Keeps.selfRefreshExit)

theorem execDramSegmentCleared_keeps (s : State) : KeepsH s (execDramSegmentCleared s) := by
  unfold execDramSegmentCleared
  repeat' (first | with_reducible apply KeepsH.next | with_reducible exact Keeps.refl s | with_reducible assumption |
      with_reducible apply Keeps.serveAgain | with_reducible apply Keeps.segmentCleared)

theorem execOctantOnDone_keeps (k : Fin 8) (pins : List (Fin 64)) (volts : List Int) (s : State) : KeepsH s (execOctantOnDone k pins volts
    s) := by
  unfold execOctantOnDone
  repeat' (first | with_reducible apply KeepsH.next | with_reducible exact Keeps.refl s | with_reducible assumption |
      with_reducible apply Keeps.serveAgain | with_reducible apply Keeps.octOnDone)

theorem execTimebaseLock_keeps (fa : Option (Fin 4)) (fb : Option (Fin 4)) (s : State) : KeepsH s (execTimebaseLock fa fb s) := by
  unfold execTimebaseLock
  repeat' (first | with_reducible apply KeepsH.next | with_reducible exact Keeps.refl s | with_reducible assumption |
      with_reducible apply Keeps.firstLock)

theorem execBootMarchDone_keeps (bad : List (Fin 68)) (s : State) : KeepsH s (execBootMarchDone bad s) := by
  unfold execBootMarchDone
  repeat' (first | with_reducible apply KeepsH.next | with_reducible exact Keeps.refl s | with_reducible assumption |
      with_reducible apply Keeps.bootMarched)

theorem execFlashIdDone_keeps (sfdp : Option (Bool × Fin 65536)) (primary : List Byte) (mirror : List Byte) (s : State) : KeepsH s
    (execFlashIdDone sfdp primary mirror s) := by
  unfold execFlashIdDone
  repeat' (first | with_reducible apply KeepsH.next | with_reducible exact Keeps.refl s | with_reducible assumption |
      with_reducible apply Keeps.flashFound)

theorem execHostRecord_keeps (w0 : Word) (w1 : Word) (crc : RecordCrc) (s : State) : KeepsH s (execHostRecord w0 w1 crc s) := by
  unfold execHostRecord
  repeat' (first | with_reducible apply KeepsH.next | with_reducible exact Keeps.refl s | with_reducible assumption |
      with_reducible apply Keeps.readRecord)

theorem execDramRecord_keeps (ws : List Word) (crc : RecordCrc) (s : State) : KeepsH s (execDramRecord ws crc s) := by
  unfold execDramRecord
  repeat' (first | with_reducible apply KeepsH.next | with_reducible exact Keeps.refl s | with_reducible assumption |
      with_reducible apply Keeps.readRecord)

theorem execRegRecord_keeps (pairs : List (Word × Word)) (crc : RecordCrc) (s : State) : KeepsH s (execRegRecord pairs crc s) := by
  unfold execRegRecord
  repeat' (first | with_reducible apply KeepsH.next | with_reducible exact Keeps.refl s | with_reducible assumption |
      with_reducible apply Keeps.readRecord)

theorem execMemRecord_keeps (addr : DWord) (data : List Word) (crc : RecordCrc) (s : State) : KeepsH s (execMemRecord addr data crc s) := by
  unfold execMemRecord
  repeat' (first | with_reducible apply KeepsH.next | with_reducible exact Keeps.refl s | with_reducible assumption |
      with_reducible apply Keeps.readRecord)

theorem execFillRecord_keeps (addr : DWord) (len : Word) (pattern : Word) (crc : RecordCrc) (s : State) : KeepsH s (execFillRecord addr len
    pattern crc s) := by
  unfold execFillRecord
  repeat' (first | with_reducible apply KeepsH.next | with_reducible exact Keeps.refl s | with_reducible assumption |
      with_reducible apply Keeps.readRecord)

theorem execLockRecord_keeps (offs : List Word) (crc : RecordCrc) (s : State) : KeepsH s (execLockRecord offs crc s) := by
  unfold execLockRecord
  repeat' (first | with_reducible apply KeepsH.next | with_reducible exact Keeps.refl s | with_reducible assumption |
      with_reducible apply Keeps.readRecord)

theorem execEndRecord_keeps (crc : RecordCrc) (s : State) : KeepsH s (execEndRecord crc s) := by
  unfold execEndRecord
  repeat' (first | with_reducible apply KeepsH.next | with_reducible exact Keeps.refl s | with_reducible assumption |
      with_reducible apply Keeps.readRecord)

theorem execImageCopyChecked_keeps (e : CopyEnd) (s : State) : KeepsH s (execImageCopyChecked e s) := by
  unfold execImageCopyChecked
  repeat' (first | with_reducible apply KeepsH.next | with_reducible exact Keeps.refl s | with_reducible assumption |
      with_reducible apply Keeps.copyChecked)

theorem execApplyDone_keeps (s : State) : KeepsH s (execApplyDone s) := by
  unfold execApplyDone
  repeat' (first | with_reducible apply KeepsH.next | with_reducible exact Keeps.refl s | with_reducible assumption |
      with_reducible apply Keeps.applied)

theorem execAmendEntry_keeps (entry : List Byte) (s : State) : KeepsH s (execAmendEntry entry s) := by
  unfold execAmendEntry
  repeat' (first | with_reducible apply KeepsH.next | with_reducible exact Keeps.refl s | with_reducible assumption |
      with_reducible apply Keeps.amendEntry)

theorem execAlmanacLoad_keeps (slot0 : List Byte) (slot1 : List Byte) (s : State) : KeepsH s (execAlmanacLoad slot0 slot1 s) := by
  unfold execAlmanacLoad
  repeat' (first | with_reducible apply KeepsH.next | with_reducible exact Keeps.refl s | with_reducible assumption |
      with_reducible apply Keeps.almStage)

theorem execSelftestDone_keeps (fails : List (Fin 512 × Fin 4)) (s : State) : KeepsH s (execSelftestDone fails s) := by
  unfold execSelftestDone
  repeat' (first | with_reducible apply KeepsH.next | with_reducible exact Keeps.refl s | with_reducible assumption |
      with_reducible apply Keeps.selfTested)

theorem execAmdApply_keeps (s : State) : KeepsH s (execAmdApply s) := by
  unfold execAmdApply
  repeat' (first | with_reducible apply KeepsH.next | with_reducible exact Keeps.refl s | with_reducible assumption |
      with_reducible apply Keeps.amdApply)

theorem execAmdPersistDone_keeps (area : List Byte) (back : Option (List Byte)) (s : State) : KeepsH s (execAmdPersistDone area back s) :=
    by
  unfold execAmdPersistDone
  repeat' (first | with_reducible apply KeepsH.next | with_reducible exact Keeps.refl s | with_reducible assumption |
      with_reducible apply Keeps.amdStored)

end Sys2Proof.Machine
end

