-- ==== Sys2Proof/Laws/Ocm.lean ====
section
/-! SUPPORT. On-chip memory: what a byte reads after bytes were written, where no bank is being copied and every logical bank has a physical bank
of its own. -/
namespace Sys2Proof.Machine

/-- No bank is being copied, and two logical banks never share a physical bank. -/
def State.banksApart (s : State) : Prop := s.memory.copies = [] ∧ ∀ b c, b < 64 → c < 64 → s.phys b = s.phys c → b = c

/-- Different offsets lie in different physical bytes. -/
theorem State.physByte_inj {s : State} (h : s.banksApart) {x y : Nat} (hx : x < 0x4000000) (hy : y < 0x4000000) (e : s.physByte x = s.physByte y) :
    x = y := by
  unfold State.physByte at e
  have hb : s.phys (bankOf x) = s.phys (bankOf y) := by omega
  have := h.2 (bankOf x) (bankOf y) (by unfold bankOf; omega) (by unfold bankOf; omega) hb
  unfold bankOf at this
  omega

/-- One byte written changes that byte alone. -/
theorem State.ocmByte_ocmPut {s : State} (h : s.banksApart) {x y : Nat} (b : Byte) (hx : x < 0x4000000) (hy : y < 0x4000000) :
    (s.ocmPut x b).ocmByte y = if y = x then b else s.ocmByte y := by
  have e : (s.ocmPut x b).mem = Sparse.set memDefault s.mem (s.physByte x) b := by simp [State.ocmPut, h.1]
  show Sparse.get memDefault (s.ocmPut x b).mem (s.physByte y) = _
  rw [e]
  by_cases hxy : y = x
  · rw [if_pos hxy, hxy]; exact Sparse.get_set_self _ _ _
  · rw [if_neg hxy]
    exact Sparse.get_set_other _ _ (fun k => hxy (State.physByte_inj h hy hx k))

/-- A byte written leaves the banks apart. -/
theorem State.banksApart_ocmPut {s : State} (h : s.banksApart) (x : Nat) (b : Byte) : (s.ocmPut x b).banksApart := h

/-- Bytes written leave everything but memory alone. -/
theorem State.ocmWrite_frame (bs : List Byte) : ∀ (s : State) (x : Nat), s.ocmWrite x bs = { s with mem := (s.ocmWrite x bs).mem } := by
  induction bs with
  | nil => intro s x; rfl
  | cons b bs ih => intro s x; rw [State.ocmWrite, ih]; rfl

/-- Bytes written change the bytes they name and no other. -/
theorem State.ocmByte_ocmWrite (bs : List Byte) : ∀ {s : State} {x : Nat}, s.banksApart → x + bs.length ≤ 0x4000000 → ∀ {y : Nat}, y < 0x4000000 →
    (s.ocmWrite x bs).ocmByte y = if x ≤ y ∧ y < x + bs.length then bs.getD (y - x) 0 else s.ocmByte y := by
  induction bs with
  | nil => intro s x _ _ y _; rw [if_neg (by simp)]; rfl
  | cons b bs ih =>
    intro s x h hl y hy
    simp only [List.length_cons] at hl ⊢
    rw [State.ocmWrite, ih (State.banksApart_ocmPut h x b) (by omega) hy, State.ocmByte_ocmPut h b (by omega) hy]
    by_cases h1 : y = x
    · subst h1; rw [if_neg (by omega), if_pos rfl, if_pos (by omega)]; simp
    · by_cases h2 : x + 1 ≤ y ∧ y < x + 1 + bs.length
      · rw [if_pos h2, if_pos (by omega), show y - x = (y - (x + 1)) + 1 by omega, List.getD_cons_succ]
      · rw [if_neg h2, if_neg h1, if_neg (by omega)]

/-- The bytes of a read, one by one. -/
theorem State.ocmRead_getElem (n : Nat) : ∀ (s : State) (x k : Nat), k < n → (s.ocmRead x n)[k]? = some (s.ocmByte (x + k)) := by
  induction n with
  | zero => intro s x k h; omega
  | succ n ih =>
    intro s x k h
    cases k with
    | zero => simp [State.ocmRead]
    | succ k =>
      rw [State.ocmRead, List.getElem?_cons_succ, ih s (x + 1) k (by omega)]
      congr 2; omega

/-- A read has the length asked for. -/
@[simp] theorem State.ocmRead_length (n : Nat) : ∀ (s : State) (x : Nat), (s.ocmRead x n).length = n := by
  induction n with
  | zero => intro s x; rfl
  | succ n ih => intro s x; simp [State.ocmRead, ih]

/-- A read of a range is the read of its first part and then that of its second. -/
theorem State.ocmRead_add (n : Nat) : ∀ (s : State) (x m : Nat), s.ocmRead x (n + m) = s.ocmRead x n ++ s.ocmRead (x + n) m := by
  induction n with
  | zero => intro s x m; simp [State.ocmRead]
  | succ n ih =>
    intro s x m
    rw [show n + 1 + m = (n + m) + 1 by omega, State.ocmRead, State.ocmRead, ih, List.cons_append, show x + 1 + n = x + (n + 1) by omega]

end Sys2Proof.Machine
end

