-- ==== Sys2Proof/WellFormed.lean ====
section
/-! DEFINITION. Which commands are well formed: their operands name what the row's rule names. Every command has a meaning; one that is not
well formed is not one that the block's surroundings can send. -/
namespace Sys2Proof

open Sys2Proof.Machine

/-- Whether a number lies in lo .. hi - 1. -/
def inRange (lo hi x : Nat) : Bool := decide (lo ≤ x) && decide (x < hi)

/-- Whether a BAR0 offset is a register of a 64-bit value, at a place in it (R4). -/
def isPair (a : Nat) (p : Pair) : Bool :=
  match lookupReg a with
  | none => false
  | some d => decide (d.pair = p)

/-- Whether an access of `n` bytes is of a width other than one aligned 32-bit register (R4, R479). -/
def badWidth (a n : Nat) : Bool := decide (0 < n) && (decide (n ≠ 4) || decide (a % 4 ≠ 0))

/-- Whether `n` bytes from an on-chip offset lie in the memory (R20). -/
def fits (x n : Nat) : Bool := decide (0 < n) && decide (x + n ≤ 0x4000000)

/-- Whether words that port A writes lie outside the secure region (R414), each named once. -/
def portAReach (a : PortAOps) : Bool :=
  a.all (fun w => decide (w.1.val < 0xF00000)) && (a.map (fun w => w.1)).Nodup

/-- Whether a host request lies in a BAR (R475). -/
def hostReqWf : HostReq → Bool
  | .read bar off n => decide (0 < n) && inBar bar off n
  | .write bar off data => decide (0 < data.length) && inBar bar off data.length
where
  /-- Whether a range lies in a BAR. -/
  inBar (bar off n : Nat) : Bool :=
    (decide (bar = 0) && decide (off + n ≤ 0x10000000)) || (decide (bar = 2) && decide (off + n ≤ 0x40000000)) ||
      (decide (bar = 4) && decide (off + n ≤ 0x1000000000))

/-- Whether an offset is a word of configuration space. -/
def cfgOffWf (off : Nat) : Bool := decide (off < 4096) && decide (off % 4 = 0)

/-- The bytes of an Almanac slot that are read (R393). -/
def slotLen : Nat := 0x100 + 25120

/-- Whether a command is well formed. -/
def Instr.wf (i : Instr) : Bool :=
  match i with
  | .registerWrite _ _ _ => true
  | .lowWordRead _ a => isPair (4 * a) .low
  | .highWordRead _ a => isPair (4 * a) .high
  | .lowWordWrite _ a _ => isPair (4 * a) .low
  | .highWordWrite _ a _ => isPair (4 * a) .high
  | .badWidthAccess _ a n data => (match data with | none => badWidth a n | some vs => badWidth a vs.length)
  | .broadcastWrite _ _ _ _ => true
  | .groupMapWrite _ a _ => decide (0x100 ≤ a) && decide (a < 0x128) && decide (a % 4 = 0)
  | .siteLevelWrite _ _ => true
  | .paceWindowEnd _ => true
  | .blockDecode _ _ => true
  | .vec _ => true
  | .rpt _ => true
  | .lbeg _ => true
  | .lend _ => true
  | .mloop _ => true
  | .jmp _ => true
  | .jc _ => true
  | .call _ => true
  | .ret _ => true
  | .hold _ => true
  | .holdCountEnd _ => true
  | .next _ => true
  | .lvl _ => true
  | .retime _ => true
  | .frame _ => true
  | .mark _ => true
  | .sync _ => true
  | .waitf _ => true
  | .xact _ => true
  | .stop _ => true
  | .halt _ => true
  | .vectorIssue _ _ => true
  | .vectorCycle _ => true
  | .driveEdge _ => true
  | .strobeSample _ => true
  | .clockToggle _ => true
  | .resultReturn _ _ => true
  | .decisionResolve _ => true
  | .failLogWrite _ => true
  | .drainComplete _ => true
  | .idleApply _ _ => true
  | .seqStart _ _ => true
  | .siteArmed _ => true
  | .seqAbort _ => true
  | .seqResume _ => true
  | .segPublish _ _ _ => true
  | .segUnpublish _ _ => true
  | .segtabWrite _ _ _ _ => true
  | .flagSet _ _ => true
  | .flagClear _ _ => true
  | .resultRingWrite _ _ _ => true
  | .result0Read _ _ => true
  | .refMissingEdge _ => true
  | .freqWindowCheck _ _ => true
  | .refQualifyTimer _ => true
  | .holdoverSwitch => true
  | .refCfgWrite _ _ => true
  | .refCfgDeferredApply => true
  | .timebaseLock _ _ => true
  | .meridianLoRead _ => true
  | .armEstablish => true
  | .softEpoch => true
  | .epochInQualify => true
  | .epochInGlitch => true
  | .epochAct => true
  | .epochNextWrite _ _ => true
  | .epochTimeout => true
  | .fsyncEdge _ _ => true
  | .fsyncLate _ => true
  | .gridWrite _ off _ => (decide (off = 0x70) || inRange 0x80 0xC0 off) && decide (off % 4 = 0)
  | .pinIdleWrite _ _ _ => true
  | .clockCfgWrite _ _ _ _ => true
  | .timingTableWrite _ _ off _ => (inRange 0x400 0x500 off || inRange 0x1000 0x2000 off) && decide (off % 4 = 0)
  | .levelSample _ _ => true
  | .levelApplyCmd _ _ _ => true
  | .clampWrite _ _ _ => true
  | .tripRearm _ _ => true
  | .twilightLevelCheck _ => true
  | .streamRequest _ => true
  | .streamDataArrive _ _ => true
  | .grantInterval => true
  | .crossing _ _ _ => true
  | .eventCloseTimeout _ => true
  | .stampDone _ => true
  | .triggerTimeout _ _ _ => true
  | .tdcArm _ => true
  | .tdcCancel _ => true
  | .tdcArmInstant _ => true
  | .tdcResult _ => true
  | .tdcTimeout _ => true
  | .tdcRepeatArm _ => true
  | .redOperand => true
  | .redSnap _ _ => true
  | .redSnapDone => true
  | .redDump _ _ _ => true
  | .redDumpDone => true
  | .redClear _ _ _ => true
  | .ivlRingWrite _ _ _ => true
  | .portWrite _ _ _ _ => true
  | .listBurstRun _ _ _ => true
  | .xactDispatch _ => true
  | .xactEngineVisit => true
  | .tplEmit _ => true
  | .tplShift _ => true
  | .tplLoop _ => true
  | .tplBranch _ => true
  | .tplWaithi _ => true
  | .tplFail _ => true
  | .tplEnd _ => true
  | .captureBitReturn => true
  | .flowRun _ => true
  | .flowStopCmd _ _ => true
  | .clrBins _ => true
  | .dlogFlush _ => true
  | .flowEnd _ => true
  | .flowBurst _ => true
  | .flowXlist _ => true
  | .flowMeas _ => true
  | .flowCalc _ => true
  | .flowLimit _ => true
  | .flowBin _ => true
  | .flowJump _ => true
  | .flowWait _ => true
  | .flowWaitDone _ => true
  | .flowWrite _ => true
  | .flowLog _ => true
  | .flowHret _ => true
  | .handlerStart _ => true
  | .batchSigned => true
  | .dlogTailWrite _ _ _ => true
  | .dlogRingWrite _ _ _ _ => true
  | .epoch _ _ _ _ _ => true
  | .event _ _ _ _ => true
  | .evtState _ _ _ => true
  | .probe _ _ _ _ => true
  | .probeReply _ _ _ _ => true
  | .nak _ _ => true
  | .hello _ _ _ => true
  | .msgRd _ _ _ => true
  | .msgWr _ _ _ _ => true
  | .msgRsp _ _ _ => true
  | .idle _ _ => true
  | .linkSilence _ => true
  | .blockLockLost _ => true
  | .replayTimeout _ => true
  | .linkUp _ => true
  | .linkQualified _ => true
  | .helloTimer => true
  | .probeTimer => true
  | .probeTimeout _ => true
  | .idleTimer _ => true
  | .msgGo _ => true
  | .msgTimeout => true
  | .rootEpoch _ _ => true
  | .commitNext _ _ => true
  | .evtSet _ => true
  | .evtClear _ => true
  | .eventApply => true
  | .calRun _ _ => true
  | .calCancel _ _ => true
  | .calCommit _ _ => true
  | .calCommitEpoch _ _ => true
  | .calDisarm _ _ => true
  | .calCopy _ _ => true
  | .calStepStart _ => true
  | .calStepDone _ _ => true
  | .almanacSave b0 b1 => decide (slotLen ≤ b0.length) && decide (slotLen ≤ b1.length)
  | .almanacSaveDone _ => true
  | .portBAccess _ x n data _ a => (match data with | none => fits x n && a.isEmpty | some vs => fits x vs.length && portAReach a)
  | .aliasSetWrite _ x data => fits x data.bytes.length && portAReach data.portA
  | .aliasClearWrite _ x data => fits x data.bytes.length && portAReach data.portA
  | .scrubRead _ => true
  | .bankPowerRequest _ _ _ => true
  | .bankPowerChange _ => true
  | .bankWakeDone _ => true
  | .bankCleared _ => true
  | .secureWiped => true
  | .bistBankStart => true
  | .bistCopyDone _ => true
  | .bistMarchDone _ => true
  | .memRepair _ => true
  | .spareExhausted => true
  | .memClrCounts => true
  | .dramPick _ => true
  | .dramRefresh => true
  | .dramScrub _ => true
  | .dramTempRead _ _ => true
  | .fspGo _ => true
  | .fspChangeBegin => true
  | .dramTrainGo => true
  | .trainStepDone _ _ _ _ _ => true
  | .laneCheck _ => true
  | .dramPowerRequest _ _ => true
  | .dramPowerChange => true
  | .selfRefreshExit _ => true
  | .dramSegmentCleared => true
  | .drcClrCounts => true
  | .dmaEnable _ _ _ _ => true
  | .dmaDisable _ _ _ _ => true
  | .dmaStop _ _ _ _ => true
  | .dmaDoorbell _ => true
  | .dmaDescRead _ _ => true
  | .dmaCopy _ bytes meets => decide (bytes.toNat % 4 = 0) && portAReach meets.portA
  | .dmaFill _ bytes meets => decide (bytes.toNat % 4 = 0) && portAReach meets.portA
  | .dmaDescDone _ _ => true
  | .dmaRingWrite _ _ _ _ => true
  | .hostPortReset _ => true
  | .configRequest q => (match q with | .read off => cfgOffWf off | .write off _ => cfgOffWf off | _ => true)
  | .hostRequest q => hostReqWf q
  | .hostStallTimeout => true
  | .eventEnter => true
  | .evtEnable _ _ => true
  | .evtTailWrite _ => true
  | .vectorArm _ _ => true
  | .h2dPost => true
  | .d2hPost => true
  | .porNLow _ => true
  | .nvmReset _ => true
  | .bootMarchDone _ => true
  | .flashIdDone _ h0 h1 => decide (h0.length = 256) && decide (h1.length = 256)
  | .hostRecord _ _ _ => true
  | .dramRecord _ _ => true
  | .regRecord _ _ => true
  | .memRecord _ _ _ => true
  | .fillRecord _ _ _ _ => true
  | .lockRecord _ _ => true
  | .endRecord _ => true
  | .imageCopyChecked _ => true
  | .applyDone => true
  | .amendEntry _ => true
  | .almanacLoad b0 b1 => decide (slotLen ≤ b0.length) && decide (slotLen ≤ b1.length)
  | .selftestDone _ => true
  | .amdSubmit => true
  | .amdCheckDone => true
  | .amdApply => true
  | .amdPersistDone _ _ => true
  | .secKeygen _ => true
  | .keygenDone => true
  | .secNonce _ => true
  | .tokenSubmit _ => true
  | .tokenCheckDone => true
  | .lifecycleCommit => true
  | .tamperEvent => true
  | .audCkpt _ => true
  | .checkpointSigned => true
  | .audRingMove _ _ _ => true
  | .audTailWrite _ _ => true
  | .debugAccess op => (match op with | .peer _ _ _ => false | _ => true)
  | .tapReset => true
  | .extestLoad => true
  | .standby => true
  | .standbyEnter => true
  | .wake => true
  | .standbyExit => true
  | .domainRequest _ _ => true
  | .octantOffDone _ => true
  | .octantOnDone _ pins volts => decide (pins.length = volts.length)
  | .supplySample _ => true
  | .twilightExit => true
  | .avsResponseTimeout _ => true
  | .avsReadback _ => true
  | .tempSample _ => true
  | .heartbeatTimeout _ => true
  | .extestRelease => true
  | .pcieLinkUp _ _ => true
  | .tamperNRelease => true
  | .powerRemoved => true
  | .fspChangeDone => true

end Sys2Proof
end

