-- ==== Sys2Proof/Tests/Slice0.lean ====
section
/-! SUPPORT. The author's own tests: each check of well-formedness refuses an ill-formed command, and for each statement that has hypotheses a small
concrete state and operands meet them, clause by clause. Every state is one built by the helpers below from the state after reset. -/
namespace Sys2Proof.Tests

set_option Elab.async false

open Sys2Proof Sys2Proof.Machine

/-! Helpers. -/

/-- The state after reset with values in some register fields. -/
def regsOf (l : List (Fld × Nat)) : State := l.foldl (fun s x => s.set x.1 x.2) State.reset

/-- A state with one command waiting. -/
def waiting (c : Instr) (s : State) : State := { s with pending := [c] }

/-- A state with one pin as given. -/
def withPin (p : Nat) (q : Pin) (s : State) : State := { s with pins := [(p, q)] }

/-- A state with one site as given. -/
def withSite (i : Nat) (u : Site) (s : State) : State := { s with sites := [(i, u)] }

/-- A range of on-chip memory is served at once if each of its bytes is. -/
theorem portBFree_of_bytes {s : State} {o : Origin} {x n : Nat} (h : busFree s o) (hx : x + n ≤ 0x4000000)
    (hk : ∀ k, k < n → (s.bank (bankOf (x + k))).power = .on ∧ (inSecure (x + k) = true → s.secureDenies o = false)) : portBFree s o x n :=
  ⟨h, hx, fun y h1 h2 => by
    have := hk (y - x) (by omega)
    rwa [show x + (y - x) = y by omega] at this⟩

/-- On-chip memory is plain if its banks are in places of their own. -/
theorem memPlain_of_banks {s : State} (h : s.memUe = [] ∧ s.memCarried = [] ∧ s.memory.copies = [])
    (hp : ∀ b, b < 64 → s.phys b = b) : memPlain s :=
  ⟨h.1, h.2.1, h.2.2, fun b c hb hc e => by rwa [hp b hb, hp c hc] at e⟩

/-! Well-formedness: each check refuses a command that breaks it. -/

/-- A low-word read of a register that is no low word. -/
theorem test_wf_lowWordRead : (Instr.lowWordRead .host 1).wf = false := by decide +kernel

/-- A high-word read of a register that is no high word. -/
theorem test_wf_highWordRead : (Instr.highWordRead .host 1).wf = false := by decide +kernel

/-- A low-word write of a register that is no low word. -/
theorem test_wf_lowWordWrite : (Instr.lowWordWrite .host 1 0).wf = false := by decide +kernel

/-- A high-word write of a register that is no high word. -/
theorem test_wf_highWordWrite : (Instr.highWordWrite .host 1 0).wf = false := by decide +kernel

/-- A read of four aligned bytes is no access of another width. -/
theorem test_wf_badWidthRead : (Instr.badWidthAccess .host 8 4 none).wf = false := by decide +kernel

/-- A write of four aligned bytes is no access of another width. -/
theorem test_wf_badWidthWrite : (Instr.badWidthAccess .host 8 0 (some (List.replicate 4 none))).wf = false := by decide +kernel

/-- A write of the group map outside SYS_GROUP_SITE and SYS_GROUP_OWNED. -/
theorem test_wf_groupMapWrite : (Instr.groupMapWrite .host 0x128 0).wf = false := by decide +kernel

/-- A grid write of the offset between TB_GRID_MODE and TB_GRID_ANCHOR. -/
theorem test_wf_gridWrite : (Instr.gridWrite .host 0x74 0).wf = false := by decide +kernel

/-- A write of a timing table at an offset that is neither a waveset nor a timeset. -/
theorem test_wf_timingTableWrite : (Instr.timingTableWrite .host 0 0x500 0).wf = false := by decide +kernel

/-- A save with the bytes of one slot missing. -/
theorem test_wf_almanacSave : (Instr.almanacSave [] []).wf = false := by decide +kernel

/-- A load with the bytes of one slot missing. -/
theorem test_wf_almanacLoad : (Instr.almanacLoad [] []).wf = false := by decide +kernel

/-- A read that runs past the end of on-chip memory. -/
theorem test_wf_portBRead : (Instr.portBAccess .host 0x3FFFFFF 2 none .ok []).wf = false := by decide +kernel

/-- A write that runs past the end of on-chip memory. -/
theorem test_wf_portBWrite : (Instr.portBAccess .host 0x3FFFFFF 0 (some [none, none]) .ok []).wf = false := by decide +kernel

/-- An alias write of no bytes. -/
theorem test_wf_aliasSetWrite : (Instr.aliasSetWrite .host 0 ⟨[], []⟩).wf = false := by decide +kernel

/-- An alias write that runs past the end of on-chip memory. -/
theorem test_wf_aliasClearWrite : (Instr.aliasClearWrite .host 0x3FFFFFF ⟨[none, none], []⟩).wf = false := by decide +kernel

/-- A write that meets a port A write of the secure region. -/
theorem test_wf_portASecure : (Instr.portBAccess .host 0 0 (some [none]) .ok [(0xF00000, 0)]).wf = false := by decide +kernel

/-- An alias write that meets two port A writes of one word. -/
theorem test_wf_portATwice : (Instr.aliasSetWrite .host 0 ⟨[none], [(0, 0), (0, 1)]⟩).wf = false := by decide +kernel

/-- A read that meets a port A write. -/
theorem test_wf_portARead : (Instr.portBAccess .host 0 1 none .ok [(0, 0)]).wf = false := by decide +kernel

/-- An octant's end of warming that tells the voltage of one of the two pins it names. -/
theorem test_wf_octantOnDone : (Instr.octantOnDone 0 [3, 4] [0]).wf = false := by decide +kernel

/-- A copy of a number of bytes that is no multiple of four. -/
theorem test_wf_dmaCopy : (Instr.dmaCopy 0 3 ⟨none, []⟩).wf = false := by decide +kernel

/-- A fill of a number of bytes that is no multiple of four. -/
theorem test_wf_dmaFill : (Instr.dmaFill 0 6 ⟨none, []⟩).wf = false := by decide +kernel

/-- A configuration read beyond configuration space. -/
theorem test_wf_configRead : (Instr.configRequest (.read 4096)).wf = false := by decide +kernel

/-- A configuration write that is not of a word. -/
theorem test_wf_configWrite : (Instr.configRequest (.write 2 0)).wf = false := by decide +kernel

/-- A host read of a BAR that the device does not have. -/
theorem test_wf_hostRead : (Instr.hostRequest (.read 1 0 4)).wf = false := by decide +kernel

/-- A host write that runs past the end of BAR0. -/
theorem test_wf_hostWrite : (Instr.hostRequest (.write 0 0xFFFFFFF [none, none])).wf = false := by decide +kernel

/-- A flash identification without whole headers. -/
theorem test_wf_flashIdDone : (Instr.flashIdDone none [] []).wf = false := by decide +kernel

/-- An access of the debug port that is a peer's. -/
theorem test_wf_debugAccess : (Instr.debugAccess (.peer 0 0 none)).wf = false := by decide +kernel

/-- The commands of these rows with operands that meet the checks are well formed. -/
theorem test_wf_accepts :
    (Instr.lowWordRead .host (0xA0068 / 4)).wf = true ∧ (Instr.badWidthAccess .host 8 2 none).wf = true ∧ (Instr.groupMapWrite .host 0x124 0).wf = true ∧
      (Instr.gridWrite .host 0x70 0).wf = true ∧ (Instr.timingTableWrite .host 0 0x1FFC 0).wf = true ∧
      (Instr.portBAccess .host 0x3FFFFFF 1 none .ok []).wf = true ∧ (Instr.dmaCopy 0 4 ⟨none, [(0xEFFFFF, 1)]⟩).wf = true ∧
      (Instr.configRequest (.read 4092)).wf = true ∧ (Instr.hostRequest (.read 2 0x3FFFFFFC 4)).wf = true := by
  decide +kernel

/-! The queue, time, and what every command keeps. -/

/-- StepRunsFront: a command in front of another, and an empty queue. -/
theorem witness_StepRunsFront :
    ({ State.reset with pending := [.standby, .wake] } : State).pending = [.standby, .wake] ∧ State.reset.pending = [] := by
  decide +kernel

/-- StepKeepsGood: the state after reset is good and a step of it answers. -/
theorem witness_StepKeepsGood : State.reset.good = true ∧ step State.reset = .next { State.reset with now := State.reset.now + 1250 } :=
  ⟨by decide +kernel, rfl⟩

/-- CommandsKeepHistory: a command that answers, in a state whose counts fit. -/
theorem witness_CommandsKeepHistory : exec (.nvmReset 0) State.reset = .next State.reset ∧ State.reset.nv.sound = true :=
  ⟨rfl, by decide +kernel⟩

/-- OnlySamplesStop: a command that is neither of the two. -/
theorem witness_OnlySamplesStop : (∀ mv, Instr.standby ≠ .supplySample mv) ∧ ∀ temp, Instr.standby ≠ .tempSample temp :=
  ⟨fun _ h => Instr.noConfusion h, fun _ h => Instr.noConfusion h⟩

/-! Reset, identity, the audit log. -/

/-- FullResets: the shortest pulse that resets, a shorter one, NVM_RESET with and without its key, debug closed and open, and EXTEST. -/
theorem witness_FullResets :
    (1000 ≤ 1000 ∧ State.reset.heldReset = false) ∧ 499 < 500 ∧
      (fieldGet 0 1 0x5EB00001 = 1 ∧ fieldGet 16 16 0x5EB00001 = 0x5EB0) ∧ fieldGet 0 1 0x5EB00000 ≠ 1 ∧
      (State.reset.debugOk = true ∧ State.reset.heldReset = false) ∧
      ({ State.reset with nv := { KeyStore.reset with lc := .owned } } : State).debugOk = false ∧
      ({ State.reset with pwr := { PwrState.reset with extest := true } } : State).pwr.extest = true := by
  decide +kernel

/-- KeysAndTokens: each clause, for the host in BLANK and for the debug port in OWNED. -/
theorem witness_KeysAndTokens :
    (let s := State.reset;
      s.secWriteAllowed .host = true ∧ s.nv.lc = .blank ∧ s.nv.identity = none ∧ s.get SEC_STATUS_STATE = 0) ∧
      (let s : State := { State.reset with nv := { KeyStore.reset with identity := some 0 } };
        s.secWriteAllowed .host = true ∧ s.nv.identity ≠ none) ∧
      ({ State.reset with sec := { SecState.reset with keygen := true } } : State).sec.keygen = true ∧
      (let s : State := { regsOf [(SEC_TOKEN_BASE, ocmBase)] with sec := { SecState.reset with nonceUsed := false } };
        s.secWriteAllowed .host = true ∧ s.get SEC_STATUS_STATE = 0 ∧ inOcm s.tokenBase 0x100 = true ∧ s.sec.nonceUsed = false) ∧
      (let s := regsOf [(SEC_STATUS_STATE, 1)];
        s.secWriteAllowed .host = true ∧ s.get SEC_STATUS_STATE ≠ 0) ∧
      ({ State.reset with nv := { KeyStore.reset with lc := .owned } } : State).secWriteAllowed .dbg = false := by
  decide +kernel

/-- A token of a kind without a payload, signed with the private key 1 and k = 1: the hash of the key, of the empty payload, and the signature. -/
def tokenOf (kind nonce t : Nat) : List Byte :=
  leBytes 4 0x544C4E4F ++ leBytes 4 kind ++ leBytes 8 nonce ++ List.replicate 24 0 ++
    beBytes 48 0x9b816e622b2e1a95723958091bfa35d774110a7475ec59c9425e007a8a84e0ebaabef67249e6a0fe621ae4f4d30b0cc8 ++
    beBytes 48 0x38b060a751ac96384cd9327eb1b1e36a21fdb71114be07434c0cc7bf63f6e1da274edebfe76f65fbd51ad2f14898b95b ++
    beBytes 48 p384G.1 ++ beBytes 48 t ++ List.replicate 24 0

/-- Bytes as on-chip memory from an offset on. -/
def memOf (x : Nat) (bs : List Byte) : Sparse Byte := (bs.zipIdx.filter (fun e => decide (e.1 ≠ 0))).map (fun e => (x + e.2, e.1))

/-- A DEBUG_UNLOCK. -/
def tokenUnlock : List Byte :=
  tokenOf 5 17653 0x9369731323708b21ed2a7bdf4dab486f3f26849ee98890a6d22ff286ebfebe55b44ae9abf88719507d9da1ff09207dda

/-- A DECOMMISSION. -/
def tokenDecommission : List Byte :=
  tokenOf 4 18213 0x412d781fe89692ed2a0a316f7a1b8c010567319e8c42b075102ca9e657ede9a88373250ad54b3e84c7ff89b978db157e

/-- A device in OWNED whose owner key is the base point of the curve, checking bytes that stand at the start of on-chip memory. -/
def checkingState (nonce : Nat) (bs : List Byte) : State :=
  { State.reset with
    nv := { KeyStore.reset with lc := .owned, ownerKey := some p384G }
    mem := memOf 0 bs
    sec := { SecState.reset with checking := some ⟨nonce, ocmBase, bs, .host⟩ } }

/-- TokensTakeEffect: a DEBUG_UNLOCK signed by the root key that the check accepts. -/
theorem witness_TokensTakeEffect_unlock : (checkingState 17653 tokenUnlock).tokenResult 17653 tokenUnlock = 0 := by
  decide +kernel

/-- TokensTakeEffect: another token that the check accepts. -/
theorem witness_TokensTakeEffect_decommission : (checkingState 18213 tokenDecommission).tokenResult 18213 tokenDecommission = 0 := by
  decide +kernel

/-- TokensTakeEffect: a DEBUG_UNLOCK and another token that stand unchanged in memory, one that is refused, and an accepted token with the sites idle
and with one that is not. -/
theorem witness_TokensTakeEffect :
    (let s := checkingState 17653 tokenUnlock;
      s.sec.checking = some ⟨17653, ocmBase, tokenUnlock, .host⟩ ∧ s.getRegion (s.region ocmBase) tokenUnlock.length = tokenUnlock ∧
        leAt tokenUnlock 4 4 % 256 = 5) ∧
      (let s := checkingState 18213 tokenDecommission;
        s.getRegion (s.region ocmBase) tokenDecommission.length = tokenDecommission ∧ leAt tokenDecommission 4 4 % 256 ≠ 5) ∧
      (let s := checkingState 0 [];
        s.getRegion (s.region ocmBase) 0 = [] ∧ s.tokenResult 0 [] ≠ 0) ∧
      (∀ k, 1 ≤ k → k ≤ 4 →
        let s : State := { State.reset with sec := { SecState.reset with waiting := some ⟨k, [], .host⟩ } };
        s.sec.waiting = some ⟨k, [], .host⟩ ∧ s.allQuiet = true) ∧
      (let s : State := { regsOf [(SITE_SEQ_STATUS_STATE 0, 3)] with sec := { SecState.reset with waiting := some ⟨1, [], .host⟩ } };
        s.sec.waiting = some ⟨1, [], .host⟩ ∧ s.allQuiet = false) := by
  refine ⟨by decide +kernel, by decide +kernel, by decide +kernel, fun k _ _ => ⟨rfl, ?_⟩, by decide +kernel⟩
  have h : State.reset.allQuiet = true := by decide +kernel
  exact h

/-- TamperDropsOwnership: tamper detection enabled in OWNED, and disabled. -/
theorem witness_TamperDropsOwnership :
    (let s : State := { regsOf [(SEC_CFG_TAMPER_EN, 1)] with nv := { KeyStore.reset with lc := .owned } };
      s.bit SEC_CFG_TAMPER_EN = true ∧ s.sec.tamperLow = false ∧ s.nv.lc = .owned) ∧
      (regsOf [(SEC_CFG_TAMPER_EN, 0)]).bit SEC_CFG_TAMPER_EN = false := by
  decide +kernel

/-- A device past the boot march with a ring of 256 bytes at the start of on-chip memory. -/
def auditState (a : AudState) : State :=
  { regsOf [(NVM_STATUS_STAGE, 3), (AUD_RING_BASE_LO_BASE, ocmBase), (AUD_RING_BASE_HI_BASE, 0), (AUD_RING_SIZE, 256), (AUD_CKPT_N, 0)] with
    aud := a }

/-- Checkpoints: a ring with room for just one checkpoint, a signature that is outstanding, and an origin that may not write. -/
theorem witness_Checkpoints :
    (let s := auditState { AudState.reset with used := 64 };
      s.audWriteAllowed .host = true ∧ s.aud.hold = [] ∧ s.audOpen = true ∧ 192 ≤ s.audSize - s.aud.used) ∧
      (auditState { AudState.reset with signing := [⟨ocmBase, 256, 0, none, []⟩] }).aud.signing = [⟨ocmBase, 256, 0, none, []⟩] ∧
      ({ State.reset with nv := { KeyStore.reset with lc := .owned } } : State).audWriteAllowed .dbg = false := by
  decide +kernel

/-- AuditRingMoves: an unlocked ring with nothing held and just room for the record of the change, whose SIZE changes. -/
theorem witness_AuditRingMoves :
    let s := auditState { AudState.reset with used := 224 };
    s.audWriteAllowed .host = true ∧ s.lockOf .host AUD_RING_SIZE.addr = 0 ∧ s.aud.hold = [] ∧ s.aud.lossOwed = 0 ∧ s.audOpen = true ∧
      32 ≤ s.audSize - s.aud.used ∧ s.get AUD_CKPT_N = 0 ∧ s.reg AUD_RING_SIZE.addr ≠ word (512 : DWord).toNat ∧
      s.lockOf .host AUD_RING_BASE_LO_BASE.addr = 0 ∧ s.lockOf .host AUD_RING_BASE_HI_BASE.addr = 0 ∧ s.audSize ≠ 0 := by
  decide +kernel

/-! The event queue, MSI-X, the mailbox, the host port and the DMA channels. -/

/-- A device with an event ring of four entries that passed its check, and one event raised. -/
def eventState (head tail : Nat) : State :=
  { regsOf [(EVT_CFG_EN, 1), (EVT_Q_BASE, ocmBase), (EVT_Q_SIZE, 4), (EVT_Q_HEAD, head), (EVT_Q_TAIL, tail)] with
    events := [⟨0x1001, 0, 0, 0⟩]
    host := { HostState.reset with evtOk := true } }

/-- EventQueue: a ring with one free entry, a full one in STOP mode, the enable changing to 1, and tail values at both sides of SIZE. -/
theorem witness_EventQueue :
    (let s := eventState 2 0;
      s.events = [⟨0x1001, 0, 0, 0⟩] ∧ (∀ i, i < 16 → s.level i ≠ 2) ∧ s.bit EVT_CFG_EN = true ∧ s.host.evtOk = true ∧ s.evtSize ≠ 0 ∧
        (s.get EVT_Q_HEAD + 1) % s.evtSize ≠ s.get EVT_Q_TAIL) ∧
      (let s := eventState 3 0;
        (∀ i, i < 16 → s.level i ≠ 2) ∧ s.bit EVT_CFG_EN = true ∧ s.host.evtOk = true ∧ s.evtSize ≠ 0 ∧
          (s.get EVT_Q_HEAD + 1) % s.evtSize = s.get EVT_Q_TAIL ∧ s.bit EVT_CFG_MODE = false) ∧
      (State.reset.bit EVT_CFG_EN = false ∧ fieldGet 0 1 1 = 1) ∧ fieldGet 0 16 3 < (eventState 0 0).evtSize ∧
      ((eventState 0 0).evtSize ≤ fieldGet 0 16 4 ∧ (eventState 0 0).evtSize ≠ 0) := by
  decide +kernel

/-- A device with MSI-X enabled, vector 63 owed, and its mask bit as given. -/
def vectorState (mask : Nat) : State :=
  { regsOf [(SYS_HOST_STATUS_LINK_UP, 1), (SYS_MSIX_CTRL_MASK 63, mask)] with host := { HostState.reset with msixEn := true, owed := [63] } }

/-- VectorsAndMailbox: a vector that is not owed, and the last one owed, with its message open and held back. -/
theorem witness_VectorsAndMailbox :
    (0 < 32 ∧ (vectorState 0).host.owed.contains (32 * 0 + 0) = false) ∧
      (31 < 32 ∧ (vectorState 0).host.owed.contains (32 * 1 + 31) = true ∧ (vectorState 0).msixOpen (32 * 1 + 31) = true) ∧
      ((vectorState 1).host.owed.contains (32 * 1 + 31) = true ∧ (vectorState 1).msixOpen (32 * 1 + 31) = false) ∧
      State.reset.bit EVT_MBOX_VEC_EN = false := by
  decide +kernel

/-- HostPort: a canonical state, the host record read or not, and the device before and after READY. -/
theorem witness_HostPort :
    State.reset.canon = true ∧
      (let s : State := { State.reset with host := { HostState.reset with ids := some (1, 2, 3) } };
        s.host.ids ≠ none ∧ s.get PWR_DOM_STATE_HOST = 0) ∧
      State.reset.host.ids = none ∧ (regsOf [(PWR_STATUS_DEV_STATE, 1)]).get PWR_STATUS_DEV_STATE = 1 ∧
      (let s : State := { regsOf [(PWR_STATUS_DEV_STATE, 2)] with host := { HostState.reset with ids := some (1, 2, 3) } };
        s.get PWR_STATUS_DEV_STATE ≠ 1 ∧ s.host.ids = some (1, 2, 3)) := by
  decide +kernel

/-- A descriptor in progress. -/
def descAt (w0 length src dst done : Nat) : DmaDesc := ⟨0, 0, w0, 0, length, src, dst, 0x12345678, true, done, none, 0⟩

/-- A device whose channel 15 has a ring of one descriptor at the end of on-chip memory outside the secure region. -/
def channelState (en st : Nat) (cur : Option DmaDesc) : State :=
  { regsOf [(DMA_CH_CTRL_EN 15, en), (DMA_CH_STATUS_STATE 15, st), (DMA_CH_RING_BASE 15, ocmBase + 0x3C00000 - 32), (DMA_CH_RING_SIZE 15, 1)] with
    dma := { DmaState.reset with chans := [(15, ⟨.host, false, cur⟩)] } }

/-- DmaChannels: a good ring, one without a descriptor, a channel with and without a descriptor in progress, RUNNING and DISABLED. -/
theorem witness_DmaChannels :
    (let s := channelState 0 0 none;
      s.bit (DMA_CH_CTRL_EN 15) = false ∧ 1 ≤ s.chSize 15 ∧ inOcm (s.chBase 15) (32 * s.chSize 15) = true ∧ s.chSt 15 = 0) ∧
      (State.reset.bit (DMA_CH_CTRL_EN 15) = false ∧ State.reset.chSize 15 = 0) ∧
      (let s := channelState 1 2 none;
        s.bit (DMA_CH_CTRL_EN 15) = true ∧ (s.chan 15).cur = none ∧ s.chSt 15 = 2) ∧
      (let s := channelState 1 2 (some (descAt 1 4 0 0 0));
        s.bit (DMA_CH_CTRL_EN 15) = true ∧ (s.chan 15).cur = some (descAt 1 4 0 0 0) ∧ s.chSt 15 = 2) := by
  decide +kernel

/-! The bus. -/

/-- RegisterFields: SYS_HOST_CFG (RW), SEC_CFG (RWL, with and without its lock), SYS_HOST_STATUS (RO and W1C). -/
theorem witness_RegisterFields :
    (∀ k ∈ ([1, 2, 0x8001] : List Nat), 4 * k < 0x8000000 ∧ (lookupReg (4 * k)).map (fun d => d.pair) = some .single ∧
        actsOnWrite (4 * k) = false ∧ storeReg (4 * k) = false ∧ State.reset.regDenied .host (4 * k) true = false) ∧
      busFree State.reset .host ∧ (lookupReg 4).map (fun d => d.fields.any (fun f => decide (f.acc = .rw ∧ f.adj = .plain))) = some true ∧
      (lookupReg 8).map (fun d => d.fields.any (fun f => decide (f.acc = .ro)) && d.fields.any (fun f => decide (f.acc = .w1c))) = some true ∧
      (lookupReg 0x20004).map (fun d => d.fields.any (fun f => decide (f.acc = .rwl ∧ f.adj = .plain))) = some true ∧
      State.reset.lockOf .host 0x20004 = 0 ∧
      fieldGet 0 1 (({ State.reset with locks := [(0x20004, 1)] } : State).lockOf .host 0x20004) ≠ 0 :=
  ⟨by decide +kernel, ⟨rfl, rfl⟩, by decide +kernel, by decide +kernel, by decide +kernel, by decide +kernel, by decide +kernel⟩

/-- PairReads: both words of RED_DUMP_ADDR. -/
theorem witness_PairReads :
    busFree State.reset .host ∧ 4 * 0x2801A < 0x8000000 ∧ (lookupReg (4 * 0x2801A)).map (fun d => d.pair) = some .low ∧
      (lookupReg (4 * 0x2801B)).map (fun d => d.pair) = some .high ∧
      (∀ k ∈ ([0x2801A, 0x2801B] : List Nat), State.reset.regDenied .host (4 * k) false = false ∧ 4 * k ≠ TB_MERIDIAN_LO_TICK_LO.addr ∧
        ∀ i, i < 16 → 4 * k ≠ 0x1000040 + 0x100000 * i) ∧ State.reset.latched .host (4 * 0x2801A) = none :=
  ⟨⟨rfl, rfl⟩, by decide +kernel, by decide +kernel, by decide +kernel, by decide +kernel, by decide +kernel⟩

/-- PairWrites: the low word of RED_DUMP_ADDR, and the high words of RED_DUMP_ADDR, IAT_MSG_ADDR and the fail log of site 15. -/
theorem witness_PairWrites :
    busFree State.reset .host ∧
      (∀ k ∈ ([0x2801A, 0x2801B, 0x3000D, 0x7C04E3] : List Nat), 4 * k < 0x8000000 ∧ State.reset.regDenied .host (4 * k) true = false) ∧
      (lookupReg (4 * 0x2801A)).map (fun d => d.pair) = some .low ∧ 4 * 0x2801B = RED_DUMP_ADDR_LO_ADDR.addr + 4 ∧
      4 * 0x3000D = IAT_MSG_ADDR_LO_ADDR.addr + 4 ∧ 4 * 0x7C04E3 = (SITE_FLOG_BASE_LO_BASE 15).addr + 4 :=
  ⟨⟨rfl, rfl⟩, by decide +kernel, by decide +kernel, by decide +kernel, by decide +kernel, by decide +kernel⟩

/-- BadWidths: an aligned access of two bytes, one of four bytes that is not aligned, an aligned word without its last byte, and the last entry of
the MSI-X table. -/
theorem witness_BadWidths :
    busFree State.reset .dbg ∧ msixPair 8 2 = false ∧ (2 ≠ 4 ∨ 8 % 4 ≠ 0) ∧ msixPair 9 4 = false ∧ (4 ≠ 4 ∨ 9 % 4 ≠ 0) ∧
      ([none, none] : List (Option Byte)).length = 2 ∧
      (none ∈ ([some 1, some 2, some 3, none] : List (Option Byte)) ∧ ([some 1, some 2, some 3, none] : List (Option Byte)).length = 4) ∧
      (0x8000 ≤ 0x83F8 ∧ 0x83F8 < 0x8400 ∧ 0x83F8 % 8 = 0 ∧ State.reset.latched .dbg 0x83F8 = none ∧ State.reset.latched .dbg (0x83F8 + 4) = none) :=
  ⟨⟨rfl, rfl⟩, by decide +kernel, by decide +kernel, by decide +kernel, by decide +kernel, by decide +kernel, by decide +kernel, by decide +kernel⟩

/-- Broadcasts: PIN_LVL word 0 of group 63 and of every pin. -/
theorem witness_Broadcasts :
    busFree State.reset .host ∧ (pinRegs.find? (fun d => d.covers (4 * 0x840))).map (fun d => d.pair) = some .single ∧
      (0x2100 ≤ 4 * 0x840 ∧ 4 * 0x840 < 0x4010) ∧ ∀ p, p < 512 → State.reset.octServed p ≠ .stall ∧ State.reset.inStep p = false :=
  ⟨⟨rfl, rfl⟩, by decide +kernel, by decide +kernel, by decide +kernel⟩

/-- The state after reset has plain memory, and every access of it outside the secure region is served at once. -/
theorem reset_memPlain : memPlain State.reset := memPlain_of_banks ⟨rfl, rfl, rfl⟩ (by decide +kernel)

/-- PortBMemory: the last bytes before the secure region, one access of four bytes and an empty one, and a site that uses a byte written. -/
theorem witness_PortBMemory :
    memPlain State.reset ∧ portBFree State.reset .dbg 0x3BFFFFC 4 ∧ portBFree State.reset .dbg 0x3BFFFFC 0 ∧ Origin.dbg ≠ .host := by
  refine ⟨reset_memPlain, portBFree_of_bytes ⟨rfl, rfl⟩ (by decide) (by decide +kernel), portBFree_of_bytes ⟨rfl, rfl⟩ (by decide) ?_, by decide⟩
  exact fun k h => absurd h (Nat.not_lt_zero k)

/-- A resident ACTIVE segment of 32 bytes at the start of on-chip memory. -/
def residentEntry : SegEntry := ⟨false, false, false, 0, 0, 4, 1, 0, 0, 0, ocmBase + 0x1000⟩

/-- A site with that segment, in a state. -/
def residentState (st : Nat) : State :=
  withSite 0 { Site.reset with segs := [(0, ⟨.active, residentEntry⟩)] } (regsOf [(SITE_SEQ_STATUS_STATE 0, st)])

/-- PortBMemory: the last byte of an ACTIVE segment is written, with its site in IDLE and in RUNNING. -/
theorem witness_PortBMemory_marks :
    (portBFree (residentState 0) .dbg 31 1 ∧ anyMeet [(ocmBase + 31, 1)] ((residentState 0).liveSpans 0) = true ∧ (residentState 0).idle 0 = true ∧
      memPlain (residentState 0)) ∧
      (portBFree (residentState 3) .dbg 31 1 ∧ anyMeet [(ocmBase + 31, 1)] ((residentState 3).liveSpans 0) = true ∧
        (residentState 3).idle 0 = false ∧ memPlain (residentState 3)) :=
  ⟨⟨portBFree_of_bytes ⟨rfl, rfl⟩ (by decide) (by decide +kernel), by decide +kernel, by decide +kernel,
      memPlain_of_banks ⟨rfl, rfl, rfl⟩ (by decide +kernel)⟩,
    ⟨portBFree_of_bytes ⟨rfl, rfl⟩ (by decide) (by decide +kernel), by decide +kernel, by decide +kernel,
      memPlain_of_banks ⟨rfl, rfl, rfl⟩ (by decide +kernel)⟩⟩

/-- A device with its link up, in a device state. -/
def linkedState (dev : Nat) : State := regsOf [(SYS_HOST_STATUS_LINK_UP, 1), (PWR_STATUS_DEV_STATE, dev)]

/-- HostAndDebug: an access at the end of each window, a refused device, a read of on-chip memory, debug open and closed, and a read that stalls. -/
theorem witness_HostAndDebug :
    ((linkedState 2).heldReset = false ∧ (linkedState 2).bit SYS_HOST_STATUS_LINK_UP = true ∧ (linkedState 2).barRefused = false ∧
      barWindow 0 = some (0, 0x10000000) ∧ 0xFFFFFFC + 4 ≤ 0x10000000 ∧ barWindow 2 = some (0x40000000, 0x40000000) ∧
      0x3FFFFFFC + 4 ≤ 0x40000000 ∧ barWindow 4 = some (dramBase, 0x1000000000)) ∧
      memPlain (linkedState 2) ∧ portBFree (linkedState 2) .host 0x3BFFFFC 4 ∧
      ((linkedState 1).heldReset = false ∧ (linkedState 1).bit SYS_HOST_STATUS_LINK_UP = true ∧ (linkedState 1).barRefused = true) ∧
      State.reset.debugOk = true ∧ ({ State.reset with nv := { KeyStore.reset with lc := .owned } } : State).debugOk = false ∧
      ({ State.reset with host := { HostState.reset with waiting := [⟨.host, .bus (.get 0x10 4), 0⟩] } } : State).host.waiting = [⟨.host, .bus (.get 0x10 4), 0⟩] :=
  ⟨by decide +kernel, memPlain_of_banks ⟨rfl, rfl, rfl⟩ (by decide +kernel), portBFree_of_bytes ⟨rfl, rfl⟩ (by decide) (by decide +kernel),
    by decide +kernel, by decide +kernel, by decide +kernel, rfl⟩

/-! Sites and groups, DMA data, messages. -/

/-- A device whose group 0 is owned by site 0, which is RUNNING. -/
def ownedState : State := regsOf [(SYS_GROUP_OWNED 0, 1), (SITE_SEQ_STATUS_STATE 0, 3)]

/-- SiteMaps: every group may change while the sites are IDLE; one of a running site may not, a running site keeps its level, and a
running flow leaves service level. -/
theorem witness_SiteMaps :
    (∀ n, n < 8 → State.reset.lockOf .host (0x100 + 4 * n) = 0 ∧
        ∀ k, k < 8 → State.reset.mapAllowed (8 * n + k) (State.reset.newSiteOwner (8 * n + k) (fieldGet (4 * k) 4 0xFFFFFFFF)) = true) ∧
      (ownedState.lockOf .host 0x100 = 0 ∧ ownedState.mapAllowed (8 * 0 + 0) (ownedState.newSiteOwner (8 * 0 + 0) (fieldGet 0 4 1)) = false ∧
        ownedState.get (SYS_GROUP_SITE_SITE_G 0 0) ≠ fieldGet (4 * 0) 4 1) ∧
      (∀ n, n < 2 → State.reset.lockOf .host (0x120 + 4 * n) = 0) ∧
      (ownedState.lockOf .host 0x128 = 0 ∧ fieldGet (2 * 0) 2 1 ≠ 3 ∧ ownedState.idle 0 = false ∧ ownedState.level 0 ≠ fieldGet (2 * 0) 2 1 ∧
        ownedState.idle 15 = true) ∧
      (let s := regsOf [(SYS_SITE_LEVEL_LEVEL_S 15, 2), (SVC_STAT_STATE 15, 1)];
        s.lockOf .host 0x128 = 0 ∧ fieldGet (2 * 15) 2 0 ≠ 3 ∧ s.idle 15 = true ∧ fieldGet (2 * 15) 2 0 ≠ 2 ∧ s.flowSt 15 ≠ 5) := by
  decide +kernel

/-- That state of channel 15, RUNNING, with a first byte of its descriptor. -/
def descState (b : Byte) (cur : Option DmaDesc) : State := { channelState 1 2 cur with mem := if b = 0 then [] else [(0x3BFFFE0, b)] }

theorem descState_plain (b : Byte) (cur : Option DmaDesc) : memPlain (descState b cur) :=
  memPlain_of_banks ⟨rfl, rfl, rfl⟩ (by
    have h : ∀ k, k < 64 → (channelState 1 2 none).phys k = k := by decide +kernel
    exact h)

/-- DmaData: a descriptor that is not owned, and an owned one that the first mover picks. -/
theorem witness_DmaData_read :
    memPlain (descState 0 none) ∧ memPlain (descState 1 none) ∧ (descState 0 none).heldReset = false ∧
      (∀ b ∈ ([0, 1] : List Byte), (descState b none).chSt 15 = 2 ∧ ((descState b none).chan 15).cur = none ∧
        (descState b none).region ((descState b none).descAddr 15 ((descState b none).get (DMA_CH_POS 15))) = .ocm 0x3BFFFE0 ∧
        (descState b none).rangeServed (.ocm 0x3BFFFE0) 4 = .ok) ∧
      bitOf ((descState 0 none).descNow 15).w0 0 = false ∧ bitOf ((descState 1 none).descNow 15).w0 0 = true ∧
      ((descState 1 none).updChan 15 (fun c => { c with rung := false })).freeMover = some 0 ∧
      ((descState 1 none).updChan 15 (fun c => { c with rung := false })).moverPick 0 = some 15 :=
  ⟨descState_plain _ _, descState_plain _ _, by decide +kernel, by decide +kernel, by decide +kernel, by decide +kernel, by decide +kernel,
    by decide +kernel⟩

/-- A FILL and a COPY of eight bytes, four of them done, and one that is done. -/
def fillDesc : DmaDesc := descAt 5 8 0 (ocmBase + 0x100) 4
def copyDesc : DmaDesc := descAt 1 8 ocmBase (ocmBase + 0x100) 4
def doneDesc : DmaDesc := descAt 3 8 ocmBase (ocmBase + 0x100) 8

/-- DmaData: the last part of a FILL and of a COPY, and a descriptor whose bytes are all written. -/
theorem witness_DmaData_move :
    (∀ d ∈ [fillDesc, copyDesc], ((descState 0 (some d)).chan 15).cur = some d ∧ d.checked = true ∧ d.status = none ∧
        (descState 0 (some d)).dmaWaits 15 = false ∧ 0 < (4 : Word).toNat ∧
        (4 : Word).toNat % 4 = 0 ∧ d.part (4 : Word).toNat = (4 : Word).toNat ∧ d.dst + d.done = ocmBase + 0x104 ∧ 0x104 % 4 = 0) ∧
      portBFree (descState 0 (some fillDesc)) .host 0x104 4 ∧ fillDesc.op = 1 ∧
      portBFree (descState 0 (some copyDesc)) .host 0x104 4 ∧ copyDesc.op = 0 ∧ copyDesc.overlaps = false ∧ copyDesc.src + copyDesc.done = ocmBase + 4 ∧
      portBFree (descState 0 (some copyDesc)) .host 4 4 ∧
      (let s := descState 0 (some doneDesc);
        (s.chan 15).cur = some doneDesc ∧ (s.chan 15).origin = .host ∧ doneDesc.checked = true ∧ doneDesc.status = none ∧
          doneDesc.done = doneDesc.length ∧ s.dma.publishes = [] ∧ s.chSt 15 = 2 ∧ s.bit (DMA_CH_CTRL_EN 15) = true ∧ bitOf doneDesc.w0 1 = true) :=
  ⟨by decide +kernel, portBFree_of_bytes ⟨rfl, rfl⟩ (by decide) (by decide +kernel), by decide +kernel,
    portBFree_of_bytes ⟨rfl, rfl⟩ (by decide) (by decide +kernel), by decide +kernel, by decide +kernel, by decide +kernel,
    portBFree_of_bytes ⟨rfl, rfl⟩ (by decide) (by decide +kernel), by decide +kernel⟩

/-- A device with port 5 as given. -/
def linkState (l : List (Fld × Nat)) (q : LinkPort) : State := { regsOf l with iat := { IatState.reset with ports := [(5, q)] } }

/-- What a peer with an address range announces. -/
def helloOf (use depth : Nat) : Hello := ⟨7, 0, depth, use, 7, 9⟩

/-- Messages: a message down the tree, one outstanding, one received, its response, and its timeout. -/
theorem witness_Messages :
    (let s := linkState [(IAT_PORT_CFG_ROLE 5, 1), (IAT_PORT_STAT_STATE 5, 2), (IAT_CFG_ADDR, 3)] { LinkPort.reset with hello := some (helloOf 1 1) };
      fieldGet 17 1 0x20009 = 1 ∧ s.get IAT_MSG_STAT_STATE ≠ 1 ∧ fieldGet 0 14 0x20009 ≠ s.get IAT_CFG_ADDR ∧
        s.routeDown (fieldGet 0 14 0x20009) = some 5) ∧
      (let s : State := { regsOf [(IAT_PORT_STAT_STATE 5, 2), (IAT_CFG_ADDR, 3), (IAT_MSG_STAT_STATE, 1)] with
          iat := { IatState.reset with msgDest := 9 } };
        s.get IAT_MSG_STAT_STATE = 1 ∧ s.portUp 5 = true ∧ (⟨.ok, 0, 9, 3, 0⟩ : Rx).check = .ok ∧ (⟨.ok, 0, 9, 3, 0⟩ : Rx).seq.toNat = (s.port 5).expect ∧
          (⟨.ok, 0, 9, 3, 0⟩ : Rx).dest.toNat = s.get IAT_CFG_ADDR ∧ s.iat.msgDest = (⟨.ok, 0, 9, 3, 0⟩ : Rx).src.toNat) := by
  decide +kernel

/-! The Constellation. -/

/-- Nobody waits in a device where no site is ARMED and no flow has run. -/
theorem nobodyWaits_of {s : State} (h : ∀ i, i < 16 → s.siteSt i ≠ stArmed) (hs : s.svc = SvcState.reset) : nobodyWaits s := by
  intro i hi
  refine ⟨h i hi, fun w k => ?_⟩
  have hf : s.flow i = FlowState.reset := by simp [State.flow, hs, SvcState.reset, Sparse.get]
  simp [State.flowWaits, hf, FlowState.reset]

/-- A frame that passes the checks, with SEQ, SRC, DEST and ACK 0. -/
def rxOk : Rx := ⟨.ok, 0, 0, 0, 0⟩

/-- A frame that waits for its acknowledgement. -/
def sentFrame (replays : Nat) : Sent := ⟨⟨ftEvent, 1, 0, 0, 0, [0]⟩, 0, replays⟩

/-- A device with port 5 UP. -/
def upState (q : LinkPort) : State := linkState [(IAT_PORT_STAT_STATE 5, 2)] q

/-- LinkFrames: a frame of every type on a port that is UP, a probe under way for just 1 µs, a frame with two replays, and a CRC error. -/
theorem witness_LinkFrames :
    (∀ type ∈ [ftIdle, ftProbe, ftProbeReply, ftNak, ftHello], arrives (upState LinkPort.reset) 5 rxOk type) ∧
      (let s : State := { upState { LinkPort.reset with probes := [(4, 0)] } with now := us };
        ((s.port 5).probes.filter (fun q => decide (s.now ≤ q.2 + us))).find? (fun q => decide (q.1 = (4 : Word).toNat)) = some (4, 0)) ∧
      (∀ y ∈ ackFrames (0 : BitVec 12).toNat ((upState { LinkPort.reset with unacked := [sentFrame 2] }).port 5).unacked, y.replays < 3) ∧
      ((upState LinkPort.reset).portUp 5 = true ∧ (⟨.crc, 0, 0, 0, 0⟩ : Rx).check = .crc) := by
  refine ⟨?_, by decide +kernel, by decide +kernel, by decide +kernel⟩
  have h : (upState LinkPort.reset).portUp 5 = true ∧ rxOk.check = .ok ∧ rxOk.seq.toNat = ((upState LinkPort.reset).port 5).expect := by decide +kernel
  exact fun _ _ => ⟨h.1, h.2.1, fun _ => h.2.2⟩

/-- LinkStates: a port that comes up, one that is qualified as the parent of a device at the greatest depth, and one that is lost. -/
theorem witness_LinkStates :
    (let s := linkState [(IAT_PORT_CFG_ROLE 5, 1)] LinkPort.reset;
      s.role 5 ≠ 0 ∧ s.portUp 5 = false ∧ s.get PWR_DOM_STATE_LINK = 0) ∧
      (let s := linkState [(IAT_PORT_CFG_ROLE 5, 2), (IAT_PORT_STAT_STATE 5, 2), (IAT_STATUS_PARENT, 7)]
          { LinkPort.reset with hello := some (helloOf 0 7) };
        s.portUp 5 = true ∧ s.bit (IAT_PORT_STAT_QUALIFIED 5) = false ∧ s.parent = none ∧ s.role 5 = 2 ∧ (∀ q, q < 6 → s.role q = 2 → q = 5) ∧
          (s.port 5).hello = some (helloOf 0 7) ∧ (helloOf 0 7).depth ≤ 7) := by
  decide +kernel

/-- LinkTimers: a port that is UP with one frame that has been sent again twice. -/
theorem witness_LinkTimers :
    (upState LinkPort.reset).portUp 5 = true ∧ ((upState { LinkPort.reset with unacked := [sentFrame 2] }).port 5).unacked = [sentFrame 2] ∧
      (sentFrame 2).replays < 3 := by
  decide +kernel

/-- The state with port 5 as the active parent. -/
def childState (l : List (Fld × Nat)) : State := linkState (l ++ [(IAT_PORT_STAT_STATE 5, 3), (IAT_PORT_CFG_ROLE 5, 2), (IAT_STATUS_PARENT, 5)]) LinkPort.reset

/-- No frame has acted yet in a device where none is noted. -/
theorem notWith_of {s : State} (h : s.iat.together = none) (t apply : Nat) : notWith s t apply := fun m hm => by rw [h] at hm; cases hm

/-- ConstellationEvents: the frames from the only active link, events of a device alone, and an event that waits for its tick. -/
theorem witness_ConstellationEvents :
    (nobodyWaits (childState []) ∧ arrives (childState []) 5 rxOk ftEvtState ∧ arrives (childState []) 5 rxOk ftEvent ∧
      (2 : Word).toNat.testBit 0 = false ∧ (childState []).activeLinks.filter (fun q => decide (q ≠ 5)) = [] ∧
      (childState []).iat.together = none ∧ notWith (childState []) (childState []).now 0 ∧ (childState []).tick < (1 : DWord).toNat) ∧
      (let s := regsOf [(IAT_STATUS_PARENT, 7)];
        (2 : Word) ≠ 0 ∧ nobodyWaits s ∧ s.activeLinks = [] ∧ s.bit IAT_CFG_EVT_ALIGN = false ∧ notWith s s.now 0) ∧
      (let s : State := { State.reset with iat := { IatState.reset with applies := [⟨5, 2, 0⟩] } };
        s.iat.applies = [⟨5, 2, 0⟩] ∧ nobodyWaits s ∧ notWith s (max s.now (s.ofMer (5 * tickLsb))) 5 ∧ (⟨5, 2, 0⟩ : EvtApply).set.testBit 0 = false) := by
  have h : (childState []).portUp 5 = true ∧ rxOk.check = .ok ∧ rxOk.seq.toNat = ((childState []).port 5).expect := by decide +kernel
  exact ⟨⟨nobodyWaits_of (by decide +kernel) rfl, ⟨h.1, h.2.1, fun _ => h.2.2⟩, ⟨h.1, h.2.1, fun _ => h.2.2⟩, by decide +kernel, by decide +kernel, rfl,
      notWith_of rfl _ _, by decide +kernel⟩,
    ⟨by decide, nobodyWaits_of (by decide +kernel) rfl, by decide +kernel, by decide +kernel, notWith_of rfl _ _⟩,
    ⟨rfl, nobodyWaits_of (by decide +kernel) rfl, notWith_of rfl _ _, by decide +kernel⟩⟩

/-- ConstellationEvents: a frame of the instant of one that has set bit 2. -/
theorem witness_ConstellationEvents_together :
    let m : EvtMoment := ⟨0, 0, 0, 0, 4⟩
    let s : State := { childState [] with iat := { (childState []).iat with together := some m } }
    nobodyWaits s ∧ arrives s 5 rxOk ftEvent ∧ (∀ k, s.iat.together = some k → k.set.testBit 0 = false) ∧ s.iat.together = some m ∧ m.at_ = s.now ∧
      s.activeLinks.filter (fun q => decide (q ≠ 5)) = [] := by
  intro m s
  have h : s.portUp 5 = true ∧ rxOk.check = .ok ∧ rxOk.seq.toNat = (s.port 5).expect := by decide +kernel
  exact ⟨nobodyWaits_of (by decide +kernel) rfl, ⟨h.1, h.2.1, fun _ => h.2.2⟩, fun k hk => by cases hk; exact (by decide : Nat.testBit 4 0 = false), rfl, by decide +kernel, by decide +kernel⟩

/-- ConstellationEpochs: an EPOCH frame just in time and one just late, Iatipin as the epoch source, and a root after its first lock. -/
theorem witness_ConstellationEpochs :
    (arrives (childState [(TB_EPOCH_CFG_SOURCE, 2)]) 5 rxOk ftEpoch ∧ (childState [(TB_EPOCH_CFG_SOURCE, 2)]).parent = some 5 ∧
      (let s := childState [(TB_EPOCH_CFG_SOURCE, 2)];
        (s.now + 100 * ns : Int) ≤ s.now + bitsOf (400000 : DWord).toNat 0 32 - signedOf 32 (s.get (IAT_PORT_LAT 5)) ∧ s.children = [] ∧
          s.now + bitsOf (399999 : DWord).toNat 0 32 - signedOf 32 (s.get (IAT_PORT_LAT 5)) < (s.now + 100 * ns : Int))) ∧
      (let s : State := { regsOf [(IAT_STATUS_ROOT, 1), (IAT_CFG_ROOT_SRC, 0)] with tb := { TbState.reset with zero := some 0 } };
        s.bit IAT_STATUS_ROOT = true ∧ s.get IAT_CFG_ROOT_SRC = 0 ∧ s.tb.zero.isSome = true) := by
  have h : (childState [(TB_EPOCH_CFG_SOURCE, 2)]).portUp 5 = true ∧ rxOk.check = .ok ∧
      rxOk.seq.toNat = ((childState [(TB_EPOCH_CFG_SOURCE, 2)]).port 5).expect := by decide +kernel
  exact ⟨⟨⟨h.1, h.2.1, fun _ => h.2.2⟩, by decide +kernel⟩, by decide +kernel⟩

/-! The boot sequence, the image, amendments. -/

/-- Registers of a device with no audit ring, at a stage of its boot. -/
def bootRegs (stage : Nat) (l : List (Fld × Nat)) : State := regsOf ([(NVM_STATUS_STAGE, stage), (AUD_RING_SIZE, 0), (NVM_FLASH_INFO_SIZE, 64)] ++ l)

/-- An unsigned Almanac slot of serial number 0 with no payload, and a SEQ. -/
def slotOf (seq : Nat) : List Byte := leBytes 4 0x4D4C4143 ++ leBytes 4 0x10001 ++ leBytes 4 seq ++ leBytes 4 25120 ++ List.replicate 112 0

/-- BootStages: the first lock with one input qualified, the march with four failing banks, the smallest flash, no flash, an Almanac of no valid slot
and of two, and the self-test. -/
theorem witness_BootStages :
    (let s : State := { bootRegs 1 [] with tb := { TbState.reset with refA := ⟨true, some 0, none⟩ } };
      s.heldReset = false ∧ s.get NVM_STATUS_STAGE ≤ 1 ∧ s.refChoice = some 0) ∧
      (let s := bootRegs 2 [];
        boots s 2 ∧ (([0, 63, 64, 67] : List (Fin 68)).map Fin.val).eraseDups.length ≤ 4 ∧ s.audPlaced = false) ∧
      (boots (bootRegs 3 []) 3 ∧ 64 ≤ (64 : Fin 65536).val) ∧
      (boots (bootRegs 7 []) 7 ∧ (bootRegs 7 []).almValid [] = false) ∧
      ((bootRegs 7 []).almValid (slotOf 1) = true ∧ (bootRegs 7 []).almValid (slotOf 2) = true ∧ almSeq (slotOf 1) < almSeq (slotOf 2)) ∧
      (boots (bootRegs 9 []) 9 ∧ (bootRegs 9 []).bit PWR_STATUS_TWILIGHT = false ∧ (∀ i, i < 16 → (bootRegs 9 []).level i ≠ 2) ∧
        (3 : Fin 4).val ≠ 0 ∧ (bootRegs 9 []).octOff (511 / 64) = false) := by
  simp only [boots]
  decide +kernel

/-- A header of an image or an amendment, unsigned: MAGIC, FORMAT, SEQ, LENGTH, COUNT, and the hash of the records. -/
def headerBytes (magic format seq : Nat) (recs : List Byte) (len count : Nat) : List Byte :=
  leBytes 4 magic ++ leBytes 4 format ++ leBytes 4 seq ++ leBytes 4 0 ++ leBytes 4 len ++ leBytes 4 count ++ List.replicate 64 0 ++ sha384 recs ++
    List.replicate 120 0

/-- The header of an image. -/
def imageHeader (recs : List Byte) (len count : Nat) : List Byte := headerBytes 0x49444E4F 0x10001 1 recs len count

/-- A device that is reading the primary copy of an image of a length. -/
def copyState (len : Nat) : State :=
  { bootRegs 4 [] with boot := { BootState.reset with headers := (imageHeader [] len 1, []) } }

/-- The plain memory of that state. -/
theorem copyState_plain (len : Nat) : memPlain (copyState len) :=
  memPlain_of_banks ⟨rfl, rfl, rfl⟩ (by
    have h : ∀ k, k < 64 → (bootRegs 4 []).phys k = k := by decide +kernel
    exact h)

/-- ImageRecords: a record of each kind that just fits the copy, a MEM and a FILL record just below the staging bank. -/
theorem witness_ImageRecords :
    copyAt (copyState 24) 24 ∧ (copyState 24).boot.staged = [] ∧ (copyState 24).boot.stagedLen = 0 ∧
      (copyAt (copyState 24) (16 + 8 * 1) ∧ (copyState 24).boot.stagedLen + (16 + 8 * 1) ≤ (copyState 24).stageCount * 0x100000) ∧
      (copyAt (copyState 16) (8 * ((19 + 4 * 1) / 8)) ∧
        (copyState 16).boot.stagedLen + 8 * ((19 + 4 * 1) / 8) ≤ (copyState 16).stageCount * 0x100000) ∧
      copyAt (copyState 16) 16 ∧
      (copyAt (copyState 24) (8 * ((27 + 4 * 1) / 8)) ∧ 0x3AFFFFC % 4 = 0 ∧ 0x3AFFFFC + 4 * 1 ≤ 59 * 0x100000 ∧ (copyState 24).stageCount = 1) ∧
      portBFree (copyState 24) .img 0x3AFFFFC (4 * 1) ∧ memPlain (copyState 24) ∧
      (copyAt (copyState 32) 32 ∧ (4 : Word).toNat % 4 = 0 ∧ 0x3AFFFFC + (4 : Word).toNat ≤ 59 * 0x100000 ∧ (copyState 32).stageCount = 1) ∧
      portBFree (copyState 32) .img 0x3AFFFFC (4 : Word).toNat ∧ memPlain (copyState 32) ∧
      (copyAt (copyState 48) 48 ∧ (List.replicate 8 (0 : Word)).length = 8 ∧ (copyState 48).boot.count = 0 ∧ (copyState 48).boot.dram = none ∧
        (copyState 48).get DRC_STATUS_STATE = 0 ∧ (copyState 48).audPlaced = false ∧
        drcCfgOk ((copyState 48).regWrite .img 0x70000 ((List.replicate 8 (0 : Word)).getD 0 0) |>.reg 0x70000) = true) := by
  simp only [copyAt]
  exact ⟨by decide +kernel, by decide +kernel, by decide +kernel, by decide +kernel, by decide +kernel, by decide +kernel, by decide +kernel,
    portBFree_of_bytes ⟨rfl, rfl⟩ (by decide) (by decide +kernel), copyState_plain _, by decide +kernel,
    portBFree_of_bytes ⟨rfl, rfl⟩ (by decide) (by decide +kernel), copyState_plain _, by decide +kernel⟩

/-- The record END. -/
def endBytes : List Byte := recordBytes 7 []

/-- A device in BLANK that has read a copy of an image that holds END alone. -/
def readState : State :=
  { bootRegs 4 [] with
    boot := { BootState.reset with headers := (imageHeader endBytes 16 1, []), bytes := endBytes, count := 1, ended := true } }

/-- ImageApplied: a good copy, a copy that has written nothing, and an image whose host record is staged. -/
theorem witness_ImageApplied :
    (boots readState 4 ∧ readState.hdrBad readState.header false = none ∧ readState.boot.bad = none ∧ readState.boot.ended = true ∧
      readState.boot.bytes.length = hdrLength readState.header ∧ readState.boot.count = hdrCount readState.header ∧
      readState.sigBad readState.header readState.boot.bytes = none ∧ readState.boot.wrote = [] ∧ readState.boot.wroteDram = false) ∧
      (let s : State := { bootRegs 6 [(NVM_STATUS_SOURCE, 0)] with boot := { BootState.reset with headers := (imageHeader endBytes 40 2, []), staged := [.host 1 2] } };
        (s.heldReset = false ∧ s.get NVM_STATUS_STAGE = 6) ∧ s.boot.staged = [.host 1 2] ∧ s.get NVM_STATUS_SOURCE = 0 ∧
          bitsOf (leAt s.boot.headers.1 0x24 4) 0 6 ≤ 1 ∧ s.audPlaced = false ∧ s.canon = true) := by
  exact ⟨⟨⟨by decide +kernel, by decide +kernel⟩, by decide +kernel⟩, by decide +kernel⟩

/-- An amendment that holds END alone, with a SEQ. -/
def amendmentBytes (seq : Nat) : List Byte := headerBytes 0x41444E4F 0x30001 seq endBytes 16 1 ++ endBytes

/-- A device with an amendment that stands at the start of on-chip memory. -/
def amendState (stage : Nat) (bs : List Byte) (a : Option Amendment) : State :=
  { bootRegs stage [(NVM_AMD_BASE, ocmBase), (NVM_AMD_SIZE, 65536)] with mem := memOf 0 bs, boot := { BootState.reset with amd := a } }

/-- Amendments: a submission outside and inside on-chip memory, a check that accepts and one that finds an old SEQ, one applied, one stored in an
empty area, and an entry that is applied or skipped at boot. -/
theorem witness_Amendments :
    (State.reset.boot.amd = none ∧ State.reset.amdBytes (State.reset.get NVM_AMD_BASE / 256 * 256) = []) ∧
      ((amendState 10 [] none).boot.amd = none ∧ inOcm ((amendState 10 [] none).get NVM_AMD_BASE / 256 * 256) 256 = true) ∧
      (let a : Amendment := ⟨ocmBase, amendmentBytes 1, .checking, false⟩;
        let s := amendState 10 (amendmentBytes 1) (some a);
        s.boot.amd = some a ∧ s.amdBytes a.base = a.bytes ∧ (s.amdResult a.bytes (s.get NVM_AMD_SEQ)).1 = 0) ∧
      (let a : Amendment := ⟨ocmBase, amendmentBytes 0, .checking, false⟩;
        let s := amendState 10 (amendmentBytes 0) (some a);
        s.boot.amd = some a ∧ s.amdBytes a.base = a.bytes ∧ (s.amdResult a.bytes (s.get NVM_AMD_SEQ)).1 = 0xA) ∧
      (let a : Amendment := ⟨ocmBase, amendmentBytes 1, .waiting, false⟩;
        let s := amendState 10 [] (some a);
        s.boot.amd = some a ∧ a.phase = .waiting ∧ s.amdQuiet a.bytes = true ∧ (amdRecords a.bytes).1 = [.end_] ∧ hdrPersist a.bytes = false) ∧
      (let a : Amendment := ⟨ocmBase, amendmentBytes 1, .storing, false⟩;
        let s := amendState 10 [] (some a);
        s.boot.amd = some a ∧ a.phase = .storing ∧ a.afterSave = false ∧ s.cal.saveWait = none ∧
          (usedLen (([] : List Byte).take (s.get NVM_AMD_SIZE / 65536 * 65536)) + 7) / 8 * 8 + (a.bytes.take (256 + hdrLength a.bytes)).length ≤
            s.get NVM_AMD_SIZE / 65536 * 65536) ∧
      (let s := amendState 7 [] none;
        (s.heldReset = false ∧ s.get NVM_STATUS_STAGE = 7) ∧ (s.amdResult (amendmentBytes 1) (s.get NVM_AMD_SEQ)).1 = 0 ∧
          (amdRecords (amendmentBytes 1)).1 = [.end_] ∧ (s.amdResult [] (s.get NVM_AMD_SEQ)).1 ≠ 0) := by
  decide +kernel

/-- Amendments: one behind an Almanac save that is still under way. -/
theorem witness_Amendments_behind :
    let a : Amendment := ⟨ocmBase, amendmentBytes 1, .storing, true⟩
    let s : State := { regsOf [(CAL_ALM_STAT_BUSY, 1)] with boot := { BootState.reset with amd := some a } }
    s.boot.amd = some a ∧ a.phase = .storing ∧ a.afterSave = true ∧ s.bit CAL_ALM_STAT_BUSY = true := by
  decide +kernel

/-! On-chip memory beyond its accesses. -/

/-- A device with no audit ring and a bank as given. -/
def bankState (b : Nat) (k : BankState) : State := { bootRegs 10 [] with memory := { MemState.reset with banks := [(b, k)] } }

/-- BanksAndTests: every field of a request, the last bank changing to Retain and to Off, waking and clearing, and a wipe. -/
theorem witness_BanksAndTests :
    ((bankState 63 BankState.reset).audPlaced = false ∧ (bankState 63 BankState.reset).host.waiting = [] ∧ (bankState 63 BankState.reset).memory.late = [] ∧
        (∀ k, k < 16 → ((bankState 63 BankState.reset).bank (16 * 3 + k)).power = .on) ∧ fieldGet (2 * 0) 2 0x93 = 3 ∧ fieldGet (2 * 1) 2 0x93 = 0 ∧
        fieldGet (2 * 2) 2 0x93 = 1 ∧ fieldGet (2 * 3) 2 0x93 = 2) ∧
      (∀ w ∈ [BankPower.retain, .off], ((bankState 63 ⟨.on, some w, none⟩).bank 63).wants = some w ∧
        (bankState 63 ⟨.on, some w, none⟩).dmaOnBank 63 = false ∧ (bankState 63 ⟨.on, some w, none⟩).portAHolds 63 = false ∧
        (bankState 63 ⟨.on, some w, none⟩).canon = true ∧ (bankState 63 ⟨.on, some w, none⟩).audPlaced = false) ∧
      (∀ w ∈ [BankPower.waking, .clearing], ((bankState 63 ⟨w, none, none⟩).bank 63).power = w ∧ ((bankState 63 ⟨w, none, none⟩).bank 63).held = none ∧
        (bankState 63 ⟨w, none, none⟩).canon = true) ∧
      ((bootRegs 10 [(MEM_STATUS_WIPING, 1)]).bit MEM_STATUS_WIPING = true ∧ (bootRegs 10 [(MEM_STATUS_WIPING, 1)]).canon = true) := by
  decide +kernel

/-- A device with the scrubber and the test enabled, and its memory unit as given. -/
def testState (z : MemState) : State := { regsOf [(MEM_CFG_SCRUB_EN, 1), (MEM_BIST_CFG_EN, 1)] with memory := z }

/-- BanksAndTests: the scrubber at the last word of memory, the test at its last bank, a copy, a march, a repair with and without a spare, and a wait. -/
theorem witness_BanksAndTests_units :
    (let s := testState { MemState.reset with scrubAt := 67 * 0x40000 + 0x3FFFF };
      s.bit MEM_CFG_SCRUB_EN = true ∧ s.scrubWord 69 s.memory.scrubAt = some (67 * 0x40000 + 0x3FFFF) ∧ s.memUe = []) ∧
      (let s := testState { MemState.reset with scrubAt := 63 * 0x40000 + 0x3FFFF };
        s.scrubWord 69 s.memory.scrubAt = some (63 * 0x40000 + 0x3FFFF) ∧ s.logical ((63 * 0x40000 + 0x3FFFF) / 0x40000) = some 63 ∧
          s.bit MEM_STATUS_CE = false) ∧
      (let s := testState { MemState.reset with bistNext := 63 };
        s.bit MEM_BIST_CFG_EN = true ∧ s.bistBusy = false ∧ s.memory.wait = none ∧
          (s.bistBanks.filter (fun k => decide (s.memory.bistNext ≤ k))).head? = some 63 ∧ s.spares = [64, 65, 66, 67]) ∧
      (let s := testState { MemState.reset with copies := [⟨63, 67, false⟩] };
        s.memory.copies = [⟨63, 67, false⟩] ∧ s.phys 63 ≠ 67 ∧ s.canon = true) ∧
      (let s := testState { MemState.reset with testing := some (63, 67) };
        s.memory.testing = some (63, 67) ∧ s.memory.repairs = []) ∧
      (State.reset.repairNew 63 = true ∧ State.reset.memory.wait = none ∧ State.reset.spares = [64, 65, 66, 67]) ∧
      (let s := regsOf [(MEM_RETIRED 2, 15)];
        s.repairNew 63 = true ∧ s.spares = []) ∧
      (let s := testState { MemState.reset with wait := some (0, 63) };
        s.memory.wait = some (0, 63) ∧ s.bit MEM_STATUS_NO_SPARE = false) := by
  decide +kernel

/-! The DRAM controller. -/

/-- A device with no audit ring, a state of the DRAM, and the controller as given. -/
def dramState (st : Nat) (l : List (Fld × Nat)) (d : DrcState) : State :=
  { regsOf ([(AUD_RING_SIZE, 0), (DRC_STATUS_STATE, st), (DRC_USABLE_LO_USABLE, 0xE0000000)] ++ l) with drc := d }

/-- DramPowerStates: On from Off, Retain and Off asked for and reached, the exit of self-refresh, and the last segment cleared. -/
theorem witness_DramPowerStates :
    (let s := dramState 0 [] DrcState.reset;
      s.audPlaced = false ∧ s.host.waiting = [] ∧ s.memory.late = [] ∧ s.get DRC_STATUS_STATE = 0 ∧ fieldGet 0 2 0 = 0 ∧ drcCfgOk (s.reg DRC_CFG_ORDER.addr) = true) ∧
      ((dramState 2 [] DrcState.reset).get DRC_STATUS_STATE = 2 ∧ fieldGet 0 2 1 = 1 ∧ fieldGet 0 2 2 = 2 ∧
        (dramState 2 [] DrcState.reset).audPlaced = false) ∧
      (∀ w ∈ [1, 2], let s := dramState 3 [(DRC_PWR_CTRL_PASR, 0x55)] { DrcState.reset with want := some w };
        s.audPlaced = false ∧ s.host.waiting = [] ∧ s.memory.late = [] ∧ s.get DRC_STATUS_STATE = 3 ∧ s.dmaOnDram = false ∧ (∀ i, i < 16 → s.readDram i = false) ∧ s.canon = true ∧
          s.drc.want = some w) ∧
      (let s := dramState 4 [] { DrcState.reset with want := some 0, retained := 0xFF };
        s.audPlaced = false ∧ s.host.waiting = [] ∧ s.memory.late = [] ∧ s.get DRC_STATUS_STATE = 4 ∧ s.drc.want = some 0 ∧ s.drc.retained ≤ 0xFF) ∧
      (let s := dramState 5 [(DRC_STATUS_CLEAR_SEG, 0xBF)] DrcState.reset;
        s.audPlaced = false ∧ s.host.waiting = [] ∧ s.memory.late = [] ∧ s.get DRC_STATUS_STATE = 5 ∧ nextClear (0xFF - s.get DRC_STATUS_CLEAR_SEG) = some 6 ∧ s.canon = true ∧
          s.get DRC_STATUS_CLEAR_SEG ||| 2 ^ 6 = 0xFF ∧ s.drc.want = none) := by
  decide +kernel

/-- A training of set point 3 with the last channel of four at a place. -/
def trainState (q : TrainPos) : State :=
  dramState 1 [(DRC_TRAIN_LIMIT_MIN_W, 1), (DRC_TRAIN_LIMIT_MIN_H, 1)] { DrcState.reset with train := some ⟨[3], .bringUp, [(3, q)], false⟩ }

/-- DramTraining: the last set point asked for, changed to with and without a training, trained step by step, and checked in service. -/
theorem witness_DramTraining :
    ((regsOf [(DRC_SP_EN 3, 1)]).bit (DRC_SP_EN 3) = true ∧ (regsOf [(DRC_SP_EN 3, 1)]).bit (DRC_SP_FAILED 3) = false) ∧
      (regsOf [(DRC_SP_EN 3, 0)]).bit (DRC_SP_EN 3) = false ∧
      (let s := dramState 2 [(DRC_CFG_IDLE_ONLY, 1)] { DrcState.reset with fspGo := some 3, refreshed := true };
        s.drc.fspGo = some 3 ∧ s.allIdle = true ∧ s.drc.refreshed = true ∧ s.drcServes = true) ∧
      (∀ b, b < 2 → let s := dramState 7 [(DRC_SP_TRAINED 3, b)] { DrcState.reset with fspNow := some 3 };
        s.audPlaced = false ∧ s.host.waiting = [] ∧ s.memory.late = [] ∧ s.drc.fspNow = some 3 ∧ s.drc.train = none ∧ s.drc.want = none ∧
          s.bit (DRC_SP_TRAINED 3) = decide (b = 1)) ∧
      ((dramState 2 [] DrcState.reset).drc.train = none ∧ (dramState 2 [] DrcState.reset).get DRC_STATUS_STATE = 2 ∧
        (dramState 2 [] DrcState.reset).drcServes = true) ∧
      (∀ q ∈ [(⟨0, 2, 0⟩ : TrainPos), ⟨0, 3, 0⟩, ⟨1, 3, 2⟩], let s := trainState q;
        s.audPlaced = false ∧ s.host.waiting = [] ∧ s.memory.late = [] ∧ 3 < s.channels ∧ s.drc.fspGo = none ∧
          s.drc.train.map (fun r => Sparse.get (fun _ => ⟨0, 0, 0⟩) r.pos 3) = some q ∧ q.lane < 2) ∧
      ((trainState ⟨0, 3, 0⟩).eyeOk 3 65535 65535 = true ∧
        ((trainState ⟨1, 3, 2⟩).eyeOk 3 0 65535 && (trainState ⟨1, 3, 2⟩).eyeOk 3 65535 65535) = false) := by
  decide +kernel

/-- DramService: one request for the last rank-bank, a refresh in each state that has one, a line to scrub, and the refresh rate. -/
theorem witness_DramService :
    (let s := dramState 2 [(DRC_CFG_SCRUB_EN, 1)] { DrcState.reset with queue := [⟨.stream, 15, 0, 0, 15, 31, 0⟩] };
      s.drcServes = true ∧ s.drc.queue = [⟨.stream, 15, 0, 0, 15, 31, 0⟩] ∧ s.drc.input = [] ∧ s.bit DRC_CFG_SCRUB_EN = true ∧ s.usable ≠ 0 ∧ s.dramUe = []) ∧
      (∀ st ∈ [2, 3, 5], (dramState st [] DrcState.reset).get DRC_STATUS_STATE = st) ∧
      (dramState 2 [] DrcState.reset).bit DRC_STATUS_REF_2X = false ∧
      (let s := dramState 2 [(DRC_STATUS_REF_2X, 1)] { DrcState.reset with calm := 3 };
        s.bit DRC_STATUS_REF_2X = true ∧ 3 ≤ s.drc.calm) ∧ ([15] : List (Fin 16)) ≠ [] := by
  decide +kernel

/-! Supplies, temperature, pace and power domains. -/

/-- Samples of every supply at its greatest. -/
def supplyTop : Vector (BitVec 13) 9 := #v[950, 950, 2100, 1000, 2100, 6000, 3000, 650, 1000]

/-- SuppliesAndAvs: good samples, supply 8 below WARN for the fourth time, and below RESET for the tenth. -/
theorem witness_SuppliesAndAvs_supplies :
    State.reset.heldReset = false ∧ (∀ i : Fin 9, supplyTop[i].toNat ≤ supplyMax i.val) ∧
      (∀ i : Fin 9, State.reset.get (PWR_SUP_CFG_WARN i.val) ≤ supplyTop[i].toNat ∧ State.reset.get (PWR_SUP_CFG_RESET i.val) ≤ supplyTop[i].toNat) ∧
      (let s : State := { regsOf [(PWR_SUP_CFG_WARN 8, 1001)] with pwr := { PwrState.reset with belowWarn := [(8, 3)] } };
        s.heldReset = false ∧ s.pwr.twilight = none ∧ supplyTop[(8 : Fin 9)].toNat < s.get (PWR_SUP_CFG_WARN 8) ∧
          3 ≤ Sparse.get (fun _ => 0) s.pwr.belowWarn 8 ∧ ∀ i : Fin 9, s.get (PWR_SUP_CFG_RESET i.val) ≤ supplyTop[i].toNat) ∧
      (let s : State := { regsOf [(PWR_SUP_CFG_RESET 8, 1001)] with pwr := { PwrState.reset with belowReset := [(8, 9)] } };
        s.heldReset = false ∧ supplyTop[(8 : Fin 9)].toNat < s.get (PWR_SUP_CFG_RESET 8) ∧ 9 ≤ Sparse.get (fun _ => 0) s.pwr.belowReset 8) := by
  decide +kernel

/-- Samples of every sensor at a temperature. -/
def tempAll (t : BitVec 8) : Vector (BitVec 8) 9 := #v[t, t, t, t, t, t, t, t, t]

/-- A device whose group 63 is owned by site 15, which is in a state. -/
def siteRegs (st : Nat) (l : List (Fld × Nat)) : State :=
  regsOf ([(SYS_GROUP_OWNED 1, 2 ^ 31), (SYS_GROUP_SITE_SITE_G 7 7, 15), (SITE_SEQ_STATUS_STATE 15, st)] ++ l)

/-- SuppliesAndAvs: a Twilight whose supplies are good, temperatures at both sides of 115 °C, a voltage that waits, and the pace of a running site. -/
theorem witness_SuppliesAndAvs :
    (let s : State := { State.reset with pwr := { PwrState.reset with twilight := some ⟨0, 0, some 0, 0⟩ } };
      s.heldReset = false ∧ s.pwr.twilight = some ⟨0, 0, some 0, 0⟩ ∧ (⟨0, 0, some 0, 0⟩ : Twilight).goodSince = some 0) ∧
      (let s := regsOf [(PWR_THERM_CFG_WARN, 115), (PWR_THERM_CFG_HOT, 115)];
        s.heldReset = false ∧ (∀ k : Fin 9, (tempAll 114)[k].toInt < s.get PWR_THERM_CFG_WARN ∧ (tempAll 114)[k].toInt < s.get PWR_THERM_CFG_HOT ∧
          (tempAll 114)[k].toInt < 115) ∧ ∀ k ∈ s.pwr.sampled, k < 9) ∧
      (115 ≤ (tempAll 115)[(8 : Fin 9)].toInt ∧ ∀ i : Fin 9, (tempAll 115)[i].toInt ≤ 125) ∧
      (let s : State := { State.reset with pwr := { PwrState.reset with avsWait := [0] } };
        s.heldReset = false ∧ s.pwr.avsWait = [0]) ∧
      (let s : State := { siteRegs 3 [(PWR_AVS_CFG_EN, 0)] with pwr := { PwrState.reset with fed := [(63, 7)], drawn := [(63, 7)] } };
        s.heldReset = false ∧ s.bit PWR_AVS_CFG_EN = false ∧ s.inBurst 15 = true ∧
          s.sitePace 15 (s.lanes ([((63 : Fin 64), 65536)].map (fun b => (b.1.val, b.2)))) = some (0, 63) ∧
          s.inBurst 0 = false) := by
  decide +kernel

/-- A device whose octants have a power state. -/
def octState (l : List (Fld × Nat)) (x : OctPower) : State :=
  { regsOf ((AUD_RING_SIZE, 0) :: l) with pwr := { PwrState.reset with octants := (List.range 8).map (fun k => (k, x)) } }

/-- OctantPower: every octant On and Off, pending, waking, and losing its heartbeat. -/
theorem witness_OctantPower :
    ((∀ k, k < 8 → State.reset.oct k = .on ∧ State.reset.bit (PWR_DOM_CTRL_OCT k) = false) ∧ fieldGet 8 1 0xFF = State.reset.get PWR_DOM_CTRL_HOST ∧
        fieldGet 9 1 0xFF = State.reset.get PWR_DOM_CTRL_LINK) ∧
      (let s := octState ((List.range 8).map (fun k => (PWR_DOM_CTRL_OCT k, 1))) .off;
        (∀ k, k < 8 → s.oct k = .off ∧ s.bit (PWR_DOM_CTRL_OCT k) = true) ∧ fieldGet 8 1 0x0F = s.get PWR_DOM_CTRL_HOST ∧
          fieldGet 9 1 0x0F = s.get PWR_DOM_CTRL_LINK) ∧
      (let s := octState [] .pendingOff;
        s.oct 7 = .pendingOff ∧ s.octHeld 7 = false) ∧
      (let s : State := { octState [] .on with pwr := { PwrState.reset with octants := [(7, .waking)] } };
        s.audPlaced = false ∧ s.host.waiting = [] ∧ s.memory.late = [] ∧ s.oct 7 = .waking ∧ s.octOffWanted 7 = false ∧ s.canon = true) ∧
      State.reset.octOff 7 = false := by
  decide +kernel

/-- A device in a device state and a stage of standby. -/
def standbyState (dev : Nat) (x : Standby) (l : List (Fld × Nat)) : State :=
  { regsOf ((PWR_STATUS_DEV_STATE, dev) :: l) with pwr := { PwrState.reset with standby := x } }

/-- StandbyModes: STANDBY with a site that runs, with all idle, refused; its entry, WAKE with an octant Off and a bank in Retain, and its exit. -/
theorem witness_StandbyModes :
    (let s := standbyState 2 .none [(SITE_SEQ_STATUS_STATE 15, 3)];
      s.get PWR_STATUS_DEV_STATE = 2 ∧ s.pwr.standby = .none ∧ s.allQuiet = false) ∧
      (let s := standbyState 2 .none [(PWR_STBY_CFG_OCT_OFF, 0x80)];
        s.get PWR_STATUS_DEV_STATE = 2 ∧ s.pwr.standby = .none ∧ s.allQuiet = true ∧ s.oct 7 = .on) ∧
      ((standbyState 1 .none []).get PWR_STATUS_DEV_STATE ≠ 2 ∧ (standbyState 1 .none []).get PWR_STATUS_DEV_STATE ≠ 3) ∧
      (let s := standbyState 2 .waitDomains [(PWR_STBY_CFG_OCT_OFF, 0), (PWR_STBY_BANKS 0, 0), (PWR_STBY_BANKS 1, 0)];
        s.pwr.standby = .waitDomains ∧ s.standbyReady = true) ∧
      (let s : State := { standbyState 4 .entered [] with
          pwr := { PwrState.reset with standby := .entered, octants := [(7, .off)] }
          memory := { MemState.reset with banks := [(63, ⟨.retain, none, none⟩)] } };
        s.pwr.standby = .entered ∧ s.oct 7 = .off ∧ (s.bank 63).power = .retain ∧ s.get (MEM_BANK_CTRL_REQ_B (63 / 16) (63 % 16)) = 0) ∧
      (let s := standbyState 4 .waking [];
        s.pwr.standby = .waking ∧ s.woken = true ∧ s.allIdle = true) := by
  decide +kernel

/-! The timebase. -/

/-- A device with values in some register fields and a timebase. -/
def tbState (l : List (Fld × Nat)) (t : TbState) : State := { regsOf l with tb := t }

/-- A qualified input, and one that is present since the start. -/
def qualifiedInput : RefInput := ⟨true, some 0, none⟩
def presentInput : RefInput := ⟨false, some 0, none⟩

/-- A TIMING step on pin 511. -/
def timingStepOf : CalStep := ⟨511, .timing, 0, false, 0, [], false⟩

/-- ReferenceInputs: the loss of an input not in use and of the one in use, a disagreement, a qualification, the end of holdover onto the other input,
and TB_REF_CFG written during a TIMING step, at once, and after the step. -/
theorem witness_ReferenceInputs :
    (let s := tbState [] { TbState.reset with refB := qualifiedInput };
      s.refOk 1 = true ∧ ¬ (s.onRef = true ∧ s.active = 1)) ∧
      (let s := tbState [(TB_REF_STATUS_LOCKED, 1), (TB_REF_STATUS_HOLDOVER, 0), (TB_REF_STATUS_ACTIVE, 1)] TbState.reset;
        s.onRef = true ∧ s.active = 1) ∧
      (let s := tbState [(TB_REF_STATUS_DISAGREE, 0)] { TbState.reset with refA := qualifiedInput, refB := qualifiedInput };
        s.refOk 0 = true ∧ s.refOk 1 = true ∧ (1000000 : Int).natAbs ≤ 1000000 ∧ (979999 : Int).natAbs ≤ 1000000 ∧
          20000 < ((1000000 : Int) - 979999).natAbs ∧ ¬ 20000 < ((1000000 : Int) - 980000).natAbs ∧ s.bit TB_REF_STATUS_DISAGREE = false) ∧
      (let s := tbState [(TB_REF_STATUS_HOLDOVER, 0), (TB_REF_CFG_REVERT, 0)] { TbState.reset with refB := presentInput };
        (s.refIn 1).okSince = some 0 ∧ s.refOk 1 = false ∧ s.bit TB_REF_STATUS_HOLDOVER = false ∧ s.bit TB_REF_CFG_REVERT = false) ∧
      (let s := tbState [(TB_REF_STATUS_ACTIVE, 0)] { TbState.reset with refB := qualifiedInput, holdover := some 0 };
        s.tb.holdover = some 0 ∧ s.refChoice = some 1 ∧ 1 ≠ s.active) ∧
      (let s : State := { State.reset with cal := { CalState.reset with steps := [timingStepOf] } };
        s.timingStep = true ∧ s.refCfgChanges .host 0x20 = true) ∧
      (State.reset.timingStep = false ∧ State.reset.lockOf .host 0x50000 = 0 ∧ State.reset.onRef = false ∧
        fieldGet 0 6 0x20 ≠ fieldGet 0 6 (State.reset.reg 0x50000)) ∧
      (let s := tbState [] { TbState.reset with deferred := some (.host, 0x20) };
        s.tb.deferred = some (.host, 0x20) ∧ s.timingStep = false ∧ s.lockOf .host 0x50000 = 0 ∧ s.onRef = false) := by
  decide +kernel

/-- A pulse that is pended, and whether it is to establish Meridian time. -/
def pulseOf (establish : Bool) : EpochPend := ⟨.input, 5, 9, establish, false, 0, none⟩

/-- The timebase after its first lock, with the epochs that wait. -/
def lockedTb (l : List EpochPend) : TbState := { TbState.reset with zero := some 0, epochs := l }

/-- Epochs: both sources, a pulse that establishes Meridian time by its own bit and by ARM_ESTABLISH, a marker with and without an interval, and a
timeout of each kind. -/
theorem witness_Epochs :
    (∀ x, x < 2 → let s := tbState [(TB_EPOCH_CFG_SOURCE, x)] (lockedTb []);
        s.get TB_EPOCH_CFG_SOURCE = x ∧ s.tb.zero.isSome = true) ∧
      (∀ e ∈ [true, false], let s := tbState [(TB_EPOCH_CMD_ARM_ESTABLISH, 1)] (lockedTb [pulseOf e]);
        s.tb.epochs = [pulseOf e] ∧ (pulseOf e).commit = false ∧ (pulseOf e).next = none ∧
          ((pulseOf e).establish = true ∨ s.bit TB_EPOCH_CMD_ARM_ESTABLISH = true) ∧ s.allIdle = true) ∧
      (∀ n ∈ [0, 2 ^ 32 - 1], let s := tbState [(TB_EPOCH_CMD_ARM_ESTABLISH, 0), (TB_EPOCH_STATUS_NEXT_ARMED, 1), (TB_EPOCH_INTERVAL, n)] (lockedTb [pulseOf false]);
        s.tb.epochs = [pulseOf false] ∧ (pulseOf false).establish = false ∧ s.bit TB_EPOCH_CMD_ARM_ESTABLISH = false ∧ s.tb.timedOut = none ∧
          s.bit TB_EPOCH_STATUS_NEXT_ARMED = true ∧ s.get TB_EPOCH_INTERVAL = n ∧
          (∀ i, i < 16 → s.inSync i (max s.now s.epochLimit) = false)) := by
  decide +kernel

/-- A device after its first lock whose FSYNC input 3 is set up, with site 15 in a state and its lane as given. -/
def fsyncState (st en edge : Nat) (lane : List LaneItem) : State :=
  { regsOf [(TB_FSYNC_CFG_ENABLE 3, en), (TB_FSYNC_CFG_EDGE 3, edge), (TB_FSYNC_CFG_FILTER 3, 0), (SITE_SEQ_STATUS_STATE 15, st)] with
    tb := lockedTb [], sites := [(15, { Site.reset with lane := lane })] }

/-- FsyncAndGrids: an input that is disabled or of the other edge, a stray edge, an edge that a WAITF waits for since just then, a pad region at its upper limit, and
the grid registers of an IDLE site and of one that is not. -/
theorem witness_FsyncAndGrids :
    (∀ rising ∈ [true, false], let s := fsyncState 0 0 0 [];
        let u := fsyncState 0 1 (ofBool rising) [];
        { s with tb := { s.tb with fsync := List.replicate 4 (!rising) } }.tb.fsync.getD 3 false = !rising ∧
          s.bit (TB_FSYNC_CFG_ENABLE 3) = false ∧ u.bit (TB_FSYNC_CFG_EDGE 3) = rising) ∧
      (let s := fsyncState 0 1 0 [];
        s.tb.zero.isSome = true ∧ s.tb.fsync.getD 3 false = !true ∧ s.bit (TB_FSYNC_CFG_ENABLE 3) = true ∧ s.bit (TB_FSYNC_CFG_EDGE 3) = !true ∧
          nobodyWaits s ∧ (∀ i, i < 16 → (s.site i).lane = [] ∧ (s.site i).burst.padClosed = none ∧ (s.site i).spec.decisions = [])) ∧
      (let s := fsyncState 3 1 0 [.waitf 3 (some 0) none];
        s.bit (TB_FSYNC_CFG_ENABLE 3) = true ∧ s.bit (TB_FSYNC_CFG_EDGE 3) = !true ∧ nobodyWaits s ∧ s.inBurst 15 = true ∧
          (s.site 15).lane = .waitf 3 (some 0) none :: [] ∧ 0 + s.get (TB_FSYNC_CFG_FILTER 3) * tickLsb ≤ s.tickFloor s.now) ∧
      (let v : Vec := ⟨0, ⟨0, 0⟩, 0, 0, 2500, [], none, false, none, []⟩;
        let s := fsyncState 3 1 0 [.frame 3 100 v 355 (some 0) none];
        (s.site 15).lane = .frame 3 100 v 355 (some 0) none :: [] ∧ s.inBurst 15 = true ∧ 100 + 255 ≤ 355 ∧ 355 - 100 < 2 ^ 15) ∧
      (State.reset.idle 15 = true ∧ State.reset.lockOf .host (TB_GRID_ANCHOR 15).addr = 0 ∧ State.reset.lockOf .host 0x50070 = 0) ∧
      (let s := fsyncState 3 0 0 [];
        s.idle 15 = false ∧ s.wouldStore .host (TB_GRID_ANCHOR 15).addr 1 ≠ s.reg (TB_GRID_ANCHOR 15).addr) := by
  refine ⟨by decide +kernel, ⟨by decide +kernel, by decide +kernel, by decide +kernel, by decide +kernel, nobodyWaits_of (by decide +kernel) rfl,
    by decide +kernel⟩, ⟨by decide +kernel, by decide +kernel, nobodyWaits_of (by decide +kernel) rfl, by decide +kernel⟩, by decide +kernel,
    by decide +kernel, by decide +kernel⟩

/-! Pins. -/

/-- PinRegisters: an idle pin, one that is not and one in a calibration step, the clock registers of a free pin and of one whose site runs, a timeset
word of a vector in the window, and a trip of each pin. -/
theorem witness_PinRegisters :
    (State.reset.pin 511).idle = true ∧ fieldGet 0 3 3 < 4 ∧ State.reset.inStep 511 = false ∧ State.reset.disconnected 511 = false ∧
      (State.reset.pin 511).cluster = none ∧ State.reset.pinFree 511 = true ∧
      ((withPin 511 { Pin.reset with idle := false } State.reset).pin 511).idle = false ∧
      ({ State.reset with cal := { CalState.reset with steps := [timingStepOf] } } : State).inStep 511 = true ∧
      (let s := siteRegs 3 [];
        s.pinFree 511 = false ∧ (1 : Word) ≠ s.reg (PIN_CLK_PHASE 511).addr) ∧
      (let v : Vec := ⟨0, ⟨0, 0⟩, 0, 63, 2500, [], none, false, none, []⟩;
        let w : WinEntry := ⟨v, none, 0, [], false, false, false, 0, none⟩;
        let s := withSite 15 { Site.reset with spec := { SpecState.reset with window := [w] } } (siteRegs 3 []);
        s.pinOwner 511 = some 15 ∧ s.inBurst 15 = true ∧ w ∈ (s.site 15).spec.window ∧ w.vec.ts = 63) ∧
      (∀ st, st < 2 → let s := siteRegs (3 * st) [(PIN_FESTAT_TRIP 511, 1)];
        s.inStep 511 = false ∧ (s.pin 511).cluster = none ∧ s.bit (PIN_FESTAT_TRIP 511) = true ∧ s.pinFree 511 = decide (st = 0)) := by
  decide +kernel

/-- PinRegisters: a TIMING step holds the registers whose writes act beyond their words, and no step is in progress in the last group after reset. -/
theorem witness_PinRegisters_held :
    (∀ x ∈ ([0, 4, 8, 0x200C, 0x2004, 0x2014] : List Nat), [timingStepOf].find? (stepHolds 511 x) = some timingStepOf) ∧
      ∀ c ∈ State.reset.cal.steps, c.pin / 8 ≠ 511 / 8 := by
  decide +kernel

/-- A device after its first lock with pin 511 as given. -/
def lockedPin (q : Pin) : State := withPin 511 q (tbState [] (lockedTb []))

/-- An entry of the level queue, made at the start. -/
def levelEntry : LevelEntry := ⟨7, [0, 1, 2, 3, 16383], 0, true⟩

/-- LevelsAndTrips: a command without APPLY, one into a queue of seven and of eight, a trip, a pin without one, an entry that is just old enough,
and Twilight. -/
theorem witness_LevelsAndTrips :
    fieldGet 8 1 0x7 = 0 ∧ fieldGet 8 1 0x107 = 1 ∧
      (∀ n ∈ [7, 8], let s := withPin 511 { Pin.reset with lvl := { LevelState.reset with queue := List.replicate n levelEntry } } State.reset;
        s.inStep 511 = false ∧ (s.pin 511).lvl.queue.length = n) ∧
      (let s := lockedPin { Pin.reset with tripDue := .ov true };
        s.tb.zero.isSome = true ∧ s.octOff (511 / 64) = false ∧ (s.pin 511).tripDue = .ov true) ∧
      (let s := lockedPin Pin.reset;
        (s.pin 511).tripDue = .none ∧ (s.pin 511).rearm = none ∧ s.disconnected 511 = false) ∧
      (let s : State := { lockedPin { Pin.reset with lvl := { LevelState.reset with queue := [levelEntry] } } with now := 20 * tickLsb };
        s.octOff (511 / 64) = false ∧ (s.pin 511).lvl.queue = [levelEntry] ∧ (s.pin 511).lvl.busy = false ∧
          levelEntry.made + 20 * tickLsb ≤ s.sampleInstant ∧ fieldGet 20 1 (s.lvlCfgAt 511 s.sampleInstant) = 0 ∧ levelEntry.set < 8) ∧
      (regsOf [(PWR_STATUS_TWILIGHT, 1)]).bit PWR_STATUS_TWILIGHT = true ∧ State.reset.bit PWR_STATUS_TWILIGHT = false := by
  decide +kernel

/-! Segments, streaming and stamps. -/

/-- An entry for group 63, in on-chip memory (location bit clear) or in DRAM. -/
def entry63 (loc : Bool) : SegEntry := ⟨loc, false, false, 0, 0, 256, 2 ^ 63, if loc then dramBase else 0, 0, 0, ocmBase⟩

/-- A device whose site 15 has the only segment 65535, in a state, its table at the start of on-chip memory, which holds the entry where `good`. -/
def segState (x : SegState) (good : Bool) : State :=
  { withSite 15 { Site.reset with segs := [(65535, ⟨x, entry63 false⟩)] }
      (siteRegs 0 [(SITE_SEGTAB_RANGE_FIRST 15, 65535), (SITE_SEGTAB_RANGE_LAST 15, 65535), (SITE_SEGTAB_BASE 15, ocmBase)]) with
    mem := if good then memOf 0 (leBytes 4 0 ++ leBytes 4 256 ++ leBytes 8 (2 ^ 63)) else [] }

theorem segState_plain (x : SegState) (good : Bool) : memPlain (segState x good) :=
  memPlain_of_banks ⟨rfl, rfl, rfl⟩ (by
    have h : ∀ k, k < 64 → (segState .inactive false).phys k = k := by decide +kernel
    exact h)

/-- SegmentsAndResults: an id out of range, each state of a segment, a good and a bad entry, the table of an IDLE site and of one that is not. -/
theorem witness_SegmentsAndResults :
    ((segState .inactive true).segInRange 15 65534 = false ∧ (segState .inactive true).claimed 15 65534 = false) ∧
      (∀ x ∈ [SegState.inactive, .queued, .active], (segState x true).segInRange 15 65535 = true ∧ (segState x true).claimed 15 65535 = false ∧
        ((segState x true).seg 15 65535).state = x) ∧
      (∀ b ∈ [true, false], let s := segState .inactive b;
        s.region (s.segEntryAddr 15 65535) = .ocm 0 ∧ s.rangeServed (.ocm 0) 32 = .ok ∧
          s.segEntryOk 15 (segEntryOf (s.segEntryAddr 15 65535) (s.ocmRead 0 32)) = b ∧ (s.site 15).str.path.waits ≠ some 65535 ∧
          (s.site 15).seq.waitSeg = none) ∧
      (∀ b, memPlain (segState .inactive b)) ∧ memPlain (segState .queued true) ∧
      (let s := segState .queued true;
        s.region (s.seg 15 65535).entry.tabAddr = .ocm (4 * 0) ∧ s.rangeServed (.ocm (4 * 0)) 4 = .ok) ∧
      (State.reset.idle 15 = true ∧ State.reset.lockOf .host (SITE_SEGTAB_BASE 15).addr = 0 ∧
        State.reset.lockOf .host (SITE_SEGTAB_RANGE_FIRST 15).addr = 0) ∧
      (let s := siteRegs 3 [(SITE_SEGTAB_BASE 15, 0)];
        s.idle 15 = false ∧ s.lockOf .host (SITE_SEGTAB_BASE 15).addr = 0 ∧ s.get (SITE_SEGTAB_BASE 15) ≠ (32 : Word).toNat) ∧
      State.reset.bit (IAT_EVT_MAP_EN 15) = false :=
  ⟨by decide +kernel, by decide +kernel, by decide +kernel, fun _ => segState_plain _ _, segState_plain _ _, by decide +kernel, by decide +kernel,
    by decide +kernel, by decide +kernel⟩

/-- A path that reads segment 65535 from its start. -/
def readPath : EnginePath := { EnginePath.reset with seg := 65535, stopped := false }

/-- A request for the first 2,048 bytes of that segment, which have been read. -/
def readReq : StreamReq := ⟨65535, 0, 2048, none, 0⟩

/-- Site 15, running from a segment in DRAM, with a stream engine as given; DRAM is On. -/
def streamState (g : StreamState) : State :=
  withSite 15 { Site.reset with segs := [(65535, ⟨.active, entry63 true⟩)], str := g, shadow := [((SITE_STR_BUF_SIZE 15).addr, 2)] }
    (siteRegs 3 [(DRC_STATUS_STATE, 2), (DRC_USABLE_LO_USABLE, 0x10000000), (SITE_STR_STATUS_STATE 15, 1)])

/-- StreamsAndStamps: a path with room for just one request, 32 requests in flight, and data that arrives for a path that has stopped. -/
theorem witness_StreamsAndStamps_streams :
    (let g : StreamState := { StreamState.reset with path := readPath, high := 1 };
      let s := streamState g;
      s.siteSt 15 ≠ stIdle ∧ (s.site 15).burst.end_ = none ∧ (s.site 15).str = g ∧ g.inflight.length < 32 ∧ g.path.stopped = false ∧
        g.path.resident = false ∧ g.path.waits = none ∧ (s.seg 15 g.path.seg).entry.loc = true ∧ g.path.req < 8 * (s.seg 15 g.path.seg).entry.length ∧
        g.cache.has g.path.seg g.path.req 8 = false ∧ (s.engineDecode 15 256).flowTry 15 = s ∧ g.level < 1024 * g.high ∧ s.bufRoom 15 (min 2048 (8 * (s.seg 15 g.path.seg).entry.length - g.path.req)) = true) ∧
      (let s := streamState { StreamState.reset with inflight := List.replicate 32 readReq };
        s.siteSt 15 ≠ stIdle ∧ (s.site 15).burst.end_ = none ∧ 32 ≤ (s.site 15).str.inflight.length) ∧
      (let s := streamState { StreamState.reset with inflight := [readReq] };
        (s.site 15).str.inflight = readReq :: [] ∧ s.drc.queue ++ s.drc.input = [] ∧ (∀ b, b < 64 → s.bankServed b = .ok) ∧ s.dramUe = [] ∧
          s.dramServed ((s.seg 15 readReq.seg).entry.dramAt readReq.off) ≠ .off ∧ (s.site 15).str.path.stopped = true ∧
          s.get (SITE_STR_STATUS_STATE 15) ≠ 3) := by
  decide +kernel

/-- Site 15, running vector 0 from time 0 on, which has not ended, and pin 511 with its acquisition state. -/
def stampState (a : AcqState) : State :=
  withPin 511 { Pin.reset with acq := a }
    (withSite 15 { Site.reset with
        burst := { BurstState.reset with started := true, recent := [(0, 0, false)] }
        spec := { SpecState.reset with window := [⟨⟨0, ⟨0, 0⟩, 0, 0, 2500, [], none, false, none, []⟩, none, 0, [], false, false, false, 0, none⟩] }
        shadow := [((PIN_ACQ_CFG_MODE 511).addr, 0xFFFFFFFF)] } (siteRegs 3 []))

/-- Nothing of that site can commit while its vector has not ended. -/
theorem stampState_commitsNothing (a : AcqState) : commitsNothing (stampState a) 15 := by
  have h : (stampState AcqState.reset).siteSt 15 ≠ stXact := by decide +kernel
  exact ⟨⟨_, _, rfl, .inl rfl, fun p _ x _ => Nat.zero_le _⟩, rfl, h⟩

/-- An event whose first crossing is at 0, and a crossing that pairs with it. -/
def openEvent : EdgeEvent := ⟨⟨false, true⟩, 0, true, false, none, none, some 0, false⟩

/-- StreamsAndStamps: a pin of no site, the first crossing of an event, its pair at the last instant, the end of its time, its stamp, and a timeout. -/
theorem witness_StreamsAndStamps_stamps :
    (∀ a, commitsNothing (stampState a) 15) ∧
      (State.reset.pinOwner 511 = none ∧ (State.reset.pin 511).tdc.lentTo = none ∧ State.reset.tdcSt 511 ≠ 2 ∧ (State.reset.pin 511).windows = []) ∧
      (∀ t ∈ [0, pairLimit], ∀ a ∈ [AcqState.reset, { AcqState.reset with open_ := some openEvent }], let s := stampState a;
        s.pinOwner 511 = some 15 ∧ (s.pin 511).tdc.lentTo = none ∧ s.tdcSt 511 ≠ 2 ∧ (s.pin 511).windows = [] ∧
          s.stampsAt 15 511 (s.atPlane 511 t) = true ∧ s.missWhy 511 (s.atPlane 511 t) = none) ∧
      ((stampState AcqState.reset).pin 511).acq.open_ = none ∧
      (let s := stampState { AcqState.reset with open_ := some openEvent };
        (s.pin 511).acq.open_ = some openEvent ∧ openEvent.missed = none ∧ (s.pin 511).highFlag = false ∧
          pairs openEvent.first ⟨true, true⟩ = true ∧ s.atPlane 511 pairLimit ≤ openEvent.firstAt + pairLimit) ∧
      (let s := stampState { AcqState.reset with stamping := [openEvent] };
        s.pinOwner 511 = some 15 ∧ (s.pin 511).acq.stamping = openEvent :: [] ∧ openEvent.missed = none ∧ openEvent.pair = none ∧
          s.storeFull 15 511 openEvent = false ∧ openEvent.vec = some 0) ∧
      ((stampState AcqState.reset).stampsAt 15 511 0 = true ∧ (stampState AcqState.reset).vecAt 15 0 = some (0, false)) ∧
      (∀ (y : Bool × Int × Bool), y ∈ [(true, 5000000, true), (true, 0, false), (false, 5000000, true)] → ∀ s ∈ [State.reset, stampState AcqState.reset],
        (flagAfter (s.hyst 511) (s.threshold 511 y.1) y.2.1 y.1 (if y.1 then (s.pin 511).highFlag else (s.pin 511).lowFlag) !=
          (if y.1 then (s.pin 511).highFlag else (s.pin 511).lowFlag)) = y.2.2) :=
  ⟨stampState_commitsNothing, by decide +kernel, by decide +kernel, by decide +kernel, by decide +kernel, by decide +kernel, by decide +kernel,
    by decide +kernel⟩

/-! Single-interval measurement. -/

/-- A locked device with pin 511 measuring in a state, with pin 510 as its start pin. -/
def tdcState (st : Nat) (l : List (Fld × Nat)) (t : TdcState) : State :=
  { regsOf ([(TB_REF_STATUS_LOCKED, 1), (PIN_TDC_STAT_STATE 511, st), (PIN_TDC_CFG_START_PIN 511, 510)] ++ l) with
    pins := [(510, { Pin.reset with tdc := { TdcState.reset with lentTo := some 511 } }), (511, { Pin.reset with tdc := t })] }

/-- Start and stop of a pin, with the configuration word cfg and some measurements left. -/
def tookBoth (cfg left : Nat) : TdcState := { TdcState.reset with cfg := cfg, start := some (0, false), stop := some (4, true), left := left }

/-- SingleIntervals: an arm that is refused, one at once and one for later, its instant, a result with and without an accumulator and with and without measurements left,
a series, both timeouts, and CANCEL in each state. -/
theorem witness_SingleIntervals :
    State.reset.tdcRefused 511 (State.reset.get (PIN_TDC_CFG_START_PIN 511)) = true ∧
      (∀ at_, at_ < 2 → let s := tdcState 0 [(PIN_TDC_CFG_ARM_AT 511, at_), (PIN_TDC_ARM_TICK_LO_TICK 511, 1)] TdcState.reset;
        s.tdcRefused 511 (s.get (PIN_TDC_CFG_START_PIN 511)) = false ∧ s.tdcActive 511 = false ∧ s.get (PIN_TDC_CFG_START_PIN 511) ≠ 511 ∧
          s.bit (PIN_TDC_CFG_ARM_AT 511) = decide (at_ = 1) ∧ s.now < s.tdcArmTime 511) ∧
      (∀ st, st < 5 → (tdcState st [] TdcState.reset).tdcSt 511 = st) ∧
      (∀ left ∈ [0, 1], ∀ cfg ∈ [0, 2 ^ 18], let s := tdcState 2 [] (tookBoth cfg left);
        s.tdcSt 511 = 2 ∧ (s.pin 511).tdc.start = some (0, false) ∧ (s.pin 511).tdc.stop = some (4, true) ∧ (s.pin 511).tdc.left = left ∧
          (s.pin 511).tdc.accEn = decide (cfg ≠ 0) ∧ (s.pin 511).operands.length < 8) ∧
      (-(2 ^ 31) ≤ intervalPs (((4 : Nat) : Int) - (0 : Nat)) ∧ intervalPs (((4 : Nat) : Int) - (0 : Nat)) < 2 ^ 31) ∧
      ((tdcState 2 [] { TdcState.reset with waiting := true }).pin 511).tdc.waiting = true ∧
      (∀ x ∈ [none, some (0, false)], let s := tdcState 2 [] { TdcState.reset with start := x };
        s.tdcSt 511 = 2 ∧ (s.pin 511).tdc.waiting = false ∧ (s.pin 511).tdc.start = x ∧ (s.pin 511).tdc.stop = none) ∧
      (let s := tdcState 2 [] { TdcState.reset with cfg := 510 };
        (s.pin 511).tdc.q = 510 ∧ (s.pin 510).tdc.lentTo = some 511) := by
  decide +kernel

/-- SingleIntervals: a result that became readable after its pin was armed again, and a pin armed again before its result is readable. -/
theorem witness_SingleIntervals_series :
    (let s := tdcState 2 [] { TdcState.reset with waiting := true, ready := [((0, false), (4, true), true)] };
        s.tdcSt 511 = 2 ∧ (s.pin 511).tdc.ready = ((0, false), (4, true), true) :: [] ∧ (s.pin 511).tdc.accEn = false) ∧
      (let s := tdcState 2 [] (tookBoth 0 1);
        s.tdcSt 511 = 2 ∧ (s.pin 511).tdc.waiting = false ∧ (s.pin 511).tdc.start = some (0, false) ∧ (s.pin 511).tdc.stop = some (4, true) ∧
          (s.pin 511).tdc.left ≠ 0 ∧ (s.pin 511).tdc.ready = []) := by
  decide +kernel

/-! The reduction engine. -/

/-- A device where pin 511 has an operand for accumulator 1023, which is as given; pin 0 comes next in the rotation. -/
def redState (l : List (Fld × Nat)) (c : Accum) : State :=
  { withPin 511 { Pin.reset with operands := [(1023, -5, true)] } (regsOf l) with red := { RedState.reset with accs := [(1023, c)] } }

/-- An accumulator with a count in all and a count in its interval. -/
def accumOf (total ivl : Nat) : Accum := { Accum.reset with total := { Sums.reset with n := total }, ivl := { Sums.reset with n := ivl } }

/-- A device whose interval ring, the smallest, stands at the start of on-chip memory. -/
def ringState : State :=
  redState [(RED_ACC_CFG_NBLK 1023, 2), (RED_IVL_BASE_LO_BASE, ocmBase), (RED_IVL_BASE_HI_BASE, 0), (RED_IVL_SIZE, 160), (RED_IVL_HEAD, 0)] (accumOf 1 1)

/-- Reduction: the operand of the pin that is served last, without an interval, at the count limit, and with an interval that closes just then, with and without a ring. -/
theorem witness_Reduction_operands :
    (511 = ((redState [] Accum.reset).red.served + 1 + 511) % 512 ∧
        (∀ j, j < 511 → ((redState [] Accum.reset).pin (((redState [] Accum.reset).red.served + 1 + j) % 512)).operands = []) ∧
        ((redState [] Accum.reset).pin 511).operands = (1023, -5, true) :: []) ∧
      (∀ k ∈ [0, 3], let s := redState [(RED_ACC_CFG_NBLK 1023, k)] (accumOf (2 ^ 40 - 2) 1);
        (s.acc 1023).total.n ≠ 2 ^ 40 - 1 ∧ (s.get (RED_ACC_CFG_NBLK 1023) = 0 ∨ (s.acc 1023).ivl.n + 1 < s.get (RED_ACC_CFG_NBLK 1023))) ∧
      ((redState [] (accumOf (2 ^ 40 - 1) 0)).acc 1023).total.n = 2 ^ 40 - 1 ∧
      (let s := redState [(RED_ACC_CFG_NBLK 1023, 2), (RED_IVL_SIZE, 0)] (accumOf 1 1);
        (s.acc 1023).total.n ≠ 2 ^ 40 - 1 ∧ s.get (RED_ACC_CFG_NBLK 1023) ≠ 0 ∧ s.get (RED_ACC_CFG_NBLK 1023) ≤ (s.acc 1023).ivl.n + 1 ∧
          s.get RED_IVL_SIZE = 0) ∧
      memPlain ringState ∧
      (let s := ringState;
        (s.acc 1023).total.n ≠ 2 ^ 40 - 1 ∧ s.get (RED_ACC_CFG_NBLK 1023) ≠ 0 ∧ s.get (RED_ACC_CFG_NBLK 1023) ≤ (s.acc 1023).ivl.n + 1 ∧
          s.ivlBase = ocmBase + 4 * 0 ∧ s.ringPlaced s.ivlBase (s.get RED_IVL_SIZE) = true ∧ s.rangeServed (.ocm (4 * 0)) s.ivlBytes = .ok ∧ s.red.ivlFull = false ∧
          s.get RED_IVL_HEAD % 4 = 0 ∧ s.get RED_IVL_HEAD + 48 ≤ s.ivlBytes) :=
  ⟨by decide +kernel, by decide +kernel, by decide +kernel, by decide +kernel, memPlain_of_banks ⟨rfl, rfl, rfl⟩ (by decide +kernel), by decide +kernel⟩

/-- Reduction: a snapshot while one runs and while none does, one that ends, a dump of one accumulator to the end of on-chip memory's last plain part and to the
host, and dumps that end. -/
theorem witness_Reduction :
    (State.reset.bit RED_SNAP_STAT_BUSY = false ∧ (regsOf [(RED_SNAP_STAT_BUSY, 1)]).bit RED_SNAP_STAT_BUSY = true) ∧
      ({ State.reset with red := { RedState.reset with snap := some (1023, accumOf 1 0) } } : State).red.snap = some (1023, accumOf 1 0) ∧
      (let s := regsOf [(RED_DUMP_ADDR_LO_ADDR, ocmBase + 0x3BFFFC0), (RED_DUMP_ADDR_HI_ADDR, 0)];
        s.bit RED_STATUS_DUMP_RUN = false ∧ s.placed s.dumpAddr (64 * (1023 + 1 - 1023)) = true) ∧
      (let s := regsOf [(RED_DUMP_ADDR_HI_ADDR, 2 ^ 31)];
        s.bit RED_STATUS_DUMP_RUN = false ∧ 2 ^ 63 ≤ s.dumpAddr ∧ s.dumpAddr + 64 * (1023 + 1 - 0) ≤ 2 ^ 64) ∧
      (regsOf [(RED_STATUS_DUMP_RUN, 1)]).bit RED_STATUS_DUMP_RUN = true ∧
      (let s : State := { State.reset with red := { RedState.reset with dump := some (2 ^ 63, 0, []) } };
        s.red.dump = some (2 ^ 63, 0, []) ∧ 2 ^ 63 ≤ 2 ^ 63) ∧
      (let s : State := { State.reset with red := { RedState.reset with dump := some (ocmBase + 4 * 0xFFFFF0, 1023, [Accum.reset]) } };
        s.red.dump = some (ocmBase + 4 * 0xFFFFF0, 1023, [Accum.reset]) ∧ memPlain s ∧ 4 * 0xFFFFF0 + 64 * [Accum.reset].length ≤ 0x4000000 ∧
          s.rangeServed (.ocm (4 * 0xFFFFF0)) (64 * [Accum.reset].length) = .ok ∧ [Accum.reset] ≠ []) :=
  ⟨by decide +kernel, by decide +kernel, by decide +kernel, by decide +kernel, by decide +kernel, by decide +kernel,
    ⟨rfl, memPlain_of_banks ⟨rfl, rfl, rfl⟩ (by decide +kernel), by decide +kernel, by decide +kernel, by decide +kernel⟩⟩

/-! The transaction engine. -/

/-- A transaction of 33 bits with the user template 0x40, and one of it in progress. -/
def userTxn : XeTxn := ⟨127, 0x40, 33, 0, 0, 0, 0, none, false, false⟩
def userRun : XeRun := XeRun.start 7 15 userTxn 0

/-- The window of a site whose vector 0 has not started. -/
def unstarted : List WinEntry := [⟨⟨0, ⟨0, 0⟩, 0, 0, 2500, [], none, false, none, []⟩, none, 0, [], false, false, false, 0, none⟩]

/-- Site 15 in XACT, the only one of port 127, whose user template is one step; the engine as given. -/
def engineState (w0 w2 : Nat) (z : XeState) : State :=
  { withSite 15 { Site.reset with spec := { SpecState.reset with window := unstarted, nextVec := 1 } }
      (siteRegs 5 [(XE_PORT_CFG_EN 127, 1), (XE_PORT_CFG_SITE 127, 15), (XE_PORT_CFG_SLICE 127, 0), (XE_TPL_BASE, ocmBase), (XE_TPL_COUNT, 1)]) with
    mem := memOf 0 (leBytes 4 (ocmBase + 16) ++ leBytes 4 1 ++ List.replicate 8 0 ++ leBytes 4 w0 ++ leBytes 4 0 ++ leBytes 4 w2), xe := z }

/-- The engine with a transaction in progress on port 127. -/
def runningXe (r : XeRun) : XeState := { XeState.reset with ports := [(127, { XePort.reset with cur := some 7 })], runs := [r] }

/-- Nothing of site 15 ends by itself while a transaction of it runs, or is still to be dispatched. -/
theorem engineState_quiet (w0 w2 : Nat) (z : XeState) (h : ∀ r ∈ z.runs, r.site = 15 → r.ended = none ∨ r.unsent ≠ 0)
    (h' : (∃ r ∈ z.runs, r.site = 15) ∨ Sparse.get (fun _ => XeSite.reset) z.sites 15 = { XeSite.reset with count := 1 }) :
    engineQuiet (engineState w0 w2 z) 15 := by
  refine ⟨⟨_, _, rfl, rfl, Nat.zero_le _, fun p _ x _ => Nat.zero_le _⟩, h, h'.imp id fun e => ?_⟩
  change (Sparse.get _ z.sites 15).next < (Sparse.get _ z.sites 15).count ∧ (Sparse.get _ z.sites 15).stop = false
  rw [e]
  decide

/-- What shows that step 0 of the user template can be read. -/
abbrev engineReads (s : State) : Prop :=
  let e := s.get XE_TPL_BASE / 8 * 8 + 8 * (0x40 - 0x40)
  (s.region e = .ocm 0 ∧ s.rangeServed (.ocm 0) 8 ≠ .off ∧ s.ocmBad 0 8 = []) ∧ s.ocmAt e = ocmBase + 16 ∧
    s.region (ocmBase + 16) = .ocm 16 ∧ s.rangeServed (.ocm 16) 16 ≠ .off ∧ s.ocmBad 16 16 = []

theorem engineReads_stepOk {s : State} (h : engineReads s) : stepOk s userTxn 0 :=
  .inr ⟨.inr ⟨0, h.1⟩, .inr ⟨16, by rw [show s.ocmAt (s.get XE_TPL_BASE / 8 * 8 + 8 * (userTxn.tpl - 0x40)) + 16 * 0 = ocmBase + 16 from h.2.1]; exact h.2.2⟩⟩

theorem engineState_atStep {w0 w2 op : Nat} {r : XeRun} (hn : r.num = 7) (hi : r.site = 15) (he : r.ended = none) (ht : r.txn = userTxn) (hp : r.pc = 0)
    (h : let s := engineState w0 w2 (runningXe r);
      15 = s.get (XE_PORT_CFG_SITE 127) ∧ s.xeEligible 127 = true ∧ s.templateStep r.txn r.pc = some (stepOf w0 0 w2) ∧
        (stepOf w0 0 w2).bad = false ∧ (stepOf w0 0 w2).op = op) (hr : engineReads (engineState w0 w2 (runningXe r))) :
    atStep (engineState w0 w2 (runningXe r)) 127 r (stepOf w0 0 w2) op := by
  have hq : (engineState w0 w2 (runningXe r)).portRun 127 = some r := by
    simp [State.portRun, State.xePort, State.xeRun, engineState, runningXe, Sparse.get, hn]
  refine ⟨hq, hi.trans h.1, h.2.1, h.2.2.1, h.2.2.2.1, h.2.2.2.2, ht ▸ hp ▸ engineReads_stepOk hr,
    hi ▸ engineState_quiet w0 w2 _ ?_ (.inl ⟨r, by simp [runningXe], hi⟩)⟩
  simp [runningXe, he]

/-- TemplateSteps: an EMIT of four of which three are out, a SHIFT of its last bit, of none, and of 33 bits of a 32-bit source, a LOOP that ends and
one that goes on, a BRANCH on each bit and on none, and the others. -/
theorem witness_TemplateSteps :
    (let r := { userRun with at_ := 3 };
      atStep (engineState 0 4 (runningXe r)) 127 r (stepOf 0 0 4) 0 ∧ (stepOf 0 0 4).cap = false ∧ (stepOf 0 0 4).lastSel = false ∧
        r.at_ < max 1 (bitsOf (stepOf 0 0 4).arg 0 16)) ∧
      (let r := { userRun with at_ := 1 };
        atStep (engineState 1 2 (runningXe r)) 127 r (stepOf 1 0 2) 1 ∧ (stepOf 1 0 2).cap = false ∧ (stepOf 1 0 2).wid = 0 ∧
          bitsOf (stepOf 1 0 2).arg 14 2 = 0 ∧ (stepOf 1 0 2).count r.txn.bits = r.at_ + 1) ∧
      (atStep (engineState 1 0 (runningXe userRun)) 127 userRun (stepOf 1 0 0) 1 ∧ bitsOf (stepOf 1 0 0).arg 14 2 = 0 ∧
        (stepOf 1 0 0).count userRun.txn.bits = 0) ∧
      (atStep (engineState 1 0x6000 (runningXe userRun)) 127 userRun (stepOf 1 0 0x6000) 1 ∧ bitsOf (stepOf 1 0 0x6000).arg 14 2 = 1 ∧
        32 < (stepOf 1 0 0x6000).count userRun.txn.bits) ∧
      (∀ left ∈ [0, 1], let r := { userRun with ctr := [some left, none] };
        atStep (engineState 2 5 (runningXe r)) 127 r (stepOf 2 0 5) 2 ∧ (r.ctr.getD (ofBool (bitOf (stepOf 2 0 5).arg 10)) none).getD 0 = left ∧
          bitsOf (stepOf 2 0 5).arg 0 10 ≠ r.pc) ∧
      (∀ b ∈ [true, false], let r := { userRun with mark := 1, got := [(0, b)] };
        atStep (engineState 3 5 (runningXe r)) 127 r (stepOf 3 0 5) 3 ∧ r.mark ≠ 0 ∧ r.lastBit = some b ∧ bitsOf (stepOf 3 0 5).arg 0 10 ≠ r.pc) ∧
      (atStep (engineState 3 5 (runningXe userRun)) 127 userRun (stepOf 3 0 5) 3 ∧ userRun.mark = 0) ∧
      (∀ op ∈ [4, 5, 6], atStep (engineState op 0 (runningXe userRun)) 127 userRun (stepOf op 0 0) op) := by
  refine ⟨⟨engineState_atStep rfl rfl rfl rfl rfl (by decide +kernel) (by decide +kernel), by decide +kernel⟩, ⟨engineState_atStep rfl rfl rfl rfl rfl (by decide +kernel) (by decide +kernel), by decide +kernel⟩,
    ⟨engineState_atStep rfl rfl rfl rfl rfl (by decide +kernel) (by decide +kernel), by decide +kernel⟩, ⟨engineState_atStep rfl rfl rfl rfl rfl (by decide +kernel) (by decide +kernel), by decide +kernel⟩, ?_, ?_,
    ⟨engineState_atStep rfl rfl rfl rfl rfl (by decide +kernel) (by decide +kernel), rfl⟩, ?_⟩ <;>
    simp only [List.forall_mem_cons, List.not_mem_nil, false_implies, implies_true, and_true]
  · exact ⟨⟨engineState_atStep rfl rfl rfl rfl rfl (by decide +kernel) (by decide +kernel), by decide +kernel⟩,
      ⟨engineState_atStep rfl rfl rfl rfl rfl (by decide +kernel) (by decide +kernel), by decide +kernel⟩⟩
  · exact ⟨⟨engineState_atStep rfl rfl rfl rfl rfl (by decide +kernel) (by decide +kernel), by decide +kernel⟩,
      ⟨engineState_atStep rfl rfl rfl rfl rfl (by decide +kernel) (by decide +kernel), by decide +kernel⟩⟩
  · exact ⟨engineState_atStep rfl rfl rfl rfl rfl (by decide +kernel) (by decide +kernel),
      engineState_atStep rfl rfl rfl rfl rfl (by decide +kernel) (by decide +kernel),
      engineState_atStep rfl rfl rfl rfl rfl (by decide +kernel) (by decide +kernel)⟩

/-- The engine about to dispatch the only entry of the list of site 15, which stands at the end of the plain part of on-chip memory and names port 127 or,
where it is all zeros, port 0. -/
def dispatchState (n : Nat) (good : Bool) : State :=
  { engineState 0 0 { XeState.reset with
      ports := [(127, { XePort.reset with queue := List.replicate n userTxn })]
      sites := [(15, { XeSite.reset with addr := ocmBase + 0x3BFFFE0, count := 1 })] } with
    mem := if good then memOf 0x3BFFFE0 (leBytes 4 (127 + 2 ^ 8 * 0x40)) else [] }

theorem dispatchState_plain (n : Nat) (good : Bool) : memPlain (dispatchState n good) :=
  memPlain_of_banks ⟨rfl, rfl, rfl⟩ (by
    have h : ∀ k, k < 64 → (dispatchState 0 false).phys k = k := by decide +kernel
    exact h)

/-- EnginePorts: a port whose site is not in XACT and one whose site is, an entry that its port just holds, one too many, and a bad one. -/
theorem witness_EnginePorts_ports :
    (State.reset.bit (XE_PORT_CFG_EN 127) = false ∧ (5 : Fin 6).val = 2 + (3 : Fin 4).val) ∧
      (let s := engineState 0 0 XeState.reset;
        ¬ (s.bit (XE_PORT_CFG_EN 127) = false ∨ s.siteSt (s.get (XE_PORT_CFG_SITE 127)) ≠ stXact) ∧ s.reg (XE_PORT_PARK 127 0).addr ≠ 1) ∧
      (∀ n ∈ [15, 16], ∀ good ∈ [true, false], let s := dispatchState n good;
        s.siteSt 15 = stXact ∧ (s.xeSite 15).stop = false ∧ (s.xeSite 15).next < (s.xeSite 15).count ∧
          s.region ((s.xeSite 15).addr + 32 * (s.xeSite 15).next) = .ocm 0x3BFFFE0 ∧ s.rangeServed (.ocm 0x3BFFFE0) 32 = .ok ∧
          s.badEntry 15 (s.entryAt ((s.xeSite 15).addr + 32 * (s.xeSite 15).next)) = !good ∧
          (good = true → let p := s.xePort (s.entryAt ((s.xeSite 15).addr + 32 * (s.xeSite 15).next)).port;
            p.usable = true ∧ p.queue.length = n)) ∧
      (∀ n good, memPlain (dispatchState n good) ∧
        ((∃ e rest, ((dispatchState n good).site 15).spec.window = e :: rest ∧ e.started = none ∧ e.vec.id ≤ (dispatchState n good).lastIssued 15 ∧
            ∀ p, (dispatchState n good).pinOwner p = some 15 → ∀ z ∈ ((dispatchState n good).pin p).acq.items, e.vec.id ≤ z.vec) ∧
          ∀ r ∈ (dispatchState n good).xe.runs, r.site = 15 → r.ended = none ∨ r.unsent ≠ 0)) :=
  ⟨by decide +kernel, by decide +kernel, by decide +kernel,
    fun n good => ⟨dispatchState_plain n good, ⟨⟨_, _, rfl, rfl, Nat.zero_le _, fun p _ z _ => Nat.zero_le _⟩, fun r hr => absurd hr (List.not_mem_nil)⟩⟩⟩

/-- The engine with a transaction queued at port 127, whose site has still an entry to dispatch. -/
def queuedXe : XeState :=
  { XeState.reset with ports := [(127, { XePort.reset with queue := [userTxn] })], sites := [(15, { XeSite.reset with count := 1 })] }

/-- The engine with a bit that returns to a transaction in progress. -/
def returningXe (r : XeRun) (use : CapTo) : XeState := { runningXe r with returns := [(7, use, true)] }

/-- EnginePorts: a visit to the last port, with a transaction in progress and with one queued, and each bit that returns. -/
theorem witness_EnginePorts_engine :
    (∀ z ∈ [runningXe userRun, queuedXe], let s := engineState 0 1 z;
      127 = (s.xe.visit + 1 + 127) % 128 ∧ (∀ j, j < 127 → s.xeEligible ((s.xe.visit + 1 + j) % 128) = false) ∧ s.xeEligible 127 = true ∧
        s.get (XE_PORT_CFG_SLICE 127) = 0 ∧ (∀ i, i < 16 → s.siteSt i = stXact → i = 15) ∧ (stepOf 0 0 1).bad = false ∧ (stepOf 0 0 1).op = 0 ∧
        (stepOf 0 0 1).cap = false ∧ (stepOf 0 0 1).lastSel = false ∧ bitsOf (stepOf 0 0 1).arg 0 16 ≤ 1 ∧
        s.templateStep userTxn 0 = some (stepOf 0 0 1)) ∧
      engineQuiet (engineState 0 1 (runningXe userRun)) 15 ∧ engineQuiet (engineState 0 1 queuedXe) 15 ∧
      ((engineState 0 1 (runningXe userRun)).portRun 127 = some userRun ∧ userRun.site < 16) ∧
      (let s := engineState 0 1 queuedXe;
        (s.xePort 127).cur = none ∧ (s.xePort 127).queue = userTxn :: [] ∧ ∀ r ∈ s.xe.runs, r.num ≠ s.xe.nextNum) ∧
      (engineReads (engineState 0 1 (runningXe userRun)) ∧ engineReads (engineState 0 1 queuedXe)) ∧
      (∀ use, engineQuiet (engineState 4 0 (returningXe { userRun with at_ := 1 } use)) userRun.site) ∧
      (let s := engineState 4 0 (returningXe userRun (.store 4095 (some 32767)));
        s.xe.returns = (7, .store 4095 (some 32767), true) :: [] ∧ s.xeRun 7 = some userRun) ∧
      (let r := { userRun with at_ := 1 };
        let s := engineState 4 0 (returningXe r (.wait 0));
        s.xe.returns = (7, .wait 0, true) :: [] ∧ s.xeRun 7 = some r ∧ r.waitNo = 0 ∧ r.at_ ≠ 0 ∧ r.ended = none ∧ 1 ≠ r.waitNo) := by
  refine ⟨by decide +kernel, engineState_quiet _ _ _ (by decide) (.inl ⟨userRun, by decide, rfl⟩), engineState_quiet _ _ _ (by decide) (.inr rfl),
    by decide +kernel, by decide +kernel, by decide +kernel, fun use => engineState_quiet _ _ _ ?_ (.inl ⟨_, List.mem_singleton.2 rfl, rfl⟩), by decide +kernel, by decide +kernel⟩
  simp [returningXe, runningXe, userRun, XeRun.start]

/-! Bursts. -/

/-- A device whose site 15 may start from its only segment, with values in some register fields. -/
def startState (l : List (Fld × Nat)) : State :=
  withSite 15 { Site.reset with segs := [(65535, ⟨.queued, entry63 false⟩)] }
    (siteRegs 0 ([(SITE_SEGTAB_RANGE_FIRST 15, 65535), (SITE_SEGTAB_RANGE_LAST 15, 65535), (SITE_START_CFG_START_SEG 15, 65535),
      (PWR_STATUS_DEV_STATE, 2)] ++ l))

/-- A vector. -/
def someVec : Vec := ⟨0, ⟨65535, 0⟩, 0, 0, 2500, [], none, false, none, []⟩

/-- Site 15, ARMING with a lane whose LEAD is 1, and a start trigger. -/
def armingState (source : Nat) (lane : List LaneItem) (b : BurstState) : State :=
  withSite 15 { Site.reset with
      lane := lane
      burst := b
      shadow := [((SITE_START_CFG_SOURCE 15).addr, fieldPut (SITE_START_CFG_SOURCE 15).lo (SITE_START_CFG_SOURCE 15).len 0 source),
        ((SITE_SPEC_CFG_LEAD 15).addr, fieldPut (SITE_SPEC_CFG_LEAD 15).lo (SITE_SPEC_CFG_LEAD 15).len 0 1)] } (siteRegs 1 [])

/-- BurstsStart: a start that is carried out and one that is refused, a list burst of the last list, a site that is not IDLE, FAULT, a foreign start,
and an ARMING site with its lane empty, filled, and filled at its own trigger. -/
theorem witness_BurstsStart :
    (let s := startState [(XE_SITE_LIST_COUNT 15, 65535)];
      s.startForeign .host 15 = false ∧ s.idle 15 = true ∧ s.inService = true ∧
        s.startRefusal 15 (some (s.get (SITE_START_CFG_START_SEG 15))) = none ∧ s.canon = true ∧
        (s.seg 15 (s.get (SITE_START_CFG_START_SEG 15))).entry.loc = false ∧ s.startRefusal 15 none = none ∧ s.armHold 15 = false ∧ s.hotHeld 15 = false ∧
        s.calHeld 15 = false ∧ (65534 : Fin 65536).val < s.get (XE_SITE_LIST_COUNT 15)) ∧
      (let s := startState [(SITE_START_CFG_START_SEG 15, 65534)];
        s.startForeign .host 15 = false ∧ s.idle 15 = true ∧ s.inService = true ∧
          s.startRefusal 15 (some (s.get (SITE_START_CFG_START_SEG 15))) = some 4 ∧ s.get (SITE_RESULT_RING_SIZE 15) = 0 ∧ (s.flow 15).wait = .none) ∧
      (let s := siteRegs 3 [];
        s.startForeign .host 15 = false ∧ s.idle 15 = false) ∧
      (let s := startState [(PWR_STATUS_DEV_STATE, 5)];
        s.startForeign .host 15 = false ∧ s.idle 15 = true ∧ s.inService = false) ∧
      (let s := startState [(SYS_SITE_LEVEL_LEVEL_S 15, 2)];
        s.startForeign .host 15 = true ∧ (s.flow 15).evented.contains 0x8005 = false) ∧
      (∀ source ∈ [0, 1], ∀ lane ∈ [[], [LaneItem.vec someVec]], let s := armingState source lane BurstState.reset;
        s.siteSt 15 = 1 ∧ s.armHeld 15 = false ∧ (s.site 15).burst.listBurst = none ∧ s.laneFull 15 = decide (lane ≠ []) ∧
          s.startsAtOnce 15 = decide (source = 0)) ∧
      (let s := armingState 0 [] { BurstState.reset with listBurst := some 0 };
        s.siteSt 15 = 1 ∧ s.armHeld 15 = false ∧ (s.site 15).burst.listBurst = some 0 ∧ s.cfg 15 (XE_SITE_LIST_COUNT 15) ≤ 0 ∧
          (s.site 15).burst.end_ = none) ∧
      (armingState 0 [] { BurstState.reset with held := true }).armHeld 15 = true := by
  decide +kernel

/-- Site 15 in a state with a lane and an end, and pin 511 as given. -/
def endState (st : Nat) (lane : List LaneItem) (e : Option EndRec) (q : Pin) : State :=
  withPin 511 q (withSite 15 { Site.reset with lane := lane, burst := { BurstState.reset with end_ := e } } (siteRegs st []))

/-- Nothing is left of a burst without a window. -/
theorem endState_nothingLeft (st : Nat) (lane : List LaneItem) (e : Option EndRec) (idle : Bool) :
    nothingLeft (endState st lane e { Pin.reset with idle := idle }) 15 := by
  refine ⟨rfl, rfl, fun p _ => ?_⟩
  have h : ((endState st lane e { Pin.reset with idle := idle }).pin p).acq = AcqState.reset := by
    by_cases hp : p.val = 511 <;> simp [State.pin, endState, withPin, Sparse.get, hp, eq_comm] <;> rfl
  rw [h]
  exact ⟨rfl, rfl, rfl⟩

/-- BurstsEnd: ABORT in each state, RESUME at a HOLD and without one, the end of a counted hold, a pin that goes idle, and the end of the burst. -/
theorem witness_BurstsEnd :
    (∀ st, st < 7 → let s := endState st [] none Pin.reset;
        s.siteSt 15 = st ∧ bitOf (s.get CAL_STATUS_PENDING_SITES) 15 = false ∧ s.running 15 = decide (3 ≤ st ∧ st ≤ 5) ∧
          (s.site 15).burst.abort = none) ∧
      ((endState 4 [.hold none true] none Pin.reset).site 15).lane = .hold none true :: [] ∧
      (∀ rest, ((endState 4 [] none Pin.reset).site 15).lane ≠ .hold none true :: rest) ∧
      (let s := endState 4 [.hold (some 0) true] none Pin.reset;
        (s.site 15).lane = .hold (some 0) true :: [] ∧ s.inBurst 15 = true) ∧
      (let s := endState 6 [] (some ⟨.stop, 0⟩) { Pin.reset with idle := false };
        s.siteSt 15 = 6 ∧ (s.site 15).laneVecs = 0 ∧ s.pinOwner 511 = some 15 ∧ (s.pin 511).idle = false ∧ (s.pin 511).edges = [] ∧
          (s.pin 511).strobes = [] ∧ (s.pin 511).clock = none ∧ s.disconnected 511 = false ∧ (s.pin 511).cluster = none) ∧
      (∀ idle, nothingLeft (endState 6 [] (some ⟨.stop, 0⟩) { Pin.reset with idle := idle }) 15) ∧
      (let s := endState 6 [] (some ⟨.stop, 0⟩) Pin.reset;
        s.siteSt 15 = 6 ∧ (s.site 15).laneVecs = 0 ∧ (s.site 15).spec.decisions = [] ∧ (s.site 15).spec.returns = [] ∧ (s.site 15).cap.queue = [] ∧
          (∀ p : Fin 512, (s.pin p).idle = true) ∧ (s.site 15).burst.end_ = some ⟨.stop, 0⟩ ∧ (s.flow 15).wait = .none ∧
          bitOf (s.get CAL_STATUS_PENDING_SITES) 15 = false ∧ s.get (SITE_RESULT_RING_SIZE 15) = 0) := by
  refine ⟨by decide +kernel, rfl, fun rest h => ?_, by decide +kernel, by decide +kernel, fun idle => endState_nothingLeft _ _ _ idle, by decide +kernel⟩
  exact absurd (h.symm.trans (show ((endState 4 [] none Pin.reset).site 15).lane = [] from rfl)) (List.cons_ne_nil _ _)

/-! The opcodes. -/

/-- A block of one vector with an opcode and an operand, which has been issued. -/
def blockOf (opc opnd : Nat) : Block := ⟨⟨opc, false, false, false, 0, 1, 0, false, 0, opnd⟩, ⟨65535, 0⟩, 1, 0, 2500, false, none, none⟩

/-- That block as a decision block with a condition. -/
def blockIf (opc opnd cond : Nat) (dec : Option Nat) : Block := { blockOf opc opnd with hdr := { (blockOf opc opnd).hdr with cond := cond }, dec := dec }

/-- The sequencer at a block. -/
def seqAt (b : Block) : SeqState := { SeqState.reset with pos := ⟨65535, 0⟩, blk := some b }

/-- Site 15, RUNNING with its sequencer as given in segment 65535; segment 65534 is in a state; on-chip memory starts with some bytes. -/
def codeState (q : SeqState) (x : SegState) (l : List (Fld × Nat)) (shadow : Sparse Word) (bs : List Byte) : State :=
  { withSite 15 { Site.reset with
        segs := [(65534, ⟨x, entry63 false⟩), (65535, ⟨.active, entry63 false⟩)]
        seq := q
        spec := { SpecState.reset with window := unstarted, nextVec := 1 }
        shadow := shadow }
      (siteRegs 3 ([(SITE_SEGTAB_RANGE_FIRST 15, 65534), (SITE_SEGTAB_RANGE_LAST 15, 65535)] ++ l)) with
    mem := memOf 0 bs }

/-- The state at a block, without more. -/
def atBlock (b : Block) : State := codeState (seqAt b) .active [] [] []

/-- Whether a state is at a block of an opcode that can be carried out. -/
def atOpcode (s : State) (b : Block) (opc : Nat) : Bool :=
  s.issuing 15 && decide ((s.site 15).seq.blk = some b) && decide (b.hdr.opc = opc) && s.opReady 15 b

/-- Whether the segment goes on after a block. -/
def goesOn (s : State) (b : Block) : Bool := decide ((s.nextPos 15 b.pos b.hdr).off < (s.seg 15 b.pos.seg).entry.length)

/-- Opcodes: VEC within and at the end of its segment, RPT before and at its last play, LBEG on its way back, below and at the depth of 8, LEND without a loop,
within one and at its end. -/
theorem witness_Opcodes_loops :
    (∀ off ∈ [0, 254], let b := { blockOf 0 0 with pos := ⟨65535, off⟩ };
      atOpcode (atBlock b) b 0 = true ∧ goesOn (atBlock b) b = decide (off = 0)) ∧
      (∀ n ∈ [1, 2], let b := blockOf 1 n;
        atOpcode (atBlock b) b 1 = true ∧ goesOn (atBlock b) b = true ∧ (decide (b.plays + 1 < b.hdr.opnd)) = decide (n = 2)) ∧
      (let b := { blockOf 2 5 with reentry := true };
        atOpcode (atBlock b) b 2 = true ∧ b.reentry = true ∧ goesOn (atBlock b) b = true) ∧
      (∀ n ∈ [7, 8], let b := blockOf 2 5;
        let s := codeState { seqAt b with loops := List.replicate n ⟨⟨65535, 0⟩, 1⟩ } .active [] [] [];
        atOpcode s b 2 = true ∧ b.reentry = false ∧ (s.site 15).seq.loops.length = n ∧ goesOn s b = true) ∧
      (let b := blockOf 3 0;
        atOpcode (atBlock b) b 3 = true ∧ ((atBlock b).site 15).seq.loops = []) ∧
      (∀ n, n < 2 → let b := blockOf 3 0;
        let s := codeState { seqAt b with loops := [⟨⟨65535, 0⟩, n⟩] } .active [] [] [];
        atOpcode s b 3 = true ∧ (s.site 15).seq.loops = ⟨⟨65535, 0⟩, n⟩ :: [] ∧ goesOn s b = true ∧ (s.site 15).str.cache.head ≠ some ⟨65535, 0⟩) := by
  decide +kernel

/-- Opcodes: MLOOP on a counter and on another condition, before and at its limit, JMP within and past its segment, and JC on a counter and predicted. -/
theorem witness_Opcodes_jumps :
    (∀ left, left < 2 → let b := blockIf 4 2 6 none;
      let s := { codeState { seqAt b with loops := [⟨⟨65535, 0⟩, left⟩] } .active [] [] [] with
        sites := [(15, { Site.reset with segs := [(65535, ⟨.active, entry63 false⟩)], seq := { seqAt b with loops := [⟨⟨65535, 0⟩, left⟩] } })] };
      atOpcode s b 4 = true ∧ b.hdr.cond = 6 ∧ b.plays + 1 ≠ b.hdr.limit ∧ s.counterZero 15 b.hdr = decide (left = 0) ∧ goesOn s b = true ∧
        (s.site 15).spec.window = []) ∧
      (∀ opnd ∈ [2, 2 ^ 29 + 1], let b := blockIf 4 opnd 0 (some 0);
        atOpcode (atBlock b) b 4 = true ∧ b.hdr.cond ≠ 6 ∧ goesOn (atBlock b) b = true ∧ b.dec = some 0 ∧
          (b.plays + 1 = b.hdr.limit → bitOf b.hdr.opnd 29 = true) ∧ decide (b.plays + 1 = b.hdr.limit) = decide (opnd ≠ 2)) ∧
      (let b := blockIf 4 1 6 none;
        let s := codeState { seqAt b with loops := [⟨⟨65535, 0⟩, 1⟩] } .active [] [] [];
        atOpcode s b 4 = true ∧ b.hdr.cond = 6 ∧ b.plays + 1 = b.hdr.limit ∧ bitOf b.hdr.opnd 29 = false ∧ s.counterZero 15 b.hdr = false) ∧
      (∀ opc ∈ [5, 6], let b := blockIf opc 2 6 none;
        let s := atBlock b;
        atOpcode s b opc = true ∧ b.hdr.opnd < (s.seg 15 b.pos.seg).entry.length ∧ s.blockStart 15 b.pos.seg b.hdr.opnd (b.hdr.opnd + 1) 0 = true ∧
          goesOn s b = true ∧ b.hdr.cond = 6) ∧
      (let b := blockOf 5 256;
        atOpcode (atBlock b) b 5 = true ∧ ((atBlock b).seg 15 b.pos.seg).entry.length ≤ b.hdr.opnd) ∧
      (let b := blockIf 6 2 0 (some 0);
        atOpcode (atBlock b) b 6 = true ∧ goesOn (atBlock b) b = true ∧ b.hdr.cond ≠ 6 ∧ b.dec = some 0) := by
  decide +kernel

/-- Opcodes: CALL at the depth of 8 and below it, to an id out of range and to a segment that is INACTIVE and ACTIVE, RET without and with a call, and NEXT. -/
theorem witness_Opcodes_calls :
    (∀ n ∈ [7, 8], ∀ id ∈ [65533, 65534], ∀ x ∈ [SegState.inactive, .active], let b := blockOf 7 id;
      let s := codeState { seqAt b with calls := List.replicate n ⟨⟨65535, 0⟩, 0⟩ } x [] [] [];
      atOpcode s b 7 = true ∧ (s.site 15).seq.calls.length = n ∧ s.segInRange 15 (b.hdr.opnd % 2 ^ 16) = decide (id = 65534) ∧
        (s.seg 15 65534).state = x ∧ (s.seg 15 65534).entry.loc = false ∧ s.segPlayable 15 65534 = true) ∧
      (let b := blockOf 8 0;
        atOpcode (atBlock b) b 8 = true ∧ ((atBlock b).site 15).seq.calls = []) ∧
      (let b := blockOf 8 0;
        let s := codeState { seqAt b with calls := [⟨⟨65535, 255⟩, 0⟩] } .active [] [] [];
        atOpcode s b 8 = true ∧ (s.site 15).seq.calls = ⟨⟨65535, 255⟩, 0⟩ :: [] ∧ (s.site 15).seq.loops.length ≤ 0 ∧ 255 < (s.seg 15 65535).entry.length ∧
          65535 = b.pos.seg) ∧
      (∀ id ∈ [65534, 65535], ∀ x ∈ [SegState.inactive, .active], let b := blockOf 10 id;
        let s := codeState (seqAt b) x [] [] [];
        atOpcode s b 10 = true ∧ s.segInRange 15 (b.hdr.opnd % 2 ^ 16) = true ∧ (s.seg 15 65534).state = x ∧ (s.seg 15 65535).state = .active ∧
          (s.seg 15 id).entry.loc = false ∧ s.segPlayable 15 id = true ∧ (s.site 15).seq.pos.seg = 65535 ∧ (s.site 15).seq.calls = [] ∧
          (s.site 15).seq.loops = [] ∧ (s.site 15).spec.decisions = [] ∧ (s.site 15).spec.leaves = []) := by
  decide +kernel

/-- Site 15 at an XACT block at a level, with two lists, the last of which has one entry. -/
def xactState (level list : Nat) : State :=
  codeState (seqAt (blockOf 0x11 list)) .active [(SYS_SITE_LEVEL_LEVEL_S 15, level)]
    [((XE_SITE_LIST_BASE 15).addr, word ocmBase), ((XE_SITE_LIST_COUNT 15).addr, 2)] (List.replicate 12 0 ++ leBytes 4 1)

/-- Opcodes: those that put something into the lane, XACT at pin level, with a bad list and with a good one, STOP and HALT, and the next block with a reserved opcode
and with a good one. -/
theorem witness_Opcodes_lanes :
    (∀ opc ∈ [9, 0xB, 0xC, 0xD, 0xE, 0xF, 0x10, 0x12, 0x13], let b := blockOf opc 0;
      let s := atBlock b;
      atOpcode s b opc = true ∧ goesOn s b = true ∧ (s.seg 15 b.pos.seg).entry.loc = false ∧ s.get (SITE_STR_STATUS_STATE 15) ≠ 3 ∧
        (s.site 15).spec.decisions = [] ∧ (s.site 15).lane.any LaneItem.waits = false) ∧
      (∀ level, level < 2 → ∀ list ∈ [1, 2], let s := xactState level list;
        atOpcode s (blockOf 0x11 list) 0x11 = true ∧ s.level 15 = level ∧ s.cfg 15 (XE_SITE_LIST_COUNT 15) = 2 ∧
          (list = 1 → bitsOf (s.ocmAt (s.cfg 15 (XE_SITE_LIST_BASE 15) / 8 * 8 + 8 * list + 4)) 0 16 ≠ 0)) ∧
      commitsNothing (xactState 1 1) 15 ∧
      (∀ opc ∈ [0x14, 0x12], let s := codeState { SeqState.reset with pos := ⟨65535, 0⟩ } .active [] [] [opc];
        s.get (SITE_STR_STATUS_STATE 15) ≠ 3 ∧ s.issuing 15 = true ∧ (s.site 15).seq.blk = none ∧ (s.site 15).seq.waitSeg = none ∧
          s.fenceWaits 15 = false ∧ s.segReadable 15 65535 0 8 = true ∧ (s.seg 15 65535).entry.loc = false ∧ s.segWordBad 15 65535 0 = false ∧
          s.segWordBad 15 65535 4 = false ∧ (s.headerAt 15 ⟨65535, 0⟩).opc = opc.toNat ∧
          (opc = 0x12 → s.headerFault 15 ⟨65535, 0⟩ (s.headerAt 15 ⟨65535, 0⟩) = none)) := by
  refine ⟨by decide +kernel, by decide +kernel, ⟨⟨_, _, rfl, .inl rfl, fun p _ x _ => Nat.zero_le _⟩, rfl, ?_⟩, by decide +kernel⟩
  have h : (xactState 1 1).siteSt 15 ≠ stXact := by decide +kernel
  exact h

/-! What the pins play and what comes back. -/

/-- Site 15 in a state, as given, with pin 511 as given. -/
def playState (st : Nat) (u : Site) (q : Pin) (l : List (Fld × Nat)) : State := withPin 511 q (withSite 15 u (siteRegs st l))

/-- A site in a burst that has started, whose vector 0 is issued and has not started, with its last cycle's end at a time. -/
def playing (c : Nat) : Site :=
  { Site.reset with spec := { SpecState.reset with window := unstarted, nextVec := 2 }, burst := { BurstState.reset with started := true, cycleEnd := c } }

/-- Nothing of that site can commit while it runs. -/
theorem playState_commitsNothing (u : Site) (q : Pin) (l : List (Fld × Nat)) (hw : u.spec.window = unstarted)
    (hs : (playState 3 Site.reset Pin.reset l).xe.runs = [] ∧ (playState 3 Site.reset Pin.reset l).siteSt 15 ≠ stXact) :
    commitsNothing (playState 3 u q l) 15 := by
  refine ⟨⟨⟨⟨0, ⟨0, 0⟩, 0, 0, 2500, [], none, false, none, []⟩, none, 0, [], false, false, false, 0, none⟩, [], ?_, .inl rfl, fun p _ x _ => Nat.zero_le _⟩,
    hs.1, hs.2⟩
  exact hw

/-- VectorsPlay: the last vector of a block while its burst has not started and while its stream is steady, and a vector of the engine. -/
theorem witness_VectorsPlay_issue :
    (let b := { blockOf 0 0 with vix := 0 };
      let s := atBlock b;
      s.siteSt 15 ≠ 5 ∧ s.get (SITE_STR_STATUS_STATE 15) ≠ 3 ∧ s.issuing 15 = true ∧ (s.site 15).seq.blk = some b ∧ b.vix < b.own ∧
        (s.site 15).laneVecs < s.lead 15 ∧ s.stopWhy 15 = .free ∧ (s.seg 15 b.pos.seg).entry.loc = false ∧ b.hdr.decides = false ∧
        (s.site 15).burst.started = false ∧ s.segReadable 15 b.pos.seg (8 * b.pos.off + 8 + 4 * maskCount (s.seg 15 b.pos.seg).entry.gmask * b.vix)
          (4 * maskCount (s.seg 15 b.pos.seg).entry.gmask) = true ∧ (s.makeVec 15 b b.dec).words.all (fun w => w.bad.isNone) = true) ∧
      (let s := playState 3 (playing 0) Pin.reset [(SITE_STR_STATUS_STATE 15, 1)];
        s.get (SITE_STR_STATUS_STATE 15) = 1 ∧ 1024 * (s.site 15).str.low ≤ (s.site 15).str.level) ∧
      (let s := engineState 0 0 { XeState.reset with sites := [(15, { XeSite.reset with count := 1 })] };
        s.siteSt 15 = 5 ∧ (s.site 15).burst.end_ = none ∧ (s.site 15).laneVecs < s.lead 15 ∧ s.get (SITE_STR_STATUS_STATE 15) ≠ 3 ∧
          (s.site 15).spec.window.length < 2048 ∧ (s.site 15).burst.started = false ∧ (∀ n, n < 128 → s.portRunning n = false) ∧
          (s.xeSite 15).next < (s.xeSite 15).count ∧ (s.xeSite 15).stop = false) := by
  decide +kernel

/-- Vector 1, with a word for group 63. -/
def nextVector : Vec := ⟨2 ^ 25, ⟨65535, 0⟩, 1, 0, 2500, [⟨63, some 0, none⟩], none, false, none, []⟩

/-- The states of a cycle boundary: a vector, a counted hold, an ABORT and an empty lane. -/
def firstCycleState : State :=
  playState 3 { playing 1000 with lane := [.vec nextVector] } Pin.reset [(PIN_WS_ENTRY 511 0 0, 2 ^ 12), (PIN_TS_E_TIME 511 0 4, 4999)]
def holdState : State := playState 3 { playing 1000 with lane := [.hold (some 1) false] } Pin.reset []
def abortState : State := playState 3 { playing 1000 with burst := { (playing 1000).burst with abort := some ⟨.abort, 1⟩ } } Pin.reset []
def emptyState : State := playState 3 (playing 1000) Pin.reset []

/-- VectorsPlay: a cycle boundary with a vector whose edge is the last in range, at the last vector of a hold, at an ABORT, and with nothing to play. -/
theorem witness_VectorsPlay_cycle :
    (∀ s ∈ [firstCycleState, holdState, abortState, emptyState], s.inBurst 15 = true ∧ (s.site 15).burst.started = true ∧
        (s.site 15).burst.endPending = none ∧ s.siteSt 15 ≠ stXact ∧ (s.site 15).burst.end_ = none ∧ s.running 15 = true ∧ s.stopWhy 15 = .free ∧
        (s.site 15).spec.restart = .free) ∧
      (commitsNothing firstCycleState 15 ∧ commitsNothing holdState 15 ∧ commitsNothing abortState 15 ∧ commitsNothing emptyState 15) ∧
      (let s := firstCycleState;
        (s.site 15).burst.abort = none ∧ (s.site 15).lane = .vec nextVector :: [] ∧
          (((s.site 15).spec.window.head?).all (fun e => decide (e.vec.id ≠ nextVector.id)) = true) ∧ s.coherent 15 = false ∧
          (s.site 15).burst.undef = false ∧ nextVector.words.Pairwise (fun a b => a.group ≠ b.group) ∧ (s.pin 511).clock = none ∧
          entryEdges (s.entryOf 511 nextVector.ts (symOf 0 (511 % 8))) = [(4, .on)] ∧ s.get (PIN_TS_E_TIME 511 nextVector.ts 4) < 2 * 2500) ∧
      ((holdState.site 15).burst.abort = none ∧ (holdState.site 15).lane = .hold (some (0 + 1)) false :: []) ∧
      ((abortState.site 15).burst.abort = some ⟨.abort, 1⟩ ∧ (abortState.site 15).lane = []) ∧
      ((emptyState.site 15).burst.abort = none ∧ (emptyState.site 15).lane = [] ∧ emptyState.xactWaits 15 = false) := by
  refine ⟨by decide +kernel, ⟨?_, ?_, ?_, ?_⟩, by decide +kernel⟩ <;> exact playState_commitsNothing _ _ _ rfl (by decide +kernel)

/-- A drive action of vector 0 at a time. -/
def edgeAt (x : Nat) : DriveEdge := ⟨x, 0, 0, .drive .high⟩

/-- A clock of period 2500 at its toggle 2, driving a level. -/
def clockAt (high : Bool) : ClockRun := ⟨0, 2, 2500, high, [], .low⟩

/-- A strobe of vector 1 at 0, of a kind. -/
def strobeOf (k : StrobeKind) : Strobe := ⟨0, 2 ^ 25, 0, .high, k⟩

/-- VectorsPlay: an edge without a cluster, just within one and just after one, a toggle that drives and one that does not, and a strobe of each kind. -/
theorem witness_VectorsPlay_pins :
    (∀ x ∈ [(none, 0), (some ⟨0, ⟨false, .low⟩, ⟨true, .high⟩, [], none⟩, 599), (some ⟨0, ⟨false, .low⟩, ⟨true, .high⟩, [], none⟩, 600)],
        let s := playState 3 (playing 601) { Pin.reset with edges := [edgeAt x.2], cluster := x.1 } [];
        s.disconnected 511 = false ∧ firstEdge (s.pin 511).edges = some x.2 ∧ x.2 < s.edgeLimit 511 ∧
          (∀ e ∈ (s.pin 511).edges, e.vec ∉ (s.pin 511).undefVecs) ∧ (s.pin 511).cluster = x.1) ∧
      ((⟨true, .high⟩ : Drive) ≠ ⟨false, .low⟩) ∧
      (∀ high ∈ [true, false], let s := playState 3 (playing 2501) { Pin.reset with clock := some (clockAt high) } [(PIN_CLK_CFG_MUL 511, 0), (PIN_CLK_CFG_DIV 511, 0)];
        s.pinOwner 511 = some 15 ∧ s.inBurst 15 = true ∧ (s.pin 511).clock = some (clockAt high) ∧ (clockAt high).changes = [] ∧ (s.pin 511).cluster = none ∧ s.get (PIN_CLK_CFG_MUL 511) = 0 ∧
          s.get (PIN_CLK_CFG_DIV 511) = 0 ∧ (togglePos (clockAt high) 1 1 2).toNat < (s.site 15).burst.cycleEnd ∧
          1200 * (0 + 1) ≤ (clockAt high).period * (0 + 1) ∧ decide ((clockAt high).next % 2 = 0) = true ∧ (clockAt high).high = high ∧
          s.disconnected 511 = false ∧ (s.pin 511).lastDriven = none) ∧
      (∀ k ∈ [StrobeKind.edge, .windowOpen, .windowClose, .capture 7 (.store 0 none)],
        let s := playState 3 (playing 1) { Pin.reset with strobes := [strobeOf k], windows := [⟨2 ^ 25, .high, false⟩] } [];
        s.pinOwner 511 = some 15 ∧ firstStrobe (s.pin 511).strobes = some (strobeOf k) ∧ (strobeOf k).pos < s.edgeLimit 511 ∧ s.disconnected 511 = false ∧
          (strobeOf k).vec ∉ (s.pin 511).undefVecs ∧ (strobeOf k).kind = k ∧ (s.pin 511).windows.find? (fun w => decide (w.vec = (strobeOf k).vec)) = some ⟨2 ^ 25, .high, false⟩) := by
  decide +kernel

/-- A decision on no fail in vector 0, whose results are all back, predicted one way or the other. -/
def decisionOf (predTaken : Bool) : Decision :=
  { id := 0, cond := 0, inv := false, csel := 0, firstVec := 0, lastVec := some 0, mloop := false, cont := false, limit := false, iter := 0, fenced := false,
    pause := false, predTaken := predTaken, alt := some (.go SeqState.reset), placed := 1, returned := 1, fails := 0, pinHigh := false, pinAt := none, latest := 500,
    strobed := true, cStart := none, played := some (0, 1000), event := none, fsync := false }

/-- A result of vector 1 on pin 511. -/
def resultOf1 : StrobeResult := ⟨511, 2 ^ 25, 0, 0, true, false, false⟩

/-- The states in which a result returns, a decision resolves, and a record is written that just fits the ring. -/
def returnState : State := playState 3 { playing 1000 with spec := { (playing 1000).spec with returns := [resultOf1] } } Pin.reset []
def decidedState (predTaken : Bool) : State :=
  playState 3 { playing 1000 with spec := { (playing 1000).spec with decisions := [decisionOf predTaken] } } Pin.reset []
def logState : State :=
  playState 3 { playing 1000 with
      cap := { CaptureState.reset with queue := [⟨List.replicate 160 1, false, 0, ⟨65535, 0⟩⟩] }
      shadow := [((SITE_FLOG_CFG_MODE 15).addr, 1), ((SITE_FLOG_BASE_LO_BASE 15).addr, word ocmBase), ((SITE_FLOG_SIZE 15).addr, 160)] } Pin.reset []

/-- VectorsPlay: a result that returns, a decision that goes as predicted and one that does not, and a fail record that just fits. -/
theorem witness_VectorsPlay_back :
    (commitsNothing returnState 15 ∧ (∀ b, commitsNothing (decidedState b) 15) ∧ commitsNothing logState 15 ∧ memPlain logState) ∧
      ((returnState.site 15).spec.returns.find? (fun r => returnState.groupSampled (r.pin / 8) r.vec) = some resultOf1 ∧
        returnState.inBurst 15 = true ∧ ((returnState.site 15).spec.window.head?).all (fun e => decide (e.vec.id ≠ resultOf1.vec)) = true) ∧
      (∀ b ∈ [true, false], let s := decidedState b;
        (s.site 15).spec.decisions = decisionOf b :: [] ∧ s.decisionKnown 15 (decisionOf b) = true ∧ (decisionOf b).lastVec = some 0 ∧
          ((s.site 15).spec.window.head?).all (fun e => decide (e.vec.id ≤ 0)) = true ∧ (s.site 15).spec.leaves = [] ∧ (s.site 15).burst.end_ = none ∧
          decide ((s.at_ (s.decisionAt (decisionOf b))).outcome 15 (decisionOf b) = (decisionOf b).predTaken) = b ∧ (s.site 15).burst.endPending = none ∧
          (decisionOf b).mloop = false ∧ (decisionOf b).fenced = false) ∧
      (let s := logState;
        let r : LogRec := ⟨List.replicate 160 1, false, 0, ⟨65535, 0⟩⟩;
        (s.site 15).cap.queue = r :: [] ∧ s.cfg 15 (SITE_FLOG_CFG_MODE 15) = 1 ∧ (s.site 15).cap.closed = false ∧ s.region (s.flogBase 15) = .ocm (4 * 0) ∧
          s.rangeServed (.ocm (4 * 0)) (s.flogSize 15) = .ok ∧ 4 * 0 + s.flogSize 15 ≤ 0x3C00000 ∧ r.bytes.length % 4 = 0 ∧ s.flogLimit 15 = false ∧
          r.bytes.length + s.flogUsed 15 ≤ s.flogSize 15 ∧ s.get (SITE_FLOG_HEAD 15) % 4 = 0 ∧ s.get (SITE_FLOG_HEAD 15) + r.bytes.length ≤ s.flogSize 15 ∧
          r.bytes ≠ []) := by
  refine ⟨⟨playState_commitsNothing _ _ _ rfl (by decide +kernel), fun b => playState_commitsNothing _ _ _ rfl (by decide +kernel),
    playState_commitsNothing _ _ _ rfl (by decide +kernel), memPlain_of_banks ⟨rfl, rfl, rfl⟩ (by decide +kernel)⟩, by decide +kernel, by decide +kernel,
    by decide +kernel⟩

/-! Flows. -/

/-- A run of a flow whose table of one step stands at the start of on-chip memory, with batches of two records. -/
def flowOf : FlowState :=
  { FlowState.reset with cfg := [0, word ocmBase, 1, 0, 0, fieldPut (SVC_DLOG_CFG_BATCH 15).lo (SVC_DLOG_CFG_BATCH 15).len 0 2, word (ocmBase + 4096), 0, 4096] }

/-- A datalog with a header and no record yet. -/
def dlogOf : DlogState := { DlogState.reset with wpos := 256, header := some 0 }

/-- Site 15 at service level, its flow RUNNING at a step of some words, with a ring of 4,096 bytes behind the table. -/
def flowState (ws : List Nat) (f : FlowState) (d : DlogState) : State :=
  { siteRegs 0 [(SYS_SITE_LEVEL_LEVEL_S 15, 2), (PWR_STATUS_DEV_STATE, 2), (SVC_STAT_STATE 15, 1), (SVC_DLOG_BASE_LO_BASE 15, ocmBase + 4096),
      (SVC_DLOG_BASE_HI_BASE 15, 0), (SVC_DLOG_SIZE 15, 4096), (SVC_DLOG_CFG_BATCH 15, 2)] with
    mem := memOf 0 (ws.flatMap (leBytes 4)), svc := { SvcState.reset with flows := [(15, f)], dlogs := [(15, d)] } }

theorem flowState_plain (ws : List Nat) (f : FlowState) (d : DlogState) : memPlain (flowState ws f d) :=
  memPlain_of_banks ⟨rfl, rfl, rfl⟩ (by
    have h : ∀ k, k < 64 → (flowState [] flowOf dlogOf).phys k = k := by decide +kernel
    exact h)

theorem flowState_at {ws : List Nat} {f : FlowState} {d : DlogState} {k : Nat}
    (h : let s := flowState ws f d;
      s.flowReady 15 = true ∧ (s.flow 15).step < min 1024 (s.svcCfg 15 2 (SVC_FLOW_COUNT 15)) ∧ s.region (s.flowAt 15) = .ocm 0 ∧
        s.rangeServed (.ocm 0) 32 = .ok ∧ bitsOf (s.flowWord 15 0) 0 4 = k) : flowAtStep (flowState ws f d) 15 0 k :=
  ⟨h.1, h.2.1, flowState_plain ws f d, h.2.2.1, h.2.2.2.1, h.2.2.2.2⟩

theorem flowState_room {ws : List Nat} {f : FlowState} {d : DlogState} {n : Nat}
    (h : let s := flowState ws f d;
      s.region (s.dlogBase 15) = .ocm 4096 ∧ 4096 + s.dlogSize 15 ≤ 0x3C00000 ∧ s.ringPlaced (s.dlogBase 15) (s.dlogSize 15) = true ∧
        s.rangeServed (.ocm 4096) (s.dlogSize 15) = .ok ∧ (s.dlog 15).header.isSome = true ∧ 32 ≤ s.dlogFree 15 ∧ (s.dlog 15).wpos % 4 = 0 ∧
        (s.dlog 15).wpos + 32 ≤ s.dlogSize 15 ∧ (s.dlog 15).recs.length / 32 + 1 < max 1 n) : ringRoom (flowState ws f d) 15 4096 n :=
  ⟨flowState_plain ws f d, h⟩

/-- FlowSteps: a step of every kind, of the reserved kind 12 and past the table, at the ring that is open. -/
theorem witness_FlowSteps_kinds :
    (∀ k, k < 13 → flowAtStep (flowState [k] flowOf dlogOf) 15 0 k) ∧
      (∀ ws ret, ringOpen (flowState ws { flowOf with ret := ret } dlogOf) 15 4096) ∧
      (let s := flowState [] { flowOf with step := 1 } dlogOf;
        s.flowReady 15 = true ∧ min 1024 (s.svcCfg 15 2 (SVC_FLOW_COUNT 15)) ≤ (s.flow 15).step) ∧
      ringOpen (flowState [] { flowOf with step := 1 } dlogOf) 15 4096 ∧
      (flowAtStep (flowState [0xB] { flowOf with ret := some 3 } dlogOf) 15 0 0xB ∧ ((flowState [0xB] { flowOf with ret := some 3 } dlogOf).flow 15).ret = some 3 ∧
        ((flowState [0xB] flowOf dlogOf).flow 15).ret = none) := by
  refine ⟨fun k hk => flowState_at (by revert k; decide +kernel), fun ws ret => flowState_room ?_, by decide +kernel, flowState_room (by decide +kernel),
    flowState_at (by decide +kernel), by decide +kernel, by decide +kernel⟩
  have h : let s := flowState [] flowOf dlogOf;
      s.region (s.dlogBase 15) = .ocm 4096 ∧ 4096 + s.dlogSize 15 ≤ 0x3C00000 ∧ s.ringPlaced (s.dlogBase 15) (s.dlogSize 15) = true ∧
        s.rangeServed (.ocm 4096) (s.dlogSize 15) = .ok ∧ (s.dlog 15).header.isSome = true ∧ 32 ≤ s.dlogFree 15 ∧ (s.dlog 15).wpos % 4 = 0 ∧
        (s.dlog 15).wpos + 32 ≤ s.dlogSize 15 ∧ (s.dlog 15).recs.length / 32 + 1 < max 1 (s.dlogCfg 15 (SVC_DLOG_CFG_BATCH 15)) := by decide +kernel
  exact h

/-- FlowSteps: each operation of CALC and a reserved one, LIMIT with and without its record, each source of MEAS, a WAIT that ends just at its timeout
and one that comes just too late, and the words that MEAS and WRITE reach. -/
theorem witness_FlowSteps_operands :
    (∀ op, op < 7 → let s := flowState [4, op] flowOf dlogOf;
        bitsOf (s.flowWord 15 0) 0 4 = 4 ∧ bitsOf (s.flowWord 15 1) 0 3 = op) ∧
      (∀ b, b < 2 → let s := flowState [5 + 2 ^ 16 * b] flowOf dlogOf;
        bitsOf (s.flowWord 15 0) 0 4 = 5 ∧ bitOf (s.flowWord 15 0) 16 = decide (b = 1)) ∧
      (∀ w1 ∈ [0x10, 0x22, 0x3, 0x4, 0x14, 0x7], let s := flowState [3, w1] flowOf dlogOf;
        (s.measure 15 (bitsOf w1 0 4) (bitsOf w1 4 4) (bitsOf w1 16 10)).any (fun m => decide (-(2 ^ 63) ≤ m.1) && decide (m.1 < 2 ^ 63)) = true) ∧
      (∀ w1 ∈ [0x16, 0x8], bitsOf w1 0 4 = (if w1 = 0x8 then 8 else 6) ∧ bitsOf w1 4 4 ≤ 1) ∧
      (let s := flowState [] { flowOf with wait := .wait 0 0 0 (some 5) (some 5) none } dlogOf;
        (s.flow 15).wait = .wait 0 0 0 (some 5) (some 5) none ∧ 5 ≤ 5) ∧
      (let s := flowState [] { flowOf with wait := .wait 3 31 0 none (some 5) (some 6) } dlogOf;
        (s.flow 15).wait = .wait 3 31 0 none (some 5) (some 6) ∧ 5 < 6) ∧
      (let s := flowState [] { flowOf with wait := .wait 3 31 0 none (some 5) none } dlogOf;
        (s.flow 15).wait = .wait 3 31 0 none (some 5) none) ∧
      (∀ k ∈ [3, 9], (flowState [k, 6, ocmBase + 4 * 0xEFFFFF] flowOf dlogOf).stepAddr 15 = ocmBase + 4 * 0xEFFFFF) ∧
      (∀ ws, portBFree (flowState ws flowOf dlogOf) (.flow 15) (4 * 0xEFFFFF) 4) := by
  refine ⟨by decide +kernel, by decide +kernel, by decide +kernel, by decide +kernel, by decide +kernel, by decide +kernel, by decide +kernel,
    by decide +kernel, fun ws => portBFree_of_bytes ⟨rfl, rfl⟩ (by decide) ?_⟩
  have h : ∀ k, k < 4 → ((flowState [] flowOf dlogOf).bank (bankOf (4 * 0xEFFFFF + k))).power = .on ∧
      (inSecure (4 * 0xEFFFFF + k) = true → (flowState [] flowOf dlogOf).secureDenies (.flow 15) = false) := by decide +kernel
  exact h

/-- FlowSteps: the steps with those operands are ones that run. -/
theorem witness_FlowSteps_at :
    (∀ op, op < 7 → flowAtStep (flowState [4, op] flowOf dlogOf) 15 0 4) ∧
      (∀ b, b < 2 → flowAtStep (flowState [5 + 2 ^ 16 * b] flowOf dlogOf) 15 0 5) ∧
      (∀ w1 ∈ [0x10, 0x22, 0x3, 0x4, 0x14, 0x7, 0x16, 0x8], flowAtStep (flowState [3, w1] flowOf dlogOf) 15 0 3) ∧
      (∀ k ∈ [3, 9], flowAtStep (flowState [k, 6, ocmBase + 4 * 0xEFFFFF] flowOf dlogOf) 15 0 k) :=
  ⟨fun op h => flowState_at (by revert op; decide +kernel), fun b h => flowState_at (by revert b; decide +kernel),
    fun w1 h => flowState_at (by revert w1; decide +kernel), fun k h => flowState_at (by revert k; decide +kernel)⟩

/-- That flow in a state of the flow engine, with its site in a state, a segment to start from, one list, and values in some register fields. -/
def runState (fl st : Nat) (ws : List Nat) (f : FlowState) (d : DlogState) (l : List (Fld × Nat)) : State :=
  l.foldl (fun s x => s.set x.1 x.2)
    { ((flowState ws f d).set (SVC_STAT_STATE 15) fl).set (SITE_SEQ_STATUS_STATE 15) st with
      sites := [(15, { Site.reset with segs := [(65535, ⟨.queued, entry63 false⟩)] })] }

/-- FlowRuns: RUN of a halted flow and of one that runs, at service level and below it, and STOP of a flow at a step, in a WAIT and in a BURST. -/
theorem witness_FlowRuns_run :
    (∀ fl ∈ [0, 5], let s := runState fl 0 [] flowOf dlogOf [];
        s.level 15 = 2 ∧ s.inService = true ∧ (s.flowSt 15 = 0 ∨ s.flowSt 15 = 5)) ∧
      (let s := (flowState [] flowOf dlogOf).set (SVC_STAT_STATE 15) 0;
        ringRoom (s.updFlow 15 (fun g => { g with cfg := [0, 4, 8, 12, 16, 0x38, 0x24, 0x28, 0x2C].map (fun k => s.reg (0xB1000 + 256 * 15 + k)) })) 15 4096
            (s.get (SVC_DLOG_CFG_BATCH 15)) ∧
          s.level 15 = 2 ∧ s.inService = true ∧ s.flowSt 15 = 0 ∧ (s.dlog 15).moved = false) ∧
      ((flowState [] flowOf dlogOf).level 15 = 2 ∧ (flowState [] flowOf dlogOf).inService = true ∧ ¬ ((flowState [] flowOf dlogOf).flowSt 15 = 0 ∨ (flowState [] flowOf dlogOf).flowSt 15 = 5)) ∧
      (State.reset.level 15 ≠ 2 ∧ State.reset.inService = false) ∧
      (((flowState [] flowOf dlogOf).flow 15).wait = .none ∧ ((flowState [] flowOf dlogOf).flow 15).stall = none) ∧
      (let s := runState 4 0 [] { flowOf with stall := some (⟨1, false, false, false, false, 0, 0, 0⟩, .go 0) } dlogOf [];
        ¬ (s.flowSt 15 = 0 ∨ s.flowSt 15 = 5) ∧ (s.flow 15).wait = .none ∧ (s.flow 15).stall ≠ none) ∧
      (let s := runState 2 0 [] { flowOf with wait := .access } dlogOf [];
        ¬ (s.flowSt 15 = 0 ∨ s.flowSt 15 = 5) ∧ (s.flow 15).wait = .access) ∧
      (let s := runState 2 0 [] { flowOf with wait := .wait 0 0 0 (some 5) none none } dlogOf [];
        ¬ (s.flowSt 15 = 0 ∨ s.flowSt 15 = 5) ∧ (s.flow 15).wait = .wait 0 0 0 (some 5) none none) ∧
      (let s := runState 2 3 [] { flowOf with wait := .burst 1 0 false false } dlogOf [];
        ¬ (s.flowSt 15 = 0 ∨ s.flowSt 15 = 5) ∧ (s.flow 15).wait = .burst 1 0 false false ∧ s.running 15 = true) := by
  refine ⟨by decide +kernel, ⟨⟨memPlain_of_banks ⟨rfl, rfl, rfl⟩ (by decide +kernel), by decide +kernel⟩, by decide +kernel⟩, by decide +kernel, by decide +kernel,
    by decide +kernel, by decide +kernel, by decide +kernel, by decide +kernel, by decide +kernel, by decide +kernel⟩

theorem runState_plain (st : Nat) (hst : st < 4) (ws : List Nat) (f : FlowState) (d : DlogState) :
    memPlain (runState 1 st ws f d [(XE_SITE_LIST_COUNT 15, 65535), (SITE_SEGTAB_RANGE_FIRST 15, 65535), (SITE_SEGTAB_RANGE_LAST 15, 65535)]) :=
  memPlain_of_banks ⟨rfl, rfl, rfl⟩ (by
    have h : ∀ st, st < 4 → ∀ k, k < 64 →
        (runState 1 st [] flowOf dlogOf [(XE_SITE_LIST_COUNT 15, 65535), (SITE_SEGTAB_RANGE_FIRST 15, 65535), (SITE_SEGTAB_RANGE_LAST 15, 65535)]).phys k = k := by
      decide +kernel
    exact h st hst)

/-- A flow at a BURST or XLIST step of its segment or its last list, with its site in a state. -/
def startsState (st k n : Nat) : State :=
  runState 1 st [k, n] flowOf dlogOf [(XE_SITE_LIST_COUNT 15, 65535), (SITE_SEGTAB_RANGE_FIRST 15, 65535), (SITE_SEGTAB_RANGE_LAST 15, 65535)]

/-- FlowRuns: END with the largest bin, unset and set, and BURST and XLIST on a site that is IDLE and on one that is not. -/
theorem witness_FlowRuns_steps :
    (∀ bin ∈ [none, some 255], let s := flowState [0] { flowOf with bin := bin } dlogOf;
        flowAtStep s 15 0 0 ∧ ringOpen s 15 4096 ∧ s.dlogCfg 15 (SVC_DLOG_CFG_CLOSE_END 15) = 0 ∧
          (s.flow 15).bin.getD (s.svcCfg 15 0 (SVC_CFG_DEFAULT_BIN 15)) < 256 ∧ bitOf (s.flowWord 15 0) 17 = false) ∧
      (flowState [] flowOf dlogOf).canon = true ∧
      (∀ st ∈ [0, 3], ∀ k ∈ [1, 2], flowAtStep (startsState st k (65536 - k)) 15 0 k) ∧
      (∀ k ∈ [1, 2], let s := startsState 0 k (65536 - k);
        s.idle 15 = true ∧ s.inService = true ∧ bitsOf (s.flowWord 15 1) 0 16 = 65536 - k ∧
          s.startRefusal 15 (if k = 1 then some 65535 else none) = none ∧ s.canon = true ∧ (s.seg 15 65535).entry.loc = false ∧ s.armHold 15 = false ∧
          s.hotHeld 15 = false ∧ s.calHeld 15 = false ∧ 65534 < s.get (XE_SITE_LIST_COUNT 15)) ∧
      (startsState 3 1 65535).idle 15 = false := by
  refine ⟨fun bin h => ⟨flowState_at ?_, flowState_room ?_, ?_⟩, by decide +kernel, fun st hs k hk => ?_, by decide +kernel, by decide +kernel⟩
  · revert bin; decide +kernel
  · revert bin; decide +kernel
  · revert bin; decide +kernel
  · have h : ∀ st ∈ [0, 3], ∀ k ∈ [1, 2], st < 4 ∧ (let s := startsState st k (65536 - k);
        (s.flowReady 15 = true ∧ (s.flow 15).step < min 1024 (s.svcCfg 15 2 (SVC_FLOW_COUNT 15))) ∧ s.region (s.flowAt 15) = .ocm 0 ∧
          s.rangeServed (.ocm 0) 32 = .ok ∧ bitsOf (s.flowWord 15 0) 0 4 = k) := by decide +kernel
    have g := h st hs k hk
    exact ⟨g.2.1.1, g.2.1.2, runState_plain st g.1 _ _ _, g.2.2.1, g.2.2.2.1, g.2.2.2.2⟩

/-- That datalog full up to its tail. -/
def fullDlog : DlogState := { dlogOf with full := true }

/-- A datalog with a record in its batch. -/
def recordedDlog : DlogState := { dlogOf with wpos := 288, recs := List.replicate 32 1 }

/-- A batch that waits for its signature, by a key or by none. -/
def jobOf (key : Option Nat) : BatchJob := ⟨15, key, 0, 288, 0, List.replicate 56 0, List.replicate 48 0⟩

/-- The state in which that batch is signed. -/
def jobState (key : Option Nat) : State := { flowState [] flowOf dlogOf with svc := { SvcState.reset with flows := [(15, flowOf)], dlogs := [(15, { dlogOf with prev := List.replicate 48 0 })], jobs := [jobOf key] } }

theorem jobState_plain (key : Option Nat) (h : key = none ∨ key = some 0) : memPlain (jobState key) := by
  rcases h with rfl | rfl <;> exact memPlain_of_banks (by decide +kernel) (by decide +kernel)

/-- Little-endian bytes are as many as asked for. -/
theorem leBytes_count (n v : Nat) : (leBytes n v).length = n := by
  induction n generalizing v with
  | zero => rfl
  | succ n ih => simp only [leBytes, List.length_cons, ih]

/-- FlowRuns: LOG into an open batch and into a full ring of either kind, a handler without and with a match, the greatest one, a batch without and with a record,
and one that is signed by a key and by none. -/
theorem witness_FlowRuns_log :
    (flowAtStep (flowState [0xA] flowOf dlogOf) 15 0 0xA ∧ ringOpen (flowState [0xA] flowOf dlogOf) 15 4096) ∧
      (∀ full, full < 2 → let s := flowState [0xA] { flowOf with cfg := flowOf.cfg.set 5 (fieldPut (SVC_DLOG_CFG_FULL 15).lo 1 2 full) } fullDlog;
        flowAtStep s 15 0 0xA ∧ s.ringPlaced (s.dlogBase 15) (s.dlogSize 15) = true ∧
          s.dlogFree 15 < 32 + (if (s.dlog 15).header.isNone then 256 else 0) ∧ decide (s.dlogCfg 15 (SVC_DLOG_CFG_FULL 15) = 0) = decide (full = 0)) ∧
      ((flowState [] flowOf dlogOf).flow 15).queue = [] ∧
      (let s := runState 0 0 [] { flowOf with queue := [⟨0, 0, 0, 0, true⟩] } dlogOf [];
        (s.flow 15).queue ≠ [] ∧ s.flowSt 15 = 0 ∧ s.level 15 = 2 ∧ s.inService = true) ∧
      (let m : FlowMatch := ⟨2 ^ 16 - 1, 2 ^ 16 - 1, 2 ^ 32 - 1, 0, false⟩;
        let s := flowState [] { flowOf with queue := [m] } dlogOf;
        (s.flow 15).queue = m :: [] ∧ s.flowSt 15 = 1 ∧ (s.flow 15).wait = .none ∧ (s.flow 15).ret = none ∧ ringOpen s 15 4096 ∧ m.code < 2 ^ 16 ∧
          m.source < 2 ^ 16 ∧ m.data < 2 ^ 32) ∧
      ((flowState [] flowOf dlogOf).dlog 15).recs = [] ∧
      (let s := flowState [] flowOf recordedDlog;
        (s.dlog 15).recs ≠ [] ∧ (s.dlog 15).header = some 0 ∧ memPlain s ∧ s.region (s.dlogBase 15) = .ocm 4096 ∧ 4096 + s.dlogSize 15 ≤ 0x3C00000 ∧
          s.rangeServed (.ocm 4096) (s.dlogSize 15) = .ok ∧ s.nv.serial.length = 16 ∧ 0 % 4 = 0 ∧ 0 + 256 ≤ s.dlogSize 15 ∧ (sha384 (s.dlog 15).recs).length = 48) ∧
      (flowState [] flowOf dlogOf).svc.jobs = [] ∧
      (∀ key ∈ [none, some 0], (jobState key).svc.jobs = jobOf key :: [] ∧ memPlain (jobState key) ∧ (jobState key).region ((jobState key).dlogBase 15) = .ocm 4096 ∧
        4096 + (jobState key).dlogSize 15 ≤ 0x3C00000 ∧ (jobState key).rangeServed (.ocm 4096) ((jobState key).dlogSize 15) = .ok ∧
        (let body := (jobOf key).head ++ ((jobState key).dlog 15).prev ++ (jobOf key).hash;
          (body ++ (match (jobOf key).key with
            | none => List.replicate 96 0
            | some k => beBytes 48 (Config.sign k body).1 ++ beBytes 48 (Config.sign k body).2) ++ List.replicate 8 0).length = 256) ∧
        (jobOf key).header % 4 = 0 ∧ (jobOf key).header + 256 ≤ (jobState key).dlogSize 15) ∧
      ((flowState [] flowOf dlogOf).flow 15).stall = none := by
  refine ⟨⟨flowState_at (by decide +kernel), flowState_room (by decide +kernel)⟩, fun full h => ⟨flowState_at (by revert full; decide +kernel), by revert full; decide +kernel⟩,
    by decide +kernel, by decide +kernel, ⟨by decide +kernel, by decide +kernel, by decide +kernel, by decide +kernel, flowState_room (by decide +kernel), by decide +kernel⟩,
    by decide +kernel, ⟨by decide +kernel, by decide +kernel, flowState_plain _ _ _, by decide +kernel⟩, by decide +kernel,
    fun key hk => ?_, by decide +kernel⟩
  have h : ∀ key ∈ [none, some 0], (jobState key).region ((jobState key).dlogBase 15) = .ocm 4096 ∧ 4096 + (jobState key).dlogSize 15 ≤ 0x3C00000 ∧
      (jobState key).rangeServed (.ocm 4096) ((jobState key).dlogSize 15) = .ok ∧ (jobOf key).header + 256 ≤ (jobState key).dlogSize 15 ∧
      ((jobState key).dlog 15).prev.length = 48 ∧ (jobOf key).head.length = 56 ∧ (jobOf key).hash.length = 48 := by decide +kernel
  have g := h key hk
  refine ⟨rfl, jobState_plain key (by simpa using hk), g.1, g.2.1, g.2.2.1, ?_, rfl, g.2.2.2.1⟩
  rcases key with _ | k
  · simp only [List.length_append, List.length_replicate, g.2.2.2.2, show (jobOf none).key = none from rfl]
  · simp only [List.length_append, List.length_replicate, beBytes, List.length_reverse, leBytes_count, g.2.2.2.2, show (jobOf (some k)).key = some k from rfl]

/-! Calibration. -/

/-- A device in a state of a calibration run, with the unit as given. -/
def calRegs (run : Nat) (l : List (Fld × Nat)) (z : CalState) : State :=
  { regsOf ([(CAL_STATUS_RUN_STATE, run), (TB_REF_STATUS_LOCKED, 1), (TB_REF_STATUS_HOLDOVER, 0)] ++ l) with cal := z }

/-- A step on pin 511. -/
def calStepOf (kind : CalKind) (repeats : Nat) (spoiled : Bool) : CalStep := ⟨511, kind, repeats, spoiled, 0, [], false⟩

/-- A discarded step of it that waits to be repeated. -/
def calStepIdle (kind : CalKind) : CalStep := ⟨511, kind, 1, true, 0, [], true⟩

/-- Calibration: RUN of one step, the commands during a run and outside one, and COMMIT and COPY with an IDLE site and one that runs. -/
theorem witness_Calibration_commands :
    (let s := calRegs 0 [(CAL_RUN_PINS_FIRST, 511), (CAL_RUN_PINS_LAST, 511), (CAL_RUN_CFG_KINDS, 4)] CalState.reset;
      s.calRunning = false ∧ s.calPlan = [(511, .tdr)]) ∧
      (let s := calRegs 1 [] { CalState.reset with steps := [calStepOf .level 0 false], todo := [(511, .tdr)] };
        s.calRunning = true ∧ s.cal.steps ≠ [] ∧ ∀ x ∈ s.cal.todo, x.1 < 512) ∧
      (let s := { siteRegs 3 [] with cal := { CalState.reset with committed := [(0x4000, 1), (0xFFFC, 2)] } };
        s.canon = true ∧ Sparse.wf (fun _ => (0 : Word)) s.cal.committed = true ∧ (∀ e ∈ s.cal.committed, 0x4000 ≤ e.1 ∧ e.1 < 0x10000) ∧
          s.owned 0 = false ∧ s.owned 63 = true ∧ s.idle 15 = false ∧ 63 ∈ s.groups 15 ∧ s.idle 0 = true) ∧
      (State.reset.canon = true ∧ ∀ i, i < 16 → State.reset.idle i = true) := by
  decide +kernel

/-- Calibration: an octant whose step is in progress, a step that begins, one that may not, and one whose site has started. -/
theorem witness_Calibration_starts :
    (State.reset.calRunning = false ∧ ∀ c ∈ State.reset.cal.steps, c.pin / 64 = 7 → c.idle = false) ∧
      (let s := calRegs 1 [] { CalState.reset with steps := [calStepOf .level 0 false] };
        s.calRunning = true ∧ calStepOf .level 0 false ∈ s.cal.steps ∧ (calStepOf .level 0 false).pin / 64 = 7 ∧
          ∀ c ∈ s.cal.steps, c.pin / 64 = 7 → c.idle = false) ∧
      (∀ kind ∈ [CalKind.level, .timing, .tdr], let s := calRegs 1 [] { CalState.reset with todo := [(511, kind)] };
        s.calRunning = true ∧ (∀ c ∈ s.cal.steps, c.pin / 64 ≠ 7) ∧ s.cal.todo.find? (fun x => decide (x.1 / 64 = 7)) = some (511, kind) ∧
          s.calBusy 511 = false ∧ s.calAllowed 511 = true) ∧
      (let s := calRegs 1 [(PIN_FESTAT_TRIP 511, 1)] { CalState.reset with todo := [(511, .level), (511, .tdr)] };
        s.calRunning = true ∧ s.cal.todo.find? (fun x => decide (x.1 / 64 = 7)) = some (511, .level) ∧ s.cal.todo.erase (511, .level) ≠ [] ∧
          s.calBusy 511 = false ∧ s.calAllowed 511 = false) ∧
      (let s := { siteRegs 3 [(CAL_STATUS_RUN_STATE, 1)] with cal := { CalState.reset with todo := [(511, .level), (511, .tdr)], busySites := [15] } };
        s.calRunning = true ∧ s.cal.todo.find? (fun x => decide (x.1 / 64 = 7)) = some (511, .level) ∧ s.cal.todo.erase (511, .level) ≠ [] ∧
          s.calBusy 511 = true) := by
  decide +kernel

/-- Calibration: the repeat of a discarded step, held up by a reference write that waits, begun, and no longer allowed. -/
theorem witness_Calibration_repeats :
    (let s := { calRegs 1 [] { CalState.reset with steps := [calStepIdle .timing] } with tb := { TbState.reset with deferred := some (.host, 1) } };
      s.cal.steps.find? (fun c => decide (c.pin / 64 = 7) && c.idle) = some (calStepIdle .timing) ∧ s.tb.deferred.isSome = true) ∧
      (∀ kind ∈ [CalKind.level, .timing, .tdr], let s := calRegs 1 [] { CalState.reset with steps := [calStepIdle kind] };
        s.cal.steps.find? (fun c => decide (c.pin / 64 = 7) && c.idle) = some (calStepIdle kind) ∧ s.tb.deferred = none ∧ s.calAllowed 511 = true ∧
          ∀ c ∈ s.cal.steps, c.pin / 64 = 7 → c.idle = true) ∧
      (let s := calRegs 1 [(PIN_FESTAT_TRIP 511, 1)] { CalState.reset with steps := [calStepIdle .tdr] };
        s.cal.steps.find? (fun c => decide (c.pin / 64 = 7) && c.idle) = some (calStepIdle .tdr) ∧ s.tb.deferred = none ∧ s.calAllowed 511 = false ∧
          s.calBusy 511 = false ∧ (calStepIdle .tdr).held = []) := by
  decide +kernel

/-- The two outputs of a DAC without error, and its outputs with an error in µV at code 8,192. -/
def dacOf (e : Int) : DacMeasure := ⟨-694824, 3577637, -694824, 1500000 + e, 3577637⟩

/-- A loopback measurement of a spread of 0.5 ps. -/
def loopbacks (n : Nat) : List Int := (List.range n).map (fun k => 100 + 4 * ((k % 2 : Nat) : Int))

/-- A launch whose reflection comes back after a time: it counts at 25 ns, and not a quarter of a picosecond later. -/
def reflection (t : Nat) : List TdrCross := [⟨false, true, 100⟩, ⟨true, true, 100 + t⟩]

/-- Calibration: residuals at the limit and just past it, half of 16 launches that count and one fewer, and a discarded step on its last and an earlier try. -/
theorem witness_Calibration_done :
    (∀ lim ∈ [99, 100], let s := calRegs 1 [(CAL_LIMITS_L_LIM, lim)] { CalState.reset with steps := [calStepOf .level 0 false] };
        s.cal.steps.find? (fun c => decide (c.pin / 64 = 7) && !c.idle) = some (calStepOf .level 0 false) ∧ (calStepOf .level 0 false).held = [] ∧
          (dacOf 100).residual = 100 ∧ (dacOf 0).residual = 0 ∧
          decide (s.get CAL_LIMITS_L_LIM < min 65535 (([dacOf 0, dacOf 100, dacOf 0, dacOf 0, dacOf 0] ++
            (if s.calClamps 511 then [dacOf 0, dacOf 0] else [])).foldl (fun a m => max a m.residual) 0)) = decide (lim = 99) ∧ s.calClamps 511 = true) ∧
      (let s := calRegs 1 [] { CalState.reset with steps := [calStepOf .level 0 false], pins := [510, 511] };
        s.calClamps 511 = false) ∧
      (∀ lim ∈ [4, 5], let s := calRegs 1 [(CAL_LIMITS_T_LIM, lim)] { CalState.reset with steps := [calStepOf .timing 0 false] };
        s.cal.steps.find? (fun c => decide (c.pin / 64 = 7) && !c.idle) = some (calStepOf .timing 0 false) ∧
          decide (s.get CAL_LIMITS_T_LIM < min 65535 (max (spreadOf ((loopbacks 64).take 64)) (spreadOf ((loopbacks 64).take 64)))) = decide (lim = 4)) ∧
      (∀ n ∈ [7, 8], let s := calRegs 1 [] { CalState.reset with steps := [calStepOf .tdr 0 false], cfg := 0x40 };
        s.launches = 16 ∧ s.cal.steps.find? (fun c => decide (c.pin / 64 = 7) && !c.idle) = some (calStepOf .tdr 0 false) ∧
          decide (2 * (((List.replicate n (reflection (25 * ns)) ++ List.replicate (16 - n) (reflection (25 * ns + 1))).take s.launches).filterMap
            (tdrDelta (bitOf s.cal.cfg.toNat 3))).length < s.launches) = decide (n = 7)) ∧
      (∀ n ∈ [1, 2], let s := calRegs 1 [] { CalState.reset with steps := [calStepOf .tdr n true] };
        s.cal.steps.find? (fun c => decide (c.pin / 64 = 7) && !c.idle) = some (calStepOf .tdr n true) ∧ (calStepOf .tdr n true).spoiled = true ∧
          decide ((calStepOf .tdr n true).repeats < 2) = decide (n = 1)) := by
  decide +kernel

/-- Calibration: a save during a save, over no valid slot, over the greatest SEQ that is left and over none, and its end with each answer of the flash. -/
theorem witness_Calibration_save :
    ({ State.reset with cal := { CalState.reset with save := some (1, 5, slotOf 5) } } : State).cal.save.isSome = true ∧
      (State.reset.cal.save = none ∧ State.reset.cal.saveWait = none ∧ State.reset.flashBusy = false ∧ State.reset.almValid [] = false ∧ State.reset.almValid (slotOf 0xFFFFFFFD) = true ∧
        almSeq (slotOf 0xFFFFFFFD) < 0xFFFFFFFE ∧ State.reset.almValid (slotOf 0xFFFFFFFE) = true ∧ 0xFFFFFFFE ≤ almSeq (slotOf 0xFFFFFFFE)) ∧
      (let s : State := { State.reset with boot := { State.reset.boot with amd := some ⟨0, [], .storing, false⟩ } };
        s.cal.save = none ∧ s.cal.saveWait = none ∧ s.flashBusy = true) ∧
      ({ State.reset with cal := { CalState.reset with saveWait := some ([], slotOf 5) } } : State).cal.saveWait.isSome = true ∧
      (let s : State := { State.reset with cal := { CalState.reset with save := some (1, 5, slotOf 5) } };
        s.cal.save = some (1, 5, slotOf 5) ∧ 1 < 2 ∧ 5 < 2 ^ 32 ∧ s.almValid (slotOf 5) = true ∧ s.almValid [] = false) := by
  decide +kernel

/-! Coincident edges. -/

/-- CoincidentEdges: two drive actions and an OFF at one position, an edge that only drives, one that only switches on, and one without an action on the data. -/
theorem witness_CoincidentEdges :
    ∀ es ∈ [[⟨0, 0, 1, .drive .high⟩, ⟨0, 2 ^ 25, 1, .drive .low⟩, ⟨0, 0, 5, .off⟩], [edgeAt 0], [⟨0, 0, 4, .on⟩], [(⟨0, 0, 3, .release⟩ : DriveEdge)]],
      let s := playState 3 (playing 1) { Pin.reset with edges := es } [];
      s.disconnected 511 = false ∧ firstEdge (s.pin 511).edges = some 0 ∧ 0 < s.edgeLimit 511 ∧
        (∀ e ∈ (s.pin 511).edges, e.vec ∉ (s.pin 511).undefVecs) ∧ (s.pin 511).edges = es := by
  decide +kernel

end Sys2Proof.Tests
end

section
/-! Coincident drive-side edges (R77): what the combined action of some edges is, and what a drive-side edge leaves as it was.
DRIVE_EDGE under the conditions of the statement is one cluster step with the combined action. -/
namespace Sys2Proof.Machine

/-! The data of coincident edges. -/

/-- Whether an edge carries a drive action. -/
def DriveEdge.Drives (e : DriveEdge) : Prop := ∃ d, e.act = .drive d

/-- Whether an edge comes before another in the order in which R77 takes their data: by number, and of two with one number by vector. -/
def DriveEdge.Before (e f : DriveEdge) : Prop := e.num < f.num ∨ (e.num = f.num ∧ e.vec < f.vec)

theorem DriveEdge.not_before_self (e : DriveEdge) : ¬ e.Before e := by
  unfold DriveEdge.Before
  omega

theorem DriveEdge.Before.not_before_of_not_before {l e f : DriveEdge} (hle : l.Before e) (hlf : ¬ l.Before f) : ¬ e.Before f := by
  unfold DriveEdge.Before at *
  omega

theorem combineData_cons_of_not_drives {e : DriveEdge} (es : List DriveEdge) (h : ¬ e.Drives) : combineData (e :: es) = combineData es := by
  cases ha : e.act with
  | drive d => exact absurd ⟨d, ha⟩ h
  | _ => simp [combineData, ha]

theorem combineData_cons_of_none {e : DriveEdge} {d : DataLevel} {es : List DriveEdge} (ha : e.act = .drive d) (hn : combineData es = none) :
    combineData (e :: es) = some (e.num, e.vec, d) := by
  simp [combineData, ha, hn]

theorem combineData_cons_of_some {e : DriveEdge} {d : DataLevel} {es : List DriveEdge} {n v : Nat} {x : DataLevel} (ha : e.act = .drive d)
    (hs : combineData es = some (n, v, x)) :
    combineData (e :: es) = if n < e.num ∨ (n = e.num ∧ v < e.vec) then some (e.num, e.vec, d) else some (n, v, x) := by
  simp [combineData, ha, hs]

theorem combineData_eq_none {es : List DriveEdge} (h : ∀ e ∈ es, ¬ e.Drives) : combineData es = none := by
  induction es with
  | nil => rfl
  | cons e es ih =>
    obtain ⟨he, hes⟩ := List.forall_mem_cons.mp h
    rw [combineData_cons_of_not_drives es he, ih hes]

/-- The combined data are those of an edge that no other edge with a drive action comes after. -/
theorem combineData_eq_last {es : List DriveEdge} (h : ∃ e ∈ es, e.Drives) :
    ∃ l ∈ es, ∃ d, l.act = .drive d ∧ combineData es = some (l.num, l.vec, d) ∧ ∀ e ∈ es, e.Drives → ¬ l.Before e := by
  induction es with
  | nil => simp at h
  | cons e es ih =>
    by_cases hes : ∃ f ∈ es, f.Drives
    · obtain ⟨l, hl, x, hx, hc, hlast⟩ := ih hes
      by_cases he : e.Drives
      · obtain ⟨d, hd⟩ := he
        by_cases hb : l.Before e
        · refine ⟨e, List.mem_cons_self, d, hd, (combineData_cons_of_some hd hc).trans (if_pos hb), ?_⟩
          exact List.forall_mem_cons.mpr ⟨fun _ => e.not_before_self, fun f hf hfd => hb.not_before_of_not_before (hlast f hf hfd)⟩
        · exact ⟨l, List.mem_cons_of_mem e hl, x, hx, (combineData_cons_of_some hd hc).trans (if_neg hb),
            List.forall_mem_cons.mpr ⟨fun _ => hb, hlast⟩⟩
      · exact ⟨l, List.mem_cons_of_mem e hl, x, hx, (combineData_cons_of_not_drives es he).trans hc,
          List.forall_mem_cons.mpr ⟨fun hd => absurd hd he, hlast⟩⟩
    · have hnone : ∀ f ∈ es, ¬ f.Drives := fun f hf hd => hes ⟨f, hf, hd⟩
      obtain ⟨f, hf, d, hd⟩ := h
      rcases List.mem_cons.mp hf with rfl | hf
      · refine ⟨f, List.mem_cons_self, d, hd, combineData_cons_of_none hd (combineData_eq_none hnone), ?_⟩
        exact List.forall_mem_cons.mpr ⟨fun _ => f.not_before_self, fun g hg hgd => absurd hgd (hnone g hg)⟩
      · exact absurd ⟨d, hd⟩ (hnone f hf)

/-! The combined action of coincident edges. -/

section
variable {q : Drive} {es : List DriveEdge}

theorem applyEdges_data_of_last {e : DriveEdge} {d : DataLevel} (he : e ∈ es) (hd : e.act = .drive d)
    (hlast : ∀ f ∈ es, f.Drives → f ≠ e → f.Before e) : (applyEdges q es).data = d := by
  obtain ⟨l, hl, x, hx, hc, hmax⟩ := combineData_eq_last ⟨e, he, d, hd⟩
  have hle : l = e := by
    by_contra hne
    exact hmax e he ⟨d, hd⟩ (hlast l hl ⟨x, hx⟩ hne)
  subst hle
  have hxd : x = d := by simpa [hd] using hx.symm
  simp [applyEdges, hc, hxd]

theorem applyEdges_data_of_none (h : ∀ e ∈ es, ¬ e.Drives) : (applyEdges q es).data = q.data := by
  simp [applyEdges, combineData_eq_none h]

/-- Whether an edge switches the driver off: a release or E1. -/
def DriveEdge.Offs (e : DriveEdge) : Prop := e.act = .release ∨ e.act = .off

/-- Whether an edge switches the driver on unless another switches it off: a drive action or E0. -/
def DriveEdge.Ons (e : DriveEdge) : Prop := e.Drives ∨ e.act = .on

theorem applyEdges_enable_of_off (h : ∃ e ∈ es, e.Offs) : (applyEdges q es).enable = false := by
  have hoff : es.any (fun e => decide (e.act = .release) || decide (e.act = .off)) = true := by simpa [DriveEdge.Offs] using h
  simp only [applyEdges, hoff, if_true]

theorem any_offs_eq_false (h : ∀ e ∈ es, ¬ e.Offs) : es.any (fun e => decide (e.act = .release) || decide (e.act = .off)) = false := by
  simpa [DriveEdge.Offs] using h

theorem applyEdges_enable_of_on (hoff : ∀ e ∈ es, ¬ e.Offs) (hon : ∃ e ∈ es, e.Ons) : (applyEdges q es).enable = true := by
  obtain ⟨e, he, hact⟩ := hon
  simp only [applyEdges, any_offs_eq_false hoff, Bool.false_eq_true, if_false, ite_eq_left_iff, Bool.not_eq_true, List.any_eq_false]
  intro hnone
  rcases hact with ⟨d, hd⟩ | hd
  · simpa [hd] using hnone e he
  · simpa [hd] using hnone e he

theorem applyEdges_enable_of_neither (hoff : ∀ e ∈ es, ¬ e.Offs) (hon : ∀ e ∈ es, ¬ e.Ons) : (applyEdges q es).enable = q.enable := by
  simp only [applyEdges, any_offs_eq_false hoff, Bool.false_eq_true, if_false, ite_eq_right_iff, List.any_eq_true]
  rintro ⟨e, he, hact⟩
  cases ha : e.act with
  | drive d => exact absurd (.inl ⟨d, ha⟩) (hon e he)
  | on => exact absurd (.inr ha) (hon e he)
  | release => simp [ha] at hact
  | off => simp [ha] at hact

end

/-! What a change of the drive state of a pin leaves as it was. -/

/-- From s to t pin p comes to the drive state d, and the time, the sites, on-chip memory, the other pins and the waiting edges of p stay. -/
structure DrivesTo (p : Nat) (d : Drive) (s t : State) : Prop where
  now : t.now = s.now
  sites : t.sites = s.sites
  mem : t.mem = s.mem
  other : ∀ k, k ≠ p → t.pin k = s.pin k
  edges : (t.pin p).edges = (s.pin p).edges
  drv : (t.pin p).drv = d

theorem DrivesTo.refl (p : Nat) (s : State) : DrivesTo p (s.pin p).drv s s := ⟨rfl, rfl, rfl, fun _ _ => rfl, rfl, rfl⟩

theorem DrivesTo.trans {p : Nat} {d d' : Drive} {s t u : State} (h : DrivesTo p d s t) (g : DrivesTo p d' t u) : DrivesTo p d' s u :=
  ⟨g.now.trans h.now, g.sites.trans h.sites, g.mem.trans h.mem, fun k hk => (g.other k hk).trans (h.other k hk), g.edges.trans h.edges, g.drv⟩

theorem DrivesTo.emit {p : Nat} {d : Drive} {s t : State} (h : DrivesTo p d s t) (o : Out) : DrivesTo p d s (t.emit o) :=
  ⟨h.now, h.sites, h.mem, h.other, h.edges, h.drv⟩

theorem DrivesTo.flag {p : Nat} {d : Drive} {s t : State} (h : DrivesTo p d s t) (f : Fld) : DrivesTo p d s (t.flag f) :=
  ⟨h.now, h.sites, h.mem, h.other, h.edges, h.drv⟩

theorem DrivesTo.count {p : Nat} {d : Drive} {s t : State} (h : DrivesTo p d s t) (f : Fld) (n : Nat) : DrivesTo p d s (t.count f n) :=
  ⟨h.now, h.sites, h.mem, h.other, h.edges, h.drv⟩

theorem DrivesTo.flagIf {p : Nat} {d : Drive} {s t : State} (h : DrivesTo p d s t) (c : Bool) (f : Fld) : DrivesTo p d s (t.flagIf c f) := by
  unfold State.flagIf
  split
  · exact h.flag f
  · exact h

/-- A change of the pin's record that keeps its edges brings the drive state that it sets. -/
theorem DrivesTo.updPin {p : Nat} {d d' : Drive} {s t : State} (h : DrivesTo p d s t) (f : Pin → Pin)
    (he : (f (t.pin p)).edges = (t.pin p).edges) (hd : (f (t.pin p)).drv = d') : DrivesTo p d' s (t.updPin p f) := by
  refine h.trans ⟨rfl, rfl, rfl, fun k hk => t.pin_updPin_other f hk, ?_, ?_⟩
  · rw [State.pin_updPin_self, he]
  · rw [State.pin_updPin_self, hd]

section
variable {p : Nat} {d : Drive} {s t : State}

theorem DrivesTo.driveAs (h : DrivesTo p d s t) (pos : Nat) (x : Drive) (code : Option Nat) (last : Option (Nat × Nat)) :
    DrivesTo p d s (t.driveAs p pos x code last) := by
  have hdriven : DrivesTo p d s ((t.emit (.drive p pos x)).updPin p (fun q => { q with lastDriven := some pos })) :=
    (h.emit _).updPin _ rfl h.drv
  cases code with
  | none => exact hdriven
  | some c =>
    have hflag := hdriven.flagIf (swingBroken last pos c) (PIN_FESTAT_SWING p)
    exact hflag.updPin (fun q => { q with lastLevel := some (pos, c) }) rfl hflag.drv

theorem DrivesTo.closeCluster (h : DrivesTo p d s t) : DrivesTo p d s (t.closeCluster p) := by
  unfold State.closeCluster
  split
  · exact h
  · have hclosed : DrivesTo p d s (t.updPin p (fun q => { q with cluster := none })) := h.updPin _ rfl h.drv
    dsimp only
    split
    · exact hclosed
    · exact hclosed.driveAs ..

theorem DrivesTo.openCluster (h : DrivesTo p d s t) (x : Nat) (d' : Drive) : DrivesTo p d' s (t.openCluster p x d') :=
  h.updPin _ rfl rfl

end

/-- A combined edge brings its state, whether it joins the open cluster, opens one, or changes nothing (R78, R79). -/
theorem drivesTo_clusterStep (p x : Nat) (d : Drive) (s : State) : DrivesTo p d s (s.clusterStep p x d) := by
  have hrefl := DrivesTo.refl p s
  unfold State.clusterStep
  split
  · split
    · exact ((hrefl.flag _).count _ 1).updPin _ rfl rfl
    · dsimp only
      split
      next hsame => exact hsame ▸ hrefl.closeCluster
      next => exact hrefl.closeCluster.openCluster x d
  · split
    next hsame => exact hsame ▸ hrefl
    next => exact hrefl.openCluster x d

/-! DRIVE_EDGE. -/

/-- The state at position x with the edges of pin p at x taken from its waiting edges. -/
def State.takeEdges (s : State) (p x : Nat) : State :=
  (s.at_ x).updPin p (fun q => { q with edges := q.edges.filter (fun e => decide (e.pos ≠ x)) })

/-- On a connected pin, with no vector whose waveform is undefined, the coincident edges act as one combined edge. -/
theorem State.driveEdge_eq_clusterStep {s : State} {p x : Nat} (hc : s.disconnected p = false) (hf : firstEdge (s.pin p).edges = some x)
    (hx : x < s.edgeLimit p) (hu : ∀ e ∈ (s.pin p).edges, e.vec ∉ (s.pin p).undefVecs) :
    s.driveEdge p =
      (s.takeEdges p x).clusterStep p x (applyEdges (s.pin p).drv ((s.pin p).edges.filter (fun e => decide (e.pos = x)))) := by
  have hat : (s.at_ x).disconnected p = false := hc
  have hdef : ((s.pin p).edges.filter (fun e => decide (e.pos = x))).any (fun e => (s.pin p).undefVecs.contains e.vec) = false := by
    simpa using fun e he _ => hu e he
  simp only [State.driveEdge, State.driveNext, State.takeEdges, State.at__pin, hf, if_pos hx, hat, hdef, Bool.false_eq_true, if_false]

/-- Settles O60: DRIVE_EDGE is one cluster step with the combined action of the coincident edges. -/
theorem coincidentEdges : Obligations.CoincidentEdges := by
  unfold Obligations.CoincidentEdges
  intro s p x hc hf hx hu now drives
  have hstep := drivesTo_clusterStep p x (applyEdges (s.pin p).drv ((s.pin p).edges.filter (fun e => decide (e.pos = x)))) (s.takeEdges p x)
  have hmem : ∀ e, e ∈ (s.pin p).edges.filter (fun e => decide (e.pos = x)) ↔ now e := by simp [now]
  refine ⟨_, congrArg Host.Outcome.next (State.driveEdge_eq_clusterStep hc hf hx hu), hstep.now, hstep.sites, hstep.mem,
    fun k hk => (hstep.other k hk).trans (State.pin_updPin_other _ _ hk), ?_, ?_⟩
  · rw [hstep.edges, State.takeEdges, State.pin_updPin_self, State.at__pin]
  rw [hstep.drv]
  simp only [← hmem]
  refine ⟨fun e d he hd hlast => applyEdges_data_of_last he hd hlast, applyEdges_data_of_none, applyEdges_enable_of_off, ?_, ?_⟩
  · exact fun hoff hon => applyEdges_enable_of_on (fun e he => not_or.mpr (hoff e he)) hon
  · intro hnone
    refine applyEdges_enable_of_neither (fun e he => ?_) (fun e he => ?_)
    · obtain ⟨hrelease, hoff, -, -⟩ := hnone e he
      exact not_or.mpr ⟨hrelease, hoff⟩
    · obtain ⟨-, -, hdrives, hon⟩ := hnone e he
      exact not_or.mpr ⟨hdrives, hon⟩

end Sys2Proof.Machine
end

section
/-! The steps of a flow (R336 to R341, R345): what a step boundary, a record and a fault leave of the state, and from that what
each kind of step does. -/
namespace Sys2Proof.Machine

/-! Values of 64 bits, and fields of a word. -/

/-- A number in s64 is what its two's complement pattern reads as. -/
theorem signedOf_unsignedOf {v : Int} (hlo : -(2 ^ 63) ≤ v) (hhi : v < 2 ^ 63) : signedOf 64 (unsignedOf 64 v) = v := by
  rw [signedOf, unsignedOf, BitVec.ofNat_toNat, BitVec.setWidth_eq, BitVec.toInt_ofInt]
  exact Int.bmod_eq_of_le (by omega) (by omega)

theorem clampInt_eq_self {lo hi v : Int} (hlo : lo ≤ v) (hhi : v ≤ hi) : clampInt lo hi v = v := by
  rw [clampInt, min_eq_right hhi, max_eq_right hlo]

theorem sat64_mem (v : Int) : -(2 ^ 63) ≤ sat64 v ∧ sat64 v < 2 ^ 63 := by
  unfold sat64 clampInt
  omega

theorem bitsOf_lt (v lo len : Nat) : bitsOf v lo len < 2 ^ len := Nat.mod_lt _ (Nat.two_pow_pos len)

/-! Little-endian bytes. -/

theorem length_leBytes (n : Nat) : ∀ v, (leBytes n v).length = n := by
  induction n with
  | zero => exact fun _ => rfl
  | succ n ih => exact fun v => by rw [leBytes, List.length_cons, ih]

theorem leBytes_mod (n : Nat) : ∀ v, leBytes n (v % 256 ^ n) = leBytes n v := by
  induction n with
  | zero => exact fun _ => rfl
  | succ n ih =>
    intro v
    have hbyte : BitVec.ofNat 8 (v % 256 ^ (n + 1)) = BitVec.ofNat 8 v :=
      BitVec.eq_of_toNat_eq (Nat.mod_mod_of_dvd v (Dvd.intro_left (256 ^ n) rfl))
    rw [leBytes, leBytes, hbyte, Nat.pow_succ', Nat.mod_mul_right_div_self, ih]

theorem leBytes_word (v : Nat) : leBytes 4 (word v).toNat = leBytes 4 v := by
  rw [word, BitVec.toNat_ofNat]
  exact leBytes_mod 4 v

theorem leNat_lt (bs : List Byte) : leNat bs < 256 ^ bs.length := by
  induction bs with
  | nil => exact Nat.one_pos
  | cons b bs ih =>
    have hb : b.toNat < 256 := b.isLt
    rw [leNat, List.length_cons, Nat.pow_succ]
    omega

/-! The flow and the datalog of a site. -/

section
variable (s : State) (i k : Nat)

@[simp] theorem State.flow_set (f : Fld) (v : Nat) : (s.set f v).flow k = s.flow k := rfl

@[simp] theorem State.get_updFlow (f : FlowState → FlowState) (g : Fld) : (s.updFlow i f).get g = s.get g := rfl

@[simp] theorem State.bit_updFlow (f : FlowState → FlowState) (g : Fld) : (s.updFlow i f).bit g = s.bit g := rfl

@[simp] theorem State.flow_updFlow_self (f : FlowState → FlowState) : (s.updFlow i f).flow i = f (s.flow i) :=
  Sparse.get_set_self _ _ _

variable {i k}

theorem State.flow_updFlow_other (f : FlowState → FlowState) (h : k ≠ i) : (s.updFlow i f).flow k = s.flow k :=
  Sparse.get_set_other _ _ h

@[simp] theorem State.dlog_updDlog_self (f : DlogState → DlogState) : (s.updDlog i f).dlog i = f (s.dlog i) :=
  Sparse.get_set_self _ _ _

theorem State.dlog_updDlog_other (f : DlogState → DlogState) (h : k ≠ i) : (s.updDlog i f).dlog k = s.dlog k :=
  Sparse.get_set_other _ _ h

end

/-! What changes only the flow of one site and registers of a list. -/

/-- From s to t only the flow of site i and registers of a list change. -/
structure FlowStays (l : List Nat) (s t : State) (i : Nat) : Prop where
  state : t = { s with regs := t.regs, svc := t.svc }
  svc : t.svc = { s.svc with flows := t.svc.flows }
  flow : ∀ k, k ≠ i → t.flow k = s.flow k
  reg : sameRegs l s t

/-- The same for SVC_STAT alone, which holds STATE, C and STEP. -/
abbrev StatStays (s t : State) (i : Nat) : Prop := FlowStays [(SVC_STAT_STATE i).addr] s t i

section
variable {l : List Nat} {s t u : State} {i : Nat}

theorem FlowStays.flowOnly (h : FlowStays l s t i) : flowOnly l s t i := ⟨h.state, h.svc, h.flow, h.reg⟩

theorem FlowStays.refl (l : List Nat) (s : State) (i : Nat) : FlowStays l s s i := ⟨rfl, rfl, fun _ _ => rfl, fun _ _ => rfl⟩

theorem FlowStays.trans (h : FlowStays l s t i) (g : FlowStays l t u i) : FlowStays l s u i :=
  ⟨g.state.trans (congrArg (fun v : State => { v with regs := u.regs, svc := u.svc }) h.state),
    g.svc.trans (congrArg (fun v : SvcState => { v with flows := u.svc.flows }) h.svc),
    fun k hk => (g.flow k hk).trans (h.flow k hk), fun a ha => (g.reg a ha).trans (h.reg a ha)⟩

theorem FlowStays.mono {l' : List Nat} (h : FlowStays l s t i) (hl : l ⊆ l') : FlowStays l' s t i :=
  ⟨h.state, h.svc, h.flow, fun a ha => h.reg a (fun hm => ha (hl hm))⟩

theorem FlowStays.set (h : FlowStays l s t i) {f : Fld} (v : Nat) (hf : f.addr ∈ l) : FlowStays l s (t.set f v) i :=
  h.trans ⟨rfl, rfl, fun _ _ => rfl, fun _ ha => State.reg_set_other _ _ (fun e => ha (e ▸ hf))⟩

theorem FlowStays.updFlow (h : FlowStays l s t i) (f : FlowState → FlowState) : FlowStays l s (t.updFlow i f) i :=
  h.trans ⟨rfl, rfl, fun _ hk => State.flow_updFlow_other _ _ hk, fun _ _ => rfl⟩

theorem FlowStays.get (h : FlowStays l s t i) {f : Fld} (hf : f.addr ∉ l) : t.get f = s.get f := by
  unfold State.get
  rw [h.reg _ hf]

theorem FlowStays.dlog (h : FlowStays l s t i) (k : Nat) : t.dlog k = s.dlog k := by
  unfold State.dlog
  rw [h.svc]

theorem FlowStays.jobs (h : FlowStays l s t i) : t.svc.jobs = s.svc.jobs := by rw [h.svc]

theorem FlowStays.tick (h : FlowStays l s t i) : t.tick = s.tick := by
  rw [h.state]
  rfl

end

/-! A step boundary (R335). -/

section
variable (s : State) (i k : Nat)

theorem flowBoundary_flowGo : flowBoundary (s.flowGo i k) i (s.flow i) k := by
  unfold State.flowGo flowBoundary
  by_cases hstop : (s.flow i).stop = true
  · rw [if_pos hstop, if_pos hstop, if_pos hstop, State.flowEnd, State.flow_updFlow_self, State.flow_set]
    exact ⟨State.get_set_self _ _ rfl, fun h => absurd (hstop.symm.trans h) Bool.noConfusion, rfl⟩
  · rw [if_neg hstop, if_neg hstop, if_neg hstop, State.flow_updFlow_self, State.flow_set, State.flow_set]
    refine ⟨?_, fun _ => ?_, rfl⟩
    · rw [State.get_updFlow, State.get_set_other _ _ (by simp [Fld.apart, SVC_STAT_STATE, SVC_STAT_STEP]), State.get_set_self _ _ rfl]
      cases (s.flow i).ret <;> rfl
    · rw [State.get_updFlow, State.get_set_self _ _ rfl]
      exact Nat.mod_mod _ _

theorem statStays_flowEnd (st : Nat) : StatStays s (s.flowEnd i st) i :=
  ((FlowStays.refl _ s i).set st (List.mem_singleton.mpr rfl)).updFlow _

theorem statStays_flowGo : StatStays s (s.flowGo i k) i := by
  unfold State.flowGo
  split
  · exact statStays_flowEnd s i flStopped
  · have hstate : StatStays s (s.set (SVC_STAT_STATE i) (if (s.flow i).ret.isSome then flHandler else flRunning)) i :=
      (FlowStays.refl _ s i).set _ (List.mem_singleton.mpr rfl)
    exact (hstate.set (f := SVC_STAT_STEP i) (k % 1024) (List.mem_singleton.mpr rfl)).updFlow _

variable {f : Fld}

theorem State.get_flowGo (hstate : (SVC_STAT_STATE i).apart f = true) (hstep : (SVC_STAT_STEP i).apart f = true) :
    (s.flowGo i k).get f = s.get f := by
  unfold State.flowGo State.flowEnd
  split
  · rw [State.get_updFlow, State.get_set_other _ _ hstate]
  · rw [State.get_updFlow, State.get_set_other _ _ hstep, State.get_set_other _ _ hstate]

theorem State.bit_flowGo (hstate : (SVC_STAT_STATE i).apart f = true) (hstep : (SVC_STAT_STEP i).apart f = true) :
    (s.flowGo i k).bit f = s.bit f := by
  rw [State.bit, State.get_flowGo s i k hstate hstep, State.bit]

theorem State.bit_C_flowGo : (s.flowGo i k).bit (SVC_STAT_C i) = s.bit (SVC_STAT_C i) :=
  s.bit_flowGo i k (by simp [Fld.apart, SVC_STAT_STATE, SVC_STAT_C]) (by simp [Fld.apart, SVC_STAT_STEP, SVC_STAT_C])

theorem State.bit_C_setC (c : Bool) : (s.setC i c).bit (SVC_STAT_C i) = c := by
  rw [State.setC, State.bit_set_self _ _ rfl]
  cases c <;> rfl

theorem statStays_setC (c : Bool) : StatStays s (s.setC i c) i :=
  (FlowStays.refl _ s i).set _ (List.mem_singleton.mpr rfl)

end

/-! Variables (R355). -/

theorem Fld.apart_of_lt {f g : Fld} (h : f.addr < g.addr) : f.apart g = true := by simp [Fld.apart, h.ne]

theorem Fld.apart_of_gt {f g : Fld} (h : g.addr < f.addr) : f.apart g = true := by simp [Fld.apart, h.ne']

theorem stat_lt_valid (i v : Nat) : (SVC_STAT_STATE i).addr < (SVC_VALID i v).addr := by simp [SVC_STAT_STATE, SVC_VALID]

theorem valid_lt_lo (i v k : Nat) : (SVC_VALID i k).addr < (SVC_V_LO_VALUE i v).addr := by simp only [SVC_VALID, SVC_V_LO_VALUE]; omega

theorem lo_lt_hi (i v : Nat) : (SVC_V_LO_VALUE i v).addr < (SVC_V_HI_VALUE i v).addr := by simp only [SVC_V_LO_VALUE, SVC_V_HI_VALUE]; omega

section
variable (s : State) (i v : Nat) (x : Int) (ok : Bool)

/-- A field of the registers below those of the variable reads what it read before. -/
theorem State.get_setVar_below {f : Fld} (hf : f.addr < (SVC_V_LO_VALUE i v).addr) (hvalid : (SVC_VALID i v).apart f = true) :
    (s.setVar i v x ok).get f = s.get f := by
  rw [State.setVar, State.get_set_other _ _ hvalid,
    State.get_set64_other _ _ (Fld.apart_of_gt hf) (Fld.apart_of_gt (hf.trans (lo_lt_hi i v)))]

theorem State.bit_C_setVar : (s.setVar i v x ok).bit (SVC_STAT_C i) = s.bit (SVC_STAT_C i) := by
  have hlt := stat_lt_valid i v
  rw [State.bit, State.get_setVar_below s i v x ok (f := SVC_STAT_C i) (hlt.trans (valid_lt_lo i v v)) (Fld.apart_of_gt hlt), State.bit]

theorem State.var_setVar_self (hlo : -(2 ^ 63) ≤ x) (hhi : x < 2 ^ 63) : (s.setVar i v x ok).var i v = x := by
  have hget : (s.setVar i v x ok).get64 (SVC_V_LO_VALUE i v) (SVC_V_HI_VALUE i v) = unsignedOf 64 x := by
    rw [State.setVar, State.get64_set_other _ _ (Fld.apart_of_lt (valid_lt_lo i v v)) (Fld.apart_of_lt ((valid_lt_lo i v v).trans (lo_lt_hi i v))),
      State.get64_set64 _ _ ⟨rfl, rfl⟩ ⟨rfl, rfl⟩ (lo_lt_hi i v).ne]
    exact Nat.mod_eq_of_lt (BitVec.isLt _)
  rw [State.var, hget, signedOf_unsignedOf hlo hhi]

theorem State.varOk_setVar_self (hv : v < 16) : (s.setVar i v x ok).varOk i v = ok := by
  rw [State.varOk, State.setVar, State.bit_set_self _ _ (by simp [Fld.fits, SVC_VALID]; omega)]
  cases ok <;> rfl

theorem State.varOk_setVar_other {k : Nat} (hk : k ≠ v) : (s.setVar i v x ok).varOk i k = s.varOk i k := by
  have hbits : (SVC_VALID i v).apart (SVC_VALID i k) = true := by simp [Fld.apart, SVC_VALID]; omega
  rw [State.varOk, State.bit, State.get_setVar_below s i v x ok (valid_lt_lo i v k) hbits, State.varOk, State.bit]

/-- A field of the registers above that of the flow's state reads what it read before. -/
theorem State.get_flowGo_above {f : Fld} (k : Nat) (hf : (SVC_STAT_STATE i).addr < f.addr) : (s.flowGo i k).get f = s.get f :=
  s.get_flowGo i k (Fld.apart_of_lt hf) (Fld.apart_of_lt hf)

theorem State.var_flowGo (k : Nat) : (s.flowGo i k).var i v = s.var i v := by
  have hlo := (stat_lt_valid i v).trans (valid_lt_lo i v v)
  rw [State.var, State.get64, State.get_flowGo_above s i k hlo, State.get_flowGo_above s i k (hlo.trans (lo_lt_hi i v)), State.var, State.get64]

theorem State.varOk_flowGo (k : Nat) : (s.flowGo i k).varOk i v = s.varOk i v := by
  rw [State.varOk, State.bit, State.get_flowGo_above s i k (stat_lt_valid i v), State.varOk, State.bit]

/-- The registers that a step with a result changes. -/
def varRegs (i v : Nat) : List Nat := [(SVC_STAT_STATE i).addr, (SVC_V_LO_VALUE i v).addr, (SVC_V_HI_VALUE i v).addr, (SVC_VALID i v).addr]

theorem flowStays_setVar : FlowStays (varRegs i v) s (s.setVar i v x ok) i :=
  (((FlowStays.refl _ s i).set _ (by simp [varRegs])).set _ (by simp [varRegs])).set _ (by simp [varRegs])

/-- From s to t variable v of site i takes a value, cut to s64, and a validity, and the run goes on at the next step. -/
def ResultPut (s t : State) (i v : Nat) (x : Int) (ok : Bool) : Prop :=
  (t.var i v = clampInt (-(2 ^ 63)) (2 ^ 63 - 1) x ∧ t.varOk i v = ok ∧ (∀ k, k < 16 → k ≠ v → t.varOk i k = s.varOk i k) ∧
    t.bit (SVC_STAT_C i) = s.bit (SVC_STAT_C i) ∧ flowBoundary t i (s.flow i) ((s.flow i).step + 1)) ∧ flowOnly (varRegs i v) s t i

/-- A step with a result in s64. -/
theorem resultPut_flowNext (hv : v < 16) (hlo : -(2 ^ 63) ≤ x) (hhi : x < 2 ^ 63) :
    ResultPut s ((s.setVar i v x ok).flowNext i) i v x ok := by
  unfold State.flowNext
  refine ⟨⟨?_, ?_, fun k _ hk => ?_, ?_, flowBoundary_flowGo _ _ _⟩,
    ((flowStays_setVar s i v x ok).trans ((statStays_flowGo _ i _).mono ?_)).flowOnly⟩
  · rw [State.var_flowGo, State.var_setVar_self s i v x ok hlo hhi, clampInt_eq_self hlo (Int.le_sub_one_of_lt hhi)]
  · rw [State.varOk_flowGo, State.varOk_setVar_self s i v x ok hv]
  · rw [State.varOk_flowGo, State.varOk_setVar_other s i v x ok hk]
  · rw [State.bit_C_flowGo, State.bit_C_setVar]
  · simp [varRegs]

/-- A step with a saturated result. -/
theorem resultPut_flowNext_sat64 (hv : v < 16) : ResultPut s ((s.setVar i v (sat64 x) ok).flowNext i) i v x ok := by
  obtain ⟨hlo, hhi⟩ := sat64_mem x
  have h := resultPut_flowNext s i v (sat64 x) ok hv hlo hhi
  rwa [ResultPut, clampInt_eq_self hlo (Int.le_sub_one_of_lt hhi)] at h

end

/-! Which step runs (R332, R336, R337). -/

section
variable {s : State} {i x k : Nat}

/-- On-chip memory without an uncorrectable word has nothing to report. -/
theorem State.ocmCheck_eq_self (h : s.memUe = []) (x n : Nat) : s.ocmCheck x n = s := by
  have hbad : s.ocmBad x n = [] := by simp [State.ocmBad, h]
  rw [State.ocmCheck, hbad, List.foldl_nil]

theorem State.checkRegion_ocm_eq_self (h : s.memUe = []) {n : Nat} (hok : s.rangeServed (.ocm x) n = .ok) : s.checkRegion (.ocm x) n = s := by
  rw [State.checkRegion, hok, if_neg Served.noConfusion, State.ocmCheck_eq_self h]

/-- A step that stands in on-chip memory is the one its kind names; it runs or, of a reserved kind, it faults. -/
theorem State.flowStep_of_flowAtStep (h : flowAtStep s i x k) (kind : Nat) (f : State → State) :
    s.flowStep i kind f = if 12 ≤ k then s.flowFault i else if k = kind then f s else s := by
  obtain ⟨hready, hstep, ⟨hue, -⟩, hregion, hserved, hkind⟩ := h
  rw [State.flowStep, hready, hregion, hserved, hkind, State.checkRegion_ocm_eq_self hue hserved, if_neg (by decide), if_neg (by omega),
    if_neg Served.noConfusion]

theorem State.flowStep_of_kind (hk : k < 12) (h : flowAtStep s i x k) (f : State → State) : s.flowStep i k f = f s := by
  rw [State.flowStep_of_flowAtStep h, if_neg (by omega), if_pos rfl]

theorem State.flowStep_of_other (hk : k < 12) {kind : Nat} (hne : k ≠ kind) (h : flowAtStep s i x k) (f : State → State) :
    s.flowStep i kind f = s := by
  rw [State.flowStep_of_flowAtStep h, if_neg (by omega), if_neg hne]

theorem State.flowStep_of_reserved (hk : 12 ≤ k) (h : flowAtStep s i x k) (kind : Nat) (f : State → State) :
    s.flowStep i kind f = s.flowFault i := by
  rw [State.flowStep_of_flowAtStep h, if_pos hk]

theorem State.flowStep_of_past (hready : s.flowReady i = true) (hpast : min 1024 (s.svcCfg i 2 (SVC_FLOW_COUNT i)) ≤ (s.flow i).step)
    (kind : Nat) (f : State → State) : s.flowStep i kind f = s.flowFault i := by
  rw [State.flowStep, hready, if_neg (by decide), if_pos hpast]

end

/-! Writes of the device to on-chip memory. -/

section
variable {s : State}

theorem State.ocmWrite_append (as bs : List Byte) : ∀ (s : State) (x : Nat),
    s.ocmWrite x (as ++ bs) = (s.ocmWrite x as).ocmWrite (x + as.length) bs := by
  induction as with
  | nil => exact fun _ _ => rfl
  | cons a as ih =>
    intro s x
    rw [List.cons_append, State.ocmWrite, State.ocmWrite, ih, List.length_cons, Nat.add_right_comm, Nat.add_assoc]

theorem State.ocmClean_eq_self (hue : s.memUe = []) (hcarried : s.memCarried = []) (x : Nat) : s.ocmClean x = s := by
  rw [State.ocmClean, List.filter_eq_self.mpr (by simp [hue]), List.filter_eq_self.mpr (by simp [hcarried])]

/-- Without an uncorrectable word a write within a word just stores its bytes. -/
theorem State.ocmPutPart_eq_ocmWrite (hue : s.memUe = []) (hcarried : s.memCarried = []) (p : Nat × List Byte) :
    s.ocmPutPart p = s.ocmWrite p.1 p.2 := by
  have hframe := State.ocmWrite_frame p.2 s p.1
  have hclean : (s.ocmWrite p.1 p.2).ocmClean p.1 = s.ocmWrite p.1 p.2 :=
    State.ocmClean_eq_self (by rw [hframe]; exact hue) (by rw [hframe]; exact hcarried) p.1
  rw [State.ocmPutPart, hue, hclean, List.contains_nil, if_neg Bool.false_ne_true, ite_self]

/-- The pieces of a write are the write. -/
theorem State.foldl_cutBytes (unit : Nat) (hunit : 0 < unit) (fuel : Nat) : ∀ {s : State} (x : Nat) (bs : List Byte), s.memUe = [] →
    s.memCarried = [] → bs.length ≤ fuel → (cutBytes unit fuel x bs).foldl State.ocmPutPart s = s.ocmWrite x bs := by
  induction fuel with
  | zero =>
    intro s x bs _ _ hlen
    rw [List.length_eq_zero_iff.mp (Nat.le_zero.mp hlen)]
    rfl
  | succ fuel ih =>
    intro s x bs hue hcarried hlen
    rw [cutBytes]
    by_cases hnil : bs = []
    · subst hnil; rfl
    · have hcut : 0 < unit - x % unit := Nat.sub_pos_of_lt (Nat.mod_lt x hunit)
      have hpos : 0 < bs.length := List.length_pos_iff.mpr hnil
      have hframe := State.ocmWrite_frame (bs.take (unit - x % unit)) s x
      rw [if_neg (by simpa using hnil), List.foldl_cons, State.ocmPutPart_eq_ocmWrite hue hcarried,
        ih _ _ (by rw [hframe]; exact hue) (by rw [hframe]; exact hcarried) (by rw [List.length_drop]; omega)]
      conv_rhs => rw [← List.take_append_drop (unit - x % unit) bs, State.ocmWrite_append, List.length_take]
      by_cases hlast : unit - x % unit ≤ bs.length
      · rw [min_eq_left hlast]
      · rw [List.drop_eq_nil_of_le (by omega)]
        rfl

theorem State.portBPut_eq_ocmWrite (hue : s.memUe = []) (hcarried : s.memCarried = []) (x : Nat) (bs : List Byte) :
    s.portBPut x bs = s.ocmWrite x bs :=
  State.foldl_cutBytes 4 (by decide) bs.length x bs hue hcarried le_rfl

theorem State.rangeServed_ocm_eq_ok {x n : Nat} : s.rangeServed (.ocm x) n = .ok ↔ ∀ b ∈ banksOf x n, s.bankServed b = .ok := by
  constructor
  · intro h b hb
    rw [State.rangeServed] at h
    split at h
    · cases h
    · next hoff =>
      split at h
      · cases h
      · next hstall =>
        cases hserved : s.bankServed b with
        | ok => rfl
        | stall => exact absurd (List.any_eq_true.mpr ⟨b, hb, decide_eq_true hserved⟩) hstall
        | off => exact absurd (List.any_eq_true.mpr ⟨b, hb, decide_eq_true hserved⟩) hoff
  · intro h
    rw [State.rangeServed, if_neg, if_neg]
    · simpa using fun b hb => by rw [h b hb]; exact Served.noConfusion
    · simpa using fun b hb => by rw [h b hb]; exact Served.noConfusion

theorem mem_banksOf {x n b : Nat} : b ∈ banksOf x n ↔ bankOf x ≤ b ∧ b * 0x100000 < x + n := by
  simp only [banksOf, bankOf, List.mem_map, List.mem_range]
  constructor
  · rintro ⟨k, hk, rfl⟩
    omega
  · rintro ⟨hlo, hhi⟩
    exact ⟨b - x / 0x100000, by omega, by omega⟩

/-- A part of a range that is served is served. -/
theorem State.rangeServed_part {x n z m : Nat} (h : s.rangeServed (.ocm x) n = .ok) (hlo : x ≤ z) (hhi : z + m ≤ x + n) :
    s.rangeServed (.ocm z) m = .ok := by
  rw [State.rangeServed_ocm_eq_ok] at h ⊢
  intro b hb
  obtain ⟨hfirst, hlast⟩ := mem_banksOf.mp hb
  exact h b (mem_banksOf.mpr ⟨(Nat.div_le_div_right hlo).trans hfirst, hlast.trans_le hhi⟩)

theorem regionOf_ocmBase_add (usable : Nat) {x : Nat} (hx : x < 0x4000000) : regionOf usable (ocmBase + x) = .ocm x := by
  have hhost : ¬ ocmBase + x ≥ 2 ^ 63 := by unfold ocmBase; omega
  have hregs : ¬ ocmBase + x < 0x10000000 := by unfold ocmBase; omega
  have hocm : 0x40000000 ≤ ocmBase + x ∧ ocmBase + x < 0x44000000 := by unfold ocmBase; omega
  have hsub : ocmBase + x - 0x40000000 = x := by unfold ocmBase; omega
  rw [regionOf, if_neg hhost, if_neg hregs, if_pos hocm, hsub]

theorem eq_of_regionOf_eq_ocm {usable a x : Nat} (h : regionOf usable a = .ocm x) : a = ocmBase + x := by
  unfold regionOf at h
  split_ifs at h with _ _ _ hocm
  have hx := Region.ocm.inj h
  unfold ocmBase
  omega

theorem State.storeRegion_eq_portBPut {r : Region} {x : Nat} {bs : List Byte} (hr : r = .ocm x) (h : s.rangeServed r bs.length = .ok) :
    s.storeRegion r bs = s.portBPut x bs := by
  unfold State.storeRegion
  rw [h]
  simp only [hr]

/-- Bytes written into a ring in on-chip memory, where they do not reach its end. -/
theorem State.captPut_ocm {base size off y : Nat} {bs : List Byte} (hue : s.memUe = []) (hcarried : s.memCarried = [])
    (hbase : s.region base = .ocm y) (hserved : s.rangeServed (.ocm y) size = .ok) (hend : y + size ≤ 0x4000000) (hne : 0 < bs.length)
    (hfit : off + bs.length ≤ size) : s.captPut base size off bs = (s.touch (ocmBase + (y + off)) bs.length).ocmWrite (y + off) bs := by
  have hregion : regionOf s.usable (base + off) = .ocm (y + off) := by
    rw [eq_of_regionOf_eq_ocm hbase, Nat.add_assoc, regionOf_ocmBase_add _ (by omega)]
  have hk : min bs.length (size - off) = bs.length := by omega
  have hpart : s.rangeServed (.ocm (y + off)) bs.length = .ok := State.rangeServed_part hserved (by omega) (by omega)
  have htouch := s.touch_only (ocmBase + (y + off)) bs.length
  have hstore : (s.touch (ocmBase + (y + off)) bs.length).storeRegion (.ocm (y + off)) bs =
      (s.touch (ocmBase + (y + off)) bs.length).ocmWrite (y + off) bs := by
    have hthere : (s.touch (ocmBase + (y + off)) bs.length).rangeServed (.ocm (y + off)) bs.length = .ok := by rw [htouch]; exact hpart
    rw [State.storeRegion_eq_portBPut rfl hthere]
    exact State.portBPut_eq_ocmWrite (by rw [htouch]; exact hue) (by rw [htouch]; exact hcarried) _ _
  have hput : s.ringPut base size off bs = (s.touch (ocmBase + (y + off)) bs.length).ocmWrite (y + off) bs := by
    rw [State.ringPut, hk, List.take_length, hregion, if_neg (Nat.lt_irrefl _), State.putRegion]
    exact hstore
  rw [State.captPut, hk, if_neg (Nat.lt_irrefl _), hput]
  unfold State.region
  rw [hregion]
  rfl

end

/-! Records of the datalog (R346 to R349). -/

theorem State.length_dlogBytes (s : State) (i : Nat) (r : DlogRec) : (s.dlogBytes i r).length = 32 := by
  simp [State.dlogBytes, length_leBytes]

section
variable {s : State} {i y : Nat}

/-- The bytes of a record put at the write position of a ring with room for it. -/
theorem State.dlogPut_of_ringRoom {n : Nat} (h : ringRoom s i y n) {bs : List Byte} (hlen : bs.length = 32) :
    ∃ m st, s.dlogPut i (s.dlog i).wpos bs = { s with mem := m, sites := st } ∧ sameSites s { s with mem := m, sites := st } ∧
      ∀ z, z < 0x4000000 → State.ocmByte { s with mem := m, sites := st } z =
        if y + (s.dlog i).wpos ≤ z ∧ z < y + (s.dlog i).wpos + 32 then bs.getD (z - (y + (s.dlog i).wpos)) 0 else s.ocmByte z := by
  obtain ⟨⟨hue, hcarried, hcopies, hphys⟩, hbase, hend, -, hserved, -, -, -, hfit, -⟩ := h
  have hput := State.captPut_ocm (bs := bs) hue hcarried hbase hserved (by omega) (by omega) (by rw [hlen]; exact hfit)
  rw [hlen] at hput
  generalize hx : y + (s.dlog i).wpos = x at hput ⊢
  have htouch := s.touch_only (ocmBase + x) 32
  generalize hu : s.touch (ocmBase + x) 32 = u at hput htouch
  have hwrite := State.ocmWrite_frame bs u x
  have hstate : u.ocmWrite x bs = { s with mem := (u.ocmWrite x bs).mem, sites := u.sites } :=
    hwrite.trans (congrArg (fun v : State => { v with mem := (u.ocmWrite x bs).mem }) htouch)
  have hapart : u.banksApart := by rw [htouch]; exact ⟨hcopies, hphys⟩
  refine ⟨_, _, hput.trans hstate, fun k => ?_, fun z hz => ?_⟩
  · have hmarks := (Puts.touch (Puts.refl s) (ocmBase + x) 32).marks k
    rw [hu] at hmarks
    exact hmarks
  · rw [← hstate, State.ocmByte_ocmWrite bs hapart (by omega) hz, hlen]
    congr 1
    rw [htouch]
    rfl

/-- What a record with room in an open batch leaves: the record, and nothing else but memory, the datalog and the marks of sites. -/
structure Recorded (s t : State) (i y : Nat) (r : DlogRec) : Prop where
  state : t = { s with mem := t.mem, svc := { s.svc with dlogs := t.svc.dlogs }, sites := t.sites }
  put : recordPut s t i y r

/-- The state u, in which the bytes of a record stand in the ring, with the record counted to the open batch as of state s. -/
def State.batched (s u : State) (i : Nat) (r : DlogRec) : State :=
  (u.dlogAdvance i 32).updDlog i (fun d => { d with recs := d.recs ++ s.dlogBytes i r, last := s.tick })

theorem State.dlog_batched (s : State) (m : Sparse Byte) (st : Sparse Site) (i : Nat) (r : DlogRec) :
    (s.batched { s with mem := m, sites := st } i r).dlog i = { s.dlog i with
      wpos := ((s.dlog i).wpos + 32) % s.dlogSize i
      full := decide (((s.dlog i).wpos + 32) % s.dlogSize i = s.get (SVC_DLOG_TAIL i))
      recs := (s.dlog i).recs ++ s.dlogBytes i r
      last := s.tick } := by
  rw [State.batched, State.dlog_updDlog_self, State.dlogAdvance, State.dlog_updDlog_self]
  rfl

theorem State.dlog_batched_other (s u : State) {k : Nat} (hk : k ≠ i) (r : DlogRec) : (s.batched u i r).dlog k = u.dlog k := by
  rw [State.batched, State.dlog_updDlog_other _ _ hk, State.dlogAdvance, State.dlog_updDlog_other _ _ hk]

theorem State.dlogTry_of_ringOpen (h : ringOpen s i y) (r : DlogRec) : ∃ t, s.dlogTry i r = (t, true) ∧ Recorded s t i y r := by
  obtain ⟨m, st, hput, hsites, hbytes⟩ := State.dlogPut_of_ringRoom h (s.length_dlogBytes i r)
  obtain ⟨-, -, -, hplaced, -, hheader, hfree, -, -, hbatch⟩ := h
  have hdlog := s.dlog_batched m st i r
  have hother := fun k (hk : k ≠ i) => s.dlog_batched_other { s with mem := m, sites := st } hk r
  have hnone : (s.dlog i).header.isNone = false := by rw [← Option.not_isSome, hheader]; rfl
  have hclose : ¬ max 1 (s.dlogCfg i (SVC_DLOG_CFG_BATCH i)) ≤ ((s.batched { s with mem := m, sites := st } i r).dlog i).recs.length / 32 := by
    rw [hdlog, List.length_append, State.length_dlogBytes]
    omega
  refine ⟨_, ?_, rfl, hdlog, fun k hk => ⟨hother k hk, rfl⟩, rfl, hsites, hbytes⟩
  rw [State.dlogTry, hplaced, if_neg (by decide), hnone, if_neg (by simpa using hfree), if_neg Bool.false_ne_true]
  dsimp only
  rw [hput]
  exact congrArg (·, true) (if_neg hclose)

theorem Recorded.reg {t : State} {r : DlogRec} (h : Recorded s t i y r) (a : Nat) : t.reg a = s.reg a := by
  rw [h.state]
  rfl

theorem Recorded.flow {t : State} {r : DlogRec} (h : Recorded s t i y r) (k : Nat) : t.flow k = s.flow k := by
  rw [h.state]
  rfl

/-- A step's record in an open batch: the step goes on behind it. -/
theorem State.flowRecord_of_ringOpen (h : ringOpen s i y) (r : DlogRec) (th : FlowThen) :
    ∃ t, s.flowRecord i r th = t.flowThen i th ∧ Recorded s t i y r := by
  obtain ⟨t, htry, hrec⟩ := State.dlogTry_of_ringOpen h r
  exact ⟨t, by rw [State.flowRecord, htry, if_pos rfl], hrec⟩

end

/-! A record between changes of the flow alone. -/

section
variable {s t u : State} {i y : Nat}

theorem StatStays.get_of_lt (h : StatStays s t i) {f : Fld} (hf : f.addr < (SVC_STAT_STATE i).addr) : t.get f = s.get f :=
  h.get (by simpa using hf.ne)

theorem StatStays.get_of_gt (h : StatStays s t i) {f : Fld} (hf : (SVC_STAT_STATE i).addr < f.addr) : t.get f = s.get f :=
  h.get (by simpa using hf.ne')

theorem StatStays.phys (h : StatStays s t i) {b : Nat} (hb : b < 64) : t.phys b = s.phys b :=
  h.get_of_lt (by simp only [MEM_MAP_PHYS, SVC_STAT_STATE]; omega)

theorem StatStays.usable (h : StatStays s t i) : t.usable = s.usable := by
  rw [State.usable, State.get64, h.get_of_lt (by simp only [DRC_USABLE_LO_USABLE, SVC_STAT_STATE]; omega),
    h.get_of_lt (by simp only [DRC_USABLE_HI_USABLE, SVC_STAT_STATE]; omega), State.usable, State.get64]

theorem StatStays.tail (h : StatStays s t i) : t.get (SVC_DLOG_TAIL i) = s.get (SVC_DLOG_TAIL i) :=
  h.get_of_gt (by simp only [SVC_DLOG_TAIL, SVC_STAT_STATE]; omega)

theorem StatStays.run (h : StatStays s t i) : t.get (SVC_RUN i) = s.get (SVC_RUN i) :=
  h.get_of_gt (by simp only [SVC_RUN, SVC_STAT_STATE]; omega)

theorem StatStays.ocmByte (h : StatStays s t i) {z : Nat} (hz : z < 0x4000000) : t.ocmByte z = s.ocmByte z := by
  have hmem : t.mem = s.mem := by rw [h.state]
  rw [State.ocmByte, State.physByte, h.phys (by unfold bankOf; omega), hmem, State.ocmByte, State.physByte]

theorem StatStays.memPlain_of (h : StatStays s t i) (hs : memPlain s) : memPlain t := by
  obtain ⟨hue, hcarried, hcopies, hphys⟩ := hs
  refine ⟨by rw [h.state]; exact hue, by rw [h.state]; exact hcarried, by rw [h.state]; exact hcopies, fun b c hb hc => ?_⟩
  rw [h.phys hb, h.phys hc]
  exact hphys b c hb hc

theorem StatStays.rangeServed (h : StatStays s t i) (n : Nat) : t.rangeServed (.ocm y) n = s.rangeServed (.ocm y) n := by
  rw [h.state]
  rfl

theorem State.svcCfg_congr (hcfg : (t.flow i).cfg = (s.flow i).cfg) (n : Nat) (f : Fld) : t.svcCfg i n f = s.svcCfg i n f := by
  rw [State.svcCfg, hcfg, State.svcCfg]

theorem State.dlogSize_congr (hcfg : (t.flow i).cfg = (s.flow i).cfg) : t.dlogSize i = s.dlogSize i := by
  rw [State.dlogSize, State.svcCfg_congr hcfg, State.dlogSize]

theorem State.dlogBase_congr (hcfg : (t.flow i).cfg = (s.flow i).cfg) : t.dlogBase i = s.dlogBase i := by
  rw [State.dlogBase, State.svcCfg_congr hcfg, State.svcCfg_congr hcfg, State.dlogBase]

theorem StatStays.ringOpen_of_eq_cfg (h : StatStays s t i) (hcfg : (t.flow i).cfg = (s.flow i).cfg) (hs : ringOpen s i y) : ringOpen t i y := by
  obtain ⟨hplain, hregion, hend, hplaced, hserved, hheader, hfree, hword, hfit, hbatch⟩ := hs
  unfold ringOpen ringRoom
  have hfreeEq : t.dlogFree i = s.dlogFree i := by
    rw [State.dlogFree, State.dlogSize_congr hcfg, h.dlog, h.tail, State.dlogFree]
  have hplacedEq : t.ringPlaced (s.dlogBase i) (s.dlogSize i) = s.ringPlaced (s.dlogBase i) (s.dlogSize i) := by
    rw [State.ringPlaced, State.placed, h.usable, State.ringPlaced, State.placed]
  have hregionEq : t.region (s.dlogBase i) = s.region (s.dlogBase i) := by rw [State.region, h.usable, State.region]
  rw [State.dlogSize_congr hcfg, State.dlogBase_congr hcfg, h.dlog, hfreeEq, hplacedEq, hregionEq, h.rangeServed,
    show t.dlogCfg i (SVC_DLOG_CFG_BATCH i) = s.dlogCfg i (SVC_DLOG_CFG_BATCH i) from State.svcCfg_congr hcfg _ _]
  exact ⟨h.memPlain_of hplain, hregion, hend, hplaced, hserved, hheader, hfree, hword, hfit, hbatch⟩

/-- A record put between two changes of the flow is put from the first state to the last. -/
theorem Recorded.recordPut_between {s' : State} {r : DlogRec} (hr : Recorded s' u i y r) (hs : StatStays s s' i)
    (hcfg : (s'.flow i).cfg = (s.flow i).cfg) (ht : StatStays u t i) : recordPut s t i y r := by
  obtain ⟨hdlog, hothers, hjobs, hsites, hbytes⟩ := hr.put
  have hrecord : t.dlogBytes i r = u.dlogBytes i r := by rw [State.dlogBytes, ht.run, ht.tick, State.dlogBytes]
  have hsize := State.dlogSize_congr hcfg
  unfold recordPut
  dsimp only at hdlog hbytes ⊢
  rw [ht.dlog, hrecord, hdlog, hs.dlog, hsize, hs.tail, hs.tick]
  refine ⟨rfl, fun k hk => ⟨?_, ?_⟩, ?_, fun k => ?_, fun z hz => ?_⟩
  · rw [ht.dlog, (hothers k hk).1, hs.dlog]
  · rw [ht.flow k hk, (hothers k hk).2, hs.flow k hk]
  · exact ht.jobs.trans (hjobs.trans hs.jobs)
  · have htk : t.site k = u.site k := by rw [ht.state]; rfl
    have hsk : s'.site k = s.site k := by rw [hs.state]; rfl
    rw [htk, hsites k, hsk]
  · rw [ht.ocmByte hz, hbytes z hz, hs.dlog, hs.ocmByte hz]

end

/-! Faults (R336). -/

/-- A step of site i that faults, with its record in the ring from offset y on: the run ends in FAULT without a bin. -/
def FlowFaulted (s t : State) (i y : Nat) : Prop :=
  t = { s with
    regs := t.regs
    mem := t.mem
    svc := t.svc
    sites := t.sites
    events := s.events ++ [⟨0x8003, i, (s.flow i).step % 2 ^ 32, s.tick⟩] } ∧
    t.get (SVC_STAT_STATE i) = 5 ∧ (t.flow i).wait = .none ∧ (t.flow i).ret = none ∧ (t.flow i).queue = [] ∧
    (t.flow i).bin = (s.flow i).bin ∧ sameRegs [(SVC_STAT_STATE i).addr] s t ∧
    recordPut s t i y ⟨0x07, false, false, false, false, (s.flow i).step, 0, 0⟩

theorem flowFaulted_flowFault {s : State} {i y : Nat} (hi : i < 16) (h : ringOpen s i y) : FlowFaulted s (s.flowFault i) i y := by
  have hraised : ringOpen (s.raise 0x8003 i (s.flow i).step) i y := h
  obtain ⟨u, hfault, hrec⟩ := State.flowRecord_of_ringOpen hraised ⟨0x07, false, false, false, false, (s.flow i).step, 0, 0⟩ .fault
  have hu : s.flowFault i = u.flowEnd i flFault := hfault
  have hend := statStays_flowEnd u i flFault
  have hflow : (u.flowEnd i flFault).flow i =
      { s.flow i with
        wait := .none
        ret := none
        queue := []
        stop := false
        aborted := false
        stall := none } := by
    rw [State.flowEnd, State.flow_updFlow_self, State.flow_set, hrec.flow]
    rfl
  have hput := hrec.recordPut_between (FlowStays.refl _ _ i) rfl hend
  rw [hu]
  refine ⟨?_, State.get_set_self _ _ rfl, ?_, ?_, ?_, ?_, fun a ha => ?_, hput⟩
  · rw [State.flowEnd, hrec.state, State.raise, Nat.mod_eq_of_lt (hi.trans (by decide))]
    rfl
  · rw [hflow]
  · rw [hflow]
  · rw [hflow]
  · rw [hflow]
  · rw [hend.reg a ha, hrec.reg]
    rfl

/-! CALC (R338). -/

/-- The result and the validity that CALC gives, before saturation. -/
def CalcGives (s : State) (i : Nat) (v : Int) (ok : Bool) : Prop :=
  let w0 := s.flowWord i 0
  let w1 := s.flowWord i 1
  let va := bitsOf w0 8 4
  let vb := bitsOf w0 12 4
  (bitsOf w1 0 3 = 0 ∧ v = s.flowLong i 2 ∧ ok = true) ∨
    (bitsOf w1 0 3 = 1 ∧ v = s.var i va + s.var i vb ∧ ok = (s.varOk i va && s.varOk i vb)) ∨
    (bitsOf w1 0 3 = 2 ∧ v = s.var i va - s.var i vb ∧ ok = (s.varOk i va && s.varOk i vb)) ∨
    (bitsOf w1 0 3 = 3 ∧ v = s.var i va * s.var i vb ∧ ok = (s.varOk i va && s.varOk i vb)) ∨
    (bitsOf w1 0 3 = 4 ∧ v = s.var i va / 2 ^ bitsOf w1 8 6 ∧ ok = s.varOk i va) ∨
    (bitsOf w1 0 3 = 5 ∧ v = s.var i va ∧ ok = s.varOk i va)

section
variable {s : State} {i x y : Nat}

theorem State.stepCalc_of_gives {v : Int} {ok : Bool} (h : CalcGives s i v ok) :
    s.stepCalc i = (s.setVar i (bitsOf (s.flowWord i 0) 4 4) (sat64 v) ok).flowNext i := by
  rcases h with ⟨hop, rfl, rfl⟩ | ⟨hop, rfl, rfl⟩ | ⟨hop, rfl, rfl⟩ | ⟨hop, rfl, rfl⟩ | ⟨hop, rfl, rfl⟩ | ⟨hop, rfl, rfl⟩
  case inr.inr.inr.inr.inl => simp only [State.stepCalc, hop, Int.shiftRight_eq_div_pow, Nat.cast_pow, Nat.cast_ofNat]
  all_goals simp only [State.stepCalc, hop]

theorem State.stepCalc_of_reserved (h : 6 ≤ bitsOf (s.flowWord i 1) 0 3) : s.stepCalc i = s.flowFault i := by
  have hlt := bitsOf_lt (s.flowWord i 1) 0 3
  obtain hop | hop : bitsOf (s.flowWord i 1) 0 3 = 6 ∨ bitsOf (s.flowWord i 1) 0 3 = 7 := by omega
  all_goals simp only [State.stepCalc, hop]

/-! LIMIT and BIN (R340, R341). -/

@[simp] theorem State.flow_flowBin (bin : Nat) (force : Bool) :
    (s.flowBin i bin force).flow i = if force || (s.flow i).bin.isNone then { s.flow i with bin := some bin } else s.flow i := by
  rw [State.flowBin, apply_ite (State.flow · i), State.flow_updFlow_self]

theorem statStays_flowBin (s : State) (i bin : Nat) (force : Bool) : StatStays s (s.flowBin i bin force) i := by
  unfold State.flowBin
  split
  · exact (FlowStays.refl _ s i).updFlow _
  · exact FlowStays.refl _ s i

theorem State.bit_flowBin (bin : Nat) (force : Bool) (f : Fld) : (s.flowBin i bin force).bit f = s.bit f := by
  unfold State.flowBin
  split <;> rfl

/-- Whether the operand of a LIMIT step is valid. -/
def State.limitOk (s : State) (i : Nat) : Bool := s.varOk i (bitsOf (s.flowWord i 0) 8 4)

/-- Whether it is valid and below its enabled lower bound. -/
def State.limitLow (s : State) (i : Nat) : Bool :=
  s.limitOk i && bitOf (s.flowWord i 0) 17 && decide (s.var i (bitsOf (s.flowWord i 0) 8 4) < s.flowLong i 1)

/-- Whether it is valid and above its enabled upper bound. -/
def State.limitHigh (s : State) (i : Nat) : Bool :=
  s.limitOk i && bitOf (s.flowWord i 0) 18 && decide (s.flowLong i 3 < s.var i (bitsOf (s.flowWord i 0) 8 4))

/-- Whether a LIMIT step passes. -/
def State.limitPass (s : State) (i : Nat) : Bool := s.limitOk i && !s.limitLow i && !s.limitHigh i

/-- A LIMIT step before its record: C is set, and a fail sets the bin. -/
def State.limitDone (s : State) (i : Nat) : State :=
  if !s.limitPass i && bitOf (s.flowWord i 5) 8 then (s.setC i (s.limitPass i)).flowBin i (bitsOf (s.flowWord i 5) 0 8) false
  else s.setC i (s.limitPass i)

/-- The record of a LIMIT step. -/
def State.limitRecord (s : State) (i : Nat) : DlogRec :=
  ⟨0x02, s.limitPass i, s.limitOk i, s.limitLow i, s.limitHigh i, s.flowTest i, unsignedOf 64 (s.var i (bitsOf (s.flowWord i 0) 8 4)),
    unsignedOf 64 (if s.limitLow i then s.flowLong i 1 else if s.limitHigh i then s.flowLong i 3 else 0)⟩

/-- The flow after a LIMIT step's test. -/
def State.limitFlow (s : State) (i : Nat) : FlowState :=
  if !s.limitPass i && bitOf (s.flowWord i 5) 8 && (s.flow i).bin.isNone then { s.flow i with bin := some (bitsOf (s.flowWord i 5) 0 8) }
  else s.flow i

theorem State.stepLimit_eq (s : State) (i : Nat) : s.stepLimit i =
    if bitOf (s.flowWord i 0) 16 then (s.limitDone i).flowRecord i (s.limitRecord i) (.go ((s.flow i).step + 1))
    else (s.limitDone i).flowGo i ((s.flow i).step + 1) := rfl

theorem statStays_limitDone (s : State) (i : Nat) : StatStays s (s.limitDone i) i := by
  have hc := statStays_setC s i (s.limitPass i)
  unfold State.limitDone
  split
  · exact hc.trans (statStays_flowBin _ i _ _)
  · exact hc

theorem State.bit_C_limitDone : (s.limitDone i).bit (SVC_STAT_C i) = s.limitPass i := by
  unfold State.limitDone
  split
  · rw [State.bit_flowBin, State.bit_C_setC]
  · rw [State.bit_C_setC]

theorem State.flow_limitDone : (s.limitDone i).flow i = s.limitFlow i := by
  unfold State.limitDone State.limitFlow
  cases !s.limitPass i && bitOf (s.flowWord i 5) 8 with
  | false => rfl
  | true => exact State.flow_flowBin _ _

theorem State.cfg_limitFlow : (s.limitFlow i).cfg = (s.flow i).cfg := by
  unfold State.limitFlow
  split <;> rfl

/-- A LIMIT step that writes no record. -/
theorem stepLimit_without_record (hlog : bitOf (s.flowWord i 0) 16 = false) :
    (s.stepLimit i).bit (SVC_STAT_C i) = s.limitPass i ∧ flowBoundary (s.stepLimit i) i (s.limitFlow i) ((s.flow i).step + 1) ∧
      flowOnly [(SVC_STAT_STATE i).addr] s (s.stepLimit i) i := by
  rw [State.stepLimit_eq, hlog, if_neg Bool.false_ne_true]
  refine ⟨?_, ?_, ((statStays_limitDone s i).trans (statStays_flowGo _ i _)).flowOnly⟩
  · rw [State.bit_C_flowGo, State.bit_C_limitDone]
  · rw [← State.flow_limitDone]
    exact flowBoundary_flowGo _ _ _

/-- A LIMIT step with its record. -/
theorem stepLimit_with_record (hlog : bitOf (s.flowWord i 0) 16 = true) (h : ringOpen s i y) :
    (s.stepLimit i).bit (SVC_STAT_C i) = s.limitPass i ∧ flowBoundary (s.stepLimit i) i (s.limitFlow i) ((s.flow i).step + 1) ∧
      (s.stepLimit i = { s with
        regs := (s.stepLimit i).regs
        mem := (s.stepLimit i).mem
        svc := (s.stepLimit i).svc
        sites := (s.stepLimit i).sites }) ∧
      sameRegs [(SVC_STAT_STATE i).addr] s (s.stepLimit i) ∧ recordPut s (s.stepLimit i) i y (s.limitRecord i) := by
  have hdone := statStays_limitDone s i
  have hcfg : ((s.limitDone i).flow i).cfg = (s.flow i).cfg := by rw [State.flow_limitDone, State.cfg_limitFlow]
  obtain ⟨u, hstep, hrec⟩ := State.flowRecord_of_ringOpen (hdone.ringOpen_of_eq_cfg hcfg h) (s.limitRecord i) (.go ((s.flow i).step + 1))
  have hgo := statStays_flowGo u i ((s.flow i).step + 1)
  have hu : s.stepLimit i = u.flowGo i ((s.flow i).step + 1) := by
    rw [State.stepLimit_eq, hlog, if_pos rfl, hstep]
    rfl
  rw [hu]
  refine ⟨?_, ?_, ?_, fun a ha => ?_, hrec.recordPut_between hdone hcfg hgo⟩
  · rw [State.bit_C_flowGo, State.bit, State.get, hrec.reg]
    exact State.bit_C_limitDone
  · rw [← State.flow_limitDone, ← hrec.flow]
    exact flowBoundary_flowGo _ _ _
  · rw [hgo.state, hrec.state, hdone.state]
  · rw [hgo.reg a ha, hrec.reg, hdone.reg a ha]

theorem stepBin_only :
    (s.stepBin i).bit (SVC_STAT_C i) = s.bit (SVC_STAT_C i) ∧ flowOnly [(SVC_STAT_STATE i).addr] s (s.stepBin i) i ∧
      flowBoundary (s.stepBin i) i (if bitOf (s.flowWord i 1) 8 || (s.flow i).bin.isNone then
        { s.flow i with bin := some (bitsOf (s.flowWord i 1) 0 8) } else s.flow i) ((s.flow i).step + 1) := by
  have hstep : ((s.flowBin i (bitsOf (s.flowWord i 1) 0 8) (bitOf (s.flowWord i 1) 8)).flow i).step = (s.flow i).step := by
    rw [State.flow_flowBin]
    split <;> rfl
  rw [State.stepBin, State.flowNext, hstep, ← State.flow_flowBin]
  refine ⟨?_, ((statStays_flowBin s i _ _).trans (statStays_flowGo _ i _)).flowOnly, flowBoundary_flowGo _ _ _⟩
  rw [State.bit_C_flowGo, State.bit_flowBin]

/-! JUMP and HRET (R338, R345). -/

/-- Whether a JUMP step takes its jump. -/
def State.jumpTakes (s : State) (i : Nat) : Bool :=
  let w1 := s.flowWord i 1
  let va := bitsOf (s.flowWord i 0) 8 4
  decide (bitsOf w1 12 2 = 0) || (decide (bitsOf w1 12 2 = 1) && s.bit (SVC_STAT_C i)) ||
    (decide (bitsOf w1 12 2 = 2) && !s.bit (SVC_STAT_C i)) || (decide (bitsOf w1 12 2 = 3) && s.varOk i va && decide (s.var i va ≠ 0))

theorem State.stepJump_eq (s : State) (i : Nat) :
    s.stepJump i = s.flowGo i (if s.jumpTakes i then bitsOf (s.flowWord i 1) 0 10 else (s.flow i).step + 1) := by
  have hlt := bitsOf_lt (s.flowWord i 1) 12 2
  rw [apply_ite (s.flowGo i)]
  obtain h | h | h | h : bitsOf (s.flowWord i 1) 12 2 = 0 ∨ bitsOf (s.flowWord i 1) 12 2 = 1 ∨ bitsOf (s.flowWord i 1) 12 2 = 2 ∨
    bitsOf (s.flowWord i 1) 12 2 = 3 := by omega
  all_goals simp [State.stepJump, State.jumpTakes, State.flowNext, h]

theorem stepJump_only :
    (s.stepJump i).bit (SVC_STAT_C i) = s.bit (SVC_STAT_C i) ∧ flowOnly [(SVC_STAT_STATE i).addr] s (s.stepJump i) i ∧
      flowBoundary (s.stepJump i) i (s.flow i) (if s.jumpTakes i then bitsOf (s.flowWord i 1) 0 10 else (s.flow i).step + 1) := by
  rw [State.stepJump_eq]
  exact ⟨State.bit_C_flowGo _ _ _, (statStays_flowGo _ i _).flowOnly, flowBoundary_flowGo _ _ _⟩

theorem stepHret_only {k : Nat} (h : (s.flow i).ret = some k) :
    flowOnly [(SVC_STAT_STATE i).addr] s (s.stepHret i) i ∧ (s.stepHret i).bit (SVC_STAT_C i) = s.bit (SVC_STAT_C i) ∧
      flowBoundary (s.stepHret i) i { s.flow i with ret := none } k := by
  have hback := flowBoundary_flowGo (s.updFlow i (fun f => { f with ret := none })) i k
  rw [State.flow_updFlow_self] at hback
  rw [State.stepHret, h]
  refine ⟨(((FlowStays.refl _ s i).updFlow _).trans (statStays_flowGo _ i k)).flowOnly, ?_, hback⟩
  rw [State.bit_C_flowGo, State.bit_updFlow]

theorem State.stepHret_outside (h : (s.flow i).ret = none) : s.stepHret i = s.flowFault i := by
  rw [State.stepHret, h]

/-! WAIT (R338). -/

/-- What a WAIT step waits for beside a time: its FSYNC input or its event bit. -/
def State.waitSel (s : State) (i : Nat) : Nat :=
  let what := bitsOf (s.flowWord i 1) 0 2
  if what = 2 then bitsOf (s.flowWord i 1) 4 2 else if what = 3 then bitsOf (s.flowWord i 1) 8 5 else 0

/-- The wait of a WAIT step that begins now. -/
def State.waitOf (s : State) (i : Nat) : FlowWait :=
  let what := bitsOf (s.flowWord i 1) 0 2
  .wait what (s.waitSel i) s.now (if what = 0 then some (s.now + s.flowWord i 2 * us) else none)
    (if s.flowWord i 3 = 0 then none else some (s.now + s.flowWord i 3 * us))
    (if what = 3 ∧ bitOf s.evtState (s.waitSel i) then some s.now else none)

theorem State.stepWaitFor_eq (s : State) (i : Nat) :
    s.stepWaitFor i = (s.set (SVC_STAT_STATE i) flWaiting).updFlow i (fun f => { f with wait := s.waitOf i }) := by
  have hlt := bitsOf_lt (s.flowWord i 1) 0 2
  obtain h | h | h | h : bitsOf (s.flowWord i 1) 0 2 = 0 ∨ bitsOf (s.flowWord i 1) 0 2 = 1 ∨ bitsOf (s.flowWord i 1) 0 2 = 2 ∨
    bitsOf (s.flowWord i 1) 0 2 = 3 := by omega
  all_goals simp [State.stepWaitFor, State.waitOf, State.waitSel, h]

theorem stepWaitFor_only :
    flowOnly [(SVC_STAT_STATE i).addr] s (s.stepWaitFor i) i ∧ (s.stepWaitFor i).get (SVC_STAT_STATE i) = 2 ∧
      (s.stepWaitFor i).bit (SVC_STAT_C i) = s.bit (SVC_STAT_C i) ∧ (s.stepWaitFor i).flow i = { s.flow i with wait := s.waitOf i } := by
  rw [State.stepWaitFor_eq]
  refine ⟨(((FlowStays.refl _ s i).set _ (List.mem_singleton.mpr rfl)).updFlow _).flowOnly, State.get_set_self _ _ rfl, ?_, ?_⟩
  · rw [State.bit_updFlow, State.bit_set_other _ _ (by simp [Fld.apart, SVC_STAT_STATE, SVC_STAT_C])]
  · rw [State.flow_updFlow_self, State.flow_set]

/-- A WAIT step of site i that ends at an instant with a value of C. -/
def WaitSettled (s t : State) (i at_ : Nat) (c : Bool) : Prop :=
  t = { s with now := max s.now at_, regs := t.regs, svc := t.svc } ∧ t.bit (SVC_STAT_C i) = c ∧
    flowBoundary t i (s.flow i) ((s.flow i).step + 1) ∧ (∀ k, k ≠ i → t.flow k = s.flow k) ∧ sameRegs [(SVC_STAT_STATE i).addr] s t

theorem waitSettled_flowNext (s : State) (i at_ : Nat) (c : Bool) : WaitSettled s (((s.at_ at_).setC i c).flowNext i) i at_ c := by
  have h := (statStays_setC (s.at_ at_) i c).trans (statStays_flowGo ((s.at_ at_).setC i c) i ((s.flow i).step + 1))
  refine ⟨h.state, ?_, flowBoundary_flowGo _ _ _, h.flow, h.reg⟩
  rw [State.flowNext, State.bit_C_flowGo, State.bit_C_setC]

section
variable {what sel since : Nat} {until_ timeout come : Option Nat}

theorem State.flowWaitDone_in_time (h : (s.flow i).wait = .wait what sel since until_ timeout come) {a : Nat}
    (hends : (if what = 0 then until_ else come) = some a) (hin : ∀ d, timeout = some d → a ≤ d) :
    s.flowWaitDone i = ((s.at_ a).setC i true).flowNext i := by
  cases timeout with
  | none => simp [State.flowWaitDone, h, hends]
  | some d => simp [State.flowWaitDone, h, hends, hin d rfl]

theorem State.flowWaitDone_timed_out {d : Nat} (h : (s.flow i).wait = .wait what sel since until_ (some d) come)
    (hlate : ∀ a, (if what = 0 then until_ else come) = some a → d < a) : s.flowWaitDone i = ((s.at_ d).setC i false).flowNext i := by
  cases hends : (if what = 0 then until_ else come) with
  | none => simp [State.flowWaitDone, h, hends]
  | some a => simp [State.flowWaitDone, h, hends, hlate a hends]

end

/-! MEAS and WRITE (R338, R339). -/

theorem State.stepMeas_of_measure (hsrc : bitsOf (s.flowWord i 1) 0 4 ≠ 6) {v : Int} {ok : Bool}
    (h : s.measure i (bitsOf (s.flowWord i 1) 0 4) (bitsOf (s.flowWord i 1) 4 4) (bitsOf (s.flowWord i 1) 16 10) = some (v, ok)) :
    s.stepMeas i = (s.setVar i (bitsOf (s.flowWord i 0) 4 4) v ok).flowNext i := by
  rw [State.stepMeas, if_neg hsrc, h]

/-- The value and the validity that MEAS reads from a source other than a device address, for the sources that the statement names and in general. -/
def MeasGives (s : State) (i : Nat) (v : Int) (ok : Bool) : Prop :=
  let src := bitsOf (s.flowWord i 1) 0 4
  let field := bitsOf (s.flowWord i 1) 4 4
  let idx := bitsOf (s.flowWord i 1) 16 10
  (src = 0 ∧ field = 1 ∧ v = (s.acc idx).total.mean ∧ ok = decide ((s.acc idx).total.n ≠ 0)) ∨
    (src = 2 ∧ field = 2 ∧ v = signedOf 64 (s.get64 (SITE_CAP_FIRST_LO_FIRST i) (SITE_CAP_FIRST_HI_FIRST i)) ∧
      ok = decide (s.get64 (SITE_CAP_FIRST_LO_FIRST i) (SITE_CAP_FIRST_HI_FIRST i) ≠ 2 ^ 64 - 1)) ∨
    (src = 3 ∧ field = 0 ∧ v = s.get (SITE_PIN_FCNT i (idx % 512)) ∧ ok = true) ∨
    (src = 4 ∧ field = 0 ∧ v = s.get (XE_SITE_OK_COUNT i) ∧ ok = true) ∨
    (src = 4 ∧ field = 1 ∧ v = s.get (XE_SITE_ERR_COUNT i) ∧ ok = true) ∨
    (src = 7 ∧ field = 0 ∧ v = signedOf 64 s.tick ∧ ok = true) ∨ (src ≠ 6 ∧ s.measure i src field idx = some (v, ok))

theorem State.stepMeas_of_gives {v : Int} {ok : Bool} (h : MeasGives s i v ok) :
    s.stepMeas i = (s.setVar i (bitsOf (s.flowWord i 0) 4 4) v ok).flowNext i := by
  rcases h with h | h | h | h | h | h | ⟨hsrc, hmeasure⟩
  case inr.inr.inr.inr.inr.inr => exact State.stepMeas_of_measure hsrc hmeasure
  all_goals
    obtain ⟨hsrc, hfield, rfl, rfl⟩ := h
    refine State.stepMeas_of_measure (by rw [hsrc]; decide) ?_
    rw [hsrc, hfield]
    rfl

theorem State.measure_reserved {src : Nat} (h : 8 ≤ src) (field idx : Nat) : s.measure i src field idx = none := by
  obtain ⟨n, rfl⟩ := Nat.exists_eq_add_of_le' h
  rfl

theorem State.stepMeas_of_reserved (h : 8 ≤ bitsOf (s.flowWord i 1) 0 4) : s.stepMeas i = s.flowFault i := by
  rw [State.stepMeas, if_neg (by omega), State.measure_reserved h]

end

/-! Words of on-chip memory over the bus (R404). -/

section
variable {s : State} {o : Origin} {y : Nat}

theorem pieces_word (y : Nat) (hy : 4 * y < 0x4000000) : pieces 4 (ocmBase + 4 * y) 4 = [(ocmBase + 4 * y, 4)] := by
  have hunit : pieceUnit (ocmBase + 4 * y) = 4 := if_neg (by unfold dramBase ocmBase; omega)
  have hk : min 4 (4 - (ocmBase + 4 * y) % 4) = 4 := by unfold ocmBase; omega
  rw [pieces, hunit]
  dsimp only
  rw [hk, pieces, if_pos rfl, if_neg (by decide)]

theorem not_inRegs_ocm (x : Nat) : inRegs (ocmBase + x) = false := by
  unfold inRegs ocmBase
  exact decide_eq_false (by omega)

theorem rangeServed_of_portBFree {x n : Nat} (h : portBFree s o x n) (hn : 0 < n) : s.rangeServed (.ocm x) n = .ok := by
  obtain ⟨-, -, hbytes⟩ := h
  rw [State.rangeServed_ocm_eq_ok]
  intro b hb
  obtain ⟨hfirst, hlast⟩ := mem_banksOf.mp hb
  unfold bankOf at hfirst
  have hbank : bankOf (max x (b * 0x100000)) = b := by unfold bankOf; omega
  obtain ⟨hpower, -⟩ := hbytes (max x (b * 0x100000)) (le_max_left _ _) (by omega)
  rw [hbank] at hpower
  rw [State.bankServed, hpower]

theorem secure_of_portBFree {x n : Nat} (h : portBFree s o x n) (hn : 0 < n) : (inSecure x && s.secureDenies o) = false := by
  obtain ⟨-, -, hbytes⟩ := h
  obtain ⟨-, hsecure⟩ := hbytes x le_rfl (by omega)
  cases hin : inSecure x with
  | false => rfl
  | true => rw [hsecure hin]; rfl

theorem State.memStalls_word (h : portBFree s o (4 * y) 4) : s.memStalls o (ocmBase + 4 * y) 4 = false := by
  obtain ⟨-, hend, -⟩ := id h
  have hregion : s.region (ocmBase + 4 * y) = .ocm (4 * y) := regionOf_ocmBase_add _ (by omega)
  have hstall : decide (s.rangeServed (.ocm (4 * y)) 4 = .stall) = false := by
    rw [rangeServed_of_portBFree h (by decide)]
    rfl
  rw [State.memStalls, pieces_word y (by omega), List.any_cons, List.any_nil, Bool.or_false, State.pieceStalls, hregion]
  dsimp only
  rw [hstall, Bool.and_false]

/-- A read of a word that port B serves changes nothing. -/
theorem State.busWord_ocm (hue : s.memUe = []) (h : portBFree s o (4 * y) 4) :
    s.busWord o (ocmBase + 4 * y) = some (s, word (leNat (s.ocmRead (4 * y) 4)), false) := by
  obtain ⟨-, hend, -⟩ := id h
  have hregion : s.region (ocmBase + 4 * y) = .ocm (4 * y) := regionOf_ocmBase_add _ (by omega)
  have hbad : s.ocmBad (4 * y) 4 = [] := by simp [State.ocmBad, hue]
  have hpiece : s.pieceRead o (ocmBase + 4 * y) 4 = (s, s.ocmRead (4 * y) 4, false) := by
    rw [State.pieceRead, hregion]
    dsimp only
    rw [State.ocmPiece, secure_of_portBFree h (by decide), if_neg Bool.false_ne_true, rangeServed_of_portBFree h (by decide),
      if_neg Served.noConfusion, State.ocmCheck_eq_self hue, hbad]
    rfl
  have hread : s.memRead o (ocmBase + 4 * y) 4 = (s, s.ocmRead (4 * y) 4, false) := by
    rw [State.memRead, pieces_word y (by omega), List.foldl_cons, List.foldl_nil]
    dsimp only
    rw [hpiece]
    rfl
  rw [State.busWord, State.busGet, not_inRegs_ocm, if_neg Bool.false_ne_true, State.memStalls_word h, if_neg Bool.false_ne_true, hread,
    Option.map_some]

/-- Four enabled bytes put over four are themselves. -/
theorem merge_some (as : List Byte) : ∀ bs : List Byte, bs.length = as.length → merge bs (as.map some) = as := by
  induction as with
  | nil => exact fun bs h => by rw [List.length_eq_zero_iff.mp h]; rfl
  | cons a as ih =>
    intro bs h
    cases bs with
    | nil => cases h
    | cons b bs => exact congrArg (a :: ·) (ih bs (Nat.succ.inj h))

/-- A write of a word that port B serves stores its four bytes. -/
theorem State.busSet_ocm (hue : s.memUe = []) (hcarried : s.memCarried = []) (h : portBFree s o (4 * y) 4) (v : Word) :
    s.busSet o (ocmBase + 4 * y) v = some ((s.touch (ocmBase + 4 * y) 4).ocmWrite (4 * y) (leBytes 4 v.toNat)) := by
  obtain ⟨-, hend, -⟩ := id h
  have hlen : ((leBytes 4 v.toNat).map some).length = 4 := by rw [List.length_map, length_leBytes]
  have htouch := s.touch_only (ocmBase + 4 * y) 4
  generalize hu : s.touch (ocmBase + 4 * y) 4 = u at htouch ⊢
  have hregion : u.region (ocmBase + 4 * y) = .ocm (4 * y) := regionOf_ocmBase_add _ (by omega)
  have hserved : u.rangeServed (.ocm (4 * y)) 4 = .ok := by rw [htouch]; exact rangeServed_of_portBFree h (by decide)
  have hsecure : (inSecure (4 * y) && u.secureDenies o) = false := by rw [htouch]; exact secure_of_portBFree h (by decide)
  have hframe := State.ocmWrite_frame (leBytes 4 v.toNat) u (4 * y)
  have hstored : u.ocmStore (4 * y) ((leBytes 4 v.toNat).map some) = u.ocmWrite (4 * y) (leBytes 4 v.toNat) := by
    have hall : ((leBytes 4 v.toNat).map some).all (fun v => v.isSome) = true := by simp
    have hnone : ¬ ((leBytes 4 v.toNat).map some).all (fun v => v.isNone) = true := by simp [leBytes]
    rw [State.ocmStore, if_neg hnone, if_pos ⟨hlen, hall⟩, merge_some _ _ (by rw [State.ocmRead_length, length_leBytes]),
      State.ocmClean_eq_self (by rw [hframe, htouch]; exact hue) (by rw [hframe, htouch]; exact hcarried)]
  have hpiece : u.pieceWrite o (ocmBase + 4 * y) ((leBytes 4 v.toNat).map some) = u.ocmWrite (4 * y) (leBytes 4 v.toNat) := by
    rw [State.pieceWrite, hregion]
    dsimp only
    rw [State.ocmGuard, hsecure, if_neg Bool.false_ne_true, hlen, hserved, if_neg Served.noConfusion, hstored]
  rw [State.busSet, State.busPut, not_inRegs_ocm, if_neg Bool.false_ne_true, hlen, State.memStalls_word h, if_neg Bool.false_ne_true,
    State.memStore, hlen, pieces_word y (by omega), hu, List.foldl_cons, List.foldl_nil]
  dsimp only
  rw [Nat.sub_self, List.drop_zero, List.take_of_length_le hlen.le, hpiece]

end

/-! MEAS and WRITE of on-chip memory (R338, R339). -/

section
variable {s : State} {i y : Nat}

theorem State.flowAccess_of_perform {op : FlowOp} {t : State} (hfree : busFree s (.flow i)) (h : s.flowPerform i op = some t) :
    s.flowAccess i op = t := by
  obtain ⟨-, hnone⟩ := hfree
  rw [State.flowAccess, hnone, if_neg Bool.false_ne_true, h]

/-- The value of a MEAS of on-chip memory: the word at offset 4 y, signed where FIELD is 1. -/
def State.memValue (s : State) (i y : Nat) : Int :=
  if bitsOf (s.flowWord i 1) 4 4 = 1 then signedOf 32 (leNat (s.ocmRead (4 * y) 4)) else (leNat (s.ocmRead (4 * y) 4) : Int)

theorem State.memValue_mem (s : State) (i y : Nat) : -(2 ^ 63) ≤ s.memValue i y ∧ s.memValue i y < 2 ^ 63 := by
  have hlt : leNat (s.ocmRead (4 * y) 4) < 2 ^ 32 := by simpa using leNat_lt (s.ocmRead (4 * y) 4)
  unfold State.memValue
  split
  · have hlo := BitVec.le_toInt (BitVec.ofNat 32 (leNat (s.ocmRead (4 * y) 4)))
    have hhi := BitVec.toInt_lt (x := BitVec.ofNat 32 (leNat (s.ocmRead (4 * y) 4)))
    unfold signedOf
    omega
  · omega

theorem State.stepMeas_of_memory (hplain : memPlain s) (hsrc : bitsOf (s.flowWord i 1) 0 4 = 6) (hfield : bitsOf (s.flowWord i 1) 4 4 ≤ 1)
    (haddr : s.stepAddr i = ocmBase + 4 * y) (h : portBFree s (.flow i) (4 * y) 4) :
    s.stepMeas i = (s.setVar i (bitsOf (s.flowWord i 0) 4 4) (s.memValue i y) true).flowNext i := by
  obtain ⟨hue, -⟩ := hplain
  obtain ⟨hfree, -⟩ := id h
  have hword : (word (leNat (s.ocmRead (4 * y) 4))).toNat = leNat (s.ocmRead (4 * y) 4) :=
    (BitVec.toNat_ofNat _ _).trans (Nat.mod_eq_of_lt (by simpa using leNat_lt (s.ocmRead (4 * y) 4)))
  rw [State.stepMeas, if_pos hsrc, if_neg (by omega), haddr]
  refine State.flowAccess_of_perform hfree ?_
  rw [State.flowPerform, State.busWord_ocm hue h, Option.map_some, State.memValue]
  simp only [hword, decide_eq_true_eq]

/-- The word that a WRITE step writes. -/
def State.writeWord (s : State) (i : Nat) : Nat :=
  if bitOf (s.flowWord i 1) 0 then unsignedOf 64 (s.var i (bitsOf (s.flowWord i 0) 8 4)) % 2 ^ 32 else s.flowWord i 4

theorem State.stepWrite_eq (s : State) (i : Nat) : s.stepWrite i = s.flowAccess i (.write (s.stepAddr i) (word (s.writeWord i))) := by
  unfold State.stepWrite State.writeWord
  split
  · exact congrArg (fun w => s.flowAccess i (.write (s.stepAddr i) w)) (BitVec.eq_of_toNat_eq (by simp [word]))
  · rfl

/-- A WRITE step of site i that has stored a word at offset 4 y of on-chip memory. -/
def WordWritten (s t : State) (i y v : Nat) : Prop :=
  t = { s.touch (ocmBase + 4 * y) 4 with regs := t.regs, mem := t.mem, svc := t.svc } ∧ flowBoundary t i (s.flow i) ((s.flow i).step + 1) ∧
    sameRegs [(SVC_STAT_STATE i).addr] s t ∧ (∀ k, k ≠ i → t.flow k = s.flow k) ∧
    ∀ z, z < 0x4000000 → t.ocmByte z = if 4 * y ≤ z ∧ z < 4 * y + 4 then (leBytes 4 v).getD (z - 4 * y) 0 else s.ocmByte z

theorem wordWritten_stepWrite (hplain : memPlain s) (haddr : s.stepAddr i = ocmBase + 4 * y) (h : portBFree s (.flow i) (4 * y) 4) :
    WordWritten s (s.stepWrite i) i y (s.writeWord i) := by
  obtain ⟨hue, hcarried, hcopies, hphys⟩ := hplain
  obtain ⟨hfree, hend, -⟩ := id h
  have hset := State.busSet_ocm hue hcarried h (word (s.writeWord i))
  rw [leBytes_word] at hset
  have htouch := s.touch_only (ocmBase + 4 * y) 4
  generalize hu : s.touch (ocmBase + 4 * y) 4 = u at hset htouch
  have hframe := State.ocmWrite_frame (leBytes 4 (s.writeWord i)) u (4 * y)
  have hapart : u.banksApart := by rw [htouch]; exact ⟨hcopies, hphys⟩
  have hroom : 4 * y + (leBytes 4 (s.writeWord i)).length ≤ 0x4000000 := by rw [length_leBytes]; omega
  have hbytes := fun z (hz : z < 0x4000000) => State.ocmByte_ocmWrite (leBytes 4 (s.writeWord i)) hapart hroom hz
  generalize u.ocmWrite (4 * y) (leBytes 4 (s.writeWord i)) = w at hset hframe hbytes
  have hgo := statStays_flowGo w i ((s.flow i).step + 1)
  have hreg : ∀ a, w.reg a = s.reg a := fun a => by rw [hframe, htouch]; rfl
  have hflow : ∀ k, w.flow k = s.flow k := fun k => by rw [hframe, htouch]; rfl
  have hstep : s.stepWrite i = w.flowGo i ((s.flow i).step + 1) := by
    rw [State.stepWrite_eq, haddr]
    refine State.flowAccess_of_perform hfree ?_
    rw [State.flowPerform, hset, Option.map_some, State.flowSt, State.flowSt, State.get, hreg, State.get, State.get, hreg, State.get,
      if_pos ⟨rfl, rfl⟩, State.flowNext, hflow]
  rw [hstep]
  refine ⟨?_, ?_, fun a ha => ?_, fun k hk => ?_, fun z hz => ?_⟩
  · rw [hu, hgo.state, hframe]
  · rw [← hflow]
    exact flowBoundary_flowGo _ _ _
  · rw [hgo.reg a ha, hreg]
  · rw [hgo.flow k hk, hflow]
  · rw [StatStays.ocmByte hgo hz, hbytes z hz, length_leBytes, htouch]
    rfl

end

/-! The statement. -/

/-- Settles O57: each clause is the rule of its kind of step. -/
theorem flowSteps : Obligations.FlowSteps := by
  unfold Obligations.FlowSteps
  intro s i x f w0 w1 stat vd va vb put varRegs faults
  have runs {kind : Nat} (hkind : kind < 12) (hat : flowAtStep s i x kind) (g : State → State) : s.flowStep i kind g = g s :=
    State.flowStep_of_kind hkind hat g
  have hvd : vd < 16 := bitsOf_lt _ _ _
  have faulted {y : Nat} (h : ringOpen s i y) : faults (s.flowFault i) y := flowFaulted_flowFault i.isLt h
  refine ⟨fun hat => ⟨?_, ?_⟩, fun hat => ⟨?_, ?_⟩, ?_, ?_, ?_, ?_, fun hat => ⟨?_, ?_, ?_⟩, ?_, ?_, ?_, ?_, ?_, ?_⟩
  · intro v ok hgives
    have hput := resultPut_flowNext_sat64 s i vd v ok hvd
    rw [← State.stepCalc_of_gives hgives] at hput
    exact ⟨_, congrArg Host.Outcome.next (runs (by decide) hat _), hput⟩
  · intro y hop hring
    exact ⟨_, congrArg Host.Outcome.next ((runs (by decide) hat _).trans (State.stepCalc_of_reserved hop)), faulted hring⟩
  · intro hlog
    exact ⟨_, congrArg Host.Outcome.next (runs (by decide) hat _), stepLimit_without_record hlog⟩
  · intro y hlog hring
    exact ⟨_, congrArg Host.Outcome.next (runs (by decide) hat _), stepLimit_with_record hlog hring⟩
  · intro hat
    exact ⟨_, congrArg Host.Outcome.next (runs (by decide) hat _), stepBin_only⟩
  · intro hat
    exact ⟨_, congrArg Host.Outcome.next (runs (by decide) hat _), stepJump_only⟩
  · intro hat
    exact ⟨_, congrArg Host.Outcome.next (runs (by decide) hat _), stepWaitFor_only⟩
  · intro what sel since until_ timeout come hwait ends settled
    constructor
    · intro a hends hin
      exact ⟨_, congrArg Host.Outcome.next (State.flowWaitDone_in_time hwait hends hin), waitSettled_flowNext s i a true⟩
    · rintro d rfl hlate
      exact ⟨_, congrArg Host.Outcome.next (State.flowWaitDone_timed_out hwait hlate), waitSettled_flowNext s i d false⟩
  · rintro v ok hgives ⟨hlo, hhi⟩
    have hput := resultPut_flowNext s i vd v ok hvd hlo hhi
    rw [← State.stepMeas_of_gives hgives] at hput
    exact ⟨_, congrArg Host.Outcome.next (runs (by decide) hat _), hput⟩
  · intro y hsrc hfield haddr hfree v
    obtain ⟨hlo, hhi⟩ := s.memValue_mem i y
    obtain ⟨-, -, hplain, -⟩ := id hat
    have hput := resultPut_flowNext s i vd (s.memValue i y) true hvd hlo hhi
    rw [← State.stepMeas_of_memory hplain hsrc hfield haddr hfree] at hput
    exact ⟨_, congrArg Host.Outcome.next (runs (by decide) hat _), hput⟩
  · intro y hsrc hring
    exact ⟨_, congrArg Host.Outcome.next ((runs (by decide) hat _).trans (State.stepMeas_of_reserved hsrc)), faulted hring⟩
  · intro y hat haddr hfree
    obtain ⟨-, -, hplain, -⟩ := id hat
    exact ⟨_, congrArg Host.Outcome.next (runs (by decide) hat _), wordWritten_stepWrite hplain haddr hfree⟩
  · intro k hat hret
    exact ⟨_, congrArg Host.Outcome.next (runs (by decide) hat _), stepHret_only hret⟩
  · intro y hat hret hring
    exact ⟨_, congrArg Host.Outcome.next ((runs (by decide) hat _).trans (State.stepHret_outside hret)), faulted hring⟩
  · intro y hready hpast hring
    have past (kind : Nat) (g : State → State) := State.flowStep_of_past hready hpast kind g
    exact ⟨_, congrArg Host.Outcome.next (past _ _), congrArg Host.Outcome.next (past _ _), congrArg Host.Outcome.next (past _ _), faulted hring⟩
  · intro y k hk hat hring
    have reserved (kind : Nat) (g : State → State) := State.flowStep_of_reserved hk hat kind g
    exact ⟨_, congrArg Host.Outcome.next (reserved _ _), congrArg Host.Outcome.next (reserved _ _), congrArg Host.Outcome.next (reserved _ _),
      faulted hring⟩
  · intro k hne hk hat
    exact congrArg Host.Outcome.next (State.flowStep_of_other hk hne hat _)

end Sys2Proof.Machine
end
